-- ==== Sys2Proof/Word.lean ====
section
/-! DEFINITION. The words the spec counts in: bytes, 32-bit, 64-bit and 128-bit words (R8 to R10). -/

namespace Sys2Proof

abbrev Byte := BitVec 8
abbrev Word32 := BitVec 32
abbrev Word := BitVec 64
abbrev Word128 := BitVec 128

/-- One 64-byte record or line, bit 0 the lowest bit of the byte at the lowest address (R10). -/
abbrev Line := BitVec 512

/-- A package rank, `32 * Y + X` in logical coordinates (R265). -/
abbrev CoreId := Fin 384

/-- A function of the package: VF 0 to 63, and 64 for the PF block (R240, R244). -/
abbrev FnId := Fin 65

end Sys2Proof
end

