-- ==== Sys2Proof/Config.lean ====
section
/-! DEFINITION. Configuration: what an implementation fixes, and the free values. Every constant
here is opaque, so nothing can be proved of its value (log entries 15, 16, 18, 19). -/

namespace Sys2Proof.Config

/-- A byte the spec leaves undefined; applied to the counter `State.fresh` (log 16). -/
opaque freeByte : Nat → Byte

/-- A 64-bit word the spec leaves undefined; applied to the counter `State.fresh` (log 16). -/
opaque freeWord : Nat → Word

/-- A 64-byte block the spec leaves undefined; applied to the counter `State.fresh` (log 16). -/
opaque freeLine : Nat → Line

/-- REASON of a PERM trap in a launch flagged D (R251), which Table 7.4 does not list; applied to the
pointer (log 16). -/
opaque pairedReason : Word → BitVec 4

/-- SHA-512, which R252 and R260 name and do not define (log 15). -/
opaque sha512 : List Byte → Line

/-- HMAC-SHA-512, which R136 names and does not define (log 15): key and bytes. -/
opaque hmacSha512 : BitVec 512 → List Byte → BitVec 512

/-- The key of an owner (R136), made by the security processor and never exported. -/
opaque ownerKey : BitVec 8 → BitVec 512

/-- The MAC key of an owner (R137). -/
opaque macKey : BitVec 8 → BitVec 256

/-- AES-256 in XTS mode (R136): data key, tweak key, tweak and plain bytes. -/
opaque xtsEncrypt : BitVec 256 → BitVec 256 → BitVec 44 → List Byte → List Byte

/-- Its inverse where the keys and the tweak agree; nothing is known of it here (log 15). -/
opaque xtsDecrypt : BitVec 256 → BitVec 256 → BitVec 44 → List Byte → List Byte

/-- AES-256-CMAC (R137): key and bytes. -/
opaque aesCmac : BitVec 256 → List Byte → BitVec 128

/-- The migration key of a VF, which the security processor holds (R246). -/
opaque migrationKey : Nat → BitVec 256

/-- AES-256-GCM's ciphertext of some bytes (R246): key, IV and plain bytes. -/
opaque gcmEncrypt : BitVec 256 → BitVec 128 → List Byte → List Byte

/-- The plain bytes of a ciphertext (R246). -/
opaque gcmDecrypt : BitVec 256 → BitVec 128 → List Byte → List Byte

/-- AES-256-GCM's tag of a ciphertext (R246). -/
opaque gcmTag : BitVec 256 → BitVec 128 → List Byte → BitVec 128

/-- The set of an MSC that holds a 256-byte block: R128 gives the size of a way and no index (log 53). -/
opaque mscSet : Nat → Nat

/-- Whether a firmware microprogram is loaded for `MSOP` operation 8 to 15 (Table 13.2). -/
opaque microLoaded : BitVec 4 → Bool

/-- Alignment that a loaded microprogram asks of its target address, and the bytes from there on that it reads and
rewrites (R342: "as loaded"; log 19). -/
opaque microAlign : BitVec 4 → Nat
opaque microSpan : BitVec 4 → Nat

/-- What a loaded microprogram answers for a target address, the bytes there and an operand block, and the bytes that it
leaves there (Table 13.2 gives no operation). -/
opaque microRun : BitVec 4 → BitVec 64 → List Byte → Line → Line × List Byte

/-- Whether a launch of another package has written its completion record by a slot (R158): nothing that reaches this
package says so (log 24). -/
opaque remoteDone : BitVec 12 → Nat → Nat → Bool

/-- The measurements of a VF's configuration registers and of the shared firmware (R260 gives no layout). -/
opaque vfMeasurement : List Word → Line

/-- The attestation responder's answer to a request (R259 names the requests, not their bytes). -/
opaque attestAnswer : Nat → Nat → Line

/-- The bytes of a command record of the save image, of a kind and its fields in the model's order: the
spec gives the record's size and not its layout (R234; log 18). -/
opaque recordBytes : Nat → List Nat → List Byte

/-- The fields of a command record, of its kind and its bytes (log 18). -/
opaque recordFields : Nat → List Byte → List Nat

/-- The bytes of an export buffer that hold sealed images with their slot numbers, and the export count of their
IVs (R245, R246): the spec gives no layout (log 29). -/
opaque packExport : Nat → List (Nat × List Byte) → List Byte

/-- The export count and the sealed images that an export buffer holds, with their slot numbers (log 29). -/
opaque unpackExport : List Byte → Nat × List (Nat × List Byte)

end Sys2Proof.Config
end

