-- ==== Sys2Proof/Syntax.lean ====
section
/-! DEFINITION. The steps of the package as syntax: one constructor of `Instr` for each row of
spec/opcode_table.json. The first 131 are the instructions that a 128-bit word encodes (R269 to
R276); the rest are the device's own steps and the inputs from outside, whose operands are the
choices a step leaves open. -/

namespace Sys2Proof

/-- Data type codes (Table 4.1). -/
inductive Ty where
  | i32 | n32 | i64 | n64 | i16 | n16 | i8 | n8 | i4 | n4 | bpi
  | f32 | bf16 | f16 | e4m3 | e5m2 | e2m1 | e8m0 | fa56 | i56
  deriving DecidableEq, Repr

/-- Rounding modes (Table 4.3). -/
inductive Rnd where
  | rne | rtz | rdn | rup | rna | sr | dyn
  deriving DecidableEq, Repr

/-- The fields every instruction has a use for: both guards, HINT and STALL (R272, R274). -/
structure Ctl where
  gNeg : Bool
  gFlag : Fin 8
  lNeg : Bool
  lPred : Fin 16
  hint : BitVec 3
  stall : BitVec 4
  deriving DecidableEq, Repr

/-- Operand B of a scalar instruction: a register or IMM32 (R273). -/
inductive SOp where
  | reg (r : Fin 32)
  | imm (i : Word32)
  deriving DecidableEq, Repr

/-- Operand B of a vector instruction (R370). -/
inductive VOp where
  | vec (r : Fin 32)
  | reg (r : Fin 32)
  | imm (i : Word32)
  deriving DecidableEq, Repr

/-- An operand of `MOV` (R341). -/
inductive SM where
  | s (r : Fin 32)
  | m (r : Fin 16)
  deriving DecidableEq, Repr

/-- A pointer operand of the copy engine: a tile or a register (R315). -/
inductive TS where
  | t (r : Fin 32)
  | s (r : Fin 32)
  deriving DecidableEq, Repr

/-- A queue that `QCNT` may name (R351). -/
inductive QB where
  | q (r : Fin 8)
  | bq
  deriving DecidableEq, Repr

/-- Comparison conditions (R312, R369). -/
inductive Cond where
  | eq | ne | lt | le | gt | ge | un
  deriving DecidableEq, Repr

/-- Which half of a product is kept (R343). -/
inductive MulSel where
  | low | highS | highU
  deriving DecidableEq, Repr

/-- The path masks of `XFENCE`: what it covers before it and after it (R388). -/
structure PathMasks where
  before : BitVec 7
  after : BitVec 7
  deriving DecidableEq, Repr

/-- Atomic operations (R302). -/
inductive AtomOp where
  | add | min | max | and | or | xor | swap | cas
  deriving DecidableEq, Repr

/-- Ordering of an atomic (R302). -/
inductive AtomOrd where
  | none | acq | rel | ar
  deriving DecidableEq, Repr

/-- Reductions (R369). -/
inductive RedOp where
  | add | min | max | and | or | xor
  deriving DecidableEq, Repr

/-- Predicate logic (R347). -/
inductive PlogOp where
  | and | or | xor | andn | orn
  deriving DecidableEq, Repr

/-- The two sequencers of a core (R21). -/
inductive SeqId where
  | as | xs
  deriving DecidableEq, Repr

/-- Register blocks that the host writes (Tables 15.10, 15.11, 16.1). -/
inductive RegBlk where
  | pf
  | fn (f : FnId)
  deriving DecidableEq, Repr

/-- How a factor page arrives (R193). -/
inductive PageOutcome where
  | good | poisoned | macFail
  deriving DecidableEq, Repr

/-- What carries a world bit (R256). -/
inductive WorldUnit where
  | core (c : CoreId)
  | engine (e : Fin 7)
  | fn (f : FnId)
  | ctx (x : BitVec 12)
  deriving DecidableEq, Repr

/-- The kinds of remote operation (Table 13.1). -/
inductive RemKind where
  | rld | rst | ratom | msop
  deriving DecidableEq, Repr

/-- Who acts (R142, R158): package, core, sequencer and launch. -/
structure Agent where
  node : BitVec 12
  core : Nat
  seq : SeqId
  launch : Nat
  deriving DecidableEq, Repr

/-- A remote operation on its way (R207, R208). `data` is the value or operand block, `cmp` the
compared value of cas; `grp` lists the cores of the group of its agent when it was issued (R154); `more` lists the
contributions combined into it, each with its agent (R210). -/
structure RemoteOp where
  kind : RemKind
  src : BitVec 12
  dst : BitVec 12
  fn : FnId
  seq : BitVec 32
  addr : Word
  ty : Ty
  op : BitVec 4
  ord : AtomOrd
  add : Bool
  data : Line
  cmp : Word
  ocl : BitVec 4
  scp : BitVec 3
  agent : Agent
  user : Bool
  secure : Bool
  /-- the value carries the secure tag (R257) -/
  sec : Bool
  gen : BitVec 8
  grp : List Nat
  more : List (BitVec 12 × BitVec 32 × Agent)
  deriving DecidableEq, Repr

/-- The answer to a remote operation or message from `src` (R206 to R208, R210, R214). `missed` is the
mark of an extent miss at the target (R207); `full` says that the Retriever had no room (R214). -/
structure RemoteAck where
  src : BitVec 12
  target : BitVec 12
  seq : BitVec 32
  ok : Bool
  tcause : BitVec 8
  key : Bool
  missed : Bool
  full : Bool
  data : Line
  sec : Bool
  deriving DecidableEq, Repr

/-- A message on its way (R214). -/
structure Message where
  src : BitVec 12
  dst : BitVec 12
  ctx : BitVec 12
  tag : BitVec 24
  fn : FnId
  seq : BitVec 32
  bytes : List Byte
  sec : Bool
  deriving DecidableEq, Repr

/-- The steps of opcode_table.json, in the table's order. -/
inductive Instr where
  -- scalar (group 0x0)
  | nop (c : Ctl)
  | add (c : Ctl) (ty : Ty) (sat : Bool) (d a : Fin 32) (b : SOp)
  | sub (c : Ctl) (ty : Ty) (sat : Bool) (d a : Fin 32) (b : SOp)
  | mul (c : Ctl) (ty : Ty) (sel : MulSel) (d a : Fin 32) (b : SOp)
  | div (c : Ctl) (ty : Ty) (rem : Bool) (d a : Fin 32) (b : SOp)
  | and (c : Ctl) (ty : Ty) (d a : Fin 32) (b : SOp)
  | or (c : Ctl) (ty : Ty) (d a : Fin 32) (b : SOp)
  | xor (c : Ctl) (ty : Ty) (d a : Fin 32) (b : SOp)
  | shl (c : Ctl) (ty : Ty) (d a : Fin 32) (b : SOp)
  | shr (c : Ctl) (ty : Ty) (arith : Bool) (d a : Fin 32) (b : SOp)
  | rol (c : Ctl) (ty : Ty) (d a : Fin 32) (b : SOp)
  | min (c : Ctl) (ty : Ty) (d a : Fin 32) (b : SOp)
  | max (c : Ctl) (ty : Ty) (d a : Fin 32) (b : SOp)
  | cmp (c : Ctl) (ty : Ty) (cond : Cond) (d : Fin 8) (a : Fin 32) (b : SOp)
  | sel (c : Ctl) (ty : Ty) (d a : Fin 32) (b : SOp) (fc : Fin 8)
  | li (c : Ctl) (hi : Bool) (d : Fin 32) (imm : Word32)
  | mov (c : Ctl) (d a : SM)
  | clz (c : Ctl) (ty : Ty) (d a : Fin 32)
  | popc (c : Ctl) (ty : Ty) (d a : Fin 32)
  | bfx (c : Ctl) (ty : Ty) (d a : Fin 32) (b : SOp)
  | bfi (c : Ctl) (ty : Ty) (d a : Fin 32) (b : SOp)
  -- control (group 0x1)
  | br (c : Ctl) (off : Word32)
  | jmp (c : Ctl) (a : Fin 32)
  | call (c : Ctl) (d : Fin 32) (off : Word32)
  | ret (c : Ctl) (a : Fin 32)
  | loop (c : Ctl) (d : Fin 32) (off : Word32)
  | bqsend (c : Ctl) (a : Fin 8)
  | bqbr (c : Ctl) (z : Bool) (off : Word32)
  | endSeq (c : Ctl)
  | tail (c : Ctl)
  | mark (c : Ctl) (k : Fin 4) (n : BitVec 8) (mask : BitVec 5)
  | waitmk (c : Ctl) (k : Fin 4) (n : BitVec 8)
  -- memory (group 0x2)
  | ld (c : Ctl) (ty : Ty) (acq : Bool) (ocl : BitVec 4) (scp : BitVec 3) (d a : Fin 32) (off : Word32)
  | st (c : Ctl) (ty : Ty) (rel : Bool) (ocl : BitVec 4) (scp : BitVec 3) (a : Fin 32) (off : Word32) (v : Fin 32)
  | ldv (c : Ctl) (ty : Ty) (ocl : BitVec 4) (d a : Fin 32) (off : Word32) (n : BitVec 4)
  | stv (c : Ctl) (ty : Ty) (ocl : BitVec 4) (a : Fin 32) (off : Word32) (v : Fin 32) (n : BitVec 4)
  | gather (c : Ctl) (d a p i : Fin 32) (bar : Option (Fin 32)) (b : Word32)
  | scatter (c : Ctl) (d t p i : Fin 32) (bar : Option (Fin 32)) (b : Word32)
  | atom (c : Ctl) (ty : Ty) (op : AtomOp) (ord : AtomOrd) (ocl : BitVec 4) (scp : BitVec 3) (d a v : Fin 32) (cmp : Option (Fin 32))
  | fence (c : Ctl) (scp : BitVec 3) (m1 m2 : BitVec 16)
  | xfence (c : Ctl) (scp : BitVec 3) (pm : PathMasks)
  | pref (c : Ctl) (a : Fin 32) (len : Option (Fin 32)) (off : Word32)
  -- queues and supersteps (group 0x3)
  | qpush (c : Ctl) (q : Fin 8) (a : Fin 32)
  | qpop (c : Ctl) (d : Fin 32) (q : Fin 8)
  | qcnt (c : Ctl) (d : Fin 32) (q : QB)
  | bar (c : Ctl) (lw lh : BitVec 3)
  | barAll (c : Ctl)
  | xch (c : Ctl)
  | phase (c : Ctl) (tf tb : Fin 32)
  -- vector integer (group 0x4)
  | vadd (c : Ctl) (ty : Ty) (sat : Bool) (d a : Fin 32) (b : VOp)
  | vsub (c : Ctl) (ty : Ty) (sat : Bool) (d a : Fin 32) (b : VOp)
  | vmul (c : Ctl) (ty : Ty) (sel : MulSel) (sat : Bool) (d a : Fin 32) (b : VOp)
  | vmad (c : Ctl) (ty : Ty) (sat : Bool) (d a : Fin 32) (b : VOp) (e : Fin 32)
  | vand (c : Ctl) (ty : Ty) (d a : Fin 32) (b : VOp)
  | vor (c : Ctl) (ty : Ty) (d a : Fin 32) (b : VOp)
  | vxor (c : Ctl) (ty : Ty) (d a : Fin 32) (b : VOp)
  | vshl (c : Ctl) (ty : Ty) (d a : Fin 32) (b : VOp)
  | vshr (c : Ctl) (ty : Ty) (arith : Bool) (d a : Fin 32) (b : VOp)
  | vmin (c : Ctl) (ty : Ty) (d a : Fin 32) (b : VOp)
  | vmax (c : Ctl) (ty : Ty) (d a : Fin 32) (b : VOp)
  | vcmp (c : Ctl) (ty : Ty) (cond : Cond) (d : Fin 16) (a : Fin 32) (b : VOp)
  | vsel (c : Ctl) (ty : Ty) (d a : Fin 32) (b : VOp) (p : Fin 16)
  | vmov (c : Ctl) (ty : Ty) (d : Fin 32) (b : VOp)
  | viota (c : Ctl) (ty : Ty) (d : Fin 32)
  -- vector float (group 0x5)
  | vfadd (c : Ctl) (rnd : Rnd) (sat : Bool) (d a : Fin 32) (b : VOp)
  | vfmul (c : Ctl) (rnd : Rnd) (sat : Bool) (d a : Fin 32) (b : VOp)
  | vfma (c : Ctl) (rnd : Rnd) (sat : Bool) (d a : Fin 32) (b : VOp) (e : Fin 32)
  | vfmin (c : Ctl) (rnd : Rnd) (sat : Bool) (d a : Fin 32) (b : VOp)
  | vfmax (c : Ctl) (rnd : Rnd) (sat : Bool) (d a : Fin 32) (b : VOp)
  | vfcmp (c : Ctl) (cond : Cond) (d : Fin 16) (a : Fin 32) (b : VOp)
  | vfcvt (c : Ctl) (ty sty : Ty) (k : BitVec 3) (rnd : Rnd) (sat : Bool) (d a : Fin 32)
  | vpadd (c : Ctl) (ty : Ty) (rnd : Rnd) (sat : Bool) (d a : Fin 32) (b : VOp)
  | vpmul (c : Ctl) (ty : Ty) (rnd : Rnd) (sat : Bool) (d a : Fin 32) (b : VOp)
  | vpfma (c : Ctl) (ty : Ty) (rnd : Rnd) (sat : Bool) (d a : Fin 32) (b : VOp) (e : Fin 32)
  -- axis, SFU, quantiser (group 0x6)
  | vrotr (c : Ctl) (ty : Ty) (d a : Fin 32) (b : SOp)
  | vrotc (c : Ctl) (ty : Ty) (d a : Fin 32) (b : SOp)
  | vbcr (c : Ctl) (ty : Ty) (d a : Fin 32) (b : Option SOp)
  | vbcc (c : Ctl) (ty : Ty) (d a : Fin 32) (b : Option SOp)
  | vtrn (c : Ctl) (ty : Ty) (d a : Fin 32)
  | vredr (c : Ctl) (ty : Ty) (op : RedOp) (rnd : Rnd) (sat : Bool) (d a : Fin 32)
  | vredc (c : Ctl) (ty : Ty) (op : RedOp) (rnd : Rnd) (sat : Bool) (d a : Fin 32)
  | vexp2 (c : Ctl) (d a : Fin 32)
  | vlog2 (c : Ctl) (d a : Fin 32)
  | vrcp (c : Ctl) (d a : Fin 32)
  | vrsq (c : Ctl) (d a : Fin 32)
  | vqnt (c : Ctl) (ty : Ty) (rnd : Rnd) (b64 : Bool) (d e a : Fin 32)
  -- predicates and streams (group 0x7)
  | plog (c : Ctl) (op : PlogOp) (d a b : Fin 16)
  | pcnt (c : Ctl) (ffs : Bool) (d : Fin 32) (a : Fin 16)
  | pset (c : Ctl) (pat : Bool) (d : Fin 16) (b : SOp)
  | cspush (c : Ctl) (t a : Fin 32)
  | cspop (c : Ctl) (d t : Fin 32)
  | csbal (c : Ctl) (d : Fin 32) (p : Fin 16) (t : Fin 32)
  -- matrix (group 0x8)
  | mshape (c : Ctl) (ty : Ty) (sp : Bool) (d : Fin 32) (b : SOp)
  | mshapeGrp (c : Ctl) (ty : Ty) (sp : Bool) (d : Fin 32) (b : SOp)
  | mload (c : Ctl) (sp : Bool) (t : Fin 32)
  | mswap (c : Ctl)
  | mmul (c : Ctl) (str : BitVec 2) (last : Bool) (m : Fin 16) (t : Fin 32)
  | mmuls (c : Ctl) (str : BitVec 2) (last : Bool) (m : Fin 16) (t : Fin 32)
  | mzero (c : Ctl) (str : BitVec 2) (m : Fin 16)
  | mdrain (c : Ctl) (str : BitVec 2) (ty : Ty) (rnd : Rnd) (sat : Bool) (t : Fin 32) (m : Fin 16)
  | madpt (c : Ctl) (t : Option (Fin 32)) (b : Fin 32)
  -- adapter (group 0x9)
  | axlt (c : Ctl) (a : Fin 32) (off : Word32) (h : Fin 32)
  | apref (c : Ctl) (h : Fin 32)
  | apub (c : Ctl) (a : Fin 32) (off : Word32) (h : Fin 32)
  | aunpin (c : Ctl) (b : Fin 32)
  -- copy, tile, barrier (group 0xA)
  | cnest (c : Ctl) (lvl : Fin 6) (n : SOp) (ss ds : Fin 32)
  | cpy (c : Ctl) (dst src : TS) (b : SOp) (bar sh : Option (Fin 32))
  | cpym (c : Ctl) (str : BitVec 2) (last : Bool) (d : Fin 32) (src : TS) (b : SOp) (bar : Option (Fin 32)) (m : Fin 16)
  | tbinit (c : Ctl) (a : Fin 32) (n : SOp)
  | tbarv (c : Ctl) (a : Fin 32) (n : SOp)
  | tbwait (c : Ctl) (chk : Bool) (a : Fin 32) (n : SOp)
  | tset (c : Ctl) (t : Fin 32) (n : SOp)
  | tsetDef (c : Ctl) (t a : Fin 32)
  -- messaging, remote, tasks (group 0xB)
  | sendm (c : Ctl) (ocl : BitVec 4) (h a : Fin 32) (off : Word32) (l : Fin 32) (bar : Option (Fin 32))
  | rpost (c : Ctl) (d a : Fin 32) (off : Word32)
  | rcancel (c : Ctl) (d h : Fin 32)
  | rprobe (c : Ctl) (d a : Fin 32) (off : Word32)
  | rld (c : Ctl) (ty : Ty) (acq : Bool) (ocl : BitVec 4) (scp : BitVec 3) (d n a : Fin 32) (off : Word32)
  | rst (c : Ctl) (ty : Ty) (add rel : Bool) (ocl : BitVec 4) (scp : BitVec 3) (n a : Fin 32) (off : Word32) (v : Fin 32) (bar : Option (Fin 32))
  | ratom (c : Ctl) (ty : Ty) (op : AtomOp) (ord : AtomOrd) (ocl : BitVec 4) (scp : BitVec 3) (d n a v : Fin 32) (cmp : Option (Fin 32))
  | msop (c : Ctl) (op : BitVec 4) (ocl : BitVec 4) (n a : Fin 32) (off : Word32) (r bar : Fin 32)
  | cpost (c : Ctl) (a : Fin 32) (off : Word32)
  -- system (group 0xC)
  | trap (c : Ctl) (code : Word32) (a : Option (Fin 32))
  | eret (c : Ctl)
  | mfsr (c : Ctl) (d : Fin 32) (n : BitVec 12) (r : Option (Fin 32))
  | mtsr (c : Ctl) (n : BitVec 12) (a : Fin 32) (r : Option (Fin 32))
  | waiti (c : Ctl) (rel : Bool) (b : SOp)
  | bkpt (c : Ctl) (frz : Bool) (code : BitVec 16)
  | wtclr (c : Ctl) (ocl : BitVec 4) (a : Fin 32) (off : Word32) (l : Fin 32)
  | wtclrRegs (c : Ctl)
  | vainv (c : Ctl) (a : Fin 32) (l : SOp)
  -- effects of register writes
  | mstatFinFault
  | mstatFinKill
  | seedWrite (v : Word32)
  | vpreqWrite (tvp : BitVec 3)
  | rowmvGo (core : CoreId) (v : Word32)
  | eerrClear (core : CoreId)
  | ferrClear (core : CoreId)
  | registerWrite (blk : RegBlk) (off : BitVec 24) (v : Word)
  -- vault rail
  | evacuationChunkCopy (core : CoreId) (bank : Fin 16)
  | vpRailReached
  -- launches
  | launchPortWrite (f : FnId) (sup : Bool) (pcie : Fin 2) (r : Line)
  | kill (f : FnId) (cptr : Word)
  | recordAdmit (id : Nat)
  | regionBalance
  | launchPlace (leaf : Fin 2)
  | contextSave (core : CoreId)
  | contextRestore (id : Nat)
  | preemptTimeout (core : CoreId)
  | sliceBoundary
  | launchDrainComplete (id : Nat)
  | trackerComplete (id : Nat)
  -- collectives
  | barrierComplete (core : CoreId)
  | csbalComplete (core : CoreId)
  | phaseBoundary (core : CoreId)
  | exchangeStepStart (id : Nat)
  | exchangeBeat (core : CoreId)
  | exchangeStepEnd (id : Nat)
  -- results
  | sfuResultLand (core : CoreId)
  | loadResult (core : CoreId) (q : SeqId)
  | remoteVaultAccess (n : Nat)
  | remoteVaultReply (n : Nat)
  | landingRowRetire (core : CoreId) (bank : Fin 16)
  | vaultScrub (core : CoreId) (bank : Fin 16)
  | mscScrub (leaf : Fin 2)
  -- engines
  | copyCommandStart (core : CoreId)
  | copyBlockMove (core : CoreId)
  | cpymFollowonEnqueue (core : CoreId)
  | gatherRow (core : CoreId)
  | matrixCommandExecute (core : CoreId) (n : Nat)
  | matrixPass (core : CoreId) (n : Nat)
  | sidePathLast (core : CoreId) (n : Nat)
  | adapterPageArrive (h : BitVec 20) (ver : BitVec 16) (pageB : Bool) (o : PageOutcome)
  | adapterPageTimeout (core : CoreId) (n : Nat)
  | pinFree (core : CoreId) (pin : Fin 32)
  | markerRetire (core : CoreId) (k : Fin 4) (e : Fin 5)
  -- memory system
  | extentMissRetry (n : Nat)
  | extentMissAbort (n : Nat)
  | extentDescriptorWrite (vf : Fin 64) (i : Fin 64) (d : BitVec 256)
  | acwaysWrite (n : BitVec 4)
  | hbmRequestComplete
  | cxlRelease (lo hi : BitVec 52)
  | cxlSurpriseRelease (lo hi : BitVec 52)
  -- fabric
  | remoteOpArrive (p : RemoteOp)
  | remoteOpAck (a : RemoteAck)
  | remoteOpTimeout (n : Nat)
  | msopResult (n : Nat)
  | rstAddCombine (i j : Nat)
  | linkLaneFailure (l : Fin 6)
  | linkRetrainComplete (l : Fin 6)
  | keyGenerationChange (l : Fin 6)
  | messageArrive (m : Message)
  | messageRetry (n : Nat)
  | messageSendTimeout (n : Nat)
  | messageLandingComplete (core : CoreId)
  -- events, counters, migration
  | eventHeldFlush (f : FnId)
  | counterWrap (core : CoreId) (n : Fin 8)
  | stop (vf : Fin 64)
  | resume (vf : Fin 64)
  | exportVf (vf : Fin 64)
  | discard (vf : Fin 64)
  | importVf (vf : Fin 64)
  | release (vf : Fin 64)
  -- reliability
  | timingReplay (core : CoreId)
  | replayLimitEvent (core : CoreId)
  | scanTestStart (core : CoreId)
  | scanTestAbort (core : CoreId)
  | scanTestComplete (core : CoreId) (pass : Bool) (floors : List (Nat × Nat))
  | logicalMapChange (leaf : Fin 2)
  | pairedCommit (id : Nat)
  | freeze
  | packageReset
  | thermalWarning (t : BitVec 64)
  | thermtrip
  | worldBitSet (u : WorldUnit) (b : Bool)
  | getVersion
  | getCapabilities
  | negotiateAlgorithms
  | getDigests
  | getCertificate
  | challenge
  | getMeasurements (f : FnId) (cptr : Word)
  | railsFall
  | flitReplay (l : Fin 6)
  | matrixCommandFinish (core : CoreId) (n : Nat)
  | mulDivResult (core : CoreId) (q : SeqId)
  | waitiDeadline (core : CoreId) (q : SeqId)
  | class0Preemption (leaf : Fin 2)
  deriving DecidableEq, Repr

end Sys2Proof
end

