-- ==== Sys2Proof/WellFormed.lean ====
section
/-! DEFINITION. Which instructions are well formed: the limits of R267, R270 to R276 and of the
encoding rules R187, R219, R265, R296, R322, R344 and R369 that the constructor's types do not
already give. A word whose instruction is not well formed traps RI. -/

namespace Sys2Proof

/-- Signed integer types. -/
def Ty.signed : Ty → Bool
  | .i32 | .i64 | .i16 | .i8 | .i4 | .i56 => true
  | _ => false

/-- Width in bits (Table 4.1). -/
def Ty.width : Ty → Nat
  | .i32 | .n32 | .f32 => 32
  | .i64 | .n64 => 64
  | .i16 | .n16 | .bf16 | .f16 => 16
  | .i8 | .n8 | .bpi | .e4m3 | .e5m2 | .e8m0 => 8
  | .i4 | .n4 | .e2m1 => 4
  | .fa56 | .i56 => 56

/-- The floating formats of Table 4.2. -/
def Ty.isFloat : Ty → Bool
  | .f32 | .bf16 | .f16 | .e4m3 | .e5m2 | .e2m1 | .fa56 => true
  | _ => false

def Ty.is64 (t : Ty) : Bool := t == .i64 || t == .n64

/-- i64, n64, i32, n32: the types of the scalar instructions (R296). -/
def Ty.scalar : Ty → Bool
  | .i64 | .n64 | .i32 | .n32 => true
  | _ => false

/-- Type set I of R369. -/
def Ty.setI : Ty → Bool
  | .i64 | .n64 | .i32 | .n32 | .i16 | .n16 | .i8 | .n8 => true
  | _ => false

/-- Type set I32 of R369. -/
def Ty.setI32 (t : Ty) : Bool := t.setI && !t.is64

/-- Type set M of R369. -/
def Ty.setM (t : Ty) : Bool := !(t == .fa56 || t == .i56)

/-- Type set A of R369. -/
def Ty.setA (t : Ty) : Bool := t.setM && !t.is64

/-- Type set C of R369. -/
def Ty.setC : Ty → Bool
  | .i32 | .n32 | .i16 | .n16 | .i8 | .n8 | .i4 | .n4 => true
  | .f32 | .bf16 | .f16 | .e4m3 | .e5m2 | .e2m1 => true
  | _ => false

/-- The types of `LD` and `ST` (R322, R344). -/
def Ty.mem (t : Ty) : Bool := t.setI

/-- The modes of the matrix array (Table 11.1). -/
def Ty.mode : Ty → Bool
  | .bf16 | .f16 | .e4m3 | .e5m2 | .i8 | .n8 | .bpi | .e2m1 | .i4 | .n4 => true
  | _ => false

/-- The packed types (R369). -/
def Ty.packed : Ty → Bool
  | .bf16 | .e4m3 | .e5m2 => true
  | _ => false

/-- The neutral lane guard, p15 not negated (R13). -/
def Ctl.noLanes (c : Ctl) : Bool := !c.lNeg && c.lPred == 15

/-- A v operand under a type: even for a 64-bit type (R30). -/
def Ty.pairOk (t : Ty) (r : Fin 32) : Bool := !t.is64 || r.val % 2 == 0

def Ty.vopOk (t : Ty) : VOp → Bool
  | .vec r => t.pairOk r
  | _ => true

/-- The half of a product fits the type (R322, R369). -/
def MulSel.okFor (m : MulSel) (t : Ty) : Bool :=
  match m with
  | .low => true
  | .highS => t.signed
  | .highU => !t.signed

/-- `VFCVT`'s part is one that its types allow (R369, R381). -/
def cvtOk (d s : Ty) (k : BitVec 3) : Bool :=
  d.setC && s.setC && d != s &&
    (if d.width = s.width then k.toNat == 0
     else if d.width < s.width then decide (k.toNat < s.width / d.width)
     else decide (k.toNat < d.width / s.width))

def redOk (t : Ty) (op : RedOp) (sat : Bool) : Bool :=
  (t == .i32 || t == .n32 || t == .f32) &&
    (t != .f32 || op == .add || op == .min || op == .max) && (!sat || op == .add)

/-- SCP has a use only where the access orders (R322, R344; R302 read alike, log 20). -/
def scpOk (ordered : Bool) (scp : BitVec 3) : Bool := ordered || scp == 0

/-- A rank form names only the registers of R265. -/
def srRankOk (n : BitVec 12) (r : Option (Fin 32)) : Bool :=
  r.isNone || (decide (0x040 ≤ n.toNat) && decide (n.toNat ≤ 0x045))

/-- The static limits on an instruction. A device step has none. -/
def Instr.wf : Instr → Bool
  | .nop c => c.noLanes
  | .add c ty _ _ _ _ | .sub c ty _ _ _ _ => c.noLanes && ty.scalar
  | .mul c ty ms _ _ _ => c.noLanes && ty.scalar && ms.okFor ty
  | .div c ty _ _ _ _ => c.noLanes && ty.scalar
  | .and c ty _ _ _ | .or c ty _ _ _ | .xor c ty _ _ _ => c.noLanes && ty.scalar
  | .shl c ty _ _ _ | .shr c ty _ _ _ _ | .rol c ty _ _ _ => c.noLanes && ty.scalar
  | .min c ty _ _ _ | .max c ty _ _ _ => c.noLanes && ty.scalar
  | .cmp c ty cond _ _ _ => c.noLanes && ty.scalar && cond != .un
  | .sel c ty _ _ _ _ => c.noLanes && ty.scalar
  | .li c _ _ _ => c.noLanes
  | .mov c _ _ => c.noLanes
  | .clz c ty _ _ | .popc c ty _ _ => c.noLanes && ty.scalar
  | .bfx c ty _ _ _ | .bfi c ty _ _ _ => c.noLanes && ty.is64
  | .br c _ | .jmp c _ | .call c _ _ | .ret c _ => c.noLanes
  | .loop c d _ => c.noLanes && d != 0
  | .bqsend c _ | .bqbr c _ _ | .endSeq c | .tail c => c.noLanes
  | .mark c _ _ _ | .waitmk c _ _ => c.noLanes
  | .ld c ty acq _ scp _ _ _ => c.noLanes && ty.mem && scpOk acq scp
  | .st c ty rel _ scp _ _ _ => c.noLanes && ty.mem && scpOk rel scp
  | .ldv _ ty _ _ _ _ _ | .stv _ ty _ _ _ _ _ => ty.setA
  | .gather c _ _ _ _ _ _ | .scatter c _ _ _ _ _ _ => c.noLanes
  | .atom c ty op ord _ scp _ _ _ cp =>
      c.noLanes && ty.scalar && (cp.isSome == (op == .cas)) && scpOk (ord != .none) scp
  | .fence c _ _ _ | .xfence c _ _ | .pref c _ _ _ => c.noLanes
  | .qpush c _ _ | .qpop c _ _ | .qcnt c _ _ => c.noLanes
  | .bar c lw lh => c.noLanes && decide (lw.toNat ≤ 5) && decide (lh.toNat ≤ 3)
  | .barAll c | .xch c | .phase c _ _ => c.noLanes
  | .vadd _ ty _ d a b | .vsub _ ty _ d a b => ty.setI && ty.pairOk d && ty.pairOk a && ty.vopOk b
  | .vmul _ ty ms sat _ _ _ => ty.setI32 && ms.okFor ty && (!sat || ms == .low)
  | .vmad _ ty _ _ _ _ _ => ty.setI32
  | .vand _ ty d a b | .vor _ ty d a b | .vxor _ ty d a b | .vshl _ ty d a b | .vshr _ ty _ d a b
  | .vmin _ ty d a b | .vmax _ ty d a b => ty.setI && ty.pairOk d && ty.pairOk a && ty.vopOk b
  | .vcmp _ ty cond _ a b => ty.scalar && cond != .un && ty.pairOk a && ty.vopOk b
  | .vsel _ ty d a b _ => ty.setM && ty.pairOk d && ty.pairOk a && ty.vopOk b
  | .vmov _ ty d b => ty.setM && ty.pairOk d && ty.vopOk b
  | .viota _ ty _ => ty == .i32 || ty == .n32
  | .vfadd _ _ _ _ _ _ | .vfmul _ _ _ _ _ _ | .vfma _ _ _ _ _ _ _ => true
  | .vfmin _ _ _ _ _ _ | .vfmax _ _ _ _ _ _ | .vfcmp _ _ _ _ _ => true
  | .vfcvt _ ty sty k _ _ _ _ => cvtOk ty sty k
  | .vpadd _ ty _ _ _ _ _ | .vpmul _ ty _ _ _ _ _ | .vpfma _ ty _ _ _ _ _ _ => ty.packed
  | .vrotr _ ty _ _ _ | .vrotc _ ty _ _ _ | .vbcr _ ty _ _ _ | .vbcc _ ty _ _ _ | .vtrn _ ty _ _ => ty.setA
  | .vredr _ ty op _ sat _ _ | .vredc _ ty op _ sat _ _ => redOk ty op sat
  | .vexp2 _ _ _ | .vlog2 _ _ _ | .vrcp _ _ _ | .vrsq _ _ _ => true
  | .vqnt c ty _ _ d e _ => c.noLanes && (ty == .e2m1 || ty == .e4m3 || ty == .e5m2) && d != e
  | .plog _ _ _ _ _ | .pcnt _ _ _ _ | .pset _ _ _ _ | .cspush _ _ _ => true
  | .cspop c _ _ | .csbal c _ _ _ => c.noLanes
  | .mshape c ty _ _ _ | .mshapeGrp c ty _ _ _ => c.noLanes && ty.mode
  | .mload c _ _ | .mswap c | .mmul c _ _ _ _ | .mmuls c _ _ _ _ | .mzero c _ _ => c.noLanes
  | .mdrain c _ _ _ _ _ _ | .madpt c _ _ => c.noLanes
  | .axlt c _ _ _ | .apref c _ | .apub c _ _ _ | .aunpin c _ => c.noLanes
  | .cnest c _ _ _ _ | .cpy c _ _ _ _ _ | .cpym c _ _ _ _ _ _ _ => c.noLanes
  | .tbinit c _ _ | .tbarv c _ _ | .tbwait c _ _ _ | .tset c _ _ | .tsetDef c _ _ => c.noLanes
  | .sendm c _ _ _ _ _ _ | .rpost c _ _ _ | .rcancel c _ _ | .rprobe c _ _ _ => c.noLanes
  | .rld c ty acq _ scp _ _ _ _ => c.noLanes && ty.scalar && scpOk acq scp
  | .rst c ty ad rel _ scp _ _ _ _ _ =>
      c.noLanes && (ty.scalar || (ty == .f32 && ad)) && scpOk rel scp
  | .ratom c ty op ord _ scp _ _ _ _ cp =>
      c.noLanes && ty.scalar && (cp.isSome == (op == .cas)) && scpOk (ord != .none) scp
  | .msop c op _ _ _ _ _ _ => c.noLanes && (decide (op.toNat < 5) || decide (8 ≤ op.toNat))
  | .cpost c _ _ | .trap c _ _ | .eret c => c.noLanes
  | .mfsr c _ n r | .mtsr c n _ r => c.noLanes && srRankOk n r
  | .waiti c _ _ | .bkpt c _ _ | .wtclr c _ _ _ _ | .wtclrRegs c | .vainv c _ _ => c.noLanes
  | .mstatFinFault | .mstatFinKill | .seedWrite _ | .vpreqWrite _ | .rowmvGo _ _ | .eerrClear _
  | .ferrClear _ | .registerWrite _ _ _ | .evacuationChunkCopy _ _ | .vpRailReached
  | .launchPortWrite _ _ _ _ | .kill _ _ | .recordAdmit _ | .regionBalance | .launchPlace _
  | .contextSave _ | .contextRestore _ | .preemptTimeout _ | .sliceBoundary | .launchDrainComplete _
  | .trackerComplete _ | .barrierComplete _ | .csbalComplete _ | .phaseBoundary _
  | .exchangeStepStart _ | .exchangeBeat _ | .exchangeStepEnd _ | .sfuResultLand _ | .loadResult _ _
  | .remoteVaultAccess _ | .remoteVaultReply _ | .landingRowRetire _ _ | .vaultScrub _ _ | .mscScrub _
  | .copyCommandStart _ | .copyBlockMove _ | .cpymFollowonEnqueue _ | .gatherRow _
  | .matrixCommandExecute _ _ | .matrixPass _ _ | .sidePathLast _ _ | .adapterPageArrive _ _ _ _
  | .adapterPageTimeout _ _ | .pinFree _ _ | .markerRetire _ _ _ | .extentMissRetry _
  | .extentMissAbort _ | .extentDescriptorWrite _ _ _ | .acwaysWrite _ | .hbmRequestComplete
  | .cxlRelease _ _ | .cxlSurpriseRelease _ _ | .remoteOpArrive _ | .remoteOpAck _
  | .remoteOpTimeout _ | .msopResult _ | .rstAddCombine _ _ | .linkLaneFailure _
  | .linkRetrainComplete _ | .keyGenerationChange _ | .messageArrive _ | .messageRetry _
  | .messageSendTimeout _ | .messageLandingComplete _ | .eventHeldFlush _ | .counterWrap _ _ | .stop _
  | .resume _ | .exportVf _ | .discard _ | .importVf _ | .release _ | .timingReplay _
  | .replayLimitEvent _ | .scanTestStart _ | .scanTestAbort _ | .scanTestComplete _ _ _
  | .logicalMapChange _ | .pairedCommit _ | .freeze | .packageReset | .thermalWarning _ | .thermtrip
  | .worldBitSet _ _ | .getVersion | .getCapabilities | .negotiateAlgorithms | .getDigests
  | .getCertificate | .challenge | .getMeasurements _ _ | .railsFall | .flitReplay _
  | .matrixCommandFinish _ _ | .mulDivResult _ _ | .waitiDeadline _ _ | .class0Preemption _ => true

/-- The rows that an instruction word encodes, and not a step of the device. -/
def Instr.isWord : Instr → Bool
  | .mstatFinFault | .mstatFinKill | .seedWrite _ | .vpreqWrite _ | .rowmvGo _ _ | .eerrClear _
  | .ferrClear _ | .registerWrite _ _ _ | .evacuationChunkCopy _ _ | .vpRailReached
  | .launchPortWrite _ _ _ _ | .kill _ _ | .recordAdmit _ | .regionBalance | .launchPlace _
  | .contextSave _ | .contextRestore _ | .preemptTimeout _ | .sliceBoundary | .launchDrainComplete _
  | .trackerComplete _ | .barrierComplete _ | .csbalComplete _ | .phaseBoundary _
  | .exchangeStepStart _ | .exchangeBeat _ | .exchangeStepEnd _ | .sfuResultLand _ | .loadResult _ _
  | .remoteVaultAccess _ | .remoteVaultReply _ | .landingRowRetire _ _ | .vaultScrub _ _ | .mscScrub _
  | .copyCommandStart _ | .copyBlockMove _ | .cpymFollowonEnqueue _ | .gatherRow _
  | .matrixCommandExecute _ _ | .matrixPass _ _ | .sidePathLast _ _ | .adapterPageArrive _ _ _ _
  | .adapterPageTimeout _ _ | .pinFree _ _ | .markerRetire _ _ _ | .extentMissRetry _
  | .extentMissAbort _ | .extentDescriptorWrite _ _ _ | .acwaysWrite _ | .hbmRequestComplete
  | .cxlRelease _ _ | .cxlSurpriseRelease _ _ | .remoteOpArrive _ | .remoteOpAck _
  | .remoteOpTimeout _ | .msopResult _ | .rstAddCombine _ _ | .linkLaneFailure _
  | .linkRetrainComplete _ | .keyGenerationChange _ | .messageArrive _ | .messageRetry _
  | .messageSendTimeout _ | .messageLandingComplete _ | .eventHeldFlush _ | .counterWrap _ _ | .stop _
  | .resume _ | .exportVf _ | .discard _ | .importVf _ | .release _ | .timingReplay _
  | .replayLimitEvent _ | .scanTestStart _ | .scanTestAbort _ | .scanTestComplete _ _ _
  | .logicalMapChange _ | .pairedCommit _ | .freeze | .packageReset | .thermalWarning _ | .thermtrip
  | .worldBitSet _ _ | .getVersion | .getCapabilities | .negotiateAlgorithms | .getDigests
  | .getCertificate | .challenge | .getMeasurements _ _ | .railsFall | .flitReplay _
  | .matrixCommandFinish _ _ | .mulDivResult _ _ | .waitiDeadline _ _ | .class0Preemption _ => false
  | _ => true

end Sys2Proof
end

