-- ==== Sys2Proof/Decode.lean ====
section
/-! DEFINITION. The instruction word (R269): its fields, the encoder written from the encoding
tables, and the decoder. The decoder reads the operands that an opcode's form names and then
requires that the instruction read is well formed and that its encoding is the word itself; every
unused field must therefore hold its neutral value (R270), every operand code must name the file
the form gives (R271), and every reserved bit must be zero. -/

namespace Sys2Proof

/-- The fields of Table 18.1. The reserved bits 95:88 are no field: they are zero in every word. -/
structure Fields where
  imm : Word32 := 0
  sat : BitVec 1 := 0
  rnd : BitVec 3 := 0
  ty : BitVec 6 := 0
  stall : BitVec 4 := 0
  scp : BitVec 3 := 0
  ocl : BitVec 4 := 0
  hint : BitVec 3 := 0
  immf : BitVec 1 := 0
  gl : BitVec 5 := 0b01111
  gs : BitVec 4 := 0b0111
  oe : BitVec 8 := 0xFF
  oc : BitVec 8 := 0xFF
  ob : BitVec 8 := 0xFF
  oa : BitVec 8 := 0xFF
  od : BitVec 8 := 0xFF
  fn : BitVec 4 := 0
  opc : BitVec 10 := 0
  deriving DecidableEq, Repr

/-- The word of some fields (Table 18.1). -/
def Fields.pack (f : Fields) : Word128 :=
  f.imm ++ 0#8 ++ f.sat ++ f.rnd ++ f.ty ++ f.stall ++ f.scp ++ f.ocl ++ f.hint ++ f.immf ++ f.gl
    ++ f.gs ++ f.oe ++ f.oc ++ f.ob ++ f.oa ++ f.od ++ f.fn ++ f.opc

/-- The fields of a word (Table 18.1). -/
def Fields.unpack (w : Word128) : Fields where
  imm := w.extractLsb' 96 32
  sat := w.extractLsb' 87 1
  rnd := w.extractLsb' 84 3
  ty := w.extractLsb' 78 6
  stall := w.extractLsb' 74 4
  scp := w.extractLsb' 71 3
  ocl := w.extractLsb' 67 4
  hint := w.extractLsb' 64 3
  immf := w.extractLsb' 63 1
  gl := w.extractLsb' 58 5
  gs := w.extractLsb' 54 4
  oe := w.extractLsb' 46 8
  oc := w.extractLsb' 38 8
  ob := w.extractLsb' 30 8
  oa := w.extractLsb' 22 8
  od := w.extractLsb' 14 8
  fn := w.extractLsb' 10 4
  opc := w.extractLsb' 0 10

/-! ## Codes -/

/-- Table 4.1. -/
def Ty.code : Ty → BitVec 6
  | .i32 => 0x00 | .n32 => 0x01 | .i64 => 0x02 | .n64 => 0x03 | .i16 => 0x06 | .n16 => 0x07
  | .i8 => 0x08 | .n8 => 0x09 | .i4 => 0x0A | .n4 => 0x0B | .bpi => 0x0C | .f32 => 0x10
  | .bf16 => 0x11 | .f16 => 0x12 | .e4m3 => 0x13 | .e5m2 => 0x14 | .e2m1 => 0x15 | .e8m0 => 0x16
  | .fa56 => 0x18 | .i56 => 0x19

/-- The type of a code; `none` for a code that Table 4.1 does not list (R67). -/
def Ty.ofCode (c : Nat) : Option Ty :=
  match c with
  | 0x00 => some .i32 | 0x01 => some .n32 | 0x02 => some .i64 | 0x03 => some .n64
  | 0x06 => some .i16 | 0x07 => some .n16 | 0x08 => some .i8 | 0x09 => some .n8
  | 0x0A => some .i4 | 0x0B => some .n4 | 0x0C => some .bpi | 0x10 => some .f32
  | 0x11 => some .bf16 | 0x12 => some .f16 | 0x13 => some .e4m3 | 0x14 => some .e5m2
  | 0x15 => some .e2m1 | 0x16 => some .e8m0 | 0x18 => some .fa56 | 0x19 => some .i56
  | _ => none

/-- Table 4.3. -/
def Rnd.code : Rnd → BitVec 3
  | .rne => 0 | .rtz => 1 | .rdn => 2 | .rup => 3 | .rna => 4 | .sr => 5 | .dyn => 6

def Rnd.ofCode (c : Nat) : Option Rnd :=
  match c with
  | 0 => some .rne | 1 => some .rtz | 2 => some .rdn | 3 => some .rup | 4 => some .rna
  | 5 => some .sr | 6 => some .dyn | _ => none

def Cond.code : Cond → BitVec 4
  | .eq => 0 | .ne => 1 | .lt => 2 | .le => 3 | .gt => 4 | .ge => 5 | .un => 6

def Cond.ofCode (c : Nat) : Option Cond :=
  match c with
  | 0 => some .eq | 1 => some .ne | 2 => some .lt | 3 => some .le | 4 => some .gt | 5 => some .ge
  | 6 => some .un | _ => none

def MulSel.code : MulSel → BitVec 4
  | .low => 0 | .highS => 1 | .highU => 2

def MulSel.ofCode (c : Nat) : Option MulSel :=
  match c with
  | 0 => some .low | 1 => some .highS | 2 => some .highU | _ => none

def AtomOp.code : AtomOp → BitVec 4
  | .add => 0 | .min => 1 | .max => 2 | .and => 3 | .or => 4 | .xor => 5 | .swap => 6 | .cas => 7

def AtomOp.ofCode (c : Nat) : Option AtomOp :=
  match c with
  | 0 => some .add | 1 => some .min | 2 => some .max | 3 => some .and | 4 => some .or
  | 5 => some .xor | 6 => some .swap | 7 => some .cas | _ => none

def AtomOrd.code : AtomOrd → Word32
  | .none => 0 | .acq => 1 | .rel => 2 | .ar => 3

def AtomOrd.ofCode (c : Nat) : Option AtomOrd :=
  match c with
  | 0 => some .none | 1 => some .acq | 2 => some .rel | 3 => some .ar | _ => Option.none

def RedOp.code : RedOp → BitVec 4
  | .add => 0 | .min => 1 | .max => 2 | .and => 3 | .or => 4 | .xor => 5

def RedOp.ofCode (c : Nat) : Option RedOp :=
  match c with
  | 0 => some .add | 1 => some .min | 2 => some .max | 3 => some .and | 4 => some .or
  | 5 => some .xor | _ => none

def PlogOp.code : PlogOp → BitVec 4
  | .and => 0 | .or => 1 | .xor => 2 | .andn => 3 | .orn => 4

def PlogOp.ofCode (c : Nat) : Option PlogOp :=
  match c with
  | 0 => some .and | 1 => some .or | 2 => some .xor | 3 => some .andn | 4 => some .orn | _ => none

/-- Operand codes (Table 18.2). -/
def cS (r : Fin 32) : BitVec 8 := BitVec.ofNat 8 r.val
def cV (r : Fin 32) : BitVec 8 := BitVec.ofNat 8 (0x20 + r.val)
def cP (r : Fin 16) : BitVec 8 := BitVec.ofNat 8 (0x40 + r.val)
def cF (r : Fin 8) : BitVec 8 := BitVec.ofNat 8 (0x60 + r.val)
def cQ (r : Fin 8) : BitVec 8 := BitVec.ofNat 8 (0x80 + r.val)
def cT (r : Fin 32) : BitVec 8 := BitVec.ofNat 8 (0xA0 + r.val)
def cM (r : Fin 16) : BitVec 8 := BitVec.ofNat 8 (0xC0 + r.val)
def cK (r : Fin 4) : BitVec 8 := BitVec.ofNat 8 (0xD0 + r.val)
def cBq : BitVec 8 := 0x88
def cNone : BitVec 8 := 0xFF

def cSo (o : Option (Fin 32)) : BitVec 8 := match o with | some r => cS r | none => cNone
def cTo (o : Option (Fin 32)) : BitVec 8 := match o with | some r => cT r | none => cNone

def SM.code : SM → BitVec 8
  | .s r => cS r
  | .m r => cM r

def TS.code : TS → BitVec 8
  | .t r => cT r
  | .s r => cS r

def QB.code : QB → BitVec 8
  | .q r => cQ r
  | .bq => cBq

/-- Register numbers of operand codes; the file is checked by encoding again. -/
def r32 (b : BitVec 8) : Fin 32 := ⟨b.toNat % 32, Nat.mod_lt _ (by decide)⟩
def r16 (b : BitVec 8) : Fin 16 := ⟨b.toNat % 16, Nat.mod_lt _ (by decide)⟩
def r8 (b : BitVec 8) : Fin 8 := ⟨b.toNat % 8, Nat.mod_lt _ (by decide)⟩
def r4 (b : BitVec 8) : Fin 4 := ⟨b.toNat % 4, Nat.mod_lt _ (by decide)⟩
def ro32 (b : BitVec 8) : Option (Fin 32) := if b = cNone then none else some (r32 b)
def rSM (b : BitVec 8) : SM := if b.toNat < 0xC0 then .s (r32 b) else .m (r16 b)
def rTS (b : BitVec 8) : TS := if b.toNat < 0xA0 then .s (r32 b) else .t (r32 b)
def rQB (b : BitVec 8) : QB := if b.toNat < 0x88 then .q (r8 b) else .bq

/-! ## Writing fields -/

/-- The fields of an instruction with its guards, HINT and STALL set and the rest neutral. -/
def Ctl.fields (c : Ctl) (opc : BitVec 10) (fn : BitVec 4) : Fields :=
  { opc := opc, fn := fn, hint := c.hint, stall := c.stall
    gs := BitVec.ofBool c.gNeg ++ BitVec.ofNat 3 c.gFlag.val
    gl := BitVec.ofBool c.lNeg ++ BitVec.ofNat 4 c.lPred.val }

def Fields.ctl (f : Fields) : Ctl where
  gNeg := f.gs.getLsbD 3
  gFlag := ⟨f.gs.toNat % 8, Nat.mod_lt _ (by decide)⟩
  lNeg := f.gl.getLsbD 4
  lPred := ⟨f.gl.toNat % 16, Nat.mod_lt _ (by decide)⟩
  hint := f.hint
  stall := f.stall

namespace Fields

def wTy (f : Fields) (t : Ty) : Fields := { f with ty := t.code }
def wRnd (f : Fields) (r : Rnd) : Fields := { f with rnd := r.code }
def wSat (f : Fields) (b : Bool) : Fields := { f with sat := BitVec.ofBool b }
def wD (f : Fields) (c : BitVec 8) : Fields := { f with od := c }
def wA (f : Fields) (c : BitVec 8) : Fields := { f with oa := c }
def wB (f : Fields) (c : BitVec 8) : Fields := { f with ob := c }
def wC (f : Fields) (c : BitVec 8) : Fields := { f with oc := c }
def wE (f : Fields) (c : BitVec 8) : Fields := { f with oe := c }
def wImm (f : Fields) (i : Word32) : Fields := { f with imm := i }
def wOcl (f : Fields) (o : BitVec 4) : Fields := { f with ocl := o }
def wScp (f : Fields) (s : BitVec 3) : Fields := { f with scp := s }

/-- Operand B as an immediate (R273). -/
def wBi (f : Fields) (i : Word32) : Fields := { f with immf := 1, imm := i }

def wS (f : Fields) : SOp → Fields
  | .reg r => f.wB (cS r)
  | .imm i => f.wBi i

def wSo (f : Fields) : Option SOp → Fields
  | some b => f.wS b
  | none => f

def wV (f : Fields) : VOp → Fields
  | .vec r => f.wB (cV r)
  | .reg r => f.wB (cS r)
  | .imm i => f.wBi i

/-- Scalar operand B read back. -/
def sop (f : Fields) : SOp := if f.immf = 1 then .imm f.imm else .reg (r32 f.ob)
def sopo (f : Fields) : Option SOp :=
  if f.immf = 1 then some (.imm f.imm) else if f.ob = cNone then none else some (.reg (r32 f.ob))
def vop (f : Fields) : VOp :=
  if f.immf = 1 then .imm f.imm else if f.ob.toNat < 0x20 then .reg (r32 f.ob) else .vec (r32 f.ob)
def satB (f : Fields) : Bool := f.sat.getLsbD 0
def fn0 (f : Fields) : Bool := f.fn.getLsbD 0
def fn1 (f : Fields) : Bool := f.fn.getLsbD 1
def fn2 (f : Fields) : Bool := f.fn.getLsbD 2

end Fields

/-- FN of one bit. -/
def fnB (b : Bool) : BitVec 4 := BitVec.zeroExtend 4 (BitVec.ofBool b)
/-- FN of two one-bit fields, bit 0 first. -/
def fnBB (b0 b1 : Bool) : BitVec 4 := 0#2 ++ BitVec.ofBool b1 ++ BitVec.ofBool b0
/-- FN of a stream number and `.last` (Table 11.3). -/
def fnStr (s : BitVec 2) (last : Bool) : BitVec 4 := 0#1 ++ BitVec.ofBool last ++ s

/-! ## The encoder -/

/-- The fields of an instruction, from Tables 11.3, 13.4, 19.1, 20.1, 21.1, 22.1 and the tables of
R258 and R265; `none` for a device step, which no word encodes. -/
def Instr.fields : Instr → Option Fields
  | .nop c => some (c.fields 0x000 0)
  | .add c ty sat d a b => some (((((c.fields 0x001 0).wTy ty).wSat sat).wD (cS d)).wA (cS a) |>.wS b)
  | .sub c ty sat d a b => some (((((c.fields 0x002 0).wTy ty).wSat sat).wD (cS d)).wA (cS a) |>.wS b)
  | .mul c ty ms d a b => some ((((c.fields 0x003 ms.code).wTy ty).wD (cS d)).wA (cS a) |>.wS b)
  | .div c ty rem d a b =>
      some ((((c.fields 0x004 (fnBB rem (!ty.signed))).wTy ty).wD (cS d)).wA (cS a) |>.wS b)
  | .and c ty d a b => some ((((c.fields 0x005 0).wTy ty).wD (cS d)).wA (cS a) |>.wS b)
  | .or c ty d a b => some ((((c.fields 0x006 0).wTy ty).wD (cS d)).wA (cS a) |>.wS b)
  | .xor c ty d a b => some ((((c.fields 0x007 0).wTy ty).wD (cS d)).wA (cS a) |>.wS b)
  | .shl c ty d a b => some ((((c.fields 0x008 0).wTy ty).wD (cS d)).wA (cS a) |>.wS b)
  | .shr c ty ar d a b => some ((((c.fields 0x009 (fnB ar)).wTy ty).wD (cS d)).wA (cS a) |>.wS b)
  | .rol c ty d a b => some ((((c.fields 0x00A 0).wTy ty).wD (cS d)).wA (cS a) |>.wS b)
  | .min c ty d a b => some ((((c.fields 0x00B 0).wTy ty).wD (cS d)).wA (cS a) |>.wS b)
  | .max c ty d a b => some ((((c.fields 0x00C 0).wTy ty).wD (cS d)).wA (cS a) |>.wS b)
  | .cmp c ty cond d a b => some ((((c.fields 0x00D cond.code).wTy ty).wD (cF d)).wA (cS a) |>.wS b)
  | .sel c ty d a b fc => some (((((c.fields 0x00E 0).wTy ty).wD (cS d)).wA (cS a)).wC (cF fc) |>.wS b)
  | .li c hi d imm => some ((((c.fields 0x00F (fnB hi)).wTy .i64).wD (cS d)).wBi imm)
  | .mov c d a => some ((((c.fields 0x010 0).wTy .i64).wD d.code).wA a.code)
  | .clz c ty d a => some ((((c.fields 0x011 0).wTy ty).wD (cS d)).wA (cS a))
  | .popc c ty d a => some ((((c.fields 0x012 0).wTy ty).wD (cS d)).wA (cS a))
  | .bfx c ty d a b => some ((((c.fields 0x013 0).wTy ty).wD (cS d)).wA (cS a) |>.wS b)
  | .bfi c ty d a b => some ((((c.fields 0x014 0).wTy ty).wD (cS d)).wA (cS a) |>.wS b)
  | .br c off => some ((c.fields 0x040 0).wImm off)
  | .jmp c a => some ((c.fields 0x041 0).wA (cS a))
  | .call c d off => some (((c.fields 0x042 0).wD (cS d)).wImm off)
  | .ret c a => some ((c.fields 0x043 0).wA (cS a))
  | .loop c d off => some (((c.fields 0x044 0).wD (cS d)).wImm off)
  | .bqsend c a => some (((c.fields 0x045 0).wD cBq).wA (cF a))
  | .bqbr c z off => some (((c.fields 0x046 (fnB z)).wA cBq).wImm off)
  | .endSeq c => some (c.fields 0x047 0)
  | .tail c => some (c.fields 0x048 0)
  | .mark c k n mask => some (((c.fields 0x049 0).wD (cK k)).wImm (0#19 ++ mask ++ n))
  | .waitmk c k n => some (((c.fields 0x04A 0).wA (cK k)).wImm (0#24 ++ n))
  | .ld c ty acq ocl scp d a off =>
      some (((((((c.fields 0x080 (fnB acq)).wTy ty).wOcl ocl).wScp scp).wD (cS d)).wA (cS a)).wImm off)
  | .st c ty rel ocl scp a off v =>
      some (((((((c.fields 0x081 (fnB rel)).wTy ty).wOcl ocl).wScp scp).wA (cS a)).wB (cS v)).wImm off)
  | .ldv c ty ocl d a off n =>
      some ((((((c.fields 0x082 n).wTy ty).wOcl ocl).wD (cV d)).wA (cS a)).wImm off)
  | .stv c ty ocl a off v n =>
      some ((((((c.fields 0x083 n).wTy ty).wOcl ocl).wA (cS a)).wB (cV v)).wImm off)
  | .gather c d a p i br1 b =>
      some ((((((c.fields 0x084 0).wD (cT d)).wA (cS a)).wB (cS p)).wC (cT i)).wE (cSo br1) |>.wImm b)
  | .scatter c d t p i br1 b =>
      some ((((((c.fields 0x085 0).wD (cS d)).wA (cT t)).wB (cS p)).wC (cT i)).wE (cSo br1) |>.wImm b)
  | .atom c ty op ord ocl scp d a v cp =>
      some (((((((((c.fields 0x086 op.code).wTy ty).wOcl ocl).wScp scp).wD (cS d)).wA (cS a)).wB (cS v)).wE
        (cSo cp)).wImm ord.code)
  | .fence c scp m1 m2 => some (((c.fields 0x087 0).wScp scp).wImm (m2 ++ m1))
  | .xfence c scp pm => some (((c.fields 0x088 0).wScp scp).wImm (0#9 ++ pm.after ++ 0#9 ++ pm.before))
  | .pref c a len off => some ((((c.fields 0x089 0).wA (cS a)).wB (cSo len)).wImm off)
  | .qpush c q a => some (((c.fields 0x0C0 0).wD (cQ q)).wA (cS a))
  | .qpop c d q => some (((c.fields 0x0C1 0).wD (cS d)).wA (cQ q))
  | .qcnt c d q => some (((c.fields 0x0C2 0).wD (cS d)).wA q.code)
  | .bar c lw lh => some ((c.fields 0x0C3 0).wImm (0#25 ++ lh ++ 0#1 ++ lw))
  | .barAll c => some (c.fields 0x0C3 1)
  | .xch c => some (c.fields 0x0C4 0)
  | .phase c tf tb => some (((c.fields 0x0C5 0).wA (cT tf)).wB (cT tb))
  | .vadd c ty sat d a b => some (((((c.fields 0x100 0).wTy ty).wSat sat).wD (cV d)).wA (cV a) |>.wV b)
  | .vsub c ty sat d a b => some (((((c.fields 0x101 0).wTy ty).wSat sat).wD (cV d)).wA (cV a) |>.wV b)
  | .vmul c ty ms sat d a b =>
      some (((((c.fields 0x102 ms.code).wTy ty).wSat sat).wD (cV d)).wA (cV a) |>.wV b)
  | .vmad c ty sat d a b e =>
      some ((((((c.fields 0x103 0).wTy ty).wSat sat).wD (cV d)).wA (cV a)).wC (cV e) |>.wV b)
  | .vand c ty d a b => some ((((c.fields 0x104 0).wTy ty).wD (cV d)).wA (cV a) |>.wV b)
  | .vor c ty d a b => some ((((c.fields 0x105 0).wTy ty).wD (cV d)).wA (cV a) |>.wV b)
  | .vxor c ty d a b => some ((((c.fields 0x106 0).wTy ty).wD (cV d)).wA (cV a) |>.wV b)
  | .vshl c ty d a b => some ((((c.fields 0x107 0).wTy ty).wD (cV d)).wA (cV a) |>.wV b)
  | .vshr c ty ar d a b => some ((((c.fields 0x108 (fnB ar)).wTy ty).wD (cV d)).wA (cV a) |>.wV b)
  | .vmin c ty d a b => some ((((c.fields 0x109 0).wTy ty).wD (cV d)).wA (cV a) |>.wV b)
  | .vmax c ty d a b => some ((((c.fields 0x10A 0).wTy ty).wD (cV d)).wA (cV a) |>.wV b)
  | .vcmp c ty cond d a b => some ((((c.fields 0x10B cond.code).wTy ty).wD (cP d)).wA (cV a) |>.wV b)
  | .vsel c ty d a b p => some (((((c.fields 0x10C 0).wTy ty).wD (cV d)).wA (cV a)).wC (cP p) |>.wV b)
  | .vmov c ty d b => some (((c.fields 0x10D 0).wTy ty).wD (cV d) |>.wV b)
  | .viota c ty d => some (((c.fields 0x10E 0).wTy ty).wD (cV d))
  | .vfadd c r sat d a b =>
      some ((((((c.fields 0x140 0).wTy .f32).wRnd r).wSat sat).wD (cV d)).wA (cV a) |>.wV b)
  | .vfmul c r sat d a b =>
      some ((((((c.fields 0x141 0).wTy .f32).wRnd r).wSat sat).wD (cV d)).wA (cV a) |>.wV b)
  | .vfma c r sat d a b e =>
      some (((((((c.fields 0x142 0).wTy .f32).wRnd r).wSat sat).wD (cV d)).wA (cV a)).wC (cV e) |>.wV b)
  | .vfmin c r sat d a b =>
      some ((((((c.fields 0x143 0).wTy .f32).wRnd r).wSat sat).wD (cV d)).wA (cV a) |>.wV b)
  | .vfmax c r sat d a b =>
      some ((((((c.fields 0x144 0).wTy .f32).wRnd r).wSat sat).wD (cV d)).wA (cV a) |>.wV b)
  | .vfcmp c cond d a b => some ((((c.fields 0x145 cond.code).wTy .f32).wD (cP d)).wA (cV a) |>.wV b)
  | .vfcvt c ty sty k r sat d a =>
      some (((((((c.fields 0x146 0).wTy ty).wRnd r).wSat sat).wD (cV d)).wA (cV a)).wImm
        (0#21 ++ k ++ 0#2 ++ sty.code))
  | .vpadd c ty r sat d a b =>
      some ((((((c.fields 0x147 0).wTy ty).wRnd r).wSat sat).wD (cV d)).wA (cV a) |>.wV b)
  | .vpmul c ty r sat d a b =>
      some ((((((c.fields 0x148 0).wTy ty).wRnd r).wSat sat).wD (cV d)).wA (cV a) |>.wV b)
  | .vpfma c ty r sat d a b e =>
      some (((((((c.fields 0x149 0).wTy ty).wRnd r).wSat sat).wD (cV d)).wA (cV a)).wC (cV e) |>.wV b)
  | .vrotr c ty d a b => some ((((c.fields 0x180 0).wTy ty).wD (cV d)).wA (cV a) |>.wS b)
  | .vrotc c ty d a b => some ((((c.fields 0x181 0).wTy ty).wD (cV d)).wA (cV a) |>.wS b)
  | .vbcr c ty d a b => some ((((c.fields 0x182 0).wTy ty).wD (cV d)).wA (cV a) |>.wSo b)
  | .vbcc c ty d a b => some ((((c.fields 0x183 0).wTy ty).wD (cV d)).wA (cV a) |>.wSo b)
  | .vredr c ty op r sat d a =>
      some ((((((c.fields 0x184 op.code).wTy ty).wRnd r).wSat sat).wD (cV d)).wA (cV a))
  | .vredc c ty op r sat d a =>
      some ((((((c.fields 0x185 op.code).wTy ty).wRnd r).wSat sat).wD (cV d)).wA (cV a))
  | .vtrn c ty d a => some ((((c.fields 0x186 0).wTy ty).wD (cV d)).wA (cV a))
  | .vexp2 c d a => some ((((c.fields 0x188 0).wTy .f32).wD (cV d)).wA (cV a))
  | .vlog2 c d a => some ((((c.fields 0x189 0).wTy .f32).wD (cV d)).wA (cV a))
  | .vrcp c d a => some ((((c.fields 0x18A 0).wTy .f32).wD (cV d)).wA (cV a))
  | .vrsq c d a => some ((((c.fields 0x18B 0).wTy .f32).wD (cV d)).wA (cV a))
  | .vqnt c ty r b64 d e a =>
      some ((((((c.fields 0x18C (fnB b64)).wTy ty).wRnd r).wD (cV d)).wA (cV a)).wC (cV e))
  | .plog c op d a b => some ((((c.fields 0x1C0 op.code).wD (cP d)).wA (cP a)).wB (cP b))
  | .pcnt c ffs d a => some (((c.fields 0x1C1 (fnB ffs)).wD (cS d)).wA (cP a))
  | .pset c pat d b => some ((c.fields 0x1C2 (fnB pat)).wD (cP d) |>.wS b)
  | .cspush c t a => some (((c.fields 0x1C4 0).wD (cT t)).wA (cV a))
  | .cspop c d t => some (((c.fields 0x1C5 0).wD (cV d)).wA (cT t))
  | .csbal c d p t => some ((((c.fields 0x1C6 0).wD (cV d)).wA (cT t)).wB (cP p))
  | .mshape c ty sp d b => some (((c.fields 0x200 (fnBB false sp)).wTy ty).wD (cS d) |>.wS b)
  | .mshapeGrp c ty sp d b => some (((c.fields 0x200 (fnBB true sp)).wTy ty).wD (cS d) |>.wS b)
  | .mload c sp t => some ((c.fields 0x201 (fnB sp)).wA (cT t))
  | .mswap c => some (c.fields 0x202 0)
  | .mmul c str last m t => some (((c.fields 0x203 (fnStr str last)).wD (cM m)).wA (cT t))
  | .mmuls c str last m t => some (((c.fields 0x204 (fnStr str last)).wD (cM m)).wA (cT t))
  | .mzero c str m => some ((c.fields 0x205 (fnStr str false)).wD (cM m))
  | .mdrain c str ty r sat t m =>
      some ((((((c.fields 0x206 (fnStr str false)).wTy ty).wRnd r).wSat sat).wD (cT t)).wA (cM m))
  | .madpt c t b => some (((c.fields 0x207 0).wA (cTo t)).wB (cS b))
  | .axlt c a off h => some ((((c.fields 0x240 0).wA (cS a)).wB (cS h)).wImm off)
  | .apref c h => some ((c.fields 0x241 0).wA (cS h))
  | .apub c a off h => some ((((c.fields 0x242 0).wA (cS a)).wB (cS h)).wImm off)
  | .aunpin c b => some ((c.fields 0x243 0).wA (cS b))
  | .cnest c lvl n ss ds =>
      some (((c.fields 0x280 (BitVec.ofNat 4 lvl.val)).wC (cS ss)).wE (cS ds) |>.wS n)
  | .cpy c dst src b br1 sh =>
      some (((((c.fields 0x281 0).wD dst.code).wA src.code).wC (cSo br1)).wE (cSo sh) |>.wS b)
  | .cpym c str last d src b br1 m =>
      some (((((c.fields 0x282 (fnStr str last)).wD (cT d)).wA src.code).wC (cSo br1)).wE (cM m) |>.wS b)
  | .tbinit c a n => some ((c.fields 0x284 0).wA (cS a) |>.wS n)
  | .tbarv c a n => some ((c.fields 0x285 0).wA (cS a) |>.wS n)
  | .tbwait c chk a n => some ((c.fields 0x286 (fnB chk)).wA (cS a) |>.wS n)
  | .tset c t n => some ((c.fields 0x288 0).wD (cT t) |>.wS n)
  | .tsetDef c t a => some (((c.fields 0x288 1).wD (cT t)).wA (cS a))
  | .sendm c ocl h a off l br1 =>
      some (((((((c.fields 0x2C0 0).wOcl ocl).wD (cSo br1)).wA (cS a)).wB (cS l)).wC (cS h)).wImm off)
  | .rpost c d a off => some ((((c.fields 0x2C1 0).wD (cS d)).wA (cS a)).wImm off)
  | .rcancel c d h => some (((c.fields 0x2C2 0).wD (cS d)).wA (cS h))
  | .rprobe c d a off => some ((((c.fields 0x2C3 0).wD (cS d)).wA (cS a)).wImm off)
  | .rld c ty acq ocl scp d n a off =>
      some ((((((((c.fields 0x2C4 (fnB acq)).wTy ty).wOcl ocl).wScp scp).wD (cS d)).wA (cS a)).wC (cS n)).wImm off)
  | .rst c ty ad rel ocl scp n a off v br1 =>
      some (((((((((c.fields 0x2C5 (fnBB ad rel)).wTy ty).wOcl ocl).wScp scp).wD (cSo br1)).wA (cS a)).wB
        (cS v)).wC (cS n)).wImm off)
  | .ratom c ty op ord ocl scp d n a v cp =>
      some ((((((((((c.fields 0x2C6 op.code).wTy ty).wOcl ocl).wScp scp).wD (cS d)).wA (cS a)).wB (cS v)).wC
        (cS n)).wE (cSo cp)).wImm ord.code)
  | .msop c op ocl n a off r br1 =>
      some (((((((c.fields 0x2C7 op).wOcl ocl).wD (cS br1)).wA (cS a)).wB (cS r)).wC (cS n)).wImm off)
  | .cpost c a off => some (((c.fields 0x2C8 0).wA (cS a)).wImm off)
  | .trap c code a => some (((c.fields 0x300 0).wA (cSo a)).wImm code)
  | .eret c => some (c.fields 0x301 0)
  | .mfsr c d n r => some ((((c.fields 0x302 0).wD (cS d)).wC (cSo r)).wBi (0#20 ++ n))
  | .mtsr c n a r => some ((((c.fields 0x303 0).wA (cS a)).wC (cSo r)).wBi (0#20 ++ n))
  | .waiti c rel b => some ((c.fields 0x304 (fnB rel)).wS b)
  | .bkpt c frz code => some ((c.fields 0x305 (fnB frz)).wImm (0#16 ++ code))
  | .wtclr c ocl a off l => some (((((c.fields 0x306 0).wOcl ocl).wA (cS a)).wB (cS l)).wImm off)
  | .wtclrRegs c => some (c.fields 0x306 1)
  | .vainv c a l => some ((c.fields 0x307 0).wA (cS a) |>.wS l)
  | _ => none

/-- The word of an instruction; `none` for a device step. -/
def encode (i : Instr) : Option Word128 := i.fields.map Fields.pack

/-! ## The decoder -/

/-- The instruction whose form an opcode and function name, with its operands as the form places
them (Tables 11.3, 13.4, 19.1, 20.1, 21.1, 22.1); `none` where no form has that opcode, function,
type or rounding code (R67, R74, R276). -/
def Fields.instr (f : Fields) : Option Instr :=
  let c := f.ctl
  let ty := Ty.ofCode f.ty.toNat
  let rnd := Rnd.ofCode f.rnd.toNat
  let d := r32 f.od
  let a := r32 f.oa
  match f.opc.toNat with
  | 0x000 => some (.nop c)
  | 0x001 => ty.map fun t => .add c t f.satB d a f.sop
  | 0x002 => ty.map fun t => .sub c t f.satB d a f.sop
  | 0x003 => ty.bind fun t => (MulSel.ofCode f.fn.toNat).map fun m => .mul c t m d a f.sop
  | 0x004 => ty.map fun t => .div c t f.fn0 d a f.sop
  | 0x005 => ty.map fun t => .and c t d a f.sop
  | 0x006 => ty.map fun t => .or c t d a f.sop
  | 0x007 => ty.map fun t => .xor c t d a f.sop
  | 0x008 => ty.map fun t => .shl c t d a f.sop
  | 0x009 => ty.map fun t => .shr c t f.fn0 d a f.sop
  | 0x00A => ty.map fun t => .rol c t d a f.sop
  | 0x00B => ty.map fun t => .min c t d a f.sop
  | 0x00C => ty.map fun t => .max c t d a f.sop
  | 0x00D => ty.bind fun t => (Cond.ofCode f.fn.toNat).map fun k => .cmp c t k (r8 f.od) a f.sop
  | 0x00E => ty.map fun t => .sel c t d a f.sop (r8 f.oc)
  | 0x00F => some (.li c f.fn0 d f.imm)
  | 0x010 => some (.mov c (rSM f.od) (rSM f.oa))
  | 0x011 => ty.map fun t => .clz c t d a
  | 0x012 => ty.map fun t => .popc c t d a
  | 0x013 => ty.map fun t => .bfx c t d a f.sop
  | 0x014 => ty.map fun t => .bfi c t d a f.sop
  | 0x040 => some (.br c f.imm)
  | 0x041 => some (.jmp c a)
  | 0x042 => some (.call c d f.imm)
  | 0x043 => some (.ret c a)
  | 0x044 => some (.loop c d f.imm)
  | 0x045 => some (.bqsend c (r8 f.oa))
  | 0x046 => some (.bqbr c f.fn0 f.imm)
  | 0x047 => some (.endSeq c)
  | 0x048 => some (.tail c)
  | 0x049 => some (.mark c (r4 f.od) (f.imm.extractLsb' 0 8) (f.imm.extractLsb' 8 5))
  | 0x04A => some (.waitmk c (r4 f.oa) (f.imm.extractLsb' 0 8))
  | 0x080 => ty.map fun t => .ld c t f.fn0 f.ocl f.scp d a f.imm
  | 0x081 => ty.map fun t => .st c t f.fn0 f.ocl f.scp a f.imm (r32 f.ob)
  | 0x082 => ty.map fun t => .ldv c t f.ocl d a f.imm f.fn
  | 0x083 => ty.map fun t => .stv c t f.ocl a f.imm (r32 f.ob) f.fn
  | 0x084 => some (.gather c d a (r32 f.ob) (r32 f.oc) (ro32 f.oe) f.imm)
  | 0x085 => some (.scatter c d a (r32 f.ob) (r32 f.oc) (ro32 f.oe) f.imm)
  | 0x086 => ty.bind fun t => (AtomOp.ofCode f.fn.toNat).bind fun o => (AtomOrd.ofCode f.imm.toNat).map fun r =>
      .atom c t o r f.ocl f.scp d a (r32 f.ob) (ro32 f.oe)
  | 0x087 => some (.fence c f.scp (f.imm.extractLsb' 0 16) (f.imm.extractLsb' 16 16))
  | 0x088 => some (.xfence c f.scp ⟨f.imm.extractLsb' 0 7, f.imm.extractLsb' 16 7⟩)
  | 0x089 => some (.pref c a (ro32 f.ob) f.imm)
  | 0x0C0 => some (.qpush c (r8 f.od) a)
  | 0x0C1 => some (.qpop c d (r8 f.oa))
  | 0x0C2 => some (.qcnt c d (rQB f.oa))
  | 0x0C3 => some (if f.fn = 0 then .bar c (f.imm.extractLsb' 0 3) (f.imm.extractLsb' 4 3) else .barAll c)
  | 0x0C4 => some (.xch c)
  | 0x0C5 => some (.phase c a (r32 f.ob))
  | 0x100 => ty.map fun t => .vadd c t f.satB d a f.vop
  | 0x101 => ty.map fun t => .vsub c t f.satB d a f.vop
  | 0x102 => ty.bind fun t => (MulSel.ofCode f.fn.toNat).map fun m => .vmul c t m f.satB d a f.vop
  | 0x103 => ty.map fun t => .vmad c t f.satB d a f.vop (r32 f.oc)
  | 0x104 => ty.map fun t => .vand c t d a f.vop
  | 0x105 => ty.map fun t => .vor c t d a f.vop
  | 0x106 => ty.map fun t => .vxor c t d a f.vop
  | 0x107 => ty.map fun t => .vshl c t d a f.vop
  | 0x108 => ty.map fun t => .vshr c t f.fn0 d a f.vop
  | 0x109 => ty.map fun t => .vmin c t d a f.vop
  | 0x10A => ty.map fun t => .vmax c t d a f.vop
  | 0x10B => ty.bind fun t => (Cond.ofCode f.fn.toNat).map fun k => .vcmp c t k (r16 f.od) a f.vop
  | 0x10C => ty.map fun t => .vsel c t d a f.vop (r16 f.oc)
  | 0x10D => ty.map fun t => .vmov c t d f.vop
  | 0x10E => ty.map fun t => .viota c t d
  | 0x140 => rnd.map fun r => .vfadd c r f.satB d a f.vop
  | 0x141 => rnd.map fun r => .vfmul c r f.satB d a f.vop
  | 0x142 => rnd.map fun r => .vfma c r f.satB d a f.vop (r32 f.oc)
  | 0x143 => rnd.map fun r => .vfmin c r f.satB d a f.vop
  | 0x144 => rnd.map fun r => .vfmax c r f.satB d a f.vop
  | 0x145 => (Cond.ofCode f.fn.toNat).map fun k => .vfcmp c k (r16 f.od) a f.vop
  | 0x146 => ty.bind fun t => rnd.bind fun r => (Ty.ofCode (f.imm.extractLsb' 0 6).toNat).map fun s =>
      .vfcvt c t s (f.imm.extractLsb' 8 3) r f.satB d a
  | 0x147 => ty.bind fun t => rnd.map fun r => .vpadd c t r f.satB d a f.vop
  | 0x148 => ty.bind fun t => rnd.map fun r => .vpmul c t r f.satB d a f.vop
  | 0x149 => ty.bind fun t => rnd.map fun r => .vpfma c t r f.satB d a f.vop (r32 f.oc)
  | 0x180 => ty.map fun t => .vrotr c t d a f.sop
  | 0x181 => ty.map fun t => .vrotc c t d a f.sop
  | 0x182 => ty.map fun t => .vbcr c t d a f.sopo
  | 0x183 => ty.map fun t => .vbcc c t d a f.sopo
  | 0x184 => ty.bind fun t => rnd.bind fun r => (RedOp.ofCode f.fn.toNat).map fun o => .vredr c t o r f.satB d a
  | 0x185 => ty.bind fun t => rnd.bind fun r => (RedOp.ofCode f.fn.toNat).map fun o => .vredc c t o r f.satB d a
  | 0x186 => ty.map fun t => .vtrn c t d a
  | 0x188 => some (.vexp2 c d a)
  | 0x189 => some (.vlog2 c d a)
  | 0x18A => some (.vrcp c d a)
  | 0x18B => some (.vrsq c d a)
  | 0x18C => ty.bind fun t => rnd.map fun r => .vqnt c t r f.fn0 d (r32 f.oc) a
  | 0x1C0 => (PlogOp.ofCode f.fn.toNat).map fun o => .plog c o (r16 f.od) (r16 f.oa) (r16 f.ob)
  | 0x1C1 => some (.pcnt c f.fn0 d (r16 f.oa))
  | 0x1C2 => some (.pset c f.fn0 (r16 f.od) f.sop)
  | 0x1C4 => some (.cspush c d a)
  | 0x1C5 => some (.cspop c d a)
  | 0x1C6 => some (.csbal c d (r16 f.ob) a)
  | 0x200 => ty.map fun t => if f.fn0 then .mshapeGrp c t f.fn1 d f.sop else .mshape c t f.fn1 d f.sop
  | 0x201 => some (.mload c f.fn0 a)
  | 0x202 => some (.mswap c)
  | 0x203 => some (.mmul c (f.fn.extractLsb' 0 2) f.fn2 (r16 f.od) a)
  | 0x204 => some (.mmuls c (f.fn.extractLsb' 0 2) f.fn2 (r16 f.od) a)
  | 0x205 => some (.mzero c (f.fn.extractLsb' 0 2) (r16 f.od))
  | 0x206 => ty.bind fun t => rnd.map fun r => .mdrain c (f.fn.extractLsb' 0 2) t r f.satB d (r16 f.oa)
  | 0x207 => some (.madpt c (ro32 f.oa) (r32 f.ob))
  | 0x240 => some (.axlt c a f.imm (r32 f.ob))
  | 0x241 => some (.apref c a)
  | 0x242 => some (.apub c a f.imm (r32 f.ob))
  | 0x243 => some (.aunpin c a)
  | 0x280 => if h : f.fn.toNat < 6 then some (.cnest c ⟨f.fn.toNat, h⟩ f.sop (r32 f.oc) (r32 f.oe)) else none
  | 0x281 => some (.cpy c (rTS f.od) (rTS f.oa) f.sop (ro32 f.oc) (ro32 f.oe))
  | 0x282 => some (.cpym c (f.fn.extractLsb' 0 2) f.fn2 d (rTS f.oa) f.sop (ro32 f.oc) (r16 f.oe))
  | 0x284 => some (.tbinit c a f.sop)
  | 0x285 => some (.tbarv c a f.sop)
  | 0x286 => some (.tbwait c f.fn0 a f.sop)
  | 0x288 => some (if f.fn = 0 then .tset c d f.sop else .tsetDef c d a)
  | 0x2C0 => some (.sendm c f.ocl (r32 f.oc) a f.imm (r32 f.ob) (ro32 f.od))
  | 0x2C1 => some (.rpost c d a f.imm)
  | 0x2C2 => some (.rcancel c d a)
  | 0x2C3 => some (.rprobe c d a f.imm)
  | 0x2C4 => ty.map fun t => .rld c t f.fn0 f.ocl f.scp d (r32 f.oc) a f.imm
  | 0x2C5 => ty.map fun t => .rst c t f.fn0 f.fn1 f.ocl f.scp (r32 f.oc) a f.imm (r32 f.ob) (ro32 f.od)
  | 0x2C6 => ty.bind fun t => (AtomOp.ofCode f.fn.toNat).bind fun o => (AtomOrd.ofCode f.imm.toNat).map fun r =>
      .ratom c t o r f.ocl f.scp d (r32 f.oc) a (r32 f.ob) (ro32 f.oe)
  | 0x2C7 => some (.msop c f.fn f.ocl (r32 f.oc) a f.imm (r32 f.ob) (r32 f.od))
  | 0x2C8 => some (.cpost c a f.imm)
  | 0x300 => some (.trap c f.imm (ro32 f.oa))
  | 0x301 => some (.eret c)
  | 0x302 => some (.mfsr c d (f.imm.extractLsb' 0 12) (ro32 f.oc))
  | 0x303 => some (.mtsr c (f.imm.extractLsb' 0 12) a (ro32 f.oc))
  | 0x304 => some (.waiti c f.fn0 f.sop)
  | 0x305 => some (.bkpt c f.fn0 (f.imm.extractLsb' 0 16))
  | 0x306 => some (if f.fn = 0 then .wtclr c f.ocl a f.imm (r32 f.ob) else .wtclrRegs c)
  | 0x307 => some (.vainv c a f.sop)
  | _ => none

/-- Why a word is no instruction. Each traps RI (R276). -/
inductive DecodeError where
  /-- no form has the word's opcode, function, type or rounding code -/
  | unassigned
  /-- a reserved bit is set, an unused field is not neutral, or an operand names the wrong file -/
  | badField
  /-- the instruction breaks a limit of its entry -/
  | illFormed
  deriving DecidableEq, Repr

/-- The instruction of a word (R269 to R276). -/
def decode (w : Word128) : Except DecodeError Instr :=
  match (Fields.unpack w).instr with
  | none => .error .unassigned
  | some i => if encode i ≠ some w then .error .badField else if i.wf then .ok i else .error .illFormed

/-- The little-endian number of some bytes (R10). -/
def leNat : List Byte → Nat
  | [] => 0
  | b :: bs => b.toNat + 256 * leNat bs

/-- The first `n` bytes of a number, lowest first (R10). -/
def leBytes : Nat → Nat → List Byte
  | 0, _ => []
  | n + 1, x => BitVec.ofNat 8 x :: leBytes n (x / 256)

/-- The instruction at the head of some bytes, with the bytes after it; `none` where there are not
16 bytes or they are no instruction. -/
def decodeBytes (bs : List Byte) : Option (Instr × List Byte) :=
  if bs.length < 16 then none
  else match decode (BitVec.ofNat 128 (leNat (bs.take 16))) with
    | .ok i => some (i, bs.drop 16)
    | .error _ => none

/-- The instruction that the decoder reads from a word of `nbits` bits, the bits above them zero:
its 16 bytes are laid out lowest first (R10, R269). -/
def decodeTableWord (nbits w : Nat) : Option Instr :=
  (decodeBytes (leBytes 16 (w % 2 ^ nbits))).map Prod.fst

/-- Which sequencer may run an instruction (Table 18.3). A device step runs on neither. -/
def Instr.runsOn (i : Instr) (q : SeqId) : Bool :=
  match i, q with
  | .gather .., q | .scatter .., q | .xch _, q => q == .as
  | .axlt .., q | .apref .., q | .apub .., q | .aunpin .., q => q == .as
  | .cnest .., q | .cpy .., q | .cpym .., q | .tbinit .., q | .tbarv .., q | .tbwait .., q => q == .as
  | .tset .., q | .tsetDef .., q | .sendm .., q | .rpost .., q | .rcancel .., q | .rprobe .., q => q == .as
  | .rld .., q | .rst .., q | .ratom .., q | .msop .., q | .cpost .., q => q == .as
  | .ldv .., q | .stv .., q => q == .xs
  | .vadd .., q | .vsub .., q | .vmul .., q | .vmad .., q | .vand .., q | .vor .., q | .vxor .., q => q == .xs
  | .vshl .., q | .vshr .., q | .vmin .., q | .vmax .., q | .vcmp .., q | .vsel .., q | .vmov .., q => q == .xs
  | .viota .., q | .vfadd .., q | .vfmul .., q | .vfma .., q | .vfmin .., q | .vfmax .., q => q == .xs
  | .vfcmp .., q | .vfcvt .., q | .vpadd .., q | .vpmul .., q | .vpfma .., q | .vrotr .., q => q == .xs
  | .vrotc .., q | .vbcr .., q | .vbcc .., q | .vtrn .., q | .vredr .., q | .vredc .., q => q == .xs
  | .vexp2 .., q | .vlog2 .., q | .vrcp .., q | .vrsq .., q | .vqnt .., q => q == .xs
  | .plog .., q | .pcnt .., q | .pset .., q | .cspush .., q | .cspop .., q | .csbal .., q => q == .xs
  | .mshape .., q | .mshapeGrp .., q | .mload .., q | .mswap _, q | .mmul .., q | .mmuls .., q => q == .xs
  | .mzero .., q | .mdrain .., q | .madpt .., q => q == .xs
  | i, _ => i.isWord

/-- The guard and stall fields of an instruction; `none` for a device step. -/
def Instr.ctl (i : Instr) : Option Ctl := i.fields.map Fields.ctl

end Sys2Proof
end

