-- ==== Sys2Proof/Machine/Sparse.lean ====
section
/-! DEFINITION. Sparse maps in one canonical form (keys strictly rising, no entry equal to the
default), memory as one of them, and the small list, vector and bit helpers of the model. -/

namespace Sys2Proof.Machine

/-- A sparse map from addresses or indices to data. -/
abbrev SMap (α : Type) := List (Nat × α)

/-- The entry of a key. -/
def SMap.find? {α : Type} : SMap α → Nat → Option α
  | [], _ => none
  | (k, v) :: m, a => if k = a then some v else if a < k then none else SMap.find? m a

/-- The map without a key. -/
def SMap.erase {α : Type} : SMap α → Nat → SMap α
  | [], _ => []
  | (k, v) :: m, a => if k = a then m else if a < k then (k, v) :: m else (k, v) :: SMap.erase m a

/-- The map with a key listed. -/
def SMap.insert {α : Type} : SMap α → Nat → α → SMap α
  | [], a, x => [(a, x)]
  | (k, v) :: m, a, x =>
    if k = a then (a, x) :: m else if a < k then (a, x) :: (k, v) :: m else (k, v) :: SMap.insert m a x

/-- Reading a map whose unlisted keys hold `d`. -/
def SMap.get {α : Type} (d : α) (m : SMap α) (a : Nat) : α := (SMap.find? m a).getD d

/-- Writing a map whose unlisted keys hold `d`: writing `d` removes the entry. -/
def SMap.set {α : Type} [DecidableEq α] (d : α) (m : SMap α) (a : Nat) (x : α) : SMap α :=
  if x = d then SMap.erase m a else SMap.insert m a x

/-- The canonical form: keys strictly rising and no entry equal to `d`. -/
def SMap.wf {α : Type} [DecidableEq α] (d : α) (m : SMap α) : Bool :=
  decide (m.Pairwise fun x y => x.1 < y.1) && m.all fun x => decide (x.2 ≠ d)

/-- Writing the keys from `a` on, in order. -/
def SMap.setAll {α : Type} [DecidableEq α] (d : α) : SMap α → Nat → List α → SMap α
  | m, _, [] => m
  | m, a, x :: xs => SMap.setAll d (SMap.set d m a x) (a + 1) xs

/-- Setting every key of a range to one value. -/
def SMap.fill {α : Type} [DecidableEq α] (d : α) (m : SMap α) (a n : Nat) (x : α) : SMap α :=
  SMap.setAll d m a (List.replicate n x)

/-! ## Memory -/

/-- Bytes by address. A byte that nothing has written reads `Memory.blank` (log 5). -/
abbrev Memory := SMap Byte

/-- What an unlisted byte reads as (DESIGN CHOICE, log 5). -/
def Memory.blank : Byte := 0

/-- Memory is in its canonical form. -/
def Memory.wf (m : Memory) : Bool := SMap.wf Memory.blank m

/-- One byte of memory. -/
def Memory.byte (m : Memory) (a : Nat) : Byte := SMap.get Memory.blank m a

/-- Writing one byte. -/
def Memory.setByte (m : Memory) (a : Nat) (b : Byte) : Memory := SMap.set Memory.blank m a b

/-- The `n` bytes from an address on. -/
def Memory.read (m : Memory) (a n : Nat) : List Byte := (List.range n).map fun i => m.byte (a + i)

/-- Writing bytes from an address on. -/
def Memory.write (m : Memory) (a : Nat) (bs : List Byte) : Memory := SMap.setAll Memory.blank m a bs

/-- A little-endian number of `n` bytes (R10). -/
def Memory.readNat (m : Memory) (a n : Nat) : Nat := leNat (m.read a n)

/-! ## Vectors -/

/-- A vector from a function of the index. -/
def tab {α : Type} (n : Nat) (f : Nat → α) : Vector α n := ⟨⟨(List.range n).map f⟩, by simp⟩

/-- Element `i` of a vector, or `d` beyond its end. -/
def vget {α : Type} {n : Nat} (d : α) (v : Vector α n) (i : Nat) : α := v.toList.getD i d

/-- A vector with element `i` replaced; unchanged beyond its end. -/
def vset {α : Type} {n : Nat} (v : Vector α n) (i : Nat) (x : α) : Vector α n :=
  ⟨⟨v.toList.set i x⟩, by simp⟩

/-- A vector with every element changed. -/
def vmapi {α β : Type} {n : Nat} (v : Vector α n) (f : Nat → α → β) : Vector β n :=
  ⟨⟨v.toList.mapIdx f⟩, by simp⟩

/-! ## Lists -/

/-- The list with its first element that meets `p` changed. -/
def modFirst {α : Type} (p : α → Bool) (f : α → α) : List α → List α
  | [] => []
  | x :: xs => if p x then f x :: xs else x :: modFirst p f xs

/-- The list without its first element that meets `p`. -/
def dropFirst {α : Type} (p : α → Bool) : List α → List α
  | [] => []
  | x :: xs => if p x then xs else x :: dropFirst p xs

/-- Element `n` changed. -/
def modAt {α : Type} (l : List α) (n : Nat) (f : α → α) : List α :=
  match l[n]? with
  | some x => l.set n (f x)
  | none => l

/-! ## Bits -/

/-- Bits `hi..lo` of a number. -/
def bitsOf (x hi lo : Nat) : Nat := x / 2 ^ lo % 2 ^ (hi + 1 - lo)

/-- Bits `hi..lo` of a word, as a number. -/
def bf {w : Nat} (x : BitVec w) (hi lo : Nat) : Nat := bitsOf x.toNat hi lo

/-- One bit of a word. -/
def bt {w : Nat} (x : BitVec w) (i : Nat) : Bool := x.getLsbD i

/-- A word with a bit set or cleared. -/
def setBit {w : Nat} (x : BitVec w) (i : Nat) (b : Bool) : BitVec w :=
  if b then x ||| BitVec.twoPow w i else x &&& ~~~ BitVec.twoPow w i

/-- A 64-bit word of a number. -/
def wd (n : Nat) : Word := BitVec.ofNat 64 n

/-- A 64-bit word of an integer, wrapping. -/
def wi (n : Int) : Word := BitVec.ofInt 64 n

/-- A bit as a number. -/
def b2n (b : Bool) : Nat := if b then 1 else 0

/-- Divide and round up. -/
def cdiv (a b : Nat) : Nat := (a + b - 1) / b

/-- Round up to a multiple. -/
def roundUp (a b : Nat) : Nat := cdiv a b * b

/-- The logarithm of a power of two; rounds down elsewhere. -/
def log2 (n : Nat) : Nat := Nat.log2 n

/-- A power of two. -/
def isPow2 (n : Nat) : Bool := n != 0 && 2 ^ Nat.log2 n == n

/-- The bytes of a 64-bit word, lowest first (R10). -/
def wordBytes (w : Word) : List Byte := leBytes 8 w.toNat

/-- The bytes of a 64-byte line, lowest first (R10). -/
def lineBytes (l : Line) : List Byte := leBytes 64 l.toNat

/-- The line of some bytes. -/
def lineOf (bs : List Byte) : Line := BitVec.ofNat 512 (leNat bs)

/-- Word `i` of a line. -/
def lineWord (l : Line) (i : Nat) : Word := l.extractLsb' (64 * i) 64

end Sys2Proof.Machine
end

