-- ==== Sys2Proof/Machine/State.lean ====
section
/-! DEFINITION. The state of the package as plain data, the reasons a step can stop, and the state
after reset. Log entry 4 names every value that a register is given because the spec states no reset
value for it; log entries 1, 2 and 16 name the fields that are the model's own. -/

namespace Sys2Proof.Machine

/-! ## Sequencers -/

/-- Whether a sequencer issues (R63, R235). -/
inductive RunState where
  | off | running | stopped
  deriving DecidableEq, Repr

/-- An asynchronous report waiting for its sequencer (R227, R235). -/
structure Report where
  cause : BitVec 8
  e0 : Word
  e1 : Word
  deriving DecidableEq, Repr

/-- A range of own-vault bytes that a command touches (R107). -/
structure Range where
  lo : Nat
  hi : Nat
  wr : Bool
  deriving DecidableEq, Repr

/-- An own-vault access of several bank rows in progress (R99): how many have performed, what they gave, and
for an `STV` its ticket and range in the range checker (R107). -/
structure RowsDone where
  n : Nat
  got : List Byte
  sec : Bool
  bad : Bool
  held : Option (Nat × Range)
  deriving DecidableEq, Repr

/-- What a waiting instruction waits for (R230). An instruction that waits on a queue, tile, marker,
barrier phase, engine queue, register result or earlier access has not issued and leaves no trace; the
others have been taken up by a collective, the fabric or the PF, and another step completes them. -/
inductive Wait where
  /-- an extent miss (R123) -/
  | extentMiss (id : Nat)
  /-- a deadline of `WAITI` (R385) -/
  | until (t : Word)
  /-- `BAR`: the shape and the arrival slot (R57) -/
  | bar (lw lh : BitVec 3) (since : Nat)
  /-- `XCH`: the arrival slot (R60) -/
  | xch (since : Nat)
  /-- `PHASE` and its pair (R173) -/
  | phase (tf tb : Fin 32)
  /-- `CSBAL`, its operands and its arrival slot (R321) -/
  | csbal (d : Fin 32) (p : Fin 16) (t : Fin 32) (since : Nat)
  /-- `MSHAPE.grp`: request, mode, destination and the tag of its result (R177) -/
  | shapeGrp (req : Word) (ty : Ty) (sp : Bool) (d : Fin 32) (sec : Bool)
  /-- `RLD` or `RATOM` with its sequence number (R208) -/
  | remote (node : BitVec 12) (seq : BitVec 32)
  /-- `ATOM` on another core's vault, with its request (R302) -/
  | vault (req : Nat)
  /-- `XFENCE`: commands and accesses issued below the ticket are waited for (R146) -/
  | xfence (ticket : Nat)
  /-- the rest of an access of several bank rows, which has issued (R99) -/
  | rows (x : RowsDone)
  deriving DecidableEq, Repr

/-- Where the value of a pending result comes from. -/
inductive ResultFrom where
  | mul
  | div
  | load
  | vault (req : Nat)
  deriving DecidableEq, Repr

/-- A `MUL`, `DIV` or load result not yet written (R323, R331). -/
structure Result where
  dst : Fin 32
  val : Word
  src : ResultFrom
  /-- the cause and pointer of a failed load: POISON 0x0F or INTEG 0x10 -/
  bad : Option (BitVec 8 × Word)
  sec : Bool
  deriving DecidableEq, Repr

/-- A fence in force (R153, R327): accesses of classes in `after` wait for the sequencer's own
outstanding accesses of classes in `before` that were issued at a ticket below `ticket`. -/
structure Fence where
  before : BitVec 16
  after : BitVec 16
  ticket : Nat
  deriving DecidableEq, Repr

/-- A line of an instruction cache: the function whose translation fetched it, the address of its
first byte, and its 64 bytes (R21, R24). -/
structure ICLine where
  fn : Nat
  va : Nat
  bytes : Line
  deriving DecidableEq, Repr

/-- The registers of one sequencer (Table 2.2, Table 15.1, R224). -/
structure Seq where
  s : Vector Word 32
  f : Vector Bool 8
  pc : Word
  mode : BitVec 2
  pmode : BitVec 2
  inh : Bool
  epc : Word
  ecause : BitVec 8
  einfo0 : Word
  einfo1 : Word
  tvec : Word
  esave : Word
  run : RunState
  pend : Option Report
  results : List Result
  wait : Option Wait
  fences : List Fence
  barShape : Option (BitVec 3 × BitVec 3)
  /-- STALL slots of the next instruction that are left (R236); `none`: all of them -/
  stall : Option Nat
  sSec : BitVec 32
  fSec : BitVec 8
  /-- poisoned s registers: cause and pointer (R331), and poisoned flags (R247) -/
  sPois : SMap (BitVec 8 × Word)
  fPois : BitVec 8
  /-- world tags of MSTAT to ESAVE, system registers 0x010 to 0x016 (R257) -/
  sysSec : BitVec 7
  /-- the next instruction is the first after an `ERET`: it takes a pending report (R326) -/
  resumed : Bool
  icache : List ICLine
  deriving DecidableEq, Repr

/-! ## Vector unit and SFU -/

/-- A vector register: lane `64 i + j` is the element of row `i`, column `j` (R30). -/
abbrev VReg := Vector Word32 1024

/-- The SFU's functions, in the code order of Table 15.6. -/
inductive SfuFn where
  | exp2 | log2 | rcp | rsq
  deriving DecidableEq, Repr

/-- A pending SFU result (R34): it lands when the count reaches `at_`. -/
structure SfuPend where
  dst : Fin 32
  at_ : Nat
  fn : SfuFn
  val : VReg
  lanes : BitVec 1024
  fl : BitVec 6
  sec : Bool
  deriving DecidableEq, Repr

/-- Flags of a vector result not yet written (R32, R82): the slot in which it is written, and how many
of the XS's own issue slots, its own included, go by until after that slot. -/
structure FlagPend where
  due : Nat
  left : Nat
  fl : BitVec 6
  deriving DecidableEq, Repr

/-- Flags of a drain that has completed (R82): the drain's ticket and the slot of its completion. A read of
VSTAT sees them only after a `WAITMK`. -/
structure DrainFlags where
  ticket : Nat
  due : Nat
  fl : BitVec 6
  deriving DecidableEq, Repr

/-- The registers that only the XS has. -/
structure XUnit where
  v : Vector VReg 32
  p : Vector (BitVec 1024) 16
  vSec : BitVec 32
  pSec : BitVec 16
  /-- poisoned 64-bit words of v: word `w` of register `r` is `512 r + w`; poisoned p registers (R247) -/
  vPois : List Nat
  pPois : BitVec 16
  vstat : BitVec 6
  vflags : List FlagPend
  drained : List DrainFlags
  rmode : BitVec 3
  seed : Word32
  gen : Vector Word32 1024
  /-- issue count of the launch (R33), and that of a running handler (R36) -/
  count : Nat
  hcount : Nat
  sfu : List SfuPend
  sfuH : List SfuPend
  deriving DecidableEq, Repr

/-! ## Queues, tiles and markers -/

/-- An entry of a data queue, with its world tag and its poison (R352). -/
structure QEnt where
  val : Word
  sec : Bool
  bad : Option (BitVec 8 × Word)
  deriving DecidableEq, Repr

inductive TileState where
  | empty | filling | ready | draining
  deriving DecidableEq, Repr

/-- A tile-table entry (Table 6.4). -/
structure Tile where
  state : TileState
  size : Nat
  off : Nat
  deriving DecidableEq, Repr

/-- A marker register (R61): the engines still to retire it with the ticket that each waits for. -/
structure Marker where
  n : BitVec 8
  mask : BitVec 5
  left : BitVec 5
  ticket : Nat
  deriving DecidableEq, Repr

/-! ## Copy engine and gather unit -/

/-- A level of the loop nest (R162). -/
structure Level where
  n : Nat
  ss : Int
  ds : Int
  deriving DecidableEq, Repr

/-- The follow-on multiply of `CPYM` (R168). -/
structure Follow where
  m : Word
  str : BitVec 2
  last : Bool
  deriving DecidableEq, Repr

/-- A block or row on its way through an engine, which crosses bank rows (R99): where it comes from and goes to, the
bytes read so far and their tag, and once all are read what is to be delivered and how much of it has been written. -/
structure Part where
  src : Word
  dst : Word
  got : List Byte
  sec : Bool
  out : Option (List Byte)
  done : Nat
  deriving DecidableEq, Repr

/-- A queued copy (R163). `next` is the next block in block order, `part` what has been moved of it; `missed` an extent miss it waits
for; `landed` says that the last block has landed and the follow-on still waits for room. -/
structure CopyCmd where
  ticket : Nat
  src : Word
  dst : Word
  srcTile : Option (Fin 32)
  dstTile : Option (Fin 32)
  b : Nat
  nest : Vector Level 6
  bar : Option Nat
  shape : Option Line
  /-- the bank formats as they stood at issue (R101) -/
  fmts : Vector Word 16
  follow : Option Follow
  started : Bool
  next : Nat
  part : Option Part
  missed : Option Nat
  landed : Bool
  /-- issued in user mode, and with this HINT (R118, R274) -/
  user : Bool
  hint : Nat
  deriving DecidableEq, Repr

/-- A queued gather or scatter (R169): its tile and its index tile as captured at issue (R367), `row` the next row and
`part` what has been moved of it. -/
structure GathCmd where
  ticket : Nat
  scatter : Bool
  base : Word
  tile : Fin 32
  off : Nat
  size : Nat
  idx : Fin 32
  idxOff : Nat
  rows : Nat
  pitch : Word
  b : Nat
  /-- the whole nest state as it stood at issue (R162) -/
  nest : Vector Level 6
  bar : Option Nat
  fmts : Vector Word 16
  row : Nat
  part : Option Part
  missed : Option Nat
  user : Bool
  hint : Nat
  deriving DecidableEq, Repr

/-! ## Matrix array and adapters -/

/-- The operations of the matrix queue. -/
inductive MatOp where
  | load (sp : Bool)
  | swap
  | mul (sparse last : Bool)
  | zero
  | drain (ty : Ty) (rnd : Rnd) (sat : Bool)
  | adpt (set : Nat)
  deriving DecidableEq, Repr

/-- A row group of a command whose side work waits for a factor page (R193): the page, the slot of the
group's first miss in the command, and whether the page has been fetched for this use alone (R128). -/
structure HeldGroup where
  g : Nat
  handle : BitVec 20
  ver : BitVec 16
  pageB : Bool
  since : Nat
  got : Bool
  deriving DecidableEq, Repr

/-- A queued matrix command (R179). `off`, `size` and `fmt` are its tile and bank format as captured
at issue, `touch` the own-vault ranges that it reads or writes (R107), `issued` the ticket of the
instruction that it belongs to, that of the `CPYM` for a follow-on (R146), `bind` the binding set in force when it
was queued (0: none), `pass` its next pass, `out` the bytes of a drain that are still to be written, with their offset
and their tag; `sideDone`,
`lastDone` and `dropped` are the row groups whose side pass is done, whose correction is added, and whose
side work has failed. -/
structure MatCmd where
  ticket : Nat
  issued : Nat
  op : MatOp
  stream : BitVec 2
  region : Word
  tile : Fin 32
  off : Nat
  size : Nat
  fmt : Word
  touch : List Range
  bind : Nat
  started : Bool
  /-- slot in which it started -/
  since : Nat
  pass : Nat
  out : Option (Nat × List Byte × Bool)
  sideDone : List Nat
  lastDone : List Nat
  dropped : List Nat
  held : List HeldGroup
  deriving DecidableEq, Repr

/-- A weight plane: the bytes that `MLOAD` read, the bank format they are decoded by, and whether
the plane is sparse (R181). -/
structure Plane where
  sparse : Bool
  fmt : Word
  bytes : List Byte
  scales : List Byte
  sec : Bool
  deriving DecidableEq, Repr

/-- The granted shape and mode (R176). -/
structure Grant where
  m : Nat
  n : Nat
  k : Nat
  g : Nat
  ty : Ty
  sp : Bool
  deriving DecidableEq, Repr

/-- A binding set (R191): the binding words, the entries of their pins, and per group the k cursor; the
side accumulator of row `i`, factor column `j` is element `64 i + j`. -/
structure BindSet where
  id : Nat
  nbase : Nat
  words : List Word32
  ents : List Line
  cursors : SMap Nat
  xa : SMap (BitVec 56)
  /-- secure rows of the side accumulator (R257) -/
  sec : BitVec 128
  deriving DecidableEq, Repr

/-- A pin: a copy of a table entry, its handle and its count (R189). A pin whose count is 0 stays
while queued commands name it (R190). -/
structure Pin where
  handle : BitVec 20
  entry : Line
  count : Nat
  deriving DecidableEq, Repr

/-! ## Other core state -/

/-- A running row evacuation (R111): physical destination row and chunks copied. -/
structure Evac where
  bank : Nat
  row : Nat
  dst : Nat
  lost : Option Nat
  p : Nat
  deriving DecidableEq, Repr

/-- A row in the landing buffer (R100). -/
structure LandRow where
  bank : Nat
  row : Nat
  deriving DecidableEq, Repr

/-- Vault bytes on their way: with their tag and the poison of each byte's word. -/
structure Parcel where
  bytes : List Byte
  sec : Bool
  bad : List Bool
  deriving DecidableEq, Repr

/-- A beat of an exchange step still to be written (R60): the slots of the step in which it leaves and
in which it is written, and what it carries once it has left. -/
structure Beat where
  leave : Nat
  slot : Nat
  src : Nat
  dstCore : Nat
  dst : Nat
  data : Option Parcel
  deriving DecidableEq, Repr

/-- A message landing on path N (R215) on the core that posted the receive: its descriptor's pointer
and contents, and the bytes landed. `bad` says that an engine error has stopped its bytes. -/
structure Landing where
  launch : Nat
  fn : Nat
  msg : Message
  desc : Word
  body : Line
  done : Nat
  missed : Option Nat
  bad : Bool
  /-- the sender still waits for its answer -/
  owed : Bool
  /-- posted in user mode -/
  user : Bool
  /-- ticket when the landing began, for markers (R337) -/
  ticket : Nat
  deriving DecidableEq, Repr

/-- A sequencer's part of a phase checkpoint (R173). -/
structure SeqCheck where
  s : Vector Word 32
  f : Vector Bool 8
  pc : Word
  sSec : BitVec 32
  fSec : BitVec 8
  run : RunState
  deriving DecidableEq, Repr

/-- A running phase (R173). -/
structure Phase where
  tf : Fin 32
  tb : Fin 32
  asCheck : SeqCheck
  xsCheck : SeqCheck
  p : Vector (BitVec 1024) 16
  pSec : BitVec 16
  inputsC : List CopyCmd
  inputsG : List GathCmd
  rollbacks : Nat
  /-- ticket at the boundary: later commands belong to the phase -/
  ticket : Nat
  deriving DecidableEq, Repr

/-- A cached translation (R119): the function, the first address, log2 of the size, the leaf. -/
structure TlbEnt where
  fn : Nat
  va : Nat
  sz : Nat
  leaf : Word
  /-- guest-physical address of the leaf entry, for A and D -/
  ea : Nat
  lvl : Nat
  deriving DecidableEq, Repr

/-- A walk-cache entry (R119): a table entry of a level and the address bits above its index. -/
structure WalkEnt where
  fn : Nat
  lvl : Nat
  vaTop : Nat
  table : Nat
  deriving DecidableEq, Repr

/-- Which rows of some banks work, and where their logical rows lie (R108): floors and places by physical
row, 528 to a bank, the spares last; logical rows are 512 to a bank. -/
structure RowMap where
  floors : SMap Nat
  remap : SMap Nat
  lost : SMap Bool
  deriving DecidableEq, Repr

/-- The vault of a core (chapter 6). Bytes and poison are held by physical place:
`(528 bank + row) * 256 + byte`, rows 512 to 527 the spares. -/
structure Vault where
  bytes : Memory
  /-- owner tag of the last writer of a byte; unlisted: none (R95, R135) -/
  owner : SMap (BitVec 8)
  /-- secure rows, by physical row (R257) -/
  sec : SMap Bool
  /-- poisoned 64-bit words, by physical place div 8 (R247) -/
  pois : SMap Bool
  /-- words with a correctable error, by physical place div 8 (R247) -/
  soft : SMap Bool
  /-- floors, by physical row (R108); fused, DESIGN CHOICE 0 (log 12) -/
  floors : SMap Nat
  /-- physical row of logical row `512 bank + row`, where it has moved (R108, R111) -/
  remap : SMap Nat
  /-- lost logical rows (R108, R267) -/
  lost : SMap Bool
  evac : List Evac
  landing : List LandRow
  scrubAt : Vector Nat 16
  deriving DecidableEq, Repr

/-- What `CSBAL` brings a core once every core of its group has arrived (R321): the vault offset and the capacity of its
stream, the new RD, the elements of its run and their tag, which of them are its own, from `lo` to `hi`, and up to which
one the others have landed. -/
structure CsShare where
  off : Nat
  cap : Nat
  rd : Nat
  vs : List Word32
  sec : Bool
  lo : Nat
  hi : Nat
  done : Nat
  deriving DecidableEq, Repr

/-- One core. -/
structure Core where
  launch : Option Nat
  rank : Nat
  /-- copy 1 of a paired launch (R251) -/
  copy1 : Bool
  /-- a pre-emption request is pending since this slot (Table 15.1, R232) -/
  ppre : Option Nat
  as : Seq
  xs : Seq
  x : XUnit
  q : Vector (List QEnt) 8
  /-- outcomes AS to XS and XS to AS, oldest first, each with its world tag -/
  bqA : List (Bool × Bool)
  bqX : List (Bool × Bool)
  /-- poisoned words of the branch-outcome queues: bit 0 that of bqA, bit 1 that of bqX (R247) -/
  bqPois : BitVec 2
  m : Vector Word 16
  mSec : BitVec 16
  mPois : BitVec 16
  k : Vector (Option Marker) 4
  tiles : Vector Tile 32
  /-- poisoned tile-table entries and markers (R247) -/
  tilePois : BitVec 32
  kPois : BitVec 4
  /-- world tags of the tile-table entries, the markers and the levels of the loop nest (R257) -/
  tileSec : BitVec 32
  kSec : BitVec 4
  nestSec : BitVec 6
  vault : Vault
  bfmt : Vector Word 16
  xbase : Word
  xctl : Word
  vcapSel : BitVec 3
  vhealth : BitVec 16
  rowmv : BitVec 19
  rowRes : BitVec 3
  rowPtr : BitVec 4
  /-- the bank whose evacuation RES reports, of the most recent GO, and that which PTR reports (R111) -/
  rowGo : Option Nat
  rowEvac : Option Nat
  /-- world tags of the system registers that both sequencers share, by number (R257) -/
  sysSec : BitVec 128
  eerr0 : Word
  eerr1 : Word
  ferr : Word
  cnt : Vector (BitVec 48) 8
  cntcfg : Vector (BitVec 19) 8
  /-- counters that have wrapped and whose event is still to be raised (R239) -/
  wrapped : BitVec 8
  /-- slot up to which the counters of event 0 have counted (the model's own, log 1) -/
  slotSeen : Nat
  nest : Vector Level 6
  cgen : Word32
  ggen : Word32
  copyQ : List CopyCmd
  gathQ : List GathCmd
  matQ : List MatCmd
  mgen : Vector Word32 128
  grant : Option Grant
  shadow : Option Plane
  active : Option Plane
  acc : Vector (Vector (BitVec 56) 128) 128
  /-- secure rows of the accumulator (R257) -/
  accSec : BitVec 128
  binds : List BindSet
  bindNow : Option Nat
  pins : Vector (Option Pin) 32
  lands : List Landing
  phase : Option Phase
  /-- the copies and gathers issued into a tile since its entry was defined or a `PHASE` turned it, by tile
  (R173, log 23) -/
  filledC : SMap (List CopyCmd)
  filledG : SMap (List GathCmd)
  tlb : List TlbEnt
  /-- slots of the replays in the running 1 ms window, and the window's start (R250) -/
  replays : Nat
  replaySince : Nat
  /-- number of the next command or access issued on the core (the model's own, log 1) -/
  ticket : Nat
  /-- the exchange step's beats still to move, and whether one found the buffer full (R60, R100) -/
  beats : List Beat
  beatLost : Bool
  /-- words of the image, by place div 8, that an error has struck in the save buffers of the spine (R247) -/
  savePois : List Nat
  cs : Option CsShare
  deriving DecidableEq, Repr

/-! ## Launches -/

/-- Launch status codes (Table 15.3). -/
inductive Status where
  | ok | reject | capacity | fault | killed | mismatch | preempted
  deriving DecidableEq, Repr

/-- Where a launch record stands (R47, R52, R63, R64, R230). -/
inductive LaunchState where
  /-- in the port buffer or held by `CPOST`, not yet admitted -/
  | port
  /-- its argument block missed the extent map -/
  | args (miss : Nat)
  /-- in a region queue -/
  | queued
  | running
  | draining
  /-- in a leaf's retirement tracker (R64) -/
  | tracker
  /-- saved, in the slots from `base` on -/
  | saved (base : Nat)
  /-- its completion record waits for an extent miss -/
  | recording (miss : Nat)
  deriving DecidableEq, Repr

/-- The PF's registers that govern a launch, as they stood when it was admitted (R243): ROOT or PFROOT, PART,
SAVEBASE, OVFL, ATTBASE, ATTCNT, ACWAYS, BALTH, SLICE, the four words of BGRECT and the words of CTXBIND. -/
structure LaunchCfg where
  root : Word
  part : Word
  saveBase : Word
  ovfl : Word
  attBase : Word
  attCnt : Word
  acWays : Nat
  balth : Nat
  slice : Nat
  bg : List Word
  ctx : SMap Word
  deriving DecidableEq, Repr

/-- One launch record and all the device keeps about it. -/
structure Launch where
  id : Nat
  record : Line
  /-- the issuing function: 0 to 63 a VF, 64 the PF -/
  fn : Nat
  sup : Bool
  /-- what the issuer may carry (check 2 of Table 3.3) -/
  mayP : Bool
  mayS : Bool
  mayD : Bool
  may3 : Bool
  /-- the launch and the core that posted it with `CPOST`; none: written to a port -/
  poster : Option (Nat × Nat)
  leaf : Nat
  region : Nat
  /-- re-enters its queue at the head of its class (R55) -/
  front : Bool
  arrival : Nat
  /-- slot of admission, and the absolute deadline in slots -/
  admitted : Nat
  deadline : Nat
  state : LaunchState
  x0 : Nat
  y0 : Nat
  /-- tile descriptors and handle words of the argument block -/
  tiles : List Word
  handles : List Word32
  status : Status
  detail : BitVec 8
  frank : Nat
  excused : Bool
  /-- core-slots and HBM bytes consumed (R49), and the slot of the last placement -/
  usedC : Nat
  usedB : Nat
  placedAt : Nat
  /-- has been placed before: restored from its image -/
  image : Option Nat
  /-- snapshots of the saved cores, for the records whose layout the spec leaves open (log 18) -/
  cores : List Core
  measure : Line
  cfg : LaunchCfg
  /-- it has entered a region queue (R52, R241) -/
  accepted : Bool
  /-- the exchange step that is running: its first slot and its length -/
  step : Option (Nat × Nat)
  /-- copies and gathers that `TAIL` handed to the tracker, with their cores (R64, R363) -/
  leftC : List (Nat × CopyCmd)
  leftG : List (Nat × GathCmd)
  deriving DecidableEq, Repr

/-! ## Package -/

/-- The scope record of a line (R158). -/
structure ScopeRec where
  scp : BitVec 3
  /-- the cores of the agent's group when it recorded (R154) -/
  grp : List Nat
  agent : Agent
  deriving DecidableEq, Repr

/-- The engine command behind a write: launch, core, path of Table 9.1, ticket and barrier offset (R134). -/
structure EngineWrite where
  launch : Nat
  core : Nat
  path : Nat
  ticket : Nat
  bar : Option Nat
  deriving DecidableEq, Repr

/-- A line of an MSC (R65, R128). The list that holds it is in order of use, least recent first.
`old` is the block in HBM or CXL while the line is dirty (R134). -/
structure MscLine where
  addr : Nat
  /-- the way that holds its 256-byte block -/
  way : Nat
  gath : Option (Nat × Nat)
  old : Option Line
  scope : Option ScopeRec
  /-- the engines whose writes the dirty line holds (R134) -/
  eng : List EngineWrite
  /-- poisoned 64-bit words (R247) -/
  pois : BitVec 8
  deriving DecidableEq, Repr

/-- A factor page in the adapter caches (R128, R193): its first host address and length, the gathering of the launch
that allocated it (R65), and the blocks of 256 bytes that are held, each with its way. The list that holds it is in
order of use. -/
structure APage where
  handle : BitVec 20
  ver : BitVec 16
  pageB : Bool
  pa : Nat
  len : Nat
  gath : Option (Nat × Nat)
  blocks : List (Nat × Nat)
  deriving DecidableEq, Repr

/-- A factor page on its way to an adapter cache (R193, R195): the page, its first host address, the function
whose prefetch asked for it, the launch that asked, its gathering (R65), and whether its memory has been released by
surprise meanwhile (R134). -/
structure AFetch where
  handle : BitVec 20
  ver : BitVec 16
  pageB : Bool
  pa : Nat
  len : Nat
  hint : Option Nat
  launch : Nat
  gath : Option (Nat × Nat)
  lost : Bool
  deriving DecidableEq, Repr

/-- What a per-handle key is made from (R136). -/
structure AdaptKey where
  owner : BitVec 8
  handle : BitVec 20
  ver : BitVec 16
  deriving DecidableEq, Repr

/-- Why a 256-byte block is poisoned, and its bytes not written since (R138). -/
structure MemPois where
  integ : Bool
  left : BitVec 256
  deriving DecidableEq, Repr

/-- A request at an HBM or CXL channel (R130 to R132). -/
structure HbmReq where
  chan : Nat
  cls : Nat
  stamp : BitVec 16
  fn : Nat
  bytes : Nat
  arrival : Nat
  deriving DecidableEq, Repr

/-- An extent miss that waits for the PF (R123). -/
structure Miss where
  id : Nat
  fn : Nat
  gpa : Nat
  /-- the launch it ends when the PF aborts -/
  launch : Option Nat
  /-- rank of the core whose access missed -/
  rank : Nat
  /-- the remote operation it belongs to: source node and sequence number -/
  remote : Option (BitVec 12 × BitVec 32)
  deriving DecidableEq, Repr

/-- The kinds of remote vault access. -/
inductive VKind where
  | load | store | atom (op : AtomOp) (cmp : Word)
  deriving DecidableEq, Repr

/-- A remote vault or accumulator access on the lateral network (R16). -/
structure VReq where
  id : Nat
  launch : Nat
  core : Nat
  seq : SeqId
  ticket : Nat
  ocl : BitVec 4
  target : Nat
  acc : Bool
  kind : VKind
  off : Nat
  n : Nat
  ty : Ty
  val : Word
  sec : Bool
  owner : BitVec 8
  /-- it has acted at the target and its reply travels -/
  acted : Bool
  bad : Bool
  /-- slot from which it may act, or its reply arrive -/
  due : Nat
  deriving DecidableEq, Repr

/-- A remote operation or message without an acknowledgement (R206). `sent` is the slot in which it was
last sent and `via` the link through which it left; a message whose payload is not yet read holds no
bytes and has `sent` none. -/
structure Inflight where
  node : BitVec 12
  seq : BitVec 32
  /-- KIND of Table 13.1 -/
  kind : Nat
  core : Nat
  from_ : SeqId
  launch : Nat
  ticket : Nat
  ocl : BitVec 4
  issued : Nat
  sent : Option Nat
  via : Option Nat
  bar : Option Nat
  sectors : Nat
  ptr : Word
  /-- destination register of `RLD` and `RATOM`, operand block of `MSOP` -/
  dst : Fin 32
  block : Nat
  ty : Ty
  /-- the message, its length, and who reads its payload -/
  msg : Option Message
  len : Nat
  user : Bool
  hint : Nat
  missed : Option Nat
  /-- slot of the next retry of a refused message (R214) -/
  retryAt : Option Nat
  /-- the result of an `MSOP` that has arrived and is not yet written -/
  result : Option Line
  tc : BitVec 8
  resSec : Bool
  deriving DecidableEq, Repr

/-- A remote operation at this package that waits for an extent miss (R207). -/
structure RemWait where
  op : RemoteOp
  miss : Nat
  deriving DecidableEq, Repr

/-- A posted receive (R212). -/
structure Posted where
  entry : Nat
  gen : BitVec 16
  fn : Nat
  core : Nat
  launch : Nat
  user : Bool
  desc : Word
  body : Line
  deriving DecidableEq, Repr

/-- The latest receive of an entry (R213, R216): its generation, the function that posted it, and whether it
has been withdrawn. -/
structure RetrEntry where
  gen : BitVec 16
  fn : Nat
  gone : Bool
  deriving DecidableEq, Repr

/-- An unexpected message (R211): its header, the function and its length; the payload lies in the function's
overflow area, in the pieces given by host address and length. -/
structure Unexp where
  msg : Message
  fn : Nat
  len : Nat
  places : List (Nat × Nat)
  deriving DecidableEq, Repr

/-- A message that the Retriever turned away: its source and context, its number, and when (R214). -/
structure TurnedAway where
  src : BitVec 12
  ctx : BitVec 12
  seq : BitVec 32
  since : Nat
  deriving DecidableEq, Repr

/-- How a packet leaves: its link, and its virtual channel within its traffic class (R201). -/
structure Hop where
  link : Nat
  channel : Nat
  deriving DecidableEq, Repr

/-- A request of another package's that has passed through here and whose answer has not (R204). -/
structure Transit where
  src : BitVec 12
  dst : BitVec 12
  seq : BitVec 32
  link : Nat
  since : Nat
  deriving DecidableEq, Repr

/-- A Zonante link (R200, R203, R204). -/
structure Link where
  ports : Nat
  down : Bool
  paused : Bool
  gen : BitVec 8
  count : BitVec 88
  deriving DecidableEq, Repr

/-- The registers and counters of a function (Table 15.10, R131, R132, R242, R246). -/
structure FnRegs where
  evbase : Word
  evsize : Nat
  evhead : Nat
  evlost : Bool
  evtail : Nat
  held : List (List Byte)
  msix : BitVec 3
  astvec : Word
  xstvec : Word
  hintdrop : BitVec 48
  missLch : BitVec 32
  missReq : BitVec 32
  stopped : Bool
  retrStopped : Bool
  tokens : Nat
  tokenTime : Nat
  /-- rate and depth of the token bucket in force (R131, R243) -/
  tokenRate : Nat
  tokenDepth : Nat
  exportCount : Nat
  fabricGen : BitVec 8
  deriving DecidableEq, Repr

/-- A shadow page of a paired launch (R252), and the lines written through it. -/
structure ShadowPage where
  launch : Nat
  copy1 : Bool
  va : Nat
  old : Nat
  new : Nat
  lines : List Nat
  deriving DecidableEq, Repr

/-- A launch record that a port with a full buffer holds (R241): function, privilege, PCI Express port, record. -/
structure PortWrite where
  fn : Nat
  sup : Bool
  pcie : Nat
  record : Line
  deriving DecidableEq, Repr

/-- An `m` register or a system register that the sequencers of a core share (R28). -/
inductive SharedReg where
  | m (r : Fin 16)
  | sr (n : Nat)
  deriving DecidableEq, Repr

/-- A write in the present slot to a register that the sequencers of a core share: the core, the writer, and what
the register held before the slot, with its tag and its poison (R28). -/
structure SlotWrite where
  core : Nat
  seq : SeqId
  reg : SharedReg
  val : Word
  sec : Bool
  pois : Bool
  deriving DecidableEq, Repr

/-- A core under scan test and the slot at which the test began (R254). -/
structure Scan where
  core : Nat
  since : Nat
  deriving DecidableEq, Repr

/-- A register, queue entry or tile-table entry of a core that an error can strike (R247). -/
inductive Cell where
  | s (q : SeqId) (r : Fin 32)
  | f (q : SeqId) (r : Fin 8)
  /-- a 64-bit word of a vector register -/
  | v (r : Fin 32) (word : Fin 512)
  | p (r : Fin 16)
  | m (r : Fin 16)
  | q (n : Fin 8) (entry : Fin 32)
  | bq (toXs : Bool)
  | tile (t : Fin 32)
  | k (r : Fin 4)
  /-- a word of the context image in the save buffers of the spine, by its place div 8 -/
  | save (word : Nat)
  deriving DecidableEq, Repr

/-- What an agenda entry does: a sequencer's turn, a step of the device, an access of a function of the
host, what the environment does to a cell, or a read through the scan chain (log 1). -/
inductive Act where
  | issue (c : CoreId) (q : SeqId)
  | event (i : Instr)
  | hostWrite (f : FnId) (a : BitVec 52) (b : Byte)
  /-- an uncorrectable error, or a MAC failure, in a 256-byte block of HBM or CXL (R138) -/
  | memError (block : BitVec 44) (integ : Bool)
  /-- an error in a 64-bit word of a vault, by physical place div 8: uncorrectable or correctable (R247) -/
  | vaultError (c : CoreId) (word : Nat) (hard : Bool)
  /-- a double-bit error in a register, a queue or the tile table: the word is poisoned. A single-bit error
  there is corrected in the value and in the word, so that nothing shows it (R247) -/
  | cellError (c : CoreId) (what : Cell)
  /-- a double-bit error in the word of an MSC line that holds an address (R247) -/
  | mscError (a : BitVec 52)
  /-- the MSC of a leaf gives up its least recently used block (log 13) -/
  | evict (leaf : Fin 2)
  /-- a function of the host reads a register of its BAR 0 by offset (Tables 15.10, 15.11, 16.1) -/
  | hostRead (f : FnId) (off : BitVec 20)
  /-- the management port reads a 256-byte block of a frozen package (R261) -/
  | scanRead (block : BitVec 44)
  deriving DecidableEq, Repr

/-- An agenda entry: what acts next, after how many slots. -/
structure Entry where
  slots : Nat
  act : Act
  deriving DecidableEq, Repr

/-- The package. -/
structure State where
  /-- slots since package reset (CYCLE, R278) -/
  cycle : Nat
  cores : Vector Core 384
  mem : Memory
  /-- owner tag of the last writer of a 64-byte line; unlisted: none (R135) -/
  lineOwner : SMap (BitVec 8)
  memPois : SMap MemPois
  memSec : SMap Bool
  /-- blocks of published factor pages, with the per-handle key that encrypts them (R136, R188) -/
  adaptKeys : SMap AdaptKey
  msc : Vector (List MscLine) 2
  /-- the rows of each leaf's MSC (R129) -/
  mscRows : Vector RowMap 2
  acache : List APage
  afetch : List AFetch
  tlb2 : Vector (List TlbEnt) 2
  walk : Vector (List WalkEnt) 2
  hbm : List HbmReq
  /-- PF registers of Tables 15.11 and 16.1 by offset -/
  pf : SMap Word
  fns : Vector FnRegs 65
  launches : List Launch
  /-- records that a full port holds, oldest first (R241) -/
  portHeld : List PortWrite
  /-- physical row retired, and logical row waiting to be, per leaf (R17, R19) -/
  retired : Vector (Option Nat) 2
  retiring : Vector (Option Nat) 2
  vpCur : BitVec 3
  vpStat : BitVec 3
  vpReq : BitVec 3
  posted : List Posted
  unexpected : List Unexp
  retrGen : SMap RetrEntry
  links : Vector Link 6
  net : List RemoteOp
  netMsgs : List Message
  acks : List RemoteAck
  outOps : List (Hop × RemoteOp)
  outMsgs : List (Hop × Message)
  outAcks : List (Hop × RemoteAck)
  transit : List Transit
  turned : List TurnedAway
  /-- next sequence number per target node, and the replay window per source node (R205) -/
  seqOut : SMap (BitVec 32)
  window : SMap (List (BitVec 32))
  inflight : List Inflight
  misses : List Miss
  remWaits : List RemWait
  vreqs : List VReq
  worldCores : BitVec 384
  worldFns : BitVec 65
  worldEngines : BitVec 7
  worldCtx : BitVec 4096
  shadows : List ShadowPage
  /-- next free page of the shadow pool, per VF and copy (R252) -/
  shPool : SMap (List Nat)
  scan : List Scan
  idleSince : SMap Nat
  /-- cores reserved for a waiting class-0 launch (R54, R55) -/
  reserved : SMap Nat
  failed : List Nat
  attest : List (Nat × Nat × Line)
  /-- what host functions have read of their registers: function, offset and value (R240, R244) -/
  hostReads : List (Nat × Nat × Word)
  /-- what the management port has read of a frozen package: block and ciphertext (R261) -/
  scanned : List (Nat × List Byte)
  frozen : Bool
  powered : Bool
  thermtrip : Bool
  tempWarned : Bool
  sliceVf : Nat
  sliceStart : Nat
  /-- slot of the last balancing (R53) -/
  balanced : Nat
  /-- the sequencer that an instruction belongs to (the model's own, log 1) -/
  cur : CoreId
  curSeq : SeqId
  /-- what moves next (the model's own, log 1, 2), the default order's place, and counters -/
  agenda : List Entry
  /-- what has acted in the present slot, with the instruction of a sequencer's turn (the model's own, log 56) -/
  slotLog : List (Act × Option Instr)
  /-- the writes of the present slot to registers that two sequencers share (R28) -/
  slotRegs : List SlotWrite
  /-- the lines on which atomic operations have acted in the present slot (R155) -/
  slotAtoms : List Nat
  turn : Nat
  fresh : Nat
  nextId : Nat
  nextArr : Nat
  deriving DecidableEq, Repr

/-- Why the machine stops with a fault. None of the spec's faults stops the machine: each is taken
as R225, R166 or R46 say, in a next state. -/
inductive Fault where
  /-- raised by no meaning of the model; kept so that the type names the outcome that a step never
  has. Safe. -/
  | none
  deriving DecidableEq, Repr

/-- Why the model gives no next state. -/
inductive Refusal where
  /-- raised by an arm of `exec` whose instruction has no meaning yet. Safe: nothing is claimed. -/
  | notModelled (mnemonic : String)
  deriving DecidableEq, Repr

/-! ## Reset -/

/-- A sequencer right after reset. -/
def Seq.reset : Seq where
  s := Vector.replicate 32 0
  f := Vector.replicate 8 false
  pc := 0
  mode := 0
  pmode := 0
  inh := false
  epc := 0
  ecause := 0
  einfo0 := 0
  einfo1 := 0
  tvec := 0
  esave := 0
  run := .off
  pend := none
  results := []
  wait := none
  fences := []
  barShape := none
  stall := none
  sSec := 0
  fSec := 0
  sPois := []
  fPois := 0
  sysSec := 0
  resumed := false
  icache := []

/-- A generator's starting value for a seed (R78). -/
def genStart (seed : Word32) (i : Nat) : Word32 :=
  let z := seed ^^^ BitVec.ofNat 32 i
  if z = 0 then 0xFFFFFFFF else z

def XUnit.reset : XUnit where
  v := Vector.replicate 32 (Vector.replicate 1024 0)
  p := Vector.replicate 16 0
  vSec := 0
  pSec := 0
  vPois := []
  pPois := 0
  vstat := 0
  vflags := []
  drained := []
  rmode := 0
  seed := 0
  gen := tab 1024 (genStart 0)
  count := 0
  hcount := 0
  sfu := []
  sfuH := []

def Vault.reset : Vault where
  bytes := []
  owner := []
  sec := []
  pois := []
  soft := []
  floors := []
  remap := []
  lost := []
  evac := []
  landing := []
  scrubAt := Vector.replicate 16 0

/-- A core right after reset. -/
def Core.reset : Core where
  launch := none
  rank := 0
  copy1 := false
  ppre := none
  as := Seq.reset
  xs := Seq.reset
  x := XUnit.reset
  q := Vector.replicate 8 []
  bqA := []
  bqX := []
  bqPois := 0
  m := Vector.replicate 16 0
  mSec := 0
  mPois := 0
  k := Vector.replicate 4 none
  tiles := Vector.replicate 32 ⟨.empty, 0, 0⟩
  tilePois := 0
  kPois := 0
  tileSec := 0
  kSec := 0
  nestSec := 0
  vault := Vault.reset
  bfmt := Vector.replicate 16 0x80000
  xbase := 0
  xctl := 0
  vcapSel := 7
  vhealth := 0
  rowmv := 0
  rowRes := 0
  rowPtr := 0
  rowGo := none
  rowEvac := none
  sysSec := 0
  eerr0 := 0
  eerr1 := 0
  ferr := 0
  cnt := Vector.replicate 8 0
  cntcfg := Vector.replicate 8 0
  wrapped := 0
  slotSeen := 0
  nest := Vector.replicate 6 ⟨1, 0, 0⟩
  cgen := genStart 0 1152
  ggen := genStart 0 1153
  copyQ := []
  gathQ := []
  matQ := []
  mgen := tab 128 fun j => genStart 0 (1024 + j)
  grant := none
  shadow := none
  active := none
  acc := Vector.replicate 128 (Vector.replicate 128 0)
  accSec := 0
  binds := []
  bindNow := none
  pins := Vector.replicate 32 none
  lands := []
  phase := none
  filledC := []
  filledG := []
  tlb := []
  replays := 0
  replaySince := 0
  ticket := 0
  beats := []
  beatLost := false
  savePois := []
  cs := none

/-- A function's registers right after reset (Table 15.10). -/
def FnRegs.reset : FnRegs where
  evbase := 0
  evsize := 64
  evhead := 0
  evlost := false
  evtail := 0
  held := []
  msix := 0
  astvec := 0
  xstvec := 0
  hintdrop := 0
  missLch := 0
  missReq := 0
  stopped := false
  retrStopped := false
  tokens := 0
  tokenTime := 0
  tokenRate := 0
  tokenDepth := 0
  exportCount := 0
  fabricGen := 0

/-- The package right after reset. -/
def State.reset : State where
  cycle := 0
  cores := Vector.replicate 384 Core.reset
  mem := []
  lineOwner := []
  memPois := []
  memSec := []
  adaptKeys := []
  msc := Vector.replicate 2 []
  mscRows := Vector.replicate 2 ⟨[], [], []⟩
  acache := []
  afetch := []
  tlb2 := Vector.replicate 2 []
  walk := Vector.replicate 2 []
  hbm := []
  pf := [(0x21018, 4)]
  fns := Vector.replicate 65 FnRegs.reset
  launches := []
  portHeld := []
  retired := Vector.replicate 2 none
  retiring := Vector.replicate 2 none
  vpCur := 7
  vpStat := 0
  vpReq := 7
  posted := []
  unexpected := []
  retrGen := []
  links := Vector.replicate 6 ⟨24, false, false, 0, 0⟩
  net := []
  netMsgs := []
  acks := []
  outOps := []
  outMsgs := []
  outAcks := []
  transit := []
  turned := []
  seqOut := []
  window := []
  inflight := []
  misses := []
  remWaits := []
  vreqs := []
  worldCores := 0
  worldFns := 0
  worldEngines := 0
  worldCtx := 0
  shadows := []
  shPool := []
  scan := []
  idleSince := []
  reserved := []
  failed := []
  attest := []
  hostReads := []
  scanned := []
  frozen := false
  powered := true
  thermtrip := false
  tempWarned := false
  sliceVf := 0
  sliceStart := 0
  balanced := 0
  cur := ⟨0, by decide⟩
  curSeq := .as
  agenda := []
  slotLog := []
  slotRegs := []
  slotAtoms := []
  turn := 0
  fresh := 0
  nextId := 1
  nextArr := 0

end Sys2Proof.Machine
end

