-- ==== Sys2Proof/Machine/Numbers.lean ====
section
/-! DEFINITION. Numbers to the bit (chapter 4): formats, exact arithmetic on dyadic numbers, one
rounding, and the algorithms of the special-function unit. -/

namespace Sys2Proof.Machine

/-- An exact number: `(-1)^neg * mag * 2^exp`, an infinity, or a NaN with its sign (R68, R70). -/
inductive Num where
  | fin (neg : Bool) (mag : Nat) (exp : Int)
  | inf (neg : Bool)
  | nan (neg : Bool)
  deriving DecidableEq, Repr

/-- The flags of VSTAT (Table 4.5). -/
abbrev Flags := BitVec 6

def flNV : Flags := 1
def flOF : Flags := 2
def flUF : Flags := 4
def flNX : Flags := 8
def flDZ : Flags := 16
def flSATI : Flags := 32

namespace Num

def neg : Num → Num
  | .fin s m e => .fin (!s) m e
  | .inf s => .inf (!s)
  | .nan s => .nan s

def isNan : Num → Bool
  | .nan _ => true
  | _ => false

def isInf : Num → Bool
  | .inf _ => true
  | _ => false

def sign : Num → Bool
  | .fin s _ _ => s
  | .inf s => s
  | .nan s => s

def isZero : Num → Bool
  | .fin _ m _ => m == 0
  | _ => false

/-- The number of an integer. -/
def ofInt (i : Int) : Num := .fin (decide (i < 0)) i.natAbs 0

def zero : Num := .fin false 0 0

/-- A power of two. -/
def pow2 (e : Int) : Num := .fin false 1 e

/-- The signed numerator over `2^e` of a finite number, for `e` at most its exponent. -/
def scaled (x : Num) (e : Int) : Int :=
  match x with
  | .fin s m e' => let n : Int := m * 2 ^ (e' - e).toNat; if s then -n else n
  | _ => 0

def exp : Num → Int
  | .fin _ _ e => e
  | _ => 0

/-- The first NaN of some operands. -/
def firstNan : List Num → Option Num
  | [] => none
  | x :: xs => if x.isNan then some x else firstNan xs

/-- An exact sum of finite numbers; zero takes `negZero` where the operands' signs differ and the
common sign elsewhere (R77). -/
def addFin (negZero : Bool) (x y : Num) : Num :=
  let e := min x.exp y.exp
  let n := x.scaled e + y.scaled e
  if n = 0 then .fin (if x.sign = y.sign then x.sign else negZero) 0 0
  else .fin (decide (n < 0)) n.natAbs e

/-- An exact sum, and whether it is an invalid operation (R70). -/
def add (negZero : Bool) (x y : Num) : Num × Bool :=
  match x, y with
  | .nan s, _ => (.nan s, false)
  | _, .nan s => (.nan s, false)
  | .inf s, .inf t => if s = t then (.inf s, false) else (.nan false, true)
  | .inf s, _ => (.inf s, false)
  | _, .inf t => (.inf t, false)
  | x, y => (addFin negZero x y, false)

/-- An exact product, and whether it is an invalid operation (R70). -/
def mul (x y : Num) : Num × Bool :=
  match x, y with
  | .nan s, _ => (.nan s, false)
  | _, .nan s => (.nan s, false)
  | .inf s, y => if y.isZero then (.nan false, true) else (.inf (s != y.sign), false)
  | x, .inf t => if x.isZero then (.nan false, true) else (.inf (x.sign != t), false)
  | .fin s m e, .fin t n f => (.fin (s != t) (m * n) (e + f), false)

/-- `a * b + c`, exact (R379): an invalid product decides the result, else the first NaN in the
order A, B, C does. -/
def fma (negZero : Bool) (a b c : Num) : Num × Bool :=
  let p := mul a b
  if p.2 then p else add negZero p.1 c

/-- Compares numbers that are not NaN; both zeros are equal. -/
def lt (x y : Num) : Bool :=
  match x, y with
  | .nan _, _ => false
  | _, .nan _ => false
  | .inf s, .inf t => s && !t
  | .inf s, _ => s
  | _, .inf t => !t
  | x, y => let e := min x.exp y.exp; decide (x.scaled e < y.scaled e)

def eq (x y : Num) : Bool :=
  match x, y with
  | .nan _, _ => false
  | _, .nan _ => false
  | .inf s, .inf t => s == t
  | .inf _, _ => false
  | _, .inf _ => false
  | x, y => let e := min x.exp y.exp; decide (x.scaled e = y.scaled e)

/-- The exponent of the leading bit of a nonzero finite number. -/
def top : Num → Int
  | .fin _ m e => (Nat.log2 m : Int) + e
  | _ => 0

def abs : Num → Num
  | .fin _ m e => .fin false m e
  | .inf _ => .inf false
  | .nan _ => .nan false

end Num

/-! ## Formats -/

/-- A floating-point format of Table 4.2. -/
structure Fmt where
  frac : Nat
  ebits : Nat
  bias : Int
  hasInf : Bool
  hasNan : Bool
  maxM : Nat
  maxE : Int
  nan : Nat
  deriving DecidableEq, Repr

/-- Table 4.2 and the canonical NaNs of R70. -/
def fmtOf : Ty → Fmt
  | .bf16 => ⟨7, 8, 127, true, true, 255, 120, 0x7FC0⟩
  | .f16 => ⟨10, 5, 15, true, true, 2047, 5, 0x7E00⟩
  | .e4m3 => ⟨3, 4, 7, false, true, 14, 5, 0x7F⟩
  | .e5m2 => ⟨2, 5, 15, true, true, 7, 13, 0x7E⟩
  | .e2m1 => ⟨1, 2, 1, false, false, 3, 1, 0⟩
  | .fa56 => ⟨45, 10, 511, true, true, 2 ^ 46 - 1, 466, 0x7FF00000000000⟩
  | _ => ⟨23, 8, 127, true, true, 2 ^ 24 - 1, 104, 0x7FC00000⟩

def Fmt.width (f : Fmt) : Nat := 1 + f.ebits + f.frac

def Fmt.emin (f : Fmt) : Int := 1 - f.bias

/-- The value of a pattern (R68). -/
def Fmt.value (f : Fmt) (b : Nat) : Num :=
  let s := b / 2 ^ (f.ebits + f.frac) % 2 == 1
  let e := b / 2 ^ f.frac % 2 ^ f.ebits
  let m := b % 2 ^ f.frac
  let ones := 2 ^ f.ebits - 1
  if f.hasInf && e == ones then (if m = 0 then .inf s else .nan s)
  else if f.hasNan && !f.hasInf && e == ones && m == 2 ^ f.frac - 1 then .nan s
  else if e = 0 then .fin s m (f.emin - f.frac)
  else .fin s (2 ^ f.frac + m) (e - f.bias - f.frac)

/-- The pattern of a number that the format holds. -/
def Fmt.pattern (f : Fmt) (x : Num) : Nat :=
  let sg (s : Bool) : Nat := b2n s * 2 ^ (f.ebits + f.frac)
  match x with
  | .nan s => f.nan + sg s
  | .inf s => sg s + (2 ^ f.ebits - 1) * 2 ^ f.frac
  | .fin s m e =>
    if m = 0 then sg s
    else
      let t : Int := (Nat.log2 m : Int) + e
      let q := (if t < f.emin then f.emin else t) - f.frac
      let n := if e ≥ q then m * 2 ^ (e - q).toNat else m / 2 ^ (q - e).toNat
      if t < f.emin then sg s + n
      else sg s + (t + f.bias).toNat * 2 ^ f.frac + (n - 2 ^ f.frac)

/-- Whether a quotient rounds up, under a mode that is not DYN (Table 4.3, R78): `y` the truncated
quotient, `r` the remainder of `2^sh`, `g` bits 31:8 of the generator. -/
def roundsUp (mode : Rnd) (neg : Bool) (y r sh g : Nat) : Bool :=
  match mode with
  | .rne | .dyn => decide (2 * r > 2 ^ sh) || (2 * r == 2 ^ sh && y % 2 == 1)
  | .rtz => false
  | .rdn => neg && r != 0
  | .rup => !neg && r != 0
  | .rna => decide (2 * r ≥ 2 ^ sh)
  | .sr => decide (r * 2 ^ 24 + g * 2 ^ sh ≥ 2 ^ (sh + 24))

/-- A magnitude rounded to a multiple of `2^q`: the multiple, and whether it is inexact. -/
def roundTo (mode : Rnd) (neg : Bool) (mag : Nat) (e q : Int) (g : Nat) : Nat × Bool :=
  if e ≥ q then (mag * 2 ^ (e - q).toNat, false)
  else
    let sh := (q - e).toNat
    let y := mag / 2 ^ sh
    let r := mag % 2 ^ sh
    (if roundsUp mode neg y r sh g then y + 1 else y, r != 0)

/-- A rounded result with its flags. -/
structure Rounded where
  val : Num
  fl : Flags
  deriving DecidableEq, Repr

/-- The result of an overflow (Table 4.4). -/
def overflowed (ty : Ty) (mode : Rnd) (sat neg : Bool) : Num :=
  let f := fmtOf ty
  let big := Num.fin neg f.maxM f.maxE
  if sat || ty == .e2m1 then big
  else if ty == .e4m3 then .nan neg
  else match mode with
    | .rtz => big
    | .rdn => if neg then .inf neg else big
    | .rup => if neg then big else .inf neg
    | _ => .inf neg

/-- One rounding to a floating format (R74 to R78). NaNs and infinities that the format holds pass;
R76 says what becomes of the others. -/
def roundFloat (ty : Ty) (mode : Rnd) (sat : Bool) (g : Nat) (x : Num) : Rounded :=
  let f := fmtOf ty
  match x with
  | .nan s => if f.hasNan then ⟨.nan s, 0⟩ else ⟨.zero, flNV⟩
  | .inf s => if f.hasInf then ⟨.inf s, 0⟩ else ⟨overflowed ty mode sat s, flOF ||| flNX⟩
  | .fin s m e =>
    if m = 0 then ⟨.fin s 0 0, 0⟩
    else
      let t : Int := (Nat.log2 m : Int) + e
      let q := (if t < f.emin then f.emin else t) - f.frac
      let r := roundTo mode s m e q g
      let y := Num.fin false r.1 q
      if Num.lt (.fin false f.maxM f.maxE) y then ⟨overflowed ty mode sat s, flOF ||| flNX⟩
      else
        let tiny := decide (t < f.emin)
        ⟨.fin s r.1 q, if r.2 then (if tiny then flNX ||| flUF else flNX) else 0⟩

/-- One rounding to e8m0 (R76). A value below 2^-127 that rounds up to it raises NX alone, as R76 lists its flags; that R77
would add UF there is left aside (DESIGN CHOICE, log 62). -/
def roundE8m0 (mode : Rnd) (sat : Bool) (g : Nat) (x : Num) : Nat × Flags :=
  match x with
  | .fin false m e =>
    if m = 0 then (0xFF, flNV)
    else
      let k : Int := (Nat.log2 m : Int) + e
      let sh := Nat.log2 m
      let r := m - 2 ^ sh
      let up := match mode with
        | .rne | .rna | .dyn => decide (2 * r ≥ 2 ^ sh)
        | .rtz | .rdn => false
        | .rup => r != 0
        | .sr => decide (r * 2 ^ 24 + g * 2 ^ sh ≥ 2 ^ (sh + 24))
      let k := if up then k + 1 else k
      if k < -127 then (0, flUF ||| flNX)
      else if k > 127 then (if sat then 0xFE else 0xFF, flOF ||| flNX)
      else ((k + 127).toNat, if r = 0 then 0 else flNX)
  | _ => (0xFF, flNV)

/-! ## Integers -/

end Sys2Proof.Machine

namespace Sys2Proof

/-- The least and greatest value of an integer type (R71, R79). -/
def Ty.range (t : Ty) : Int × Int :=
  if t == .i56 then (-(2 ^ 55 - 1), 2 ^ 55 - 1)
  else if t.signed || t == .bpi then (-(2 ^ (t.width - 1)), 2 ^ (t.width - 1) - 1)
  else (0, 2 ^ t.width - 1)

/-- The integer of a pattern (R71: the pattern of -2^55 is read as -(2^55 - 1)). -/
def Ty.intValue (t : Ty) (b : Nat) : Int :=
  let b := b % 2 ^ t.width
  if (t.signed || t == .bpi) && b ≥ 2 ^ (t.width - 1) then
    let i : Int := (b : Int) - 2 ^ t.width
    if t == .i56 && i == -(2 ^ 55) then -(2 ^ 55 - 1) else i
  else b

/-- The pattern of an integer, wrapping. -/
def Ty.intPattern (t : Ty) (i : Int) : Nat := (i % (2 ^ t.width : Int)).toNat

end Sys2Proof

namespace Sys2Proof.Machine

/-- An integer clamped to a type's range, and whether that changed it. -/
def clampInt (t : Ty) (i : Int) : Int × Bool :=
  let r := t.range
  if i < r.1 then (r.1, true) else if i > r.2 then (r.2, true) else (i, false)

/-- An integer result of a vector instruction: wrapped, or clamped under SAT with SATI (R79). -/
def intResult (t : Ty) (sat : Bool) (i : Int) : Nat × Flags :=
  if sat then
    let c := clampInt t i
    (t.intPattern c.1, if c.2 then flSATI else 0)
  else (t.intPattern i, 0)

/-- A number converted to an integer type (R79). -/
def toInt (t : Ty) (mode : Rnd) (g : Nat) (x : Num) : Nat × Flags :=
  match x with
  | .nan _ => (0, flNV)
  | .inf s => (t.intPattern (if s then t.range.1 else t.range.2), flNV)
  | .fin s m e =>
    let r := roundTo mode s m e 0 g
    let i : Int := if s then -(r.1 : Int) else r.1
    let c := clampInt t i
    (t.intPattern c.1, if c.2 then flNV else if r.2 then flNX else 0)

/-! ## Any type -/

end Sys2Proof.Machine

namespace Sys2Proof

/-- The exact number of a pattern of a type (R66 to R71). A bpi element is its byte (R72 has the
planes); e8m0 is R69. -/
def Ty.value (t : Ty) (b : Nat) : Machine.Num :=
  if t.isFloat then (Machine.fmtOf t).value (b % 2 ^ t.width)
  else if t == .e8m0 then (if b % 256 = 255 then .nan false else Machine.Num.pow2 ((b % 256 : Nat) - 127))
  else Machine.Num.ofInt (t.intValue b)

end Sys2Proof

namespace Sys2Proof.Machine

/-- A number converted to a type: the pattern and the flags (R74 to R79). `fromInt` says that the
number comes from an integer type, where an integer destination wraps or clamps with SATI. -/
def convert (t : Ty) (mode : Rnd) (sat fromInt : Bool) (g : Nat) (x : Num) : Nat × Flags :=
  if t.isFloat then
    let r := roundFloat t mode sat g x
    ((fmtOf t).pattern r.val, r.fl)
  else if t == .e8m0 then roundE8m0 mode sat g x
  else if fromInt then intResult t sat (x.scaled 0)
  else toInt t mode g x

/-- Whether a conversion rounds, and so draws under SR (R78). -/
def convRounds (src dst : Ty) : Bool := src.isFloat || src == .e8m0 || dst.isFloat || dst == .e8m0

/-- An advance of a generator (R78). -/
def genNext (g : Word32) : Word32 :=
  let z := g <<< 1
  if g.getLsbD 31 then z ^^^ 0x00400007 else z

/-- What a rounding event reads of an advanced generator (R78). -/
def genDraw (g : Word32) : Nat := g.toNat / 256

/-! ## f32 steps of the SFU (R84) -/

def f32v (b : Nat) : Num := (fmtOf .f32).value b

def f32p (x : Num) : Nat := (fmtOf .f32).pattern x

/-- Rounds to f32 under RNE. -/
def rn32 (x : Num) : Num := (roundFloat .f32 .rne false 0 x).val

/-- `RoundTo(fa56, x, RNE)`. -/
def rn56 (x : Num) : Num := (roundFloat .fa56 .rne false 0 x).val

def fma32 (a b c : Num) : Num := rn32 (Num.fma false a b c).1

/-- `T[j]`: the f32 nearest to 2^(j/32) (R85). -/
def tableT : List Nat :=
  [0x3F800000, 0x3F82CD87, 0x3F85AAC3, 0x3F88980F, 0x3F8B95C2, 0x3F8EA43A, 0x3F91C3D3, 0x3F94F4F0,
    0x3F9837F0, 0x3F9B8D3A, 0x3F9EF532, 0x3FA27043, 0x3FA5FED7, 0x3FA9A15B, 0x3FAD583F, 0x3FB123F6,
    0x3FB504F3, 0x3FB8FBAF, 0x3FBD08A4, 0x3FC12C4D, 0x3FC5672A, 0x3FC9B9BE, 0x3FCE248C, 0x3FD2A81E,
    0x3FD744FD, 0x3FDBFBB8, 0x3FE0CCDF, 0x3FE5B907, 0x3FEAC0C7, 0x3FEFE4BA, 0x3FF5257D, 0x3FFA83B3]

/-- `L[i]`: the f32 nearest to log2(1 + i/128) (R87). -/
def tableL : List Nat :=
  [0x00000000, 0x3C37F286, 0x3CB73CB4, 0x3D08E68F, 0x3D35D69C, 0x3D626FD6, 0x3D8759C5, 0x3D9D517F,
    0x3DB31FB8, 0x3DC8C50B, 0x3DDE4212, 0x3DF39761, 0x3E0462C4, 0x3E0EE68D, 0x3E19574F, 0x3E23B550,
    0x3E2E00D2, 0x3E383A17, 0x3E42615F, 0x3E4C76E8, 0x3E567AF1, 0x3E606DB6, 0x3E6A4F72, 0x3E74205F,
    0x3E7DE0B6, 0x3E83C857, 0x3E88983F, 0x3E8D602E, 0x3E92203D, 0x3E96D888, 0x3E9B8926, 0x3EA03232] ++
  [0x3EA4D3C2, 0x3EA96DF0, 0x3EAE00D2, 0x3EB28C7F, 0x3EB7110E, 0x3EBB8E96, 0x3EC0052B, 0x3EC474E4,
    0x3EC8DDD4, 0x3ECD4012, 0x3ED19BB0, 0x3ED5F0C4, 0x3EDA3F60, 0x3EDE8797, 0x3EE2C97D, 0x3EE70525,
    0x3EEB3A9F, 0x3EEF69FF, 0x3EF39355, 0x3EF7B6B4, 0x3EFBD42B, 0x3EFFEBCD, 0x3F01FED4, 0x3F0404E8,
    0x3F060828, 0x3F08089E, 0x3F0A0650, 0x3F0C0146, 0x3F0DF989, 0x3F0FEF1F, 0x3F11E20F, 0x3F13D260] ++
  [0x3F15C01A, 0x3F17AB44, 0x3F1993E3, 0x3F1B7A00, 0x3F1D5DA0, 0x3F1F3ECA, 0x3F211D84, 0x3F22F9D5,
    0x3F24D3C2, 0x3F26AB53, 0x3F28808C, 0x3F2A5374, 0x3F2C2411, 0x3F2DF268, 0x3F2FBE80, 0x3F31885C,
    0x3F335004, 0x3F35157D, 0x3F36D8CB, 0x3F3899F5, 0x3F3A58FF, 0x3F3C15EE, 0x3F3DD0C8, 0x3F3F8991,
    0x3F41404F, 0x3F42F506, 0x3F44A7BA, 0x3F465872, 0x3F480731, 0x3F49B3FB, 0x3F4B5ED7, 0x3F4D07C7] ++
  [0x3F4EAED0, 0x3F5053F7, 0x3F51F740, 0x3F5398AF, 0x3F553848, 0x3F56D60F, 0x3F587209, 0x3F5A0C3A,
    0x3F5BA4A4, 0x3F5D3B4E, 0x3F5ED039, 0x3F60636A, 0x3F61F4E5, 0x3F6384AD, 0x3F6512C7, 0x3F669F35,
    0x3F6829FB, 0x3F69B31E, 0x3F6B3A9F, 0x3F6CC083, 0x3F6E44CD, 0x3F6FC781, 0x3F7148A1, 0x3F72C832,
    0x3F744636, 0x3F75C2B0, 0x3F773DA4, 0x3F78B714, 0x3F7A2F04, 0x3F7BA578, 0x3F7D1A71, 0x3F7E8DF2]

/-- `G[i]`: the f32 nearest to 1/(1 + i/128) (R87). -/
def tableG : List Nat :=
  [0x3F800000, 0x3F7E03F8, 0x3F7C0FC1, 0x3F7A232D, 0x3F783E10, 0x3F76603E, 0x3F74898D, 0x3F72B9D6,
    0x3F70F0F1, 0x3F6F2EB7, 0x3F6D7304, 0x3F6BBDB3, 0x3F6A0EA1, 0x3F6865AC, 0x3F66C2B4, 0x3F652598,
    0x3F638E39, 0x3F61FC78, 0x3F607038, 0x3F5EE95C, 0x3F5D67C9, 0x3F5BEB62, 0x3F5A740E, 0x3F5901B2,
    0x3F579436, 0x3F562B81, 0x3F54C77B, 0x3F53680D, 0x3F520D21, 0x3F50B6A0, 0x3F4F6475, 0x3F4E168A] ++
  [0x3F4CCCCD, 0x3F4B8728, 0x3F4A4588, 0x3F4907DA, 0x3F47CE0C, 0x3F46980C, 0x3F4565C8, 0x3F443730,
    0x3F430C31, 0x3F41E4BC, 0x3F40C0C1, 0x3F3FA030, 0x3F3E82FA, 0x3F3D6910, 0x3F3C5264, 0x3F3B3EE7,
    0x3F3A2E8C, 0x3F392144, 0x3F381703, 0x3F370FBB, 0x3F360B61, 0x3F3509E7, 0x3F340B41, 0x3F330F63,
    0x3F321643, 0x3F311FD4, 0x3F302C0B, 0x3F2F3ADE, 0x3F2E4C41, 0x3F2D602B, 0x3F2C7692, 0x3F2B8F6A] ++
  [0x3F2AAAAB, 0x3F29C84A, 0x3F28E83F, 0x3F280A81, 0x3F272F05, 0x3F2655C4, 0x3F257EB5, 0x3F24A9CF,
    0x3F23D70A, 0x3F23065E, 0x3F2237C3, 0x3F216B31, 0x3F20A0A1, 0x3F1FD80A, 0x3F1F1166, 0x3F1E4CAD,
    0x3F1D89D9, 0x3F1CC8E1, 0x3F1C09C1, 0x3F1B4C70, 0x3F1A90E8, 0x3F19D723, 0x3F191F1A, 0x3F1868C8,
    0x3F17B426, 0x3F17012E, 0x3F164FDA, 0x3F15A025, 0x3F14F209, 0x3F144581, 0x3F139A86, 0x3F12F114] ++
  [0x3F124925, 0x3F11A2B4, 0x3F10FDBC, 0x3F105A38, 0x3F0FB824, 0x3F0F177A, 0x3F0E7835, 0x3F0DDA52,
    0x3F0D3DCB, 0x3F0CA29C, 0x3F0C08C1, 0x3F0B7034, 0x3F0AD8F3, 0x3F0A42F8, 0x3F09AE41, 0x3F091AC7,
    0x3F088889, 0x3F07F781, 0x3F0767AB, 0x3F06D905, 0x3F064B8A, 0x3F05BF37, 0x3F053408, 0x3F04A9FA,
    0x3F042108, 0x3F039930, 0x3F03126F, 0x3F028CC0, 0x3F020821, 0x3F01848E, 0x3F010204, 0x3F008081]

/-- `VEXP2` (R85). -/
def sfuExp2 (x : Num) : Num × Flags :=
  match x with
  | .nan s => (.nan s, 0)
  | .inf s => if s then (.zero, 0) else (.inf false, 0)
  | .fin s m e =>
    if Num.lt x (.ofInt (-150)) then (.zero, 0)
    else if !Num.lt x (.ofInt 128) then (.inf false, flOF)
    else
      let k := (-e).toNat
      let num : Int := (if s then -1 else 1) * (if e ≥ 0 then m * 2 ^ e.toNat else m)
      let n : Int := num / 2 ^ k
      let rem := (num - n * 2 ^ k).toNat
      let j := 32 * rem / 2 ^ k
      let rr := Num.fin false (32 * rem - j * 2 ^ k) (-(k : Int) - 5)
      let a := fma32 rr (f32v 0x3D635847) (f32v 0x3E75FDF0)
      let b := fma32 rr a (f32v 0x3F317218)
      let p := fma32 rr b (.ofInt 1)
      let t := (Num.mul (f32v (tableT.getD j 0)) p).1
      let r := roundFloat .f32 .rne false 0 (Num.mul t (.pow2 n)).1
      (r.val, if r.val.isInf then flOF else 0)

/-- The exponent and the mantissa in [1, 2), as a multiple of 2^-23, of a nonzero f32 (R84). -/
def splitF32 (m : Nat) (e : Int) : Int × Nat :=
  let l := Nat.log2 m
  ((l : Int) + e, if l ≤ 23 then m * 2 ^ (23 - l) else m / 2 ^ (l - 23))

/-- `VRCP` (R86). -/
def sfuRcp (x : Num) : Num × Flags :=
  match x with
  | .nan s => (.nan s, 0)
  | .inf s => (.fin s 0 0, 0)
  | .fin s m e =>
    if m = 0 then (.inf s, flDZ)
    else
      let em := splitF32 m e
      let mm := Num.fin false em.2 (-23)
      let i := em.2 / 2 ^ 16 % 128
      let y0 := Num.fin false ((2 ^ 18 + 257 + 2 * i) / (514 + 4 * i)) (-9)
      let it (y : Num) : Num := fma32 y (fma32 mm.neg y (.ofInt 1)) y
      let y := it (it y0)
      let r := roundFloat .f32 .rne false 0 (Num.mul y (.pow2 (-em.1))).1
      (if s then r.val.neg else r.val, if r.val.isInf then flOF else 0)

/-- `VLOG2` (R87). -/
def sfuLog2 (x : Num) : Num × Flags :=
  match x with
  | .nan s => (.nan s, 0)
  | .inf s => if s then (.nan false, flNV) else (.inf false, 0)
  | .fin s m e =>
    if m = 0 then (.inf true, flDZ)
    else if s then (.nan false, flNV)
    else
      let em := splitF32 m e
      let i := em.2 / 2 ^ 16 % 128
      let mc := Num.fin false (em.2 - (128 + i) * 2 ^ 16) (-23)
      let u := rn32 (Num.mul mc (f32v (tableG.getD i 0))).1
      let a := fma32 u (f32v 0x3EF6384F) (f32v 0xBF38AA3B)
      let b := fma32 u a (f32v 0x3FB8AA3B)
      let w := fma32 u b (f32v (tableL.getD i 0))
      (rn32 (Num.add false (.ofInt em.1) w).1, 0)

/-- The table entry of R88: the integer nearest to 512 divided by the root of `a / 128`, a tie up. -/
def rsqSeed (a : Nat) : Nat :=
  (List.range 512).countP fun s => decide ((2 * s + 1) * (2 * s + 1) * a ≤ 134217728)

/-- `VRSQ` (R88). -/
def sfuRsq (x : Num) : Num × Flags :=
  match x with
  | .nan s => (.nan s, 0)
  | .inf s => if s then (.nan false, flNV) else (.zero, 0)
  | .fin s m e =>
    if m = 0 then (.inf s, flDZ)
    else if s then (.nan false, flNV)
    else
      let em := splitF32 m e
      let odd := em.1 % 2 == 1
      let mm := Num.fin false (if odd then 2 * em.2 else em.2) (-23)
      let ee := if odd then em.1 - 1 else em.1
      let j := em.2 / 2 ^ 17 % 64
      let y0 := Num.fin false (rsqSeed ((129 + 2 * j) * (if odd then 2 else 1))) (-9)
      let it (y : Num) : Num :=
        let h := rn32 (Num.mul mm y).1
        let er := fma32 h.neg y (.ofInt 1)
        fma32 (Num.mul y (.pow2 (-1))).1 er y
      let y := it (it y0)
      ((Num.mul y (.pow2 (-(ee / 2)))).1, 0)

/-- The SFU functions on f32 patterns. A NaN result is the canonical one (R70). -/
def sfuApply (fn : SfuFn) (b : Nat) : Nat × Flags :=
  let r := match fn with
    | .exp2 => sfuExp2 (f32v b)
    | .log2 => sfuLog2 (f32v b)
    | .rcp => sfuRcp (f32v b)
    | .rsq => sfuRsq (f32v b)
  (f32p r.1, r.2)

/-! ## The quantiser (R89) -/

/-- The largest exponent of a quantiser format. -/
def qntEmax : Ty → Int
  | .e2m1 => 2
  | .e4m3 => 8
  | _ => 15

/-- One candidate scale: patterns, flags and error. `gs` are the draws. -/
def qntTry (t : Ty) (mode : Rnd) (xs : List (Num × Nat)) (sc : Int) : List Nat × Flags × Num :=
  let rs := xs.map fun x => roundFloat t mode true x.2 (Num.mul x.1 (.pow2 (-sc))).1
  let err := (rs.zip xs).foldl (fun acc rx =>
    let d := (Num.add false (Num.mul rx.1.val (.pow2 sc)).1 rx.2.1.neg).1
    rn56 (Num.add false acc (rn56 (Num.mul d d).1)).1) Num.zero
  (rs.map fun r => (fmtOf t).pattern r.val, rs.foldl (fun f r => f ||| r.fl) 0, err)

/-- A block's scale byte, element patterns and flags (R89). -/
def qntBlock (t : Ty) (mode : Rnd) (xs : List (Num × Nat)) : Nat × List Nat × Flags :=
  let zeros := List.replicate xs.length 0
  if xs.any fun x => x.1.isNan || x.1.isInf then (0xFF, zeros, flNV)
  else
    let amax := xs.foldl (fun a x => if Num.lt a x.1.abs then x.1.abs else a) Num.zero
    if amax.isZero then (0, zeros, 0)
    else
      let e0 := amax.top - qntEmax t
      let ok (e : Int) : Bool := decide (-127 ≤ e) && decide (e ≤ 127)
      let cand := [e0, e0 + 1, e0 - 1].filter ok
      let cand := if cand.isEmpty then [if e0 < -127 then -127 else 127] else cand
      let tries := cand.map fun c => (c, qntTry t mode xs c)
      let best := tries.foldl (fun b c =>
        match b with
        | none => some c
        | some b => if Num.lt c.2.2.2 b.2.2.2 then some c else some b) none
      match best with
      | some (c, ps, fl, _) => ((c + 127).toNat, ps, fl)
      | none => (0, zeros, 0)

/-! ## Matrix sums (R90, R91) -/

/-- The exact sum of some numbers that are neither NaN nor infinities of both signs; an exact zero is -0 only
where every term is. -/
def sumExact (xs : List Num) : Num :=
  match xs with
  | [] => .zero
  | x :: xs => xs.foldl (fun a y => (Num.add false a y).1) x

/-- The exact sum of some products, each with whether it is an invalid operation. An invalid product, or
infinities of both signs, decides: NaN with sign 0 (R70). Otherwise a NaN has the sign of the first product
that is NaN: R70 orders the operands of one operation and not those of 16 products (DESIGN CHOICE, log 55). -/
def sumProducts (ps : List (Num × Bool)) : Num :=
  let xs := ps.map Prod.fst
  if ps.any Prod.snd || (xs.contains (.inf false) && xs.contains (.inf true)) then .nan false
  else match Num.firstNan xs with
    | some n => .nan n.sign
    | none => sumExact xs

/-- A group sum rounded once. -/
def groupSum (ps : List (Num × Bool)) : Num := rn56 (sumProducts ps)

/-- One addition to an fa56 value. -/
def addFa (a : BitVec 56) (x : Num) : BitVec 56 :=
  let y := rn56 (Num.add false ((fmtOf .fa56).value a.toNat) x).1
  BitVec.ofNat 56 ((fmtOf .fa56).pattern y)

/-- One addition to an i56 value, clamped (R71, R91). -/
def addI56 (a : BitVec 56) (x : Num) : BitVec 56 :=
  BitVec.ofNat 56 (Ty.i56.intPattern (clampInt .i56 (Ty.i56.intValue a.toNat + x.scaled 0)).1)

end Sys2Proof.Machine
end

