-- ==== Sys2Proof/Machine/Ops.lean ====
section
/-! DEFINITION. The named operations over the state: accessors, time, owners, the launch record's
fields, taking a trap and returning from one, ending a launch. -/

namespace Sys2Proof.Machine

/-! ## Cores and sequencers -/

def State.core (s : State) (c : Nat) : Core := vget Core.reset s.cores c

def State.setCore (s : State) (c : Nat) (k : Core) : State := { s with cores := vset s.cores c k }

def State.modCore (s : State) (c : Nat) (f : Core → Core) : State := s.setCore c (f (s.core c))

/-- Every core changed. -/
def State.mapCores (s : State) (f : Nat → Core → Core) : State := { s with cores := vmapi s.cores f }

def Core.seq (k : Core) : SeqId → Seq
  | .as => k.as
  | .xs => k.xs

def Core.setSeq (k : Core) : SeqId → Seq → Core
  | .as, q => { k with as := q }
  | .xs, q => { k with xs := q }

def Core.modSeq (k : Core) (i : SeqId) (f : Seq → Seq) : Core := k.setSeq i (f (k.seq i))

def Core.modX (k : Core) (f : XUnit → XUnit) : Core := { k with x := f k.x }

def SeqId.other : SeqId → SeqId
  | .as => .xs
  | .xs => .as

/-- The core and the sequencer that the instruction belongs to. -/
def State.cc (s : State) : Core := s.core s.cur.val

def State.modCC (s : State) (f : Core → Core) : State := s.modCore s.cur.val f

def State.sq (s : State) : Seq := s.cc.seq s.curSeq

def State.modSq (s : State) (f : Seq → Seq) : State := s.modCC fun k => k.modSeq s.curSeq f

/-- An s register: s0 reads 0 (R25). -/
def Seq.rs (q : Seq) (r : Fin 32) : Word := if r = 0 then 0 else vget 0 q.s r.val

/-- Writing an s register: a write to s0 is ignored (R25). -/
def Seq.ws (q : Seq) (r : Fin 32) (v : Word) : Seq := if r = 0 then q else { q with s := vset q.s r.val v }

/-- A flag: f7 reads 1 (R25). -/
def Seq.rf (q : Seq) (r : Fin 8) : Bool := if r = 7 then true else vget false q.f r.val

/-- Writing a flag: a write to f7 is ignored (R25). -/
def Seq.wf (q : Seq) (r : Fin 8) (v : Bool) : Seq := if r = 7 then q else { q with f := vset q.f r.val v }

def State.rs (s : State) (r : Fin 32) : Word := s.sq.rs r
def State.ws (s : State) (r : Fin 32) (v : Word) : State := s.modSq fun q => q.ws r v
def State.rf (s : State) (r : Fin 8) : Bool := s.sq.rf r
def State.wf (s : State) (r : Fin 8) (v : Bool) : State := s.modSq fun q => q.wf r v

/-- A vector register. -/
def XUnit.rv (x : XUnit) (r : Fin 32) : VReg := vget (Vector.replicate 1024 0) x.v r.val

def XUnit.wv (x : XUnit) (r : Fin 32) (v : VReg) : XUnit := { x with v := vset x.v r.val v }

/-- A predicate: p15 reads all ones (R25). -/
def XUnit.rp (x : XUnit) (r : Fin 16) : BitVec 1024 := if r = 15 then BitVec.allOnes 1024 else vget 0 x.p r.val

/-- Writing a predicate: a write to p15 is ignored (R25). -/
def XUnit.wp (x : XUnit) (r : Fin 16) (v : BitVec 1024) : XUnit :=
  if r = 15 then x else { x with p := vset x.p r.val v }

def State.rv (s : State) (r : Fin 32) : VReg := s.cc.x.rv r
def State.wv (s : State) (r : Fin 32) (v : VReg) : State := s.modCC fun k => k.modX fun x => x.wv r v
def State.rp (s : State) (r : Fin 16) : BitVec 1024 := s.cc.x.rp r
def State.wp (s : State) (r : Fin 16) (v : BitVec 1024) : State := s.modCC fun k => k.modX fun x => x.wp r v

/-- Whether a vector result is written before slot `n`, or has fewer than `m` issue slots left. -/
def FlagPend.past (n m : Nat) (e : FlagPend) : Bool := decide (e.due < n) || decide (e.left < m)

/-- Flags of drains that a completed `WAITMK` covers are in VSTAT for every read (R82). -/
def XUnit.reveal (ticket : Nat) (x : XUnit) : XUnit :=
  { x with
    vstat := x.drained.foldl (fun v e => if e.ticket < ticket then v ||| e.fl else v) x.vstat
    drained := x.drained.filter fun e => !decide (e.ticket < ticket) }

/-- A write of ones to VSTAT clears the flags of drains that completed before the slot too (R81, R82). -/
def XUnit.clearDrained (n : Nat) (m : BitVec 6) (x : XUnit) : XUnit :=
  { x with drained := x.drained.map fun e => if e.due < n then { e with fl := e.fl &&& ~~~m } else e }

/-- The flags of vector results that are written by then are in VSTAT (R82). -/
def XUnit.settle (n m : Nat) (x : XUnit) : XUnit :=
  { x with
    vstat := x.vflags.foldl (fun v e => if e.past n m then v ||| e.fl else v) x.vstat
    vflags := x.vflags.filter fun e => !e.past n m }

/-- Issue slots of the XS go by. -/
def XUnit.pass (n : Nat) (x : XUnit) : XUnit := { x with vflags := x.vflags.map fun e => { e with left := e.left - n } }

/-- Every vector result is written: their flags are in VSTAT (R371). -/
def XUnit.settleAll (x : XUnit) : XUnit :=
  { x with vstat := x.vflags.foldl (fun v e => v ||| e.fl) x.vstat, vflags := [] }

/-- Flags of a vector result that is written after `lat` slots (R32, R82). -/
def State.orFlags (s : State) (lat : Nat) (fl : Flags) : State :=
  if fl = 0 then s
  else s.modCC fun k => k.modX fun x =>
    let x := x.settle s.cycle 1
    { x with vflags := x.vflags ++ [⟨s.cycle + lat, lat + 1, fl⟩] }

def Core.tile (k : Core) (t : Fin 32) : Tile := vget ⟨.empty, 0, 0⟩ k.tiles t.val
def Core.setTile (k : Core) (t : Fin 32) (e : Tile) : Core := { k with tiles := vset k.tiles t.val e }
def Core.setTileState (k : Core) (t : Fin 32) (st : TileState) : Core :=
  k.setTile t { k.tile t with state := st }

/-- Takes the next ticket of a core. -/
def Core.takeTicket (k : Core) : Nat × Core := (k.ticket, { k with ticket := k.ticket + 1 })

/-! ## Coordinates (R17, R20, R39, R41) -/

/-- Logical column and row of a package rank (R265). -/
def coreX (c : Nat) : Nat := c % 32
def coreY (c : Nat) : Nat := c / 32
def coreAt (x y : Nat) : Nat := 32 * y + x
def leafOf (c : Nat) : Nat := coreX c / 16

/-- The physical row of a logical row (R17). -/
def State.physRow (s : State) (leaf y : Nat) : Nat :=
  match vget none s.retired leaf with
  | some p => if p ≤ y then y + 1 else y
  | none => y

/-- Hops between two cores, between physical router positions, the crossing counting 8 (R16, R18). -/
def State.hops (s : State) (a b : Nat) : Nat :=
  let d (x y : Nat) : Nat := if x ≤ y then y - x else x - y
  let ya := s.physRow (leafOf a) (coreY a)
  let yb := s.physRow (leafOf b) (coreY b)
  if leafOf a = leafOf b then d (coreX a) (coreX b) + d ya yb
  else d (coreX a) (coreX b) - 1 + 8 + d ya yb

/-! ## Time (R4, R278) -/

def slotsPerUs : Nat := 3300

/-- TIMEBASE: nanoseconds since package reset (DEDUCED from R4 and R278, log 7). -/
def State.timebase (s : State) : Word := wd (s.cycle * 10 / 33)

/-- The stamp of R130: bits 21:6 of TIMEBASE. -/
def State.stamp (s : State) : BitVec 16 := s.timebase.extractLsb' 6 16

/-! ## Owners (R135, R244) -/

/-- The PF's function number. -/
def pfFn : Nat := 64

/-- The owner tag of a function. -/
def ownerTag (fn : Nat) : BitVec 8 := if fn = pfFn then 0 else BitVec.ofNat 8 (fn + 1)

/-- The VF number that an event carries: 0xFF for the PF (R242). -/
def eventVf (fn : Nat) : Nat := if fn = pfFn then 0xFF else fn

def State.fnRegs (s : State) (fn : Nat) : FnRegs := vget FnRegs.reset s.fns fn

def State.modFn (s : State) (fn : Nat) (f : FnRegs → FnRegs) : State :=
  { s with fns := vset s.fns fn (f (s.fnRegs fn)) }

/-- A PF register (Tables 15.11, 16.1). -/
def State.pfReg (s : State) (off : Nat) : Word := SMap.get 0 s.pf off

def State.setPfReg (s : State) (off : Nat) (v : Word) : State := { s with pf := SMap.set 0 s.pf off v }

/-- A dropped hint (R126, R132): HINTDROP saturates. -/
def State.dropHint (s : State) (fn : Nat) : State :=
  s.modFn fn fun r => { r with hintdrop := if r.hintdrop = BitVec.allOnes 48 then r.hintdrop else r.hintdrop + 1 }

/-- A free 64-bit value (log 16). -/
def State.takeFree (s : State) : Word × State := (Config.freeWord s.fresh, { s with fresh := s.fresh + 1 })

/-- A fresh number for a miss, a request or a launch (the model's own, log 1). -/
def State.takeId (s : State) : Nat × State := (s.nextId, { s with nextId := s.nextId + 1 })

/-! ## The launch record (Table 3.1) -/

def recWord (r : Line) (i : Nat) : Word := lineWord r i

namespace Launch

def asEnt (l : Launch) : Word := lineWord l.record 0
def xsEnt (l : Launch) : Word := lineWord l.record 1
def argp (l : Launch) : Word := lineWord l.record 2
def wid (l : Launch) : Nat := bf (lineWord l.record 3) 7 0
def hgt (l : Launch) : Nat := bf (lineWord l.record 3) 15 8
def flagP (l : Launch) : Bool := bt (lineWord l.record 3) 16
def flagD (l : Launch) : Bool := bt (lineWord l.record 3) 17
def flagH (l : Launch) : Bool := bt (lineWord l.record 3) 18
def flagX (l : Launch) : Bool := bt (lineWord l.record 3) 19
def flagS (l : Launch) : Bool := bt (lineWord l.record 3) 20
def foot (l : Launch) : Nat := bf (lineWord l.record 3) 47 32
def ntile (l : Launch) : Nat := bf (lineWord l.record 3) 55 48
def cls (l : Launch) : Nat := bf (lineWord l.record 4) 1 0
/-- DEADLINE in µs -/
def dline (l : Launch) : Nat := bf (lineWord l.record 4) 31 8
def gath (l : Launch) : Nat := bf (lineWord l.record 4) 43 32
def apcnt (l : Launch) : Nat := bf (lineWord l.record 4) 63 48
def affin (l : Launch) : Word := lineWord l.record 5
def costC (l : Launch) : Nat := bf (lineWord l.record 6) 31 0
def costB (l : Launch) : Nat := bf (lineWord l.record 6) 63 32
def cptr (l : Launch) : Word := lineWord l.record 7
def owner (l : Launch) : BitVec 8 := ownerTag l.fn
/-- Vault bytes of the footprint. -/
def footBytes (l : Launch) : Nat := 1024 * l.foot

/-- A launch of no record, read where a core has none. -/
def blank : Launch where
  id := 0
  record := 0
  fn := 0
  sup := false
  mayP := false
  mayS := false
  mayD := false
  may3 := false
  poster := none
  leaf := 0
  region := 0
  front := false
  arrival := 0
  admitted := 0
  deadline := 0
  state := .port
  x0 := 0
  y0 := 0
  tiles := []
  handles := []
  status := .ok
  detail := 0
  frank := 0
  excused := false
  usedC := 0
  usedB := 0
  placedAt := 0
  image := none
  cores := []
  measure := 0
  cfg := ⟨0, 0, 0, 0, 0, 0, 0, 0, 0, [], []⟩
  accepted := false
  step := none
  leftC := []
  leftG := []

/-- The core of a rank, in copy 0 or copy 1 (R39, R251). -/
def coreOf (l : Launch) (copy1 : Bool) (rank : Nat) : Nat :=
  coreAt (l.x0 + (if copy1 then 16 else 0) + rank % l.wid) (l.y0 + rank / l.wid)

/-- The package ranks of one copy, in rank order. -/
def copyCores (l : Launch) (copy1 : Bool) : List Nat :=
  (List.range (l.wid * l.hgt)).map (l.coreOf copy1)

/-- Cores of one copy, and core-slots of a launch since its placement (R49). -/
def spent (l : Launch) (now : Nat) : Nat := (now - l.placedAt) * (l.wid * l.hgt * (if l.flagD then 2 else 1))

/-- Every core of a launch. -/
def allCores (l : Launch) : List Nat :=
  if l.flagD then l.copyCores false ++ l.copyCores true else l.copyCores false

end Launch

def State.launch? (s : State) (id : Nat) : Option Launch := s.launches.find? fun l => l.id == id

def State.modLaunch (s : State) (id : Nat) (f : Launch → Launch) : State :=
  { s with launches := modFirst (fun l => l.id == id) f s.launches }

/-- The launch of a core. -/
def State.launchOn (s : State) (c : Nat) : Launch :=
  ((s.core c).launch.bind s.launch?).getD Launch.blank

/-- The launch of the acting core. -/
def State.lc (s : State) : Launch := s.launchOn s.cur.val

/-- The acting agent (R142). -/
def State.nodeId (s : State) : BitVec 12 := (s.pfReg 0x21020).extractLsb' 0 12

def State.agentOf (s : State) (c : Nat) (q : SeqId) : Agent where
  node := s.nodeId
  core := c
  seq := q
  launch := (s.launchOn c).id

/-! ## Ending a launch -/

/-- A sequencer that has stopped for good. -/
def Seq.halt (q : Seq) : Seq := { q with run := .stopped, wait := none, pend := none, results := [] }

/-- A core of a draining launch (R63): queue and branch-outcome entries, pending SFU results and the
accumulator are discarded, and with it the matrix commands not yet done (log 23). World tags stay: only
`WTCLR` clears one (R257). -/
def Core.drain (k : Core) : Core :=
  { k with
    as := k.as.halt
    xs := k.xs.halt
    q := Vector.replicate 8 []
    bqA := []
    bqX := []
    bqPois := 0
    x := { k.x with sfu := [], sfuH := [] }
    acc := Vector.replicate 128 (Vector.replicate 128 0)
    matQ := []
    phase := none
    ppre := none
    beats := [] }

def State.modCores (s : State) (cs : List Nat) (f : Core → Core) : State :=
  cs.foldl (fun s c => s.modCore c f) s

/-- Ends a running launch with a status (R63, R225, R229): every sequencer of every core stops and
the launch drains. A launch that is already draining keeps the status it has. -/
def State.endLaunch (s : State) (id : Nat) (st : Status) (detail : BitVec 8) (frank : Nat) : State :=
  match s.launch? id with
  | none => s
  | some l =>
    if l.state = .running then
      let s := s.modLaunch id fun l => { l with state := .draining, status := st, detail := detail, frank := frank, step := none }
      s.modCores (l.allCores.filter fun c => (s.core c).launch == some id) Core.drain
    else s

/-! ## Traps (R225, R226) -/

def cRI : BitVec 8 := 0x01
def cWSEQ : BitVec 8 := 0x02
def cPRIV : BitVec 8 := 0x03
def cALIGN : BitVec 8 := 0x04
def cXLATE : BitVec 8 := 0x05
def cRSVD : BitVec 8 := 0x06
def cPERM : BitVec 8 := 0x07
def cWORLD : BitVec 8 := 0x08
def cSCOPE : BitVec 8 := 0x09
def cBOUNDS : BitVec 8 := 0x0A
def cTILE : BitVec 8 := 0x0B
def cQUEUE : BitVec 8 := 0x0C
def cSHAPE : BitVec 8 := 0x0D
def cADAPT : BitVec 8 := 0x0E
def cPOISON : BitVec 8 := 0x0F
def cINTEG : BitVec 8 := 0x10
def cREVOKED : BitVec 8 := 0x11
def cFABRIC : BitVec 8 := 0x12
def cKEY : BitVec 8 := 0x13
def cSCHED : BitVec 8 := 0x14
def cMSG : BitVec 8 := 0x15
def cSWTRAP : BitVec 8 := 0x16
def cBKPT : BitVec 8 := 0x17

/-- A trap: its cause and the two information words. -/
structure Trap where
  cause : BitVec 8
  e0 : Word
  e1 : Word
  deriving DecidableEq, Repr

/-- EINFO1 of a translation trap (Table 7.4). -/
def einfoX (reason : Nat) (wr : Bool) (level : Nat) : Word := wd (16 * reason + 8 * b2n wr + level)

/-- A pending result reaches its register, with its tag and its poison. -/
def Seq.landResult (q : Seq) (r : Result) : Seq :=
  if r.dst = 0 then q
  else
    let q := q.ws r.dst r.val
    { q with
      sSec := setBit q.sSec r.dst.val r.sec
      sPois := match r.bad with
        | some b => SMap.insert q.sPois r.dst.val b
        | none => SMap.erase q.sPois r.dst.val }

/-- Whether a result travels on the lateral network. -/
def Result.remote (r : Result) : Bool :=
  match r.src with
  | .vault _ => true
  | _ => false

/-- Every pending result is written. -/
def Seq.flush (q : Seq) : Seq := { q.results.foldl Seq.landResult q with results := [] }

/-- Whether an own result still travels, so that no trap may be taken yet (R331). -/
def Seq.travels (q : Seq) : Bool := q.results.any Result.remote

/-- A sequencer that enters its handler (R225). -/
def Seq.enter (q : Seq) (t : Trap) (secure : Bool) : Seq :=
  { q with
    epc := q.pc
    ecause := t.cause
    einfo0 := t.e0
    einfo1 := t.e1
    pmode := q.mode
    mode := if secure then 3 else if q.mode = 0 then 1 else q.mode
    inh := true
    pc := q.tvec
    wait := none
    stall := none
    resumed := false }

/-- A sequencer of a core takes a trap (R225): every result that it has pending is written first (R323,
R331), then it enters its handler, or with no handler or inside one the launch ends FAULT. SFU results that
the launch has pending are held (R36): a handler's instructions count by themselves. -/
def State.trapOn (s : State) (c : Nat) (i : SeqId) (t : Trap) : State :=
  let k := s.core c
  let q := k.seq i
  let l := s.launchOn c
  if q.inh || q.tvec = 0 then s.endLaunch l.id .fault t.cause k.rank
  else
    let k := k.setSeq i (q.flush.enter t l.flagS)
    s.setCore c (match i with
      | .xs => k.modX fun x => { x.settleAll with hcount := 0 }
      | .as => k)

/-- The acting sequencer takes a trap. -/
def State.takeTrap (s : State) (t : Trap) : State := s.trapOn s.cur.val s.curSeq t

/-- The return from a handler (R225): MODE, INH and the pc. The instruction resumed takes a pending report
(R326). -/
def Seq.leave (q : Seq) : Seq := { q with mode := q.pmode, inh := false, pc := q.epc, stall := none, resumed := true }

end Sys2Proof.Machine
end

