-- ==== Sys2Proof/Machine/Translate.lean ====
section
/-! DEFINITION. Translation (chapter 7): the extent map, the five-level walk, the translation caches,
the checks after it, and the A, D and dirty-bitmap updates. -/

namespace Sys2Proof.Machine

/-- Who translates: the core whose first-level TLB is used (none for the device itself), the launch that its
requests are charged to (R49), the leaf, the function, the mode and world of the access, the root table (R113), and
the class and stamp of the requests that it makes (R130). -/
structure XCtx where
  core : Option Nat
  launch : Option Nat
  leaf : Nat
  fn : Nat
  user : Bool
  secure : Bool
  root : Nat
  cls : Nat
  stamp : BitVec 16
  deriving DecidableEq, Repr

/-- A root table is 4 KiB-aligned and lies within 52 bits (R113, R244). -/
def rootOf (w : Word) : Nat := bf w 51 12 * 4096

/-- The root register of a function (Table 15.11). -/
def State.rootReg (s : State) (fn : Nat) : Word := s.pfReg (if fn = pfFn then 0x21F00 else 8 * fn)

/-- The root table of a function for an access that belongs to no launch. -/
def State.root (s : State) (fn : Nat) : Nat := rootOf (s.rootReg fn)

/-- The PF's registers that govern a launch of a function admitted now (R243). -/
def State.cfgOf (s : State) (fn : Nat) : LaunchCfg where
  root := s.rootReg fn
  part := s.pfReg (0x21900 + 8 * fn)
  saveBase := s.pfReg (0x21700 + 8 * fn)
  ovfl := s.pfReg (0x21500 + 8 * fn)
  attBase := s.pfReg 0x21000
  attCnt := s.pfReg 0x21008
  acWays := bf (s.pfReg 0x21010) 3 0
  balth := (s.pfReg 0x21018).toNat
  slice := (s.pfReg 0x21C00).toNat
  bg := (List.range 4).map fun i => s.pfReg (0x21B00 + 8 * i)
  ctx := s.pf.filter fun w => decide (0x22000 ≤ w.1) && decide (w.1 < 0x24000)

/-- The class and stamp of a launch's requests (R130): the deadline, at most 2^15 - 1 units ahead. -/
def State.stampOf (s : State) (l : Launch) : Nat × BitVec 16 :=
  let now := s.cycle * 10 / 33 / 64
  let dl := l.deadline * 10 / 33 / 64
  if l.cls ≤ 1 then (l.cls, BitVec.ofNat 16 (min dl (now + 32767))) else (l.cls, BitVec.ofNat 16 now)

/-- The class and stamp of a request that the device makes for no launch: class 3, stamped with its issue
time (R130 gives none; DESIGN CHOICE, log 53). -/
def State.deviceStamp (s : State) : Nat × BitVec 16 := (3, BitVec.ofNat 16 (s.cycle * 10 / 33 / 64))

/-- The translation context of a core for a sequencer (R113, R118): the launch walks from the root that
stood when it was admitted (R243). -/
def State.xctx (s : State) (c : Nat) (user : Bool) : XCtx :=
  let l := s.launchOn c
  ⟨some c, some l.id, leafOf c, l.fn, user, l.flagS, rootOf l.cfg.root, (s.stampOf l).1, (s.stampOf l).2⟩

/-- The translation context of the device for a function, outside any core and launch. -/
def State.devCtx (s : State) (leaf fn : Nat) (user secure : Bool) : XCtx :=
  ⟨none, none, leaf, fn, user, secure, s.root fn, s.deviceStamp.1, s.deviceStamp.2⟩

/-- The translation context of the device for a launch that holds no core (R46). -/
def State.launchCtx (s : State) (l : Launch) : XCtx :=
  ⟨none, some l.id, l.leaf, l.fn, false, l.flagS, rootOf l.cfg.root, (s.stampOf l).1, (s.stampOf l).2⟩

/-! ## Extents (R122, R123) -/

/-- An extent as read from its descriptor (Table 7.6). -/
structure Ext where
  gbase : Nat
  size : Nat
  hbase : Nat
  fl : Word
  deriving DecidableEq, Repr

def Ext.w (e : Ext) : Bool := bt e.fl 2
def Ext.ws (e : Ext) : Bool := bt e.fl 3
def Ext.sup (e : Ext) : Bool := bt e.fl 4
def Ext.dt (e : Ext) : Bool := bt e.fl 5
def Ext.sh (e : Ext) : Bool := bt e.fl 6
def Ext.rev (e : Ext) : Bool := bt e.fl 7
def Ext.valid (e : Ext) : Bool := bt e.fl 0
def Ext.bytes (e : Ext) : Nat := 65536 * e.size
def Ext.bmap (e : Ext) : Nat := bf e.fl 51 12 * 4096

/-- Offset of extent descriptor `i` of a VF (Table 15.11). -/
def extOff (vf i : Nat) : Nat := 0x1000 + 0x800 * vf + 32 * i

def State.ext (s : State) (vf i : Nat) : Ext where
  gbase := (s.pfReg (extOff vf i)).toNat
  size := bf (s.pfReg (extOff vf i + 8)) 35 0
  hbase := (s.pfReg (extOff vf i + 16)).toNat
  fl := s.pfReg (extOff vf i + 24)

/-- The valid extent of a VF that holds a guest-physical address. -/
def State.findExt (s : State) (vf gpa : Nat) : Option Ext :=
  (List.range 64).findSome? fun i =>
    let e := s.ext vf i
    if e.valid && decide (e.gbase ≤ gpa) && decide (gpa < e.gbase + e.bytes) then some e else none

/-- Guest-physical address of a host-physical one: through a valid extent of a VF, and itself for the PF. -/
def State.toGuest (s : State) (fn pa : Nat) : Option Nat :=
  if fn = pfFn then some pa
  else (List.range 64).findSome? fun i =>
    let e := s.ext fn i
    if e.valid && decide (e.hbase ≤ pa) && decide (pa < e.hbase + e.bytes) then some (e.gbase + (pa - e.hbase)) else none

/-- Host-physical address of a guest-physical one: the PF has no extent map (R244); `none` is an
extent miss (R123). -/
def State.toHost (s : State) (fn gpa : Nat) : Option (Nat × Option Ext) :=
  if fn = pfFn then some (gpa, none)
  else (s.findExt fn gpa).map fun e => (e.hbase + (gpa - e.gbase), some e)

/-! ## Host-physical windows (R127) -/

/-- An HBM stack or a CXL port, with the leaf that is home to its lines. -/
inductive Window where
  | hbm (stack : Nat)
  | cxl (port : Nat)
  | mmio
  deriving DecidableEq, Repr

def hbmTop : Nat := 12 * 0xBA0000000

def windowOf (pa : Nat) : Window :=
  if pa < hbmTop then .hbm (pa / 0xBA0000000)
  else if pa < 0x1000000000000 then .mmio
  else if pa < 0x8000000000000 then .cxl 0
  else if pa < 0x10000000000000 then .cxl 1
  else .mmio

/-- The leaf whose MSC is a line's home. -/
def homeLeaf (pa : Nat) : Nat :=
  match windowOf pa with
  | .hbm st => st / 6
  | .cxl p => p
  | .mmio => 0

/-- The channel of a line: the 12 stacks, then the two CXL ports. -/
def channelOf (pa : Nat) : Nat :=
  match windowOf pa with
  | .hbm st => st
  | .cxl p => 12 + p
  | .mmio => 14

/-! ## Device updates of tables and bitmaps (R117, R124) -/

/-- A raw write at a home station, without a change of owner. -/
def State.rawWrite (s : State) (pa : Nat) (bs : List Byte) : State := { s with mem := s.mem.write pa bs }

/-- A request at a line's channel (R130), for a function. -/
def State.hbmRequest (s : State) (pa bytes fn cls : Nat) (stamp : BitVec 16) : State :=
  { s with hbm := s.hbm ++ [⟨channelOf pa, cls, stamp, fn, bytes, s.nextArr⟩], nextArr := s.nextArr + 1 }

/-- A request of the device's own, for a function, where no MSC holds the line (log 53). -/
def State.deviceRequest (s : State) (pa fn : Nat) : State :=
  if (vget [] s.msc (homeLeaf pa)).any fun l => l.addr == pa / 64 * 64 then s
  else s.hbmRequest pa 64 fn s.deviceStamp.1 s.deviceStamp.2

/-- The valid extents of every VF that are dirty-tracked. -/
def State.dtExts (s : State) : List Ext :=
  s.pf.filterMap fun w =>
    if 0x1000 ≤ w.1 ∧ w.1 < 0x21000 ∧ w.1 % 32 = 24 ∧ bt w.2 0 = true ∧ bt w.2 5 = true then
      some (s.ext ((w.1 - 0x1000) / 0x800) (w.1 % 0x800 / 32))
    else none

/-- Sets the dirty bit of a unit of an extent, by an OR at the home of its bitmap word (R124). -/
def State.setUnit (s : State) (e : Ext) (u : Nat) : State :=
  let a := e.bmap + 8 * (u / 64) + u % 64 / 8
  (s.deviceRequest a pfFn).rawWrite a [s.mem.byte a ||| BitVec.ofNat 8 (2 ^ (u % 8))]

/-- Sets the dirty bits of bytes in an extent. -/
def State.setUnits (s : State) (e : Ext) (a n : Nat) : State :=
  let lo := max a e.hbase
  let hi := min (a + n) (e.hbase + e.bytes)
  if lo < hi then
    (List.range ((hi - 1 - e.hbase) / 65536 + 1 - (lo - e.hbase) / 65536)).foldl (fun s i => s.setUnit e ((lo - e.hbase) / 65536 + i)) s
  else s

/-- Sets the dirty bits of bytes, in every extent that is dirty-tracked, before a write of them performs: a write may
come from any path (R124). -/
def State.dirtied (s : State) (a n : Nat) : State := s.dtExts.foldl (fun s e => s.setUnits e a n) s

/-! ## The walk (R115) -/

/-- A translation: the leaf and where it lies. -/
structure Leaf where
  e : Word
  lvl : Nat
  ea : Nat
  deriving DecidableEq, Repr

/-- log2 of the bytes that a cached translation covers (Table 7.1, R116). -/
def Leaf.sz (l : Leaf) : Nat := 12 + 9 * (4 - l.lvl) + (if bt l.e 5 then 4 else 0)

def Leaf.ca (l : Leaf) : Nat := bf l.e 7 6
def Leaf.w (l : Leaf) : Bool := bt l.e 2
def Leaf.ws (l : Leaf) : Bool := bt l.e 8

/-- Guest-physical address that a translation gives a virtual address. -/
def Leaf.gpa (l : Leaf) (va : Nat) : Nat :=
  let m := 2 ^ l.sz
  bf l.e 51 12 * 4096 / m * m + va % m

/-- What a walk finds: a leaf with the table entries it passed, a trap cause at a level, or an
extent miss. -/
inductive Walked where
  | leaf (l : Leaf) (seen : List (Nat × Nat))
  | bad (cause : BitVec 8) (lvl : Nat)
  | miss (gpa : Nat)
  deriving DecidableEq, Repr

/-- Index of a level (Table 7.1). -/
def walkIndex (va l : Nat) : Nat := va / 2 ^ (48 - 9 * l) % 512

/-- The walk from a table on, through the levels given (R115). `seen` gathers the tables passed. The walker
reads an entry as it stands whatever owner wrote it: R135 does not say that its reads are a function's
(DESIGN CHOICE, log 54). -/
def State.walkFrom (s : State) (fn va : Nat) : Nat → List Nat → List (Nat × Nat) → Walked
  | _, [], _ => .bad cRSVD 4
  | ta, l :: ls, seen =>
    let ea := ta + 8 * walkIndex va l
    match s.toHost fn ea with
    | none => .miss ea
    | some (pa, _) =>
      let e := wd (s.mem.readNat pa 8)
      if !bt e 0 then .bad cXLATE l
      else if bf e 58 52 != 0 then .bad cRSVD l
      else if !bt e 1 then
        if l == 4 || bf e 11 2 != 0 then .bad cRSVD l
        else State.walkFrom s fn va (bf e 51 12 * 4096) ls (seen ++ [(l, bf e 51 12 * 4096)])
      else
        let sz := 12 + 9 * (4 - l)
        if decide (l < 2) || bf e 11 9 != 0 then .bad cRSVD l
        else if decide (sz > 12) && bf e (sz - 1) 12 != 0 then .bad cRSVD l
        else if bt e 5 && bf e (sz + 3) sz != va / 2 ^ sz % 16 then .bad cRSVD l
        else .leaf ⟨e, l, ea⟩ seen

/-- Host-physical addresses of the entries that a walk reads (R115). -/
def State.walkReads (s : State) (fn va : Nat) : Nat → List Nat → List Nat
  | _, [] => []
  | ta, l :: ls =>
    match s.toHost fn (ta + 8 * walkIndex va l) with
    | none => []
    | some (pa, _) =>
      let e := wd (s.mem.readNat pa 8)
      pa :: (if bt e 0 && !bt e 1 then State.walkReads s fn va (bf e 51 12 * 4096) ls else [])

/-! ## Translation caches (R119) -/

def TlbEnt.hits (t : TlbEnt) (fn va : Nat) : Bool := t.fn == fn && t.va == va / 2 ^ t.sz * 2 ^ t.sz

def TlbEnt.leafOf (t : TlbEnt) : Leaf := ⟨t.leaf, t.lvl, t.ea⟩

/-- Puts an entry last, dropping the oldest beyond the capacity (log 8). -/
def fifo {α : Type} (cap : Nat) (l : List α) (x : α) : List α :=
  let l := l ++ [x]
  l.drop (l.length - cap)

def State.tlbOf (s : State) (x : XCtx) : List TlbEnt :=
  match x.core with
  | some c => (s.core c).tlb
  | none => []

/-- Installs a translation in the first-level TLB of the core and in the leaf's second-level TLB. -/
def State.install (s : State) (x : XCtx) (t : TlbEnt) (both : Bool) : State :=
  let s := match x.core with
    | some c => s.modCore c fun k => { k with tlb := fifo 512 k.tlb t }
    | none => s
  if both then { s with tlb2 := vset s.tlb2 x.leaf (fifo 32768 (vget [] s.tlb2 x.leaf) t) } else s

/-- Changes the cached copies of a leaf (its A and D bits). -/
def State.updateTlb (s : State) (x : XCtx) (ea : Nat) (e : Word) : State :=
  let f (t : TlbEnt) : TlbEnt := if t.fn == x.fn && t.ea == ea then { t with leaf := e } else t
  let s := match x.core with
    | some c => s.modCore c fun k => { k with tlb := k.tlb.map f }
    | none => s
  { s with tlb2 := vset s.tlb2 x.leaf ((vget [] s.tlb2 x.leaf).map f) }

/-- Drops the cached copies of a leaf. -/
def State.dropTlb (s : State) (x : XCtx) (ea : Nat) : State :=
  let keep (t : TlbEnt) : Bool := !(t.fn == x.fn && t.ea == ea)
  let s := match x.core with
    | some c => s.modCore c fun k => { k with tlb := k.tlb.filter keep }
    | none => s
  { s with tlb2 := vset s.tlb2 x.leaf ((vget [] s.tlb2 x.leaf).filter keep) }

/-- What a lookup finds (R119), and whether it comes from the TLBs or from a walk. -/
inductive Found where
  | tlb1 (l : Leaf)
  | tlb2 (l : Leaf)
  | walked (w : Walked)
  deriving DecidableEq, Repr

/-- Where a walk begins: after the deepest walk-cache hit, or at the root (R119). -/
def State.walkStart (s : State) (x : XCtx) (va : Nat) : Nat × List Nat :=
  let wc := vget [] s.walk x.leaf
  let hit := [3, 2, 1, 0].findSome? fun l =>
    (wc.find? fun e => e.fn == x.fn && e.lvl == l && e.vaTop == va / 2 ^ (48 - 9 * l)).map fun e => (l, e.table)
  match hit with
  | some (l, ta) => (ta, (List.range 5).drop (l + 1))
  | none => (x.root, List.range 5)

/-- The lookup order of R119: first-level TLB, second-level TLB, the deepest walk-cache hit. Where the
entries of a run with C = 1 disagree, R116 lets any of its entries with V = 1 and C = 1 translate: the model
takes a cached entry of the run, else the accessed page's own entry, be its C 0 (DESIGN CHOICE, log 54). -/
def State.lookup (s : State) (x : XCtx) (va : Nat) : Found :=
  match (s.tlbOf x).find? fun t => t.hits x.fn va with
  | some t => .tlb1 t.leafOf
  | none =>
    match (vget [] s.tlb2 x.leaf).find? fun t => t.hits x.fn va with
    | some t => .tlb2 t.leafOf
    | none => .walked (s.walkFrom x.fn va (s.walkStart x va).1 (s.walkStart x va).2 [])

/-! ## One page -/

/-- A translated address: host-physical and guest-physical place, attributes, and the extent it came
through. -/
structure Page where
  pa : Nat
  gpa : Nat
  ca : Nat
  ws : Bool
  sh : Bool
  lvl : Nat
  ext : Option Ext
  deriving DecidableEq, Repr

/-- What an access to memory meets, each with the state that its reads and walks leave. -/
inductive Acc (α : Type) where
  | ok (s : State) (a : α)
  | trap (s : State) (t : Trap)
  | miss (s : State) (fn gpa : Nat)

/-- The first check of Table 7.3 that fails: cause and reason. -/
def pageCheck (x : XCtx) (wr fetch : Bool) (l : Leaf) (e : Option Ext) : Option (BitVec 8 × Nat) :=
  let ex (f : Ext → Bool) : Bool := (e.map f).getD false
  if wr && !l.w then some (cPERM, 1)
  else if wr && ex (fun e => !e.w || e.sh) then some (cPERM, 2)
  else if x.user && ex Ext.sup then some (cPERM, 3)
  else if fetch && (l.w || l.ca == 3) then some (cPERM, 4)
  else if l.ws && !x.secure then some (cWORLD, 5)
  else if ex (fun e => e.ws != l.ws) then some (cWORLD, 6)
  else if ex Ext.rev then some (cREVOKED, 12)
  else none

/-- A page found, with the check that fails and what is to be cached (R118). -/
structure PageTry where
  page : Page
  leaf : Leaf
  bad : Option (BitVec 8 × Nat)
  fromL2 : Bool
  walked : Bool
  seen : List (Nat × Nat)
  deriving DecidableEq, Repr

/-- Looks up one page and applies the checks; changes nothing (R115, R118, R119). -/
def State.tryPage (s : State) (x : XCtx) (wr fetch : Bool) (ptr : Word) (va : Nat) : Acc PageTry :=
  let go (l : Leaf) (fromL2 walked : Bool) (seen : List (Nat × Nat)) : Acc PageTry :=
    match s.toHost x.fn (l.gpa va) with
    | none => .miss s x.fn (l.gpa va)
    | some (pa, e) =>
      let ca := if windowOf pa = .mmio then 3 else l.ca
      let sh := (e.map Ext.sh).getD false
      .ok s ⟨⟨pa, l.gpa va, ca, l.ws, sh, l.lvl, e⟩, l, pageCheck x wr fetch l e, fromL2, walked, seen⟩
  match s.lookup x va with
  | .tlb1 l => go l false false []
  | .tlb2 l => go l true false []
  | .walked (.leaf l seen) => go l false true seen
  | .walked (.bad c lvl) => .trap s ⟨c, ptr, einfoX 0 wr lvl⟩
  | .walked (.miss g) => .miss s x.fn g

/-- Whether an address lies in HBM. -/
def inHbm (pa : Nat) : Bool :=
  match windowOf pa with
  | .hbm _ => true
  | _ => false

/-- HBM bytes that a launch has consumed (R49): those of its requests to HBM. -/
def State.charge (s : State) (id pa n : Nat) : State :=
  if inHbm pa then s.modLaunch id fun l => { l with usedB := l.usedB + n } else s

/-- A request of a launch (R49, R130). -/
def State.launchRequest (s : State) (l : Launch) (fn pa bytes : Nat) : State :=
  (s.hbmRequest pa bytes fn (s.stampOf l).1 (s.stampOf l).2).charge l.id pa bytes

/-- A request of a context for a table's line that no MSC holds (R49, R130). -/
def State.tableRequest (s : State) (x : XCtx) (pa : Nat) : State :=
  if (vget [] s.msc (homeLeaf pa)).any fun l => l.addr == pa / 64 * 64 then s
  else
    let s := s.hbmRequest pa 64 x.fn x.cls x.stamp
    match x.launch with
    | some id => s.charge id pa 64
    | none => s

/-- The requests of a walk: one for each entry that it reads (R115, R130). -/
def State.walkRequests (s : State) (x : XCtx) (va : Nat) : State :=
  (s.walkReads x.fn va (s.walkStart x va).1 (s.walkStart x va).2).foldl (fun s pa => s.tableRequest x pa) s

/-- Sets bits of a leaf by an OR at its home station (R117), dirty-tracked (R124). -/
def State.orLeaf (s : State) (x : XCtx) (ea : Nat) (bits : Byte) : State :=
  match s.toHost x.fn ea with
  | some (pa, _) =>
    let s := (s.tableRequest x pa).dirtied pa 8
    s.rawWrite pa [s.mem.byte pa ||| bits]
  | none => s

/-- Caches what a walk found and sets A (R117, R119). -/
def State.cachePage (s : State) (x : XCtx) (va : Nat) (t : PageTry) : State :=
  let s := if t.walked then s.walkRequests x va else s
  let ent (e : Word) : TlbEnt := ⟨x.fn, va / 2 ^ t.leaf.sz * 2 ^ t.leaf.sz, t.leaf.sz, e, t.leaf.ea, t.leaf.lvl⟩
  if t.walked then
    let s := { s with walk := vset s.walk x.leaf (t.seen.foldl (fun w (e : Nat × Nat) =>
      fifo 512 w (WalkEnt.mk x.fn e.1 (va / 2 ^ (48 - 9 * e.1)) e.2)) (vget [] s.walk x.leaf)) }
    let s := if bt t.leaf.e 3 then s else s.orLeaf x t.leaf.ea 0x08
    s.install x (ent (setBit t.leaf.e 3 true)) true
  else if t.fromL2 then s.install x (ent t.leaf.e) false
  else s

/-- Sets D before the first write through a translation (R117): the leaf is reread; where it has
changed in any other way, or its address no longer maps, the cached copies are dropped and the caller walks
again, which then meets what R123 says of a table address that misses. -/
def State.setD (s : State) (x : XCtx) (t : PageTry) : State × Bool :=
  if bt t.leaf.e 4 then (s, true)
  else match s.toHost x.fn t.leaf.ea with
    | none => (s.dropTlb x t.leaf.ea, false)
    | some (pa, _) =>
      let cur := wd (s.mem.readNat pa 8)
      let old := setBit (setBit t.leaf.e 3 true) 4 false
      if bt cur 0 && bt cur 2 && setBit (setBit cur 3 true) 4 false = old then
        ((s.orLeaf x t.leaf.ea 0x10).updateTlb x t.leaf.ea (setBit (setBit t.leaf.e 3 true) 4 true), true)
      else (s.dropTlb x t.leaf.ea, false)

/-- Commits a page: caches it and, for a write, sets D and the dirty bit (R117, R119, R124). The writes of a
paired launch land in its shadow pages, whose own bits are set there (R252). -/
def State.commitPage (s : State) (x : XCtx) (wr dirty : Bool) (va : Nat) (t : PageTry) : State × Bool :=
  let s := s.cachePage x va t
  if wr then
    let r := s.setD x t
    (if r.2 && dirty then r.1.dirtied t.page.pa 1 else r.1, r.2)
  else (s, true)

/-- The byte ranges of an access, split at 4 KiB boundaries (R126): address and length. -/
def splitPages (va n : Nat) : List (Nat × Nat) :=
  let n := max n 1
  let p0 := va / 4096
  let p1 := (va + n - 1) / 4096
  (List.range (p1 + 1 - p0)).map fun i =>
    let a := max va (4096 * (p0 + i))
    (a, min (va + n) (4096 * (p0 + i + 1)) - a)

/-- Tries every page of an access; the first XLATE or RSVD or extent miss ends it. -/
def State.tryPages (s : State) (x : XCtx) (wr fetch : Bool) (ptr : Word) (va0 : Nat) :
    List (Nat × Nat) → Acc (List PageTry)
  | [] => .ok s []
  | (a, _) :: ps =>
    match s.tryPage x wr fetch (ptr + wd (a - va0)) (a % 2 ^ 57) with
    | .trap s t => .trap s t
    | .miss s f g => .miss s f g
    | .ok _ t =>
      match State.tryPages s x wr fetch ptr va0 ps with
      | .ok s ts => .ok s (t :: ts)
      | r => r

/-- The requests of the walks of an access that ends in a trap or waits for its miss, up to the first page that does
not translate (R115, R130). -/
def State.triedPages (s : State) (x : XCtx) : List (Nat × Nat) → State
  | [] => s
  | (a, _) :: ps =>
    let va := a % 2 ^ 57
    match s.lookup x va with
    | .walked w =>
      let s := s.walkRequests x va
      match w with
      | .leaf _ _ => State.triedPages s x ps
      | _ => s
    | _ => State.triedPages s x ps

/-- Commits every page of an access; `false` says that a leaf had changed and the access walks again. -/
def State.commitPages (s : State) (x : XCtx) (wr dirty : Bool) : List (Nat × Nat) → List PageTry → State × Bool
  | (a, _) :: ps, t :: ts =>
    let r := s.commitPage x wr dirty (a % 2 ^ 57) t
    if r.2 then State.commitPages r.1 x wr dirty ps ts else r
  | _, _ => (s, true)

/-- A piece of an access: its host-physical place and length, and its page. -/
structure Piece where
  pa : Nat
  len : Nat
  page : Page
  deriving DecidableEq, Repr

/-- Whether a context's writes go to shadow pages (R252). -/
def State.toShadow (s : State) (x : XCtx) : Bool :=
  match x.core with
  | some c => (s.launchOn c).flagD
  | none => false

/-- Translates an access of `n` bytes (R113 to R118, R126, R133). Every page is translated before any
byte performs; ALIGN ranks before PERM and WORLD (R227). Where page 1 fails Table 7.3 and page 2 fails its
walk or misses the extent map, R126 and R227 do not say which counts: the walk or the miss, of page 2
(DESIGN CHOICE, log 54). -/
def State.translateOnce (s : State) (x : XCtx) (wr fetch : Bool) (ptr : Word) (n : Nat) : Acc (List Piece) :=
  let va := bf ptr 56 0
  let parts := splitPages va n
  match s.tryPages x wr fetch ptr va parts with
  | .trap _ t => .trap (s.triedPages x parts) t
  | .miss _ f g => .miss (s.triedPages x parts) f g
  | .ok _ ts =>
    let seen := s.triedPages x parts
    let p0 := ts.head?.map fun t => t.page
    let differ := ts.any fun t => (p0.map fun p => p.ca != t.page.ca || p.ws != t.page.ws || p.sh != t.page.sh).getD false
    let dev := (p0.map fun p => p.ca == 3).getD false
    if differ then .trap seen ⟨cALIGN, ptr, einfoX 8 wr 7⟩
    else if dev && decide (va / 64 ≠ (va + max n 1 - 1) / 64) then .trap seen ⟨cALIGN, ptr, einfoX 10 wr 7⟩
    else
      let bad := (ts.zip parts).findSome? fun tp => tp.1.bad.map fun b => (b, tp.2.1, tp.1.leaf.lvl)
      match bad with
      | some ((c, r), a, lvl) => .trap seen ⟨c, ptr + wd (a - va), einfoX r wr lvl⟩
      | none =>
        let r := s.commitPages x wr (!s.toShadow x) parts ts
        if r.2 then .ok r.1 ((ts.zip parts).map fun tp => ⟨tp.1.page.pa, tp.2.2, tp.1.page⟩)
        else .ok r.1 []

/-- As `translateOnce`; where a leaf had changed under a cached translation it walks again (R117). Each try
sets bits of at most two leaves and of their dirty bitmaps and clears none, so that 8 tries are enough. -/
def State.translateN (x : XCtx) (wr fetch : Bool) (ptr : Word) (n : Nat) : Nat → State → Acc (List Piece)
  | 0, s => s.translateOnce x wr fetch ptr n
  | k + 1, s =>
    match s.translateOnce x wr fetch ptr n with
    | .ok s' [] => State.translateN x wr fetch ptr n k s'
    | r => r

def State.translate (s : State) (x : XCtx) (wr fetch : Bool) (ptr : Word) (n : Nat) : Acc (List Piece) :=
  State.translateN x wr fetch ptr n 8 s

/-- Whether a hint would fault or miss (R126, R350); changes nothing. -/
def State.hintFaults (s : State) (x : XCtx) (va : Nat) : Bool :=
  match s.walkFrom x.fn va x.root (List.range 5) [] with
  | .leaf l _ =>
    match s.toHost x.fn (l.gpa va) with
    | some (_, e) => (pageCheck x false false l e).isSome
    | none => true
  | _ => true

/-- Removes every translation, walk-cache entry and instruction-cache line of a function that overlaps
a range of virtual addresses, in the whole package (R121, R374). -/
def State.invalidate (s : State) (fn lo hi : Nat) : State :=
  let hit (f a n : Nat) : Bool := f == fn && decide (a < hi) && decide (lo < a + n)
  let keepT (t : TlbEnt) : Bool := !hit t.fn t.va (2 ^ t.sz)
  let keepW (e : WalkEnt) : Bool := !hit e.fn (e.vaTop * 2 ^ (48 - 9 * e.lvl)) (2 ^ (48 - 9 * e.lvl))
  let keepI (l : ICLine) : Bool := !hit l.fn l.va 64
  let fs (q : Seq) : Seq := { q with icache := q.icache.filter keepI }
  let s := s.mapCores fun _ k => { k with tlb := k.tlb.filter keepT, as := fs k.as, xs := fs k.xs }
  { s with tlb2 := vmapi s.tlb2 fun _ l => l.filter keepT, walk := vmapi s.walk fun _ l => l.filter keepW }

end Sys2Proof.Machine
end

