-- ==== Sys2Proof/Machine/Cipher.lean ====
section
/-! DEFINITION. Encryption and authentication of HBM and CXL (R136, R137, R188): the keys, the ciphertext and
the MAC that stand in memory for the plain bytes that `State.mem` holds. The primitives are opaque (log 15). -/

namespace Sys2Proof.Machine

/-! ## Adapter entries (Table 11.4) -/

def entV (e : Line) : Bool := bt (lineWord e 0) 0
def entOwner (e : Line) : Nat := bf (lineWord e 0) 14 8
def entQ (e : Line) : Nat := bf (lineWord e 0) 21 16 + 1
def entFfmt (e : Line) : Nat := bf (lineWord e 0) 23 22
def entAlpha (e : Line) : Num := Ty.value .bf16 (bf (lineWord e 0) 47 32)
def entVer (e : Line) : BitVec 16 := (lineWord e 0).extractLsb' 48 16
def entQuota (e : Line) : Word := lineWord e 1
def entKtot (e : Line) : Nat := bf (lineWord e 2) 15 0
def entNtot (e : Line) : Nat := bf (lineWord e 2) 31 16
def entApg (e : Line) : Nat := bf (lineWord e 3) 51 12 * 4096
def entBpg (e : Line) : Nat := bf (lineWord e 4) 51 12 * 4096

/-- Whether every field marked zero is zero. -/
def entZeros (e : Line) : Bool :=
  bf (lineWord e 0) 7 1 == 0 && !bt (lineWord e 0) 15 && bf (lineWord e 2) 63 32 == 0 &&
    bf (lineWord e 3) 63 52 == 0 && bf (lineWord e 3) 11 0 == 0 && bf (lineWord e 4) 63 52 == 0 && bf (lineWord e 4) 11 0 == 0 &&
    lineWord e 5 == 0 && lineWord e 6 == 0 && lineWord e 7 == 0

/-- The type of a factor's elements. -/
def entTy (e : Line) : Ty := if entFfmt e = 1 then .e4m3 else if entFfmt e = 2 then .e5m2 else .bf16

/-- First host address and length of a factor. -/
def entPage (e : Line) (pageB : Bool) : Nat × Nat :=
  let w := (entTy e).width / 8
  if pageB then (entBpg e, entQ e * entNtot e * w) else (entApg e, entKtot e * entQ e * w)

/-- What the per-handle key of an entry's pages is made from (R136, R188). -/
def entKey (h : BitVec 20) (e : Line) : AdaptKey := ⟨BitVec.ofNat 8 (entOwner e), h, entVer e⟩

/-! ## Keys, ciphertext and MACs -/

/-- The per-handle key (R136): the SP 800-108 counter-mode KDF with HMAC-SHA-512 under the owner's key, with
one 32-bit iteration, the label CXADPT, the context of handle and version, and L = 512. The byte order of its
numbers, high byte first, and the zero byte after the label are SP 800-108's (PRESUMED, log 15). -/
def handleKey (k : AdaptKey) : BitVec 512 :=
  let be (n : Nat) : List Byte := (leBytes 4 n).reverse
  let label : List Byte := [0x43, 0x58, 0x41, 0x44, 0x50, 0x54]
  Config.hmacSha512 (Config.ownerKey k.owner) (be 1 ++ label ++ [0] ++ be k.handle.toNat ++ be k.ver.toNat ++ be 512)

/-- The data key: the first 256 bits of a key. -/
def dataKey (k : BitVec 512) : BitVec 256 := k.extractLsb' 256 256

/-- The tweak key: the last 256 bits of a key. -/
def tweakKey (k : BitVec 512) : BitVec 256 := k.extractLsb' 0 256

/-- The owner of a 256-byte block: that of its first line; a block that nothing has written is the PF's. R136
does not say which owner's key serves a block whose lines differ (DESIGN CHOICE, log 15). -/
def State.blockOwner (s : State) (b : Nat) : BitVec 8 := (SMap.find? s.lineOwner (4 * b)).getD 0

/-- Whether a block lies in the pages of an entry. -/
def entHolds (e : Line) (b : Nat) : Bool :=
  let inPage (p : Nat × Nat) : Bool := p.2 != 0 && decide (p.1 / 256 ≤ b) && decide (b ≤ (p.1 + p.2 - 1) / 256)
  inPage (entPage e false) || inPage (entPage e true)

/-- The handle and version of an adapter page: those with which a publication made it (R196), else those of the valid
entry of the translation table that names it, whoever wrote the entry (R136, R188). -/
def State.adaptKey (s : State) (b : Nat) : Option AdaptKey :=
  (SMap.find? s.adaptKeys b).or ((List.range (s.pfReg 0x21008).toNat).findSome? fun h =>
    let e := lineOf (s.mem.read ((s.pfReg 0x21000).toNat + 64 * h) 64)
    if h != 0 && entV e && entHolds e b then some (entKey (BitVec.ofNat 20 h) e) else none)

/-- The key of a block: the per-handle key of an adapter page, else its owner's key. -/
def State.blockKey (s : State) (b : Nat) : BitVec 512 :=
  match s.adaptKey b with
  | some k => handleKey k
  | none => Config.ownerKey (s.blockOwner b)

/-- The plain bytes that memory itself holds of a block: a line that is dirty in an MSC has not left it. -/
def State.plainBlock (s : State) (b : Nat) : List Byte :=
  (List.range 4).flatMap fun i =>
    let a := 256 * b + 64 * i
    match ((vget [] s.msc (homeLeaf a)).find? fun l => l.addr == a).bind fun l => l.old with
    | some old => lineBytes old
    | none => s.mem.read a 64

/-- What HBM or CXL holds of a block: AES-256 in XTS mode over the 256 bytes, tweaked with host address bits
51:8 (R136). -/
def State.cipherBlock (s : State) (b : Nat) : List Byte :=
  Config.xtsEncrypt (dataKey (s.blockKey b)) (tweakKey (s.blockKey b)) (BitVec.ofNat 44 b) (s.plainBlock b)

/-- The MAC of a block: the leftmost 64 bits of AES-256-CMAC under its owner's MAC key, over the host address
and the ciphertext (R137). That the address stands first, as 8 bytes and low byte first, is not stated (DESIGN CHOICE,
log 15). -/
def State.blockMac (s : State) (b : Nat) : BitVec 64 :=
  (Config.aesCmac (Config.macKey (s.blockOwner b)) (leBytes 8 (256 * b) ++ s.cipherBlock b)).extractLsb' 64 64

/-- Where a block's MAC lies: its stack, and the byte offset in the stack, whose top 1/32 holds the MACs and is
not host-addressable (R137). R137 gives the area alone: that the MACs stand in it in the order of their blocks is a
DESIGN CHOICE (log 15). -/
def macPlace (b : Nat) : Option (Nat × Nat) :=
  match windowOf (256 * b) with
  | .hbm st => some (st, 0xBA0000000 + 8 * (b - st * 0xBA00000))
  | _ => none

/-- What a read of one block under another key gives: it is decrypted with a key that did not encrypt it. -/
def State.wrongKey (s : State) (k : BitVec 512) (b : Nat) (bs : List Byte) : List Byte :=
  Config.xtsDecrypt (dataKey k) (tweakKey k) (BitVec.ofNat 44 b)
    (Config.xtsEncrypt (dataKey (s.blockKey b)) (tweakKey (s.blockKey b)) (BitVec.ofNat 44 b) bs)

end Sys2Proof.Machine
end

