-- ==== Sys2Proof/Machine/VaultOps.lean ====
section
/-! DEFINITION. The vaults (chapter 6): physical rows, bytes with their owners, tags and poison, the
capacity maps, evacuation, and the transaction barrier (R170, R171). -/

namespace Sys2Proof.Machine

/-! ## Rows (R94, R108, R267) -/

/-- Physical row of a logical row: 528 rows to a bank, the spares last. -/
def RowMap.phys (v : RowMap) (bank row : Nat) : Nat := SMap.get (528 * bank + row) v.remap (512 * bank + row)

def RowMap.isLost (v : RowMap) (bank row : Nat) : Bool := SMap.get false v.lost (512 * bank + row)

def RowMap.floorOf (v : RowMap) (p : Nat) : Nat := SMap.get 0 v.floors p

/-- The row map of a vault. -/
def Vault.rows (v : Vault) : RowMap := ⟨v.floors, v.remap, v.lost⟩

def Vault.phys (v : Vault) (bank row : Nat) : Nat := v.rows.phys bank row

def Vault.isLost (v : Vault) (bank row : Nat) : Bool := v.rows.isLost bank row

def Vault.floorOf (v : Vault) (p : Nat) : Nat := v.rows.floorOf p

/-- Physical place of a vault offset. -/
def Vault.place (v : Vault) (off : Nat) : Nat := v.phys (off / 131072) (off / 256 % 512) * 256 + off % 256

def Vault.offLost (v : Vault) (off : Nat) : Bool := v.isLost (off / 131072) (off / 256 % 512)

/-- The destination of a running evacuation that has already copied the chunk of an offset (R111). -/
def Vault.mirror (v : Vault) (off : Nat) : Option Nat :=
  (v.evac.find? fun e => e.bank == off / 131072 && e.row == off / 256 % 512 && decide (off % 256 / 32 < e.p)).map
    fun e => e.dst * 256 + off % 256

/-- Physical places that a write to an offset reaches: none in a lost row (R267), and the copied chunk of a
row under evacuation too (R111). -/
def Vault.places (v : Vault) (off : Nat) : List Nat :=
  if v.offLost off then [] else v.place off :: (v.mirror off).toList

/-! ## Bytes (R95, R111, R135, R247, R257) -/

/-- A byte as an owner reads it: zero where another owner wrote it last, or where the row is lost. -/
def Vault.byte (v : Vault) (owner : BitVec 8) (off : Nat) : Byte :=
  let p := v.place off
  if v.offLost off then 0
  else if SMap.get owner v.owner p = owner then v.bytes.byte p else 0

def Vault.read (v : Vault) (owner : BitVec 8) (off n : Nat) : List Byte :=
  (List.range n).map fun i => v.byte owner (off + i)

/-- Whether a poisoned word lies under some bytes (R247); a lost row holds none (R267). -/
def Vault.bad (v : Vault) (off n : Nat) : Bool :=
  (List.range n).any fun i => !v.offLost (off + i) && SMap.get false v.pois (v.place (off + i) / 8)

/-- Whether a secure row lies under some bytes (R257); a lost row is none (R267). -/
def Vault.secure (v : Vault) (off n : Nat) : Bool :=
  (List.range (n / 256 + 2)).any fun i =>
    let o := off / 256 + i
    decide (256 * o < off + n) && !v.isLost (o / 512) (o % 512) && SMap.get false v.sec (v.phys (o / 512) (o % 512))

/-- Whether 8 aligned bytes from `w` on all lie in a range. -/
def wordIn (off n w : Nat) : Bool := decide (off ≤ w) && decide (w + 8 ≤ off + n)

/-- Writing one byte at its physical place. -/
def Vault.putByte (v : Vault) (owner : BitVec 8) (p : Nat) (b : Byte) : Vault :=
  { v with bytes := v.bytes.setByte p b, owner := SMap.insert v.owner p owner }

/-- One byte written by a logical offset. -/
def Vault.writeByte (v : Vault) (owner : BitVec 8) (off : Nat) (b : Byte) : Vault :=
  (v.places off).foldl (fun v p => v.putByte owner p b) v

def Vault.writeBytes (v : Vault) (owner : BitVec 8) : Nat → List Byte → Vault
  | _, [] => v
  | off, b :: bs => Vault.writeBytes (v.writeByte owner off b) owner (off + 1) bs

/-- Marks rows secure. -/
def Vault.setSec (v : Vault) (off n : Nat) : Vault :=
  { v with sec := (List.range (n / 256 + 2)).foldl (fun m i =>
      let o := off / 256 + i
      if 256 * o < off + n ∧ !v.isLost (o / 512) (o % 512) then SMap.set false m (v.phys (o / 512) (o % 512)) true else m) v.sec }

/-- Marks the words that hold some places poisoned, or no longer so. -/
def markPois (m : SMap Bool) (ps : List Nat) (b : Bool) : SMap Bool := ps.foldl (fun m p => SMap.set false m (p / 8) b) m

/-- Corrects the words under some bytes (R247). -/
def Vault.correct (v : Vault) (off n : Nat) : Vault :=
  { v with soft := v.soft.filter fun w => !((List.range n).any fun i => v.place (off + i) / 8 == w.1) }

/-- A write: bytes, owner, secure tag; a word written whole is no longer poisoned, and a correctable error is gone from
every word written. -/
def Vault.write (v : Vault) (owner : BitVec 8) (off : Nat) (bs : List Byte) (sec : Bool) : Vault :=
  let n := bs.length
  let v := v.writeBytes owner off bs
  let v := { v with pois := (List.range (n / 8 + 1)).foldl (fun m i =>
      let w := (off / 8 + i + (if off % 8 = 0 then 0 else 1)) * 8
      if wordIn off n w then markPois m (v.places w) false else m) v.pois }
  (if sec then v.setSec off n else v).correct off n

/-- Poisons the words under some bytes that were written poisoned. -/
def Vault.poison (v : Vault) (off n : Nat) : Vault :=
  { v with pois := (List.range n).foldl (fun m i => markPois m (v.places (off + i)) true) v.pois }

/-! ## Capacity maps (R108, R109, R267) -/

/-- Working spares of a bank at a point that no row has taken, lowest first. -/
def RowMap.freeSpares (v : RowMap) (bank j : Nat) : List Nat :=
  ((List.range 16).map fun i => 528 * bank + 512 + i).filter fun p =>
    decide (v.floorOf p ≤ j) && !(v.remap.any fun e => e.2 == p)

/-- Doomed logical rows of a bank at a point, among rows below `top` that are not lost yet, lowest first. -/
def RowMap.doomed (v : RowMap) (bank j top : Nat) : List Nat :=
  (List.range top).filter fun r => !v.isLost bank r && decide (v.floorOf (v.phys bank r) > j)

/-- Working rows among the highest `l` of a bank that are not lost yet, from row 511 down. -/
def RowMap.givers (v : RowMap) (bank j l : Nat) : List Nat :=
  ((List.range l).map fun i => 511 - i).filter fun r => !v.isLost bank r && decide (v.floorOf (v.phys bank r) ≤ j)

/-- The least number of rows lost from the top of a bank at a point (R108). -/
def RowMap.lostCount (v : RowMap) (bank j : Nat) : Nat :=
  ((List.range 513).find? fun l =>
    decide ((v.doomed bank j (512 - l)).length ≤ (v.freeSpares bank j).length + (v.givers bank j l).length)).getD 512

/-- The rows lost at a point: those lost already and those that the step would lose. -/
def RowMap.lostAt (v : RowMap) (bank j : Nat) : List Nat :=
  let l := v.lostCount bank j
  (List.range 512).filter fun r => v.isLost bank r || decide (512 - l ≤ r)

/-- Where the doomed rows go at a point: the physical row, and the lost row that gives it (R267). -/
def RowMap.dests (v : RowMap) (bank j : Nat) : List (Nat × Nat × Option Nat) :=
  let l := v.lostCount bank j
  let places := (v.freeSpares bank j).map (fun p => (p, none)) ++
    (v.givers bank j l).map (fun r => (v.phys bank r, some r))
  ((v.doomed bank j (512 - l)).zip places).map fun x => (x.1, x.2.1, x.2.2)

/-- Banks with a row or a spare whose floor exceeds a point; in every other bank no row is doomed at it. -/
def RowMap.badBanks (v : RowMap) (j : Nat) : List Nat :=
  ((v.floors.filter fun f => decide (j < f.2)).map fun f => f.1 / 528).eraseDups

/-- The rows that a step down to a point loses are lost from then on. -/
def RowMap.lose (v : RowMap) (j : Nat) : SMap Bool :=
  (v.badBanks j).foldl (fun m b => (v.lostAt b j).foldl (fun m r => SMap.set false m (512 * b + r) true) m) v.lost

/-- The map after a step down whose rows the device moves itself: the doomed rows are at their destinations. -/
def RowMap.stepDown (v : RowMap) (j : Nat) : RowMap :=
  { v with
    remap := (v.badBanks j).foldl (fun m b =>
      (v.dests b j).foldl (fun m d => SMap.set (528 * b + d.1) m (512 * b + d.1) d.2.1) m) v.remap
    lost := v.lose j }

def Vault.lostAt (v : Vault) (bank j : Nat) : List Nat := v.rows.lostAt bank j

def Vault.dests (v : Vault) (bank j : Nat) : List (Nat × Nat × Option Nat) := v.rows.dests bank j

/-- Rows of a bank whose floor exceeds a point, the rows already lost included (VHEALTH.NDOOM, R108, R110). -/
def Vault.doomedRows (v : Vault) (bank j : Nat) : List Nat :=
  (List.range 512).filter fun r => decide (j < v.floorOf (v.phys bank r))

/-- Lost rows of the vault at a point, as row numbers `512 bank + row`; at or above the current point
the map is the current one (R110). -/
def Vault.lostRows (v : Vault) (cur sel : Nat) : List Nat :=
  (List.range 16).flatMap fun b =>
    (if cur ≤ sel then (List.range 512).filter fun r => v.isLost b r else v.lostAt b sel).map fun r => 512 * b + r

/-- Usable capacity in rows: the lowest lost row (R109). -/
def Vault.contRows (v : Vault) (cur sel : Nat) : Nat := ((v.lostRows cur sel).head?).getD 8192

/-! ## The transaction barrier (R170, R171) -/

/-- A barrier's fields (Table 10.4). -/
structure Bar where
  ph : Nat
  arr : Nat
  sec : Int
  rld : Nat
  err : Bool
  deriving DecidableEq, Repr

/-- A 32-bit pattern as a signed number. -/
def s32 (n : Nat) : Int := if n % 2 ^ 32 < 2 ^ 31 then n % 2 ^ 32 else (n % 2 ^ 32 : Int) - 2 ^ 32

def Bar.ofBytes (bs : List Byte) : Bar :=
  let x := leNat bs
  ⟨bitsOf x 3 0, bitsOf x 27 8, s32 (bitsOf x 63 32), bitsOf x 83 64, bitsOf x 84 84 == 1⟩

def Bar.toBytes (b : Bar) : List Byte :=
  leBytes 16 (b.ph + 2 ^ 8 * b.arr + 2 ^ 32 * (b.sec % 2 ^ 32).toNat + 2 ^ 64 * b.rld + 2 ^ 84 * b2n b.err)

/-- SEC after an addition: passing the range sets ERR and wraps. -/
def Bar.addSec (b : Bar) (n : Int) : Bar :=
  let x := b.sec + n
  if x < -(2 ^ 31) ∨ 2 ^ 31 ≤ x then { b with sec := s32 (x % 2 ^ 32).toNat, err := true } else { b with sec := x }

/-- Completes a phase when nothing is pending; says whether it did. -/
def Bar.settle (b : Bar) : Bar × Bool :=
  if b.arr = 0 ∧ b.sec = 0 then ({ b with ph := (b.ph + 1) % 16, arr := b.rld }, true) else (b, false)

/-- Counting the sectors of a block or of a message: one update (R148, R163, R171, R222). -/
def Bar.count (b : Bar) (n : Nat) : Bar × Bool := if n = 0 then (b, false) else (b.addSec (-(n : Int))).settle

/-- `TBWAIT`'s test. -/
def Bar.passed (b : Bar) (ph : Nat) : Bool := decide ((b.ph + 32 - ph - 1) % 16 < 8)

def State.vault (s : State) (c : Nat) : Vault := (s.core c).vault

def State.modVault (s : State) (c : Nat) (f : Vault → Vault) : State :=
  s.modCore c fun k => { k with vault := f k.vault }

/-- Writes into a core's vault for the launch that holds the core. -/
def State.writeVault (s : State) (c off : Nat) (bs : List Byte) (sec : Bool) : State :=
  s.modVault c fun v => v.write (s.launchOn c).owner off bs sec

def State.readVault (s : State) (c off n : Nat) : List Byte := (s.vault c).read (s.launchOn c).owner off n

def State.bar (s : State) (c off : Nat) : Bar := Bar.ofBytes (s.readVault c off 16)

/-! ## Wake events (R385) -/

/-- A waiting `WAITI` retires. -/
def Seq.wake (q : Seq) : Seq :=
  match q.wait with
  | some (.until _) => { q with wait := none, stall := none, resumed := false, pc := q.pc + 16 }
  | _ => q

/-- A wake event reaches both sequencers of a core. -/
def State.wake (s : State) (c : Nat) : State := s.modCore c fun k => { k with as := k.as.wake, xs := k.xs.wake }

/-- A wake event reaches one sequencer. -/
def State.wakeSeq (s : State) (c : Nat) (q : SeqId) : State := s.modCore c fun k => k.modSeq q Seq.wake

/-- Updates a barrier in one access for an owner; a completed phase wakes. -/
def State.updBarAs (s : State) (owner : BitVec 8) (c off : Nat) (f : Bar → Bar × Bool) : State :=
  let v := s.vault c
  let r := f (Bar.ofBytes (v.read owner off 16))
  let s := s.modVault c fun v => v.write owner off r.1.toBytes (v.secure off 16)
  if r.2 then s.wake c else s

/-- Updates a barrier of the launch that holds the core. -/
def State.updBar (s : State) (c off : Nat) (f : Bar → Bar × Bool) : State := s.updBarAs (s.launchOn c).owner c off f

/-! ## Error triggers (R261, Table 16.1) -/

/-- The package freezes on an error that FRZCFG enables: a consumed poison or integrity failure. -/
def State.freezeOn (s : State) (cause : BitVec 8) : State :=
  if (cause == cPOISON && bt (s.pfReg 0x24210) 0) || (cause == cINTEG && bt (s.pfReg 0x24210) 1) then { s with frozen := true }
  else s

/-! ## Engine errors (R166, R167) -/

/-- Records an engine error in EERR0 and EERR1 while V = 0. `boff` is 0x1F_FFFF without a barrier. -/
def Core.recordError (k : Core) (path : Nat) (cause : BitVec 8) (boff : Nat) (addr : Word) : Core :=
  if bt k.eerr0 63 then k
  else { k with eerr0 := wd (2 ^ 63 + 2 ^ 40 * path + 2 ^ 32 * cause.toNat + boff), eerr1 := addr }

/-- Updates a barrier for an engine of a path. One with a poisoned word keeps its bytes: the engine records an error
(R247). -/
def State.updBarBy (s : State) (owner : BitVec 8) (c path off : Nat) (f : Bar → Bar × Bool) : State :=
  if (s.vault c).bad off 16 then
    (s.modCore c fun k => k.recordError path cPOISON off (wd (0x1FFF * 2 ^ 48 + off))).freezeOn cPOISON
  else s.updBarAs owner c off f

/-- Counts sectors on a barrier, if one is named, for an engine of a path (R148, R171). -/
def State.countSectors (s : State) (owner : BitVec 8) (c path : Nat) (bar : Option Nat) (n : Nat) : State :=
  match bar with
  | some off => s.updBarBy owner c path off fun b => b.count n
  | none => s

/-- Sets ERR on a barrier, if one is named, and records the error. -/
def State.engineError (s : State) (owner : BitVec 8) (c path : Nat) (cause : BitVec 8) (bar : Option Nat) (addr : Word) : State :=
  let s := s.modCore c fun k => k.recordError path cause (bar.getD 0x1FFFFF) addr
  let s := s.freezeOn cause
  match bar with
  | some off => s.updBarBy owner c path off fun b => ({ b with err := true }, false)
  | none => s

/-! ## Chunks of an evacuation (R111) -/

/-- Copies one 32-byte chunk from a row's place to its destination, with owners, tag and poison. -/
def Vault.copyChunk (v : Vault) (src dst chunk : Nat) : Vault :=
  let ps := (List.range 32).map fun i => 32 * chunk + i
  let v := { v with
    bytes := v.bytes.write (256 * dst + 32 * chunk) (v.bytes.read (256 * src + 32 * chunk) 32)
    owner := ps.foldl (fun m i => match SMap.find? m (256 * src + i) with
      | some o => SMap.insert m (256 * dst + i) o
      | none => SMap.erase m (256 * dst + i)) v.owner
    sec := SMap.set false v.sec dst (SMap.get false v.sec src) }
  { v with pois := (List.range 4).foldl (fun m i => SMap.set false m (32 * dst + 4 * chunk + i)
      (SMap.get false m (32 * src + 4 * chunk + i))) v.pois }

end Sys2Proof.Machine
end

