-- ==== Sys2Proof/Machine/Mem.lean ====
section
/-! DEFINITION. Global memory (chapters 7 and 9): owners, poison, the memory-side caches with their
scope records, channel requests, shadow pages, reads, writes and atomics, events and the rings that
hold them (R242). -/

namespace Sys2Proof.Machine

/-! ## Bytes with owners, tags and poison (R135, R138, R257) -/

/-- A byte as an owner reads it: zero where another owner wrote its line last, but for the shared lines
that an SH extent reaches (R135). A line that no owner has written is anyone's (log 10). -/
def State.readByte (s : State) (owner : BitVec 8) (sh : Bool) (a : Nat) : Byte :=
  match SMap.find? s.lineOwner (a / 64) with
  | none => s.mem.byte a
  | some o => if o = owner || (sh && o == 0) then s.mem.byte a else 0

def State.readPhys (s : State) (owner : BitVec 8) (sh : Bool) (a n : Nat) : List Byte :=
  (List.range n).map fun i => s.readByte owner sh (a + i)

/-- The lines that some bytes lie in. -/
def linesOf (a n : Nat) : List Nat := (List.range ((a + max n 1 - 1) / 64 + 1 - a / 64)).map fun i => a / 64 + i

/-- Whether a range lies in one window of HBM or CXL (R122, R127). -/
def inOneWindow (base n : Nat) : Bool :=
  let w := windowOf base
  w != .mmio && windowOf (base + max n 1 - 1) == w

/-- The 256-byte blocks that some bytes lie in. -/
def blocksOf (a n : Nat) : List Nat := (List.range ((a + max n 1 - 1) / 256 + 1 - a / 256)).map fun i => a / 256 + i

/-- Whether the word of an address is poisoned in the MSC line that holds it (R247). -/
def State.mscWordBad (s : State) (a : Nat) : Bool :=
  (vget [] s.msc (homeLeaf a)).any fun l => l.addr == a / 64 * 64 && bt l.pois (a % 64 / 8)

/-- The poison of the blocks and MSC words under some bytes: whether it is an integrity failure (R138, R247). -/
def State.poisonAt (s : State) (a n : Nat) : Option Bool :=
  match (blocksOf a n).findSome? fun b => (SMap.find? s.memPois b).map fun p => p.integ with
  | some i => some i
  | none => if (List.range n).any fun i => s.mscWordBad (a + i) then some false else none

/-- A block's poison after bytes of it are written: it stays until all 256 are. -/
def MemPois.wrote (p : MemPois) (b a n : Nat) : MemPois :=
  { p with left := (List.range n).foldl (fun m i => if (a + i) / 256 = b then setBit m ((a + i) % 256) false else m) p.left }

/-- The poison of a line's words after bytes are written: a word written whole has none (R247). -/
def MscLine.wrote (l : MscLine) (a n : Nat) : BitVec 8 :=
  (List.range 8).foldl (fun p i => if a ≤ l.addr + 8 * i ∧ l.addr + 8 * i + 8 ≤ a + n then setBit p i false else p) l.pois

/-- Writes bytes at a host-physical place for an owner, keeping the old content of dirty lines that the
MSC holds (R134). -/
def State.writePhys (s : State) (owner : BitVec 8) (a : Nat) (bs : List Byte) (sec : Bool) : State :=
  let n := bs.length
  let lines := linesOf a n
  let keep (l : MscLine) : MscLine :=
    if lines.contains (l.addr / 64) then
      { l with old := some (l.old.getD (lineOf (s.mem.read l.addr 64))), pois := l.wrote a n }
    else l
  { s with
    mem := s.mem.write a bs
    lineOwner := lines.foldl (fun m l => SMap.insert m l owner) s.lineOwner
    memSec := if sec then lines.foldl (fun m l => SMap.set false m l true) s.memSec else s.memSec
    memPois := (blocksOf a n).foldl (fun m b =>
      match SMap.find? m b with
      | some p => let p := p.wrote b a n; if p.left = 0 then SMap.erase m b else SMap.insert m b p
      | none => m) s.memPois
    msc := vmapi s.msc fun _ ls => ls.map keep }

/-- A write of the device or the host by host address (R124). -/
def State.writeDirect (s : State) (owner : BitVec 8) (a : Nat) (bs : List Byte) : State :=
  (s.dirtied a bs.length).writePhys owner a bs false

/-! ## Events (R242) -/

/-- The bytes of an event entry. -/
def eventBytes (time : Word) (addr cptr : Word) (rank detail vf ty : Nat) : List Byte :=
  wordBytes time ++ wordBytes addr ++ wordBytes cptr ++ leBytes 4 rank ++ leBytes 2 detail ++ leBytes 1 vf ++ leBytes 1 ty

/-- Whether a ring has room: one place stays free (log 21). -/
def FnRegs.ringRoom (r : FnRegs) : Bool := r.evbase != 0 && (r.evhead + 1) % r.evsize != r.evtail % r.evsize

/-- Writes an event at EVHEAD and advances it; MSI-X vector 0 fires when the ring was empty. -/
def State.ringWrite (s : State) (fn : Nat) (bs : List Byte) : State :=
  let r := s.fnRegs fn
  let a := bf r.evbase 51 12 * 4096 + 32 * r.evhead
  let s := (s.deviceRequest a fn).writeDirect (ownerTag fn) a bs
  s.modFn fn fun r => { r with
    evhead := (r.evhead + 1) % r.evsize
    msix := if r.evhead = r.evtail % r.evsize then r.msix ||| 1 else r.msix }

/-- Posts an event: written, held (16 of them), or dropped with EVHEAD bit 63 set. -/
def State.postEvent (s : State) (fn : Nat) (addr cptr : Word) (rank detail vf ty : Nat) : State :=
  let bs := eventBytes s.timebase addr cptr rank detail vf ty
  let r := s.fnRegs fn
  if r.ringRoom && r.held.isEmpty then s.ringWrite fn bs
  else if r.held.length < 16 then s.modFn fn fun r => { r with held := r.held ++ [bs] }
  else s.modFn fn fun r => { r with evlost := true }

/-- Writes the oldest held event once the ring has room. -/
def State.flushHeld (s : State) (fn : Nat) : State :=
  match (s.fnRegs fn).held with
  | [] => s
  | b :: bs =>
    if (s.fnRegs fn).ringRoom then (s.modFn fn fun r => { r with held := bs }).ringWrite fn b else s

/-- Reports an extent miss on the PF ring (R123, R242). -/
def State.reportMiss (s : State) (fn gpa : Nat) (launch : Option Nat) (rank : Nat) (remote : Option (BitVec 12 × BitVec 32)) : Nat × State :=
  let cptr := ((launch.bind s.launch?).map Launch.cptr).getD 0
  let r := s.takeId
  let s := r.2.postEvent pfFn (wd gpa) cptr rank 0 (eventVf fn) 4
  let s := match launch with
    | some id => s.modLaunch id fun l => { l with excused := true }
    | none => s
  (r.1, { s with misses := s.misses ++ [⟨r.1, fn, gpa, launch, rank, remote⟩] })

/-- Whether an extent miss still waits for the PF. -/
def State.missPending (s : State) (id : Nat) : Bool := s.misses.any fun m => m.id == id

/-! ## Counters (R239) -/

/-- Counts an event `n` times: a wrap sets OV. -/
def Core.countEv (k : Core) (ev n : Nat) : Core :=
  if k.cntcfg.toList.any fun c => bt c 16 && bf c 15 0 == ev then
    let hit (i : Nat) : Bool := let c := vget 0 k.cntcfg i; bt c 16 && bf c 15 0 == ev
    let wraps (i : Nat) : Bool := hit i && decide (2 ^ 48 ≤ (vget 0 k.cnt i).toNat + n)
    { k with
      cnt := vmapi k.cnt fun i c => if hit i then c + BitVec.ofNat 48 n else c
      cntcfg := vmapi k.cntcfg fun i c => if wraps i then setBit c 18 true else c
      wrapped := (List.range 8).foldl (fun w i => if wraps i then setBit w i true else w) k.wrapped }
  else k

/-- Brings the counters of event 0 up to the present slot. -/
def Core.syncSlots (k : Core) (cycle : Nat) : Core :=
  { k.countEv 0 (cycle - k.slotSeen) with slotSeen := cycle }

/-- Counter wraps of a core that are still to be raised (R239). -/
def State.raiseWrap (s : State) (c n : Nat) : State :=
  let s := s.modCore c fun k => k.syncSlots s.cycle
  let k := s.core c
  if bt k.wrapped n then
    let s := s.modCore c fun k => { k with wrapped := setBit k.wrapped n false }
    let l := s.launchOn c
    if bt (vget 0 k.cntcfg n) 17 then
      (s.postEvent l.fn 0 l.cptr k.rank n (eventVf l.fn) 3).modFn l.fn fun r => { r with msix := r.msix ||| 2 }
    else s
  else s

def State.raiseWraps (s : State) (c : Nat) : State := (List.range 8).foldl (fun s n => s.raiseWrap c n) s

/-! ## The memory-side cache (R125, R127 to R129, R65) -/

def State.mscOf (s : State) (leaf : Nat) : List MscLine := vget [] s.msc leaf

def State.mscHas (s : State) (pa : Nat) : Bool := (s.mscOf (homeLeaf pa)).any fun l => l.addr == pa / 64 * 64

def State.acWays (s : State) : Nat := bf (s.pfReg 0x21010) 3 0

/-- Ways of an MSC, and sets of 256-byte blocks: 6 MiB to a way (R128). -/
def mscWays : Nat := 16
def mscSets : Nat := 24576

/-- The set of a host address. -/
def mscSetOf (pa : Nat) : Nat := Config.mscSet (pa / 256) % mscSets

/-- The rows that a set of an MSC has lost. A row holds one block, 512 rows make a bank as in a vault, and
row `r` of bank `b` serves set `32 b + r % 32` (DESIGN CHOICE, log 53). -/
def State.mscLost (s : State) (leaf set : Nat) : Nat :=
  ((vget ⟨[], [], []⟩ s.mscRows leaf).lost.filter fun e => e.1 / 512 == set / 32 && e.1 % 32 == set % 32).length

/-- General ways of a set (R128, R129): the first ones. Lost capacity is taken from them, the highest first. -/
def State.generalWays (s : State) (leaf set : Nat) : Nat := mscWays - s.acWays - s.mscLost leaf set

/-- Adapter-cache ways of a set, from way `16 - ACWAYS` on: all of them while a general way is left (R129). -/
def State.adapterWays (s : State) (leaf set : Nat) : Nat := min s.acWays (mscWays - s.mscLost leaf set)

/-- How an access uses the MSC (R125): its attribute, HINT, and the gathering it allocates for. -/
structure Use where
  ca : Nat
  hint : Nat
  gath : Option (Nat × Nat)
  deriving DecidableEq, Repr

/-- The attribute in force: HINT 1 on a cached page streams. -/
def Use.eff (u : Use) : Nat := if u.ca = 0 && u.hint == 1 then 1 else u.ca

/-- The gathering of a launch, scoped to its VF (R65). -/
def Launch.gathTag (l : Launch) : Option (Nat × Nat) := if l.gath = 0 then none else some (l.fn, l.gath)

/-- Lines leave an MSC: a block with a dirty line among them is written back whole, which takes a request
(R125, R128 to R130). A poisoned word that is written back poisons its block (DEDUCED, log 53). -/
def State.dropMsc (s : State) (leaf : Nat) (out : MscLine → Bool) (fn : Nat) (st : Nat × BitVec 16) : State :=
  let ls := s.mscOf leaf
  let blks := ((ls.filter fun l => out l && l.old.isSome).map fun l => l.addr / 256).eraseDups
  let clean (l : MscLine) : MscLine := if blks.contains (l.addr / 256) then { l with old := none, eng := [] } else l
  let s := { s with
    msc := vset s.msc leaf ((ls.filter fun l => !out l).map clean)
    memPois := (ls.filter fun l => l.old.isSome && l.pois != 0 && blks.contains (l.addr / 256)).foldl
      (fun m l => SMap.insert m (l.addr / 256) ⟨false, BitVec.allOnes 256⟩) s.memPois }
  blks.foldl (fun s b => s.hbmRequest (256 * b) 256 fn st.1 st.2) s

/-- A way of a set for a block of general data: a free one, else that of the least recently used block, which
leaves. Its write-back carries the function, class and stamp of the access that needs the way (R130 gives none;
DESIGN CHOICE, log 53). -/
def State.makeRoom (s : State) (leaf set fn : Nat) (st : Nat × BitVec 16) : State × Option Nat :=
  let ways := s.generalWays leaf set
  let here := (s.mscOf leaf).filter fun l => mscSetOf l.addr == set
  if ways = 0 then (s, none)
  else match (List.range ways).find? fun w => !here.any fun l => l.way == w with
    | some w => (s, some w)
    | none => match here with
      | [] => (s, none)
      | l :: _ => (s.dropMsc leaf (fun x => x.addr / 256 == l.addr / 256) fn st, some l.way)

/-- Fills the lines of a block that the MSC does not hold; `none` where the set has no general way (R128). -/
def State.fillBlock (s : State) (u : Use) (fn : Nat) (st : Nat × BitVec 16) (pa : Nat) : Option State :=
  let leaf := homeLeaf pa
  let r := match (s.mscOf leaf).find? fun l => l.addr / 256 == pa / 256 with
    | some l => (s, some l.way)
    | none => s.makeRoom leaf (mscSetOf pa) fn st
  r.2.map fun w =>
    let s := r.1
    let ls := s.mscOf leaf
    let new := ((List.range 4).map fun i => pa / 256 * 256 + 64 * i).filter fun a => !(ls.any fun l => l.addr == a)
    let new := new.map fun a => MscLine.mk a w u.gath none none [] 0
    { s with msc := vset s.msc leaf (if u.hint = 3 then new ++ ls else ls ++ new) }

/-- The function of an owner tag (R135, R244). -/
def fnOfTag (o : BitVec 8) : Nat := if 1 ≤ o.toNat ∧ o.toNat ≤ 64 then o.toNat - 1 else pfFn

/-- The report of a poisoned block that a read brings in from HBM or CXL (R138, R242): on the ring of the block's
owner, with the block's guest-physical address; an address that no extent of the owner maps is a free value
(log 16). CPTR and rank are those of the reading launch where it is the owner's. -/
def State.reportPoison (s : State) (fn : Nat) (l : Launch) (c : Option Nat) (b : Nat) : State :=
  let o := ((SMap.find? s.lineOwner (4 * b)).map fnOfTag).getD fn
  let g := match s.toGuest o (256 * b) with
    | some g => (wd g, s)
    | none => s.takeFree
  let own := o == fn
  let rank := (c.map fun c => (s.core c).rank).getD 0
  g.2.postEvent o g.1 (if own then l.cptr else 0) (if own then rank else 0) 0 (eventVf o) 2

/-- A block is read from HBM or CXL: it is reported where it is poisoned (R138). -/
def State.readBlock (s : State) (fn : Nat) (l : Launch) (c : Option Nat) (b : Nat) : State :=
  if (SMap.find? s.memPois b).isSome then s.reportPoison fn l c b else s

/-- Passes an access to one line through its home MSC: hit, fill of the 256-byte block, or bypass, in which a
line that the MSC holds is written back and invalidated first (R125). `c` is the core whose counters count it: the
MSC's events where the line's tag is the accessing owner's (R239). A fill and a read that bypasses read the block
(R138). -/
def State.useLine (s : State) (u : Use) (fn : Nat) (l : Launch) (c : Option Nat) (wr : Bool) (pa : Nat) : State :=
  let line := pa / 64 * 64
  let leaf := homeLeaf pa
  let ls := s.mscOf leaf
  let st := s.stampOf l
  let mine := ((SMap.find? s.lineOwner (pa / 64)).map fun o => o == ownerTag fn).getD true
  let count (s : State) (b : Bool) (ev n : Nat) : State :=
    match c with
    | some c => if b && n != 0 then s.modCore c fun k => k.countEv ev n else s
    | none => s
  let reads (n : Nat) : Nat := if inHbm pa then n else 0
  let one (s : State) : State :=
    let s := s.launchRequest l fn pa 64
    if wr then s else (count s true 7 (reads 1)).readBlock fn l c (pa / 256)
  if windowOf pa = .mmio then s
  else if 2 ≤ u.eff then one (s.dropMsc leaf (fun x => x.addr == line) fn st)
  else
    match ls.find? fun l => l.addr == line with
    | some x =>
      let rest := ls.filter fun x => x.addr != line
      count { s with msc := vset s.msc leaf (if u.hint = 3 then x :: rest else rest ++ [x]) } mine 5 1
    | none =>
      let s := count s mine 6 1
      if u.eff = 1 then one s
      else match s.fillBlock u fn st pa with
        | none => one s
        | some s => (count (s.launchRequest l fn pa 256) true 7 (reads 4)).readBlock fn l c (pa / 256)

def State.useLines (s : State) (u : Use) (fn : Nat) (l : Launch) (c : Option Nat) (wr : Bool) (a n : Nat) : State :=
  (linesOf a n).foldl (fun s x => s.useLine u fn l c wr (64 * x)) s

/-! ## Scope records (R154, R158) -/

/-- The group of a core: the shape of a sequencer's last `BAR`, or the whole launch (R42, R154). -/
def groupShape (l : Launch) (b : Option (BitVec 3 × BitVec 3)) : Nat × Nat :=
  match b with
  | some (lw, lh) => (2 ^ lw.toNat, 2 ^ lh.toNat)
  | none => (l.wid, l.hgt)

/-- Ranks of the group of a shape that holds a rank, row-major (R42). -/
def groupRanks (l : Launch) (sh : Nat × Nat) (rank : Nat) : List Nat :=
  let x := rank % l.wid / sh.1 * sh.1
  let y := rank / l.wid / sh.2 * sh.2
  (List.range (sh.1 * sh.2)).map fun i => (y + i / sh.1) * l.wid + x + i % sh.1

/-- Package ranks of the group of a shape that holds a core, in rank order within the group (R42). -/
def State.groupCores (s : State) (c : Nat) (sh : Nat × Nat) : List Nat :=
  let l := s.launchOn c
  (groupRanks l sh (s.core c).rank).map (l.coreOf (s.core c).copy1)

/-- The cores of an agent's group: that of the shape which its most recent `BAR` named (R154). The agent is one of this
package. -/
def State.grpOf (s : State) (x : Agent) : List Nat :=
  s.groupCores x.core (groupShape (s.launchOn x.core) ((s.core x.core).seq x.seq).barShape)

/-- Whether an agent lies within the scope of an access by another, whose group is that of some cores of its package
(Table 9.2). -/
def inScope (scp : BitVec 3) (grp : List Nat) (x y : Agent) : Bool :=
  let pkg := x.node == y.node
  match scp.toNat with
  | 0 => x == y
  | 1 => pkg && x.core == y.core && x.launch == y.launch
  | 2 => pkg && x.launch == y.launch && grp.contains y.core
  | 3 => pkg && x.launch == y.launch
  | 4 => pkg && leafOf x.core == leafOf y.core
  | 5 => pkg
  | _ => true

/-- The scope record of a line; absent when the launch has written its completion record (R158), which for a launch of
another package is `Config.remoteDone` (log 24). -/
def State.scopeRec (s : State) (pa : Nat) : Option ScopeRec :=
  ((s.mscOf (homeLeaf pa)).find? fun l => l.addr == pa / 64 * 64).bind fun l =>
    l.scope.bind fun r =>
      if (if r.agent.node = s.nodeId then s.launches.any fun l => l.id == r.agent.launch
          else !Config.remoteDone r.agent.node r.agent.launch s.cycle) then some r else none

/-- EINFO1 of a SCOPE trap (Table 9.3). -/
def einfoScope (side own : Nat) (wr : Bool) (rec_ : Nat) : Word := wd (256 * side + 16 * own + 8 * b2n wr + rec_)

/-- The check of R158 for a synchronising access to a global line by an agent with a group. `acq` says that it
acquires. -/
def State.scopeCheck (s : State) (scp : BitVec 3) (ag : Agent) (grp : List Nat) (acq wr : Bool) (ptr : Word) (pa : Nat) : Option Trap :=
  match s.scopeRec pa with
  | none => none
  | some r =>
    if acq && !inScope r.scp r.grp r.agent ag then some ⟨cSCOPE, ptr, einfoScope 0 scp.toNat wr r.scp.toNat⟩
    else if !inScope scp grp ag r.agent then some ⟨cSCOPE, ptr, einfoScope 1 scp.toNat wr r.scp.toNat⟩
    else none

/-- Records a release or an ordered read-modify-write in its line's record (R158). -/
def State.setScope (s : State) (scp : BitVec 3) (ag : Agent) (grp : List Nat) (pa : Nat) : State :=
  let f (l : MscLine) : MscLine := if l.addr == pa / 64 * 64 then { l with scope := some ⟨scp, grp, ag⟩ } else l
  { s with msc := vset s.msc (homeLeaf pa) ((s.mscOf (homeLeaf pa)).map f) }

/-! ## Shadow pages of paired launches (R251, R252) -/

/-- The free shadow pages of a copy: its half of the pool until pages have been taken (R252). Table 16.1 gives
the PF no pool. -/
def State.poolOf (s : State) (fn : Nat) (copy1 : Bool) : List Nat :=
  match SMap.find? s.shPool (2 * fn + b2n copy1) with
  | some l => l
  | none =>
    if fn = pfFn then [] else
    let r := s.pfReg (0x24000 + 8 * fn)
    let half := bf r 11 0 * 256 / 2
    (List.range half).map fun i => bf r 51 12 + (if copy1 then half else 0) + i

def State.shadowOf (s : State) (id : Nat) (copy1 : Bool) (page : Nat) : Option ShadowPage :=
  s.shadows.find? fun p => p.launch == id && p.copy1 == copy1 && p.va == page

/-- A copy's host place of an address: its shadow where it has one. -/
def State.shadowed (s : State) (id : Nat) (copy1 : Bool) (va pa : Nat) : Nat :=
  match s.shadowOf id copy1 (va / 4096) with
  | some p => p.new * 4096 + pa % 4096
  | none => pa

/-- A page's content goes to another page for an owner: its bytes and the poison of its blocks (R138, R252). -/
def State.copyPage (s : State) (owner : BitVec 8) (src dst : Nat) : State :=
  let s' := s.writePhys owner (4096 * dst) (s.readPhys owner false (4096 * src) 4096) false
  { s' with memPois := (List.range 16).foldl (fun m i =>
      match s.poisonAt (4096 * src + 256 * i) 256 with
      | some integ => SMap.insert m (16 * dst + i) ⟨integ, BitVec.allOnes 256⟩
      | none => m) s'.memPois }

/-- Gives a page its shadow before a copy's first write to it, and notes the lines written; `none` when
the pool is empty (R252). -/
def State.takeShadow (s : State) (l : Launch) (copy1 : Bool) (va pa n : Nat) : Option State :=
  let page := va / 4096
  let lines := (linesOf va n).filter fun x => x / 64 == page
  let note (s : State) : State := { s with shadows := s.shadows.map fun p =>
    if p.launch == l.id && p.copy1 == copy1 && p.va == page
    then { p with lines := p.lines ++ lines.filter fun x => !p.lines.contains x } else p }
  match s.shadowOf l.id copy1 page with
  | some _ => some (note s)
  | none =>
    match s.poolOf l.fn copy1 with
    | [] => none
    | p :: ps =>
      let s := { s with shPool := SMap.insert s.shPool (2 * l.fn + b2n copy1) ps }
      let s := (s.launchRequest l l.fn pa 4096).launchRequest l l.fn (4096 * p) 4096
      let s := (s.dirtied (4096 * p) 4096).copyPage l.owner (pa / 4096) p
      some (note { s with shadows := s.shadows ++ [⟨l.id, copy1, page, pa / 4096, p, []⟩] })

/-! ## Reads and writes -/

/-- Who accesses memory: the translation context, the launch it acts for, the copy of a paired
launch, and how it uses the MSC. -/
structure MCtx where
  x : XCtx
  launch : Launch
  copy1 : Bool
  hint : Nat
  deriving DecidableEq, Repr

/-- The context of a core for a sequencer or an engine. -/
def State.mctx (s : State) (c : Nat) (user : Bool) (hint : Nat) : MCtx where
  x := s.xctx c user
  launch := s.launchOn c
  copy1 := (s.core c).copy1
  hint := hint

def MCtx.use (m : MCtx) (ca : Nat) : Use :=
  ⟨ca, m.hint, m.launch.gathTag⟩

/-- A value read: its bytes, the secure tag, and the poison met (R138, R247). -/
structure Got where
  bytes : List Byte
  sec : Bool
  bad : Option (BitVec 8 × Word)
  deriving DecidableEq, Repr

/-- Free bytes: what a device answers (log 17). -/
def State.freeBytes (s : State) (n : Nat) : List Byte × State :=
  ((List.range n).map fun i => Config.freeByte (s.fresh + i), { s with fresh := s.fresh + n })

/-- Reads the pieces of a translated access. -/
def State.readPieces (s : State) (m : MCtx) (va : Nat) (ptr : Word) : List Piece → State × Got
  | [] => (s, ⟨[], false, none⟩)
  | p :: ps =>
    let r := if p.page.ca = 3 ∧ windowOf p.pa = .mmio then
        let f := s.freeBytes p.len
        (f.2, (⟨f.1, p.page.ws, none⟩ : Got))
      else
        let pa := if m.launch.flagD then s.shadowed m.launch.id m.copy1 va p.pa else p.pa
        let bad := (s.poisonAt pa p.len).map fun i => (if i then cINTEG else cPOISON, ptr)
        let got := Got.mk (s.readPhys (ownerTag m.x.fn) p.page.sh pa p.len) p.page.ws bad
        (s.useLines (m.use p.page.ca) m.x.fn m.launch m.x.core false pa p.len, got)
    let r' := State.readPieces r.1 m (va + p.len) (ptr + wd p.len) ps
    (r'.1, ⟨r.2.bytes ++ r'.2.bytes, r.2.sec || r'.2.sec, if r.2.bad.isSome then r.2.bad else r'.2.bad⟩)

/-- Reads `n` bytes of global memory at a pointer (R330, R126). -/
def State.readGlobal (s : State) (m : MCtx) (ptr : Word) (n : Nat) : Acc Got :=
  match s.translate m.x false false ptr n with
  | .trap s t => .trap s t
  | .miss s f g => .miss s f g
  | .ok s ps =>
    let r := s.readPieces m (bf ptr 56 0) ptr ps
    .ok r.1 r.2

/-- Writes the pieces of a translated access; `none` when a shadow pool is empty (R252). -/
def State.writePieces (s : State) (m : MCtx) (va : Nat) (sec : Bool) : List Piece → List Byte → Option State
  | [], _ => some s
  | p :: ps, bs =>
    let now := bs.take p.len
    if p.page.ca = 3 ∧ windowOf p.pa = .mmio then State.writePieces s m (va + p.len) sec ps (bs.drop p.len)
    else
      let owner := if p.page.sh then 0 else ownerTag m.x.fn
      let sh := if m.launch.flagD then s.takeShadow m.launch m.copy1 va p.pa p.len else some s
      match sh with
      | none => none
      | some s =>
        let pa := if m.launch.flagD then s.shadowed m.launch.id m.copy1 va p.pa else p.pa
        let s := if m.launch.flagD then s.dirtied pa p.len else s
        let s := s.useLines (m.use p.page.ca) m.x.fn m.launch m.x.core true pa p.len
        let s := s.writePhys owner pa now sec
        State.writePieces s m (va + p.len) sec ps (bs.drop p.len)

/-- PERM in a launch flagged D (R251). -/
def trapPaired (p : Word) : Trap := ⟨cPERM, p, einfoX (Config.pairedReason p).toNat true 7⟩

/-- A paired launch stores only to pages of 4 KiB leaves (R251). -/
def bigLeaf (m : MCtx) (ps : List Piece) : Bool := m.launch.flagD && ps.any fun p => p.page.lvl != 4

/-- Translates and checks a store of `n` bytes: Table 7.3, then the paired rule, then the secure tag
(R251, R257). -/
def State.checkStore (s : State) (m : MCtx) (ptr : Word) (n : Nat) (sec : Bool) : Acc (List Piece) :=
  match s.translate m.x true false ptr n with
  | .trap s t => .trap s t
  | .miss s f g => .miss s f g
  | .ok s' ps =>
    if bigLeaf m ps then .trap s (trapPaired ptr)
    else if sec && ps.any fun p => !p.page.ws then .trap s ⟨cWORLD, ptr, einfoX 7 true 7⟩
    else .ok s' ps

/-- Writes bytes to global memory at a pointer (R361, R126). An empty shadow pool ends the launch
FAULT with DETAIL 0x07 (R252). -/
def State.writeGlobal (s : State) (m : MCtx) (ptr : Word) (bs : List Byte) (sec : Bool) : Acc Unit :=
  match s.checkStore m ptr bs.length sec with
  | .trap s t => .trap s t
  | .miss s f g => .miss s f g
  | .ok s ps =>
    match s.writePieces m (bf ptr 56 0) sec ps bs with
    | some s => .ok s ()
    | none => .ok (s.endLaunch m.launch.id .fault cPERM 0) ()

/-! ## Atomics (R155, R302) -/

/-- The value an atomic operation stores, of `old` and `v` in `w` bits; `none`: no write. -/
def atomNew (ty : Ty) (op : AtomOp) (old v cmp : Nat) : Option Nat :=
  let m := 2 ^ ty.width
  let o := old % m
  let x := v % m
  match op with
  | .add => some ((o + x) % m)
  | .min => some (if ty.intValue o ≤ ty.intValue x then o else x)
  | .max => some (if ty.intValue o ≥ ty.intValue x then o else x)
  | .and => some (o &&& x)
  | .or => some (o ||| x)
  | .xor => some (o ^^^ x)
  | .swap => some x
  | .cas => if o = cmp % m then some x else none

/-- A value extended into a 64-bit register (R297): sign or zero, as its type says. -/
def extend (ty : Ty) (n : Nat) : Word := wi (ty.intValue n)

/-- An atomic operation acts on a line in the present slot (R155). -/
def State.noteAtom (s : State) (pa : Nat) : State := { s with slotAtoms := pa / 64 :: s.slotAtoms }

/-- The atomic operations of the present slot are noted by the lines of their pieces. -/
def State.noteAtoms (s : State) (ps : List Piece) : State := ps.foldl (fun s p => s.noteAtom p.pa) s

/-- An atomic on global memory at its home station: the old value. The pieces are one, since an atomic
is naturally aligned. -/
def State.atomGlobal (s : State) (m : MCtx) (ty : Ty) (op : AtomOp) (va : Nat) (ptr : Word) (ps : List Piece)
    (v cmp : Word) (sec : Bool) : Option (State × Got) :=
  let r := (s.noteAtoms ps).readPieces m va ptr ps
  match r.2.bad with
  | some _ => some r
  | none =>
    match atomNew ty op (leNat r.2.bytes) v.toNat cmp.toNat with
    | none => some r
    | some x => (r.1.writePieces m va sec ps (leBytes (ty.width / 8) x)).map fun s => (s, r.2)

end Sys2Proof.Machine
end

