-- ==== Sys2Proof/Machine/Flags.lean ====
section
/-! DEFINITION. Conditions and flags: the comparisons of `CMP`, `VCMP` and `VFCMP` (R312, R377, R380)
and the sticky flags of VSTAT (R81, R82). -/

namespace Sys2Proof.Machine

/-- A condition between integers (R312); `un` never holds of integers. -/
def intCond (c : Cond) (a b : Int) : Bool :=
  match c with
  | .eq => decide (a = b)
  | .ne => decide (a ≠ b)
  | .lt => decide (a < b)
  | .le => decide (a ≤ b)
  | .gt => decide (a > b)
  | .ge => decide (a ≥ b)
  | .un => false

/-- A condition between f32 values (R380): with a NaN only ne and un hold. -/
def floatCond (c : Cond) (a b : Num) : Bool :=
  if a.isNan || b.isNan then c == .ne || c == .un
  else match c with
    | .eq => Num.eq a b
    | .ne => !Num.eq a b
    | .lt => Num.lt a b
    | .le => Num.lt a b || Num.eq a b
    | .gt => Num.lt b a
    | .ge => Num.lt b a || Num.eq a b
    | .un => false

/-- The flags of several rounded results, ORed (R82, R83). -/
def orAll (fs : List Flags) : Flags := fs.foldl (fun a b => a ||| b) 0

/-- VSTAT after a write of ones to its W1C bits (Table 4.5). -/
def vstatWrite (old : Flags) (v : Word) : Flags := old &&& ~~~(v.setWidth 6)

/-- The smaller or larger of two f32 values, -0 below +0, a NaN passed over (R379). -/
def floatPick (wantMax : Bool) (a b : Num) : Num :=
  if a.isNan && b.isNan then a
  else if a.isNan then b
  else if b.isNan then a
  else
    let aless := Num.lt a b || (Num.eq a b && a.sign && !b.sign)
    if aless then (if wantMax then b else a) else (if wantMax then a else b)

end Sys2Proof.Machine
end

