-- ==== Sys2Proof/Machine/Operands.lean ====
section
/-! DEFINITION. Operand forms: the values of operands A, B and C, guards and lanes, the registers that
an instruction reads and writes, and their world tags and poison (R25, R30, R257, R270 to R273, R297,
R331, R370 to R372). -/

namespace Sys2Proof.Machine

/-! ## Scalar operands (R273, R297) -/

/-- Operand B of a scalar instruction: an immediate arrives sign-extended. -/
def State.sop (s : State) : SOp → Word
  | .reg r => s.rs r
  | .imm i => i.signExtend 64

/-- The value of a 64-bit pattern under a scalar type: its low bits, signed or unsigned (R297). -/
def sval (ty : Ty) (w : Word) : Int := ty.intValue w.toNat

/-- The low bits of a pattern under a scalar type, unsigned. -/
def slow (ty : Ty) (w : Word) : Nat := w.toNat % 2 ^ ty.width

/-- The address of a memory operand: register and sign-extended offset (R330). -/
def State.addr (s : State) (a : Fin 32) (off : Word32) : Word := s.rs a + off.signExtend 64

/-! ## Vector operands (R30, R370) -/

/-- Lane `l` of a vector register. -/
def lane (v : VReg) (l : Nat) : Word32 := vget 0 v l

/-- The next register of a pair. -/
def pairHi (r : Fin 32) : Fin 32 := ⟨(r.val + 1) % 32, Nat.mod_lt _ (by decide)⟩

/-- The pattern of operand B in a lane. -/
def State.vopLane (s : State) (b : VOp) (l : Nat) : Word32 :=
  match b with
  | .vec r => lane (s.rv r) l
  | .reg r => (s.rs r).setWidth 32
  | .imm i => i

/-- The pattern of operand B in a pair. -/
def State.vopPair (s : State) (b : VOp) (l : Nat) : Word :=
  match b with
  | .vec r => lane (s.rv (pairHi r)) l ++ lane (s.rv r) l
  | .reg r => s.rs r
  | .imm i => i.signExtend 64

/-- The pattern of a pair of registers in a lane. -/
def State.pairLane (s : State) (r : Fin 32) (l : Nat) : Word := lane (s.rv (pairHi r)) l ++ lane (s.rv r) l

/-- Sub-elements per lane of a type of at most 32 bits. -/
def subCount (ty : Ty) : Nat := 32 / ty.width

/-- Sub-element `k` of a lane pattern (R30). -/
def sub (ty : Ty) (x : Word32) (k : Nat) : Nat := x.toNat / 2 ^ (ty.width * k) % 2 ^ ty.width

/-- A lane pattern of sub-elements, the first lowest. -/
def packSubs (ty : Ty) : List Nat → Nat
  | [] => 0
  | x :: xs => x % 2 ^ ty.width + 2 ^ ty.width * packSubs ty xs

/-! ## Guards (R13, R14, R272) -/

/-- Whether the scalar guard holds. -/
def State.guard (s : State) (c : Ctl) : Bool := s.rf c.gFlag != c.gNeg

/-- Whether the flag of the scalar guard is poisoned (R247); f7 is none. -/
def State.guardBad (s : State) (c : Ctl) : Bool := c.gFlag != 7 && bt s.sq.fPois c.gFlag.val

/-- The lanes that the lane guard selects. -/
def State.lanes (s : State) (c : Ctl) : BitVec 1024 :=
  if c.lNeg then ~~~(s.rp c.lPred) else s.rp c.lPred

/-! ## Writing lanes (R14, R247) -/

/-- Writes the selected lanes of a register; a 64-bit word written whole is no longer poisoned. -/
def XUnit.writeLanes (x : XUnit) (r : Fin 32) (m : BitVec 1024) (v : VReg) : XUnit :=
  let old := x.rv r
  let x := x.wv r (tab 1024 fun l => if bt m l then lane v l else lane old l)
  { x with vPois := x.vPois.filter fun w => !(w / 512 == r.val && bt m (2 * (w % 512)) && bt m (2 * (w % 512) + 1)) }

def State.writeLanes (s : State) (r : Fin 32) (m : BitVec 1024) (v : VReg) : State :=
  s.modCC fun k => k.modX fun x => x.writeLanes r m v

/-- Writes the selected bits of a predicate. -/
def State.writePred (s : State) (r : Fin 16) (m v : BitVec 1024) : State :=
  s.wp r ((s.rp r &&& ~~~m) ||| (v &&& m))

/-- A predicate from a test of each lane. -/
def predOf (f : Nat → Bool) : BitVec 1024 :=
  BitVec.ofNat 1024 (((List.range 1024).filter f).foldl (fun a l => a + 2 ^ l) 0)

end Sys2Proof.Machine

namespace Sys2Proof

/-! ## Registers read and written -/

/-- The registers that an instruction names as sources and as destinations. -/
structure RegUse where
  sR : List (Fin 32) := []
  sW : List (Fin 32) := []
  vR : List (Fin 32) := []
  vW : List (Fin 32) := []
  fR : List (Fin 8) := []
  fW : List (Fin 8) := []
  pR : List (Fin 16) := []
  pW : List (Fin 16) := []
  mR : List (Fin 16) := []
  mW : List (Fin 16) := []
  tR : List (Fin 32) := []
  tW : List (Fin 32) := []
  kR : List (Fin 4) := []
  kW : List (Fin 4) := []
  deriving DecidableEq, Repr

def SOp.regs : SOp → List (Fin 32)
  | .reg r => [r]
  | .imm _ => []

def TS.regs : TS → List (Fin 32)
  | .s r => [r]
  | .t _ => []

def TS.tiles : TS → List (Fin 32)
  | .t r => [r]
  | .s _ => []

/-- A register and, for a 64-bit type, its partner. -/
def vp (t : Ty) (r : Fin 32) : List (Fin 32) := if t.is64 then [r, Machine.pairHi r] else [r]

def VOp.vregs (t : Ty) : VOp → List (Fin 32)
  | .vec r => vp t r
  | _ => []

def VOp.sregs : VOp → List (Fin 32)
  | .reg r => [r]
  | _ => []

/-- The registers that an instruction reads and writes, apart from its guards. The destination of an SFU
instruction is written, and tagged, when the result lands (R34). -/
def Instr.regs : Instr → RegUse
  | .add _ _ _ d a b | .sub _ _ _ d a b => { sR := a :: b.regs, sW := [d] }
  | .mul _ _ _ d a b => { sR := a :: b.regs, sW := [d] }
  | .div _ _ _ d a b => { sR := a :: b.regs, sW := [d] }
  | .and _ _ d a b | .or _ _ d a b | .xor _ _ d a b => { sR := a :: b.regs, sW := [d] }
  | .shl _ _ d a b | .rol _ _ d a b | .min _ _ d a b | .max _ _ d a b => { sR := a :: b.regs, sW := [d] }
  | .shr _ _ _ d a b => { sR := a :: b.regs, sW := [d] }
  | .cmp _ _ _ d a b => { sR := a :: b.regs, fW := [d] }
  | .sel _ _ d a b fc => { sR := a :: b.regs, sW := [d], fR := [fc] }
  | .li _ _ d _ => { sW := [d] }
  | .mov _ d a =>
    { sR := match a with | .s r => [r] | .m _ => []
      mR := match a with | .m r => [r] | .s _ => []
      sW := match d with | .s r => [r] | .m _ => []
      mW := match d with | .m r => [r] | .s _ => [] }
  | .clz _ _ d a | .popc _ _ d a => { sR := [a], sW := [d] }
  | .bfx _ _ d a b => { sR := a :: b.regs, sW := [d] }
  | .bfi _ _ d a b => { sR := d :: a :: b.regs, sW := [d] }
  | .jmp _ a | .ret _ a => { sR := [a] }
  | .call _ d _ => { sW := [d] }
  | .loop _ d _ => { sR := [d], sW := [d] }
  | .bqsend _ a => { fR := [a] }
  | .ld _ _ _ _ _ d a _ => { sR := [a], sW := [d] }
  | .st _ _ _ _ _ a _ v => { sR := [a, v] }
  | .ldv _ _ _ d a _ _ => { sR := [a], vW := [d] }
  | .stv _ _ _ a _ v _ => { sR := [a], vR := [v] }
  | .gather _ t a p ti b _ => { sR := a :: p :: b.toList, tR := [t, ti] }
  | .scatter _ d t p ti b _ => { sR := d :: p :: b.toList, tR := [t, ti] }
  | .atom _ _ _ _ _ _ d a v cp => { sR := a :: v :: cp.toList, sW := [d] }
  | .pref _ a l _ => { sR := a :: l.toList }
  | .qpush _ _ a => { sR := [a] }
  | .qpop _ d _ | .qcnt _ d _ => { sW := [d] }
  | .vadd _ t _ d a b | .vsub _ t _ d a b => { sR := b.sregs, vR := vp t a ++ b.vregs t, vW := vp t d }
  | .vmul _ t _ _ d a b => { sR := b.sregs, vR := a :: b.vregs t, vW := [d] }
  | .vmad _ t _ d a b e => { sR := b.sregs, vR := a :: e :: b.vregs t, vW := [d] }
  | .vand _ t d a b | .vor _ t d a b | .vxor _ t d a b | .vshl _ t d a b | .vmin _ t d a b
  | .vmax _ t d a b => { sR := b.sregs, vR := vp t a ++ b.vregs t, vW := vp t d }
  | .vshr _ t _ d a b => { sR := b.sregs, vR := vp t a ++ b.vregs t, vW := vp t d }
  | .vcmp _ t _ d a b => { sR := b.sregs, vR := vp t a ++ b.vregs t, pW := [d] }
  | .vsel _ t d a b p => { sR := b.sregs, vR := vp t a ++ b.vregs t, vW := vp t d, pR := [p] }
  | .vmov _ t d b => { sR := b.sregs, vR := b.vregs t, vW := vp t d }
  | .viota _ _ d => { vW := [d] }
  | .vfadd _ _ _ d a b | .vfmul _ _ _ d a b | .vfmin _ _ _ d a b | .vfmax _ _ _ d a b =>
    { sR := b.sregs, vR := a :: b.vregs .f32, vW := [d] }
  | .vfma _ _ _ d a b e => { sR := b.sregs, vR := a :: e :: b.vregs .f32, vW := [d] }
  | .vfcmp _ _ d a b => { sR := b.sregs, vR := a :: b.vregs .f32, pW := [d] }
  | .vfcvt _ t sty _ _ _ d a => { vR := if t.width < sty.width then [a, d] else [a], vW := [d] }
  | .vpadd _ _ _ _ d a b | .vpmul _ _ _ _ d a b => { sR := b.sregs, vR := a :: b.vregs .f32, vW := [d] }
  | .vpfma _ _ _ _ d a b e => { sR := b.sregs, vR := a :: e :: b.vregs .f32, vW := [d] }
  | .vrotr _ _ d a b | .vrotc _ _ d a b => { sR := b.regs, vR := [a], vW := [d] }
  | .vbcr _ _ d a b | .vbcc _ _ d a b =>
    { sR := match b with | some b => b.regs | none => [], vR := [a], vW := [d] }
  | .vtrn _ _ d a => { vR := [a], vW := [d] }
  | .vredr _ _ _ _ _ d a | .vredc _ _ _ _ _ d a => { vR := [a], vW := [d] }
  | .vexp2 _ _ a | .vlog2 _ _ a | .vrcp _ _ a | .vrsq _ _ a => { vR := [a] }
  | .vqnt _ _ _ _ d e a => { vR := [a], vW := [d, e] }
  | .plog _ _ d a b => { pR := [a, b], pW := [d] }
  | .pcnt _ _ d a => { pR := [a], sW := [d] }
  | .pset _ _ d b => { sR := b.regs, pW := [d] }
  | .cspush _ t a => { vR := [a], tR := [t] }
  | .cspop _ d t => { vW := [d], tR := [t] }
  | .csbal _ d p t => { vW := [d], pW := [p], tR := [t] }
  | .mshape _ _ _ d b | .mshapeGrp _ _ _ d b => { sR := b.regs, sW := [d] }
  | .mload _ _ t => { tR := [t] }
  | .mmul _ _ _ m t | .mmuls _ _ _ m t => { mR := [m], tR := [t] }
  | .mzero _ _ m => { mR := [m] }
  | .mdrain _ _ _ _ _ t m => { mR := [m], tR := [t] }
  | .madpt _ t b => { sR := [b], tR := t.toList }
  | .axlt _ a _ h | .apub _ a _ h => { sR := [a, h] }
  | .apref _ h => { sR := [h] }
  | .aunpin _ b => { sR := [b] }
  | .cnest _ _ n ss ds => { sR := ss :: ds :: n.regs }
  | .cpy _ dst src b br1 sh => { sR := dst.regs ++ src.regs ++ b.regs ++ br1.toList ++ sh.toList, tR := dst.tiles ++ src.tiles }
  | .cpym _ _ _ d src b br1 m => { sR := src.regs ++ b.regs ++ br1.toList, mR := [m], tR := d :: src.tiles }
  | .tbinit _ a n | .tbarv _ a n => { sR := a :: n.regs }
  | .tbwait _ _ a n => { sR := a :: n.regs }
  | .tset _ t n => { sR := n.regs, tR := [t], tW := [t] }
  | .tsetDef _ t a => { sR := [a], tR := [t], tW := [t] }
  | .phase _ tf tb => { tR := [tf, tb] }
  | .mark _ k _ _ => { kW := [k] }
  | .waitmk _ k _ => { kR := [k] }
  | .sendm _ _ h a _ l br1 => { sR := h :: a :: l :: br1.toList }
  | .rpost _ d a _ | .rprobe _ d a _ => { sR := [a], sW := [d] }
  | .rcancel _ d h => { sR := [h], sW := [d] }
  | .rld _ _ _ _ _ d n a _ => { sR := [n, a], sW := [d] }
  | .rst _ _ _ _ _ _ n a _ v br1 => { sR := n :: a :: v :: br1.toList }
  | .ratom _ _ _ _ _ _ d n a v cp => { sR := n :: a :: v :: cp.toList, sW := [d] }
  | .msop _ _ _ n a _ r b => { sR := [n, a, r, b] }
  | .cpost _ a _ => { sR := [a] }
  | .trap _ _ a => { sR := a.toList }
  | .mfsr _ d _ r => { sR := r.toList, sW := [d] }
  | .mtsr _ _ a r => { sR := a :: r.toList }
  | .waiti _ _ b => { sR := b.regs }
  | .wtclr _ _ a _ l => { sR := [a, l] }
  | .vainv _ a l => { sR := a :: l.regs }
  | _ => {}

/-- The vector-unit and SFU operations, which counter event 3 counts. -/
def Instr.isVector : Instr → Bool
  | .vadd .. | .vsub .. | .vmul .. | .vmad .. | .vand .. | .vor .. | .vxor .. | .vshl .. | .vshr .. | .vmin ..
  | .vmax .. | .vcmp .. | .vsel .. | .vmov .. | .viota .. | .vfadd .. | .vfmul .. | .vfma .. | .vfmin ..
  | .vfmax .. | .vfcmp .. | .vfcvt .. | .vpadd .. | .vpmul .. | .vpfma .. | .vrotr .. | .vrotc .. | .vbcr ..
  | .vbcc .. | .vtrn .. | .vredr .. | .vredc .. | .vexp2 .. | .vlog2 .. | .vrcp .. | .vrsq .. | .vqnt ..
  | .plog .. | .pcnt .. | .pset .. | .cspush .. => true
  | _ => false

/-- The hints, which never trap (R126, R350). -/
def Instr.isHint : Instr → Bool
  | .pref .. | .apref .. => true
  | _ => false

end Sys2Proof

namespace Sys2Proof.Machine

/-! ## World tags (R257) -/

/-- Whether any source of an instruction is secure, the tile-table entries and markers that it reads and the lane
guard's predicate included (log 22). -/
def State.srcSec (s : State) (u : RegUse) (c : Ctl) : Bool :=
  let q := s.sq
  let x := s.cc.x
  u.sR.any (fun r => bt q.sSec r.val) || u.vR.any (fun r => bt x.vSec r.val) ||
    u.fR.any (fun r => bt q.fSec r.val) || u.pR.any (fun r => bt x.pSec r.val) ||
    bt x.pSec c.lPred.val || u.mR.any (fun r => bt s.cc.mSec r.val) ||
    u.tR.any (fun t => bt s.cc.tileSec t.val) || u.kR.any (fun k => bt s.cc.kSec k.val)

/-- Tags of a list of registers, but for one that is a constant. -/
def tagBits {n w : Nat} (m : BitVec w) (rs : List (Fin n)) (const : Option Nat) (f : Fin n → Bool) : BitVec w :=
  rs.foldl (fun m r => if some r.val = const then m else setBit m r.val (f r)) m

/-- Tags the destinations; s0, f7 and p15 are constants and take none. A vector or predicate destination that is
written only in part keeps a secure tag. -/
def State.tagDests (s : State) (u : RegUse) (c : Ctl) (sec : Bool) : State :=
  let all := c.noLanes
  s.modCC fun k =>
    let k := k.modSeq s.curSeq fun q => { q with
      sSec := tagBits q.sSec u.sW (some 0) fun _ => sec
      fSec := tagBits q.fSec u.fW (some 7) fun _ => sec }
    { k with
      mSec := tagBits k.mSec u.mW none fun _ => sec
      tileSec := tagBits k.tileSec u.tW none fun _ => sec
      kSec := tagBits k.kSec u.kW none fun _ => sec
      x := { k.x with
        vSec := tagBits k.x.vSec u.vW none fun r => sec || (!all && bt k.x.vSec r.val)
        pSec := tagBits k.x.pSec u.pW (some 15) fun r => sec || (!all && bt k.x.pSec r.val) } }

/-! ## Poison (R247, R331, R372) -/

/-- Whether a poisoned word lies in a vector, flag, predicate or m register, a tile-table entry or the
branch-outcome queue that an instruction reads; f7 and p15 are constants. -/
def State.wordPoison (s : State) (i : Instr) (u : RegUse) (c : Ctl) : Bool :=
  let q := s.sq
  let k := s.cc
  u.vR.any (fun r => k.x.vPois.any fun w => w / 512 == r.val) ||
    u.fR.any (fun r => r != 7 && bt q.fPois r.val) ||
    (c.lPred :: u.pR).any (fun r => r != 15 && bt k.x.pPois r.val) ||
    u.mR.any (fun r => bt k.mPois r.val) ||
    u.tR.any (fun t => bt k.tilePois t.val) || u.kR.any (fun r => bt k.kPois r.val) ||
    (match i with
      | .bqbr _ _ _ => match s.curSeq with
        | .as => !k.bqX.isEmpty && bt k.bqPois 1
        | .xs => !k.bqA.isEmpty && bt k.bqPois 0
      | _ => false)

/-- The first poisoned register that an instruction reads: cause and pointer; for a vector instruction POISON and no
pointer (R372). A `QPUSH` carries its source's poison into the queue (R352), and a hint never traps (R126). -/
def State.srcPoison (s : State) (i : Instr) (u : RegUse) (c : Ctl) : Option (BitVec 8 × Word) :=
  match i with
  | .qpush _ _ _ => none
  | _ =>
    match u.sR.findSome? fun r => SMap.find? s.sq.sPois r.val with
    | some p => some (if i.isVector then (cPOISON, 0) else p)
    | none => if s.wordPoison i u c then some (cPOISON, 0) else none

/-- Clears the bits of the registers in a list. -/
def clearBits {n w : Nat} (m : BitVec w) (rs : List (Fin n)) : BitVec w := rs.foldl (fun m r => setBit m r.val false) m

/-- A register written in full is no longer poisoned. -/
def Seq.clearPois (q : Seq) (rs : List (Fin 32)) (fs : List (Fin 8)) : Seq :=
  { q with sPois := rs.foldl (fun m r => SMap.erase m r.val) q.sPois, fPois := clearBits q.fPois fs }

/-- The same for m registers and markers, and for predicates that no lane guard keeps in part. -/
def Core.clearPois (k : Core) (ms : List (Fin 16)) (ks : List (Fin 4)) (ps : List (Fin 16)) : Core :=
  { k with mPois := clearBits k.mPois ms, kPois := clearBits k.kPois ks, x := { k.x with pPois := clearBits k.x.pPois ps } }

/-! ## Interlocks (R323, R331) -/

/-- Whether a register that an instruction names has a result pending. -/
def State.interlocked (s : State) (u : RegUse) : Bool :=
  s.sq.results.any fun r => r.dst != 0 && (u.sR.contains r.dst || u.sW.contains r.dst)

end Sys2Proof.Machine
end

