-- ==== Sys2Proof/Machine/Issue.lean ====
section
/-! DEFINITION. Issuing an instruction: guards, static causes, reports, interlocks, poison, the XS
issue count and the SFU shadow, traps and retirement, each said once for every instruction (R12,
R33 to R36, R225 to R228, R247, R272, R323, R331). -/

namespace Sys2Proof.Machine

/-- What an instruction's own effect comes to. -/
inductive Eff where
  /-- it retires; `sec`: a memory source was secure -/
  | done (s : State) (sec : Bool)
  /-- it retires with a value that carries its own tag and poison -/
  | got (s : State) (r : Result)
  /-- it retires and the next word is at `t` -/
  | goto (s : State) (t : Word)
  /-- it traps; `s` holds what its rule says performs before the trap -/
  | trap (s : State) (t : Trap)
  /-- it traps on an error that an engine has recorded: nothing is consumed (R171) -/
  | report (s : State) (t : Trap)
  /-- it waits and has not issued -/
  | wait (s : State)
  /-- it has been taken up and another step completes it -/
  | hold (s : State) (w : Wait)
  /-- it retires and stops its sequencer -/
  | stop (s : State)
  /-- it retires and returns from the handler (R326) -/
  | ret (s : State)

/-! ## Pending results (R323, R331) -/

/-- A sequencer holds back a report: at most one waits (R227). -/
def Seq.report (q : Seq) (r : Report) : Seq := if q.pend.isNone then { q with pend := some r } else q

/-! ## The SFU shadow (R33 to R36) -/

/-- The issue count in force: the handler's own inside a handler (R36). -/
def Core.count (k : Core) : Nat := if k.xs.inh then k.x.hcount else k.x.count

def Core.setCount (k : Core) (n : Nat) : Core :=
  k.modX fun x => if k.xs.inh then { x with hcount := n } else { x with count := n }

def Core.pipe (k : Core) : List SfuPend := if k.xs.inh then k.x.sfuH else k.x.sfu

def Core.setPipe (k : Core) (l : List SfuPend) : Core :=
  k.modX fun x => if k.xs.inh then { x with sfuH := l } else { x with sfu := l }

/-- One SFU result lands: the lanes guarded at issue, and its flags (R34, R378). Flags that arrive with the
count of the slot that begins wait for that slot's own write of VSTAT (R82). -/
def Core.landSfu (now : Nat) (k : Core) (r : SfuPend) : Core :=
  k.modX fun x =>
    let x := x.writeLanes r.dst r.lanes r.val
    let x := { x with vSec := setBit x.vSec r.dst.val (r.sec || (r.lanes != BitVec.allOnes 1024 && bt x.vSec r.dst.val)) }
    if r.fl = 0 then x
    else if r.at_ = k.count then { x with vflags := x.vflags ++ [⟨now, 1, r.fl⟩] }
    else { x with vstat := x.vstat ||| r.fl }

/-- Results whose count has come land in a slot, in order of issue (R35). -/
def Core.landDue (now : Nat) (k : Core) : Core :=
  let due := k.pipe.filter fun r => decide (r.at_ ≤ k.count)
  (due.foldl (Core.landSfu now) k).setPipe (k.pipe.filter fun r => !decide (r.at_ ≤ k.count))

/-! ## Phases (R173, R174) -/

def SeqCheck.of (q : Seq) : SeqCheck := ⟨q.s, q.f, q.pc, q.sSec, q.fSec, q.run⟩

def Seq.restoreCheck (q : Seq) (c : SeqCheck) : Seq :=
  { q with s := c.s, f := c.f, pc := c.pc, sSec := c.sSec, fSec := c.fSec, wait := none, stall := none, results := [], sPois := [], fPois := 0, resumed := false, run := c.run }

/-- Rolls a core's phase back (R174): the phase's commands are cancelled, tb is EMPTY with undefined
bytes (free values, log 16), the input commands are issued again, the checkpoint is restored. -/
def State.rollback (s : State) (c : Nat) (ph : Phase) : State :=
  let k := s.core c
  let tb := k.tile ph.tb
  let free := s.freeBytes tb.size
  let s := free.2.writeVault c tb.off free.1 false
  let s := s.modLaunch ((s.core c).launch.getD 0) fun l => { l with excused := true }
  let s := { s with inflight := s.inflight.filter fun x =>
    !(x.core == c && some x.launch == k.launch && x.kind == 4 && x.sent.isNone && x.retryAt.isNone && decide (ph.ticket ≤ x.ticket)) }
  s.modCore c fun k =>
    let early (t : Nat) : Bool := decide (t < ph.ticket)
    let old := ph.inputsC.map CopyCmd.ticket ++ ph.inputsG.map GathCmd.ticket
    let num (t : Nat) : Nat := k.ticket + (old.filter fun y => decide (y < t)).length
    let again := ph.inputsC.map fun x => { x with started := false, next := 0, part := none, missed := none, landed := false, srcTile := none, dstTile := some ph.tf, ticket := num x.ticket }
    let againG := ph.inputsG.map fun x => { x with row := 0, part := none, missed := none, ticket := num x.ticket, tile := ph.tf, off := (k.tile ph.tf).off, size := (k.tile ph.tf).size }
    let k := { k with
      copyQ := k.copyQ.filter (fun (y : CopyCmd) => early y.ticket) ++ again
      gathQ := k.gathQ.filter (fun (y : GathCmd) => early y.ticket) ++ againG
      matQ := k.matQ.filter fun (y : MatCmd) => early y.ticket
      ticket := k.ticket + old.length
      as := k.as.restoreCheck ph.asCheck
      xs := k.xs.restoreCheck ph.xsCheck
      filledC := SMap.insert (SMap.erase k.filledC ph.tb.val) ph.tf.val again
      filledG := SMap.insert (SMap.erase k.filledG ph.tb.val) ph.tf.val againG
      phase := some { ph with rollbacks := ph.rollbacks + 1, ticket := k.ticket } }
    let k := k.modX fun x => { x with p := ph.p, pSec := ph.pSec, pPois := 0 }
    let k := k.setTileState ph.tb .empty
    k.setTileState ph.tf (if again.isEmpty && againG.isEmpty then .empty else .filling)

/-- The phase in which a core's consumption of poison rolls back: at most three times (R174). -/
def State.rollsBack (s : State) (c : Nat) : Option Phase :=
  if (s.launchOn c).flagH then (s.core c).phase.bind fun p => if p.rollbacks < 3 then some p else none else none

/-- Whether a core's consumption of poison falls in a phase, so that with no rollback left it traps POISON
whatever its cause (R174). -/
def State.inPhase (s : State) (c : Nat) : Bool := (s.launchOn c).flagH && (s.core c).phase.isSome

/-- A sequencer of a core consumes poison: the phase rolls back, or it traps (R138, R174, R247). -/
def State.consumeOn (s : State) (c : Nat) (q : SeqId) (t : Trap) : State :=
  match s.rollsBack c with
  | some p => s.rollback c p
  | none => s.trapOn c q (if s.inPhase c then { t with cause := cPOISON } else t)

/-- An engine consumes poison in a phase that has rolled back three times: its sequencer traps POISON at its
next instruction (R174). The spec does not say what becomes of the command: it ends as R166 ends one (log 23). -/
def State.phasePoison (s : State) (c : Nat) (q : SeqId) (ptr : Word) : State :=
  if s.inPhase c then s.modCore c fun k => k.modSeq q fun x => x.report ⟨cPOISON, ptr, 0⟩ else s

/-- The acting sequencer consumes poison. -/
def State.consume (s : State) (t : Trap) : State := s.consumeOn s.cur.val s.curSeq t

/-! ## Static causes (R12, R227) -/

end Sys2Proof.Machine

namespace Sys2Proof

/-- The 128-bit word of an instruction, for EINFO0 and EINFO1 (Table 15.2). -/
def Instr.word (i : Instr) : Word128 := (encode i).getD 0

/-- Whether an instruction would queue a matrix command or is `MSHAPE` (R193, R335). -/
def Instr.isMatrix : Instr → Bool
  | .mshape .. | .mshapeGrp .. | .mload .. | .mswap _ | .mmul .. | .mmuls .. | .mzero .. | .mdrain ..
  | .madpt .. => true
  | _ => false

end Sys2Proof

namespace Sys2Proof.Machine

/-- RI, WSEQ and PRIV carry the instruction word (Table 15.2). -/
def wordTrap (cause : BitVec 8) (i : Instr) : Trap := ⟨cause, i.word.extractLsb' 0 64, i.word.extractLsb' 64 64⟩

/-- Whether a core is one of the background cores, by BGRECT when a launch was admitted (R48, R243). -/
def Launch.inBackground (l : Launch) (c : Nat) : Bool :=
  l.cfg.bg.any fun r =>
    let x0 := bf r 4 0
    let y0 := bf r 11 8
    bt r 63 && decide (x0 ≤ coreX c) && decide (coreX c < x0 + 2 ^ bf r 18 16) &&
      decide (y0 ≤ coreY c) && decide (coreY c < y0 + 2 ^ bf r 22 20)

/-- A system register that only the XS has (R81). -/
def srXsOnly (n : Nat) : Bool := decide (0x20 ≤ n) && decide (n ≤ 0x22)

/-- Whether `MFSR` of a register traps PRIV (Table 20.4). -/
def State.readPriv (s : State) (n : Nat) : Bool :=
  (decide (0x11 ≤ n) && decide (n ≤ 0x16) && s.sq.mode == 0) || (n == 0x45 && !s.lc.flagP)

/-- Whether `MTSR` of a register traps PRIV (Table 20.4). -/
def State.writePriv (s : State) (n : Nat) : Bool :=
  (((decide (0x10 ≤ n) && decide (n ≤ 0x16)) || (decide (0x50 ≤ n) && decide (n ≤ 0x5F)) || n == 0x60 || n == 0x61)
    && s.sq.mode == 0) ||
  ((n == 0x41 || n == 0x43 || n == 0x44) && !s.lc.flagP)

/-- The PRIV causes that follow from the word, the mode, INH, the launch's flags and its cores (R12). -/
def State.privFails (s : State) (i : Instr) : Bool :=
  let q := s.sq
  match i with
  | .eret _ => !q.inh || q.mode == 0
  | .endSeq _ => q.inh
  | .tail _ => q.inh || !s.lc.flagP
  | .bkpt _ frz _ => frz && q.mode != 3
  | .wtclr .. => q.mode != 3
  | .wtclrRegs _ => q.mode != 3
  | .vainv .. => q.mode == 0
  | .apub .. => !s.lc.inBackground s.cur.val
  | .mfsr _ _ n r => (r.isSome && !s.lc.flagP) || s.readPriv n.toNat
  | .mtsr _ n _ r => (r.isSome && !s.lc.flagP) || s.writePriv n.toNat
  | _ => false

/-- WSEQ: the sequencer may not run the instruction (R275), or the register it names (R81). -/
def State.wrongSeq (s : State) (i : Instr) : Bool :=
  !i.runsOn s.curSeq ||
    (s.curSeq == .as && (match i with
      | .mfsr _ _ n _ => srXsOnly n.toNat
      | .mtsr _ n _ _ => srXsOnly n.toNat
      | _ => false))

/-- A system register number outside Table 18.4 (R277). -/
def srListed (n : Nat) : Bool :=
  decide (n ≤ 0x05) || n == 0x08 || n == 0x09 || (decide (0x10 ≤ n) && decide (n ≤ 0x16)) ||
    (decide (0x20 ≤ n) && decide (n ≤ 0x22)) || n == 0x30 || n == 0x31 || (decide (0x40 ≤ n) && decide (n ≤ 0x48)) ||
    (decide (0x50 ≤ n) && decide (n ≤ 0x61)) || (decide (0x70 ≤ n) && decide (n ≤ 0x7F))

/-- Whether an instruction names no system register, so that it traps RI before every other cause (R227, R277).
R12 lists this RI not among those that a guarded-off instruction takes. -/
def unlisted (i : Instr) : Bool :=
  match i with
  | .mfsr _ _ n _ => !srListed n.toNat
  | .mtsr _ n _ _ => !srListed n.toNat
  | _ => false

/-- Whether a value may stand in a bank format register (Table 6.3). -/
def bfmtOk (v : Word) : Bool :=
  match Ty.ofCode (bf v 7 0) with
  | none => false
  | some t =>
    t.setM && decide (bf v 22 20 < 6) && decide (2 ≤ bf v 19 16) && decide (bf v 19 16 ≤ 8) && decide (bf v 15 14 < 3) &&
      (bf v 15 14 == 0 || t == .e2m1 || t == .e4m3 || t == .e5m2)

/-- Whether writing a value traps RI (R81, R101, R339). -/
def srRejects (n : Nat) (v : Word) : Bool :=
  (n == 0x21 && decide (6 ≤ bf v 2 0)) || (decide (0x70 ≤ n) && decide (n ≤ 0x7F) && !bfmtOk v)

/-- Whether an immediate lies outside some limits. -/
def SOp.immOut (n : SOp) (lo hi : Nat) : Bool :=
  match n with
  | .imm x => let v := (x.signExtend 64).toNat; decide (v < lo) || decide (hi < v)
  | .reg _ => false

/-- Whether an instruction's own RI holds: the value of an `MTSR` (R339), the immediate of a barrier instruction (R364).
It comes before WSEQ, PRIV and POISON (R227, R340, R364). -/
def State.rejects (s : State) (i : Instr) : Bool :=
  match i with
  | .mtsr _ n a _ => srRejects n.toNat (s.rs a)
  | .tbinit _ _ n => SOp.immOut n 1 1048575
  | .tbarv _ _ n => SOp.immOut n 0 (2 ^ 31 - 1)
  | .tbwait _ _ _ n => SOp.immOut n 0 15
  | _ => false

/-- Whether that RI depends on a register. -/
def valueChecked (i : Instr) : Bool :=
  match i with
  | .mtsr _ n _ _ => n == 0x21 || (decide (0x70 ≤ n.toNat) && decide (n.toNat ≤ 0x7F))
  | _ => false

/-- The asynchronous report that an instruction takes instead of issuing (R174, R193, R227, R317, R326, R386). One whose
guard is false takes none, whatever else it takes: it takes no trap but RI, WSEQ and PRIV (R12; log 20). -/
def State.reportFor (s : State) (i : Instr) : Option Report :=
  match s.sq.pend with
  | none => none
  | some r =>
    if r.cause = cFABRIC ∨ r.cause = cPOISON ∨ s.sq.resumed then some r
    else match i with
      | .waitmk _ k _ =>
        match vget none s.cc.k k.val with
        | some m => if bt m.mask 2 || bt m.mask 4 then some r else none
        | none => none
      | .endSeq _ => some r
      | .tail _ => some r
      | i => if i.isMatrix then some r else none

/-! ## Issue -/

/-- Whether the sequencer's instruction has been taken up, so that another step completes it. -/
def State.held (s : State) : Bool :=
  match s.sq.wait with
  | none => false
  | some (.extentMiss id) => s.missPending id
  | some (.xfence _) => false
  | some (.rows _) => false
  | some _ => true

/-- Whether an access of several rows is under way, which has issued. -/
def Seq.midRows (q : Seq) : Bool :=
  match q.wait with
  | some (.rows _) => true
  | _ => false

/-- What an access of several rows has done so far; `none` before its first row. -/
def State.rowsDone (s : State) : Option RowsDone :=
  match s.sq.wait with
  | some (.rows x) => some x
  | _ => none

/-- The STALL slots still to wait (R236, R272). -/
def State.stallOf (s : State) (c : Ctl) : Nat := s.sq.stall.getD c.stall.toNat

/-- The STALL delay: on the XS it advances the issue count and due SFU results land (R33 to R35). -/
def State.startIssue (s : State) (c : Ctl) : State :=
  let s := match s.curSeq with
    | .xs => s.modCC fun k => ((k.setCount (k.count + s.stallOf c)).modX (XUnit.pass (s.stallOf c))).landDue s.cycle
    | .as => s
  s.modSq fun q => { q with stall := some 0, wait := match q.wait with
    | some (.xfence t) => some (.xfence t)
    | some (.rows x) => some (.rows x)
    | _ => none }

/-- Slots and instructions counted when an instruction takes its issue slot (R33, R239). An instruction whose
guard is false takes one and is counted: R239 does not say (DESIGN CHOICE, log 57). -/
def State.countIssue (s : State) (vec : Bool) : State :=
  s.modCC fun k =>
    match s.curSeq with
    | .as => k.countEv 1 1
    | .xs => let k := ((k.setCount (k.count + 1)).modX (XUnit.pass 1)).countEv 2 1; if vec then k.countEv 3 1 else k

/-- The instruction has issued: the pc moves on (R21). -/
def State.advance (s : State) (pc : Word) : State := s.modSq fun q => { q with pc := pc, stall := none, wait := none, resumed := false }

/-- A trap, after every earlier result has been written (R323, R331, R371). An instruction that traps
issues again, so its STALL slots are not counted yet. A result that still travels is waited for. -/
def State.trapWith (s : State) (before after : State) (t : Trap) : State :=
  if after.sq.travels then s
  else
    let a := after.modSq Seq.flush
    let a := match a.curSeq with
      | .xs => a.modCC fun k => k.setCount before.cc.count
      | .as => a
    if t.cause = cPOISON ∨ t.cause = cINTEG then (a.consume t).freezeOn t.cause else a.takeTrap t

/-- As `trapWith` for a trap that consumes nothing. -/
def State.reportWith (s : State) (after : State) (t : Trap) : State :=
  if after.sq.travels then s else (after.modSq Seq.flush).takeTrap t

/-- EINFO0 and EINFO1 take the tag of what the trapping instruction read (R257). -/
def State.markInfo (s : State) (t : Trap) (sec : Bool) : State :=
  if t.cause = cPOISON ∨ t.cause = cINTEG then s
  else s.modSq fun q => { q with sysSec := setBit (setBit q.sysSec 3 sec) 4 sec }

/-- Causes that rank before POISON within one instruction (R227). -/
def beforePoison (c : BitVec 8) : Bool := (decide (4 ≤ c.toNat) && decide (c.toNat ≤ 9)) || c == cREVOKED

/-- Tags the destinations and clears their poison, where no result is still to come. -/
def State.settleDests (t s1 : State) (c : Ctl) (u : RegUse) (sec : Bool) : State :=
  let t := t.tagDests u c (s1.srcSec u c || sec)
  let t := t.modCC fun k => k.clearPois u.mW u.kW (if c.noLanes then u.pW else [])
  t.modSq fun q => q.clearPois (u.sW.filter fun r => !(q.results.any fun x => x.dst == r)) u.fW

/-- Whether an instruction that another step completes has issued already: `WAITI`, and the remote
operations that wait for their value (R302, R385). The others have not issued (R230). -/
def Wait.issued : Wait → Bool
  | .until _ => true
  | .remote _ _ => true
  | .vault _ => true
  | _ => false

/-- Whether a collective may take an instruction up: it could then trap by another step's doing, so the
sequencer's own results have arrived (R331). -/
def Wait.needsResults (w : Wait) : Bool :=
  match w with
  | .bar _ _ _ | .xch _ | .phase _ _ | .csbal _ _ _ _ | .shapeGrp _ _ _ _ _ => true
  | _ => false

/-- What an effect comes to. `s` is the state before the instruction, `s1` after its STALL delay. -/
def State.finish (s s1 : State) (i : Instr) (c : Ctl) (u : RegUse) (e : Eff) : State :=
  match e with
  | .done t sec => ((t.settleDests s1 c u sec).countIssue i.isVector).advance (s1.sq.pc + 16)
  | .got t r =>
    let t := t.settleDests s1 c u false
    ((t.modSq fun q => q.landResult { r with sec := r.sec || s1.srcSec u c }).countIssue false).advance (s1.sq.pc + 16)
  | .goto t a => ((t.settleDests s1 c u false).countIssue false).advance a
  | .trap t tr => s1.trapWith s (t.markInfo tr (s1.srcSec u c)) tr
  | .report t tr => s1.reportWith t tr
  | .wait t => t
  | .hold t w =>
    if w.needsResults && s1.sq.travels then s1
    else (if w.issued then t.countIssue false else t).modSq fun q => { q with wait := some w }
  | .stop t => t.countIssue false
  | .ret t => (t.countIssue false).modSq Seq.leave

/-- An instruction that another step completes retires (R57, R60, R173, R321, R336). -/
def State.retireHeld (s : State) (c : Nat) (q : SeqId) : State :=
  s.modCore c fun k =>
    let issued := ((k.seq q).wait.map Wait.issued).getD true
    let k := if issued then k else
      match q with
      | .as => k.countEv 1 1
      | .xs => ((k.setCount (k.count + 1)).modX (XUnit.pass 1)).countEv 2 1
    k.modSeq q fun q => { q with wait := none, stall := none, resumed := false, pc := q.pc + 16 }

/-- What an effect on memory comes to: it goes on, traps, or waits for an extent miss (R123). -/
def Acc.eff {α : Type} (a : Acc α) (s : State) (k : State → α → Eff) : Eff :=
  match a with
  | .ok t x => k t x
  | .trap t tr => .trap t tr
  | .miss t f g => let r := t.reportMiss f g (some s.lc.id) s.cc.rank none; .hold r.2 (.extentMiss r.1)

/-- Issues an instruction with its own effect. -/
def issue (i : Instr) (body : State → Eff) (s : State) : Host.Outcome State Fault Refusal :=
  match i.ctl with
  | none => .next s
  | some c =>
    if s.held then .next s
    else
      let s1 := s.startIssue c
      let u := i.regs
      match (if s1.guard c && s1.rowsDone.isNone then s1.reportFor i else none) with
      | some r => .next (s1.trapWith s (s1.modSq fun q => { q with pend := none }) ⟨r.cause, r.e0, r.e1⟩)
      | none =>
        if s1.guard c && unlisted i then .next (s1.trapWith s s1 (wordTrap cRI i))
        else if s1.guard c && valueChecked i && s1.interlocked u then .next s1
        else if s1.guard c && !s1.guardBad c && s1.rejects i then .next (s.finish s1 i c u (body s1))
        else if s1.wrongSeq i then .next (s1.trapWith s s1 (wordTrap cWSEQ i))
        else if s1.privFails i then .next (s1.trapWith s s1 (wordTrap cPRIV i))
        else if s1.guardBad c && !i.isHint then .next (s1.trapWith s s1 ⟨cPOISON, 0, 0⟩)
        else if !s1.guard c then .next ((s1.countIssue false).advance (s1.sq.pc + 16))
        else if s1.interlocked u then .next s1
        else match (if i.isHint then none else s1.srcPoison i u c) with
          | some p =>
            match body s1 with
            | .trap t tr => .next (s1.trapWith s t (if beforePoison tr.cause then tr else ⟨p.1, p.2, 0⟩))
            | _ => .next (s1.trapWith s s1 ⟨p.1, p.2, 0⟩)
          | none => .next (s.finish s1 i c u (body s1))

end Sys2Proof.Machine
end

