-- ==== Sys2Proof/Machine/Access.lean ====
section
/-! DEFINITION. What every memory instruction shares: the decoding of pointers (R39), the accumulator
image (R40), the waits that ordering classes and fences ask for (R150 to R153, R157), and remote
vault accesses (R16). -/

namespace Sys2Proof.Machine

/-! ## Traps on pointers (Table 7.4) -/

/-- XLATE with REASON 11: the format of a pointer. -/
def trapForm (ptr : Word) (wr : Bool) : Trap := ⟨cXLATE, ptr, einfoX 11 wr 7⟩

/-- PERM with REASON 14: beyond the footprint, or a vault that may not be reached. -/
def trapFoot (ptr : Word) (wr : Bool) : Trap := ⟨cPERM, ptr, einfoX 14 wr 7⟩

/-- ALIGN with REASON 13. -/
def trapAlign (ptr : Word) (wr : Bool) : Trap := ⟨cALIGN, ptr, einfoX 13 wr 7⟩

/-! ## Pointers (R39) -/

/-- Where a pointer points. -/
inductive Place where
  | glob
  | vault (core off : Nat)
  | acc (core off : Nat)
  deriving DecidableEq, Repr

/-- What decoding a pointer comes to. -/
inductive Decoded where
  | at_ (p : Place)
  | bad (t : Trap)
  deriving DecidableEq, Repr

/-- Bytes of an accumulator image (R40). -/
def accBytes : Nat := 0x1C000

/-- The core that a rank field names, for a core of a launch (R39). -/
def State.coreOfRank (s : State) (c rank : Nat) : Option Nat :=
  let l := s.launchOn c
  if rank = 0xFFF then some c
  else if l.wid * l.hgt ≤ rank then none
  else some (l.coreOf (s.core c).copy1 rank)

/-- The pointer decoding of R39, for an access of `n` bytes. -/
def State.decodePtr (s : State) (c : Nat) (ptr : Word) (n : Nat) (wr : Bool) : Decoded :=
  let space := bf ptr 63 60
  if space = 0 then if bf ptr 59 57 = 0 then .at_ .glob else .bad (trapForm ptr wr)
  else if 2 < space then .bad (trapForm ptr wr)
  else match s.coreOfRank c (bf ptr 59 48) with
    | none => .bad (trapForm ptr wr)
    | some k =>
      if space = 1 then
        if bf ptr 47 21 ≠ 0 then .bad (trapForm ptr wr)
        else if (s.launchOn c).footBytes < bf ptr 20 0 + n then .bad (trapFoot ptr wr)
        else .at_ (.vault k (bf ptr 20 0))
      else if bf ptr 47 17 ≠ 0 ∨ accBytes < bf ptr 16 0 + n then .bad (trapForm ptr wr)
      else .at_ (.acc k (bf ptr 16 0))

/-- Whether a vault pointer's rank field names the core itself (R332, R362). -/
def State.ownRank (s : State) (c : Nat) (ptr : Word) : Bool :=
  bf ptr 59 48 == 0xFFF || bf ptr 59 48 == (s.core c).rank

/-- A pointer that must name the own vault within the footprint (R170, R316, R354): XLATE where it is
no vault pointer, PERM where it names another core's vault or lies beyond FOOT. -/
def State.ownVault (s : State) (c : Nat) (ptr : Word) (n : Nat) (wr : Bool) : Trap ⊕ Nat :=
  if bf ptr 63 60 ≠ 1 then .inl (trapForm ptr wr)
  else match s.decodePtr c ptr n wr with
    | .bad t => .inl t
    | .at_ (.vault k off) => if k = c then .inr off else .inl (trapFoot ptr wr)
    | .at_ _ => .inl (trapForm ptr wr)

/-! ## The accumulator image (R40) -/

/-- Element (i, j) of the accumulator. -/
def Core.accAt (k : Core) (i j : Nat) : BitVec 56 := vget 0 (vget (Vector.replicate 128 0) k.acc i) j

def Core.setAcc (k : Core) (i j : Nat) (x : BitVec 56) : Core :=
  { k with acc := vset k.acc i (vset (vget (Vector.replicate 128 0) k.acc i) j x) }

/-- A byte of the image: element (i, j) lies at 7 (128 i + j), little-endian. -/
def Core.accByte (k : Core) (off : Nat) : Byte :=
  let e := off / 7
  BitVec.ofNat 8 ((k.accAt (e / 128) (e % 128)).toNat / 2 ^ (8 * (off % 7)))

def Core.readAcc (k : Core) (off n : Nat) : List Byte := (List.range n).map fun i => k.accByte (off + i)

/-- Writes one byte of the image; the element's other bytes stay. -/
def Core.setAccByte (k : Core) (off : Nat) (b : Byte) : Core :=
  let e := off / 7
  let old := (k.accAt (e / 128) (e % 128)).toNat
  let w := 2 ^ (8 * (off % 7))
  let new := old / (256 * w) * (256 * w) + b.toNat * w + old % w
  k.setAcc (e / 128) (e % 128) (BitVec.ofNat 56 new)

def Core.writeAcc (k : Core) : Nat → List Byte → Core
  | _, [] => k
  | off, b :: bs => Core.writeAcc (k.setAccByte off b) (off + 1) bs

/-- Rows of the accumulator under some bytes of the image. -/
def accRows (off n : Nat) : List Nat := (List.range 128).filter fun r => decide (off < 896 * (r + 1)) && decide (896 * r < off + n)

/-- Whether a secure row lies under some bytes of the image. -/
def Core.accSecure (k : Core) (off n : Nat) : Bool := (accRows off n).any fun r => bt k.accSec r

/-- Marks rows of the accumulator secure. -/
def Core.markAcc (k : Core) (rows : List Nat) (sec : Bool) : Core :=
  if sec then { k with accSec := rows.foldl (fun m r => setBit m r true) k.accSec } else k

/-- The array is idle: no matrix command is queued or running (R40, R185). -/
def Core.arrayIdle (k : Core) : Bool := k.matQ.isEmpty

/-! ## Ordering classes and fences (R150, R151, R153, R157; log 6) -/

/-- The acting sequencer's remote accesses that have not performed: class, ticket and target. -/
def State.pendingAccesses (s : State) : List (Nat × Nat × Nat) :=
  (s.vreqs.filterMap fun r =>
    if r.core = s.cur.val && r.seq == s.curSeq && !r.acted then some (r.ocl.toNat, r.ticket, r.target) else none) ++
  (s.inflight.filterMap fun r =>
    if r.core = s.cur.val && r.from_ == s.curSeq && decide (r.kind ≠ 4) then
      some (r.ocl.toNat, r.ticket, 1024 + r.node.toNat) else none)

/-- The target of an access that stays on this core or goes to global memory, for R150. -/
def hereTarget : Nat := 9999

/-- Whether an access of a class must wait: an earlier access of its class to another target has not
performed, or a fence holds it (R150, R153, R327), or the other sequencer's older access of several bank rows is
under way on the core (R97; log 6). -/
def State.classHeld (s : State) (ocl : BitVec 4) (target : Nat) : Bool :=
  let ps := s.pendingAccesses
  (target == hereTarget && (s.cc.seq (SeqId.other s.curSeq)).midRows) ||
  ps.any (fun p => p.1 == ocl.toNat && p.2.2 != target) ||
    s.sq.fences.any fun f => f.after.getLsbD ocl.toNat && ps.any fun p => f.before.getLsbD p.1 && decide (p.2.1 < f.ticket)

/-- Host bytes of an access, where its pages translate: first address and length. -/
def State.hostSpans (s : State) (x : XCtx) (p : Word) (n : Nat) : List (Nat × Nat) :=
  (splitPages (bf p 56 0) n).filterMap fun a =>
    match s.tryPage x false false p (a.1 % 2 ^ 57) with
    | .ok _ t => some (t.page.pa, a.2)
    | _ => none

/-- Whether two lists of host bytes share a byte. -/
def spansMeet (a b : List (Nat × Nat)) : Bool :=
  a.any fun x => b.any fun y => decide (x.1 < y.1 + y.2) && decide (y.1 < x.1 + x.2)

/-- Whether a remote operation of the sequencer to its own package still has to perform on some bytes, by whatever
address: the sequencer's own access must not overtake it (R144). An `MSOP` may reach any bytes. -/
def State.ownRemote (s : State) (p : Word) (n : Nat) : Bool :=
  let x := s.xctx s.cur.val (s.sq.mode == 0)
  s.inflight.any fun r =>
    r.core == s.cur.val && r.from_ == s.curSeq && r.kind != 4 && r.node == s.nodeId &&
      (r.kind == 3 || (let m := r.ty.width / 8
        (decide (p.toNat < r.ptr.toNat + m) && decide (r.ptr.toNat < p.toNat + n)) || spansMeet (s.hostSpans x p n) (s.hostSpans x r.ptr m)))

/-- Whether every earlier access of the sequencer has performed (R151, R314, R354). -/
def State.allPerformed (s : State) : Bool := s.pendingAccesses.isEmpty

/-- Fences that still hold something back. -/
def State.liveFences (s : State) : List Fence :=
  s.sq.fences.filter fun f => s.pendingAccesses.any fun p => f.before.getLsbD p.1 && decide (p.2.1 < f.ticket)

/-- Puts a fence behind what the sequencer has issued. -/
def State.addFence (s : State) (before after : BitVec 16) : State :=
  let live := s.liveFences
  let s := s.modCC fun k => k.takeTicket.2
  s.modSq fun q => { q with fences := live ++ [⟨before, after, s.cc.ticket⟩] }

/-- An acquire whose read is still to perform holds back every later access (R151). -/
def State.acquireFence (s : State) (ocl : BitVec 4) : State := s.addFence (BitVec.twoPow 16 ocl.toNat) (BitVec.allOnes 16)

/-! ## Accesses of several bank rows (R99) -/

def RowsDone.start : RowsDone := ⟨0, [], false, false, none⟩

/-- Bytes of an access that lie in the bank row of its first byte. -/
def rowPart (off n : Nat) : Nat := min n (256 - off % 256)

/-- A row has performed and others are still to come. -/
def State.pauseRows (s : State) (x : RowsDone) : State := s.modSq fun q => { q with wait := some (.rows x) }

/-! ## Remote vault accesses (R16, R40) -/

/-- Sends an access to another core's vault or accumulator image. -/
def State.sendVReq (s : State) (target : Nat) (acc : Bool) (kind : VKind) (off n : Nat) (ty : Ty) (val : Word)
    (ocl : BitVec 4) (sec : Bool) : Nat × State :=
  let r := s.takeId
  let t := (r.2.cc).ticket
  let s := r.2.modCC fun k => k.takeTicket.2
  (r.1, { s with vreqs := s.vreqs ++ [⟨r.1, s.lc.id, s.cur.val, s.curSeq, t, ocl, target, acc, kind, off, n, ty, val, sec,
    s.lc.owner, false, false, s.cycle + 10 + s.hops s.cur.val target⟩] })

/-- A result that will be written to an s register. -/
def State.addResult (s : State) (r : Result) : State := s.modSq fun q => { q with results := q.results ++ [r] }

end Sys2Proof.Machine
end

