-- ==== Sys2Proof/Machine/Ranges.lean ====
section
/-! DEFINITION. The geometry of queued commands and the range checker (R102, R107, R162 to R165, R169). -/

namespace Sys2Proof.Machine

/-- The pointer of an offset of the own vault: SPACE 1, RANK 0xFFF. -/
def ownPtr (off : Nat) : Word := wd (0x1FFF * 2 ^ 48 + off)

def isVaultPtr (p : Word) : Bool := bf p 63 60 == 1

/-- Bytes of an access of `n` bytes that perform together from byte `i` on: those in one bank row of a vault (R99), all
of an access to global memory. -/
def pieceOf (p : Word) (i n : Nat) : Nat := if isVaultPtr p then min (n - i) (256 - (bf p 20 0 + i) % 256) else n - i

/-! ## Conversion between banks (R102) -/

/-- Element formats that the engines convert. -/
def convSet : Ty → Bool
  | .i32 | .n32 | .i16 | .n16 | .i8 | .n8 | .i4 | .n4 | .f32 | .bf16 | .f16 | .e4m3 | .e5m2 | .e2m1 => true
  | _ => false

def fmtTy (f : Word) : Ty := (Ty.ofCode (bf f 7 0)).getD .i32

/-- The bank format of a vault offset, as captured. -/
def bankFmt (fmts : Vector Word 16) (off : Nat) : Word := vget 0x80000 fmts (off / 131072 % 16)

/-- Whether a move between two places converts. -/
def converts (fmts : Vector Word 16) (src dst : Word) : Bool :=
  isVaultPtr src && isVaultPtr dst &&
    (let a := bankFmt fmts (bf src 20 0)
     let b := bankFmt fmts (bf dst 20 0)
     bf a 15 14 == 0 && bf b 15 14 == 0 && fmtTy a != fmtTy b && convSet (fmtTy a) && convSet (fmtTy b))

/-- Destination bytes of a block of `b` source bytes. R102 does not say which bank governs a block that lies in
two: that of its first byte does (DESIGN CHOICE, log 59). -/
def deliver (fmts : Vector Word 16) (src dst : Word) (b : Nat) : Nat :=
  if converts fmts src dst then
    b * (fmtTy (bankFmt fmts (bf dst 20 0))).width / (fmtTy (bankFmt fmts (bf src 20 0))).width
  else b

/-- Whether a converting block holds whole elements of both formats. -/
def wholeBlock (fmts : Vector Word 16) (src dst : Word) (b : Nat) : Bool :=
  !converts fmts src dst ||
    (let ws := (fmtTy (bankFmt fmts (bf src 20 0))).width
     let wd := (fmtTy (bankFmt fmts (bf dst 20 0))).width
     8 * b % ws == 0 && 8 * b / ws * wd % 8 == 0)

/-! ## The loop nest (R162, R163) -/

def Level.blank : Level := ⟨1, 0, 0⟩

def CopyCmd.lvl (x : CopyCmd) (i : Nat) : Level := vget Level.blank x.nest i

def CopyCmd.total (x : CopyCmd) : Nat := (List.range 6).foldl (fun n i => n * (x.lvl i).n) 1

/-- The six indices of block `n`, L0 fastest. -/
def CopyCmd.index (x : CopyCmd) (n l : Nat) : Nat :=
  n / ((List.range l).foldl (fun m i => m * (x.lvl i).n) 1) % (x.lvl l).n

def CopyCmd.srcAt (x : CopyCmd) (n : Nat) : Word :=
  x.src + wi ((List.range 6).foldl (fun (a : Int) i => a + x.index n i * (x.lvl i).ss) 0)

def CopyCmd.dstAt (x : CopyCmd) (n : Nat) : Word :=
  x.dst + wi ((List.range 6).foldl (fun (a : Int) i => a + x.index n i * (x.lvl i).ds) 0)

/-! ## Shape records (R164) -/

def shapeNdim (r : Line) : Nat := bf r 2 0
def shapePermit (r : Line) : Bool := bt r 8
def shapeDst (r : Line) : Bool := bt r 9
def shapeOrg (r : Line) (l : Nat) : Int := s32 (bf (lineWord r (l + 1)) 31 0)
def shapeSz (r : Line) (l : Nat) : Nat := bf (lineWord r (l + 1)) 47 32

/-- A zero field of a shape record is nonzero, or NDIM is 7. -/
def shapeBad (r : Line) : Bool :=
  shapeNdim r == 7 || bf r 7 3 != 0 || bf r 63 10 != 0 || lineWord r 7 != 0 ||
    (List.range 6).any fun l => bf (lineWord r (l + 1)) 63 48 != 0

/-- The lowest level on which block `n` is outside, with its coordinate. -/
def CopyCmd.outside (x : CopyCmd) (n : Nat) : Option (Nat × Int) :=
  x.shape.bind fun r => (List.range (shapeNdim r)).findSome? fun l =>
    let k := shapeOrg r l + x.index n l
    if k < 0 ∨ (shapeSz r l : Int) < k then some (l, k) else none

/-- Whether block `n` reads its source and whether it writes its destination (R163). -/
def CopyCmd.reads (x : CopyCmd) (n : Nat) : Bool := (x.outside n).isNone

def CopyCmd.dropped (x : CopyCmd) (n : Nat) : Bool := (x.outside n).isSome && ((x.shape.map shapeDst).getD false)

/-- Destination bytes of block `n`. -/
def CopyCmd.bd (x : CopyCmd) (n : Nat) : Nat := deliver x.fmts (x.srcAt n) (x.dstAt n) x.b

/-! ## The range checker (R107) -/

/-- The first and the last first byte of a nest's blocks, from a vault offset. -/
def nestFirst (x : CopyCmd) (base : Nat) (stride : Level → Int) : Int × Int :=
  let ext := (List.range 6).map fun i => ((x.lvl i).n - 1 : Int) * stride (x.lvl i)
  ((base : Int) + (ext.map fun e => min 0 e).sum, (base : Int) + (ext.map fun e => max 0 e).sum)

/-- The bounding interval of a nest's blocks of `b` bytes. -/
def nestRange (x : CopyCmd) (base : Nat) (stride : Level → Int) (b : Nat) (wr : Bool) : Range :=
  let f := nestFirst x base stride
  ⟨f.1.toNat, (f.2 + b).toNat, wr⟩

/-- The banks that hold the first bytes of a nest's blocks. -/
def nestBanks (x : CopyCmd) (base : Nat) (stride : Level → Int) : List Nat :=
  let f := nestFirst x base stride
  (List.range 16).filter fun b => decide (f.1 < 131072 * (b + 1)) && decide (131072 * b ≤ f.2)

/-- The most bytes that a block of a copy delivers (R102). -/
def CopyCmd.mostBytes (x : CopyCmd) : Nat :=
  if isVaultPtr x.src && isVaultPtr x.dst then
    ((nestBanks x (bf x.src 20 0) Level.ss).flatMap fun a => (nestBanks x (bf x.dst 20 0) Level.ds).map fun d =>
      deliver x.fmts (ownPtr (131072 * a)) (ownPtr (131072 * d)) x.b).foldl max 0
  else x.b

def CopyCmd.ranges (x : CopyCmd) : List Range :=
  (if isVaultPtr x.src then [nestRange x (bf x.src 20 0) Level.ss x.b false] else []) ++
  (if isVaultPtr x.dst then [nestRange x (bf x.dst 20 0) Level.ds x.mostBytes true] else [])

/-- Destination bytes of a row. R102 does not say which bank governs rows that lie in another bank than their
base: that of the base does (DESIGN CHOICE, log 59). -/
def GathCmd.bd (x : GathCmd) : Nat :=
  if x.scatter then deliver x.fmts (ownPtr x.off) x.base x.b else deliver x.fmts x.base (ownPtr x.off) x.b

/-- A gather or scatter: its index tile, its rows of the data tile, and any part of the vault where its base lies
there, since row addresses depend on data (log 6). -/
def GathCmd.ranges (x : GathCmd) : List Range :=
  [⟨x.idxOff, x.idxOff + 4 * x.rows, false⟩, ⟨x.off, x.off + x.rows * (if x.scatter then x.b else x.bd), !x.scatter⟩] ++
  (if isVaultPtr x.base then [⟨0, 2 ^ 21, x.scatter⟩] else [])

def MatCmd.ranges (x : MatCmd) : List Range := x.touch

def Range.overlaps (a b : Range) : Bool := (a.wr || b.wr) && decide (a.lo < b.hi) && decide (b.lo < a.hi)

/-- The range of an `STV` whose rows are still being written, with its ticket. -/
def Core.storing (k : Core) : List (Nat × Range) :=
  match k.xs.wait with
  | some (.rows x) => x.held.toList
  | _ => []

/-- The ranges of every queued command with an earlier ticket that has accesses left: a copy whose last block has landed
has none, though its follow-on waits for room. -/
def Core.rangesBefore (k : Core) (ticket : Nat) : List Range :=
  ((k.copyQ.filter fun (x : CopyCmd) => decide (x.ticket < ticket) && !x.landed).flatMap CopyCmd.ranges) ++
  ((k.gathQ.filter fun (x : GathCmd) => decide (x.ticket < ticket)).flatMap GathCmd.ranges) ++
  ((k.matQ.filter fun (x : MatCmd) => decide (x.ticket < ticket)).flatMap MatCmd.ranges) ++
  ((k.storing.filter fun x => decide (x.1 < ticket)).map fun x => x.2)

/-- Whether a command with some ranges must wait for an earlier one (R107). -/
def Core.rangeHeld (k : Core) (ticket : Nat) (rs : List Range) : Bool :=
  (k.rangesBefore ticket).any fun a => rs.any fun b => a.overlaps b

/-- Commands with an earlier ticket in the copy engine, the gather unit and the matrix array. -/
def Core.aheadC (k : Core) (t : Nat) : Bool := k.copyQ.any fun (x : CopyCmd) => decide (x.ticket < t)
def Core.aheadG (k : Core) (t : Nat) : Bool := k.gathQ.any fun (x : GathCmd) => decide (x.ticket < t)
def Core.aheadM (k : Core) (t : Nat) : Bool := k.matQ.any fun (x : MatCmd) => decide (x.ticket < t)

/-- Whether the matrix array still works for a command issued below a ticket, the follow-on of a `CPYM` included
(R146, R168). -/
def Core.issuedM (k : Core) (t : Nat) : Bool :=
  k.matQ.any (fun (x : MatCmd) => decide (x.issued < t)) || k.copyQ.any fun (x : CopyCmd) => decide (x.ticket < t) && x.follow.isSome

/-- Only a message whose first byte has landed is ahead (R337). -/
def Core.aheadN (k : Core) (t : Nat) : Bool := k.lands.any fun (x : Landing) => some x.launch == k.launch && decide (x.ticket < t) && (decide (0 < x.done) || !x.owed)

end Sys2Proof.Machine
end

