-- ==== Sys2Proof/Machine/Memory.lean ====
section
/-! DEFINITION. Memory instructions (group 0x2, but for `GATHER` and `SCATTER`): R146, R151, R153, R155,
R158, R302, R327, R330 to R332, R350, R361, R362, R388. -/

namespace Sys2Proof.Machine

/-- The context of the acting sequencer's own accesses. -/
def State.mcur (s : State) (c : Ctl) : MCtx := s.mctx s.cur.val (s.sq.mode == 0) c.hint.toNat

/-- The acting agent. -/
def State.agent (s : State) : Agent := s.agentOf s.cur.val s.curSeq

/-- The place whose line holds the scope record of an access: that of the copy's own page in a paired launch (R158,
R252). -/
def State.scopeLine (s : State) (p : Word) (pa : Nat) : Nat :=
  if s.lc.flagD then s.shadowed s.lc.id s.cc.copy1 (bf p 56 0) pa else pa

/-- The scope check of a synchronising access on its first line. -/
def State.scopeFor (s : State) (sync acq wr : Bool) (scp : BitVec 3) (p : Word) (ps : List Piece) : Option Trap :=
  if sync then match ps with
    | x :: _ => s.scopeCheck scp s.agent (s.grpOf s.agent) acq wr p (s.scopeLine p x.pa)
    | [] => none
  else none

/-- Records a synchronising write in its line. -/
def State.recordFor (s : State) (sync : Bool) (scp : BitVec 3) (p : Word) (ps : List Piece) : State :=
  if sync then match ps with
    | x :: _ => s.setScope scp s.agent (s.grpOf s.agent) (s.scopeLine p x.pa)
    | [] => s
  else s

/-- Poison under some bytes of the own vault, with the pointer of the access. -/
def State.vaultBad (s : State) (off n : Nat) (p : Word) : Option (BitVec 8 × Word) :=
  if (s.vault s.cur.val).bad off n then some (cPOISON, p) else none

/-- The next row of a read of the own vault: what has been read with it. -/
def State.readRow (s : State) (w : RowsDone) (off n : Nat) : RowsDone :=
  let v := s.vault s.cur.val
  ⟨w.n + 1, w.got ++ s.readVault s.cur.val off n, w.sec || v.secure off n, w.bad || v.bad off n, none⟩

/-! ## Loads (R330, R331) -/

/-- A load: its value is fixed when it issues, or when a remote access acts. -/
def State.load (s : State) (c : Ctl) (u : RegUse) (ty : Ty) (acq : Bool) (ocl : BitVec 4) (scp : BitVec 3) (d : Fin 32) (p : Word) : Eff :=
  let n := ty.width / 8
  let sec0 := s.srcSec u c
  let res (bs : List Byte) (sec : Bool) (bad : Option (BitVec 8 × Word)) : Result := ⟨d, extend ty (leNat bs), .load, bad, sec0 || sec⟩
  if acq && p.toNat % n != 0 then .trap s (trapAlign p false)
  else match s.decodePtr s.cur.val p n false with
    | .bad t => .trap s t
    | .at_ .glob =>
      if s.classHeld ocl hereTarget || s.ownRemote p n then .wait s
      else (s.translate (s.mcur c).x false false p n).eff s fun t ps =>
        match s.scopeFor acq acq false scp p ps with
        | some tr => .trap s tr
        | none =>
          let r := t.readPieces (s.mcur c) (bf p 56 0) p ps
          .done (r.1.addResult (res r.2.bytes r.2.sec r.2.bad)) false
    | .at_ (.vault k off) =>
      if k = s.cur.val then
        let w := s.rowsDone.getD RowsDone.start
        let o := off + w.got.length
        let m := rowPart o (n - w.got.length)
        let x := s.readRow w o m
        let t := s.modVault k fun v => v.correct o m
        if s.rowsDone.isNone && s.classHeld ocl hereTarget then .wait s
        else if m < n - w.got.length then .wait (t.pauseRows x)
        else .done (t.addResult (res x.got x.sec (if x.bad then some (cPOISON, p) else none))) false
      else if s.classHeld ocl k then .wait s
      else
        let r := s.sendVReq k false .load off n ty 0 ocl false
        let t := r.2.addResult ⟨d, 0, .vault r.1, none, sec0⟩
        .done (if acq then t.acquireFence ocl else t) false
    | .at_ (.acc k off) =>
      if k = s.cur.val then
        if s.classHeld ocl hereTarget || !s.cc.arrayIdle then .wait s
        else .done (s.addResult (res (s.cc.readAcc off n) (s.cc.accSecure off n) none)) false
      else if s.classHeld ocl k then .wait s
      else
        let r := s.sendVReq k true .load off n ty 0 ocl false
        let t := r.2.addResult ⟨d, 0, .vault r.1, none, sec0⟩
        .done (if acq then t.acquireFence ocl else t) false

def execLd (c : Ctl) (ty : Ty) (acq : Bool) (ocl : BitVec 4) (scp : BitVec 3) (d a : Fin 32) (off : Word32) (s : State) : Host.Outcome State Fault Refusal :=
  let i : Instr := .ld c ty acq ocl scp d a off
  issue i (fun s => s.load c i.regs ty acq ocl scp d (s.addr a off)) s

/-! ## Stores (R361) -/

/-- WORLD with REASON 7 (R257). -/
def trapWorld (p : Word) : Trap := ⟨cWORLD, p, einfoX 7 true 7⟩

/-- A write into translated global pieces; an empty shadow pool ends the launch FAULT, DETAIL 0x07 (R252). -/
def State.putPieces (s : State) (m : MCtx) (p : Word) (sec : Bool) (ps : List Piece) (bs : List Byte) : State :=
  (s.writePieces m (bf p 56 0) sec ps bs).getD (s.endLaunch m.launch.id .fault cPERM s.cc.rank)

/-- A store of the bytes of a register. -/
def State.store (s : State) (c : Ctl) (ty : Ty) (rel : Bool) (ocl : BitVec 4) (scp : BitVec 3) (p : Word) (v : Fin 32) : Eff :=
  let n := ty.width / 8
  let bs := leBytes n (s.rs v).toNat
  let sec := bt s.sq.sSec v.val
  let early := rel && !s.allPerformed
  if rel && p.toNat % n != 0 then .trap s (trapAlign p true)
  else match s.decodePtr s.cur.val p n true with
    | .bad t => .trap s t
    | .at_ .glob =>
      if early || s.classHeld ocl hereTarget || s.ownRemote p n then .wait s
      else (s.checkStore (s.mcur c) p n sec).eff s fun t ps =>
        match s.scopeFor rel false true scp p ps with
        | some tr => .trap s tr
        | none => .done ((t.putPieces (s.mcur c) p sec ps bs).recordFor rel scp p ps) false
    | .at_ (.vault k off) =>
      if sec && !s.lc.flagS then .trap s (trapWorld p)
      else if k = s.cur.val then
        let w := s.rowsDone.getD RowsDone.start
        let o := off + w.got.length
        let m := rowPart o (n - w.got.length)
        let part := (bs.drop w.got.length).take m
        let t := s.writeVault k o part sec
        if s.rowsDone.isNone && (early || s.classHeld ocl hereTarget) then .wait s
        else if m < n - w.got.length then .wait (t.pauseRows ⟨w.n + 1, part, sec, false, none⟩)
        else .done t false
      else if early || s.classHeld ocl k then .wait s
      else .done (s.sendVReq k false .store off n ty (s.rs v) ocl sec).2 false
    | .at_ (.acc k off) =>
      if k = s.cur.val then
        if early || s.classHeld ocl hereTarget || !s.cc.arrayIdle then .wait s
        else .done (s.modCC fun k => (k.writeAcc off bs).markAcc (accRows off n) sec) false
      else if early || s.classHeld ocl k then .wait s
      else .done (s.sendVReq k true .store off n ty (s.rs v) ocl sec).2 false

def execSt (c : Ctl) (ty : Ty) (rel : Bool) (ocl : BitVec 4) (scp : BitVec 3) (a : Fin 32) (off : Word32) (v : Fin 32) (s : State) : Host.Outcome State Fault Refusal :=
  issue (.st c ty rel ocl scp a off v) (fun s => s.store c ty rel ocl scp (s.addr a off) v) s

/-! ## Vector rows (R332, R362) -/

/-- Rows of `LDV` and `STV`: 0 in FN means 16. -/
def rowCount (n : BitVec 4) : Nat := if n = 0 then 16 else n.toNat

/-- The checks that `LDV` and `STV` make on their pointer: the own-vault offset, or a trap. -/
def State.rowPtr (s : State) (p : Word) (n : Nat) (wr : Bool) : Trap ⊕ Nat :=
  if bf p 7 0 ≠ 0 then .inl (trapAlign p wr)
  else if bf p 63 60 ≠ 1 then .inl (trapForm p wr)
  else if !s.ownRank s.cur.val p then .inl (trapFoot p wr)
  else match s.decodePtr s.cur.val p (256 * n) wr with
    | .bad t => .inl t
    | .at_ (.vault _ off) => .inr off
    | .at_ _ => .inl (trapForm p wr)

/-- The lanes of a row that a lane guard selects. -/
def State.rowLanes (s : State) (c : Ctl) (i : Nat) : List Nat :=
  ((List.range 64).map fun j => 64 * i + j).filter fun l => bt (s.lanes c) l

/-- The lanes of the first `n` rows, as a mask. -/
def rowMask (n : Nat) : BitVec 1024 := BitVec.ofNat 1024 (2 ^ (64 * n) - 1)

/-- The vector register of bytes read, the first lowest; lanes beyond them are 0. -/
def laneBytes (bs : List Byte) : VReg :=
  let x := leNat bs
  tab 1024 fun l => BitVec.ofNat 32 (x / 2 ^ (32 * l))

/-- `LDV` (R332) reads a row at a time, in ascending order. -/
def execLdv (c : Ctl) (ty : Ty) (ocl : BitVec 4) (d a : Fin 32) (off : Word32) (n : BitVec 4) (s : State) : Host.Outcome State Fault Refusal :=
  issue (.ldv c ty ocl d a off n) (fun s =>
    let p := s.addr a off
    match s.rowPtr p (rowCount n) false with
    | .inl t => .trap s t
    | .inr o =>
      let w := s.rowsDone.getD RowsDone.start
      let x := s.readRow w (o + 256 * w.n) 256
      let t := s.modVault s.cur.val fun v => v.correct (o + 256 * w.n) 256
      if s.rowsDone.isNone && s.classHeld ocl hereTarget then .wait s
      else match (s.rowLanes c w.n).find? fun l => (s.vault s.cur.val).bad (o + 4 * l) 4 with
        | some l => .trap s ⟨cPOISON, p + wd (4 * l / 8 * 8), 0⟩
        | none =>
          if x.n < rowCount n then .wait (t.pauseRows { x with bad := false })
          else .done (t.writeLanes d (s.lanes c &&& rowMask (rowCount n)) (laneBytes x.got)) x.sec) s

/-- Writes lanes into a vault, whole words where both lanes of a word are written. -/
def Vault.writeLaneList (v : Vault) (owner : BitVec 8) (off : Nat) (x : VReg) (sec : Bool) : List Nat → Vault
  | [] => v
  | [l] => v.write owner (off + 4 * l) (leBytes 4 (lane x l).toNat) sec
  | l :: l' :: ls =>
    if l % 2 = 0 ∧ l' = l + 1 then
      Vault.writeLaneList (v.write owner (off + 4 * l) (leBytes 4 (lane x l).toNat ++ leBytes 4 (lane x l').toNat) sec) owner off x sec ls
    else Vault.writeLaneList (v.write owner (off + 4 * l) (leBytes 4 (lane x l).toNat) sec) owner off x sec (l' :: ls)

/-- `STV` (R362) writes a row at a time, in ascending order; until the last it stands in the range checker. -/
def execStv (c : Ctl) (ty : Ty) (ocl : BitVec 4) (a : Fin 32) (off : Word32) (v : Fin 32) (n : BitVec 4) (s : State) : Host.Outcome State Fault Refusal :=
  issue (.stv c ty ocl a off v n) (fun s =>
    let p := s.addr a off
    let sec := bt s.cc.x.vSec v.val
    match s.rowPtr p (rowCount n) true with
    | .inl t => .trap s t
    | .inr o =>
      let range : Range := ⟨o, o + 256 * rowCount n, true⟩
      let w := s.rowsDone.getD { RowsDone.start with held := some (s.cc.ticket, range) }
      let t := s.modVault s.cur.val fun x => x.writeLaneList s.lc.owner o (s.rv v) sec (s.rowLanes c w.n)
      if sec && !s.lc.flagS then .trap s (trapWorld p)
      else if s.rowsDone.isNone && (s.classHeld ocl hereTarget || s.cc.rangeHeld s.cc.ticket [range]) then .wait s
      else if w.n + 1 < rowCount n then
        .wait ((if s.rowsDone.isNone then t.modCC fun k => k.takeTicket.2 else t).pauseRows { w with n := w.n + 1 })
      else .done t false) s

/-! ## Atomics (R302) -/

def AtomOrdAcq (o : AtomOrd) : Bool := o == .acq || o == .ar
def AtomOrdRel (o : AtomOrd) : Bool := o == .rel || o == .ar

def execAtom (c : Ctl) (ty : Ty) (op : AtomOp) (ord : AtomOrd) (ocl : BitVec 4) (scp : BitVec 3) (d a v : Fin 32)
    (cmp : Option (Fin 32)) (s : State) : Host.Outcome State Fault Refusal :=
  let i : Instr := .atom c ty op ord ocl scp d a v cmp
  issue i (fun s =>
    let p := s.rs a
    let n := ty.width / 8
    let x := s.rs v
    let y := (cmp.map s.rs).getD 0
    let sec := bt s.sq.sSec v.val
    let early := AtomOrdRel ord && !s.allPerformed
    let sync := ord != .none
    if p.toNat % n ≠ 0 then .trap s ⟨cALIGN, p, einfoX 9 true 7⟩
    else match s.decodePtr s.cur.val p n true with
      | .bad t => .trap s t
      | .at_ (.acc _ _) => .trap s (trapForm p true)
      | .at_ .glob =>
        if early || s.classHeld ocl hereTarget || s.ownRemote p n then .wait s
        else (s.checkStore (s.mcur c) p n sec).eff s fun t ps =>
          match s.scopeFor sync (AtomOrdAcq ord) true scp p ps with
          | some tr => .trap s tr
          | none =>
            match t.atomGlobal (s.mcur c) ty op (bf p 56 0) p ps x y sec with
            | none => .done (t.endLaunch s.lc.id .fault cPERM s.cc.rank) false
            | some r =>
              match r.2.bad with
              | some b => .trap r.1 ⟨b.1, b.2, 0⟩
              | none => .got (r.1.recordFor sync scp p ps) ⟨d, extend ty (leNat r.2.bytes), .load, none, r.2.sec⟩
      | .at_ (.vault k off) =>
        if sec && !s.lc.flagS then .trap s (trapWorld p)
        else if k = s.cur.val then
          if early || s.classHeld ocl hereTarget then .wait s
          else match s.vaultBad off n p with
            | some b => .trap s ⟨b.1, b.2, 0⟩
            | none =>
              let old := leNat (s.readVault k off n)
              let t := s.modVault k fun v => v.correct off n
              let r : Result := ⟨d, extend ty old, .load, none, (s.vault k).secure off n⟩
              match atomNew ty op old x.toNat y.toNat with
              | none => .got t r
              | some new => .got (t.writeVault k off (leBytes n new) sec) r
        else if early || s.classHeld ocl k then .wait s
        else
          let r := s.sendVReq k false (.atom op y) off n ty x ocl sec
          .hold (r.2.addResult ⟨d, 0, .vault r.1, none, s.srcSec i.regs c⟩) (.vault r.1)) s

/-! ## Fences (R146, R153, R327, R388) -/

/-- `FENCE` (R327): it retires at issue and holds back later accesses. -/
def execFence (c : Ctl) (scp : BitVec 3) (m1 m2 : BitVec 16) (s : State) : Host.Outcome State Fault Refusal :=
  issue (.fence c scp m1 m2) (fun s => .done (s.addFence m1 m2) false) s

/-- Whether an access of several rows of the core is half done (R99). -/
def Core.inRows (k : Core) : Bool :=
  let rows (q : Seq) : Bool := match q.wait with
    | some (.rows _) => true
    | _ => false
  rows k.as || rows k.xs

/-- Whether a path still has an access of a command issued below a ticket (R146). For N and A nothing
is waited for. -/
def State.pathBusy (s : State) (pm : BitVec 7) (t : Nat) : Bool :=
  let k := s.cc
  let c := s.cur.val
  (bt pm 0 && (k.inRows || s.vreqs.any fun r => r.core == c && !r.acted && decide (r.ticket < t))) ||
    (bt pm 1 && k.aheadC t) || (bt pm 2 && k.aheadG t) || (bt pm 3 && k.issuedM t) ||
    (bt pm 6 && s.inflight.any fun r => r.core == c && (r.kind != 4 || r.sent.isNone) && decide (r.ticket < t))

/-- `XFENCE` (R388): it covers what was issued before it, not what is issued while it waits. -/
def execXfence (c : Ctl) (scp : BitVec 3) (pm : PathMasks) (s : State) : Host.Outcome State Fault Refusal :=
  issue (.xfence c scp pm) (fun s =>
    match s.sq.wait with
    | some (.xfence t) => if s.pathBusy pm.before t then .wait s else .done s false
    | _ =>
      let t := s.cc.ticket
      if pm.before ≠ 0 && s.pathBusy pm.before t then
        .wait ((s.modCC fun k => k.takeTicket.2).modSq fun q => { q with wait := some (.xfence t) })
      else .done s false) s

/-! ## Prefetch (R126, R350) -/

/-- The pages of a range of global addresses. -/
def State.prefPages (s : State) (m : MCtx) (p n : Nat) : List (Option Page) :=
  (splitPages p n).map fun a =>
    match s.tryPage m.x false false (wd a.1) (a.1 % 2 ^ 57) with
    | .ok _ t => if t.bad.isSome then none else some { t.page with pa := t.page.pa }
    | _ => none

/-- The requests of a hint's walks (R130). -/
def State.hintWalks (s : State) (x : XCtx) (p n : Nat) : State := s.triedPages x (splitPages p n)

/-- Asks the MSC for the blocks that cover a range; a hint that would fault is dropped and counted. -/
def State.prefetch (s : State) (m : MCtx) (p : Word) (len : Nat) : State :=
  if len = 0 then s
  else if bf p 63 57 ≠ 0 ∨ 2 ^ 57 < p.toNat + len then s.dropHint m.x.fn
  else
    let parts := splitPages p.toNat len
    let pages := s.prefPages m p.toNat len
    let s := s.hintWalks m.x p.toNat len
    if pages.any Option.isNone then s.dropHint m.x.fn
    else (parts.zip pages).foldl (fun s x =>
      match x.2 with
      | some g => if g.ca < 2 then s.useLines (m.use g.ca) m.x.fn m.launch none false g.pa x.1.2 else s
      | none => s) s

/-- Whether a hint would consume poison: it is then dropped, since it would fault (R126, R350; log 20). -/
def State.hintPoison (s : State) (i : Instr) (c : Ctl) : Bool := s.guardBad c || (s.srcPoison i i.regs c).isSome

def execPref (c : Ctl) (a : Fin 32) (len : Option (Fin 32)) (off : Word32) (s : State) : Host.Outcome State Fault Refusal :=
  issue (.pref c a len off) (fun s =>
    if s.hintPoison (.pref c a len off) c then .done (s.dropHint s.lc.fn) false
    else .done (s.prefetch (s.mcur c) (s.addr a off) (min ((len.map fun r => (s.rs r).toNat).getD 64) 65536)) false) s

end Sys2Proof.Machine
end

