-- ==== Sys2Proof/Machine/Copy.lean ====
section
/-! DEFINITION. Copies, gathers, tiles and transaction barriers as instructions (group 0xA, `GATHER`,
`SCATTER`): R104 to R106, R162 to R165, R168 to R171, R313, R315 to R317, R328, R357, R364, R365,
R367, R368. -/

namespace Sys2Proof.Machine

/-! ## Traps on tiles -/

def TileState.code : TileState → Nat
  | .empty => 0
  | .filling => 1
  | .ready => 2
  | .draining => 3

/-- TILE (Table 15.2): the tile and its state. -/
def Core.trapTile (k : Core) (t : Fin 32) : Trap := ⟨cTILE, wd t.val, wd (k.tile t).state.code⟩

/-- BOUNDS with its two values. -/
def trapBounds (e0 e1 : Word) : Trap := ⟨cBOUNDS, e0, e1⟩

/-- Whether a command that fills a tile and names a barrier meets a running phase's pair (R173). -/
def State.pairBarrier (s : State) (t : Fin 32) (bar : Option (Fin 32)) : Bool :=
  bar.isSome && s.lc.flagH && (match s.cc.phase with
    | some p => p.tf == t || p.tb == t
    | none => false)

/-! ## The nest (R162, R313) -/

/-- Whether a register holds the sign extension of its low 32 bits. -/
def fits32 (v : Word) : Bool := (v.setWidth 32).signExtend 64 == v

def execCnest (c : Ctl) (lvl : Fin 6) (n : SOp) (ss ds : Fin 32) (s : State) : Host.Outcome State Fault Refusal :=
  issue (.cnest c lvl n ss ds) (fun s =>
    let x := (s.sop n).toNat
    if x = 0 ∨ 65536 < x then .trap s (trapBounds (s.sop n) (wd lvl.val))
    else if !fits32 (s.rs ss) then .trap s (trapBounds (s.rs ss) (wd (0x10 + lvl.val)))
    else if !fits32 (s.rs ds) then .trap s (trapBounds (s.rs ds) (wd (0x20 + lvl.val)))
    else .done (s.modCC fun k => { k with
      nest := vset k.nest lvl.val ⟨x, (s.rs ss).toInt, (s.rs ds).toInt⟩
      nestSec := setBit k.nestSec lvl.val (s.srcSec (Instr.cnest c lvl n ss ds).regs c) }) false) s

/-! ## Copies (R315 to R317) -/

/-- The pointer of an operand: a tile's region in the own vault, or a register. -/
def State.tsPtr (s : State) : TS → Word
  | .t r => ownPtr (s.cc.tile r).off
  | .s r => s.rs r

/-- The causes on a pointer operand of the copy engine or the gather unit (R315, R328): its form, and the core
that it names. Where its bytes may lie is a matter of its blocks and rows. -/
def State.copyPtr (s : State) (wr : Bool) : TS → Option Trap
  | .t _ => none
  | .s r =>
    let p := s.rs r
    if bf p 63 60 = 0 then if bf p 59 57 = 0 then none else some (trapForm p wr)
    else if bf p 63 60 ≠ 1 ∨ bf p 47 21 ≠ 0 then some (trapForm p wr)
    else match s.coreOfRank s.cur.val (bf p 59 48) with
      | none => some (trapForm p wr)
      | some k => if k = s.cur.val then none else some (trapFoot p wr)

/-- The causes on a barrier operand, alignment apart (R170). -/
def State.barPtr (s : State) (b : Option (Fin 32)) : Option Trap :=
  b.bind fun r => match s.ownVault s.cur.val (s.rs r) 16 true with
    | .inl t => some t
    | .inr _ => none

/-- Whether a barrier operand is misaligned. -/
def State.barAlign (s : State) (b : Option (Fin 32)) : Option Trap :=
  b.bind fun r => if bf (s.rs r) 3 0 ≠ 0 then some (trapAlign (s.rs r) true) else none

/-- The barrier's own-vault offset. -/
def State.barOff (s : State) (b : Option (Fin 32)) : Option Nat := b.map fun r => bf (s.rs r) 20 0

/-- Of several causes the first by R227: XLATE and RSVD before PERM and WORLD. -/
def firstCause (ts : List (Option Trap)) : Option Trap :=
  let l := ts.filterMap id
  match l.find? fun t => t.cause == cXLATE || t.cause == cRSVD with
  | some t => some t
  | none => l.head?

/-- The trap of decoding one block's address, where it lies in the vault. -/
def State.blockTrap (s : State) (p : Word) (n : Nat) (wr : Bool) : Option Trap :=
  if bf p 63 60 = 0 then none
  else match s.ownVault s.cur.val p n wr with
    | .inl t => some t
    | .inr _ => none

/-- Whether a block lies outside a named tile's region. -/
def Core.outsideTile (k : Core) (t : Option (Fin 32)) (p : Word) (n : Nat) : Option Trap :=
  t.bind fun r =>
    let e := k.tile r
    let o := bf p 20 0
    if o < e.off ∨ e.off + e.size < o + n then some (trapBounds (wd o) (wd (0x100 + r.val))) else none

/-- The checks of R165, in their order. -/
def State.copyChecks (s : State) (x : CopyCmd) (shPtr : Word) : Option Trap :=
  let blocks := List.range x.total
  let inner := blocks.filter x.reads
  let c1 := x.shape.bind fun r => if shapeBad r then some (trapBounds shPtr 0xFF) else none
  let c2 := x.shape.bind fun r =>
    if shapePermit r then none
    else blocks.findSome? fun n => (x.outside n).map fun o => trapBounds (wi o.2) (wd (o.1 + 256 * b2n (shapeDst r)))
  let c3 := inner.findSome? fun n =>
    match s.blockTrap (x.srcAt n) x.b false with
    | some t => some t
    | none => s.blockTrap (x.dstAt n) (x.bd n) true
  let c4 := inner.findSome? fun n =>
    match s.cc.outsideTile x.srcTile (x.srcAt n) x.b with
    | some t => some t
    | none => s.cc.outsideTile x.dstTile (x.dstAt n) (x.bd n)
  let c5 := inner.findSome? fun n =>
    if wholeBlock x.fmts (x.srcAt n) (x.dstAt n) x.b then none else some (trapAlign (x.srcAt n) false)
  match c1 with
  | some t => some t
  | none => match c2 with
    | some t => some t
    | none => match c3 with
      | some t => some t
      | none => match c4 with
        | some t => some t
        | none => c5

/-- Whether a read of class 0 on path L that an instruction makes beside its own effect must wait (R144, R150): for an
access of its class, a fence, or a remote operation of the sequencer on the same bytes. -/
def State.pathHeld (s : State) (p : Word) (n : Nat) : Bool :=
  s.classHeld 0 hereTarget || (bf p 63 60 == 0 && s.ownRemote p n)

/-- The shape record, read on path L: its bytes, or a trap, or a miss. -/
def State.readShape (s : State) (c : Ctl) (sh : Option (Fin 32)) : Acc (Option Line) :=
  match sh with
  | none => .ok s none
  | some r =>
    let p := s.rs r
    if bf p 63 60 = 0 then
      if bf p 59 57 ≠ 0 then .trap s (trapForm p false)
      else match s.readGlobal (s.mcur c) p 64 with
        | .trap t tr => .trap t tr
        | .miss t f g => .miss t f g
        | .ok t got =>
          match got.bad with
          | some b => .trap t ⟨b.1, b.2, 0⟩
          | none => .ok t (some (lineOf got.bytes))
    else match s.ownVault s.cur.val p 64 false with
      | .inl t => .trap s t
      | .inr o =>
        match s.vaultBad o 64 p with
        | some b => .trap s ⟨b.1, b.2, 0⟩
        | none => .ok (s.modVault s.cur.val fun v => v.correct o 64) (some (lineOf (s.readVault s.cur.val o 64)))

def tsTile : TS → Option (Fin 32)
  | .t r => some r
  | .s _ => none

def tileIs (k : Core) (t : Option (Fin 32)) (st : TileState) : Bool :=
  match t with
  | some r => (k.tile r).state == st
  | none => true

/-- Changes the state of a named tile. -/
def Core.turnTile (k : Core) (t : Option (Fin 32)) (st : TileState) : Core :=
  match t with
  | some r => k.setTileState r st
  | none => k

/-- Copies queued behind the one that has started (R38). -/
def Core.copyFull (k : Core) : Bool := decide (16 ≤ (k.copyQ.filter fun (x : CopyCmd) => !x.started).length)

/-- A list of commands by tile with one more. -/
def noteFill {α : Type} (m : SMap (List α)) (t : Fin 32) (x : α) : SMap (List α) :=
  SMap.insert m t.val ((SMap.find? m t.val).getD [] ++ [x])

/-- A copy enters the queue (R104, R163, R173). -/
def Core.enqueueCopy (k : Core) (x : CopyCmd) : Core :=
  let t := k.takeTicket
  let x := { x with ticket := t.1 }
  let k := (t.2.turnTile x.dstTile .filling).turnTile x.srcTile .draining
  let k := { k with copyQ := k.copyQ ++ [x] }
  match x.dstTile with
  | some r => { k with filledC := noteFill k.filledC r x }
  | none => k

/-- `CPY` and `CPYM` at issue (R316, R317). The shape record is read in the order of path L's class 0 (R150). -/
def State.copyIssue (s : State) (c : Ctl) (dst src : TS) (b : SOp) (bar sh : Option (Fin 32)) (follow : Option Follow) : Eff :=
  let k := s.cc
  let same := (match (tsTile dst), (tsTile src) with
    | some a, some b => a == b
    | _, _ => false)
  let n := s.sop b
  if !same && !(tileIs k (tsTile dst) .empty && tileIs k (tsTile src) .ready && !k.copyFull) then .wait s
  else if sh.isSome && s.pathHeld ((sh.map s.rs).getD 0) 64 then .wait s
  else match firstCause [s.barAlign bar, sh.bind fun r => if bf (s.rs r) 5 0 ≠ 0 then some (trapAlign (s.rs r) false) else none] with
    | some t => .trap s t
    | none =>
      (match s.readShape c sh with
        | .ok t l => Acc.ok t l
        | .trap t tr => .trap t ((firstCause [s.copyPtr true dst, s.copyPtr false src, s.barPtr bar, some tr]).getD tr)
        | .miss t f g => .miss t f g).eff s fun t shape =>
      match firstCause [s.copyPtr true dst, s.copyPtr false src, s.barPtr bar] with
      | some tr => .trap t tr
      | none =>
        if n = 0 ∨ 4096 < n.toNat then .trap t (trapBounds n 0x200)
        else
          let x : CopyCmd := ⟨0, s.tsPtr src, s.tsPtr dst, (tsTile src), (tsTile dst), n.toNat, k.nest, s.barOff bar, shape, k.bfmt, follow, false, 0, none, none, false, s.sq.mode == 0, c.hint.toNat⟩
          match s.copyChecks x ((sh.map s.rs).getD 0) with
          | some tr => .trap t tr
          | none =>
            match (tsTile dst) with
            | some r =>
              if same || s.pairBarrier r bar then .trap t (k.trapTile r) else .done (t.modCC fun k => k.enqueueCopy x) false
            | none => .done (t.modCC fun k => k.enqueueCopy x) false

def execCpy (c : Ctl) (dst src : TS) (b : SOp) (bar sh : Option (Fin 32)) (s : State) : Host.Outcome State Fault Refusal :=
  issue (.cpy c dst src b bar sh) (fun s => s.copyIssue c dst src b bar sh none) s

/-- `CPYM` (R168, R317): the follow-on's descriptor, stream and `.last` are captured at issue. -/
def execCpym (c : Ctl) (str : BitVec 2) (last : Bool) (d : Fin 32) (src : TS) (b : SOp) (bar : Option (Fin 32)) (m : Fin 16) (s : State) : Host.Outcome State Fault Refusal :=
  issue (.cpym c str last d src b bar m) (fun s =>
    s.copyIssue c (.t d) src b bar none (some ⟨vget 0 s.cc.m m.val, str, last⟩)) s

/-! ## Gathers and scatters (R169, R328, R357) -/

def GathCmd.whole (x : GathCmd) : Bool :=
  if x.scatter then wholeBlock x.fmts (ownPtr x.off) x.base x.b else wholeBlock x.fmts x.base (ownPtr x.off) x.b

/-- A gather or scatter enters its queue. -/
def Core.enqueueGather (k : Core) (x : GathCmd) : Core :=
  let t := k.takeTicket
  let x := { x with ticket := t.1 }
  let k := t.2.setTileState x.tile (if x.scatter then .draining else .filling)
  let k := { k with gathQ := k.gathQ ++ [x] }
  if x.scatter then k else { k with filledG := noteFill k.filledG x.tile x }

/-- `GATHER` and `SCATTER` at issue: `t` is the data tile, `i` the index tile. -/
def State.gatherIssue (s : State) (c : Ctl) (scatter : Bool) (base : Fin 32) (t i : Fin 32) (p : Fin 32) (bar : Option (Fin 32)) (b : Word32) : Eff :=
  let k := s.cc
  let e := k.tile t
  let ti := k.tile i
  let x : GathCmd := ⟨0, scatter, s.rs base, t, e.off, e.size, i, ti.off, ti.size / 4, s.rs p, b.toNat, k.nest, s.barOff bar, k.bfmt, 0, none, none, s.sq.mode == 0, c.hint.toNat⟩
  let perRow := if scatter then x.b else x.bd
  if t ≠ i && !(e.state == (if scatter then .ready else .empty) && ti.state == .ready && decide (k.gathQ.length < 9)) then .wait s
  else match firstCause [s.barAlign bar] with
    | some tr => .trap s tr
    | none =>
      match firstCause [s.copyPtr scatter (.s base), s.barPtr bar] with
      | some tr => .trap s tr
      | none =>
        if x.b = 0 ∨ 4096 < x.b then .trap s (trapBounds (b.setWidth 64) 0x200)
        else if ti.size % 4 ≠ 0 then .trap s (trapBounds (wd ti.size) (wd (0x100 + i.val)))
        else if e.size < x.rows * perRow then .trap s (trapBounds (wd e.off) (wd (0x100 + t.val)))
        else if !x.whole then .trap s (trapAlign x.base scatter)
        else if t = i || (!scatter && s.pairBarrier t bar) then .trap s (k.trapTile t)
        else .done (s.modCC fun k => k.enqueueGather x) false

def execGather (c : Ctl) (d a p i : Fin 32) (bar : Option (Fin 32)) (b : Word32) (s : State) : Host.Outcome State Fault Refusal :=
  issue (.gather c d a p i bar b) (fun s => s.gatherIssue c false a d i p bar b) s

def execScatter (c : Ctl) (d t p i : Fin 32) (bar : Option (Fin 32)) (b : Word32) (s : State) : Host.Outcome State Fault Refusal :=
  issue (.scatter c d t p i bar b) (fun s => s.gatherIssue c true d t i p bar b) s

/-! ## Transaction barriers (R170, R171, R364, R365) -/

/-- The pointer and value checks of the barrier instructions: a trap, or the own-vault offset. An
immediate outside its limit traps RI, a register value BOUNDS. -/
def State.barIssue (s : State) (i : Instr) (a : Fin 32) (n : SOp) (lo hi : Nat) (wr : Bool) : Trap ⊕ Nat :=
  let p := s.rs a
  let v := s.sop n
  let out := decide (v.toNat < lo) || decide (hi < v.toNat)
  let imm := (match n with
    | .imm _ => true
    | .reg _ => false)
  if imm && out then .inl (wordTrap cRI i)
  else if bf p 3 0 ≠ 0 then .inl (trapAlign p wr)
  else match s.ownVault s.cur.val p 16 wr with
    | .inl t => .inl t
    | .inr o => if out then .inl (trapBounds v 0) else .inr o

/-- Whether a barrier instruction stores a secure value (R257). -/
def State.barSec (s : State) (i : Instr) (c : Ctl) : Bool := s.srcSec i.regs c

/-- Updates a barrier of the launch that holds the core with a value that has a tag. -/
def State.updBarTag (s : State) (sec : Bool) (c off : Nat) (f : Bar → Bar × Bool) : State :=
  let s := if sec then s.modVault c fun v => v.setSec off 16 else s
  s.updBar c off f

def execTbinit (c : Ctl) (a : Fin 32) (n : SOp) (s : State) : Host.Outcome State Fault Refusal :=
  issue (.tbinit c a n) (fun s =>
    match s.barIssue (.tbinit c a n) a n 1 1048575 true with
    | .inl t => .trap s t
    | .inr o =>
      let sec := s.barSec (.tbinit c a n) c
      if s.classHeld 0 hereTarget then .wait s
      else if sec && !s.lc.flagS then .trap s (trapWorld (s.rs a))
      else .done (s.updBarTag sec s.cur.val o fun _ => (⟨0, (s.sop n).toNat, 0, (s.sop n).toNat, false⟩, false)) false) s

/-- `TBARV`: adds to SEC and counts one arrival; with none pending it sets ERR. -/
def Bar.arrive (b : Bar) (cnt : Nat) : Bar × Bool :=
  let x := b.addSec cnt
  if x.arr = 0 then { x with err := true }.settle else { x with arr := x.arr - 1 }.settle

def execTbarv (c : Ctl) (a : Fin 32) (n : SOp) (s : State) : Host.Outcome State Fault Refusal :=
  issue (.tbarv c a n) (fun s =>
    match s.barIssue (.tbarv c a n) a n 0 (2 ^ 31 - 1) true with
    | .inl t => .trap s t
    | .inr o =>
      if s.classHeld 0 hereTarget then .wait s
      else match s.vaultBad o 16 (s.rs a) with
      | some b => .trap s ⟨b.1, b.2, 0⟩
      | none =>
        let sec := s.barSec (.tbarv c a n) c
        let none_ := (s.bar s.cur.val o).arr == 0
        let t := s.updBarTag sec s.cur.val o fun b => b.arrive (s.sop n).toNat
        if sec && !s.lc.flagS then .trap s (trapWorld (s.rs a))
        else .done (if none_ then t.modCC fun k => k.recordError 0 cBOUNDS o (s.rs a) else t) false) s

/-- The trap of `TBWAIT.chk` (R171). -/
def Core.chkTrap (k : Core) (p : Word) (o : Nat) : Trap :=
  if bt k.eerr0 63 && bf k.eerr0 20 0 == o then ⟨k.eerr0.extractLsb' 32 8, p, k.eerr1⟩ else ⟨0x0F, p, 0⟩

def execTbwait (c : Ctl) (chk : Bool) (a : Fin 32) (n : SOp) (s : State) : Host.Outcome State Fault Refusal :=
  issue (.tbwait c chk a n) (fun s =>
    match s.barIssue (.tbwait c chk a n) a n 0 15 false with
    | .inl t => .trap s t
    | .inr o =>
      match s.vaultBad o 16 (s.rs a) with
      | some x => .trap s ⟨x.1, x.2, 0⟩
      | none =>
      let b := s.bar s.cur.val o
      if !b.passed (s.sop n).toNat then .wait s
      else
      let s := s.modVault s.cur.val fun v => v.correct o 16
      if chk && b.err then .report s (s.cc.chkTrap (s.rs a) o)
      else .done s false) s

/-! ## Tiles (R105, R367, R368) -/

/-- Table 6.6: the state that `TSET` gives, or a trap. -/
def tsetNew (st : TileState) (v : Nat) : Option TileState :=
  match st, v with
  | .empty, 0 => some .empty
  | .empty, 2 => some .ready
  | .ready, 0 => some .empty
  | .ready, 2 => some .ready
  | _, _ => none

def execTset (c : Ctl) (t : Fin 32) (n : SOp) (s : State) : Host.Outcome State Fault Refusal :=
  issue (.tset c t n) (fun s =>
    match tsetNew (s.cc.tile t).state (s.sop n).toNat with
    | some st => .done (s.modCC fun k => k.setTileState t st) false
    | none => .trap s (s.cc.trapTile t)) s

/-- A tile descriptor's region lies in one bank and its unused bits are zero (R45, R368). -/
def tileDescOk (d : Word) : Bool :=
  let off := bf d 20 0
  let size := bf d 38 21
  bf d 62 39 == 0 && decide (1 ≤ size) && decide (size ≤ 131072) && decide (off / 131072 = (off + size - 1) / 131072)

/-- The entry of a tile descriptor. -/
def tileOfDesc (d : Word) : Tile := ⟨if bt d 63 then .ready else .empty, bf d 38 21, bf d 20 0⟩

def execTsetDef (c : Ctl) (t a : Fin 32) (s : State) : Host.Outcome State Fault Refusal :=
  issue (.tsetDef c t a) (fun s =>
    let d := s.rs a
    if (s.cc.tile t).state ≠ .empty then .trap s (s.cc.trapTile t)
    else if !tileDescOk d then .trap s (trapBounds d (wd (0x100 + t.val)))
    else if s.lc.footBytes < bf d 20 0 + bf d 38 21 then .trap s (trapFoot (ownPtr (bf d 20 0)) false)
    else .done (s.modCC fun k => { k.setTile t (tileOfDesc d) with
      filledC := SMap.erase k.filledC t.val, filledG := SMap.erase k.filledG t.val }) false) s

end Sys2Proof.Machine
end

