-- ==== Sys2Proof/Machine/Array.lean ====
section
/-! DEFINITION. What the matrix array and the adapter side path compute: modes, grants, tile elements,
planes, passes and corrections (R29, R72, R73, R90, R91, R94, R102, R175 to R178, R181, R183, R188, R191,
R192). -/

namespace Sys2Proof

/-! ## Modes (Table 11.1) -/

/-- The largest K of a mode. -/
def Ty.maxK : Ty → Nat
  | .bf16 | .f16 => 64
  | .e2m1 | .i4 | .n4 => 256
  | _ => 128

/-- Whether a mode's accumulator holds integers. -/
def Ty.intMode : Ty → Bool
  | .i8 | .n8 | .i4 | .n4 => true
  | _ => false

/-- Whether a format is an activation format of a mode. -/
def Ty.actFmt (mode f : Ty) : Bool :=
  match mode with
  | .bf16 | .f16 => f == .bf16 || f == .f16
  | .e4m3 | .e5m2 => f == .e4m3 || f == .e5m2
  | .i8 | .n8 | .bpi => f == .i8 || f == .n8
  | .e2m1 => f == .e2m1
  | .i4 | .n4 => f == .i4 || f == .n4
  | _ => false

/-- Whether a format is a weight format of a mode. -/
def Ty.weightFmt (mode f : Ty) : Bool := if mode == .bpi then f == .bpi else Ty.actFmt mode f

end Sys2Proof

namespace Sys2Proof.Machine

/-! ## Grants (R176, R177) -/

/-- A granted shape: M, N and K rounded up and limited. -/
def grantOf (ty : Ty) (sp : Bool) (m n k g : Nat) : Grant where
  m := min 128 (roundUp m 8)
  n := min 128 (roundUp n 16)
  k := min ((if sp then 2 else 1) * ty.maxK) (roundUp k 16)
  g := g
  ty := ty
  sp := sp

/-- The layout of `MSHAPE`'s request and grant; `g` is the group size. -/
def Grant.word (x : Grant) : Word :=
  wd ((x.m - 1) + 2 ^ 8 * (x.n - 1) + 2 ^ 16 * ((x.k - 1) % 256) + 2 ^ 24 * log2 x.g + 2 ^ 26 * ((x.k - 1) / 256))

/-- The grant of a request of `MSHAPE`. -/
def grantReq (ty : Ty) (sp : Bool) (r : Word) : Grant :=
  grantOf ty sp (bf r 7 0 + 1) (bf r 15 8 + 1) (bf r 23 16 + 256 * bf r 26 26 + 1) (2 ^ bf r 25 24)

/-- A core takes a grant: planes, bindings and side state are cleared. -/
def Core.takeGrant (k : Core) (g : Grant) : Core :=
  { k with grant := some g, shadow := none, active := none, binds := [], bindNow := none }

/-- The smallest power of two that is at least a number from 1 to 16. -/
def pow2Up (n : Nat) : Nat := if n ≤ 1 then 1 else 2 ^ (log2 (n - 1) + 1)

/-- The group shape of a request of `MSHAPE.grp`. -/
def grpShape (r : Word) : Nat × Nat := (pow2Up (cdiv (bf r 10 0 + 1) 128), pow2Up (cdiv (bf r 20 11 + 1) 128))

/-- A core's grant under `MSHAPE.grp`. -/
def grpGrant (ty : Ty) (sp : Bool) (r : Word) : Grant :=
  let g := grpShape r
  grantOf ty sp (cdiv (bf r 10 0 + 1) g.1) (cdiv (bf r 20 11 + 1) g.2) (bf r 28 21 + 256 * bf r 31 31 + 1) (2 ^ bf r 30 29)

/-- The word that `MSHAPE.grp` writes for a core at a place in its group. -/
def grpWord (x : Grant) (r : Word) (gx gy : Nat) : Word :=
  let g := grpShape r
  wd ((x.m * g.1 - 1) + 2 ^ 11 * (x.n * g.2 - 1) + 2 ^ 21 * ((x.k - 1) % 256) + 2 ^ 29 * log2 x.g + 2 ^ 31 * ((x.k - 1) / 256) +
    2 ^ 32 * (x.m * gx) + 2 ^ 43 * (x.n * gy))

/-! ## Regions (R29) -/

/-- A region of the accumulator: first row and column, rows and columns. -/
structure Region where
  r0 : Nat
  c0 : Nat
  r : Nat
  c : Nat
  deriving DecidableEq, Repr

def Grant.region (g : Grant) (d : Word) : Region :=
  ⟨bf d 6 0, bf d 14 8, if bf d 23 16 = 0 then g.m else bf d 23 16, if bf d 31 24 = 0 then g.n else bf d 31 24⟩

def Region.inside (x : Region) : Bool := decide (x.r0 + x.r ≤ 128) && decide (x.c0 + x.c ≤ 128)

/-! ## Tile elements (R72, R73, R94, R102, R178) -/

def blkSize (fmt : Word) : Nat := if bf fmt 15 14 = 1 then 32 else if bf fmt 15 14 = 2 then 64 else 0

/-- The pattern of element `i` of packed bytes, by what reads a byte. -/
def packedAt (w : Nat) (byte : Nat → Byte) (i : Nat) : Nat :=
  if w = 4 then (byte (i / 2)).toNat / 16 ^ (i % 2) % 16
  else leNat ((List.range (w / 8)).map fun j => byte (i * (w / 8) + j))

/-- The number of a bpi element: `plane b` reads the byte of bit plane `b`, `scale` the block's f32 (R72). -/
def bpiValue (npl : Nat) (bit : Nat → Nat) (scale : Num) : Num :=
  let t := (List.range npl).foldl (fun a j => 2 * a + bit (7 - j)) 0
  let t : Int := if 2 ^ (npl - 1) ≤ t then (t : Int) - 2 ^ npl else t
  let v : Int := if npl = 8 then t else t * 2 ^ (8 - npl) + 2 ^ (7 - npl)
  (Num.mul (Num.ofInt v) scale).1

/-- Offset of the MX scale of element `i` of a tile (R94). -/
def scaleOff (fmt : Word) (off i : Nat) : Nat :=
  off / 131072 * 131072 + 0x1C000 + (off % 131072 * 8 / (fmtTy fmt).width + i) / blkSize fmt

/-- The own-vault range of the MX scales that go with the first `n` elements of a tile (R94, R107). -/
def scaleTouch (fmt : Word) (off n : Nat) : List Range :=
  if blkSize fmt = 0 ∨ n = 0 then [] else [⟨scaleOff fmt off 0, scaleOff fmt off (n - 1) + 1, false⟩]

/-- The ranges that reading the first `n` elements of a tile touches (R107). -/
def elemTouch (fmt : Word) (off n : Nat) : List Range :=
  ⟨off, off + cdiv (n * (fmtTy fmt).width) 8, false⟩ :: scaleTouch fmt off n

/-- An element times its block's scale (R73). -/
def scaled (v : Num) (scale : Nat) : Num := (Num.mul v (Ty.value .e8m0 scale)).1

/-- Element `i` of a tile of a core, decoded. -/
def State.tileElem (s : State) (c : Nat) (fmt : Word) (off i : Nat) : Num :=
  let ty := fmtTy fmt
  let byte (o : Nat) : Byte := (s.vault c).byte (s.launchOn c).owner o
  let v := ty.value (packedAt ty.width (fun j => byte (off + j)) i)
  if blkSize fmt = 0 then v else scaled v (byte (scaleOff fmt off i)).toNat

/-- Whether a block format fits the shape and the tile's place (R178). -/
def blkOk (fmt : Word) (off k : Nat) : Bool :=
  blkSize fmt == 0 || (k % blkSize fmt == 0 && (off % 131072 * 8 / (fmtTy fmt).width) % blkSize fmt == 0)

/-! ## Weight planes (R181) -/

/-- Elements of a plane, and the bytes of its tile. -/
def planeElems (n k : Nat) (sp : Bool) : Nat := if sp then n * k / 2 else n * k

def planeBytes (ty : Ty) (n k : Nat) (sp : Bool) : Nat :=
  let e := planeElems n k sp
  (if ty == .bpi then e + e / 16 else e * ty.width / 8) + (if sp then n * k / 8 else 0)

/-- Element `i` of a plane, decoded, of a tensor of `e` elements. -/
def Plane.elem (p : Plane) (e i : Nat) : Num :=
  let ty := fmtTy p.fmt
  let byte (o : Nat) : Byte := p.bytes.getD o 0
  if ty == .bpi then
    let bit (b : Nat) : Nat := (byte ((7 - b) * (e / 8) + i / 8)).toNat / 2 ^ (i % 8) % 2
    bpiValue (bf p.fmt 19 16) bit (f32v (leNat ((List.range 4).map fun j => byte (e + 4 * (i / 64) + j))))
  else
    let v := ty.value (packedAt ty.width byte i)
    if blkSize p.fmt = 0 then v else scaled v (p.scales.getD (i / blkSize p.fmt) 0).toNat

/-- The mask of a group of 16 values of a column of a sparse plane. -/
def Plane.mask (p : Plane) (n k col grp : Nat) : Nat :=
  let o := planeBytes (fmtTy p.fmt) n k true - n * k / 8 + 2 * (col * (k / 16) + grp)
  leNat [p.bytes.getD o 0, p.bytes.getD (o + 1) 0]

/-- Weight w[col][kk] of a plane under a grant. -/
def Plane.weight (p : Plane) (g : Grant) (col kk : Nat) : Num :=
  let e := planeElems g.n g.k p.sparse
  if p.sparse then
    let m := p.mask g.n g.k col (kk / 16)
    let v := ((List.range (kk % 16)).filter fun b => m.testBit b).length
    if m.testBit (kk % 16) && decide (v < 8) then p.elem e (col * (g.k / 2) + 8 * (kk / 16) + v) else .zero
  else p.elem e (col * g.k + kk)

/-- A weight of an optional plane: a cleared plane holds zeros. -/
def weightOf (p : Option Plane) (g : Grant) (col kk : Nat) : Num :=
  match p with
  | some p => p.weight g col kk
  | none => .zero

/-- The own-vault bytes under elements `i` to `i + n` of a tile, with their MX scales: offset and length. -/
def elemReads (fmt : Word) (off i n : Nat) : List (Nat × Nat) :=
  let w := (fmtTy fmt).width
  (off + i * w / 8, cdiv (n * w) 8) :: if blkSize fmt = 0 ∨ n = 0 then [] else [(scaleOff fmt off i, scaleOff fmt off (i + n - 1) + 1 - scaleOff fmt off i)]

/-- The own-vault bytes that reading a plane reads: of a bpi tensor the first NPL bit planes and the scales (R72); for a
sparse plane the masks too. -/
def planeReads (fmt : Word) (off : Nat) (g : Grant) (sp : Bool) : List (Nat × Nat) :=
  let e := planeElems g.n g.k sp
  let n := planeBytes (fmtTy fmt) g.n g.k sp
  if fmtTy fmt == .bpi then [(off, bf fmt 19 16 * (e / 8)), (off + e, n - e)]
  else (off, n) :: (elemReads fmt off 0 e).drop 1

/-- The plane that a tile holds; bit planes that are not read are zero. -/
def State.planeAt (s : State) (c : Nat) (fmt : Word) (off : Nat) (g : Grant) (sp : Bool) : Plane where
  sparse := sp
  fmt := fmt
  bytes := (s.readVault c off (planeBytes (fmtTy fmt) g.n g.k sp)).zipIdx.map fun b =>
    if (planeReads fmt off g sp).any fun r => decide (r.1 ≤ off + b.2) && decide (off + b.2 < r.1 + r.2) then b.1 else 0
  scales :=
    if blkSize fmt = 0 then []
    else (List.range (planeElems g.n g.k sp / blkSize fmt)).map fun i =>
      (s.vault c).byte (s.launchOn c).owner (scaleOff fmt off (i * blkSize fmt))
  sec := (planeReads fmt off g sp).any fun r => (s.vault c).secure r.1 r.2

/-! ## Passes (R90, R91, R183) -/

/-- Adds the group sums of one row to one accumulator element. -/
def accumulate (ty : Ty) (a : BitVec 56) (x w : List Num) : BitVec 56 :=
  (List.range (x.length / 16)).foldl (fun a q =>
    let ps := (((x.drop (16 * q)).take 16).zip ((w.drop (16 * q)).take 16)).map fun e => Num.mul e.1 e.2
    if ty.intMode then addI56 a (sumProducts ps) else addFa a (groupSum ps)) a

/-- Row `i` of an activation tile. -/
def State.actRow (s : State) (c : Nat) (x : MatCmd) (g : Grant) (i : Nat) : List Num :=
  (List.range g.k).map fun kk => s.tileElem c x.fmt x.off (i * g.k + kk)

/-- The base sums of one pass of eight rows. -/
def State.passSums (s : State) (c : Nat) (x : MatCmd) (g : Grant) (z : Region) : State :=
  let cols := (List.range z.c).map fun n => (List.range g.k).map fun kk => weightOf (s.core c).active g n kk
  let rows := (List.range 8).map fun i => (8 * x.pass + i, s.actRow c x g (8 * x.pass + i))
  s.modCore c fun k => rows.foldl (fun k r =>
    ((List.range z.c).zip cols).foldl (fun k w =>
      k.setAcc (z.r0 + r.1) (z.c0 + w.1) (accumulate g.ty (k.accAt (z.r0 + r.1) (z.c0 + w.1)) r.2 w.2)) k) k

/-! ## Factor pages (R136, R188, R192) -/

/-- Bytes of a factor page as path A reads them with a per-handle key (R136, R188): pages that were published
under another key decrypt to what their ciphertext gives. A page that no publication has made is read where
the entry's owner or the PF wrote it last (R135, R196; log 15). The bytes lie in one block. -/
def State.factorBytes (s : State) (k : AdaptKey) (a n : Nat) : List Byte :=
  let raw := s.mem.read a n
  let o := (SMap.find? s.lineOwner (a / 64)).getD k.owner
  if ((s.adaptKey (a / 256)).map fun k' => decide (k' = k)).getD true then
    if (SMap.find? s.adaptKeys (a / 256)).isSome || o == k.owner || o == 0 then raw else List.replicate n 0
  else ((s.wrongKey (handleKey k) (a / 256) (s.mem.read (a / 256 * 256) 256)).drop (a % 256)).take n

/-- Element `i` of a factor of a handle. -/
def State.factor (s : State) (h : BitVec 20) (e : Line) (pageB : Bool) (i : Nat) : Num :=
  let w := (entTy e).width / 8
  (entTy e).value (leNat (s.factorBytes (entKey h e) ((entPage e pageB).1 + i * w) w))

/-- A[k][j], zero at or beyond KTOT. -/
def State.factorA (s : State) (h : BitVec 20) (e : Line) (k j : Nat) : Num :=
  if k < entKtot e then s.factor h e false (k * entQ e + j) else .zero

/-- B[j][n], zero at or beyond NTOT. -/
def State.factorB (s : State) (h : BitVec 20) (e : Line) (j n : Nat) : Num :=
  if n < entNtot e then s.factor h e true (j * entNtot e + n) else .zero

/-! ## The side path (R192) -/

/-- A side value after one row's pass. -/
def sideValue (xa : BitVec 56) (x a : List Num) : BitVec 56 := accumulate .bf16 xa x a

/-- The correction of one element: `xa` and `b` over the factor's columns. -/
def correction (alpha : Num) (xa b : List Num) : Num :=
  let t := (List.range (cdiv xa.length 16)).foldl (fun (t : Num) q =>
    let ps := (((xa.drop (16 * q)).take 16).zip ((b.drop (16 * q)).take 16)).map fun e => Num.mul e.1 e.2
    rn56 (Num.add false t (groupSum ps)).1) Num.zero
  rn56 (Num.mul alpha t).1

end Sys2Proof.Machine
end

