-- ==== Sys2Proof/Machine/Matrix.lean ====
section
/-! DEFINITION. Matrix instructions (group 0x8) and the array's steps: R175 to R186, R190 to R194, R335,
R336. -/

namespace Sys2Proof.Machine

/-! ## Reports to a sequencer (R193, R227, R317) -/

/-- An asynchronous report: while one is pending a later one is not reported. -/
def State.reportTo (s : State) (c : Nat) (q : SeqId) (r : Report) : State :=
  s.modCore c fun k => k.modSeq q fun x => if x.pend.isNone then { x with pend := some r } else x

/-! ## Issue (R179, R335) -/

/-- SHAPE with its EINFO0. -/
def trapShape (e0 : Word) : Trap := ⟨cSHAPE, e0, 0⟩

/-- BOUNDS of a tile that is too small (R178). -/
def Core.trapSmall (k : Core) (t : Fin 32) : Trap := trapBounds (wd (k.tile t).off) (wd (0x100 + t.val))

/-- Commands that wait in the 32-entry queue (R37). -/
def Core.matFull (k : Core) : Bool := decide (32 ≤ (k.matQ.filter fun (x : MatCmd) => !x.started).length)

/-- A command with nothing done. -/
def matCmd (op : MatOp) (stream : BitVec 2) (region : Word) (t : Fin 32) (e : Tile) (fmt : Word) (touch : List Range)
    (bind : Nat) : MatCmd :=
  ⟨0, 0, op, stream, region, t, e.off, e.size, fmt, touch, bind, false, 0, 0, none, [], [], [], []⟩

/-- A command enters the queue for an instruction that was issued at a ticket. -/
def Core.enqueueFor (k : Core) (x : MatCmd) (issued : Nat) : Core :=
  let t := k.takeTicket
  { t.2 with matQ := t.2.matQ ++ [{ x with ticket := t.1, issued := issued }] }

/-- A command enters the queue as its instruction issues. -/
def Core.enqueueMat (k : Core) (x : MatCmd) : Core := k.enqueueFor x k.ticket

/-- The format of a tile's bank. -/
def Core.tileFmt (k : Core) (t : Fin 32) : Word := bankFmt k.bfmt (k.tile t).off

/-- Whether the shadow and the active plane are sparse once the queued commands have executed (R183). -/
def Core.planesAhead (k : Core) : Bool × Bool :=
  let sp (p : Option Plane) : Bool := (p.map Plane.sparse).getD false
  k.matQ.foldl (fun a (x : MatCmd) => match x.op with
    | .load s => (s, a.2)
    | .swap => (a.2, a.1)
    | _ => a) (sp k.shadow, sp k.active)

/-- With a grant, or the SHAPE trap of R176. -/
def State.granted (s : State) (f : Grant → Eff) : Eff :=
  match s.cc.grant with
  | some g => f g
  | none => .trap s (trapShape 0)

/-- Waits for a tile and for room, and queues a command. -/
def State.queueMat (s : State) (t : Option (Fin 32)) (x : MatCmd) : Eff :=
  let ready := (match t with
    | some r => (s.cc.tile r).state == .ready
    | none => true)
  if !ready || s.cc.matFull then .wait s else .done (s.modCC fun k => k.enqueueMat x) false

/-- `MSHAPE` (R176). -/
def execMshape (c : Ctl) (ty : Ty) (sp : Bool) (d : Fin 32) (b : SOp) (s : State) : Host.Outcome State Fault Refusal :=
  issue (.mshape c ty sp d b) (fun s =>
    let r := s.sop b
    if bf r 63 27 ≠ 0 then .trap s (trapShape r)
    else if !s.cc.arrayIdle then .wait s
    else
      let g := grantReq ty sp r
      .done ((s.modCC fun k => k.takeGrant g).ws d g.word) false) s

/-- The request that a core waits with at `MSHAPE.grp`. -/
def Core.grpAt (k : Core) : Option (Word × Ty × Bool × Fin 32 × Bool) :=
  match k.xs.wait with
  | some (.shapeGrp r ty sp d sec) => some (r, ty, sp, d, sec)
  | _ => none

/-- A core of a complete group is granted its slice. -/
def State.grpGive (s : State) (c : Nat) (r : Word) (ty : Ty) (sp : Bool) (d : Fin 32) (sec : Bool) : State :=
  let k := s.core c
  let w := (s.launchOn c).wid
  let sh := grpShape r
  let g := grpGrant ty sp r
  let v := grpWord g r (k.rank % w % sh.1) (k.rank / w % sh.2)
  let s := s.modCore c fun k => (k.takeGrant g).modSeq .xs fun q => { q.ws d v with sSec := setBit q.sSec d.val sec }
  s.retireHeld c .xs

/-- Serves the group of the lowest-ranked waiting core, once every core of it waits (R336): where the requests
differ every one traps SHAPE, else each is granted, when every array is idle (R176). -/
def State.grpServe (s : State) (cs : List Nat) : Option State :=
  match cs.find? fun c => (s.core c).grpAt.isSome with
  | none => none
  | some c =>
    match (s.core c).grpAt with
    | none => none
    | some w =>
      let g := s.groupCores c (grpShape w.1)
      let same := g.all fun k => match (s.core k).grpAt with
        | some x => x.1 == w.1 && x.2.1 == w.2.1 && x.2.2.1 == w.2.2.1
        | none => false
      if !(g.all fun k => (s.core k).grpAt.isSome) || (same && !(g.all fun k => (s.core k).arrayIdle)) then none
      else some (g.foldl (fun s k => match (s.core k).grpAt with
        | some x => if same then s.grpGive k x.1 x.2.1 x.2.2.1 x.2.2.2.1 x.2.2.2.2 else s.trapOn k .xs (trapShape x.1)
        | none => s) s)

/-- Serves groups one after another. -/
def State.grpLoop (cs : List Nat) : Nat → State → State
  | 0, s => s
  | n + 1, s => match s.grpServe cs with
    | some t => State.grpLoop cs n t
    | none => s

def State.grpComplete (s : State) (l : Launch) (copy1 : Bool) : State :=
  State.grpLoop (l.copyCores copy1) (l.copyCores copy1).length s

/-- `MSHAPE.grp` (R177, R336): the core's arrival; the last one completes the group, as does a
later turn of a waiting core where an array was not idle. -/
def execMshapeGrp (c : Ctl) (ty : Ty) (sp : Bool) (d : Fin 32) (b : SOp) (s : State) : Host.Outcome State Fault Refusal :=
  let i : Instr := .mshapeGrp c ty sp d b
  let r := issue i (fun s =>
    let r := s.sop b
    let sh := grpShape r
    if s.lc.wid < sh.1 ∨ s.lc.hgt < sh.2 then .trap s (trapShape r)
    else if !s.cc.arrayIdle then .wait s
    else .hold s (.shapeGrp r ty sp d (s.srcSec i.regs c))) s
  match r with
  | .next t => .next (if (t.core t.cur.val).grpAt.isSome then t.grpComplete t.lc t.cc.copy1 else t)
  | r => r

/-- `MLOAD` (R181, R335). -/
def execMload (c : Ctl) (sp : Bool) (t : Fin 32) (s : State) : Host.Outcome State Fault Refusal :=
  issue (.mload c sp t) (fun s =>
    s.granted fun g =>
      let k := s.cc
      let e := k.tile t
      let f := k.tileFmt t
      if !Ty.weightFmt g.ty (fmtTy f) || !blkOk f e.off g.k || (!sp && decide (g.ty.maxK < g.k)) then .trap s (trapShape (wd t.val))
      else if e.size < planeBytes (fmtTy f) g.n g.k sp then .trap s (k.trapSmall t)
      else s.queueMat (some t) (matCmd (.load sp) 0 0 t e f
        (⟨e.off, e.off + planeBytes (fmtTy f) g.n g.k sp, false⟩ :: scaleTouch f e.off (planeElems g.n g.k sp)) 0)) s

/-- `MSWAP` (R182). -/
def execMswap (c : Ctl) (s : State) : Host.Outcome State Fault Refusal :=
  issue (.mswap c) (fun s => s.granted fun _ => s.queueMat none (matCmd .swap 0 0 0 ⟨.empty, 0, 0⟩ 0 [] 0)) s

/-- The checks of `MMUL` and `MMULS` (R183) on a core, in order. -/
def Core.mulTrap (k : Core) (sparse : Bool) (d : Word) (t : Fin 32) : Option Trap :=
  match k.grant with
  | none => some (trapShape 0)
  | some g =>
    let z := g.region d
    let e := k.tile t
    let f := k.tileFmt t
    if !z.inside || decide (z.r % 8 ≠ 0) || decide (g.m < z.r) || decide (z.c % 16 ≠ 0) || decide (g.n < z.c) then some (trapShape d)
    else if !Ty.actFmt g.ty (fmtTy f) || k.planesAhead.2 != sparse || !blkOk f e.off g.k then some (trapShape d)
    else if e.size < z.r * g.k * (fmtTy f).width / 8 then some (k.trapSmall t)
    else none

/-- The command of a multiply as it is queued now. -/
def Core.mulCmd (k : Core) (sparse last : Bool) (str : BitVec 2) (d : Word) (t : Fin 32) : MatCmd :=
  matCmd (.mul sparse last) str d t (k.tile t) (k.tileFmt t)
    (((k.grant).map fun g => elemTouch (k.tileFmt t) (k.tile t).off ((g.region d).r * g.k)).getD []) (k.bindNow.getD 0)

def State.mulIssue (s : State) (sparse last : Bool) (str : BitVec 2) (m : Fin 16) (t : Fin 32) : Eff :=
  let d := vget 0 s.cc.m m.val
  match s.cc.mulTrap sparse d t with
  | some tr => .trap s tr
  | none => s.queueMat (some t) (s.cc.mulCmd sparse last str d t)

def execMmul (c : Ctl) (str : BitVec 2) (last : Bool) (m : Fin 16) (t : Fin 32) (s : State) : Host.Outcome State Fault Refusal :=
  issue (.mmul c str last m t) (fun s => s.mulIssue false last str m t) s

def execMmuls (c : Ctl) (str : BitVec 2) (last : Bool) (m : Fin 16) (t : Fin 32) (s : State) : Host.Outcome State Fault Refusal :=
  issue (.mmuls c str last m t) (fun s => s.mulIssue true last str m t) s

/-- `MZERO` (R184). -/
def execMzero (c : Ctl) (str : BitVec 2) (m : Fin 16) (s : State) : Host.Outcome State Fault Refusal :=
  issue (.mzero c str m) (fun s =>
    s.granted fun g =>
      let d := vget 0 s.cc.m m.val
      if !(g.region d).inside then .trap s (trapShape d)
      else s.queueMat none (matCmd .zero str d 0 ⟨.empty, 0, 0⟩ 0 [] 0)) s

/-- `MDRAIN` (R184): DYN takes RMODE at issue. -/
def execMdrain (c : Ctl) (str : BitVec 2) (ty : Ty) (rnd : Rnd) (sat : Bool) (t : Fin 32) (m : Fin 16) (s : State) : Host.Outcome State Fault Refusal :=
  issue (.mdrain c str ty rnd sat t m) (fun s =>
    s.granted fun g =>
      let d := vget 0 s.cc.m m.val
      let z := g.region d
      let e := s.cc.tile t
      let f := s.cc.tileFmt t
      if !z.inside || Ty.ofCode (bf f 7 0) != some ty || blkSize f != 0 then .trap s (trapShape d)
      else if 8 * e.size < z.r * z.c * ty.width then .trap s (s.cc.trapSmall t)
      else
        let mode := (match rnd with
          | .dyn => (Rnd.ofCode s.cc.x.rmode.toNat).getD .rne
          | r => r)
        s.queueMat (some t) (matCmd (.drain ty mode sat) str d t e f [⟨e.off, e.off + cdiv (z.r * z.c * ty.width) 8, true⟩] 0)) s

/-! ## `MADPT` (R191) -/

/-- ADAPT with its subcode (R194). -/
def trapAdapt (e0 : Word) (sub : Nat) : Trap := ⟨cADAPT, e0, wd sub⟩

def bindPin (w : Word32) : Nat := bf w 24 20
def bindHandle (w : Word32) : Nat := bf w 19 0

/-- Whether a binding word breaks a rule of R191. -/
def Core.badBinding (k : Core) (g : Grant) (w : Word32) : Bool :=
  bt w 31 && (g.ty.intMode || bf w 30 25 != 0 || (match vget none k.pins (bindPin w) with
    | some p => p.handle.toNat != bindHandle w
    | none => true))

/-- The binding words of a tile. -/
def State.bindWords (s : State) (off n : Nat) : List Word32 :=
  (List.range n).map fun i => BitVec.ofNat 32 (leNat (s.readVault s.cur.val (off + 4 * i) 4))

/-- Binding sets that a queued command or the next one uses. -/
def Core.trimBinds (k : Core) : Core :=
  { k with binds := k.binds.filter fun (b : BindSet) => k.bindNow == some b.id || k.matQ.any fun (x : MatCmd) => x.bind == b.id }

/-- New bindings take effect for the commands queued from now on. -/
def Core.bindTo (k : Core) (nbase : Nat) (ws : List Word32) : Core :=
  let id := k.ticket + 1
  let ents := ws.map fun w => (((vget none k.pins (bindPin w)).map Pin.entry).getD 0)
  let k := k.enqueueMat (matCmd (.adpt id) 0 0 0 ⟨.empty, 0, 0⟩ 0 [] 0)
  if ws.isEmpty then ({ k with bindNow := none } : Core).trimBinds
  else ({ k with binds := k.binds ++ [⟨id, nbase, ws, ents, [], [], 0⟩], bindNow := some id } : Core).trimBinds

def execMadpt (c : Ctl) (t : Option (Fin 32)) (b : Fin 32) (s : State) : Host.Outcome State Fault Refusal :=
  issue (.madpt c t b) (fun s =>
    s.granted fun g =>
      let sc := s.rs b
      if bf sc 63 16 ≠ 0 ∨ bf sc 3 0 ≠ 0 then let f := s.takeFree; .trap f.2 (trapShape f.1)
      else match t with
        | none => if s.cc.matFull then .wait s else .done (s.modCC fun k => k.bindTo (bf sc 15 0) []) false
        | some t =>
          let e := s.cc.tile t
          let n := cdiv g.m g.g
          if e.size < 4 * n then .trap s (s.cc.trapSmall t)
          else if e.state ≠ .ready || s.cc.matFull || s.classHeld 0 hereTarget then .wait s
          else match s.vaultBad e.off (4 * n) (ownPtr e.off) with
            | some p => .trap s ⟨p.1, p.2, 0⟩
            | none =>
              let ws := s.bindWords e.off n
              match ws.find? fun w => s.cc.badBinding g w with
              | some w => .trap s (trapAdapt (wd (bindHandle w)) 6)
              | none => .done (s.modCC fun k => ({ k with vault := k.vault.correct e.off (4 * n) } : Core).bindTo (bf sc 15 0) ws) false) s

/-! ## Starting a command (R179, R107) -/

def MatCmd.isLoad (x : MatCmd) : Bool := match x.op with | .load _ => true | _ => false
def MatCmd.isSwap (x : MatCmd) : Bool := match x.op with | .swap => true | _ => false
def MatCmd.isAdpt (x : MatCmd) : Bool := match x.op with | .adpt _ => true | _ => false
def MatCmd.isMul (x : MatCmd) : Bool := match x.op with | .mul _ _ => true | _ => false
def MatCmd.isLast (x : MatCmd) : Bool := match x.op with | .mul _ l => l | _ => false

/-- Commands that carry a stream. -/
def MatCmd.streamed (x : MatCmd) : Bool := !(x.isLoad || x.isSwap || x.isAdpt)

def Core.region (k : Core) (x : MatCmd) : Region :=
  match k.grant with
  | some g => g.region x.region
  | none => ⟨0, 0, 0, 0⟩

/-- Whether every pass of a multiply is done. -/
def Core.passesDone (k : Core) (x : MatCmd) : Bool := decide ((k.region x).r ≤ 8 * x.pass)

/-- Whether a queued command may start. -/
def Core.matReady (k : Core) (x : MatCmd) : Bool :=
  let ear := k.matQ.filter fun (y : MatCmd) => decide (y.ticket < x.ticket)
  !x.started && !k.rangeHeld x.ticket x.ranges &&
    (match x.op with
     | .load _ => !(ear.any fun y => y.isLoad || y.isSwap || y.isAdpt)
     | .swap => !(ear.any fun y => y.isLoad || y.isSwap || (y.isMul && !k.passesDone y))
     | .mul _ _ => !(ear.any fun y => y.isSwap || y.isAdpt || (y.streamed && y.stream == x.stream))
     | .zero => !(ear.any fun y => y.streamed && y.stream == x.stream)
     | .drain _ _ _ => !(ear.any fun y => y.streamed && y.stream == x.stream)
     | .adpt _ => true)

def Core.matCmd? (k : Core) (n : Nat) : Option MatCmd := k.matQ.find? fun (x : MatCmd) => x.ticket == n

def Core.modMat (k : Core) (n : Nat) (f : MatCmd → MatCmd) : Core :=
  { k with matQ := modFirst (fun x => x.ticket == n) f k.matQ }

/-- A command leaves the queue. -/
def Core.dropMat (k : Core) (n : Nat) : Core :=
  ({ k with matQ := k.matQ.filter fun (x : MatCmd) => x.ticket != n } : Core).trimBinds

/-- A queued command starts; `MADPT` has nothing left to do. -/
def State.matExecute (s : State) (c n : Nat) : State :=
  match (s.core c).matCmd? n with
  | none => s
  | some x =>
    if !(s.core c).matReady x then s
    else if x.isAdpt then s.modCore c fun k => k.dropMat n
    else s.modCore c fun k => k.modMat n fun x => { x with started := true, since := s.cycle }

def execMatrixCommandExecute (core : CoreId) (n : Nat) (s : State) : Host.Outcome State Fault Refusal :=
  .next (s.matExecute core.val n)

/-! ## Errors on path M (R138, R166, R174, R247) -/

/-- The array consumes poison: the phase rolls back, or the command ends in an engine error. -/
def State.matError (s : State) (c n : Nat) (cause : BitVec 8) (addr : Word) : State :=
  match (if cause = cPOISON ∨ cause = cINTEG then s.rollsBack c else none) with
  | some ph => (s.rollback c ph).freezeOn cause
  | none =>
    let s := if cause = cPOISON ∨ cause = cINTEG then s.phasePoison c .xs addr else s
    (s.engineError (s.launchOn c).owner c 3 cause none addr).modCore c fun k => k.dropMat n

/-! ## The side path (R190 to R194) -/

def Core.bindOf (k : Core) (x : MatCmd) : Option BindSet := k.binds.find? fun (b : BindSet) => b.id == x.bind

/-- The bound row groups of a multiply. -/
def Core.boundGroups (k : Core) (x : MatCmd) : List Nat :=
  match k.bindOf x, k.grant with
  | some b, some g => (List.range b.words.length).filter fun i => bt (b.words.getD i 0) 31 && decide (i * g.g < (k.region x).r)
  | _, _ => []

/-- Whether the side work of a group is done in a command. -/
def MatCmd.groupDone (x : MatCmd) (g : Nat) : Bool :=
  x.dropped.contains g || (x.sideDone.contains g && (!x.isLast || x.lastDone.contains g))

/-- Whether the side work of a group has its turn (R191): the side path serves the commands in queue order,
whatever their streams. A group that waits for its page holds back no other stream (R193), only the same group of
its own bindings. -/
def Core.sideTurn (k : Core) (x : MatCmd) (g : Nat) : Bool :=
  !(k.matQ.any fun (y : MatCmd) => decide (y.ticket < x.ticket) && y.isMul &&
      (k.boundGroups y).any fun h => !y.groupDone h && ((y.bind == x.bind && h == g) || !(y.held.any fun q => q.g == h)))

/-- Rows of a group in a command. -/
def groupRows (size r g : Nat) : List Nat := ((List.range size).map fun i => g * size + i).filter fun i => decide (i < r)

/-- Whether every block of a page is in the adapter caches. -/
def APage.whole (p : APage) : Bool := (blocksOf p.pa p.len).all fun b => p.blocks.any fun x => x.1 == b

def APage.is (p : APage) (h : BitVec 20) (v : BitVec 16) (pageB : Bool) : Bool := p.handle == h && p.ver == v && p.pageB == pageB

/-- Whether a page is in the adapter caches. -/
def State.cachedPage (s : State) (h : BitVec 20) (v : BitVec 16) (pageB : Bool) : Bool :=
  s.acache.any fun p => p.is h v pageB && p.whole

/-- A page that is used becomes the most recent. -/
def State.touchPage (s : State) (h : BitVec 20) (v : BitVec 16) (pageB : Bool) : State :=
  { s with acache := s.acache.filter (fun p => !p.is h v pageB) ++ s.acache.filter fun p => p.is h v pageB }

/-- Whether a page is in the adapter caches of a launch, or has been fetched for a held group. A launch that was admitted
while ACWAYS was 0 has none (R128, R243). -/
def State.pageHere (s : State) (l : Launch) (x : MatCmd) (g : Nat) (h : BitVec 20) (v : BitVec 16) (pageB : Bool) : Bool :=
  (l.cfg.acWays != 0 && s.cachedPage h v pageB) || x.held.any fun q => q.g == g && q.pageB == pageB && q.got

/-- Asks for a page that is not on its way: its requests carry the class and stamp of the launch (R130). -/
def State.askPage (s : State) (l : Launch) (h : BitVec 20) (e : Line) (pageB : Bool) (hint : Option Nat) : State :=
  let p := entPage e pageB
  if s.afetch.any fun f => f.handle == h && f.ver == entVer e && f.pageB == pageB then s
  else
    let s := { s with afetch := s.afetch ++ [⟨h, entVer e, pageB, p.1, p.2, hint, l.id, l.gathTag, false⟩] }
    (splitPages p.1 p.2).foldl (fun s a => s.launchRequest l l.fn a.1 a.2) s

/-- A group of a command is held back for a page; its timer started with its first miss. -/
def State.holdGroup (s : State) (c n g : Nat) (h : BitVec 20) (e : Line) (pageB : Bool) : State :=
  let s := s.askPage (s.launchOn c) h e pageB none
  s.modCore c fun k =>
    match k.matCmd? n with
    | none => k
    | some x =>
      match x.held.find? fun q => q.g == g with
      | none => (k.countEv 8 1).modMat n fun x => { x with held := x.held ++ [⟨g, h, entVer e, pageB, s.cycle, false⟩] }
      | some q =>
        if q.pageB = pageB then k
        else (k.countEv 8 1).modMat n fun x => { x with held := x.held.map fun q => if q.g == g then { q with pageB := pageB, got := false } else q }

def Core.modBind (k : Core) (id : Nat) (f : BindSet → BindSet) : Core :=
  { k with binds := modFirst (fun b => b.id == id) f k.binds }

/-- The side pass of a group: `xa` of its rows gains the products with A, and the cursor moves on. -/
def State.sidePass (s : State) (c : Nat) (x : MatCmd) (g : Grant) (b : BindSet) (grp : Nat) : State :=
  let e := b.ents.getD grp 0
  let h : BitVec 20 := BitVec.ofNat 20 (bindHandle (b.words.getD grp 0))
  let cur := SMap.get 0 b.cursors grp
  let xa := (groupRows g.g (g.region x.region).r grp).foldl (fun m i =>
    let row := s.actRow c x g i
    (List.range (entQ e)).foldl (fun m j =>
      SMap.set 0 m (64 * i + j) (sideValue (SMap.get 0 m (64 * i + j)) row ((List.range g.k).map fun kk => s.factorA h e (cur + kk) j))) m) b.xa
  let w := g.k * (fmtTy x.fmt).width
  let sec := (groupRows g.g (g.region x.region).r grp).foldl (fun m i =>
    if (s.vault c).secure (x.off + i * w / 8) (cdiv w 8) then setBit m i true else m) b.sec
  s.modCore c fun k =>
    (k.modBind b.id fun b => { b with xa := xa, sec := sec, cursors := if x.isLast then b.cursors else SMap.set 0 b.cursors grp (cur + g.k) }).modMat
      x.ticket fun x => { x with sideDone := x.sideDone ++ [grp], held := if x.isLast then x.held else x.held.filter fun q => q.g != grp }

/-- Clears the side values of a group's rows and its cursor. -/
def BindSet.clearGroup (b : BindSet) (size grp : Nat) : BindSet :=
  { b with
    xa := b.xa.filter fun e => e.1 / 64 / size != grp
    cursors := SMap.set 0 b.cursors grp 0 }

/-- The correction of a group (`SidePathLast`). -/
def State.sideLast (s : State) (c : Nat) (x : MatCmd) (g : Grant) (b : BindSet) (grp : Nat) : State :=
  let e := b.ents.getD grp 0
  let h : BitVec 20 := BitVec.ofNat 20 (bindHandle (b.words.getD grp 0))
  let z := g.region x.region
  s.modCore c fun k =>
    let k := (groupRows g.g z.r grp).foldl (fun k i =>
      let xa := (List.range (entQ e)).map fun j => (fmtOf .fa56).value (SMap.get 0 b.xa (64 * i + j)).toNat
      (List.range z.c).foldl (fun k n =>
        let bs := (List.range (entQ e)).map fun j => s.factorB h e j (b.nbase + n)
        k.setAcc (z.r0 + i) (z.c0 + n) (addFa (k.accAt (z.r0 + i) (z.c0 + n)) (correction (entAlpha e) xa bs))) (k.markAcc [z.r0 + i] (bt b.sec i))) k
    (k.modBind b.id fun b => b.clearGroup g.g grp).modMat x.ticket fun x =>
      { x with lastDone := x.lastDone ++ [grp], held := x.held.filter fun q => q.g != grp }

/-- What a group of a command can do now: its pass when its rows' base sums are done, its correction when
all passes are, each when its page is here and its turn has come. -/
def State.sideGroup (s : State) (c n grp : Nat) : State :=
  match (s.core c).matCmd? n, (s.core c).grant with
  | some x, some g =>
    match (s.core c).bindOf x with
    | none => s
    | some b =>
      let e := b.ents.getD grp 0
      let h : BitVec 20 := BitVec.ofNat 20 (bindHandle (b.words.getD grp 0))
      if x.groupDone grp || !(s.core c).sideTurn x grp || decide (8 * x.pass ≤ grp * g.g) then s
      else if !x.sideDone.contains grp then
        if s.pageHere (s.launchOn c) x grp h (entVer e) false then (s.touchPage h (entVer e) false).sidePass c x g b grp else s.holdGroup c n grp h e false
      else if !(s.core c).passesDone x then s
      else if s.pageHere (s.launchOn c) x grp h (entVer e) true then (s.touchPage h (entVer e) true).sideLast c x g b grp else s.holdGroup c n grp h e true
  | _, _ => s

/-- A multiply whose passes and groups are all done retires. -/
def State.mulRetire (s : State) (c n : Nat) : State :=
  match (s.core c).matCmd? n with
  | none => s
  | some x =>
    let k := s.core c
    if x.isMul && x.started && k.passesDone x && (k.boundGroups x).all x.groupDone then s.modCore c fun k => k.dropMat n else s

/-- All side work that a command can do now: first the passes, then the corrections. -/
def State.sideRun (s : State) (c n : Nat) : State :=
  match (s.core c).matCmd? n with
  | none => s
  | some x =>
    let gs := (s.core c).boundGroups x
    let s := gs.foldl (fun s g => s.sideGroup c n g) s
    (gs.foldl (fun s g => s.sideGroup c n g) s).mulRetire c n

def execSidePathLast (core : CoreId) (n : Nat) (s : State) : Host.Outcome State Fault Refusal := .next (s.sideRun core.val n)

/-! ## Passes and ends (R183 to R185) -/

/-- One pass of a multiply. -/
def State.matPass (s : State) (c n : Nat) : State :=
  match (s.core c).matCmd? n, (s.core c).grant with
  | some x, some g =>
    let z := g.region x.region
    let w := (fmtTy x.fmt).width
    let from_ := 8 * x.pass * g.k * w / 8
    let reads := elemReads x.fmt x.off (8 * x.pass * g.k) (8 * g.k)
    if !x.isMul || !x.started || (s.core c).passesDone x || decide (s.cycle < x.since + 8 + 8 * (x.pass + 1) * cdiv z.c 64) then s
    else if reads.any fun r => (s.vault c).bad r.1 r.2 then s.matError c n cPOISON (ownPtr (x.off + from_))
    else
      let sec := reads.any (fun r => (s.vault c).secure r.1 r.2) || ((s.core c).active.map Plane.sec).getD false
      let s := (reads.foldl (fun s r => s.modVault c fun v => v.correct r.1 r.2) s).passSums c x g z
      let s := s.modCore c fun k => ((k.markAcc ((List.range 8).map fun i => z.r0 + 8 * x.pass + i) sec).countEv 4 1).modMat n
        fun x => { x with pass := x.pass + 1 }
      s.sideRun c n
  | _, _ => s

def execMatrixPass (core : CoreId) (n : Nat) (s : State) : Host.Outcome State Fault Refusal := .next (s.matPass core.val n)

/-- Bank rows that some bytes lie in. -/
def rowSpan (off n : Nat) : Nat := (off + max n 1 - 1) / 256 + 1 - off / 256

/-- Bank rows that `MLOAD` reads (Table 11.2). -/
def MatCmd.loadRows (x : MatCmd) (g : Grant) (sp : Bool) : Nat :=
  let ty := fmtTy x.fmt
  let e := planeElems g.n g.k sp
  if ty == .bpi then rowSpan x.off (bf x.fmt 19 16 * e / 8) + rowSpan (x.off + e) (planeBytes ty g.n g.k sp - e)
  else rowSpan x.off (planeBytes ty g.n g.k sp)

/-- Execution time of a command (Table 11.2). -/
def MatCmd.time (x : MatCmd) (g : Grant) : Nat :=
  let z := g.region x.region
  match x.op with
  | .load sp => 8 + 2 * (x.loadRows g sp - 1)
  | .swap => 2
  | .zero => z.r * cdiv z.c 64
  | .drain _ _ _ => 8 + z.r * cdiv z.c 64
  | _ => 0

/-- `MLOAD` ends: the shadow plane holds the tile's weights. -/
def State.loadEnd (s : State) (c : Nat) (x : MatCmd) (g : Grant) (sp : Bool) : State :=
  if (planeReads x.fmt x.off g sp).any fun r => (s.vault c).bad r.1 r.2 then s.matError c x.ticket cPOISON (ownPtr x.off)
  else
    let p := s.planeAt c x.fmt x.off g sp
    let s := (planeReads x.fmt x.off g sp).foldl (fun s r => s.modVault c fun v => v.correct r.1 r.2) s
    s.modCore c fun k => ({ k with shadow := some p } : Core).dropMat x.ticket

/-- The region set to zero. -/
def Core.zeroRegion (k : Core) (z : Region) : Core :=
  { k with acc := vmapi k.acc fun i row =>
      if z.r0 ≤ i ∧ i < z.r0 + z.r then vmapi row fun j a => if z.c0 ≤ j ∧ j < z.c0 + z.c then 0 else a else row }

/-- One element of a drain: its pattern and flags, and the column's generator after it. -/
def Core.drainElem (k : Core) (g : Grant) (ty : Ty) (rnd : Rnd) (sat : Bool) (i j : Nat) : Nat × Flags × Word32 :=
  let src : Ty := if g.ty.intMode then .i56 else .fa56
  let gen := vget 0 k.mgen j
  let gen' := if rnd = .sr && convRounds src ty then genNext gen else gen
  let r := convert ty rnd sat g.ty.intMode (genDraw gen') (Ty.value src (k.accAt i j).toNat)
  (r.1, r.2, gen')

/-- Drains a region in ascending row order: patterns, flags and the generators after. -/
def Core.drainAll (k : Core) (g : Grant) (z : Region) (ty : Ty) (rnd : Rnd) (sat : Bool) : List Nat × Flags × Core :=
  (List.range (z.r * z.c)).foldl (fun (a : List Nat × Flags × Core) n =>
    let j := z.c0 + n % z.c
    let r := a.2.2.drainElem g ty rnd sat (z.r0 + n / z.c) j
    (a.1 ++ [r.1], a.2.1 ||| r.2.1, { a.2.2 with mgen := vset a.2.2.mgen j r.2.2 })) ([], 0, k)

/-- Patterns packed into bytes, element 0 lowest. -/
def packBytes (w : Nat) (xs : List Nat) : List Byte :=
  if w = 4 then (List.range (cdiv xs.length 2)).map fun i => BitVec.ofNat 8 (xs.getD (2 * i) 0 % 16 + 16 * (xs.getD (2 * i + 1) 0 % 16))
  else xs.flatMap fun x => leBytes (w / 8) x

/-- A drain reads its region: the bytes that its tile takes wait to be written, and the generators move on. The layout of a drained bpi tile is not
stated: its bytes are free (log 16). -/
def State.drainRead (s : State) (c : Nat) (x : MatCmd) (g : Grant) (ty : Ty) (rnd : Rnd) (sat : Bool) : State :=
  let z := g.region x.region
  let r := (s.core c).drainAll g z ty rnd sat
  let sec := (List.range z.r).any fun i => bt (s.core c).accSec (z.r0 + i)
  if sec && !(s.launchOn c).flagS then s.matError c x.ticket cWORLD (ownPtr x.off)
  else
    let w := if ty = .bpi then s.freeBytes (z.r * z.c) else (packBytes ty.width r.1, s)
    w.2.setCore c { r.2.2.modMat x.ticket fun x => { x with out := some (x.off, w.1, sec) } with
      x := { r.2.2.x with drained := r.2.2.x.drained ++ [⟨x.ticket, s.cycle, r.2.1⟩] } }

/-- The next bank row of a drained tile is written (R99). With the last one `MDRAIN` ends; its flags reach VSTAT, where a
`WAITMK` lets them be read (R82). -/
def State.drainRow (s : State) (c : Nat) (x : MatCmd) (w : Nat × List Byte × Bool) : State :=
  let k := pieceOf (ownPtr w.1) 0 w.2.1.length
  let t := s.writeVault c w.1 (w.2.1.take k) w.2.2
  if k < w.2.1.length then t.modCore c fun q => q.modMat x.ticket fun x => { x with out := some (w.1 + k, w.2.1.drop k, w.2.2) }
  else t.modCore c fun q =>
    { q.dropMat x.ticket with x := { q.x with drained := q.x.drained.map fun d => if d.ticket = x.ticket then { d with due := s.cycle } else d } }

/-- `MDRAIN` goes on: it reads its region and writes the first bank row of its tile, or writes the next. -/
def State.drainEnd (s : State) (c : Nat) (x : MatCmd) (g : Grant) (ty : Ty) (rnd : Rnd) (sat : Bool) : State :=
  match x.out with
  | some w => s.drainRow c x w
  | none =>
    let t := s.drainRead c x g ty rnd sat
    match ((t.core c).matCmd? x.ticket).bind MatCmd.out with
    | some w => t.drainRow c x w
    | none => t

/-- A started command other than a multiply ends after its time. -/
def State.matFinish (s : State) (c n : Nat) : State :=
  match (s.core c).matCmd? n, (s.core c).grant with
  | some x, some g =>
    if !x.started || decide (s.cycle < x.since + x.time g) then s
    else match x.op with
      | .load sp => s.loadEnd c x g sp
      | .swap => s.modCore c fun k => ({ k with shadow := k.active, active := k.shadow } : Core).dropMat n
      | .zero => s.modCore c fun k => (k.zeroRegion (g.region x.region)).dropMat n
      | .drain ty rnd sat => s.drainEnd c x g ty rnd sat
      | .mul _ _ => s
      | .adpt _ => s
  | _, _ => s

def execMatrixCommandFinish (core : CoreId) (n : Nat) (s : State) : Host.Outcome State Fault Refusal :=
  .next (s.matFinish core.val n)

end Sys2Proof.Machine
end

