-- ==== Sys2Proof/Machine/Adapter.lean ====
section
/-! DEFINITION. Adapter instructions (group 0x9), factor pages and pins: R128, R188 to R190, R193 to R196,
R198, R301. -/

namespace Sys2Proof.Machine

/-! ## The translation table (R188) -/

/-- The table's place is that of the registers when the launch was admitted (R243). -/
def LaunchCfg.attAddr (g : LaunchCfg) (h : Nat) : Nat := g.attBase.toNat + 64 * h

/-- The entry of a handle; `none` for a handle at or beyond the number of entries. -/
def State.attEntry (s : State) (g : LaunchCfg) (h : Nat) : Option Line :=
  if h < g.attCnt.toNat then some (lineOf (s.readPhys 0 false (g.attAddr h) 64)) else none

/-- Whether an entry is one that a binding may name. -/
def entOk (e : Line) : Bool := entV e && entFfmt e != 3

/-- An access to the table at the entry's home station, for the acting launch (R65, R127, R130). -/
def State.attUse (s : State) (wr : Bool) (a : Nat) : State :=
  s.useLine ⟨0, 0, s.lc.gathTag⟩ s.lc.fn s.lc (some s.cur.val) wr a

/-- Writes bytes of the table at the entry's home. -/
def State.attWrite (s : State) (a : Nat) (bs : List Byte) : State := (s.attUse true a).writeDirect 0 a bs

/-! ## `AXLT` (R189, R198) -/

/-- A pin that another translation of a handle and version can share. -/
def Core.sharedPin (k : Core) (h : Nat) (ver : BitVec 16) : Option Nat :=
  (List.range 32).find? fun i => match vget none k.pins i with
    | some p => p.handle.toNat == h && entVer p.entry == ver && decide (p.count < 65535)
    | none => false

/-- The lowest-numbered free pin. -/
def Core.freePin (k : Core) : Option Nat := (List.range 32).find? fun i => (vget none k.pins i).isNone

/-- Pins an entry: the pin's number and the core. -/
def Core.takePin (k : Core) (h : Nat) (e : Line) : Option (Nat × Core) :=
  match k.sharedPin h (entVer e) with
  | some i => some (i, { k with pins := vset k.pins i ((vget none k.pins i).map fun p => { p with count := p.count + 1 }) })
  | none => (k.freePin).map fun i => (i, { k with pins := vset k.pins i (some ⟨BitVec.ofNat 20 h, e, 1⟩) })

/-- A binding word. -/
def bindWord (pin h : Nat) : Nat := 2 ^ 31 + 2 ^ 20 * pin + h

/-- The quota is spent. -/
def State.spendQuota (s : State) (h : Nat) (e : Line) : State :=
  if entQuota e = BitVec.allOnes 64 then s else s.attWrite (s.lc.cfg.attAddr h + 8) (wordBytes (entQuota e - 1))

def execAxlt (c : Ctl) (a : Fin 32) (off : Word32) (h : Fin 32) (s : State) : Host.Outcome State Fault Refusal :=
  issue (.axlt c a off h) (fun s =>
    let p := s.addr a off
    let sh := s.rs h
    let n := bf sh 19 0
    if bf p 1 0 ≠ 0 then .trap s (trapAlign p true)
    else match s.ownVault s.cur.val p 4 true with
      | .inl _ => .trap s (trapFoot p true)
      | .inr o =>
        if bf sh 63 20 ≠ 0 then .trap s (trapAdapt (wd n) 1)
        else if s.classHeld 0 hereTarget then .wait s
        else if n = 0 then .done (s.writeVault s.cur.val o (leBytes 4 0) false) false
        else match s.attEntry s.lc.cfg n with
          | none => .trap s (trapAdapt (wd n) 1)
          | some e =>
            match s.poisonAt (s.lc.cfg.attAddr n) 64 with
            | some integ => .trap (s.attUse false (s.lc.cfg.attAddr n)) ⟨if integ then cINTEG else cPOISON, wd (s.lc.cfg.attAddr n), 0⟩
            | none =>
              let s := s.attUse false (s.lc.cfg.attAddr n)
              if !entOk e then .trap s (trapAdapt (wd n) 1)
              else if entOwner e ≠ s.lc.owner.toNat then .trap s (trapAdapt (wd n) 2)
              else if entQuota e = 0 then .trap s (trapAdapt (wd n) 3)
              else match s.cc.takePin n e with
                | none => .trap s (trapAdapt (wd n) 7)
                | some r => .done (((s.modCC fun _ => r.2).spendQuota n e).writeVault s.cur.val o (leBytes 4 (bindWord r.1 n)) false) false) s

/-! ## `AUNPIN` (R190) -/

/-- Whether a queued command's bindings name a pin. -/
def Core.pinInUse (k : Core) (i : Nat) : Bool :=
  k.matQ.any fun (x : MatCmd) => match k.bindOf x with
    | some b => b.words.any fun w => bt w 31 && bindPin w == i
    | none => false

/-- Frees a pin whose count is 0 and which no queued command's bindings name. -/
def Core.pinFree (k : Core) (i : Nat) : Core :=
  match vget none k.pins i with
  | some p => if p.count = 0 && !k.pinInUse i then { k with pins := vset k.pins i none } else k
  | none => k

/-- The count of a pin goes down by one. -/
def Core.unpin (k : Core) (i : Nat) : Core :=
  ({ k with pins := vset k.pins i ((vget none k.pins i).map fun p => { p with count := p.count - 1 }) } : Core).pinFree i

/-- Whether a binding word names a pin of its handle that is counted. -/
def Core.bound (k : Core) (w : Word32) : Bool :=
  match vget none k.pins (bindPin w) with
  | some p => p.handle.toNat == bindHandle w && decide (1 ≤ p.count)
  | none => false

def execAunpin (c : Ctl) (b : Fin 32) (s : State) : Host.Outcome State Fault Refusal :=
  issue (.aunpin c b) (fun s =>
    let v := s.rs b
    let w : Word32 := v.setWidth 32
    if bf v 63 32 ≠ 0 then .trap s (trapAdapt v 6)
    else if !bt w 31 then .done s false
    else if !s.cc.bound w then .trap s (trapAdapt (wd (bindHandle w)) 6)
    else .done (s.modCC fun k => k.unpin (bindPin w)) false) s

def execPinFree (core : CoreId) (pin : Fin 32) (s : State) : Host.Outcome State Fault Refusal :=
  .next (s.modCore core.val fun k => k.pinFree pin.val)

/-! ## Prefetch (R50, R126, R128, R195) -/

/-- Whether a page would fault: it lies outside HBM and CXL or across two of their windows, or is poisoned. -/
def State.pageFaults (s : State) (e : Line) (pageB : Bool) : Bool :=
  let p := entPage e pageB
  !inOneWindow p.1 p.2 || (s.poisonAt p.1 p.2).isSome

/-- Asks for both factors of a handle for a launch; a hint that fails is dropped and counted. -/
def State.prefAdapter (s : State) (l : Launch) (w : Word) : State :=
  if bf w 63 20 ≠ 0 then s.dropHint l.fn
  else if w = 0 then s
  else match s.attEntry l.cfg w.toNat with
    | none => s.dropHint l.fn
    | some e =>
      if !entOk e || entOwner e != l.owner.toNat || l.cfg.acWays == 0 || s.acWays == 0 || s.pageFaults e false || s.pageFaults e true then s.dropHint l.fn
      else
        let h : BitVec 20 := w.setWidth 20
        let s := if s.cachedPage h (entVer e) false then s else s.askPage l h e false (some l.fn)
        if s.cachedPage h (entVer e) true then s else s.askPage l h e true (some l.fn)

def execApref (c : Ctl) (h : Fin 32) (s : State) : Host.Outcome State Fault Refusal :=
  issue (.apref c h) (fun s => .done (s.prefAdapter s.lc (s.rs h)) false) s

/-! ## Publication (R196) -/

/-- Whether a staged entry may take the place of the current one. -/
def publishOk (cur new : Line) : Bool :=
  entZeros new && entV new && entOwner new == entOwner cur && entVer new == entVer cur + 1

/-- The staged entry with the current quota. -/
def published (cur new : Line) : List Byte :=
  wordBytes (lineWord new 0) ++ wordBytes (entQuota cur) ++ (lineBytes new).drop 16

/-- The pages of an entry are encrypted under its handle's key for its version (R136, R188); those of the entry that a
publication replaces keep the key that they were written under. An entry that is not valid has none. -/
def State.keyPages (s : State) (h : BitVec 20) (e : Line) : State :=
  if !entV e then s else
  let bs := blocksOf (entPage e false).1 (entPage e false).2 ++ blocksOf (entPage e true).1 (entPage e true).2
  { s with adaptKeys := bs.foldl (fun m b => SMap.insert m b (entKey h e)) s.adaptKeys }

/-- The PERM of a launch flagged D ranks after ALIGN, XLATE and RSVD (R227, R251). -/
def State.pairedAfter {α : Type} (s : State) (p : Word) (a : Acc α) : Acc α :=
  match a with
  | .trap u t => .trap u (if s.lc.flagD && !(t.cause == cXLATE || t.cause == cRSVD) then trapPaired p else t)
  | .miss u f g => .miss u f g
  | .ok t x => if s.lc.flagD then .trap t (trapPaired p) else .ok t x

def execApub (c : Ctl) (a : Fin 32) (off : Word32) (h : Fin 32) (s : State) : Host.Outcome State Fault Refusal :=
  issue (.apub c a off h) (fun s =>
    let p := s.addr a off
    let sh := s.rs h
    let n := bf sh 19 0
    if bf p 5 0 ≠ 0 then .trap s (trapAlign p false)
    else if bf p 63 57 ≠ 0 then .trap s (trapForm p false)
    else if !s.allPerformed then .wait s
    else (s.pairedAfter p (s.readGlobal (s.mcur c) p 64)).eff s fun t got =>
      match got.bad with
      | some b => .trap t ⟨b.1, b.2, 0⟩
      | none =>
        match (if bf sh 63 20 = 0 ∧ n ≠ 0 then s.attEntry s.lc.cfg n else none) with
        | none => .trap t (trapAdapt (wd n) 8)
        | some cur =>
          if publishOk cur (lineOf got.bytes) then
            .done (((t.keyPages (BitVec.ofNat 20 n) cur).attWrite (s.lc.cfg.attAddr n) (published cur (lineOf got.bytes))).keyPages
              (BitVec.ofNat 20 n) (lineOf got.bytes)) false
          else .trap t (trapAdapt (wd n) 8)) s

/-! ## Factor pages (R128, R193) -/

/-- A failed group of a command: its correction is not added, its side values are discarded, and the XS
is told. -/
def State.dropGroup (s : State) (c n grp sub : Nat) : State :=
  match (s.core c).matCmd? n, (s.core c).grant with
  | some x, some g =>
    match (s.core c).bindOf x with
    | none => s
    | some b =>
      let word := b.words.getD grp 0
      let cur := if x.isLast then 0 else SMap.get 0 b.cursors grp + (if x.sideDone.contains grp then 0 else g.k)
      let s := s.modCore c fun k =>
        (k.modBind b.id fun b => { b.clearGroup g.g grp with cursors := SMap.set 0 b.cursors grp cur }).modMat n fun x =>
          { x with dropped := x.dropped ++ [grp], held := x.held.filter fun q => q.g != grp }
      s.reportTo c .xs ⟨cADAPT, word.setWidth 64, wd (sub + 16)⟩
  | _, _ => s

/-- The groups of a core's commands that wait for a page: ticket and group. -/
def Core.waitingFor (k : Core) (h : BitVec 20) (v : BitVec 16) (pageB : Bool) : List (Nat × Nat) :=
  k.matQ.flatMap fun (x : MatCmd) => (x.held.filter fun q => q.handle == h && q.ver == v && q.pageB == pageB).map fun q => (x.ticket, q.g)

/-- A good page reaches the groups of a core that wait for it. -/
def State.pageTo (s : State) (c : Nat) (h : BitVec 20) (v : BitVec 16) (pageB : Bool) : State :=
  let ws := (s.core c).waitingFor h v pageB
  let s := s.modCore c fun k => { k with matQ := k.matQ.map fun (x : MatCmd) =>
    { x with held := x.held.map fun q => if q.handle == h && q.ver == v && q.pageB == pageB then { q with got := true } else q } }
  (ws.map Prod.fst).eraseDups.foldl (fun s n => s.sideRun c n) s

/-- A bad page: the phase of a launch flagged H rolls back, or the groups that wait for it fail and path A records
an engine error (R138, R167, R247); no pointer names the page. -/
def State.pageFails (s : State) (c : Nat) (h : BitVec 20) (v : BitVec 16) (pageB : Bool) (cause : BitVec 8) : State :=
  let ws := (s.core c).waitingFor h v pageB
  if ws.isEmpty then s
  else match s.rollsBack c with
    | some ph => (s.rollback c ph).freezeOn cause
    | none =>
      let s := (s.phasePoison c .xs 0).engineError (s.launchOn c).owner c 4 cause none 0
      let s := ws.foldl (fun s w => s.dropGroup c w.1 w.2 5) s
      (ws.map Prod.fst).eraseDups.foldl (fun s n => s.sideRun c n) s

/-- Places a block in the adapter cache of its home leaf (R128): in a free adapter way of its set, else in the
way of the least recently used page that holds one there. `none`: the set has no adapter way. -/
def State.placeBlock (s : State) (b : Nat) : Option (List APage × Nat) :=
  let leaf := homeLeaf (256 * b)
  let set := mscSetOf (256 * b)
  let ways := (List.range (s.adapterWays leaf set)).map fun i => mscWays - s.acWays + i
  let here (x : Nat × Nat) : Bool := homeLeaf (256 * x.1) == leaf && mscSetOf (256 * x.1) == set
  match ways.find? fun w => !(s.acache.any fun p => p.blocks.any fun x => here x && x.2 == w) with
  | some w => some (s.acache, w)
  | none =>
    match (s.acache.flatMap APage.blocks).find? fun x => here x && ways.contains x.2 with
    | some x => some (s.acache.map fun p => { p with blocks := p.blocks.filter fun y => y != x }, x.2)
    | none => none

/-- Keeps the blocks of a page that has arrived, as far as its sets have adapter ways. -/
def State.keepPage (s : State) (f : AFetch) : State :=
  let s := { s with acache := (s.acache.filter fun p => !p.is f.handle f.ver f.pageB && !p.blocks.isEmpty) ++
    [⟨f.handle, f.ver, f.pageB, f.pa, f.len, f.gath, []⟩] }
  (blocksOf f.pa f.len).foldl (fun s b =>
    match s.placeBlock b with
    | none => s
    | some r => { s with acache := modFirst (fun p => p.is f.handle f.ver f.pageB) (fun p => { p with blocks := p.blocks ++ [(b, r.2)] }) r.1 }) s

/-- The blocks of a page that its read finds poisoned, and all of them where it fails its MAC, are poisoned from then on,
and an event on the owner's ring says so (R138, R242). -/
def State.poisonPage (s : State) (f : AFetch) (o : PageOutcome) : State :=
  let bs := blocksOf f.pa f.len
  let l := (s.launch? f.launch).getD Launch.blank
  let put (s : State) (integ : Bool) : State := { s with memPois := bs.foldl (fun m b =>
    if (SMap.find? m b).isSome then m else SMap.insert m b ⟨integ, BitVec.allOnes 256⟩) s.memPois }
  let s := match o with
    | .good => s
    | .macFail => put s true
    | .poisoned => put s false
  match bs.find? fun b => (SMap.find? s.memPois b).isSome with
  | some b => s.reportPoison l.fn l none b
  | none => s

/-- A page that was asked for arrives. Its memory may itself be poisoned (R138), or be gone (R134); a prefetch that
brings a bad page which nobody waits for is dropped and counted (R195). -/
def State.pageArrive (s : State) (h : BitVec 20) (v : BitVec 16) (pageB : Bool) (o : PageOutcome) : State :=
  match s.afetch.find? fun f => f.handle == h && f.ver == v && f.pageB == pageB with
  | none => s
  | some f =>
    let s := ({ s with afetch := s.afetch.filter fun x => x != f } : State).poisonPage f o
    let bad := if o == .macFail || s.poisonAt f.pa f.len == some true then some cINTEG
      else if o == .poisoned || f.lost || s.poisonAt f.pa f.len == some false then some cPOISON else none
    match bad with
    | none => (List.range 384).foldl (fun s c => s.pageTo c h v pageB) (s.keepPage f)
    | some cause =>
      let waited := (List.range 384).any fun c => !((s.core c).waitingFor h v pageB).isEmpty
      let s := match f.hint with
        | some fn => if waited then s else s.dropHint fn
        | none => s
      (List.range 384).foldl (fun s c => s.pageFails c h v pageB cause) s

def execAdapterPageArrive (h : BitVec 20) (ver : BitVec 16) (pageB : Bool) (o : PageOutcome) (s : State) : Host.Outcome State Fault Refusal :=
  .next (s.pageArrive h ver pageB o)

/-- Slots of the timer of R193. -/
def pageLimit : Nat := 50 * slotsPerUs

/-- The groups of a command whose timer has run out fail. -/
def State.pageTimeout (s : State) (c n : Nat) : State :=
  match (s.core c).matCmd? n with
  | none => s
  | some x =>
    let late := x.held.filter fun q => decide (q.since + pageLimit ≤ s.cycle)
    if late.isEmpty then s
    else (late.foldl (fun s q => s.dropGroup c n q.g 4) s).sideRun c n

def execAdapterPageTimeout (core : CoreId) (n : Nat) (s : State) : Host.Outcome State Fault Refusal :=
  .next (s.pageTimeout core.val n)

end Sys2Proof.Machine
end

