-- ==== Sys2Proof/Machine/Control.lean ====
section
/-! DEFINITION. Control (group 0x1): R61, R63, R64, R298, R308 to R310, R325, R329, R334, R337, R355,
R363, R386. -/

namespace Sys2Proof.Machine

/-! ## Branches (R22, R298) -/

/-- The target of a relative branch. -/
def State.target (s : State) (off : Word32) : Word := s.sq.pc + off.signExtend 64

/-- Branches to a target; `t` is the state with what else the instruction writes. -/
def State.branch (s t : State) (a : Word) : Eff :=
  if bf a 3 0 ≠ 0 then .trap s (trapAlign a false) else .goto t a

def execBr (c : Ctl) (off : Word32) (s : State) : Host.Outcome State Fault Refusal :=
  issue (.br c off) (fun s => s.branch s (s.target off)) s

def execJmp (c : Ctl) (a : Fin 32) (s : State) : Host.Outcome State Fault Refusal :=
  issue (.jmp c a) (fun s => s.branch s (s.rs a)) s

def execCall (c : Ctl) (d : Fin 32) (off : Word32) (s : State) : Host.Outcome State Fault Refusal :=
  issue (.call c d off) (fun s => s.branch (s.ws d (s.sq.pc + 16)) (s.target off)) s

def execRet (c : Ctl) (a : Fin 32) (s : State) : Host.Outcome State Fault Refusal :=
  issue (.ret c a) (fun s => s.branch s (s.rs a)) s

/-- `LOOP` (R334): an ALIGN trap leaves the counter. -/
def execLoop (c : Ctl) (d : Fin 32) (off : Word32) (s : State) : Host.Outcome State Fault Refusal :=
  issue (.loop c d off) (fun s =>
    let x := s.rs d - 1
    if x = 0 then .done (s.ws d x) false else s.branch (s.ws d x) (s.target off)) s

/-! ## Branch-outcome queues (R15, R28, R308) -/

/-- Outcomes that run toward a sequencer. A `BQSEND` is a release: what its sequencer has sent out performs
first (R149). -/
def Core.bqIn (k : Core) : SeqId → List (Bool × Bool)
  | .as => k.bqX
  | .xs => k.bqA

def Core.setBqIn (k : Core) (q : SeqId) (l : List (Bool × Bool)) : Core :=
  match q with
  | .as => { k with bqX := l }
  | .xs => { k with bqA := l }

def execBqsend (c : Ctl) (a : Fin 8) (s : State) : Host.Outcome State Fault Refusal :=
  let i : Instr := .bqsend c a
  issue i (fun s =>
    let dest := SeqId.other s.curSeq
    let l := s.cc.bqIn dest
    if 64 ≤ l.length || !s.allPerformed then .wait s
    else .done ((s.modCC fun k => k.setBqIn dest (l ++ [(s.rf a, s.srcSec i.regs c)])).wakeSeq s.cur.val dest) false) s

def execBqbr (c : Ctl) (z : Bool) (off : Word32) (s : State) : Host.Outcome State Fault Refusal :=
  issue (.bqbr c z off) (fun s =>
    match s.cc.bqIn s.curSeq with
    | [] => .wait s
    | o :: l =>
      let t := s.modCC fun k => k.setBqIn s.curSeq l
      if o.1 != z then s.branch t (s.target off) else .done t false) s

/-! ## Ending (R63, R64, R231, R325, R363) -/

/-- Whether every sequencer of every core of a launch has stopped. -/
def State.allStopped (s : State) (l : Launch) : Bool :=
  l.allCores.all fun c => (s.core c).as.run == .stopped && (s.core c).xs.run == .stopped

/-- A collective that waited for the sequencer that has just stopped counts its arrival from now. -/
def Seq.restamp (q : Seq) (now : Nat) : Seq :=
  match q.wait with
  | some (.bar lw lh _) => { q with wait := some (.bar lw lh now) }
  | _ => q

/-- `END` (R325): the sequencer stops; when every sequencer of the launch has, the launch drains. -/
def State.endSeq (s : State) : State :=
  let s := s.modSq fun q => { q with run := .stopped }
  let s := s.modCC fun k => k.modSeq (SeqId.other s.curSeq) fun q => q.restamp s.cycle
  if s.allStopped s.lc then s.endLaunch s.lc.id .ok 0 0 else s

def execEndSeq (c : Ctl) (s : State) : Host.Outcome State Fault Refusal :=
  issue (.endSeq c) (fun s => if s.sq.results.isEmpty then .stop s.endSeq else .wait s) s

/-- Launches that a leaf's retirement tracker holds: at most 16 (R64). A launch on cores of both leaves takes its
entry in the leaf of its origin, which R64 does not say (DESIGN CHOICE, log 58). -/
def State.trackerFull (s : State) (leaf : Nat) : Bool :=
  decide (16 ≤ (s.launches.filter fun l => l.state == .tracker && leafOf (coreAt l.x0 l.y0) == leaf).length)

/-- Whether a copy still reads the own vault (R363). -/
def CopyCmd.readsVault (x : CopyCmd) : Bool := bf x.src 63 60 == 1

/-- A core that a `TAIL` frees. -/
def Core.freed (k : Core) : Core :=
  { k.drain with launch := none, copyQ := [], gathQ := [], matQ := [], binds := [], bindNow := none
                 pins := Vector.replicate 32 none, cs := none, savePois := [] }

/-- `TAIL` retires (R64, R363): both sequencers of every core stop, what is outstanding goes to the
tracker, and the rectangle is free. -/
def State.tailLaunch (s : State) : State :=
  let l := s.lc
  let cs := l.allCores
  let keepC (x : CopyCmd) : CopyCmd := { x with srcTile := none, dstTile := none, follow := none }
  let lc := cs.flatMap fun c => (s.core c).copyQ.map fun x => (c, keepC x)
  let lg := cs.flatMap fun c => (s.core c).gathQ.map fun x => (c, x)
  let s := s.modLaunch l.id fun l => { l with state := .tracker, status := .ok, image := none, leftC := lc, leftG := lg, step := none, usedC := l.usedC + l.spent s.cycle }
  let s := (cs.foldl State.raiseWraps s).modCores cs Core.freed
  { s with idleSince := cs.foldl (fun m c => SMap.insert m c s.cycle) s.idleSince }

/-- What `TAIL` waits for (R363): results, the other sequencer's handler, own-vault reads, the core's matrix
queue (log 6), and a tracker entry. -/
def State.tailReady (s : State) : Bool :=
  s.sq.results.isEmpty && !(s.cc.seq (SeqId.other s.curSeq)).inh &&
    !(s.cc.copyQ.any CopyCmd.readsVault) && s.cc.gathQ.isEmpty && s.cc.matQ.isEmpty && !s.trackerFull (leafOf (coreAt s.lc.x0 s.lc.y0))

/-- `TAIL` (R363); in a launch flagged D it acts as `END`. -/
def execTail (c : Ctl) (s : State) : Host.Outcome State Fault Refusal :=
  issue (.tail c) (fun s =>
    if s.lc.flagD then (if s.sq.results.isEmpty then .stop s.endSeq else .wait s)
    else if s.tailReady then .stop s.tailLaunch else .wait s) s

/-! ## Markers (R61, R337, R386) -/

/-- `MARK` places a marker behind what each engine has been given. -/
def Core.mark (k : Core) (i : Fin 4) (n : BitVec 8) (mask : BitVec 5) : Core :=
  let t := k.takeTicket
  { t.2 with k := vset k.k i.val (some ⟨n, mask, mask, t.1⟩) }

def execMark (c : Ctl) (k : Fin 4) (n : BitVec 8) (mask : BitVec 5) (s : State) : Host.Outcome State Fault Refusal :=
  issue (.mark c k n mask) (fun s => .done (s.modCC fun q => q.mark k n mask) false) s

/-- A `WAITMK` for a marker that the matrix array has retired lets reads of VSTAT see the flags of the drains before
it (R82). -/
def Core.revealDrains (k : Core) (i : Fin 4) (n : BitVec 8) : Core :=
  match vget none k.k i.val with
  | some m => if m.n == n && bt m.mask 2 then k.modX (XUnit.reveal m.ticket) else k
  | none => k

/-- Whether `WAITMK` completes: another number, no marker, or a marker that is retired (R61). -/
def Core.markDone (k : Core) (i : Fin 4) (n : BitVec 8) : Bool :=
  match vget none k.k i.val with
  | some m => m.n != n || m.left == 0
  | none => true

def execWaitmk (c : Ctl) (k : Fin 4) (n : BitVec 8) (s : State) : Host.Outcome State Fault Refusal :=
  issue (.waitmk c k n) (fun s => if s.cc.markDone k n then .done (s.modCC fun q => q.revealDrains k n) false else .wait s) s

end Sys2Proof.Machine
end

