-- ==== Sys2Proof/Machine/Engines.lean ====
section
/-! DEFINITION. The copy engine and the gather unit at work, and markers retiring: R61, R64, R78, R102, R104,
R107, R123, R147, R148, R163 to R169, R171, R174, R199, R247, R257, R317, R328, R337, R357, R363. -/

namespace Sys2Proof.Machine

/-! ## Who the engine works for -/

/-- A command's core, launch and rank, and whether the launch's tracker holds it (R64, R363). -/
structure Eng where
  core : Nat
  launch : Launch
  rank : Nat
  tracked : Bool
  deriving DecidableEq, Repr

/-- Rank of a package core in a launch. -/
def Launch.rankOf (l : Launch) (c : Nat) : Nat := (coreY c - l.y0) * l.wid + (coreX c - l.x0) % 16 % l.wid

def State.eng (s : State) (c : Nat) : Eng := ⟨c, s.launchOn c, (s.core c).rank, false⟩

/-- The engine for commands of a launch in the tracker. -/
def trackEng (l : Launch) (c : Nat) : Eng := ⟨c, l, (coreY c - l.y0) * l.wid + (coreX c - l.x0), true⟩

/-- The memory context of a command. -/
def Eng.ctx (e : Eng) (s : State) (user : Bool) (hint : Nat) : MCtx where
  x := { s.launchCtx e.launch with core := some e.core, leaf := leafOf e.core, user := user }
  launch := e.launch
  copy1 := (s.core e.core).copy1 && !e.tracked
  hint := hint

/-- Where an engine's address lies: global (`none`), or in the own vault. -/
def Eng.place (e : Eng) (p : Word) (n : Nat) (wr : Bool) : Trap ⊕ Option Nat :=
  if bf p 63 60 = 0 then if bf p 59 57 = 0 then .inr none else .inl (trapForm p wr)
  else if bf p 63 60 ≠ 1 ∨ bf p 47 21 ≠ 0 then .inl (trapForm p wr)
  else if bf p 59 48 ≠ 0xFFF ∧ e.launch.wid * e.launch.hgt ≤ bf p 59 48 then .inl (trapForm p wr)
  else if (bf p 59 48 ≠ 0xFFF ∧ bf p 59 48 ≠ e.rank) ∨ e.launch.footBytes < bf p 20 0 + n then .inl (trapFoot p wr)
  else .inr (some (bf p 20 0))

/-- Reads `k` bytes from byte `i` on of an engine's access of `n` bytes; poison and MAC failures come as their causes. -/
def State.engReadAt (s : State) (e : Eng) (m : MCtx) (p : Word) (n i k : Nat) : Acc Got :=
  match e.place p n false with
  | .inl t => .trap s t
  | .inr none =>
    match s.readGlobal m (p + wd i) k with
    | .trap t tr => .trap t tr
    | .miss t f g => .miss t f g
    | .ok t got => match got.bad with
      | some b => .trap t ⟨b.1, b.2, 0⟩
      | none => .ok t got
  | .inr (some off) =>
    let v := s.vault e.core
    if v.bad (off + i) k then .trap s ⟨cPOISON, p, 0⟩
    else .ok (s.modVault e.core fun v => v.correct (off + i) k) ⟨v.read e.launch.owner (off + i) k, v.secure (off + i) k, none⟩

def State.engRead (s : State) (e : Eng) (m : MCtx) (p : Word) (n : Nat) : Acc Got := s.engReadAt e m p n 0 n

/-- The dirty lines of global bytes that an engine has just written name its command, for the case that they are
lost (R134). -/
def State.markEng (s : State) (m : MCtx) (w : EngineWrite) (dst : Word) (n : Nat) : State :=
  (splitPages (bf dst 56 0) n).foldl (fun s a =>
    match s.tryPage m.x true false dst (a.1 % 2 ^ 57) with
    | .ok _ t =>
      let ls := linesOf (if m.launch.flagD then s.shadowed m.launch.id m.copy1 a.1 t.page.pa else t.page.pa) a.2
      { s with msc := vmapi s.msc fun _ l => l.map fun x =>
          if ls.contains (x.addr / 64) && x.old.isSome && !x.eng.contains w then { x with eng := x.eng ++ [w] } else x }
    | _ => s) s

/-- Writes bytes of an engine's access of `n` bytes from byte `i` on. -/
def State.engWriteAt (s : State) (e : Eng) (m : MCtx) (w : EngineWrite) (p : Word) (n i : Nat) (bs : List Byte) (sec : Bool) : Acc Unit :=
  match e.place p n true with
  | .inl t => .trap s t
  | .inr none =>
    match s.writeGlobal m (p + wd i) bs sec with
    | .ok t _ => .ok (t.markEng m w (p + wd i) bs.length) ()
    | r => r
  | .inr (some off) =>
    if sec && !e.launch.flagS then .trap s (trapWorld p)
    else .ok (s.modVault e.core fun v => v.write e.launch.owner (off + i) bs sec) ()

/-! ## Conversion (R78, R102) -/

/-- Converts one element: its pattern and the generator after it. -/
def convElem (src dst : Ty) (mode : Rnd) (sat : Bool) (gen : Word32) (x : Nat) : Nat × Word32 :=
  let gen' := if mode = .sr && convRounds src dst then genNext gen else gen
  ((convert dst mode sat (!(src.isFloat || src == .e8m0)) (genDraw gen') (src.value x)).1, gen')

/-- Converts elements in ascending order. -/
def convElems (src dst : Ty) (mode : Rnd) (sat : Bool) : Word32 → List Nat → List Nat × Word32
  | gen, [] => ([], gen)
  | gen, x :: xs =>
    let r := convElem src dst mode sat gen x
    let rs := convElems src dst mode sat r.2 xs
    (r.1 :: rs.1, rs.2)

/-- The bytes that a move delivers, and the generator after it. The formats are those of the banks of the first
bytes on both sides: R102 names none for a block that lies in two banks (DESIGN CHOICE, log 59). -/
def convBytes (fmts : Vector Word 16) (src dst : Word) (gen : Word32) (bs : List Byte) : List Byte × Word32 :=
  if converts fmts src dst then
    let f := bankFmt fmts (bf dst 20 0)
    let a := fmtTy (bankFmt fmts (bf src 20 0))
    let n := 8 * bs.length / a.width
    let xs := (List.range n).map fun i => packedAt a.width (fun j => bs.getD j 0) i
    let r := convElems a (fmtTy f) ((Rnd.ofCode (bf f 22 20)).getD .rne) (bt f 23) gen xs
    (packBytes (fmtTy f).width r.1, r.2)
  else (bs, gen)

/-- The generator of the copy engine or of the gather unit. -/
def Core.engGen (k : Core) (gather : Bool) : Word32 := if gather then k.ggen else k.cgen

def Core.setEngGen (k : Core) (gather : Bool) (g : Word32) : Core := if gather then { k with ggen := g } else { k with cgen := g }

/-- A block or row whose first byte is still to be read. -/
def Part.start (src dst : Word) : Part := ⟨src, dst, [], false, none, 0⟩

/-- A block or row of zeros. -/
def Part.zeros (dst : Word) (n : Nat) : Part := ⟨dst, dst, [], false, some (List.replicate n 0), 0⟩

/-- The next piece of what is to be delivered is written; `none`: it was the last. -/
def State.partWrite (s : State) (e : Eng) (m : MCtx) (w : EngineWrite) (x : Part) (bs : List Byte) : Acc (Option Part) :=
  let k := pieceOf x.dst x.done bs.length
  match s.engWriteAt e m w x.dst bs.length x.done ((bs.drop x.done).take k) x.sec with
  | .ok t _ => .ok t (if x.done + k < bs.length then some { x with out := some bs, done := x.done + k } else none)
  | .trap t tr => .trap t tr
  | .miss t f g => .miss t f g

/-- The generator stands where it stood. -/
def Acc.genBack {α : Type} (a : Acc α) (c : Nat) (gather : Bool) (g : Word32) : Acc α :=
  match a with
  | .ok t x => .ok t x
  | .trap t tr => .trap (t.modCore c fun k => k.setEngGen gather g) tr
  | .miss t f h => .miss (t.modCore c fun k => k.setEngGen gather g) f h

/-- The next piece of a block or row of `b` bytes moves, a bank row at a time (R99): with the last piece read the bytes
are converted, and the first piece of them is written. -/
def State.movePart (s : State) (e : Eng) (m : MCtx) (w : EngineWrite) (gather : Bool) (fmts : Vector Word 16) (b : Nat)
    (x : Part) : Acc (Option Part) :=
  match x.out with
  | some bs => s.partWrite e m w x bs
  | none =>
    let k := pieceOf x.src x.got.length b
    match s.engReadAt e m x.src b x.got.length k with
    | .trap t tr => .trap t tr
    | .miss t f g => .miss t f g
    | .ok t got =>
      let y := { x with got := x.got ++ got.bytes, sec := x.sec || got.sec }
      if x.got.length + k < b then .ok t (some y)
      else
        let gen := (t.core e.core).engGen gather
        let r := convBytes fmts x.src x.dst gen y.got
        ((t.modCore e.core fun k => k.setEngGen gather r.2).partWrite e m w y r.1).genBack e.core gather gen

/-! ## Errors (R166, R167, R363) -/

/-- An engine error of a command: sectors of what will not land are counted, with ERR set first. Poison that is
consumed in a phase which may not roll back again traps the AS too (R174). -/
def State.engFail (s : State) (e : Eng) (path : Nat) (t : Trap) (bar : Option Nat) (sectors : Nat) : State :=
  let s :=
    if e.tracked then
      let s := s.modLaunch e.launch.id fun l => if l.status = .ok then { l with status := .fault, detail := t.cause, frank := e.rank } else l
      match bar with
      | some off => (s.freezeOn t.cause).updBarBy e.launch.owner e.core path off fun b => ({ b with err := true }, false)
      | none => s.freezeOn t.cause
    else
      let s := if t.cause = cPOISON ∨ t.cause = cINTEG then s.phasePoison e.core .as t.e0 else s
      s.engineError e.launch.owner e.core path t.cause bar t.e0
  s.countSectors e.launch.owner e.core path bar sectors

/-- Whether an error is a consumed poison or integrity failure, and the phase that it rolls back. -/
def State.engRolls (s : State) (e : Eng) (t : Trap) : Option Phase :=
  if (t.cause = cPOISON ∨ t.cause = cINTEG) && !e.tracked then s.rollsBack e.core else none

/-! ## The copy engine (R163) -/

/-- The copy that a core's engine works on: one that a tracker holds, or the head of the queue. -/
def State.copyHead (s : State) (c : Nat) : Option (Eng × CopyCmd) :=
  match s.launches.findSome? fun l => if l.state = .tracker then (l.leftC.find? fun x => x.1 == c).map fun x => (trackEng l c, x.2) else none with
  | some x => some x
  | none => ((s.core c).copyQ.head?).map fun x => (s.eng c, x)

/-- Changes the copy that an engine works on; `none` removes it. -/
def State.setCopy (s : State) (e : Eng) (x : CopyCmd) (new : Option CopyCmd) : State :=
  if e.tracked then
    s.modLaunch e.launch.id fun l => { l with leftC := match new with
      | some y => modFirst (fun z => z.1 == e.core && z.2 == x) (fun _ => (e.core, y)) l.leftC
      | none => dropFirst (fun z => z.1 == e.core && z.2 == x) l.leftC }
  else
    s.modCore e.core fun k => { k with copyQ := match new with
      | some y => modFirst (fun z => z.ticket == x.ticket) (fun _ => y) k.copyQ
      | none => k.copyQ.filter fun (z : CopyCmd) => z.ticket != x.ticket }

/-- Whether an extent miss that a command waits for is still open. -/
def State.stillMissed (s : State) (m : Option Nat) : Bool := (m.map s.missPending).getD false

/-- The next copy starts, once no earlier command of the core that overlaps it is queued. -/
def State.copyStart (s : State) (c : Nat) : State :=
  match s.copyHead c with
  | none => s
  | some (e, x) =>
    if x.started || (!e.tracked && (s.core c).rangeHeld x.ticket x.ranges) then s
    else s.setCopy e x (some { x with started := true })

def execCopyCommandStart (core : CoreId) (s : State) : Host.Outcome State Fault Refusal := .next (s.copyStart core.val)

/-- Sectors of a block. -/
def CopyCmd.sectors (x : CopyCmd) (n : Nat) : Nat := cdiv (x.bd n) 32

/-- Sectors of the blocks from `n` on. -/
def CopyCmd.sectorsFrom (x : CopyCmd) (n : Nat) : Nat := ((List.range (x.total - n)).map fun i => x.sectors (n + i)).sum

/-- A tile has been filled by a command: it is READY, unless another queued command still fills it, as the input
commands of a phase do that are issued again together (R104, R174). -/
def Core.filled (k : Core) (t : Option (Fin 32)) (ticket : Nat) : Core :=
  match t with
  | none => k
  | some r =>
    if k.copyQ.any (fun (x : CopyCmd) => x.dstTile == some r && x.ticket != ticket) ||
        k.gathQ.any (fun (x : GathCmd) => !x.scatter && x.tile == r && x.ticket != ticket) then k
    else k.setTileState r .ready

/-- The tiles of a copy that ends (R104). -/
def State.copyTiles (s : State) (e : Eng) (x : CopyCmd) : State :=
  if e.tracked then s else s.modCore e.core fun k => (k.filled x.dstTile x.ticket).turnTile x.srcTile .empty

/-- The follow-on enters the matrix queue as an `MMUL` would now, for the `CPYM` with a ticket; one that fails its checks
is reported (R168, R317). -/
def State.followOn (s : State) (c : Nat) (f : Follow) (t : Option (Fin 32)) (issued : Nat) : State :=
  match t with
  | none => s
  | some r =>
    let k := s.core c
    match k.mulTrap false f.m r with
    | some tr => s.reportTo c .xs ⟨tr.cause, tr.e0, tr.e1⟩
    | none => s.modCore c fun k => k.enqueueFor (k.mulCmd false f.last f.str f.m r) issued

/-- The last block has landed: tiles turn, the follow-on is placed, and with no room for it the last
sector's count is withheld (R199). -/
def State.copyEnd (s : State) (e : Eng) (x : CopyCmd) (sectors : Nat) : State :=
  let s := s.copyTiles e x
  match x.follow with
  | none => (s.countSectors e.launch.owner e.core 1 x.bar sectors).setCopy e x none
  | some f =>
    if (s.core e.core).matFull then
      (s.countSectors e.launch.owner e.core 1 x.bar (sectors - 1)).setCopy e x (some { x with next := x.total, part := none, landed := true })
    else ((s.followOn e.core f x.dstTile x.ticket).countSectors e.launch.owner e.core 1 x.bar sectors).setCopy e x none

/-- What a block does next: a piece of it moves, or of the zeros that fill it, or it is dropped. `none`: it is done. -/
def State.copyDo (s : State) (e : Eng) (x : CopyCmd) : Acc (Option Part) :=
  let n := x.next
  let start := if x.reads n then Part.start (x.srcAt n) (x.dstAt n) else Part.zeros (x.dstAt n) (x.bd n)
  if x.dropped n then .ok s none
  else s.movePart e (e.ctx s x.user x.hint) ⟨e.launch.id, e.core, 1, x.ticket, x.bar⟩ false x.fmts x.b (x.part.getD start)

/-- The next piece of a block of the running copy, and with the last piece the block's count (R163). -/
def State.copyBlock (s : State) (c : Nat) : State :=
  match s.copyHead c with
  | none => s
  | some (e, x) =>
    if !x.started || x.landed || s.stillMissed x.missed then s
    else match s.copyDo e x with
      | .miss t f g =>
        let r := t.reportMiss f g (some e.launch.id) e.rank none
        r.2.setCopy e x (some { x with missed := some r.1 })
      | .trap t tr =>
        match s.engRolls e tr with
        | some ph => (t.rollback c ph).freezeOn tr.cause
        | none => ((t.engFail e 1 tr x.bar (x.sectorsFrom x.next)).copyTiles e x).setCopy e x none
      | .ok t (some p) => t.setCopy e x (some { x with part := some p, missed := none })
      | .ok t none =>
        if x.next + 1 < x.total then
          (t.countSectors e.launch.owner c 1 x.bar (x.sectors x.next)).setCopy e x (some { x with next := x.next + 1, part := none, missed := none })
        else t.copyEnd e x (x.sectors x.next)

def execCopyBlockMove (core : CoreId) (s : State) : Host.Outcome State Fault Refusal := .next (s.copyBlock core.val)

/-- Room has freed for a follow-on that waits (R168, R199). -/
def State.followRoom (s : State) (c : Nat) : State :=
  match s.copyHead c with
  | none => s
  | some (e, x) =>
    match x.follow with
    | none => s
    | some f =>
      if x.landed && !(s.core c).matFull then
        ((s.followOn c f x.dstTile x.ticket).countSectors e.launch.owner c 1 x.bar 1).setCopy e x none
      else s

def execCpymFollowonEnqueue (core : CoreId) (s : State) : Host.Outcome State Fault Refusal := .next (s.followRoom core.val)

/-! ## The gather unit (R169, R328, R357) -/

def State.gathHead (s : State) (c : Nat) : Option (Eng × GathCmd) :=
  match s.launches.findSome? fun l => if l.state = .tracker then (l.leftG.find? fun x => x.1 == c).map fun x => (trackEng l c, x.2) else none with
  | some x => some x
  | none => ((s.core c).gathQ.head?).map fun x => (s.eng c, x)

def State.setGath (s : State) (e : Eng) (x : GathCmd) (new : Option GathCmd) : State :=
  if e.tracked then
    s.modLaunch e.launch.id fun l => { l with leftG := match new with
      | some y => modFirst (fun z => z.1 == e.core && z.2 == x) (fun _ => (e.core, y)) l.leftG
      | none => dropFirst (fun z => z.1 == e.core && z.2 == x) l.leftG }
  else
    s.modCore e.core fun k => { k with gathQ := match new with
      | some y => modFirst (fun z => z.ticket == x.ticket) (fun _ => y) k.gathQ
      | none => k.gathQ.filter fun (z : GathCmd) => z.ticket != x.ticket }

/-- The address that an index selects: base + index times the signed pitch. -/
def GathCmd.addr (x : GathCmd) (i : Nat) : Word := x.base + wd i * x.pitch

/-- The tile's place of a row: destination rows of a gather are `bd` bytes apart. -/
def GathCmd.tileAt (x : GathCmd) (r : Nat) : Word := ownPtr (x.off + r * (if x.scatter then x.b else x.bd))

/-- A row of the command whose index has been read; a `SCATTER` skips the index 0xFFFF_FFFF. -/
def GathCmd.rowStart (x : GathCmd) (i : Nat) : Option Part :=
  if x.scatter then if i = 0xFFFFFFFF then none else some (Part.start (x.tileAt x.row) (x.addr i))
  else if i = 0xFFFFFFFF then some (Part.zeros (x.tileAt x.row) x.bd)
  else some (Part.start (x.addr i) (x.tileAt x.row))

/-- What the current row does next: its index is read with its first piece. `none`: it is done. -/
def State.gathDo (s : State) (e : Eng) (x : GathCmd) : Acc (Option Part) :=
  let m := e.ctx s x.user x.hint
  let move (s : State) (p : Part) : Acc (Option Part) :=
    s.movePart e m ⟨e.launch.id, e.core, 2, x.ticket, x.bar⟩ true x.fmts x.b p
  match x.part with
  | some p => move s p
  | none =>
    match s.engRead e m (ownPtr (x.idxOff + 4 * x.row)) 4 with
    | .trap t tr => .trap t tr
    | .miss t f g => .miss t f g
    | .ok t got =>
      match x.rowStart (leNat got.bytes) with
      | none => .ok t none
      | some p => move t p

def GathCmd.sectors (x : GathCmd) : Nat := cdiv x.bd 32

/-- A gather or scatter ends: its tile turns, and it leaves the queue. -/
def State.gathEnd (s : State) (e : Eng) (x : GathCmd) : State :=
  let s := if e.tracked then s else s.modCore e.core fun k => if x.scatter then k.setTileState x.tile .empty else k.filled (some x.tile) x.ticket
  s.setGath e x none

/-- The next piece of a row of the gather unit's command, and with the last piece the row's count. -/
def State.gathRow (s : State) (c : Nat) : State :=
  match s.gathHead c with
  | none => s
  | some (e, x) =>
    if s.stillMissed x.missed || (!e.tracked && x.row == 0 && x.part.isNone && (s.core c).rangeHeld x.ticket x.ranges) then s
    else if x.rows ≤ x.row then s.gathEnd e x
    else match s.gathDo e x with
      | .miss t f g =>
        let r := t.reportMiss f g (some e.launch.id) e.rank none
        r.2.setGath e x (some { x with missed := some r.1 })
      | .trap t tr =>
        match s.engRolls e tr with
        | some ph => (t.rollback c ph).freezeOn tr.cause
        | none => (t.engFail e 2 tr x.bar ((x.rows - x.row) * x.sectors)).gathEnd e x
      | .ok t (some p) => t.setGath e x (some { x with part := some p, missed := none })
      | .ok t none =>
        let t := t.countSectors e.launch.owner c 2 x.bar x.sectors
        if x.row + 1 < x.rows then t.setGath e x (some { x with row := x.row + 1, part := none, missed := none }) else t.gathEnd e x

def execGatherRow (core : CoreId) (s : State) : Host.Outcome State Fault Refusal := .next (s.gathRow core.val)

/-! ## Markers (R61, R337) -/

/-- Whether an engine still has a command ahead of a ticket: C, G, M, N and A in the order of the mask. -/
def Core.ahead (k : Core) (e t : Nat) : Bool :=
  match e with
  | 0 => k.aheadC t
  | 1 => k.aheadG t
  | 2 => k.aheadM t
  | 3 => k.aheadN t
  | _ => k.aheadM t

/-- An engine retires a marker once every command ahead of it has finished. -/
def State.markRetire (s : State) (c i e : Nat) : State :=
  match vget none (s.core c).k i with
  | none => s
  | some m =>
    if bt m.left e && !(s.core c).ahead e m.ticket then
      (s.modCore c fun k => { k with k := vset k.k i (some { m with left := setBit m.left e false }) }).wake c
    else s

def execMarkerRetire (core : CoreId) (k : Fin 4) (e : Fin 5) (s : State) : Host.Outcome State Fault Refusal :=
  .next (s.markRetire core.val k.val e.val)

end Sys2Proof.Machine
end

