-- ==== Sys2Proof/Machine/SysOps.lean ====
section
/-! DEFINITION. The system registers (Table 18.4) and the effects of writing them: R20, R78, R81, R101,
R108 to R112, R167, R206, R224, R225, R239, R265 to R267, R277, R278, R339, R340. -/

namespace Sys2Proof.Machine

/-! ## Effects of writes -/

/-- FIN = 1 (R225): the launch ends FAULT with DETAIL = ECAUSE of the writer. -/
def State.finFault (s : State) : State := s.endLaunch s.lc.id .fault s.sq.ecause s.cc.rank

/-- FIN = 2 (R225): the launch ends KILLED. -/
def State.finKill (s : State) : State := s.endLaunch s.lc.id .killed 0 0

/-- Seeds every generator of a core (R78). -/
def Core.reseed (k : Core) (v : Word32) : Core :=
  { k with
    x := { k.x with seed := v, gen := tab 1024 (genStart v) }
    mgen := tab 128 fun j => genStart v (1024 + j)
    cgen := genStart v 1152
    ggen := genStart v 1153 }

def State.seedWrite (s : State) (v : Word32) : State := s.modCC fun k => k.reseed v

/-- Rows of a vault that must be moved before a step to a point (ROWSTAT.REMAIN, R112). -/
def Vault.remain (v : Vault) (cur tvp : Nat) : Nat :=
  if v.floors.isEmpty then 0
  else ((List.range 16).map fun b =>
    ((v.dests b tvp).filter fun d => decide (v.floorOf (v.phys b d.1) ≤ cur)).length).sum

/-- Vault bytes that the running launch of a core declares: 0 where none runs. -/
def State.footOn (s : State) (c : Nat) : Nat :=
  match (s.core c).launch.bind s.launch? with
  | some l => if l.state = .running ∨ l.state = .draining then l.footBytes else 0
  | none => 0

/-- Whether a step to a point would lose a row of a running footprint (R112). -/
def State.losesFoot (s : State) (c tvp : Nat) : Bool :=
  let v := s.vault c
  if v.floors.isEmpty then false
  else (List.range 16).any fun b => (v.lostAt b tvp).any fun r => !v.isLost b r && decide (131072 * b + 256 * r < s.footOn c)

/-- `VPREQ` (R112, R266). Where rows are left to move and a row of a footprint would be lost too, STAT reads 3: R112
gives no order (DESIGN CHOICE, log 12). -/
def State.vpreq (s : State) (tvp : BitVec 3) : State :=
  if s.vpStat = 2 then s
  else if tvp = s.vpCur then { s with vpStat := 1 }
  else if tvp.toNat < s.vpCur.toNat then
    if (List.range 384).any fun c => (s.vault c).remain s.vpCur.toNat tvp.toNat != 0 then { s with vpStat := 3 }
    else if (List.range 384).any fun c => s.losesFoot c tvp.toNat then { s with vpStat := 4 }
    else { s with vpStat := 2, vpReq := tvp }
  else { s with vpStat := 2, vpReq := tvp }

/-- The rows of an MSC that a step down loses leave it first: their lines are written back and invalidated, and
its doomed rows move to their places with what they hold (R108, R129). Blocks of the adapter cache in ways that
are lost leave too. -/
def State.mscStepDown (s : State) (j leaf : Nat) : State :=
  let s : State := { s with mscRows := vset s.mscRows leaf ((vget ⟨[], [], []⟩ s.mscRows leaf).stepDown j) }
  let s := s.dropMsc leaf (fun (x : MscLine) => decide (s.generalWays leaf (mscSetOf x.addr) ≤ x.way)) pfFn s.deviceStamp
  let keep (a : Nat) (w : Nat) : Bool :=
    homeLeaf (256 * a) != leaf || decide (w < mscWays - s.acWays + s.adapterWays leaf (mscSetOf (256 * a)))
  { s with acache := s.acache.map fun p => { p with blocks := p.blocks.filter fun b => keep b.1 b.2 } }

/-- The rail reaches the point asked for (R112); a step down commits, and the rows that it loses are lost
from then on (R108, R111, R129). -/
def State.railReached (s : State) : State :=
  if s.vpStat ≠ 2 then s
  else
    let j := s.vpReq.toNat
    let s := if j < s.vpCur.toNat then
        ((s.mscStepDown j 0).mscStepDown j 1).mapCores fun _ k => { k with vault := { k.vault with lost := k.vault.rows.lose j } }
      else s
    { s with vpCur := s.vpReq, vpStat := 1 }

/-- A write to ROWMV (R111, R266, R267): with GO the evacuation of a row starts, or RES says why not. -/
def State.rowmvWrite (s : State) (c : Nat) (v : Word) : State :=
  let s := s.modCore c fun k => { k with rowmv := v.setWidth 19 &&& 0x71FFF }
  if !bt v 31 then s
  else
    let tvp := bf v 18 16
    let bank := bf v 12 9
    let row := bf v 8 0
    let vt := s.vault c
    let res (r : BitVec 3) : State := s.modCore c fun k => { k with rowRes := r, rowGo := none }
    let start (dst : Nat) (lost : Option Nat) : State := s.modCore c fun k =>
      { k with rowRes := 0, rowPtr := 0, rowGo := some bank, rowEvac := some bank
               vault := { k.vault with evac := k.vault.evac ++ [⟨bank, row, dst, lost, 0⟩] } }
    if vt.evac.any fun e => e.bank == bank then res 2
    else match (vt.dests bank tvp).find? fun d => d.1 == row with
      | none => res 3
      | some d =>
        match d.2.2 with
        | some lost =>
          if 131072 * bank + 256 * lost < s.footOn c then res 4 else start d.2.1 (some lost)
        | none => start d.2.1 none

/-- The commit of an evacuation: the row lives at its destination, and the lost row that gave it is lost
at every point (R111, R267). -/
def Vault.commitRow (v : Vault) (e : Evac) : Vault :=
  { v with
    remap := SMap.set (528 * e.bank + e.row) v.remap (512 * e.bank + e.row) e.dst
    lost := match e.lost with
      | some r => SMap.set false v.lost (512 * e.bank + r) true
      | none => v.lost
    evac := v.evac.filter fun x => x.bank != e.bank }

/-- RES and PTR, where they report the evacuation of a bank: RES that of the most recent GO, PTR that of the most
recent evacuation (R111, R266). -/
def Core.reportRow (k : Core) (bank : Nat) (res : Option (BitVec 3)) (p : Nat) : Core :=
  { k with
    rowRes := if k.rowGo = some bank then res.getD k.rowRes else k.rowRes
    rowPtr := if k.rowEvac = some bank then BitVec.ofNat 4 p else k.rowPtr }

/-- The next chunk of a bank's evacuation is copied at position 3 (R111). An uncorrectable error in it
stops the evacuation. -/
def State.evacChunk (s : State) (c bank : Nat) : State :=
  match (s.vault c).evac.find? fun e => e.bank == bank with
  | none => s
  | some e =>
    s.modCore c fun k =>
      let v := k.vault
      let src := v.phys bank e.row
      let bad := (List.range 4).any fun i => SMap.get false v.pois (32 * src + 4 * e.p + i)
      if bad then ({ k with vault := { v with evac := v.evac.filter fun (x : Evac) => x.bank != bank } } : Core).reportRow bank (some 4) e.p
      else
        let e' := { e with p := e.p + 1 }
        let v := v.copyChunk src e.dst e.p
        if e'.p = 8 then ({ k with vault := v.commitRow e' } : Core).reportRow bank (some 1) 8
        else ({ k with vault := { v with evac := v.evac.map fun (x : Evac) => if x.bank == bank then e' else x } } : Core).reportRow bank none e'.p

/-- Clearing V of EERR0 clears the whole record (R167). -/
def Core.eerrClear (k : Core) : Core := { k with eerr0 := 0, eerr1 := 0 }

/-- Clearing V of FERR clears the whole record (R206). -/
def Core.ferrClear (k : Core) : Core := { k with ferr := 0 }

/-! ## Reading (R339) -/

/-- CORE_XY (Table 2.1). -/
def State.coreXY (s : State) (c : Nat) : Word :=
  wd (2 ^ 16 * s.physRow (leafOf c) (coreY c) + 2 ^ 8 * coreY c + coreX c)

/-- RECT (Table 18.5); a copy of a paired launch reads its own origin. -/
def State.rect (s : State) (c : Nat) : Word :=
  let l := s.launchOn c
  wd (2 ^ 20 * log2 l.hgt + 2 ^ 16 * log2 l.wid + 2 ^ 8 * l.y0 + (l.x0 + if (s.core c).copy1 then 16 else 0))

/-- LAUNCH (Table 18.5). -/
def State.launchReg (s : State) (c : Nat) : Word :=
  let l := s.launchOn c
  wd (2 ^ 32 * l.cls + 2 ^ 16 * bf (lineWord l.record 3) 20 16 + l.gath)

/-- MSTAT (Table 15.1); FIN reads zero. -/
def State.mstat (s : State) (c : Nat) (q : SeqId) : Word :=
  let x := (s.core c).seq q
  wd (2 ^ 8 * b2n (s.launchOn c).flagS + 2 ^ 5 * b2n (s.core c).ppre.isSome + 2 ^ 4 * b2n x.inh +
    2 ^ 2 * x.pmode.toNat + x.mode.toNat)

/-- VCAP (Table 6.7). -/
def State.vcap (s : State) (c : Nat) : Word :=
  let k := s.core c
  let lost := if k.vault.floors.isEmpty && k.vault.lost.isEmpty then [] else k.vault.lostRows s.vpCur.toNat k.vcapSel.toNat
  wd (2 ^ 32 * (8192 - lost.length) + 2 ^ 16 * lost.headD 8192 + k.vcapSel.toNat)

/-- VHEALTH (Table 6.9). -/
def State.vhealthReg (s : State) (c : Nat) : Word :=
  let k := s.core c
  let v := k.vault
  let row := bf k.vhealth 8 0
  let bank := bf k.vhealth 12 9
  let vpt := bf k.vhealth 15 13
  let cur := s.vpCur.toNat
  let fl (r : Nat) : Nat := v.floorOf (v.phys bank r)
  let next := ((List.range 512).find? fun r => decide (row ≤ r) && decide (vpt < fl r) && decide (fl r ≤ cur)).getD 0x200
  let lost := if cur ≤ vpt then ((List.range 512).filter fun r => v.isLost bank r).length else (v.lostAt bank vpt).length
  wd (2 ^ 39 * next + 2 ^ 29 * (v.doomedRows bank vpt).length + 2 ^ 19 * lost + 2 ^ 16 * fl row + k.vhealth.toNat)

/-- ROWSTAT (Table 6.10). REMAIN has 12 bits and shows at most 4,095 rows: what it shows of more is not stated (DESIGN
CHOICE, log 12). -/
def State.rowstat (s : State) (c : Nat) : Word :=
  let k := s.core c
  let busy := (k.vault.evac.map fun e => 2 ^ e.bank).sum
  wd (2 ^ 32 * busy + 2 ^ 20 * min 4095 (k.vault.remain s.vpCur.toNat (bf k.rowmv 18 16)) + 2 ^ 16 * k.rowPtr.toNat + k.rowRes.toNat)

/-- The counters of a core as they stand in this slot (R239). -/
def State.counters (s : State) (c : Nat) : Core := (s.core c).syncSlots s.cycle

/-- A counter's value as it is read: that of event 10 reads zero in VFs (R239). -/
def State.cntRead (s : State) (c n : Nat) : Word :=
  if bf (vget 0 (s.core c).cntcfg n) 15 0 = 10 ∧ (s.launchOn c).fn ≠ pfFn then 0
  else (vget 0 (s.counters c).cnt n).setWidth 64

/-- The value of a system register of a core, for a sequencer (R339). VPREQ reads zero; TVP, BANK and ROW of
ROWMV read back, as Table 6.10 says, although Table 20.4 says zero (log 20). -/
def State.readSR (s : State) (c : Nat) (q : SeqId) (n : Nat) : Word :=
  let k := s.core c
  let x := k.seq q
  let l := s.launchOn c
  let f := s.fnRegs l.fn
  match n with
  | 0x000 => s.coreXY c
  | 0x001 => wd k.rank
  | 0x002 => s.rect c
  | 0x003 => s.launchReg c
  | 0x004 => l.argp
  | 0x005 => l.owner.setWidth 64
  | 0x008 => wd s.cycle
  | 0x009 => s.timebase
  | 0x010 => s.mstat c q
  | 0x011 => x.epc
  | 0x012 => x.ecause.setWidth 64
  | 0x013 => x.einfo0
  | 0x014 => x.einfo1
  | 0x015 => x.tvec
  | 0x016 => x.esave
  | 0x020 => (k.x.settle (s.cycle + 1) 2).vstat.setWidth 64
  | 0x021 => k.x.rmode.setWidth 64
  | 0x022 => k.x.seed.setWidth 64
  | 0x030 => k.xbase
  | 0x031 => k.xctl
  | 0x040 => wd (2 ^ 8 * s.vpStat.toNat + s.vpCur.toNat)
  | 0x042 => s.vcap c
  | 0x043 => s.vhealthReg c
  | 0x044 => k.rowmv.setWidth 64
  | 0x045 => s.rowstat c
  | 0x046 => k.eerr0
  | 0x047 => k.eerr1
  | 0x048 => k.ferr
  | 0x060 => f.hintdrop.setWidth 64
  | 0x061 => f.missLch.setWidth 64 <<< 32 ||| f.missReq.setWidth 64
  | n =>
    if 0x50 ≤ n ∧ n ≤ 0x57 then s.cntRead c (n - 0x50)
    else if 0x58 ≤ n ∧ n ≤ 0x5F then (vget 0 (s.counters c).cntcfg (n - 0x58)).setWidth 64
    else if 0x70 ≤ n ∧ n ≤ 0x7F then vget 0 k.bfmt (n - 0x70)
    else 0

/-! ## Writing (R11, R339) -/

/-- The RW fields of a bank format register. -/
def bfmtKeep (v : Word) : Word := v &&& 0x00FFC0FF

/-- A configuration of a counter after a write: OV is W1C (Table 15.9). -/
def cntcfgWrite (old : BitVec 19) (v : Word) : BitVec 19 :=
  (v.setWidth 19 &&& 0x3FFFF) ||| (if bt old 18 && !bt v 18 then 0x40000 else 0)

/-- Writing a system register of a core, for a sequencer, field by field (R339). -/
def State.writeSR (s : State) (c : Nat) (q : SeqId) (n : Nat) (v : Word) : State :=
  let modX (f : XUnit → XUnit) : State := s.modCore c fun k => k.modX f
  let modS (f : Seq → Seq) : State := s.modCore c fun k => k.modSeq q f
  match n with
  | 0x010 =>
    let s := modS fun x => { x with pmode := v.extractLsb' 2 2 }
    if bf v 7 6 = 1 then s.finFault else if bf v 7 6 = 2 then s.finKill else s
  | 0x011 => modS fun x => { x with epc := v }
  | 0x012 => modS fun x => { x with ecause := v.setWidth 8 }
  | 0x013 => modS fun x => { x with einfo0 := v }
  | 0x014 => modS fun x => { x with einfo1 := v }
  | 0x015 => modS fun x => { x with tvec := v &&& ~~~0xF }
  | 0x016 => modS fun x => { x with esave := v }
  | 0x020 => modX fun x =>
    { (x.settle s.cycle 1).clearDrained s.cycle (v.setWidth 6) with vstat := vstatWrite (x.settle s.cycle 1).vstat v }
  | 0x021 => modX fun x => { x with rmode := v.setWidth 3 }
  | 0x022 => s.seedWrite (v.setWidth 32)
  | 0x030 => s.modCore c fun k => { k with xbase := v }
  | 0x031 => s.modCore c fun k => { k with xctl := v &&& 0xFFFF0FFF }
  | 0x041 => s.vpreq (v.setWidth 3)
  | 0x042 => s.modCore c fun k => { k with vcapSel := v.setWidth 3 }
  | 0x043 => s.modCore c fun k => { k with vhealth := v.setWidth 16 }
  | 0x044 => s.rowmvWrite c v
  | 0x046 => if bt v 63 then s.modCore c Core.eerrClear else s
  | 0x048 => if bt v 63 then s.modCore c Core.ferrClear else s
  | 0x060 => s.modFn (s.launchOn c).fn fun f => { f with hintdrop := v.setWidth 48 }
  | 0x061 => s.modFn (s.launchOn c).fn fun f => { f with missLch := v.extractLsb' 32 32, missReq := v.setWidth 32 }
  | n =>
    if 0x50 ≤ n ∧ n ≤ 0x57 then
      s.modCore c fun k => let k := k.syncSlots s.cycle; { k with cnt := vset k.cnt (n - 0x50) (v.setWidth 48) }
    else if 0x58 ≤ n ∧ n ≤ 0x5F then
      s.modCore c fun k =>
        let k := k.syncSlots s.cycle
        { k with cntcfg := vset k.cntcfg (n - 0x58) (cntcfgWrite (vget 0 k.cntcfg (n - 0x58)) v) }
    else if 0x70 ≤ n ∧ n ≤ 0x7F then s.modCore c fun k => { k with bfmt := vset k.bfmt (n - 0x70) (bfmtKeep v) }
    else s

/-! ## World tags of system registers (R257) -/

/-- The tag of a system register. -/
def State.srSec (s : State) (c : Nat) (q : SeqId) (n : Nat) : Bool :=
  if 0x10 ≤ n ∧ n ≤ 0x16 then bt ((s.core c).seq q).sysSec (n - 0x10) else bt (s.core c).sysSec n

/-- A register whose every field is RO, so that `MTSR` does not change it (R11, Table 18.4). -/
def srReadOnly (n : Nat) : Bool := decide (n ≤ 0x09) || n == 0x40 || n == 0x45 || n == 0x47

/-- A register that `MTSR` writes takes the tag of its source; one that it only clears bits of keeps a tag. -/
def State.setSrSec (s : State) (c : Nat) (q : SeqId) (n : Nat) (sec : Bool) : State :=
  if srReadOnly n then s else
  let sec := sec || ((n == 0x20 || n == 0x46 || n == 0x48) && s.srSec c q n)
  if 0x10 ≤ n ∧ n ≤ 0x16 then s.modCore c fun k => k.modSeq q fun x => { x with sysSec := setBit x.sysSec (n - 0x10) sec }
  else s.modCore c fun k => { k with sysSec := setBit k.sysSec n sec }

/-! ## Registers that both sequencers reach in one slot (R28) -/

/-- A system register of a core that both sequencers share and that only `MTSR` changes. -/
def plainSr (n : Nat) : Bool := n == 0x30 || n == 0x31 || n == 0x42 || n == 0x43 || (decide (0x70 ≤ n) && decide (n ≤ 0x7F))

/-- What a shared register of the current core holds, as a write of the current sequencer finds it. -/
def State.sharedNow (s : State) (r : SharedReg) : SlotWrite :=
  match r with
  | .m i => ⟨s.cur.val, s.curSeq, r, vget 0 s.cc.m i.val, bt s.cc.mSec i.val, bt s.cc.mPois i.val⟩
  | .sr n => ⟨s.cur.val, s.curSeq, r, s.readSR s.cur.val s.curSeq n, bt s.cc.sysSec n, false⟩

/-- A shared register takes a value with its tag and its poison. -/
def State.putShared (s : State) (w : SlotWrite) : State :=
  match w.reg with
  | .m i => s.modCore w.core fun k => { k with
      m := vset k.m i.val w.val, mSec := setBit k.mSec i.val w.sec, mPois := setBit k.mPois i.val w.pois }
  | .sr n => (s.writeSR w.core w.seq n w.val).modCore w.core fun k => { k with sysSec := setBit k.sysSec n w.sec }

/-- Notes that the current sequencer writes a shared register in this slot. -/
def State.noteShared (s : State) (r : SharedReg) : State := { s with slotRegs := s.slotRegs ++ [s.sharedNow r] }

/-- What the other sequencer of the current core has written in this slot. -/
def State.othersWrote (s : State) : List SlotWrite := s.slotRegs.filter fun w => w.core == s.cur.val && w.seq != s.curSeq

/-- Whether what the other sequencer wrote stands: unless the XS has written the register too (R28). -/
def State.otherStands (s : State) (w : SlotWrite) : Bool :=
  !(s.curSeq == .xs && s.slotRegs.any fun x => x.core == w.core && x.seq == .xs && x.reg == w.reg)

/-- Runs an instruction that reads or writes shared registers: it sees what they held before the slot, and of two
writes that of the XS stands (R28). -/
def inSlot (f : State → Host.Outcome State Fault Refusal) (s : State) : Host.Outcome State Fault Refusal :=
  if s.othersWrote = [] then f s
  else
    match f (s.othersWrote.foldl State.putShared s) with
    | .next t => .next ((s.othersWrote.map fun w => s.sharedNow w.reg).foldl (fun t w => if t.otherStands w then t.putShared w else t) t)
    | r => r

/-- The core that a rank operand of `MFSR` or `MTSR` names; `none` traps BOUNDS (R265). -/
def State.srCore (s : State) : Option (Fin 32) → Option Nat
  | none => some s.cur.val
  | some r => if (s.rs r).toNat < 384 then some (s.rs r).toNat else none

/-- BOUNDS of the rank form (R265). -/
def State.srBounds (s : State) (r : Option (Fin 32)) : Trap := ⟨cBOUNDS, (r.map s.rs).getD 0, 0⟩

end Sys2Proof.Machine
end

