-- ==== Sys2Proof/Machine/Lateral.lean ====
section
/-! DEFINITION. The lateral network and the results that come back to a sequencer: R16, R34, R40, R100,
R247, R248, R302, R323, R331, R385. -/

namespace Sys2Proof.Machine

/-! ## Parcels and the landing buffer (R100) -/

/-- Vault bytes with their tag and the poison of their words. -/
def State.parcel (s : State) (owner : BitVec 8) (c off n : Nat) : Parcel :=
  let v := s.vault c
  ⟨v.read owner off n, v.secure off n, (List.range n).map fun i => v.bad (off + i) 1⟩

/-- Poisons the words of the bytes that carry poison. -/
def Vault.poisonBy (v : Vault) (off : Nat) : List Bool → Vault
  | [] => v
  | b :: bs => Vault.poisonBy (if b then v.poison off 1 else v) (off + 1) bs

/-- Writes a parcel: a word that carries poison stays poisoned. -/
def State.putParcel (s : State) (owner : BitVec 8) (c off : Nat) (p : Parcel) : State :=
  s.modVault c fun v => (v.write owner off p.bytes p.sec).poisonBy off p.bad

/-- The bank rows under some bytes. -/
def rowsOf (off n : Nat) : List LandRow :=
  (List.range ((off + max n 1 - 1) / 256 + 1 - off / 256)).map fun i => ⟨(off / 256 + i) / 512, (off / 256 + i) % 512⟩

/-- Rows that some bytes add to the landing buffer: beats to one row merge. -/
def Vault.newRows (v : Vault) (off n : Nat) : List LandRow := (rowsOf off n).filter fun r => !v.landing.contains r

/-- Rows of the landing buffer (R100). -/
def landingRows : Nat := 256

/-- A lateral write enters the landing buffer and is part of the vault from then on; it wakes. `none`:
the buffer is full. -/
def State.land (s : State) (owner : BitVec 8) (c off : Nat) (p : Parcel) : Option State :=
  let new := (s.vault c).newRows off p.bytes.length
  if landingRows < (s.vault c).landing.length + new.length then none
  else
    let s := s.putParcel owner c off p
    some ((s.modVault c fun v => { v with landing := v.landing ++ new }).wake c)

/-- The buffer retires the oldest row of a bank. -/
def Vault.retireRow (v : Vault) (bank : Nat) : Vault := { v with landing := dropFirst (fun r => r.bank == bank) v.landing }

def execLandingRowRetire (core : CoreId) (bank : Fin 16) (s : State) : Host.Outcome State Fault Refusal :=
  .next (s.modVault core.val fun v => v.retireRow bank.val)

/-! ## Scrubbing (R248) -/

/-- A bank scrubs its next row: words with a correctable error are rewritten. -/
def Vault.scrub (v : Vault) (bank : Nat) : Vault :=
  let row := vget 0 v.scrubAt bank
  let v := v.correct (131072 * bank + 256 * row) 256
  { v with scrubAt := vset v.scrubAt bank ((row + 1) % 512) }

def execVaultScrub (core : CoreId) (bank : Fin 16) (s : State) : Host.Outcome State Fault Refusal :=
  .next (s.modVault core.val fun v => v.scrub bank.val)

/-- An MSC slice scrubs: a line's value is the corrected one at every read, so nothing changes. -/
def execMscScrub (_leaf : Fin 2) (s : State) : Host.Outcome State Fault Refusal := .next s

/-! ## Remote vault accesses (R16, R40, R302) -/

def VReq.writes (r : VReq) : Bool :=
  match r.kind with
  | .load => false
  | _ => true

/-- A request that may act: its time has come, and no earlier request of its sequencer to its target waits, nor
an earlier write of its class from its core (R144, R157). -/
def State.vreqReady (s : State) (r : VReq) : Bool :=
  !r.acted && decide (r.due ≤ s.cycle) &&
    !(s.vreqs.any fun x => !x.acted && x.core == r.core && x.target == r.target && decide (x.id < r.id) &&
      (x.seq == r.seq || (x.ocl == r.ocl && x.writes && r.writes)))

/-- Bytes of a request that have performed (R99): its `off` and `n` name the rest. -/
def VReq.doneBytes (r : VReq) : Nat := r.ty.width / 8 - r.n

/-- The pointer that names a remote place. -/
def State.remotePtr (s : State) (r : VReq) : Word :=
  wd ((1 + b2n r.acc) * 2 ^ 60 + (s.core r.target).rank * 2 ^ 48 + (r.off - r.doneBytes))

/-- A request that has acted: its value, tag and poison, and the slot in which its reply arrives. -/
def State.vreqActed (s : State) (r : VReq) (val : Word) (sec bad : Bool) : State :=
  let due := s.cycle + 10 + s.hops r.core r.target
  { s with vreqs := s.vreqs.map fun x => if x.id = r.id then { r with acted := true, val := val, sec := sec, bad := bad, due := due } else x }

/-- A request whose first row has performed: what is left of it. -/
def State.vreqPart (s : State) (r : VReq) (m : Nat) (val : Word) (sec bad : Bool) : State :=
  { s with vreqs := s.vreqs.map fun x =>
      if x.id = r.id then { r with off := r.off + m, n := r.n - m, val := val, sec := sec, bad := bad } else x }

/-- What a request does at its target, a bank row at a time (R99); unchanged while it waits there. -/
def State.vreqAct (s : State) (r : VReq) : State :=
  let v := s.vault r.target
  let k := s.core r.target
  if r.acc then
    if !k.arrayIdle then s
    else match r.kind with
      | .load => s.vreqActed r (extend r.ty (leNat (k.readAcc r.off r.n))) (k.accSecure r.off r.n) false
      | _ => (s.modCore r.target fun k => (k.writeAcc r.off (leBytes r.n r.val.toNat)).markAcc (accRows r.off r.n) r.sec).vreqActed r 0 r.sec false
  else match r.kind with
    | .load =>
      let m := rowPart r.off r.n
      let val := r.val.toNat + leNat (v.read r.owner r.off m) * 2 ^ (8 * r.doneBytes)
      let sec := r.sec || v.secure r.off m
      let bad := r.bad || v.bad r.off m
      let t := s.modVault r.target fun v => v.correct r.off m
      if m < r.n then t.vreqPart r m (wd val) sec bad else t.vreqActed r (extend r.ty val) sec bad
    | .store =>
      let m := rowPart r.off r.n
      match s.land r.owner r.target r.off ⟨leBytes m r.val.toNat, r.sec, []⟩ with
      | some t => if m < r.n then t.vreqPart r m (r.val >>> (8 * m)) r.sec false else t.vreqActed r 0 r.sec false
      | none => s
    | .atom op cmp =>
      let old := leNat (v.read r.owner r.off r.n)
      if v.bad r.off r.n then s.vreqActed r 0 false true
      else
        let s := s.modVault r.target fun v => v.correct r.off r.n
        let t := match atomNew r.ty op old r.val.toNat cmp.toNat with
          | some x => s.modVault r.target fun v => v.write r.owner r.off (leBytes r.n x) r.sec
          | none => s
        t.vreqActed r (extend r.ty old) (v.secure r.off r.n) false

def execRemoteVaultAccess (n : Nat) (s : State) : Host.Outcome State Fault Refusal :=
  match s.vreqs.find? fun r => r.id == n with
  | none => .next s
  | some r => .next (if s.vreqReady r then s.vreqAct r else s)

/-- The result of a request, with what the reply carries. -/
def Result.reply (x : Result) (r : VReq) (ptr : Word) : Result :=
  if x.src = .vault r.id then
    { x with val := r.val, src := .load, sec := x.sec || r.sec, bad := if r.bad then some (cPOISON, ptr) else none }
  else x

/-- The reply reaches its issuer: a load's value waits to be written, an atomic's is written and the
instruction retires, or traps on poison, once every earlier load of the sequencer has arrived (R331). -/
def State.vreqReply (s0 : State) (r : VReq) : State :=
  let s := s0
  let p := s.remotePtr r
  let s := { s with vreqs := s.vreqs.filter fun x => x.id != r.id }
  match r.kind with
  | .store => s
  | .load => s.modCore r.core fun k => k.modSeq r.seq fun q => { q with results := q.results.map fun x => x.reply r p }
  | .atom _ _ =>
    let q := (s.core r.core).seq r.seq
    if q.wait = some (.vault r.id) then
      match q.results.find? fun x => x.src == .vault r.id with
      | none => s
      | some x =>
        let s := s.modCore r.core fun k => k.modSeq r.seq fun q => { q with results := q.results.filter fun x => x.src != .vault r.id }
        if r.bad then
          if ((s.core r.core).seq r.seq).travels then s0 else (s.consumeOn r.core r.seq ⟨cPOISON, p, 0⟩).freezeOn cPOISON
        else (s.modCore r.core fun k => k.modSeq r.seq fun q => q.landResult (x.reply r p)).retireHeld r.core r.seq
    else s

def execRemoteVaultReply (n : Nat) (s : State) : Host.Outcome State Fault Refusal :=
  match s.vreqs.find? fun r => r.id == n with
  | none => .next s
  | some r => .next (if r.acted && decide (r.due ≤ s.cycle) then s.vreqReply r else s)

/-! ## Results (R34, R323, R331, R385) -/

def Result.isLoad (r : Result) : Bool := r.src == .load
def Result.isMulDiv (r : Result) : Bool := r.src == .mul || r.src == .div

/-- The oldest pending result of a kind is written. -/
def Seq.landFirst (q : Seq) (p : Result → Bool) : Seq :=
  match q.results.find? p with
  | some r => { q.landResult r with results := dropFirst p q.results }
  | none => q

def execLoadResult (core : CoreId) (q : SeqId) (s : State) : Host.Outcome State Fault Refusal :=
  .next (s.modCore core.val fun k => k.modSeq q fun x => x.landFirst Result.isLoad)

def execMulDivResult (core : CoreId) (q : SeqId) (s : State) : Host.Outcome State Fault Refusal :=
  .next (s.modCore core.val fun k => k.modSeq q fun x => x.landFirst Result.isMulDiv)

def execSfuResultLand (core : CoreId) (s : State) : Host.Outcome State Fault Refusal := .next (s.modCore core.val (Core.landDue s.cycle))

/-- Whether a waiting `WAITI` has reached its deadline. -/
def State.waitiDue (s : State) (c : Nat) (q : SeqId) : Bool :=
  match ((s.core c).seq q).wait with
  | some (.until d) => decide (d.toNat ≤ s.timebase.toNat)
  | _ => false

def execWaitiDeadline (core : CoreId) (q : SeqId) (s : State) : Host.Outcome State Fault Refusal :=
  .next (if s.waitiDue core.val q then s.retireHeld core.val q else s)

end Sys2Proof.Machine
end

