-- ==== Sys2Proof/Machine/Queue.lean ====
section
/-! DEFINITION. Data queues and barriers (group 0x3, but for `XCH` and `PHASE`): R15, R28, R57, R303,
R304, R351 to R353. -/

namespace Sys2Proof.Machine

/-- The sequencer that pushes a queue: q0 to q5 run from the AS to the XS (R15). -/
def pusher (q : Fin 8) : SeqId := if q.val < 6 then .as else .xs

def trapQueue (q : Nat) (why : Nat) : Trap := ⟨cQUEUE, wd q, wd why⟩

def Core.queue (k : Core) (q : Fin 8) : List QEnt := vget [] k.q q.val

def Core.setQueue (k : Core) (q : Fin 8) (l : List QEnt) : Core := { k with q := vset k.q q.val l }

/-- `QPUSH` (R352): the entry carries the tag and the poison of its source. It is a release: what its sequencer
has sent out performs first (R149). -/
def execQpush (c : Ctl) (q : Fin 8) (a : Fin 32) (s : State) : Host.Outcome State Fault Refusal :=
  let i : Instr := .qpush c q a
  issue i (fun s =>
    if pusher q ≠ s.curSeq then .trap s (trapQueue q.val 0)
    else
      let l := s.cc.queue q
      if 32 ≤ l.length || !s.allPerformed then .wait s
      else
        let e : QEnt := ⟨s.rs a, s.srcSec i.regs c, if a = 0 then none else SMap.find? s.sq.sPois a.val⟩
        .done ((s.modCC fun k => k.setQueue q (l ++ [e])).wakeSeq s.cur.val (SeqId.other s.curSeq)) false) s

/-- `QPOP` (R352). -/
def execQpop (c : Ctl) (d : Fin 32) (q : Fin 8) (s : State) : Host.Outcome State Fault Refusal :=
  issue (.qpop c d q) (fun s =>
    if pusher q = s.curSeq then .trap s (trapQueue q.val 0)
    else match s.cc.queue q with
      | [] => .wait s
      | e :: l => .got (s.modCC fun k => k.setQueue q l) ⟨d, e.val, .load, e.bad, e.sec⟩) s

/-- Entries that a queue holds (R351); for bq, the outcomes that run toward the sequencer. -/
def State.queueCount (s : State) : QB → Nat
  | .q r => (s.cc.queue r).length
  | .bq => (s.cc.bqIn s.curSeq).length

def execQcnt (c : Ctl) (d : Fin 32) (q : QB) (s : State) : Host.Outcome State Fault Refusal :=
  issue (.qcnt c d q) (fun s => .done (s.ws d (wd (s.queueCount q))) false) s

/-! ## Barriers (R57, R303) -/

/-- A `BAR` of a shape: SHAPE when the shape is larger than the launch or differs from that of the
core's other sequencer, with EINFO0 = IMM32; otherwise the core waits for its group. -/
def State.arrive (s : State) (imm : Nat) (lw lh : BitVec 3) : Eff :=
  let l := s.lc
  let differs := match (s.cc.seq (SeqId.other s.curSeq)).wait with
    | some (.bar w h _) => w != lw || h != lh
    | _ => false
  if differs || decide (l.wid < 2 ^ lw.toNat) || decide (l.hgt < 2 ^ lh.toNat) then .trap s ⟨cSHAPE, wd imm, 0⟩
  else .hold (s.modSq fun q => { q with barShape := some (lw, lh) }) (.bar lw lh s.cycle)

def execBar (c : Ctl) (lw lh : BitVec 3) (s : State) : Host.Outcome State Fault Refusal :=
  issue (.bar c lw lh) (fun s => s.arrive (lw.toNat + 16 * lh.toNat) lw lh) s

/-- `BAR.all` names the whole launch. -/
def execBarAll (c : Ctl) (s : State) : Host.Outcome State Fault Refusal :=
  issue (.barAll c) (fun s =>
    s.arrive 0 (BitVec.ofNat 3 (log2 s.lc.wid)) (BitVec.ofNat 3 (log2 s.lc.hgt))) s

end Sys2Proof.Machine
end

