-- ==== Sys2Proof/Machine/Stream.lean ====
section
/-! DEFINITION. Conditional streams (group 0x7): R62, R318 to R321. -/

namespace Sys2Proof.Machine

/-! ## Stream tiles (R318) -/

/-- A stream: the vault offset of its tile, its capacity and its two counts. -/
structure Stream where
  off : Nat
  cap : Nat
  wr : Nat
  rd : Nat
  deriving DecidableEq, Repr

def Stream.fill (x : Stream) : Nat := (x.wr + 2 ^ 32 - x.rd) % 2 ^ 32

/-- Vault offset of element `e`. -/
def Stream.at_ (x : Stream) (e : Nat) : Nat := x.off + 64 + 4 * (e % 2 ^ 32 % x.cap)

/-- Capacity of a tile of a size of the form that R318 gives. -/
def streamCap (size : Nat) : Option Nat :=
  if size % 4096 = 64 ∧ 1 ≤ size / 4096 ∧ size / 4096 ≤ 31 then some (1024 * (size / 4096)) else none

/-- The stream in a tile of a core. -/
def State.stream (s : State) (c : Nat) (t : Fin 32) : Stream :=
  let e := (s.core c).tile t
  let h := leNat (s.readVault c e.off 8)
  ⟨e.off, (streamCap e.size).getD 1024, bitsOf h 31 0, bitsOf h 63 32⟩

/-- Writes the counts of a stream, WR below RD. -/
def State.setCounts (s : State) (c : Nat) (x : Stream) (sec : Bool) : State :=
  s.writeVault c x.off (leBytes 4 x.wr ++ leBytes 4 x.rd) sec

/-- The poisoned pointer that a stream's header or a run of its elements holds. -/
def State.streamBad (s : State) (c : Nat) (x : Stream) (e n : Nat) : Option Word :=
  let v := s.vault c
  if v.bad x.off 8 then some (ownPtr x.off)
  else ((List.range n).find? fun i => v.bad (x.at_ (e + i)) 4).map fun i => ownPtr (x.at_ (e + i) / 8 * 8)

/-- The checks that every stream instruction makes on its tile (R318). -/
def State.withStream (s : State) (t : Fin 32) (f : Stream → Eff) : Eff :=
  let e := s.cc.tile t
  if e.state ≠ .ready || s.classHeld 0 hereTarget then .wait s
  else match streamCap e.size with
    | none => .trap s (trapBounds (wd e.size) (wd (0x100 + t.val)))
    | some cap =>
      let x := s.stream s.cur.val t
      match s.streamBad s.cur.val x 0 0 with
      | some p => .trap s ⟨cPOISON, p, 0⟩
      | none => if cap < x.fill then .trap s (trapBounds (wd (x.wr + 2 ^ 32 * x.rd)) (wd (0x100 + t.val))) else f x

/-- Writes elements from `e` on. -/
def State.putElems (s : State) (c : Nat) (x : Stream) (e : Nat) (sec : Bool) : List Word32 → State
  | [] => s
  | v :: vs => State.putElems (s.writeVault c (x.at_ e) (leBytes 4 v.toNat) sec) c x (e + 1) sec vs

/-- Elements from `e` on. -/
def State.getElems (s : State) (c : Nat) (x : Stream) (e n : Nat) : List Word32 :=
  (List.range n).map fun i => BitVec.ofNat 32 (leNat (s.readVault c (x.at_ (e + i)) 4))

/-- Corrects the words of a stream's header and of a run of its elements, which are read (R247). -/
def State.correctElems (s : State) (c : Nat) (x : Stream) (e n : Nat) : State :=
  s.modVault c fun v => (List.range n).foldl (fun v i => if v.soft.isEmpty then v else v.correct (x.at_ (e + i)) 4) (v.correct x.off 8)

/-- Whether a stream's header or elements lie in a secure row. -/
def State.streamSec (s : State) (c : Nat) (x : Stream) (e n : Nat) : Bool :=
  let v := s.vault c
  v.secure x.off 8 || (List.range n).any fun i => v.secure (x.at_ (e + i)) 4

/-! ## `CSPUSH` and `CSPOP` (R319, R320) -/

def execCspush (c : Ctl) (t a : Fin 32) (s : State) : Host.Outcome State Fault Refusal :=
  issue (.cspush c t a) (fun s =>
    s.withStream t fun x =>
      let vs := ((List.range 1024).filter fun l => bt (s.lanes c) l).map fun l => lane (s.rv a) l
      let sec := bt s.cc.x.vSec a.val || bt s.cc.x.pSec c.lPred.val
      if x.cap < x.fill + vs.length then .trap s (trapBounds (wd x.fill) (wd (0x100 + t.val)))
      else if sec && !s.lc.flagS then .trap s (trapWorld (ownPtr x.off))
      else
        let u := s.putElems s.cur.val x x.wr sec vs
        .done (u.setCounts s.cur.val { x with wr := (x.wr + vs.length) % 2 ^ 32 } false) false) s

def execCspop (c : Ctl) (d t : Fin 32) (s : State) : Host.Outcome State Fault Refusal :=
  issue (.cspop c d t) (fun s =>
    s.withStream t fun x =>
      if x.fill < 1024 then .wait s
      else match s.streamBad s.cur.val x x.rd 1024 with
        | some p => .trap s ⟨cPOISON, p, 0⟩
        | none =>
          let vs := s.getElems s.cur.val x x.rd 1024
          let u := (s.correctElems s.cur.val x x.rd 1024).writeLanes d (BitVec.allOnes 1024) (tab 1024 fun l => vs.getD l 0)
          .done (u.setCounts s.cur.val { x with rd := (x.rd + 1024) % 2 ^ 32 } false)
            (s.streamSec s.cur.val x x.rd 1024)) s

/-! ## `CSBAL` (R321) -/

def execCsbal (c : Ctl) (d : Fin 32) (p : Fin 16) (t : Fin 32) (s : State) : Host.Outcome State Fault Refusal :=
  issue (.csbal c d p t) (fun s =>
    s.withStream t fun x =>
      match s.streamBad s.cur.val x x.rd x.fill with
      | some q => .trap s ⟨cPOISON, q, 0⟩
      | none => .hold s (.csbal d p t s.cycle)) s

/-- The shape of an XS's current group (R154). -/
def State.xsShape (s : State) (c : Nat) : Nat × Nat := groupShape (s.launchOn c) (s.core c).xs.barShape

/-- A core's waiting `CSBAL` for a group shape: destination, predicate, tile and arrival slot. -/
def State.csbalAt (s : State) (c : Nat) (sh : Nat × Nat) : Option (Fin 32 × Fin 16 × Fin 32 × Nat) :=
  match (s.core c).xs.wait with
  | some (.csbal d p t since) => if s.xsShape c = sh then some (d, p, t, since) else none
  | _ => none

/-- Start and length of the run of S that group rank `g` of `n` receives of `f` elements. -/
def csRun (f n g : Nat) : Nat × Nat := (g * (f / n) + min g (f % n), f / n + b2n (decide (g < f % n)))

/-- The stream that a share makes: RD at the first of its elements that stay. -/
def CsShare.stream (x : CsShare) (n : Nat) : Stream := ⟨x.off, x.cap, (x.rd + x.vs.length) % 2 ^ 32, (x.rd + n) % 2 ^ 32⟩

/-- Elements of a share that come from other cores. -/
def CsShare.foreign (x : CsShare) : Nat := x.vs.length - (x.hi - x.lo)

def CsShare.isOwn (x : CsShare) (i : Nat) : Bool := decide (x.lo ≤ i) && decide (i < x.hi)

/-- The shares of a group whose cores have all arrived: the streams concatenated in group-rank order, and the run of each
core. Where RD starts is not stated: a free value (log 16). -/
def State.csStart (s : State) (g : List Nat) (ws : List (Fin 32 × Fin 16 × Fin 32 × Nat)) : State :=
  let xs := (g.zip ws).map fun e => (e.1, s.stream e.1 e.2.2.2.1)
  let all := xs.flatMap fun e => s.getElems e.1 e.2 e.2.rd e.2.fill
  let sec := xs.any fun e => s.streamSec e.1 e.2 e.2.rd e.2.fill
  (xs.zipIdx).foldl (fun t e =>
    let r := csRun all.length g.length e.2
    let b := ((xs.take e.2).map fun y => y.2.fill).sum
    let f := t.takeFree
    (f.2.correctElems e.1.1 e.1.2 e.1.2.rd e.1.2.fill).modCore e.1.1 fun k => { k with cs := some ⟨e.1.2.off, e.1.2.cap, bf f.1 31 0, (all.drop r.1).take r.2, sec,
      max r.1 b - r.1, min (r.1 + r.2) (b + e.1.2.fill) - r.1, 0⟩ }) s

/-- Elements of a share that come from other cores are lateral writes, which wait for room in the landing buffer (R100):
the state after those from `i` on that find room, and the first that does not. -/
def State.csLand (s : State) (c : Nat) (x : CsShare) : Nat → List Word32 → State × Nat
  | i, [] => (s, i)
  | i, v :: vs =>
    if x.isOwn i then State.csLand s c x (i + 1) vs
    else match s.land (s.launchOn c).owner c ((x.stream 0).at_ (x.rd + i)) ⟨leBytes 4 v.toNat, x.sec, []⟩ with
      | some t => State.csLand t c x (i + 1) vs
      | none => (s, i)

/-- The elements of a core's share land as far as its landing buffer has room. -/
def State.csLandCore (s : State) (c : Nat) : State :=
  match (s.core c).cs with
  | none => s
  | some x =>
    let r := s.csLand c x x.done (x.vs.drop x.done)
    r.1.modCore c fun k => { k with cs := some { x with done := r.2 } }

/-- Whether a core's share has landed. -/
def Core.csLanded (k : Core) : Bool := (k.cs.map fun x => decide (x.vs.length ≤ x.done)).getD false

/-- A core's own elements are written, its stream has its new counts, and up to 1,024 elements move into the register. -/
def State.csDeliver (s : State) (c : Nat) : State :=
  match (s.core c).cs, (s.core c).xs.wait with
  | some x, some (.csbal d p _ _) =>
    let k := min x.vs.length 1024
    let s := s.putElems c (x.stream 0) (x.rd + x.lo) x.sec ((x.vs.drop x.lo).take (x.hi - x.lo))
    let s := s.setCounts c (x.stream k) false
    let s := s.modCore c fun q => ({ q with cs := none } : Core).modX fun y =>
      let y := y.writeLanes d (BitVec.allOnes 1024) (tab 1024 fun l => if l < k then x.vs.getD l 0 else 0)
      let y := y.wp p (predOf fun l => decide (l < k))
      { y with vSec := setBit y.vSec d.val x.sec, pSec := if p.val = 15 then y.pSec else setBit y.pSec p.val x.sec }
    s.retireHeld c .xs
  | _, _ => s

/-- Whether `CSBAL` completes on a group: its slot has come (R321), and every share has landed (R100). -/
def State.csDue (s : State) (sh : Nat × Nat) (g : List Nat) (ws : List (Fin 32 × Fin 16 × Fin 32 × Nat)) : Bool :=
  let last := (ws.map fun w => w.2.2.2).foldl max 0
  let m := (g.map fun k => (((s.core k).cs.map CsShare.foreign).getD 0)).foldl max 0
  (g.all fun k => (s.core k).csLanded) && decide (last + 40 + 2 * (sh.1 + sh.2) + cdiv m 16 ≤ s.cycle)

/-- `CSBAL` moves on: once every core of the group has arrived the shares land, and it completes on every core in one
slot. -/
def State.csbalComplete (s : State) (c : Nat) : State :=
  let sh := s.xsShape c
  let g := s.groupCores c sh
  let ws := g.filterMap fun k => s.csbalAt k sh
  if !(g.contains c) || ws.length ≠ g.length then s
  else
    let s := if g.any fun k => (s.core k).cs.isNone then s.csStart g ws else s
    let s := g.foldl State.csLandCore s
    if s.csDue sh g ws then g.foldl State.csDeliver s else s

/-- Whether every core of the group of a core's waiting `CSBAL` has arrived: a pre-emption lets it complete
first (R304, R321). -/
def State.csbalFull (s : State) (c : Nat) : Bool :=
  let sh := s.xsShape c
  (s.csbalAt c sh).isSome && (s.groupCores c sh).all fun k => (s.csbalAt k sh).isSome

def execCsbalComplete (core : CoreId) (s : State) : Host.Outcome State Fault Refusal := .next (s.csbalComplete core.val)

end Sys2Proof.Machine
end

