-- ==== Sys2Proof/Machine/Superstep.lean ====
section
/-! DEFINITION. Barriers completing, exchange steps and phases: R57 to R60, R100, R154, R160, R173, R174,
R303, R348, R387. -/

namespace Sys2Proof.Machine

/-! ## Barriers (R57, R303) -/

def Seq.barAt (q : Seq) (lw lh : BitVec 3) : Option Nat :=
  match q.wait with
  | some (.bar w h since) => if w = lw ∧ h = lh then some since else none
  | _ => none

/-- A core's arrival slot at a barrier: both sequencers wait at it, or one does and the other has stopped. -/
def Core.barArrival (k : Core) (lw lh : BitVec 3) : Option Nat :=
  match k.as.barAt lw lh, k.xs.barAt lw lh with
  | some a, some b => some (max a b)
  | some a, none => if k.xs.run = .stopped then some a else none
  | none, some b => if k.as.run = .stopped then some b else none
  | none, none => none

/-- The shape of the barrier that a core waits at. -/
def Core.barShape (k : Core) : Option (BitVec 3 × BitVec 3) :=
  match k.as.wait, k.xs.wait with
  | some (.bar w h _), _ => some (w, h)
  | _, some (.bar w h _) => some (w, h)
  | _, _ => none

/-- Whether a core's own accesses on path L have performed. -/
def State.coreQuiet (s : State) (c : Nat) : Bool := !(s.vreqs.any fun r => r.core == c && !r.acted)

/-- Whether a barrier has completed: every core of the group has arrived, its accesses have performed,
and the delay has passed. -/
def State.barReady (s : State) (g : List Nat) (lw lh : BitVec 3) : Bool :=
  let as_ := g.map fun c => (s.core c).barArrival lw lh
  as_.all Option.isSome && g.all s.coreQuiet &&
    decide ((as_.map fun a => a.getD 0).foldl max 0 + 40 + 2 * (2 ^ lw.toNat + 2 ^ lh.toNat) ≤ s.cycle)

def Seq.atBar (q : Seq) : Bool :=
  match q.wait with
  | some (.bar _ _ _) => true
  | _ => false

/-- A core's barrier instructions retire. -/
def State.barRetire (s : State) (c : Nat) : State :=
  let s := if (s.core c).as.atBar then s.retireHeld c .as else s
  if (s.core c).xs.atBar then s.retireHeld c .xs else s

/-- Whether every core of the group of the barrier that a core waits at has arrived: a pre-emption lets it
complete first (R304). -/
def State.barFull (s : State) (c : Nat) : Bool :=
  match (s.core c).barShape with
  | none => false
  | some sh => (s.groupCores c (2 ^ sh.1.toNat, 2 ^ sh.2.toNat)).all fun k => ((s.core k).barArrival sh.1 sh.2).isSome

/-- The barrier that a core waits at completes, if it has. -/
def State.barrierComplete (s : State) (c : Nat) : State :=
  match (s.core c).barShape with
  | none => s
  | some sh =>
    let g := s.groupCores c (2 ^ sh.1.toNat, 2 ^ sh.2.toNat)
    if s.barReady g sh.1 sh.2 then g.foldl State.barRetire s else s

def execBarrierComplete (core : CoreId) (s : State) : Host.Outcome State Fault Refusal := .next (s.barrierComplete core.val)

/-! ## Exchange steps (R58 to R60, R387) -/

/-- SCHED with its EINFO0. -/
def trapSched (e0 : Nat) : Trap := ⟨cSCHED, wd e0, 0⟩

/-- A schedule entry (Table 3.6). -/
structure XEntry where
  doff : Nat
  drank : Nat
  soff : Nat
  len : Nat
  link : Nat
  slot : Nat
  zeros : Bool
  deriving DecidableEq, Repr

def XEntry.of (x : Nat) : XEntry :=
  ⟨bitsOf x 116 96, bitsOf x 75 64, bitsOf x 52 32, bitsOf x 31 20, bitsOf x 18 16, bitsOf x 15 0,
    bitsOf x 127 117 == 0 && bitsOf x 95 76 == 0 && bitsOf x 63 53 == 0 && bitsOf x 19 19 == 0⟩

def Core.stepLen (k : Core) : Nat := bf k.xctl 31 16
def Core.nent (k : Core) : Nat := bf k.xctl 11 0

/-- The entries of a core's schedule. -/
def State.schedule (s : State) (c : Nat) : List XEntry :=
  (List.range (s.core c).nent).map fun i => XEntry.of (leNat (s.readVault c (bf (s.core c).xbase 20 0 + 16 * i) 16))

/-- The rank that a link leads to within a launch. -/
def Launch.neighbour (l : Launch) (rank link : Nat) : Option Nat :=
  let x := rank % l.wid
  let y := rank / l.wid
  match link with
  | 0 => if x + 1 < l.wid then some (rank + 1) else none
  | 1 => if 0 < x then some (rank - 1) else none
  | 2 => if y + 1 < l.hgt then some (rank + l.wid) else none
  | 3 => if 0 < y then some (rank - l.wid) else none
  | _ => none

/-- The delivery delay of an entry. R60 gives 8 hops across the spine crossing and leaves open what they are
where the two leaves have retired different rows: the difference of the physical rows is added (DESIGN CHOICE,
log 60). -/
def State.xchDelay (s : State) (c : Nat) (e : XEntry) : Nat :=
  20 + 2 * s.hops c ((s.launchOn c).coreOf (s.core c).copy1 e.drank)

/-- Two entries overlap on one link. -/
def XEntry.overlaps (a b : XEntry) : Bool :=
  a.link == b.link && decide (a.slot < b.slot + b.len) && decide (b.slot < a.slot + a.len)

/-- Whether an entry fails a test of R60; `before` holds the entries ahead of it. R60's tests do not name an
offset that is not 64-byte aligned or a LEN of 0: such an entry passes (DESIGN CHOICE, log 60). -/
def State.entryFails (s : State) (c : Nat) (before : List XEntry) (e : XEntry) : Bool :=
  let l := s.launchOn c
  !e.zeros || decide (4 ≤ e.link) || !(l.neighbour (s.core c).rank e.link == some e.drank) ||
    decide (l.footBytes < e.soff + 64 * e.len) || decide (l.footBytes < e.doff + 64 * e.len) ||
    decide ((s.core c).stepLen < e.slot + e.len + s.xchDelay c e) || before.any e.overlaps

/-- Index of the first entry that fails. -/
def State.badEntry (s : State) (c : Nat) (es : List XEntry) : Option Nat :=
  (List.range es.length).find? fun i => s.entryFails c (es.take i) (es.getD i (XEntry.of 0))

/-- `XCH` (R60, R387). No rule says what it does where the NENT entries at XBASE run past the footprint: it traps
XLATE, as where XBASE is no pointer into the own vault (DESIGN CHOICE, log 60). -/
def execXch (c : Ctl) (s : State) : Host.Outcome State Fault Refusal :=
  issue (.xch c) (fun s =>
    let k := s.cc
    let p := k.xbase
    match (if bf p 3 0 ≠ 0 then .inl (trapForm p false) else s.ownVault s.cur.val p (16 * k.nent) false) with
    | .inl _ => .trap s (trapForm p false)
    | .inr o =>
      if !s.lc.flagX then .trap s (trapSched 0xFFFFFFFF)
      else if k.stepLen = 0 then .trap s (trapSched 0xFFFFFFFD)
      else if (s.vault s.cur.val).bad o (16 * k.nent) then .trap s ⟨cPOISON, p, 0⟩
      else match s.badEntry s.cur.val (s.schedule s.cur.val) with
        | some i => .trap s (trapSched i)
        | none => .hold s (.xch s.cycle)) s

/-- Arrival slot of a core's `XCH`. -/
def Core.xchAt (k : Core) : Option Nat :=
  match k.as.wait with
  | some (.xch since) => some since
  | _ => none

/-- The beats of a core's schedule. -/
def State.beatsOf (s : State) (c : Nat) : List Beat :=
  (s.schedule c).flatMap fun e => (List.range e.len).map fun b =>
    ⟨e.slot + b, e.slot + b + s.xchDelay c e, e.soff + 64 * b, (s.launchOn c).coreOf (s.core c).copy1 e.drank,
      e.doff + 64 * b, none⟩

/-- An exchange step starts once every core of the launch has arrived and the barrier delay has passed;
with differing step lengths every core traps instead (R387). -/
def State.stepStart (s : State) (id : Nat) : State :=
  match s.launch? id with
  | none => s
  | some l =>
    let cs := l.allCores
    let at_ := cs.map fun c => (s.core c).xchAt
    let len := (s.core (l.coreOf false 0)).stepLen
    if !(l.state == .running) || l.image.isSome || l.step.isSome || !(at_.all Option.isSome) || !(cs.all s.coreQuiet) ||
        decide (s.cycle < (at_.map fun a => a.getD 0).foldl max 0 + 40 + 2 * (l.wid + l.hgt)) then s
    else if cs.any fun c => (s.core c).stepLen != len then
      cs.foldl (fun s c => s.trapOn c .as (trapSched 0xFFFFFFFC)) s
    else
      let t := cs.foldl (fun t c => t.modCore c fun k => { k with
        beats := s.beatsOf c, beatLost := false, vault := k.vault.correct (bf k.xbase 20 0) (16 * k.nent) }) s
      t.modLaunch id fun l => { l with step := some (s.cycle, len) }

def execExchangeStepStart (id : Nat) (s : State) : Host.Outcome State Fault Refusal := .next (s.stepStart id)

/-- The slot of the step in which a beat moves next: in which it leaves, then in which it is written. -/
def Beat.next (b : Beat) : Nat := if b.data.isSome then b.slot else b.leave

/-- A core's beat that moves first. -/
def nextBeat (bs : List Beat) : Option Beat :=
  bs.foldl (fun o b => match o with
    | some x => if b.next < x.next then some b else some x
    | none => some b) none

/-- A beat that has left is written into its destination vault. A full buffer loses its bytes (R100). -/
def State.beatWrite (s : State) (owner : BitVec 8) (b : Beat) (p : Parcel) : State :=
  match s.land owner b.dstCore b.dst p with
  | some t => t
  | none => s.modCore b.dstCore fun k => { k with beatLost := true }

/-- A core's next beat moves, in its slot and after every beat of the launch that moves earlier (R60): it leaves
with what its source holds, or it is written. -/
def State.exchangeBeat (s : State) (c : Nat) : State :=
  let l := s.launchOn c
  match l.step, nextBeat (s.core c).beats with
  | some st, some b =>
    if s.cycle < st.1 + b.next || l.allCores.any fun k => (s.core k).beats.any fun x => decide (x.next < b.next) then s
    else match b.data with
      | none =>
        let b' := { b with data := some (s.parcel l.owner c b.src 64) }
        (s.modVault c fun v => v.correct b.src 64).modCore c fun k => { k with beats := modFirst (fun x => x == b) (fun _ => b') k.beats }
      | some p => (s.modCore c fun k => { k with beats := dropFirst (fun x => x == b) k.beats }).beatWrite l.owner b p
  | _, _ => s

/-- What an exchange step that runs must do next, and the slot in which it must: a beat, or the step's end. -/
def State.stepNext (s : State) (l : Launch) : Option (Nat × Instr) :=
  (if l.state == .running && l.image.isNone then l.step else none).map fun st =>
    (l.allCores.foldl (fun (o : Nat × Instr) c =>
      match nextBeat (s.core c).beats with
      | some b => if st.1 + b.next < o.1 then (st.1 + b.next, .exchangeBeat (Fin.ofNat 384 c)) else o
      | none => o) (st.1 + st.2, .exchangeStepEnd l.id))

def execExchangeBeat (core : CoreId) (s : State) : Host.Outcome State Fault Refusal := .next (s.exchangeBeat core.val)

/-- `XCH` retires on a core, or traps where a beat was lost. -/
def State.xchRetire (s : State) (c : Nat) : State :=
  if (s.core c).xchAt.isNone then s
  else if (s.core c).beatLost then (s.modCore c fun k => { k with beatLost := false }).trapOn c .as (trapSched 0xFFFFFFFE)
  else s.retireHeld c .as

/-- The step ends `L` slots after it started. -/
def State.stepEnd (s : State) (id : Nat) : State :=
  match s.launch? id with
  | none => s
  | some l =>
    match l.step with
    | none => s
    | some st =>
      if l.image.isSome || s.cycle < st.1 + st.2 || !(l.allCores.all fun c => (s.core c).beats.isEmpty) then s
      else l.allCores.foldl State.xchRetire (s.modLaunch id fun l => { l with step := none })

def execExchangeStepEnd (id : Nat) (s : State) : Host.Outcome State Fault Refusal := .next (s.stepEnd id)

/-! ## Phases (R173, R348) -/

/-- `PHASE` with another pair than the core's other sequencer waits with. -/
def Seq.otherPair (q : Seq) (tf tb : Fin 32) : Bool :=
  match q.wait with
  | some (.phase a b) => a != tf || b != tb
  | _ => false

def execPhase (c : Ctl) (tf tb : Fin 32) (s : State) : Host.Outcome State Fault Refusal :=
  issue (.phase c tf tb) (fun s =>
    if !s.lc.flagH || (s.cc.seq (SeqId.other s.curSeq)).otherPair tf tb then .trap s (s.cc.trapTile tf)
    else .hold s (.phase tf tb)) s

def Seq.phaseAt (q : Seq) : Option (Fin 32 × Fin 32) :=
  match q.wait with
  | some (.phase a b) => some (a, b)
  | _ => none

/-- The pair of a core whose sequencers have both come to their `PHASE`, or one while the other has stopped. -/
def Core.phaseArrived (k : Core) : Option (Fin 32 × Fin 32) :=
  match k.as.phaseAt, k.xs.phaseAt with
  | some a, some b => if a = b then some a else none
  | some a, none => if k.xs.run = .stopped then some a else none
  | none, some b => if k.as.run = .stopped then some b else none
  | none, none => none

/-- Whether a queued command names a tile. -/
def Core.namesTile (k : Core) (t : Fin 32) : Bool :=
  (k.copyQ.any fun (x : CopyCmd) => x.srcTile == some t || x.dstTile == some t) ||
    (k.gathQ.any fun (x : GathCmd) => x.tile == t || x.idx == t) ||
    (k.matQ.any fun (x : MatCmd) => !x.ranges.isEmpty && x.tile == t)

/-- The lowest queue that holds entries: 8 for the branch-outcome queues. -/
def Core.fullQueue (k : Core) : Option Nat :=
  (List.range 9).find? fun i => if i = 8 then !(k.bqA.isEmpty && k.bqX.isEmpty) else !(vget [] k.q i).isEmpty

/-- Whether a core's phase boundary has come: tb is READY, no queued command names tf, and the accesses
and results of both sequencers are in. -/
def State.boundaryReady (s : State) (c : Nat) (tf tb : Fin 32) : Bool :=
  let k := s.core c
  (k.tile tb).state == .ready && !k.namesTile tf && s.coreQuiet c &&
    !(k.as.results.any Result.remote) && !(k.xs.results.any Result.remote)

/-- The pair is swapped: the region that was filled becomes the front tile, READY. -/
def Core.swapPair (k : Core) (tf tb : Fin 32) : Core :=
  let f := k.tile tf
  let b := k.tile tb
  (k.setTile tf ⟨.ready, b.size, b.off⟩).setTile tb ⟨.empty, f.size, f.off⟩

/-- The waiting `PHASE`s of a core trap. -/
def State.phaseTrap (s : State) (c : Nat) (t : Trap) : State :=
  let s := if (s.core c).as.phaseAt.isSome then s.trapOn c .as t else s
  if (s.core c).xs.phaseAt.isSome then s.trapOn c .xs t else s

def State.phaseRetire (s : State) (c : Nat) : State :=
  let s := s.modCore c fun k => { k with as := k.as.flush, xs := k.xs.flush }
  let s := if (s.core c).as.phaseAt.isSome then s.retireHeld c .as else s
  if (s.core c).xs.phaseAt.isSome then s.retireHeld c .xs else s

/-- A core's phase boundary. -/
def State.phaseBoundary (s : State) (c : Nat) : State :=
  match (s.core c).phaseArrived with
  | none => s
  | some (tf, tb) =>
    if !s.boundaryReady c tf tb then s
    else match (s.core c).fullQueue with
      | some i => s.phaseTrap c (trapQueue i 1)
      | none =>
        (s.phaseRetire c).modCore c fun k =>
          let inC := (SMap.find? k.filledC tb.val).getD []
          let inG := (SMap.find? k.filledG tb.val).getD []
          let k := k.swapPair tf tb
          { k with
            phase := some ⟨tf, tb, SeqCheck.of k.as, SeqCheck.of k.xs, k.x.p, k.x.pSec, inC, inG, 0, k.ticket⟩
            filledC := SMap.insert (SMap.erase k.filledC tb.val) tf.val inC
            filledG := SMap.insert (SMap.erase k.filledG tb.val) tf.val inG }

def execPhaseBoundary (core : CoreId) (s : State) : Host.Outcome State Fault Refusal := .next (s.phaseBoundary core.val)

end Sys2Proof.Machine
end

