-- ==== Sys2Proof/Machine/Save.lean ====
section
/-! DEFINITION. The context save image (R234 to R237, Tables 15.6 to 15.8): what saving a core writes and
what restoring it reads. Command records have a size but no layout in the spec: their bytes are
`Config.recordBytes` of the fields given here (log 18). -/

namespace Sys2Proof.Machine

/-! ## Command records as lists of numbers -/

def optNat (o : Option Nat) : Nat := match o with | some n => n + 1 | none => 0
def natOpt (n : Nat) : Option Nat := if n = 0 then none else some (n - 1)
def optTile (o : Option (Fin 32)) : Nat := optNat (o.map Fin.val)
def tileNo (n : Nat) : Fin 32 := ⟨n % 32, Nat.mod_lt _ (by decide)⟩
def natTile (n : Nat) : Option (Fin 32) := (natOpt n).map tileNo
def regNo (n : Nat) : Fin 32 := tileNo n

/-- Fields of a copy command: ticket, operands, six levels, barrier, shape, formats, follow-on, progress. -/
def CopyCmd.fields (x : CopyCmd) : List Nat :=
  [x.ticket, x.src.toNat, x.dst.toNat, optTile x.srcTile, optTile x.dstTile, x.b, optNat x.bar,
    optNat (x.shape.map BitVec.toNat), optNat (x.follow.map fun f => f.m.toNat), (x.follow.map fun f => f.str.toNat).getD 0,
    (x.follow.map fun f => b2n f.last).getD 0, b2n x.started, x.next, b2n x.landed, b2n x.user, x.hint] ++
  x.nest.toList.flatMap (fun l => [l.n, (wi l.ss).toNat, (wi l.ds).toNat]) ++ x.fmts.toList.map BitVec.toNat

def CopyCmd.ofFields (f : List Nat) : CopyCmd :=
  let g (i : Nat) : Nat := f.getD i 0
  ⟨g 0, wd (g 1), wd (g 2), natTile (g 3), natTile (g 4), g 5, tab 6 fun i => ⟨g (16 + 3 * i), (wd (g (17 + 3 * i))).toInt, (wd (g (18 + 3 * i))).toInt⟩,
    natOpt (g 6), (natOpt (g 7)).map (BitVec.ofNat 512), tab 16 fun i => wd (g (34 + i)),
    (natOpt (g 8)).map fun m => ⟨wd m, BitVec.ofNat 2 (g 9), g 10 == 1⟩, g 11 == 1, g 12, none, none, g 13 == 1, g 14 == 1, g 15⟩

/-- Fields of a gather or scatter. -/
def GathCmd.fields (x : GathCmd) : List Nat :=
  [x.ticket, b2n x.scatter, x.base.toNat, x.tile.val, x.off, x.size, x.idx.val, x.idxOff, x.rows, x.pitch.toNat, x.b,
    optNat x.bar, x.row, b2n x.user, x.hint] ++ x.fmts.toList.map BitVec.toNat ++
  x.nest.toList.flatMap fun l => [l.n, (wi l.ss).toNat, (wi l.ds).toNat]

def GathCmd.ofFields (f : List Nat) : GathCmd :=
  let g (i : Nat) : Nat := f.getD i 0
  ⟨g 0, g 1 == 1, wd (g 2), tileNo (g 3), g 4, g 5, tileNo (g 6), g 7, g 8, wd (g 9), g 10,
    tab 6 fun i => ⟨g (31 + 3 * i), (wd (g (32 + 3 * i))).toInt, (wd (g (33 + 3 * i))).toInt⟩, natOpt (g 11), tab 16 fun i => wd (g (15 + i)), g 12, none, none, g 13 == 1, g 14⟩

/-- The number of a matrix operation, with its operands. -/
def MatOp.fields : MatOp → List Nat
  | .load sp => [0, b2n sp]
  | .swap => [1]
  | .mul sp l => [2, b2n sp, b2n l]
  | .zero => [3]
  | .drain ty r sat => [4, ty.code.toNat, r.code.toNat, b2n sat]
  | .adpt n => [5, n]

def MatOp.ofFields (f : List Nat) : MatOp :=
  let g (i : Nat) : Nat := f.getD i 0
  match g 0 with
  | 0 => .load (g 1 == 1)
  | 1 => .swap
  | 2 => .mul (g 1 == 1) (g 2 == 1)
  | 3 => .zero
  | 4 => .drain ((Ty.ofCode (g 1)).getD .i32) ((Rnd.ofCode (g 2)).getD .rne) (g 3 == 1)
  | _ => .adpt (g 1)

/-- Fields of a matrix command. The timers of its held groups stand in the side path's section. -/
def MatCmd.fields (x : MatCmd) : List Nat :=
  [x.ticket, x.stream.toNat, x.region.toNat, x.tile.val, x.off, x.size, x.fmt.toNat, x.bind, b2n x.started, x.pass,
    leNat (x.sideDone.map (BitVec.ofNat 8)), leNat (x.lastDone.map (BitVec.ofNat 8)), leNat (x.dropped.map (BitVec.ofNat 8)),
    x.sideDone.length, x.lastDone.length, x.dropped.length, x.touch.length, x.held.length, x.issued] ++
  x.touch.flatMap (fun r => [r.lo, r.hi, b2n r.wr]) ++
  x.held.flatMap (fun h => [h.g, h.handle.toNat, h.ver.toNat, b2n h.pageB, b2n h.got]) ++ x.op.fields

/-- A matrix command of some fields; `since` gives the slot of a group's first miss. -/
def MatCmd.ofFields (since : Nat → Nat) (f : List Nat) : MatCmd :=
  let g (i : Nat) : Nat := f.getD i 0
  let groups (n i : Nat) : List Nat := (leBytes (g n) (g i)).map BitVec.toNat
  let touch := (List.range (g 16)).map fun i => Range.mk (g (19 + 3 * i)) (g (20 + 3 * i)) (g (21 + 3 * i) == 1)
  let b := 19 + 3 * g 16
  let held := (List.range (g 17)).map fun i =>
    HeldGroup.mk (g (b + 5 * i)) (BitVec.ofNat 20 (g (b + 5 * i + 1))) (BitVec.ofNat 16 (g (b + 5 * i + 2))) (g (b + 5 * i + 3) == 1)
      (since (g (b + 5 * i))) (g (b + 5 * i + 4) == 1)
  ⟨g 0, g 18, MatOp.ofFields (f.drop (b + 5 * g 17)), BitVec.ofNat 2 (g 1), wd (g 2), tileNo (g 3), g 4, g 5, wd (g 6), touch, g 7, g 8 == 1, 0, g 9,
    none, groups 13 10, groups 14 11, groups 15 12, held⟩

/-- A command record of a size. -/
def recordOf (kind size : Nat) (f : List Nat) : List Byte :=
  let bs := Config.recordBytes kind f
  (bs ++ List.replicate size 0).take size

/-! ## Places in the image (Table 15.6) -/

def imgSlot : Nat := 0x270000
def imgSize (l : Launch) : Nat := 0x6C000 + l.footBytes

/-- Bits from a test, lowest first, in bytes. -/
def bitmap (n : Nat) (p : Nat → Bool) : List Byte :=
  (List.range n).map fun i => BitVec.ofNat 8 ((List.range 8).map fun j => b2n (p (8 * i + j)) * 2 ^ j).sum

def bitsNat (bs : List Bool) : Nat := bs.foldr (fun b n => b2n b + 2 * n) 0

def vregBytes (v : VReg) : List Byte := v.toList.flatMap fun x => leBytes 4 x.toNat
def wordsBytes (ws : List Word) : List Byte := ws.flatMap wordBytes

/-! ## Saving -/

/-- The instruction word at a sequencer's pc: in its instruction cache, else in memory, where it is mapped. -/
def State.wordAt (s : State) (c : Nat) (q : Seq) : Option Word128 :=
  let l := s.launchOn c
  match q.icache.find? fun x => x.fn == l.fn && x.va == q.pc.toNat / 64 * 64 with
  | some x => some (x.bytes.extractLsb' (8 * (q.pc.toNat % 64)) 128)
  | none =>
    if bf q.pc 63 57 ≠ 0 then none
    else match s.tryPage (s.xctx c (q.mode == 0)) false true q.pc q.pc.toNat with
      | .ok _ t => if t.bad.isSome then none else some (BitVec.ofNat 128 (leNat (s.readPhys l.owner t.page.sh t.page.pa 16)))
      | _ => none

/-- STALL slots of the instruction at the pc still to wait: where none has been waited for they are the word's
own. `none`: no instruction can be fetched there, so that the one fetched after the restore waits for its own. -/
def State.stallLeft (s : State) (c : Nat) (q : Seq) : Option Nat :=
  match q.stall with
  | some n => some n
  | none => (s.wordAt c q).bind fun w =>
    match decode w with
    | .ok i => i.ctl.map fun c => c.stall.toNat
    | .error _ => some 0

/-- The header (Table 15.7). -/
def State.imgHeader (s : State) (c slot : Nat) : List Byte :=
  let k := s.core c
  let l := s.launchOn c
  let pend (q : Seq) : List Byte := match q.pend with
    | some r => leBytes 8 r.cause.toNat ++ wordBytes r.e0 ++ wordBytes r.e1
    | none => List.replicate 24 0
  let mark (m : Option Marker) : List Byte := match m with
    | some m => leBytes 4 (2 ^ 31 + 2 ^ 16 * m.left.toNat + 2 ^ 8 * m.mask.toNat + m.n.toNat)
    | none => List.replicate 4 0
  leBytes 4 0x56535843 ++ leBytes 2 1 ++ leBytes 2 (b2n (k.as.run == .stopped) + 2 * b2n (k.xs.run == .stopped)) ++
    leBytes 8 (imgSize l) ++ lineBytes l.record ++ leBytes 4 k.rank ++ leBytes 1 l.owner.toNat ++ leBytes 1 (b2n l.flagS) ++
    leBytes 2 slot ++ wordBytes s.timebase ++ k.q.toList.map (fun q => BitVec.ofNat 8 q.length) ++
    [BitVec.ofNat 8 k.bqA.length, BitVec.ofNat 8 k.bqX.length] ++ List.replicate 6 0 ++
    leBytes 8 (bitsNat (k.bqA.map Prod.fst)) ++ leBytes 8 (bitsNat (k.bqX.map Prod.fst)) ++
    k.k.toList.flatMap mark ++ pend k.as ++ pend k.xs ++ k.cnt.toList.flatMap fun x => leBytes 8 x.toNat

/-- A sequencer's state (Table 15.8): what both hold, then what one of them adds. -/
def State.imgSeq (s : State) (c : Nat) (i : SeqId) : List Byte :=
  let k := s.core c
  let q := k.seq i
  let both := wordsBytes ((List.range 32).map fun r => q.rs (regNo r)) ++ wordBytes q.pc ++
    leBytes 1 (128 + bitsNat (q.f.toList.take 7)) ++ leBytes 1 ((s.stallLeft c q).getD 0) ++ List.replicate 6 0 ++
    wordsBytes [s.mstat c i, q.epc, q.ecause.setWidth 64, q.einfo0, q.einfo1, q.tvec, q.esave]
  match i with
  | .as => both ++ wordsBytes [k.xbase, k.xctl, k.eerr0, k.eerr1, k.ferr, s.vcap c, s.vhealthReg c] ++ wordsBytes k.bfmt.toList
  | .xs => both ++ wordsBytes [wd k.x.count, k.x.settleAll.vstat.setWidth 64, k.x.rmode.setWidth 64, k.x.seed.setWidth 64, 0, 0, 0] ++
      wordsBytes (k.cntcfg.toList.map fun x => x.setWidth 64)

def SfuFn.code : SfuFn → Nat
  | .exp2 => 0
  | .log2 => 1
  | .rcp => 2
  | .rsq => 3

def SfuFn.ofCode : Nat → SfuFn
  | 0 => .exp2
  | 1 => .log2
  | 2 => .rcp
  | _ => .rsq

/-- Bytes of the masks that end what `MLOAD` read into a plane (R181). -/
def Plane.maskLen (p : Plane) (g : Option Grant) : Nat :=
  if p.sparse then (g.map fun g => g.n * g.k / 8).getD 0 else 0

/-- A plane's section: the elements, then the scales, then the sparse masks. -/
def planeImg (g : Option Grant) (p : Option Plane) : List Byte :=
  match p with
  | some p =>
    let n := p.bytes.length - p.maskLen g
    p.bytes.take n ++ p.scales ++ p.bytes.drop n
  | none => []

/-- A plane read back from its section. -/
def Plane.ofImage (rd : Nat → Nat → Nat) (off : Nat) (sec : Bool) (g : Option Grant) (p : Plane) : Plane :=
  let bytes (o n : Nat) : List Byte := leBytes n (rd (off + o) n)
  let m := p.maskLen g
  let n := p.bytes.length - m
  { p with bytes := bytes 0 n ++ bytes (n + p.scales.length) m, scales := bytes n p.scales.length, sec := sec }

/-- The command that the array works on, a multiply before any other, and those queued behind it. -/
def Core.matActive (k : Core) : Option MatCmd :=
  match k.matQ.find? fun (x : MatCmd) => x.started && x.isMul with
  | some x => some x
  | none => k.matQ.find? fun (x : MatCmd) => x.started

def Core.matRest (k : Core) : List MatCmd := match k.matActive with
  | some a => k.matQ.filter fun (x : MatCmd) => x.ticket != a.ticket
  | none => k.matQ

/-- The binding set that is saved: that of the active command, else the one in force. -/
def Core.savedBind (k : Core) : Option BindSet :=
  let id := match k.matActive with
    | some x => if x.bind = 0 then k.bindNow else some x.bind
    | none => k.bindNow
  k.binds.find? fun (b : BindSet) => some b.id == id

/-- The matrix resume record. -/
def Core.imgResume (k : Core) : List Byte :=
  let a := k.matActive
  let b := k.savedBind
  let sparse (p : Option Plane) : Nat := b2n ((p.map Plane.sparse).getD false)
  (match a with
    | some x => recordOf 0 32 x.fields
    | none => List.replicate 32 0) ++
  leBytes 2 ((a.map MatCmd.pass).getD 0) ++ leBytes 2 ((b.map BindSet.nbase).getD 0) ++
  leBytes 4 (b2n a.isSome + 2 * sparse k.active + 4 * sparse k.shadow) ++
  leBytes 8 ((k.grant.map fun g => g.word.toNat + 2 ^ 32 * g.ty.code.toNat).getD 0) ++
  leBytes 16 (((k.matQ.flatMap fun (x : MatCmd) => x.held.map HeldGroup.g).eraseDups).map fun g => 2 ^ g).sum ++ List.replicate 64 0 ++ wordsBytes k.m.toList

/-- The timer of a group: that of the active command, else of the first command that holds the group back. -/
def Core.heldSince (k : Core) (g : Nat) : Option Nat :=
  (k.matActive.toList ++ k.matRest).findSome? fun (x : MatCmd) => (x.held.find? fun h => h.g == g).map HeldGroup.since

/-- The adapter side path. -/
def State.imgAdapter (s : State) (c : Nat) : List Byte :=
  let k := s.core c
  let b := k.savedBind
  let pin (p : Option Pin) : List Byte := match p with
    | some p => (lineBytes p.entry).take 40 ++ leBytes 2 p.count ++ (lineBytes p.entry).drop 42
    | none => List.replicate 64 0
  let timer (g : Nat) : Nat := ((k.heldSince g).map fun t => s.cycle - t).getD 0
  let xa (i : Nat) : Nat := ((b.map fun (b : BindSet) => SMap.get 0 b.xa i).getD 0).toNat
  k.pins.toList.flatMap pin ++
    (List.range 128).flatMap (fun i => leBytes 4 (((b.map BindSet.words).getD []).getD i 0).toNat) ++
    (List.range 128).flatMap (fun i => leBytes 2 ((b.map fun (b : BindSet) => SMap.get 0 b.cursors i).getD 0)) ++
    (List.range 128).flatMap (fun i => leBytes 4 (timer i)) ++
    (List.range 8192).flatMap fun i => leBytes 7 (xa i)

/-- The sections of an image with their offsets. -/
def State.imgSections (s : State) (c slot : Nat) : List (Nat × List Byte) :=
  let k := s.core c
  let l := s.launchOn c
  let sfu (r : SfuPend) : List Byte := [1, BitVec.ofNat 8 r.dst.val, BitVec.ofNat 8 (r.at_ - k.x.count), BitVec.ofNat 8 r.fn.code] ++ List.replicate 12 0
  let copyRec (x : Option CopyCmd) : List Byte := (x.map fun x => recordOf 1 128 x.fields).getD (List.replicate 128 0)
  let gathRec (x : Option GathCmd) : List Byte := (x.map fun x => recordOf 2 128 x.fields).getD (List.replicate 128 0)
  let copyOn := k.copyQ.head?.bind fun (x : CopyCmd) => if x.started then some x else none
  let gathOn := k.gathQ.head?
  let copyRest := if copyOn.isSome then k.copyQ.drop 1 else k.copyQ
  let gathRest := k.gathQ.drop 1
  let level (x : Level) : List Byte := leBytes 4 x.n ++ leBytes 4 (wi x.ss).toNat ++ leBytes 4 (wi x.ds).toNat
  [(0x0, s.imgHeader c slot), (0x100, s.imgSeq c .as), (0x300, s.imgSeq c .xs),
   (0x500, k.x.v.toList.flatMap vregBytes),
   (0x20500, (List.range 16).flatMap fun i => leBytes 128 (k.x.rp ⟨i % 16, Nat.mod_lt _ (by decide)⟩).toNat)] ++
  (List.range 8).map (fun i => (0x20D00 + 256 * i, (vget [] k.q i).flatMap fun e => wordBytes e.val)) ++
  [(0x21500, k.x.sfu.flatMap sfu)] ++
  (List.range k.x.sfu.length).map (fun i => match k.x.sfu[i]? with
    | some r => (0x21540 + 0x1080 * i, vregBytes r.val ++ leBytes 128 r.lanes.toNat)
    | none => (0x21540 + 0x1080 * i, [])) ++
  [(0x25740, k.x.gen.toList.flatMap fun g => leBytes 4 g.toNat), (0x26740, k.mgen.toList.flatMap fun g => leBytes 4 g.toNat),
   (0x26940, k.imgResume), (0x26A40, k.matRest.flatMap fun x => recordOf 0 32 x.fields),
   (0x26E40, planeImg k.grant k.shadow), (0x2DE40, planeImg k.grant k.active), (0x34E40, s.imgAdapter c),
   (0x43E40, k.readAcc 0 accBytes),
   (0x5FE40, k.nest.toList.flatMap level ++ leBytes 4 k.cgen.toNat ++ leBytes 4 k.ggen.toNat),
   (0x5FEC0, copyRec copyOn), (0x5FF40, gathRec gathOn),
   (0x60040, copyRest.flatMap fun x => copyRec (some x)), (0x60840, gathRest.flatMap fun x => gathRec (some x)),
   (0x60C40, k.tiles.toList.flatMap fun t => leBytes 16 (t.state.code * 2 ^ 39 + t.size * 2 ^ 21 + t.off)),
   (0x6C000, s.readVault c 0 l.footBytes)]

/-- The system registers that both sequencers share, and their offsets in the image. -/
def srPlaces : List (Nat × Nat) :=
  [(0x20, 0x450), (0x21, 0x458), (0x22, 0x460), (0x30, 0x248), (0x31, 0x250), (0x42, 0x270), (0x43, 0x278),
   (0x46, 0x258), (0x47, 0x260), (0x48, 0x268)] ++
  ((List.range 8).map fun i => (0x50 + i, 0xC0 + 8 * i)) ++ ((List.range 8).map fun i => (0x58 + i, 0x480 + 8 * i)) ++
  (List.range 16).map fun i => (0x70 + i, 0x280 + 8 * i)

/-- Numbers below `n` whose bit is set. -/
def bitsIn {w : Nat} (n : Nat) (m : BitVec w) : List Nat := (List.range n).filter fun i => bt m i

/-- The 64-bit words of the image below 0x60E40 that are poisoned (R247). The flags of a sequencer share a word;
a predicate takes 16. -/
def Core.imgPoison (k : Core) : List Nat :=
  let seq (q : Seq) (w : Nat) : List Nat := (q.sPois.map fun e => w + e.1) ++ (if q.fPois = 0 then [] else [w + 0x21])
  seq k.as 0x20 ++ seq k.xs 0x60 ++ (k.x.vPois.map fun w => 0xA0 + w) ++
    ((bitsIn 16 k.x.pPois).flatMap fun r => (List.range 16).map fun i => 0x40A0 + 16 * r + i) ++
    ((bitsIn 2 k.bqPois).map fun i => 0xE + i) ++ ((bitsIn 16 k.mPois).map fun r => 0x4D38 + r) ++
    ((bitsIn 32 k.tilePois).map fun t => 0xC188 + 2 * t) ++ ((bitsIn 4 k.kPois).map fun i => 0x10 + i / 2) ++
    (k.savePois.filter fun w => decide (w < 0xC1C8)) ++
    (List.range 8).flatMap fun i =>
      let l := vget [] k.q i
      ((List.range l.length).filter fun j => (l[j]?.map fun e => e.bad.isSome).getD false).map fun j => 0x41A0 + 32 * i + j

/-- The 64-byte units of the image below 0x60E40 that hold something secure (R257): the registers of a
sequencer, from unit `b` on. -/
def Seq.imgSecure (q : Seq) (b u : Nat) : Bool :=
  if u < b + 4 then (List.range 8).any fun i => bt q.sSec (8 * (u - b) + i)
  else if u = b + 4 then q.fSec != 0 || (bitsIn 6 q.sysSec).length != 0
  else bt q.sysSec 6

/-- Whether a 64-byte unit of the image below 0x60E40 holds something secure (R257). -/
def Core.imgSecure (k : Core) (u : Nat) : Bool :=
  (srPlaces.any fun p => p.2 / 64 == u && bt k.sysSec p.1) ||
  if u = 2 then k.kSec != 0
  else if 0x17F9 ≤ u ∧ u < 0x17FB then (List.range 6).any fun i => bt k.nestSec i && decide ((u - 0x17F9) * 64 < 12 * i + 12) && decide (12 * i < (u - 0x17F8) * 64)
  else if 0x1831 ≤ u ∧ u < 0x1839 then (List.range 4).any fun i => bt k.tileSec (4 * (u - 0x1831) + i)
  else if u < 4 then u == 1 && (k.bqA.any Prod.snd || k.bqX.any Prod.snd)
  else if u < 10 then k.as.imgSecure 4 u
  else if u < 12 then false
  else if u < 18 then k.xs.imgSecure 12 u
  else if u < 20 then false
  else if u < 0x814 then bt k.x.vSec ((u - 20) / 64)
  else if u < 0x834 then bt k.x.pSec ((u - 0x814) / 2)
  else if u < 0x854 then (((vget [] k.q ((u - 0x834) / 4)).drop (8 * ((u - 0x834) % 4))).take 8).any QEnt.sec
  else if u < 0x855 then k.x.sfu.any SfuPend.sec
  else if u < 0x95D then ((k.x.sfu[(u - 0x855) / 66]?).map SfuPend.sec).getD false
  else if 0x9A7 ≤ u ∧ u < 0x9A9 then (List.range 8).any fun i => bt k.mSec (8 * (u - 0x9A7) + i)
  else if 0x9B9 ≤ u ∧ u < 0xB79 then (k.shadow.map Plane.sec).getD false
  else if 0xB79 ≤ u ∧ u < 0xD39 then (k.active.map Plane.sec).getD false
  else if 0xD6D ≤ u ∧ u < 0x10ED then (k.savedBind.map fun (b : BindSet) => bt b.sec ((u - 0xD6D) / 7)).getD false
  else if 0x10F9 ≤ u ∧ u < 0x17F9 then bt k.accSec ((u - 0x10F9) / 14)
  else false

/-- Writes the image of a core at a host address: zeros, the sections, zeros for the poisoned words, and
the two bitmaps. -/
def State.putImage (s : State) (base c slot : Nat) : State :=
  let k := s.core c
  let l := s.launchOn c
  let v := s.vault c
  let put (s : State) (off : Nat) (bs : List Byte) : State := s.writeDirect 0 (base + off) bs
  let t := put s 0 (List.replicate (imgSize l) 0)
  let t := (s.imgSections c slot).foldl (fun t x => put t x.1 x.2) t
  let ps := k.imgPoison
  let vs := (List.range (l.footBytes / 8)).filter fun w => v.bad (8 * w) 8 || k.savePois.contains (0xD800 + w)
  let t := ps.foldl (fun t w => put t (8 * w) (List.replicate 8 0)) t
  let t := vs.foldl (fun t w => put t (0x6C000 + 8 * w) (List.replicate 8 0)) t
  let t := put t 0x60E40 (bitmap 0x400 k.imgSecure ++ bitmap 0x400 fun r => v.secure (256 * r) 256)
  put t 0x61640 (bitmap 0x2000 (fun w => ps.contains w) ++ bitmap 0x8000 fun w => vs.contains w)

/-! ## Restoring (R237) -/

/-- A restored sequencer. `q0` gives what the image does not hold. -/
def Seq.ofImage (rd : Nat → Nat → Nat) (base pend : Nat) (stopped : Bool) (q0 q : Seq) : Seq :=
  let secU (u : Nat) : Bool := bitsOf (rd (0x60E40 + u / 8) 1) (u % 8) (u % 8) == 1
  let poisW (w : Nat) : Bool := bitsOf (rd (0x61640 + w / 8) 1) (w % 8) (w % 8) == 1
  let w (off : Nat) : Word := wd (rd (base + off) 8)
  let mst := rd (base + 0x110) 8
  { q with
    s := tab 32 fun r => w (8 * r)
    f := tab 8 fun i => bitsOf (rd (base + 0x108) 1) i i == 1
    pc := w 0x100
    mode := BitVec.ofNat 2 mst
    pmode := BitVec.ofNat 2 (mst / 4)
    inh := false
    epc := w 0x118
    ecause := BitVec.ofNat 8 (rd (base + 0x120) 8)
    einfo0 := w 0x128
    einfo1 := w 0x130
    tvec := w 0x138
    esave := w 0x140
    run := if stopped then .stopped else .running
    pend := if rd pend 8 = 0 then none else some ⟨BitVec.ofNat 8 (rd pend 8), wd (rd (pend + 8) 8), wd (rd (pend + 16) 8)⟩
    results := []
    wait := match q0.wait with
      | some (.remote node n) => some (.remote node n)
      | _ => none
    fences := q0.fences
    barShape := q0.barShape
    stall := q0.stall.map fun _ => rd (base + 0x109) 1
    sSec := BitVec.ofNat 32 (bitsNat ((List.range 32).map fun r => secU (base / 64 + r / 8)))
    fSec := if secU (base / 64 + 4) then BitVec.allOnes 8 else 0
    sysSec := BitVec.ofNat 7 (b2n (secU (base / 64 + 4)) * 0x3F + b2n (secU (base / 64 + 5)) * 0x40)
    fPois := if poisW (base / 8 + 0x21) then 0x7F else 0
    resumed := false
    sPois := ((List.range 32).filter fun r => poisW (base / 8 + r)).map fun r => (r, (SMap.find? q0.sPois r).getD (cPOISON, 0)) }

/-- A vault with the footprint of an image, its tags and its poison. -/
def restoredVault (rd : Nat → Nat → Nat) (l : Launch) (v : Vault) : Vault :=
  let sec (r : Nat) : Bool := bitsOf (rd (0x61240 + r / 8) 1) (r % 8) (r % 8) == 1
  let pois (w : Nat) : Bool := bitsOf (rd (0x63640 + w / 8) 1) (w % 8) (w % 8) == 1
  let v := v.write l.owner 0 (leBytes l.footBytes (rd 0x6C000 l.footBytes)) false
  let v := (List.range (l.footBytes / 256)).foldl (fun v r => if sec r then v.setSec (256 * r) 256 else v) v
  (List.range (l.footBytes / 8)).foldl (fun v w => if pois w then v.poison (8 * w) 8 else v) v

/-- A restored core, on the destination `k`: `rd` reads the image, and `k0` gives what the image does not
hold or what its records stand for (log 18). -/
def Core.ofImage (rd : Nat → Nat → Nat) (k0 k : Core) (l : Launch) (copy1 : Bool) (cycle : Nat) : Core :=
  let secU (u : Nat) : Bool := bitsOf (rd (0x60E40 + u / 8) 1) (u % 8) (u % 8) == 1
  let poisW (w : Nat) : Bool := bitsOf (rd (0x61640 + w / 8) 1) (w % 8) (w % 8) == 1
  let fl := rd 6 2
  let count := rd 0x448 8
  let word (off : Nat) : Word := wd (rd off 8)
  let ent (i j : Nat) : QEnt :=
    let old := (vget [] k0.q i)[j]?
    ⟨word (0x20D00 + 256 * i + 8 * j), secU (0x834 + 4 * i + j / 8),
      if poisW (0x41A0 + 32 * i + j) then some (((old.bind QEnt.bad)).getD (cPOISON, 0)) else none⟩
  let lanes (off : Nat) : VReg := tab 1024 fun i => BitVec.ofNat 32 (rd (off + 4 * i) 4)
  let sfuOf (i : Nat) : Option SfuPend :=
    if rd (0x21500 + 16 * i) 1 = 0 then none
    else some ⟨regNo (rd (0x21501 + 16 * i) 1), count + rd (0x21502 + 16 * i) 1, SfuFn.ofCode (rd (0x21503 + 16 * i) 1),
      lanes (0x21540 + 0x1080 * i), BitVec.ofNat 1024 (rd (0x22540 + 0x1080 * i) 128), ((k0.x.sfu[i]?).map SfuPend.fl).getD 0, secU (0x855 + 66 * i)⟩
  let outcomes (n off : Nat) : List (Bool × Bool) := (List.range n).map fun i => (bitsOf (rd off 8) i i == 1, secU 1)
  let markOf (i : Nat) : Option Marker :=
    let x := rd (0x80 + 4 * i) 4
    if bitsOf x 31 31 = 1 then some ⟨BitVec.ofNat 8 x, BitVec.ofNat 5 (x / 2 ^ 8), BitVec.ofNat 5 (x / 2 ^ 16), ((vget none k0.k i).map Marker.ticket).getD k0.ticket⟩
    else none
  let tileOf (i : Nat) : Tile :=
    let x := rd (0x60C40 + 16 * i) 16
    ⟨(match bitsOf x 40 39 with | 0 => .empty | 1 => .filling | 2 => .ready | _ => .draining), bitsOf x 38 21, bitsOf x 20 0⟩
  let timed (x : MatCmd) (h : HeldGroup) : Nat :=
    if (k0.matActive.map MatCmd.ticket) == some x.ticket then rd (0x35940 + 4 * h.g) 4 else k0.slotSeen - h.since
  let lv (i : Nat) : Level := ⟨rd (0x5FE40 + 12 * i) 4, s32 (rd (0x5FE44 + 12 * i) 4), s32 (rd (0x5FE48 + 12 * i) 4)⟩
  { k with
    launch := some l.id
    rank := rd 0x50 4
    copy1 := copy1
    ppre := none
    as := Seq.ofImage rd 0x100 0x90 (bitsOf fl 0 0 == 1) k0.as k.as
    xs := Seq.ofImage rd 0x300 0xA8 (bitsOf fl 1 1 == 1) k0.xs k.xs
    x := { k.x with
      v := tab 32 fun r => lanes (0x500 + 4096 * r)
      p := tab 16 fun r => BitVec.ofNat 1024 (rd (0x20500 + 128 * r) 128)
      vSec := BitVec.ofNat 32 (bitsNat ((List.range 32).map fun r => secU (20 + 64 * r)))
      pSec := BitVec.ofNat 16 (bitsNat ((List.range 16).map fun r => secU (0x814 + 2 * r)))
      vPois := (List.range 16384).filter fun w => poisW (0xA0 + w)
      pPois := BitVec.ofNat 16 (bitsNat ((List.range 16).map fun r => (List.range 16).any fun i => poisW (0x40A0 + 16 * r + i)))
      drained := k0.x.drained
      vstat := BitVec.ofNat 6 (rd 0x450 8)
      vflags := []
      rmode := BitVec.ofNat 3 (rd 0x458 8)
      seed := BitVec.ofNat 32 (rd 0x460 8)
      gen := tab 1024 fun i => BitVec.ofNat 32 (rd (0x25740 + 4 * i) 4)
      count := count
      hcount := 0
      sfu := (List.range 4).filterMap sfuOf
      sfuH := [] }
    q := tab 8 fun i => (List.range (rd (0x60 + i) 1)).map (ent i)
    bqA := outcomes (rd 0x68 1) 0x70
    bqX := outcomes (rd 0x69 1) 0x78
    bqPois := BitVec.ofNat 2 (bitsNat ((List.range 2).map fun i => poisW (0xE + i)))
    m := tab 16 fun i => word (0x269C0 + 8 * i)
    mSec := BitVec.ofNat 16 (bitsNat ((List.range 16).map fun r => secU (0x9A7 + r / 8)))
    mPois := BitVec.ofNat 16 (bitsNat ((List.range 16).map fun r => poisW (0x4D38 + r)))
    kPois := BitVec.ofNat 4 (bitsNat ((List.range 4).map fun i => poisW (0x10 + i / 2)))
    kSec := if secU 2 then BitVec.allOnes 4 else 0
    tileSec := BitVec.ofNat 32 (bitsNat ((List.range 32).map fun t => secU (0x1831 + t / 4)))
    nestSec := BitVec.ofNat 6 (bitsNat ((List.range 6).map fun i => secU (0x17F9 + 12 * i / 64) || secU (0x17F9 + (12 * i + 11) / 64)))
    savePois := []
    cs := none
    tilePois := BitVec.ofNat 32 (bitsNat ((List.range 32).map fun t => poisW (0xC188 + 2 * t)))
    sysSec := BitVec.ofNat 128 ((srPlaces.filter fun p => secU (p.2 / 64)).map fun p => 2 ^ p.1).sum
    k := tab 4 markOf
    tiles := tab 32 tileOf
    bfmt := tab 16 fun i => word (0x280 + 8 * i)
    xbase := word 0x248
    xctl := word 0x250
    eerr0 := word 0x258
    eerr1 := word 0x260
    ferr := word 0x268
    vcapSel := BitVec.ofNat 3 (rd 0x270 8)
    vhealth := BitVec.ofNat 16 (rd 0x278 8)
    rowmv := 0
    cnt := tab 8 fun i => BitVec.ofNat 48 (rd (0xC0 + 8 * i) 8)
    cntcfg := tab 8 fun i => BitVec.ofNat 19 (rd (0x480 + 8 * i) 8)
    wrapped := k0.wrapped
    slotSeen := cycle
    nest := tab 6 lv
    cgen := BitVec.ofNat 32 (rd 0x5FE88 4)
    ggen := BitVec.ofNat 32 (rd 0x5FE8C 4)
    copyQ := k0.copyQ.map fun (x : CopyCmd) => { x with missed := none }
    gathQ := k0.gathQ.map fun (x : GathCmd) => { x with missed := none }
    matQ := k0.matQ.map fun (x : MatCmd) => { x with
      since := cycle
      held := x.held.map fun h => { h with since := cycle - timed x h } }
    mgen := tab 128 fun i => BitVec.ofNat 32 (rd (0x26740 + 4 * i) 4)
    grant := k0.grant
    shadow := k0.shadow.map (Plane.ofImage rd 0x26E40 (secU 0x9B9) k0.grant)
    active := k0.active.map (Plane.ofImage rd 0x2DE40 (secU 0xB79) k0.grant)
    acc := tab 128 fun i => tab 128 fun j => BitVec.ofNat 56 (rd (0x43E40 + 7 * (128 * i + j)) 7)
    accSec := BitVec.ofNat 128 (bitsNat ((List.range 128).map fun r => secU (0x10F9 + 14 * r)))
    binds := k0.binds.map fun (b : BindSet) =>
      if (k0.savedBind.map BindSet.id) == some b.id then
        { b with sec := BitVec.ofNat 128 (bitsNat ((List.range 128).map fun r => secU (0xD6D + 7 * r))) }
      else b
    bindNow := k0.bindNow
    pins := k0.pins
    phase := k0.phase
    filledC := k0.filledC
    filledG := k0.filledG
    ticket := max k0.ticket k.ticket
    beats := []
    beatLost := false
    vault := restoredVault rd l k.vault }

/-! ## What the records say, for an image from elsewhere (R246; log 18) -/

/-- The part of a core that the command records, the planes and the side path's section hold. -/
def Core.ofRecords (rd : Nat → Nat → Nat) : Core :=
  let bytes (off n : Nat) : List Byte := leBytes n (rd off n)
  let fields (kind off n : Nat) : Option (List Nat) :=
    if rd off n = 0 then none else some (Config.recordFields kind (bytes off n))
  let ty := Ty.ofCode (rd 0x2696C 1)
  let g := rd 0x26968 4
  let fl := rd 0x26964 1
  let grant := ty.map fun t => Grant.mk (bitsOf g 7 0 + 1) (bitsOf g 15 8 + 1) (bitsOf g 23 16 + 256 * bitsOf g 26 26 + 1) (2 ^ bitsOf g 25 24) t
    (decide (t.maxK < bitsOf g 23 16 + 256 * bitsOf g 26 26 + 1))
  let fmts := Config.recordFields 6 (bytes 0x26940 0x100 ++ bytes 0x280 0x80)
  let plane (off bit i : Nat) : Option Plane :=
    if rd off 0x7000 = 0 then none
    else
      let sp := bitsOf fl bit bit == 1
      let fmt : Word := wd (fmts.getD i 0)
      let zeros (n : Nat) : List Byte := List.replicate n 0
      some ⟨sp, fmt, zeros ((grant.map fun x => planeBytes (fmtTy fmt) x.n x.k sp).getD 0),
        zeros (if blkSize fmt = 0 then 0 else (grant.map fun x => planeElems x.n x.k sp / blkSize fmt).getD 0), false⟩
  let pin (i : Nat) : Option Pin :=
    let off := 0x34E40 + 64 * i
    if rd off 64 = 0 then none
    else some ⟨BitVec.ofNat 20 ((Config.recordFields 3 (bytes off 64)).getD 0 0), lineOf (bytes off 40 ++ [0, 0] ++ bytes (off + 42) 22), rd (off + 40) 2⟩
  let words := (List.range 128).map fun i => BitVec.ofNat 32 (rd (0x35640 + 4 * i) 4)
  let pins := tab 32 pin
  let ents := words.map fun w => ((vget none pins (bindPin w)).map Pin.entry).getD 0
  let top := 2 ^ 32
  let cmd (f : List Nat) : MatCmd := MatCmd.ofFields (fun g => top - rd (0x35940 + 4 * g) 4) f
  let masked (x : MatCmd) : MatCmd := { x with held := x.held.filter fun h => (rd 0x26970 16).testBit h.g }
  let on := if bitsOf fl 0 0 = 1 then ((fields 0 0x26940 32).map fun f => { masked (cmd f) with pass := rd 0x26960 2 }).toList else []
  let rest := ((List.range 32).filterMap fun i => fields 0 (0x26A40 + 32 * i) 32).map fun f => masked (cmd f)
  let id := (((on ++ rest).map MatCmd.bind).find? fun b => b != 0).getD 1
  let bound := words.any fun w => bt w 31
  let set : BindSet := ⟨id, rd 0x26962 2, words, ents,
    ((List.range 128).map fun i => (i, rd (0x35840 + 2 * i) 2)).filter fun e => e.2 != 0,
    ((List.range 8192).map fun i => (i, BitVec.ofNat 56 (rd (0x35B40 + 7 * i) 7))).filter fun e => e.2 != 0, 0⟩
  { Core.reset with
    as := { Seq.reset with stall := some 0 }
    xs := { Seq.reset with stall := some 0 }
    copyQ := ((fields 1 0x5FEC0 128).toList ++ (List.range 16).filterMap fun i => fields 1 (0x60040 + 128 * i) 128).map CopyCmd.ofFields
    gathQ := ((fields 2 0x5FF40 128).toList ++ (List.range 8).filterMap fun i => fields 2 (0x60840 + 128 * i) 128).map GathCmd.ofFields
    matQ := on ++ rest
    grant := grant
    slotSeen := top
    shadow := plane 0x26E40 2 0
    active := plane 0x2DE40 1 1
    pins := pins
    binds := if bound then [set] else []
    bindNow := if bound then some id else none }

/-- The device restores only images with this MAGIC and VER (R237). -/
def goodImage (rd : Nat → Nat → Nat) : Bool := rd 0 4 == 0x56535843 && rd 4 2 == 1

/-! ## Save slots -/

/-- Host address of a save slot of a function (Table 15.11). -/
def State.slotAt (s : State) (fn slot : Nat) : Nat := (s.pfReg (0x21700 + 8 * fn)).toNat + imgSlot * slot

/-- Host address of a save slot of a launch: in the area that was its VF's when it was admitted (R243). -/
def Launch.slotAt (l : Launch) (slot : Nat) : Nat := l.cfg.saveBase.toNat + imgSlot * slot

/-- Cores of a launch: those of both copies of a paired one. -/
def Launch.nCores (l : Launch) : Nat := (if l.flagD then 2 else 1) * (l.wid * l.hgt)

/-- Slot of a core within its launch's run: rank, copy 1 behind copy 0 (log 18). -/
def Launch.slotOf (l : Launch) (c : Nat) : Nat :=
  (if l.flagD && decide (l.x0 + 16 ≤ coreX c) then l.wid * l.hgt else 0) + l.rankOf c

/-- Save slots of a function that are taken. -/
def State.slotsUsed (s : State) (fn : Nat) : List (Nat × Nat) :=
  s.launches.filterMap fun l => if l.fn = fn then l.image.map fun b => (b, l.nCores) else none

/-- The lowest run of free save slots (R234); the PF's own launches have no save area. -/
def State.freeRun (s : State) (fn n : Nat) : Option Nat :=
  if fn = pfFn then none
  else
    let used := s.slotsUsed fn
    (List.range 385).find? fun b => decide (b + n ≤ 384) && !(used.any fun u => decide (b < u.1 + u.2) && decide (u.1 < b + n))

/-- Where the image of a core of a launch lies, once that core has been saved. -/
def State.imageOf (s : State) (l : Launch) (c : Nat) : Option Nat :=
  if (s.core c).launch = some l.id then none else l.image.map fun b => l.slotAt (b + l.slotOf c)

/-- Records an engine error in the image of a core at a host address, while V of its EERR0 is 0 (R167, R209). -/
def State.imageError (s : State) (a path : Nat) (cause : BitVec 8) (boff : Nat) (addr : Word) : State :=
  if bitsOf (s.mem.readNat (a + 0x258) 8) 63 63 = 1 then s
  else s.writeDirect 0 (a + 0x258) (wordBytes (wd (2 ^ 63 + 2 ^ 40 * path + 2 ^ 32 * cause.toNat + boff)) ++ wordBytes addr)

/-- Whether a word of the footprint in an image is poisoned (Table 15.6). -/
def State.imageBad (s : State) (a off : Nat) : Bool := bt (s.mem.byte (a + 0x63640 + off / 64)) (off / 8 % 8)

/-- Updates a transaction barrier of a core of a launch, in the vault or in its saved image (R209, R218), for an engine
of a path. A poisoned one keeps its bytes (R247). -/
def State.updBarOf (s : State) (l : Launch) (c path off : Nat) (f : Bar → Bar × Bool) : State :=
  match s.imageOf l c with
  | none => s.updBarBy l.owner c path off f
  | some a =>
    if s.imageBad a off || s.imageBad a (off + 8) then (s.imageError a path cPOISON off (ownPtr off)).freezeOn cPOISON
    else s.writeDirect 0 (a + 0x6C000 + off) (f (Bar.ofBytes (s.mem.read (a + 0x6C000 + off) 16))).1.toBytes

/-- Counts sectors on a barrier of a core of a launch, for an engine of a path. -/
def State.countOf (s : State) (l : Launch) (c path : Nat) (bar : Option Nat) (n : Nat) : State :=
  match bar with
  | some off => s.updBarOf l c path off fun b => b.count n
  | none => s

/-- Records an engine error of a core of a launch, in the registers or in the image. -/
def State.errorOf (s : State) (l : Launch) (c path : Nat) (cause : BitVec 8) (bar : Option Nat) (addr : Word) : State :=
  match s.imageOf l c with
  | none => s.engineError l.owner c path cause bar addr
  | some a =>
    let s := s.imageError a path cause (bar.getD 0x1FFFFF) addr
    match bar with
    | some off => s.updBarOf l c path off fun b => ({ b with err := true }, false)
    | none => s

end Sys2Proof.Machine
end

