-- ==== Sys2Proof/Machine/Fabric.lean ====
section
/-! DEFINITION. The Zonante fabric: links and routes, remote operations at the issuer and at the target,
acknowledgements, failures and combining: R155, R157, R158, R200 to R210, R251, R342, R354. -/

namespace Sys2Proof.Machine

/-! ## The torus (R200, R201, R204) -/

/-- Coordinate of a node in a dimension. -/
def nodeAt (n : BitVec 12) (d : Nat) : Nat := bf n (4 * d + 3) (4 * d)

/-- Packages in a dimension. -/
def State.torusDim (s : State) (d : Nat) : Nat := bf (s.pfReg 0x21020) (4 * d + 15) (4 * d + 12) + 1

def State.inTorus (s : State) (n : BitVec 12) : Bool := (List.range 3).all fun d => decide (nodeAt n d < s.torusDim d)

def State.linkOf (s : State) (l : Nat) : Link := vget ⟨24, false, false, 0, 0⟩ s.links l

def State.modLink (s : State) (l : Nat) (f : Link → Link) : State := { s with links := vset s.links l (f (s.linkOf l)) }

/-- How far it is from one coordinate of a ring to another, in + direction. -/
def ringFwd (size a b : Nat) : Nat := (b + size - a % size) % size

/-- The link by which a packet of a source for a node leaves: links 2d and 2d + 1 are + and − of dimension d. It goes
round the ring the shorter way from its source's coordinate; one that this package does not lie on the way of goes the
other way round already, and so does one that has come back from the link `back` by which it left before. A link that is
down is passed the other way (R200, R204). `none`: this package, or no way. -/
def State.route (s : State) (src n : BitVec 12) (back : Option Nat) : Option Nat :=
  match (List.range 3).find? fun d => nodeAt n d != nodeAt s.nodeId d with
  | none => none
  | some d =>
    let size := s.torusDim d
    let a := nodeAt src d
    let fwd := ringFwd size a (nodeAt n d)
    let at_ := ringFwd size a (nodeAt s.nodeId d)
    let plus := decide (2 * fwd ≤ size)
    let onWay := if plus then decide (at_ ≤ fwd) else decide (ringFwd size (nodeAt s.nodeId d) a ≤ ringFwd size (nodeAt n d) a)
    let link (p : Bool) : Nat := 2 * d + if p then 0 else 1
    let p := plus == onWay
    let p := if back == some (link p) then !p else p
    if !(s.linkOf (link p)).down then some (link p) else if !(s.linkOf (link !p)).down then some (link !p) else none

/-- How much wider the timeouts of a link are than at full width. -/
def Link.scale (l : Link) : Nat := if l.ports = 24 then 1 else if l.ports = 12 then 2 else 4

/-- Slots after which an operation without an acknowledgement has failed (R206). -/
def State.ackLimit (s : State) (n : BitVec 12) : Nat :=
  100 * slotsPerUs * match s.route s.nodeId n none with
    | some l => (s.linkOf l).scale
    | none => 1

/-- The virtual channel of a packet that leaves by a link: it changes where the packet crosses the wrap link of
the ring (R201). The packet entered the ring at its source's coordinate. -/
def State.channel (s : State) (src : BitVec 12) (l : Nat) : Nat :=
  let d := l / 2
  let a := nodeAt src d
  let x := nodeAt s.nodeId d
  b2n (if l % 2 = 0 then decide (x < a) || x + 1 == s.torusDim d else decide (a < x) || x == 0)

/-- How a packet leaves by a link. -/
def State.hop (s : State) (src : BitVec 12) (l : Nat) : Hop := ⟨l, s.channel src l⟩

/-- Packets of at most 4 KiB that carry a payload (R202). -/
def packetsOf (n : Nat) : Nat := max 1 (cdiv n 4096)

/-- The packet counter of a link's IV; the ends agree a new generation before it wraps (R203). -/
def Link.seal (x : Link) (n : Nat) : Link :=
  if 2 ^ 88 ≤ x.count.toNat + n then { x with gen := x.gen + 1, count := BitVec.ofNat 88 n }
  else { x with count := x.count + BitVec.ofNat 88 n }

/-- Packets leave by a link. Those that arrive here are under a generation that the receiver accepts: link replay
sends any other again under the current one, which is delay alone (R202, R203). -/
def State.countPacket (s : State) (l n : Nat) : State := s.modLink l fun x => x.seal n

/-- Counter event 10 of a core; it reads zero in VFs (R239). -/
def State.countFabric (s : State) (c n : Nat) : State :=
  if (s.launchOn c).fn = pfFn then s.modCore c fun k => k.countEv 10 n else s

/-! ## Sequence numbers (R205) -/

def State.takeSeq (s : State) (n : BitVec 12) : BitVec 32 × State :=
  let x := SMap.get 0 s.seqOut n.toNat
  (x, { s with seqOut := SMap.set 0 s.seqOut n.toNat (x + 1) })

/-- Numbers that a replay window covers. -/
def windowSize : Nat := 1024

/-- Whether a packet is new: not seen, and not older than the window (R205). The window lists what has
been performed, the newest first. -/
def State.freshSeq (s : State) (src : BitVec 12) (q : BitVec 32) : Bool :=
  match SMap.get [] s.window src.toNat with
  | [] => true
  | h :: l => !(h :: l).contains q && (decide ((q - h).toNat < 2 ^ 31) || decide ((h - q).toNat < windowSize))

/-- Marks a packet as performed. -/
def State.markSeq (s : State) (src : BitVec 12) (q : BitVec 32) : State :=
  let l := SMap.get [] s.window src.toNat
  let top := match l with
    | [] => q
    | h :: _ => if (q - h).toNat < 2 ^ 31 then q else h
  let rest := (q :: l).filter fun x => x != top && decide ((top - x).toNat < windowSize)
  { s with window := SMap.set [] s.window src.toNat (top :: rest) }

/-! ## Failures and completions at the issuer (R206, R208, R209) -/

/-- A FERR word (Table 13.1). -/
def ferrWord (out : Bool) (kind : Nat) (tc : BitVec 8) (node : BitVec 12) (seq : BitVec 32) : Word :=
  wd (2 ^ 63 + 2 ^ 59 * b2n out + 2 ^ 56 * kind + 2 ^ 48 * tc.toNat + 2 ^ 32 * node.toNat + seq.toNat)

/-- Whether a core still holds the launch that issued an operation. -/
def State.holds (s : State) (x : Inflight) : Bool := (s.core x.core).launch == some x.launch

/-- The launch that issued an operation. -/
def State.opLaunch (s : State) (x : Inflight) : Launch := (s.launch? x.launch).getD Launch.blank

/-- Records a failure in FERR while V = 0, in the core or in its image. -/
def State.recordFerr (s : State) (x : Inflight) (w : Word) : State :=
  if s.holds x then s.modCore x.core fun k => if bt k.ferr 63 then k else { k with ferr := w }
  else match s.imageOf (s.opLaunch x) x.core with
    | some a => if bitsOf (s.mem.readNat (a + 0x268) 8) 63 63 = 1 then s else s.writeDirect 0 (a + 0x268) (wordBytes w)
    | none => s

def State.dropInflight (s : State) (x : Inflight) : State :=
  { s with inflight := dropFirst (fun y => y.node == x.node && y.seq == x.seq) s.inflight }

def State.modInflight (s : State) (x : Inflight) (f : Inflight → Inflight) : State :=
  { s with inflight := modFirst (fun y => y.node == x.node && y.seq == x.seq) f s.inflight }

/-- The snapshot of a saved core no longer waits for its remote value. -/
def State.unwait (s : State) (x : Inflight) : State :=
  s.modLaunch x.launch fun l => { l with cores := modAt l.cores (l.slotOf x.core) fun k => { k with as := { k.as with wait := none } } }

/-- Whether a sequencer waits for an operation's value. -/
def Inflight.awaited (x : Inflight) (q : Seq) : Bool := q.wait == some (.remote x.node x.seq)

/-- `RLD` or `RATOM` fails: it traps FABRIC, or leaves FABRIC pending in the image (R208, R209). -/
def State.failRead (s : State) (x : Inflight) (w : Word) : State :=
  if s.holds x then
    if x.awaited ((s.core x.core).seq x.from_) then
      (s.modCore x.core fun k => k.modSeq x.from_ Seq.flush).trapOn x.core x.from_ ⟨cFABRIC, x.ptr, w⟩
    else s
  else match s.imageOf (s.opLaunch x) x.core with
    | some a =>
      let s := if s.mem.readNat (a + 0x90) 8 = 0 then s.writeDirect 0 (a + 0x90) (leBytes 8 cFABRIC.toNat ++ wordBytes x.ptr ++ wordBytes w) else s
      s.unwait x
    | none => s

/-- Counts an operation's sectors on its barrier, with ERR first where it failed. -/
def State.settleBar (s : State) (x : Inflight) (failed : Option (BitVec 8)) (sectors : Nat) : State :=
  let l : Launch := s.opLaunch x
  match x.bar with
  | none => s
  | some off =>
    let s := match failed with
      | none => s
      | some cause =>
        if l.state = LaunchState.tracker then
          (s.modLaunch l.id fun (l : Launch) => if l.status = Status.ok then { l with status := Status.fault, detail := cause, frank := l.rankOf x.core } else l).updBarOf l x.core 6 off
            fun b => ({ b with err := true }, false)
        else s.errorOf l x.core 6 cause (some off) x.ptr
    s.countOf l x.core 6 (some off) sectors

/-- An operation or message fails (R206, R208, R214): `out` says that its outcome is unknown. -/
def State.failOp (s : State) (x : Inflight) (out : Bool) (tc cause : BitVec 8) : State :=
  let w := ferrWord out x.kind tc x.node x.seq
  let s := (s.dropInflight x).recordFerr x w
  if x.kind = 0 ∨ x.kind = 2 then s.failRead x w else s.settleBar x (some cause) x.sectors

/-- The value of `RLD` or `RATOM` arrives (R207, R209): in an image it takes the register's word whole, which is no
longer poisoned (R230, R247). -/
def State.giveValue (s : State) (x : Inflight) (v : Word) (sec : Bool) : State :=
  if s.holds x then
    if x.awaited ((s.core x.core).seq x.from_) then
      (s.modCore x.core fun k => k.modSeq x.from_ fun q => q.landResult ⟨x.dst, v, .load, none, sec || x.resSec⟩).retireHeld x.core x.from_
    else s
  else match s.imageOf (s.opLaunch x) x.core with
    | some a =>
      let u := (a + 0x100 + 8 * x.dst.val)
      let word := 0x20 + x.dst.val
      let s := if x.dst = 0 then s else
        (s.writeDirect 0 u (wordBytes v)).writeDirect 0 (a + 0x61640 + word / 8)
          [s.mem.byte (a + 0x61640 + word / 8) &&& ~~~(BitVec.ofNat 8 (2 ^ (word % 8)))]
      let unit := 4 + x.dst.val / 8
      let s := if x.dst ≠ 0 ∧ (sec || x.resSec) then
          s.writeDirect 0 (a + 0x60E40 + unit / 8) [s.mem.byte (a + 0x60E40 + unit / 8) ||| BitVec.ofNat 8 (2 ^ (unit % 8))]
        else s
      let s := s.writeDirect 0 (a + 0x200) (wordBytes (wd (s.mem.readNat (a + 0x200) 8) + 16))
      s.unwait x
    | none => s

/-! ## Issuing (R150, R151, R157, R207) -/

/-- The scalar guard apart, what a remote operation carries from its issuer. -/
def State.remoteOp (s : State) (kind : RemKind) (dst : BitVec 12) (seq : BitVec 32) (p : Word) (ty : Ty) (op : BitVec 4)
    (ord : AtomOrd) (add : Bool) (data : Line) (cmp : Word) (ocl : BitVec 4) (scp : BitVec 3) (sec : Bool) : RemoteOp where
  kind := kind
  src := s.nodeId
  dst := dst
  fn := ⟨s.lc.fn % 65, Nat.mod_lt _ (by decide)⟩
  seq := seq
  addr := p
  ty := ty
  op := op
  ord := ord
  add := add
  data := data
  cmp := cmp
  ocl := ocl
  scp := scp
  agent := s.agent
  user := s.sq.mode == 0
  secure := s.lc.flagS
  sec := sec
  gen := (s.fnRegs s.lc.fn).fabricGen
  grp := s.grpOf s.agent
  more := []

/-- An operation enters the router of its package; one for a node outside the torus fails at once, not
performed (R342). -/
def State.sendOp (s : State) (p : RemoteOp) (x : Inflight) : State :=
  let s := { s with inflight := s.inflight ++ [x] }
  if s.inTorus p.dst then ({ s with net := s.net ++ [p] } : State).countFabric s.cur.val 1 else s

/-- The causes of Table 21.3 that follow ALIGN: XLATE, then PERM, then BOUNDS. -/
def State.remoteChecks (s : State) (wr paired : Bool) (p : Word) (n : Fin 32) (bar : Option (Fin 32)) : Option Trap :=
  let form := if bf p 63 57 ≠ 0 then some (trapForm p wr) else none
  let pair := if paired && s.lc.flagD then some (trapPaired p) else none
  match firstCause [form, pair, s.barPtr bar] with
  | some t => some t
  | none => if bf (s.rs n) 63 12 ≠ 0 then some (trapBounds (s.rs n) 0) else none

/-- The entry of an operation without an acknowledgement. -/
def State.inflightOf (s : State) (node : BitVec 12) (seq : BitVec 32) (kind : Nat) (ocl : BitVec 4) (p : Word) (ty : Ty) : Inflight where
  node := node
  seq := seq
  kind := kind
  core := s.cur.val
  from_ := s.curSeq
  launch := s.lc.id
  ticket := s.cc.ticket
  ocl := ocl
  issued := s.cycle
  sent := some s.cycle
  via := none
  bar := none
  sectors := 0
  ptr := p
  dst := 0
  block := 0
  ty := ty
  msg := none
  len := 0
  user := s.sq.mode == 0
  hint := 0
  missed := none
  retryAt := none
  result := none
  tc := 0
  resSec := false

/-- `RLD` and `RATOM` at issue: taken up until the value comes; one for no node of the torus traps FABRIC. -/
def State.remoteRead (s : State) (p : RemoteOp) (x : Inflight) : Eff :=
  if s.inTorus p.dst then .hold (s.sendOp p x) (.remote x.node x.seq)
  else
    let w := ferrWord false x.kind 0 x.node x.seq
    .trap (s.modCC fun k => if bt k.ferr 63 then k else { k with ferr := w }) ⟨cFABRIC, x.ptr, w⟩

/-- Whether an operation for a target must wait: its class, a fence, a release, or a lateral result on
its way (log 6). -/
def State.remoteHeld (s : State) (ocl : BitVec 4) (node : BitVec 12) (rel : Bool) : Bool :=
  s.classHeld ocl (1024 + node.toNat) || (rel && !s.allPerformed) || s.sq.results.any Result.remote

/-- The next sequence number and ticket. -/
def State.opStart (s : State) (node : BitVec 12) : BitVec 32 × State :=
  let q := s.takeSeq node
  (q.1, q.2.modCC fun k => k.takeTicket.2)

/-- The node that a register names. -/
def State.nodeOf (s : State) (n : Fin 32) : BitVec 12 := (s.rs n).setWidth 12

def execRld (c : Ctl) (ty : Ty) (acq : Bool) (ocl : BitVec 4) (scp : BitVec 3) (d n a : Fin 32) (off : Word32) (s : State) : Host.Outcome State Fault Refusal :=
  let i : Instr := .rld c ty acq ocl scp d n a off
  issue i (fun s =>
    let p := s.addr a off
    if p.toNat % (ty.width / 8) ≠ 0 then .trap s (trapAlign p false)
    else match s.remoteChecks false false p n none with
      | some t => .trap s t
      | none =>
        let node := s.nodeOf n
        if s.remoteHeld ocl node false then .wait s
        else
          let t := s.opStart node
          let x := { s.inflightOf node t.1 0 ocl p ty with dst := d, resSec := s.srcSec i.regs c }
          t.2.remoteRead (s.remoteOp .rld node t.1 p ty 0 (if acq then .acq else .none) false 0 0 ocl scp false) x) s

def execRatom (c : Ctl) (ty : Ty) (op : AtomOp) (ord : AtomOrd) (ocl : BitVec 4) (scp : BitVec 3) (d n a v : Fin 32)
    (cmp : Option (Fin 32)) (s : State) : Host.Outcome State Fault Refusal :=
  let i : Instr := .ratom c ty op ord ocl scp d n a v cmp
  issue i (fun s =>
    let p := s.rs a
    if p.toNat % (ty.width / 8) ≠ 0 then .trap s ⟨cALIGN, p, einfoX 9 true 7⟩
    else match s.remoteChecks true true p n none with
      | some t => .trap s t
      | none =>
        let node := s.nodeOf n
        if s.remoteHeld ocl node (AtomOrdRel ord) then .wait s
        else
          let t := s.opStart node
          let x := { s.inflightOf node t.1 2 ocl p ty with dst := d, resSec := s.srcSec i.regs c }
          t.2.remoteRead (s.remoteOp .ratom node t.1 p ty op.code ord false ((s.rs v).setWidth 512) ((cmp.map s.rs).getD 0) ocl scp
            (bt s.sq.sSec v.val)) x) s

def execRst (c : Ctl) (ty : Ty) (add rel : Bool) (ocl : BitVec 4) (scp : BitVec 3) (n a : Fin 32) (off : Word32) (v : Fin 32)
    (bar : Option (Fin 32)) (s : State) : Host.Outcome State Fault Refusal :=
  issue (.rst c ty add rel ocl scp n a off v bar) (fun s =>
    let p := s.addr a off
    match firstCause [if p.toNat % (ty.width / 8) ≠ 0 then some (trapAlign p true) else none, s.barAlign bar] with
    | some t => .trap s t
    | none => match s.remoteChecks true true p n bar with
      | some t => .trap s t
      | none =>
        let node := s.nodeOf n
        if s.remoteHeld ocl node rel then .wait s
        else
          let t := s.opStart node
          let x := { s.inflightOf node t.1 1 ocl p ty with bar := s.barOff bar, sectors := 1 }
          let o := s.remoteOp .rst node t.1 p ty 0 (if rel then .rel else .none) add ((s.rs v).setWidth 512) 0 ocl scp (bt s.sq.sSec v.val)
          let u := t.2.sendOp o x
          .done (if s.inTorus node then u else u.failOp x false 0 cFABRIC) false) s

/-- Alignment that Table 13.2 asks of the target of a fixed operation. -/
def msopAlign (op : Nat) : Nat :=
  match op with
  | 0 => 16
  | 1 => 32
  | 2 => 16
  | 3 => 8
  | 4 => 16
  | _ => 1

/-- A pointer of `MSOP` that must name the own vault. -/
def State.msopVault (s : State) (r : Fin 32) (n : Nat) : Option Trap :=
  match s.ownVault s.cur.val (s.rs r) n true with
  | .inl t => some t
  | .inr _ => none

def execMsop (c : Ctl) (op : BitVec 4) (ocl : BitVec 4) (n a : Fin 32) (off : Word32) (r bar : Fin 32) (s : State) : Host.Outcome State Fault Refusal :=
  issue (.msop c op ocl n a off r bar) (fun s =>
    let p := s.addr a off
    let q := s.rs r
    let blk := bf q 20 0
    match firstCause [if bf q 5 0 ≠ 0 then some (trapAlign q true) else none, s.barAlign (some bar),
        if p.toNat % msopAlign op.toNat ≠ 0 then some (trapAlign p true) else none] with
    | some t => .trap s t
    | none =>
      let form := if bf p 63 57 ≠ 0 then some (trapForm p true) else none
      match firstCause [form, s.msopVault r 64, s.barPtr (some bar), if s.lc.flagD then some (trapPaired p) else none] with
      | some t => .trap s t
      | none =>
        if bf (s.rs n) 63 12 ≠ 0 then .trap s (trapBounds (s.rs n) 0)
        else
          let node := s.nodeOf n
          if s.remoteHeld ocl node false || s.classHeld ocl hereTarget then .wait s
          else match s.vaultBad blk 64 q with
            | some b => .trap s ⟨b.1, b.2, 0⟩
            | none =>
              let t := s.opStart node
              let x := { s.inflightOf node t.1 3 ocl p .n64 with bar := s.barOff (some bar), sectors := 2, block := blk }
              let o := s.remoteOp .msop node t.1 p .n64 op .none false (lineOf (s.readVault s.cur.val blk 64)) 0 ocl 0 ((s.vault s.cur.val).secure blk 64)
              let u := (t.2.modVault s.cur.val fun v => v.correct blk 64).sendOp o x
              .done (if s.inTorus node then u else u.failOp x false 0 cFABRIC) false) s

/-! ## At the target (R155, R158, R205, R207, R208) -/

/-- The launch under whose class a remote operation's memory requests run: bulk (DESIGN CHOICE, log 24). -/
def remoteLaunch (fn : Nat) : Launch := { Launch.blank with fn := fn, record := BitVec.ofNat 512 (2 * 2 ^ 256) }

/-- The translation context of an operation at its target: the VF of the issuer's number, with the ROOT that it
has now. -/
def State.remCtx (s : State) (p : RemoteOp) : MCtx :=
  let l := { remoteLaunch p.fn.val with cfg := s.cfgOf p.fn.val }
  ⟨{ s.launchCtx l with user := p.user, secure := p.secure }, l, false, 0⟩

/-- What an operation comes to at its target. -/
inductive Served where
  | done (s : State) (data : Line) (tc : BitVec 8) (sec : Bool)
  | refused (s : State) (tc : BitVec 8)
  | miss (s : State) (fn gpa : Nat)

/-- Translates, checks the scope, and goes on. -/
def State.serveOn (s : State) (p : RemoteOp) (wr : Bool) (k : State → List Piece → Served) : Served :=
  let n := p.ty.width / 8
  let go (a : Acc (List Piece)) : Served :=
    match a with
    | .trap t tr => .refused t tr.cause
    | .miss t f g => .miss t f g
    | .ok t ps =>
      match (match p.ord, ps with
        | .none, _ => none
        | _, x :: _ => s.scopeCheck p.scp p.agent p.grp (AtomOrdAcq p.ord) wr p.addr x.pa
        | _, [] => none) with
      | some tr => .refused t tr.cause
      | none => k t ps
  if wr then go (s.checkStore (s.remCtx p) p.addr n p.sec) else go (s.translate (s.remCtx p).x false false p.addr n)

/-- The line's record after a synchronising write. -/
def State.recordRemote (s : State) (p : RemoteOp) (ps : List Piece) : State :=
  match p.ord, ps with
  | .none, _ => s
  | _, x :: _ => s.setScope p.scp p.agent p.grp x.pa
  | _, [] => s

/-- The sum that `RST.add` stores (R208). -/
def rstSum (ty : Ty) (old v : Nat) : Nat :=
  if ty = .f32 then f32p (rn32 (Num.add false (f32v (old % 2 ^ 32)) (f32v (v % 2 ^ 32))).1) else (old + v) % 2 ^ ty.width

/-- Writes the pieces of a remote write. -/
def State.putRemote (s : State) (p : RemoteOp) (ps : List Piece) (bs : List Byte) : State :=
  (s.writePieces (s.remCtx p) (bf p.addr 56 0) p.sec ps bs).getD s

def State.serveRld (s : State) (p : RemoteOp) : Served :=
  s.serveOn p false fun t ps =>
    let r := t.readPieces (s.remCtx p) (bf p.addr 56 0) p.addr ps
    match r.2.bad with
    | some b => .refused r.1 b.1
    | none => .done r.1 (lineOf r.2.bytes) 0 r.2.sec

def State.serveRst (s : State) (p : RemoteOp) : Served :=
  s.serveOn p true fun t ps =>
    let n := p.ty.width / 8
    if p.add then
      let r := (t.noteAtoms ps).readPieces (s.remCtx p) (bf p.addr 56 0) p.addr ps
      match r.2.bad with
      | some b => .refused r.1 b.1
      | none => .done ((r.1.putRemote p ps (leBytes n (rstSum p.ty (leNat r.2.bytes) p.data.toNat))).recordRemote p ps) 0 0 false
    else .done ((t.putRemote p ps (leBytes n p.data.toNat)).recordRemote p ps) 0 0 false

def atomOpOf (c : Nat) : AtomOp :=
  match c with
  | 0 => .add
  | 1 => .min
  | 2 => .max
  | 3 => .and
  | 4 => .or
  | 5 => .xor
  | 6 => .swap
  | _ => .cas

def State.serveRatom (s : State) (p : RemoteOp) : Served :=
  s.serveOn p true fun t ps =>
    match t.atomGlobal (s.remCtx p) p.ty (atomOpOf p.op.toNat) (bf p.addr 56 0) p.addr ps (p.data.setWidth 64) p.cmp p.sec with
    | none => .refused t cPERM
    | some r =>
      match r.2.bad with
      | some b => .refused r.1 b.1
      | none => .done (r.1.recordRemote p ps) (lineOf r.2.bytes) 0 r.2.sec

/-! ## Memory-side operations (Table 13.2) -/

/-- A result block: the bytes that Table 13.2 gives, for a CAS byte 62, and the status in byte 63; the others are
free values (log 16). -/
def State.resultBlock (s : State) (bs : List Byte) (swapped : Option Bool) (status : Nat) : Line × State :=
  let f := lineBytes (Config.freeLine s.fresh)
  let body := (List.range 63).map fun i =>
    match swapped with
    | some b => if i = 62 then BitVec.ofNat 8 (b2n b) else (bs[i]?).getD (f.getD i 0)
    | none => (bs[i]?).getD (f.getD i 0)
  (lineOf (body ++ [BitVec.ofNat 8 status]), { s with fresh := s.fresh + 1 })

/-- A fault at the target: status 2 (R342). -/
def State.msopFault (s : State) (tc : BitVec 8) : Served :=
  let r := s.resultBlock [] none 2
  .done r.2 r.1 tc false

/-- A block that a memory-side operation writes, or its fault. -/
def State.msopStore (s : State) (p : RemoteOp) (a : Word) (n : Nat) (k : State → List Piece → Served) : Served :=
  match s.checkStore (s.remCtx p) a n p.sec with
  | .trap t tr => t.msopFault tr.cause
  | .miss t f g => .miss t f g
  | .ok t ps => k t ps

/-- A block read for a memory-side operation, which writes it too where `wr` says so, or its fault. -/
def State.msopRead (s : State) (p : RemoteOp) (a : Word) (n : Nat) (wr : Bool) (k : State → List Piece → Got → Served) : Served :=
  let go (t : State) (ps : List Piece) : Served :=
    let r := t.readPieces (s.remCtx p) (bf a 56 0) a ps
    match r.2.bad with
    | some b => r.1.msopFault b.1
    | none => k r.1 ps r.2
  if wr then s.msopStore p a n fun t ps => go (t.noteAtoms ps) ps
  else match s.translate (s.remCtx p).x false false a n with
    | .trap t tr => t.msopFault tr.cause
    | .miss t f g => .miss t f g
    | .ok t ps => go t ps

def State.msopPut (s : State) (p : RemoteOp) (a : Word) (ps : List Piece) (bs : List Byte) : State :=
  (s.writePieces (s.remCtx p) (bf a 56 0) p.sec ps bs).getD s

/-- A pointer that a memory-side operation follows must be global. -/
def State.msopGlobal (s : State) (a : Word) (k : Served) : Served := if bf a 63 57 ≠ 0 then s.msopFault cXLATE else k

/-- CAS of `n` bytes. -/
def State.msopCas (s : State) (p : RemoteOp) (n : Nat) : Served :=
  let blk := lineBytes p.data
  s.msopRead p p.addr n true fun t ps got =>
    let eq := got.bytes == blk.take n
    let t := if eq then t.msopPut p p.addr ps ((blk.drop n).take n) else t
    let r := t.resultBlock got.bytes (some eq) 0
    .done r.2 r.1 0 got.sec

/-- Enqueue at the tail of a list: of the header only the tail is read, and the two nodes are only written. -/
def State.msopEnqueue (s : State) (p : RemoteOp) : Served :=
  let node := lineWord p.data 0
  s.msopStore p p.addr 16 fun s hp => s.msopRead p (p.addr + 8) 8 true fun t tp got =>
    let tail := wd (leNat got.bytes)
    let fin (t : State) : Served :=
      let r := t.resultBlock (wordBytes tail) none 0
      .done r.2 r.1 0 got.sec
    t.msopGlobal node (t.msopStore p node 8 fun t np =>
      let zero (t : State) : State := t.msopPut p node np (List.replicate 8 0)
      if tail = 0 then fin ((zero t).msopPut p p.addr hp (wordBytes node ++ wordBytes node))
      else t.msopGlobal tail (t.msopStore p tail 8 fun t op =>
        fin (((zero t).msopPut p tail op (wordBytes node)).msopPut p (p.addr + 8) tp (wordBytes node))))

/-- The pointer chase: `h` hops from `a` on, with the results so far. -/
def State.msopChase (s : State) (p : RemoteOp) (o : Nat) : Nat → Word → List Byte → Bool → Served
  | 0, _, out, sec => let r := s.resultBlock ((out ++ List.replicate 63 0).take 63) none 0; .done r.2 r.1 0 sec
  | h + 1, a, out, sec =>
    let at_ := a + wd o
    s.msopGlobal at_ (s.msopRead p at_ 8 false fun t _ got =>
      let x := wd (leNat got.bytes)
      if x = 0 then State.msopChase t p o 0 x out (sec || got.sec)
      else State.msopChase t p o h x (out ++ got.bytes) (sec || got.sec))

/-- The 128-bit fetch-add. -/
def State.msopAdd (s : State) (p : RemoteOp) : Served :=
  s.msopRead p p.addr 16 true fun t ps got =>
    let sum := (leNat got.bytes + bf p.data 127 0) % 2 ^ 128
    let r := (t.msopPut p p.addr ps (leBytes 16 sum)).resultBlock got.bytes none 0
    .done r.2 r.1 0 got.sec

/-- A microprogram: whether it is loaded, the alignment and the bytes of its target, and what it makes of them are
Config's (log 19). The TCAUSE of a status that no fault gives is a free value. -/
def State.msopMicro (s : State) (p : RemoteOp) : Served :=
  let f := s.takeFree
  let fails (status : Nat) : Served :=
    let r := f.2.resultBlock [] none status
    .done r.2 r.1 (f.1.setWidth 8) p.sec
  let n := max 1 (Config.microSpan p.op)
  if !Config.microLoaded p.op then fails 1
  else if p.addr.toNat % Config.microAlign p.op ≠ 0 then fails 3
  else f.2.msopRead p p.addr n true fun t ps got =>
    let r := Config.microRun p.op p.addr got.bytes p.data
    let t := t.msopPut p p.addr ps ((r.2 ++ got.bytes.drop r.2.length).take n)
    .done t r.1 (if bf r.1 511 504 = 0 then 0 else f.1.setWidth 8) (p.sec || got.sec)

def State.serveMsop (s : State) (p : RemoteOp) : Served :=
  match p.op.toNat with
  | 0 => s.msopCas p 16
  | 1 => s.msopCas p 32
  | 2 => s.msopEnqueue p
  | 3 => s.msopChase p (bf p.data 15 8) (bf p.data 7 0) p.addr [] false
  | 4 => s.msopAdd p
  | _ => s.msopMicro p

def State.serve (s : State) (p : RemoteOp) : Served :=
  match p.kind with
  | .rld => s.serveRld p
  | .rst => s.serveRst p
  | .ratom => s.serveRatom p
  | .msop => s.serveMsop p

/-! ## Acknowledgements and arrivals -/

/-- An acknowledgement sets out for its issuer: it waits at the router of this package. -/
def State.sendAck (s : State) (a : RemoteAck) : State := { s with acks := s.acks ++ [a] }

/-- Every contribution of a packet: source, number and agent (R210). -/
def opParts (p : RemoteOp) : List (BitVec 12 × BitVec 32 × Agent) := (p.src, p.seq, p.agent) :: p.more

/-- Acknowledges every contribution of an operation. -/
def State.ackOp (s : State) (p : RemoteOp) (ok : Bool) (tc : BitVec 8) (key missed : Bool) (data : Line) (sec : Bool) : State :=
  (opParts p).foldl (fun s m => s.sendAck ⟨m.1, s.nodeId, m.2.1, ok, tc, key, missed, false, data, sec⟩) s

/-- Performs an operation, or has it wait for an extent miss; `missed` says that it has met one. -/
def State.performOp (s : State) (p : RemoteOp) (missed : Bool) : State :=
  match s.serve p with
  | .done t data tc sec => t.ackOp p true tc false missed data sec
  | .refused t tc => t.ackOp p false tc false missed 0 false
  | .miss t f g =>
    let own := if p.src = s.nodeId then some p.agent.launch else none
    let r := t.reportMiss f g own ((own.map fun _ => (s.core p.agent.core).rank).getD 0) (some (p.src, p.seq))
    { r.2 with remWaits := r.2.remWaits ++ [⟨p, r.1⟩] }

/-- Bytes at its address that an operation touches; `none`: it may touch any bytes, as a chase, an enqueue and a
microprogram may. -/
def opSpan (p : RemoteOp) : Option Nat :=
  if p.kind = .msop then match p.op.toNat with
    | 0 => some 16
    | 1 => some 32
    | 4 => some 16
    | _ => none
  else some (p.ty.width / 8)

/-- Whether two operations may touch one location: their bytes meet within a 4 KiB page (R144). -/
def mayMeet (a b : RemoteOp) : Bool :=
  match opSpan a, opSpan b with
  | some m, some n => decide (bf a.addr 11 0 < bf b.addr 11 0 + n) && decide (bf b.addr 11 0 < bf a.addr 11 0 + m)
  | _, _ => true

/-- Whether two operations have a contribution each from one sequencer. -/
def sameAgent (a b : RemoteOp) : Bool :=
  (opParts a).any fun x => (opParts b).any fun y => x.1 == y.1 && x.2.2.core == y.2.2.core && x.2.2.seq == y.2.2.seq

/-- Whether an operation stands behind an earlier one of its sequencer and target in its class, or one of any
class that may touch its location (R144, R157). -/
def State.opBehind (s : State) (p : RemoteOp) : Bool :=
  let same (x : RemoteOp) : Bool := x.dst == p.dst && sameAgent x p && (x.ocl == p.ocl || mayMeet x p)
  (s.remWaits.any fun w => same w.op) || (match s.net.find? same with
    | some x => x != p && s.net.contains p
    | none => false)

/-- The link by which a request that is still in flight left this package before. -/
def State.leftBy (s : State) (src n : BitVec 12) (seq : BitVec 32) : Option Nat :=
  if src = s.nodeId then (s.inflight.find? fun x => x.node == n && x.seq == seq).bind Inflight.via
  else (s.transit.find? fun x => x.src == src && x.dst == n && x.seq == seq && decide (s.cycle < x.since + s.ackLimit n)).map Transit.link

/-- Whether a packet of a source for a node may leave by its route: the link is not retraining, and no other packet of
the pair that left by another link is still in flight, unanswered and not timed out (R204). -/
def State.mayLeave (s : State) (src n : BitVec 12) (seq : BitVec 32) (l : Nat) : Bool :=
  !(s.linkOf l).paused &&
    !(src == s.nodeId && s.inflight.any fun x => x.node == n && x.seq != seq && x.via.isSome && x.via != some l) &&
    !(s.transit.any fun x => x.src == src && x.dst == n && x.seq != seq && x.link != l && decide (s.cycle < x.since + s.ackLimit n))

/-- A request has left by a link, and is in flight (R204). -/
def State.noteLeave (s : State) (src n : BitVec 12) (seq : BitVec 32) (l : Nat) : State :=
  if src = s.nodeId then
    { s with inflight := s.inflight.map fun x => if x.node == n && x.seq == seq then { x with via := some l } else x }
  else { s with transit := (s.transit.filter fun x => decide (s.cycle < x.since + s.ackLimit x.dst) &&
    !(x.src == src && x.dst == n && x.seq == seq)) ++ [⟨src, n, seq, l, s.cycle⟩] }

/-- An operation at the router: it performs here, or leaves for its target. A packet with a contribution that has
been performed before, or is older than the window, is discarded (R205). -/
def State.opArrive (s : State) (p : RemoteOp) : State :=
  let ps := opParts p
  if p.dst = s.nodeId then
    if s.opBehind p then s
    else
      let s := { s with net := dropFirst (fun x => x == p) s.net }
      if ps.all fun m => s.freshSeq m.1 m.2.1 then (ps.foldl (fun s m => s.markSeq m.1 m.2.1) s).performOp p false else s
  else if s.net.contains p then
    match s.route p.src p.dst (s.leftBy p.src p.dst p.seq) with
    | none => s
    | some l =>
      if s.opBehind p || !(ps.all fun m => s.mayLeave m.1 p.dst m.2.1 l) then s
      else
        let t : State := { s with net := dropFirst (fun x => x == p) s.net, outOps := s.outOps ++ [(s.hop p.src l, p)] }
        ps.foldl (fun s m => s.noteLeave m.1 p.dst m.2.1 l) (t.countPacket l 1)
  else { s with net := s.net ++ [p] }

def execRemoteOpArrive (p : RemoteOp) (s : State) : Host.Outcome State Fault Refusal := .next (s.opArrive p)

/-- The result of an `MSOP` arrives: it is written, and its sectors counted, by another step. -/
def State.takeResult (s : State) (x : Inflight) (a : RemoteAck) : State :=
  s.modInflight x fun y => { y with result := some a.data, resSec := a.sec, retryAt := none, sent := none, via := none, tc := a.tcause }

/-- An operation's acknowledgement at its issuer (R206 to R210). -/
def State.ackTo (s : State) (x : Inflight) (a : RemoteAck) : State :=
  let s := if a.missed then s.modLaunch x.launch fun l => { l with excused := true } else s
  if !a.ok then s.failOp x false a.tcause (if a.key then cKEY else cFABRIC)
  else if x.kind = 0 ∨ x.kind = 2 then (s.dropInflight x).giveValue x (extend x.ty (a.data.toNat % 2 ^ x.ty.width)) a.sec
  else if x.kind = 3 then s.takeResult x a
  else (s.dropInflight x).settleBar x none x.sectors

/-- A message's answer (R214): full is tried again, unless 1 ms has passed. -/
def State.ackMsg (s : State) (x : Inflight) (a : RemoteAck) : State :=
  if a.full then s.modInflight x fun y => { y with sent := none, via := none, retryAt := some (s.cycle + slotsPerUs) }
  else if a.ok then (s.dropInflight x).settleBar x none x.sectors
  else s.failOp x false a.tcause (if a.key then cKEY else cMSG)

/-- An acknowledgement at the router: for an issuer here, where one that names nothing in flight is ignored, or on
to its issuer by the route of a response, which waits for no request (R201). -/
def State.ackArrive (s : State) (a : RemoteAck) : State :=
  if a.src = s.nodeId then
    let s := { s with acks := dropFirst (fun x => x == a) s.acks }
    match s.inflight.find? fun x => x.node == a.target && x.seq == a.seq && x.result.isNone with
    | none => s
    | some x => if x.kind = 4 then (if x.sent.isSome then s.ackMsg x a else s) else s.ackTo x a
  else if s.acks.contains a then
    match s.route a.target a.src none with
    | none => s
    | some l =>
      if (s.linkOf l).paused then s
      else ({ s with acks := dropFirst (fun x => x == a) s.acks, outAcks := s.outAcks ++ [(s.hop a.target l, a)]
                     transit := s.transit.filter fun x => !(x.src == a.src && x.dst == a.target && x.seq == a.seq) } : State).countPacket l 1
  else { s with acks := s.acks ++ [a] }

def execRemoteOpAck (a : RemoteAck) (s : State) : Host.Outcome State Fault Refusal := .next (s.ackArrive a)

/-- No acknowledgement in time: outcome unknown (R206). -/
def State.opTimeout (s : State) (n : Nat) : State :=
  match s.inflight[n]? with
  | none => s
  | some x =>
    match x.sent with
    | none => s
    | some t => if x.result.isSome || decide (s.cycle < t + s.ackLimit x.node) then s else s.failOp x true 0 cFABRIC

def execRemoteOpTimeout (n : Nat) (s : State) : Host.Outcome State Fault Refusal := .next (s.opTimeout n)

/-- The result block of an `MSOP` is written on path F, once the landing buffer has room (R100), and its two sectors are
counted; a nonzero status sets ERR (R208). -/
def State.msopDone (s : State) (n : Nat) : State :=
  match s.inflight[n]? with
  | none => s
  | some x =>
    match x.result with
    | none => s
    | some l =>
      let la := s.opLaunch x
      let bs := lineBytes l
      let status := bf l 511 504
      let t := s.dropInflight x
      if x.resSec && !la.flagS then t.settleBar x (some cWORLD) x.sectors
      else match (match t.imageOf la x.core with
        | some a => some (t.writeDirect 0 (a + 0x6C000 + x.block) bs)
        | none => t.land la.owner x.core x.block ⟨bs, x.resSec, []⟩) with
      | none => s
      | some s => if status = 0 then s.settleBar x none x.sectors
        else (s.recordFerr x (ferrWord false 3 x.tc x.node x.seq)).settleBar x (some cFABRIC) x.sectors

def execMsopResult (n : Nat) (s : State) : Host.Outcome State Fault Refusal := .next (s.msopDone n)

/-! ## Combining (R210) -/

/-- Whether a generation is the VF's current or previous one. -/
def genOk (cur g : BitVec 8) : Bool := g == cur || g == cur - 1

/-- Whether two operations may be combined, their generations apart. They share no contribution. -/
def combinable (a b : RemoteOp) : Bool :=
  !((opParts a).any fun m => (opParts b).any fun n => n.1 == m.1 && n.2.1 == m.2.1) &&
  a.kind == .rst && b.kind == .rst && a.add && b.add && a.ord == .none && b.ord == .none && a.dst == b.dst && a.fn == b.fn &&
    a.addr == b.addr && a.ty == b.ty && a.ocl == b.ocl

/-- Two operations in the router's buffer are combined, in the place of the first; one sealed under an older generation
aborts both. -/
def State.combine (s : State) (i j : Nat) : State :=
  match s.net[min i j]?, s.net[max i j]? with
  | some a, some b =>
    if i = j || !combinable a b || s.opBehind a || s.opBehind b then s
    else
      let cur := (s.fnRegs a.fn.val).fabricGen
      let sum := { a with data := BitVec.ofNat 512 (rstSum a.ty a.data.toNat b.data.toNat), sec := a.sec || b.sec, gen := cur, more := a.more ++ opParts b }
      let rest := ((s.net.zipIdx).filter fun x => x.2 != max i j)
      if genOk cur a.gen && genOk cur b.gen then
        { s with net := rest.map fun x => if x.2 = min i j then sum else x.1 }
      else
        (({ s with net := (rest.filter fun x => x.2 != min i j).map Prod.fst } : State).ackOp a false cKEY true false 0 false).ackOp
          b false cKEY true false 0 false
  | _, _ => s

def execRstAddCombine (i j : Nat) (s : State) : Host.Outcome State Fault Refusal := .next (s.combine i j)

/-! ## Links (R202 to R204) -/

/-- A lane fails: the link retrains narrower, or goes down. -/
def Link.laneFail (l : Link) : Link :=
  if l.down then l
  else if l.ports = 24 then { l with ports := 12, paused := true }
  else if l.ports = 12 then { l with ports := 6, paused := true }
  else { l with down := true, paused := false }

def execLinkLaneFailure (l : Fin 6) (s : State) : Host.Outcome State Fault Refusal := .next (s.modLink l.val Link.laneFail)

def execLinkRetrainComplete (l : Fin 6) (s : State) : Host.Outcome State Fault Refusal :=
  .next (s.modLink l.val fun x => { x with paused := false })

/-- The ends of a link agree a new generation: the packet counter starts again (R203). -/
def execKeyGenerationChange (l : Fin 6) (s : State) : Host.Outcome State Fault Refusal :=
  .next (s.modLink l.val fun x => { x with gen := x.gen + 1, count := 0 })

/-- A damaged flit is replayed: delay alone (R202). -/
def execFlitReplay (_l : Fin 6) (s : State) : Host.Outcome State Fault Refusal := .next s

end Sys2Proof.Machine
end

