-- ==== Sys2Proof/Machine/Retriever.lean ====
section
/-! DEFINITION. Messages and the Retriever: R156, R157, R205, R211 to R218, R221, R222, R359, R360. -/

namespace Sys2Proof.Machine

/-! ## Receive descriptors (R212) -/

def descDst (l : Line) : Word := lineWord l 0
def descBoff (l : Line) : Nat := bf (lineWord l 1) 20 0
def descLen (l : Line) : Nat := bf (lineWord l 1) 55 32
def descTag (l : Line) : Nat := bf (lineWord l 2) 23 0
def descTmask (l : Line) : Nat := bf (lineWord l 2) 55 32
def descSrc (l : Line) : Nat := bf (lineWord l 3) 11 0
def descSmask (l : Line) : Nat := bf (lineWord l 3) 27 16
def descCtx (l : Line) : Nat := bf (lineWord l 3) 43 32
def descTile (l : Line) : Option (Fin 32) := if bt (lineWord l 3) 53 then some (tileNo (bf (lineWord l 3) 52 48)) else none

/-- The zero fields of a descriptor hold. -/
def descZeros (l : Line) : Bool :=
  bf (lineWord l 1) 31 21 == 0 && bf (lineWord l 1) 63 56 == 0 && bf (lineWord l 2) 31 24 == 0 && bf (lineWord l 2) 63 56 == 0 &&
    bf (lineWord l 3) 15 12 == 0 && bf (lineWord l 3) 31 28 == 0 && bf (lineWord l 3) 47 44 == 0 && bf (lineWord l 3) 63 54 == 0 &&
    bf l 511 320 == 0

/-- Whether a message matches a receive. -/
def descMatches (l : Line) (m : Message) : Bool :=
  m.ctx.toNat == descCtx l && (m.src.toNat ^^^ descSrc l) &&& descSmask l == 0 && (m.tag.toNat ^^^ descTag l) &&& descTmask l == 0

/-- The status word of a message of a length. -/
def statusWord (m : Message) (len : Nat) : Word := wd (2 ^ 63 + 2 ^ 48 * m.src.toNat + 2 ^ 24 * m.tag.toNat + len % 2 ^ 24)

def msgStatus (m : Message) : Word := statusWord m m.bytes.length

/-- Sectors that a receive counts, whatever the message's length (R215). -/
def descSectors (l : Line) : Nat := cdiv (descLen l) 32 + 1

/-- Whether a context is bound to a function by some words of CTXBIND (R211, Table 15.11). -/
def boundBy (ctxs : SMap Word) (ctx fn : Nat) : Bool :=
  let r := SMap.get 0 ctxs (0x22000 + 2 * ctx)
  bt r 15 && bf r 6 0 == fn

/-- Whether a message's context is bound to its function: by the registers, or for a receive that the message matches by
those that stood when the poster was admitted (R243). -/
def State.ctxBound (s : State) (m : Message) : Bool :=
  boundBy s.pf m.ctx.toNat m.fn.val ||
    s.posted.any fun p => p.fn == m.fn.val && descMatches p.body m &&
      ((s.launch? p.launch).map fun l => boundBy l.cfg.ctx m.ctx.toNat m.fn.val).getD false

/-! ## Completing a receive (R215, R216, R218) -/

/-- The launch that posted a receive; one that has ended leaves its function. -/
def State.recvLaunch (s : State) (id fn : Nat) : Launch := (s.launch? id).getD { Launch.blank with id := id, fn := fn, cfg := s.cfgOf fn }

/-- The memory context of a landing on a core. -/
def State.recvCtx (s : State) (l : Launch) (c : Nat) (user : Bool) : MCtx :=
  ⟨{ s.launchCtx l with core := some c, leaf := leafOf c, user := user }, l, (s.core c).copy1, 0⟩

/-- Sets a tile's state on a core of a launch, or in its image. -/
def State.tileOn (s : State) (l : Launch) (c : Nat) (t : Fin 32) (st : TileState) : State :=
  match s.imageOf l c with
  | none => if (s.core c).launch = some l.id then s.modCore c fun k => k.setTileState t st else s
  | some a =>
    let u := a + 0x60C40 + 16 * t.val
    let x := s.mem.readNat u 16
    s.writeDirect 0 u (leBytes 16 (x / 2 ^ 41 * 2 ^ 41 + st.code * 2 ^ 39 + x % 2 ^ 39))

/-- A tile's entry on a core of a launch, or in its image. -/
def State.tileIn (s : State) (l : Launch) (c : Nat) (t : Fin 32) : Tile :=
  match s.imageOf l c with
  | none => (s.core c).tile t
  | some a =>
    let x := s.mem.readNat (a + 0x60C40 + 16 * t.val) 16
    ⟨.filling, bitsOf x 38 21, bitsOf x 20 0⟩

/-- Writes bytes at a vault offset of a core of a launch, or of its image, with their tag. -/
def State.putIn (s : State) (l : Launch) (c off : Nat) (bs : List Byte) (sec : Bool) : State :=
  match s.imageOf l c with
  | none => s.modVault c fun v => v.write l.owner off bs sec
  | some a =>
    let s := s.writeDirect 0 (a + 0x6C000 + off) bs
    if sec then
      (rowsOf off bs.length).foldl (fun s r =>
        let n := 512 * r.bank + r.row
        s.writeDirect 0 (a + 0x61240 + n / 8) [s.mem.byte (a + 0x61240 + n / 8) ||| BitVec.ofNat 8 (2 ^ (n % 8))]) s
    else s

/-- Whether a STATUS write into a vault finds the landing buffer full, and waits (R100). -/
def State.statusHeld (s : State) (l : Launch) (c : Nat) (desc : Word) : Bool :=
  bf desc 63 60 != 0 && (s.imageOf l c).isNone && (s.land l.owner c (bf desc 20 0 + 32) ⟨List.replicate 8 0, false, []⟩).isNone

/-- Writes STATUS into a descriptor at byte 32: global, or in the vault of the poster, through its landing buffer
(R100). -/
def State.writeStatus (s : State) (l : Launch) (c : Nat) (user : Bool) (w : EngineWrite) (desc v : Word) : Acc Unit :=
  let off := bf desc 20 0 + 32
  if bf desc 63 60 = 0 then match s.writeGlobal (s.recvCtx l c user) (desc + 32) (wordBytes v) false with
    | .ok t _ => .ok (t.markEng (s.recvCtx l c user) w (desc + 32) 8) ()
    | r => r
  else if (s.imageOf l c).isSome then .ok (s.putIn l c off (wordBytes v) false) ()
  else .ok ((s.land l.owner c off ⟨wordBytes v, false, []⟩).getD s) ()

/-- The sectors of a receive, then its tile. -/
def State.recvDone (s : State) (l : Launch) (c : Nat) (body : Line) : State :=
  let s := s.countOf l c 5 (some (descBoff body)) (descSectors body)
  match descTile body with
  | some t => s.tileOn l c t .ready
  | none => s

/-! ## Landing (R100, R156, R215, R218, R222) -/

/-- Bytes of a landing that go to the destination. -/
def Landing.need (x : Landing) : Nat := min x.msg.bytes.length (descLen x.body)

/-- The vault offset at which a landing's next byte goes; `none` for global memory. -/
def State.landOff (s : State) (l : Launch) (c : Nat) (x : Landing) : Option Nat :=
  match descTile x.body with
  | some t => some ((s.tileIn l c t).off + x.done)
  | none => if bf (descDst x.body) 63 60 = 0 then none else some (bf (descDst x.body) 20 0 + x.done)

/-- An engine error of a landing: the bytes not landed keep their values. -/
def State.landFail (s : State) (l : Launch) (c : Nat) (x : Landing) (t : Trap) : State × Landing :=
  (s.errorOf l c 5 t.cause (some (descBoff x.body)) t.e0, { x with bad := true })

/-- Whether a landing into a vault is held for a core that is being pre-empted (R218). -/
def State.landHeld (s : State) (l : Launch) (c : Nat) (x : Landing) : Bool :=
  (s.core c).launch == some l.id && (s.core c).ppre.isSome && (s.landOff l c x).isSome

/-- Whether a landing is held at the end of a packet of at most 4 KiB: the Retriever has stopped for its function
(R202, R245), or for a core that is being pre-empted (R218). -/
def State.landStopped (s : State) (l : Launch) (c : Nat) (x : Landing) : Bool :=
  ((s.fnRegs x.fn).retrStopped || s.landHeld l c x) && decide (x.done % 4096 = 0)

/-- The write that a landing's bytes make (R134). -/
def Landing.write (x : Landing) (l : Launch) (c : Nat) : EngineWrite := ⟨l.id, c, 5, x.ticket, some (descBoff x.body)⟩

/-- The next part of a landing: up to the end of a row of the vault, or of a page, and of a packet. A full landing
buffer and an extent miss hold it. -/
def State.landPart (s : State) (l : Launch) (c : Nat) (x : Landing) : State × Landing :=
  let rest := min (x.need - x.done) (4096 - x.done % 4096)
  match s.landOff l c x with
  | some off =>
    let n := min rest (256 - off % 256)
    let bs := (x.msg.bytes.drop x.done).take n
    if x.msg.sec && !l.flagS then s.landFail l c x (trapWorld (ownPtr off))
    else match s.imageOf l c with
      | some _ => (s.putIn l c off bs x.msg.sec, { x with done := x.done + n })
      | none =>
        match s.land l.owner c off ⟨bs, x.msg.sec, []⟩ with
        | some t => (t, { x with done := x.done + n })
        | none => (s, x)
  | none =>
    let p := descDst x.body + wd x.done
    let n := min rest (4096 - bf p 11 0)
    match s.writeGlobal (s.recvCtx l c x.user) p ((x.msg.bytes.drop x.done).take n) x.msg.sec with
    | .ok t _ => (t.markEng (s.recvCtx l c x.user) (x.write l c) p n, { x with done := x.done + n })
    | .trap t tr => t.landFail l c x tr
    | .miss t f g => let r := t.reportMiss f g (some l.id) (l.rankOf c) none; (r.2, { x with missed := some r.1 })

/-- Parts until the bytes are in, or the landing is held. -/
def State.landParts (s : State) (l : Launch) (c : Nat) : Nat → Landing → State × Landing
  | 0, x => (s, x)
  | n + 1, x =>
    if x.need ≤ x.done || x.bad || s.landStopped l c x then (s, x)
    else
      let r := s.landPart l c x
      if r.2.done = x.done && !r.2.bad then r else State.landParts r.1 l c n r.2

/-- The bytes are in: MSG for a message that was longer, STATUS, the sectors and the answer. A full landing buffer
holds STATUS back. -/
def State.landEnd (s : State) (l : Launch) (c : Nat) (x : Landing) : State × Option Landing :=
  let long := decide (descLen x.body < x.msg.bytes.length)
  if s.statusHeld l c x.desc then (s, some x)
  else match s.writeStatus l c x.user (x.write l c) x.desc (msgStatus x.msg) with
  | .miss t f g => let r := t.reportMiss f g (some l.id) (l.rankOf c) none; (r.2, some { x with missed := some r.1 })
  | a =>
    let s := match a with
      | .ok t _ => t
      | .trap t tr => t.errorOf l c 5 tr.cause (some (descBoff x.body)) tr.e0
      | .miss t _ _ => t
    let s := if long then s.errorOf l c 5 cMSG (some (descBoff x.body)) 0 else s
    let s := s.recvDone l c x.body
    (if x.owed then s.sendAck ⟨x.msg.src, s.nodeId, x.msg.seq, true, 0, false, false, false, 0, false⟩ else s, none)

/-- The ticket of a landing is that of its first byte, for a message that has not waited in the unexpected queue
(R337). -/
def State.landTicket (s : State) (c : Nat) (x : Landing) : State × Landing :=
  if x.done = 0 && x.owed then
    let t := (s.core c).takeTicket
    (s.modCore c fun _ => t.2, { x with ticket := t.1 })
  else (s, x)

/-- A core's oldest landing goes on, and completes where nothing holds it. -/
def State.landRun (s : State) (c : Nat) : State :=
  match (s.core c).lands with
  | [] => s
  | x :: _ =>
    if s.stillMissed x.missed then s
    else
      let l := s.recvLaunch x.launch x.fn
      let b := s.landTicket c { x with missed := none }
      let r := b.1.landParts l c (x.need + 1) b.2
      let e : State × Option Landing :=
        if r.2.need ≤ r.2.done || r.2.bad then r.1.landEnd l c r.2 else (r.1, some r.2)
      e.1.modCore c fun k => { k with lands := match e.2 with
        | some y => y :: k.lands.drop 1
        | none => k.lands.drop 1 }

def execMessageLandingComplete (core : CoreId) (s : State) : Host.Outcome State Fault Refusal := .next (s.landRun core.val)

/-! ## Matching (R211 to R214) -/

/-- A matched message begins to land on its receive's core. -/
def State.beginLanding (s : State) (p : Posted) (m : Message) (owed : Bool) : State :=
  s.modCore p.core fun k =>
    let t := k.takeTicket
    { t.2 with lands := t.2.lands ++ [⟨p.launch, p.fn, m, p.desc, p.body, 0, none, false, owed, p.user, t.1⟩] }

/-- Pieces of a function's overflow area that unexpected messages take. -/
def State.overflowTaken (s : State) (fn : Nat) : List (Nat × Nat) :=
  (s.unexpected.filter fun u => u.fn == fn).flatMap Unexp.places

/-- Bytes of a function's overflow area that are taken. -/
def State.overflowUsed (s : State) (fn : Nat) : Nat := ((s.overflowTaken fn).map Prod.snd).sum

/-- Some free pieces less one that is taken. -/
def cutPiece (free : List (Nat × Nat)) (p : Nat × Nat) : List (Nat × Nat) :=
  free.flatMap fun f =>
    if f.1 + f.2 ≤ p.1 ∨ p.1 + p.2 ≤ f.1 then [f]
    else [(f.1, p.1 - f.1), (p.1 + p.2, f.1 + f.2 - (p.1 + p.2))].filter fun x => x.2 != 0

/-- The first `n` bytes of some pieces. -/
def takePieces : Nat → List (Nat × Nat) → List (Nat × Nat)
  | _, [] => []
  | n, p :: ps => if n = 0 then [] else if n ≤ p.2 then [(p.1, n)] else p :: takePieces (n - p.2) ps

/-- The launch of a function that was admitted last. -/
def State.newest (s : State) (fn : Nat) : Option Launch :=
  (s.launches.filter fun l => l.fn == fn && l.accepted).foldl (fun o l => match o with
    | some x => if x.admitted ≤ l.admitted then some l else some x
    | none => some l) none

/-- Host address of a function's overflow area (Table 15.11): by OVFL as it stood when the function's newest launch was
admitted (R243). -/
def State.overflowBase (s : State) (fn : Nat) : Nat :=
  (((s.newest fn).map fun l => l.cfg.ovfl).getD (s.pfReg (0x21500 + 8 * fn))).toNat

/-- The pieces that a message's payload takes in the overflow area of 64 MiB: the lowest free bytes (DESIGN CHOICE,
log 50). -/
def State.overflowPlaces (s : State) (fn n : Nat) : List (Nat × Nat) :=
  takePieces n ((s.overflowTaken fn).foldl cutPiece [(s.overflowBase fn, 2 ^ 26)])

/-- The requests of the Retriever for some bytes of an overflow area: R130 gives a request for no launch no class
(DESIGN CHOICE, log 53). -/
def State.overflowUse (s : State) (fn a n : Nat) : State :=
  (splitPages a n).foldl (fun s x => s.hbmRequest x.1 x.2 fn s.deviceStamp.1 s.deviceStamp.2) s

/-- Bytes go to some pieces of a function's overflow area. -/
def State.putPayload (s : State) (fn : Nat) : List (Nat × Nat) → List Byte → State
  | [], _ => s
  | p :: ps, bs =>
    State.putPayload ((s.overflowUse fn p.1 p.2).writeDirect (ownerTag fn) p.1 (bs.take p.2)) fn ps (bs.drop p.2)

/-- The payload of a queued message, and whether a block of it is poisoned. -/
def State.payloadOf (s : State) (u : Unexp) : List Byte × Option (BitVec 8) :=
  (u.places.flatMap fun p => s.readPhys (ownerTag u.fn) false p.1 p.2,
    (u.places.findSome? fun p => s.poisonAt p.1 p.2).map fun i => if i then cINTEG else cPOISON)

/-- The message that a queue entry stands for. -/
def State.queuedMsg (s : State) (u : Unexp) : Message := { u.msg with bytes := (s.payloadOf u).1 }

/-- The Retriever queues a message: its payload goes to the overflow area of the function (R214). -/
def State.queueMessage (s : State) (m : Message) (fn : Nat) : State :=
  let ps := s.overflowPlaces fn m.bytes.length
  let t := s.putPayload fn ps m.bytes
  { t with unexpected := t.unexpected ++ [⟨{ m with bytes := [] }, fn, m.bytes.length, ps⟩] }

/-- The blocks of a queued payload are read (R130, R138). -/
def State.payloadUse (s : State) (u : Unexp) : State :=
  u.places.foldl (fun s p => (blocksOf p.1 p.2).foldl (fun s b => s.readBlock u.fn Launch.blank none b) (s.overflowUse u.fn p.1 p.2)) s

/-- A queued message begins to land (R213, R222). A poisoned payload is an engine error on path N, and in a phase that
may not roll back again traps the AS too (R174). -/
def State.landQueued (s : State) (p : Posted) (u : Unexp) : State :=
  let t := (s.payloadUse u).beginLanding p (s.queuedMsg u) false
  match (s.payloadOf u).2 with
  | none => t
  | some cause =>
    let l := t.recvLaunch p.launch p.fn
    ((t.modCore p.core fun k => { k with lands := modAt k.lands (k.lands.length - 1) fun (x : Landing) => { x with bad := true } }).phasePoison
      p.core .as 0).errorOf l p.core 5 cause (some (descBoff p.body)) 0

/-- Whether the Retriever can queue a message (R211). -/
def State.queueRoom (s : State) (m : Message) : Bool :=
  decide (s.unexpected.length < 16384) && decide (s.overflowUsed m.fn.val + m.bytes.length ≤ 2 ^ 26)

/-- The answer to a message. -/
def State.ackMessage (s : State) (m : Message) (ok : Bool) (tc : BitVec 8) (full : Bool) : State :=
  s.sendAck ⟨m.src, s.nodeId, m.seq, ok, tc, false, false, full, 0, false⟩

/-- 1 ms, after which a sender gives up (R214). -/
def sendLimit : Nat := 1000 * slotsPerUs

/-- Whether an earlier message from its source to its context has been turned away and is still to come again:
handling in sending order then turns the later one away too (R214). -/
def State.afterTurned (s : State) (m : Message) : Bool :=
  s.turned.any fun x => x.src == m.src && x.ctx == m.ctx && x.seq != m.seq && decide ((m.seq - x.seq).toNat < 2 ^ 31) &&
    decide (s.cycle < x.since + sendLimit)

/-- A message is turned away for want of room, and will come again. -/
def State.turnAway (s : State) (m : Message) : State :=
  let s := if s.turned.any fun x => x.src == m.src && x.ctx == m.ctx && x.seq == m.seq then s
    else { s with turned := (s.turned.filter fun x => decide (s.cycle < x.since + sendLimit)) ++ [⟨m.src, m.ctx, m.seq, s.cycle⟩] }
  s.ackMessage m false 0 true

/-- A message is handled: no other is to come from it. -/
def State.handled (s : State) (m : Message) : State :=
  ({ s with turned := s.turned.filter fun x => !(x.src == m.src && x.ctx == m.ctx && x.seq == m.seq) } : State).markSeq m.src m.seq

/-- A message at its target's Retriever: matched, queued, refused, or turned away for want of room. -/
def State.retrArrive (s : State) (m : Message) : State :=
  if !s.freshSeq m.src m.seq then s
  else if !s.ctxBound m then (s.handled m).ackMessage m false cMSG false
  else if (s.fnRegs m.fn.val).retrStopped || s.afterTurned m then s.turnAway m
  else match s.posted.find? fun p => p.fn == m.fn.val && descMatches p.body m with
    | some p => ((({ s with posted := dropFirst (fun x => x.entry == p.entry) s.posted } : State).handled m).beginLanding p m true)
    | none => if s.queueRoom m then ((s.queueMessage m m.fn.val).handled m).ackMessage m true 0 false else s.turnAway m

/-- Whether a message stands behind an earlier one from its source to its context (R157, R214). -/
def State.msgBehind (s : State) (m : Message) : Bool :=
  match s.netMsgs.find? fun x => x.src == m.src && x.dst == m.dst && x.ctx == m.ctx with
  | some x => x != m && s.netMsgs.contains m
  | none => false

/-- A message at the router: for the Retriever, or on to its target. -/
def State.msgArrive (s : State) (m : Message) : State :=
  if s.msgBehind m then s
  else if m.dst = s.nodeId then ({ s with netMsgs := dropFirst (fun x => x == m) s.netMsgs } : State).retrArrive m
  else if s.netMsgs.contains m then
    match s.route m.src m.dst (s.leftBy m.src m.dst m.seq) with
    | none => s
    | some l =>
      if !s.mayLeave m.src m.dst m.seq l then s
      else (({ s with netMsgs := dropFirst (fun x => x == m) s.netMsgs, outMsgs := s.outMsgs ++ [(s.hop m.src l, m)] } : State).countPacket
        l (packetsOf m.bytes.length)).noteLeave m.src m.dst m.seq l
  else { s with netMsgs := s.netMsgs ++ [m] }

def execMessageArrive (m : Message) (s : State) : Host.Outcome State Fault Refusal := .next (s.msgArrive m)

/-! ## Sending (R157, R214, R359) -/

/-- Whether a message's payload may be read: every earlier access of its sequencer has performed, and every earlier
message of it has been read and has not been turned away on its way to the same context (R157, R214). -/
def State.payloadReady (s : State) (x : Inflight) : Bool :=
  !(s.vreqs.any fun r => r.core == x.core && r.seq == x.from_ && !r.acted && decide (r.ticket < x.ticket)) &&
    !(s.inflight.any fun y => y.core == x.core && y.from_ == x.from_ && decide (y.ticket < x.ticket) &&
      (y.kind != 4 || (y.sent.isNone && y.retryAt.isNone) ||
        (y.retryAt.isSome && y.node == x.node && (y.msg.map Message.ctx) == x.msg.map Message.ctx))) && !s.stillMissed x.missed

/-- A message enters the router. -/
def State.sendMsg (s : State) (x : Inflight) (m : Message) : State :=
  let s := s.modInflight x fun y => { y with msg := some m, sent := some s.cycle, retryAt := none, missed := none
                                             issued := if x.retryAt.isNone then s.cycle else y.issued }
  ({ s with netMsgs := s.netMsgs ++ [m] } : State).countFabric x.core (packetsOf m.bytes.length)

/-- The engine that reads a message's payload. -/
def State.sendEng (s : State) (x : Inflight) : Eng :=
  let l := s.opLaunch x
  ⟨x.core, l, l.rankOf x.core, false⟩

/-- A message's payload as path F reads it. -/
def State.payload (s : State) (x : Inflight) : Acc Got :=
  if x.len = 0 then .ok s ⟨[], false, none⟩ else s.engRead (s.sendEng x) ((s.sendEng x).ctx s x.user x.hint) x.ptr x.len

/-- The payload is read on path F and the message sent; a fault fails it, not performed (R359). Poison that is
consumed in a phase rolls the phase back, or after three times traps POISON too (R174); a message of the phase is
cancelled with it. -/
def State.readPayload (s : State) (x : Inflight) (m : Message) : State :=
  let e := s.sendEng x
  match s.payload x with
  | .ok t got => t.sendMsg x { m with bytes := got.bytes, sec := got.sec }
  | .trap t tr =>
    match s.engRolls e tr with
    | some ph => (t.rollback x.core ph).freezeOn tr.cause
    | none =>
      let t := if tr.cause = cPOISON ∨ tr.cause = cINTEG then t.phasePoison x.core x.from_ tr.e0 else t
      (t.freezeOn tr.cause).failOp x false 0 tr.cause
  | .miss t f g => let r := t.reportMiss f g (some x.launch) e.rank none; r.2.modInflight x fun y => { y with missed := some r.1 }

/-- The poison that a message which would be sent at once meets in a phase that rolls back (R174). -/
def State.payloadRolls (s : State) (x : Inflight) : Option (State × Trap) :=
  match s.payload x with
  | .trap t tr => if s.payloadReady x then (s.engRolls (s.sendEng x) tr).map fun _ => (t, tr) else none
  | _ => none

/-- A message not on its way is sent: for the first time, or again 1 µs after it was turned away. -/
def State.trySend (s : State) (x : Inflight) : State :=
  match x.msg, x.sent with
  | some m, none =>
    match x.retryAt with
    | some t => if t ≤ s.cycle then s.sendMsg x m else s
    | none => if s.payloadReady x then s.readPayload x m else s
  | _, _ => s

def execMessageRetry (n : Nat) (s : State) : Host.Outcome State Fault Refusal :=
  .next (match s.inflight[n]? with
    | some x => s.trySend x
    | none => s)

/-- A message that has been turned away for 1 ms fails as a refused one does. -/
def State.msgTimeout (s : State) (n : Nat) : State :=
  match s.inflight[n]? with
  | none => s
  | some x => if x.kind = 4 ∧ x.retryAt.isSome ∧ x.issued + sendLimit ≤ s.cycle then s.failOp x false cMSG cMSG else s

def execMessageSendTimeout (n : Nat) (s : State) : Host.Outcome State Fault Refusal := .next (s.msgTimeout n)

/-- MSG with its subcode (R213, R214). -/
def trapMsg (p : Word) (sub : Nat) : Trap := ⟨cMSG, p, wd sub⟩

/-- The causes on the payload pointer: global, or the own vault (R359). -/
def State.payloadPtr (s : State) (p : Word) (n : Nat) : Option Trap :=
  if bf p 63 60 = 0 then if bf p 59 57 = 0 then none else some (trapForm p false)
  else match s.ownVault s.cur.val p n false with
    | .inl t => some t
    | .inr _ => none

def execSendm (c : Ctl) (ocl : BitVec 4) (h a : Fin 32) (off : Word32) (l : Fin 32) (bar : Option (Fin 32)) (s : State) : Host.Outcome State Fault Refusal :=
  let i : Instr := .sendm c ocl h a off l bar
  issue i (fun s =>
    let p := s.addr a off
    let sh := s.rs h
    let n := (s.rs l).toNat
    match s.barAlign bar with
    | some t => .trap s t
    | none =>
      match firstCause [if s.lc.flagD then some (trapPaired p) else none, s.payloadPtr p n, s.barPtr bar] with
      | some t => .trap s t
      | none =>
        if bf sh 15 12 ≠ 0 ∨ bf sh 31 28 ≠ 0 ∨ bf sh 63 56 ≠ 0 ∨ 2 ^ 24 ≤ n then
          match bar with
          | some b => .trap s (trapMsg (s.rs b) 3)
          | none => let f := s.takeFree; .trap f.2 (trapMsg f.1 3)
        else
          let node : BitVec 12 := sh.setWidth 12
          let t := s.opStart node
          let m : Message := ⟨s.nodeId, node, sh.extractLsb' 16 12, sh.extractLsb' 32 24, ⟨s.lc.fn % 65, Nat.mod_lt _ (by decide)⟩, t.1, [], false⟩
          let x := { s.inflightOf node t.1 4 ocl p .n8 with
            bar := s.barOff bar, sectors := max 1 (cdiv n 32), msg := some m, len := n, sent := none, hint := c.hint.toNat }
          let u := { t.2 with inflight := t.2.inflight ++ [x] }
          if s.inTorus node then match u.payloadRolls x with
            | some t => .trap t.1 t.2
            | none => .done (u.trySend x) false
          else .done (u.failOp x false 0 cFABRIC) false) s

/-! ## Receives (R213, R216, R217) -/

/-- Reads a descriptor on path L. -/
def State.readDesc (s : State) (c : Ctl) (p : Word) : Acc Got :=
  let chk (a : Acc Got) : Acc Got := match a with
    | .ok t got => match got.bad with
      | some b => .trap t ⟨b.1, b.2, 0⟩
      | none => .ok t got
    | a => a
  if bf p 63 60 = 0 then if bf p 59 57 ≠ 0 then .trap s (trapForm p false) else chk (s.readGlobal (s.mcur c) p 64)
  else match s.ownVault s.cur.val p 64 false with
    | .inl t => .trap s t
    | .inr o => chk (.ok (s.modVault s.cur.val fun v => v.correct o 64) ⟨s.readVault s.cur.val o 64, (s.vault s.cur.val).secure o 64, s.vaultBad o 64 p⟩)

/-- Whether a descriptor's read must wait: its class, a fence, a remote operation of the sequencer to this package on the
same bytes, or a store of the sequencer, of any class, that has not performed (R144, R150, R151, R153, R354). -/
def State.descHeld (s : State) (p : Word) : Bool :=
  s.pathHeld p 64 || s.vreqs.any fun r => r.core == s.cur.val && r.seq == s.curSeq && !r.acted && r.kind != .load

/-- Subcode 3 of R213: a zero field, the destination or the barrier. A vault destination names the own
vault (DEDUCED, log 25). -/
def State.descFails (s : State) (l : Line) : Bool :=
  let foot := s.lc.footBytes
  let d := descDst l
  !descZeros l || descBoff l % 16 != 0 || decide (foot < descBoff l + 16) ||
    (match descTile l with
     | some t => decide ((s.cc.tile t).size < descLen l)
     | none =>
       if bf d 63 60 = 0 then bf d 59 57 != 0
       else match s.ownVault s.cur.val d (descLen l) true with
         | .inl _ => true
         | .inr _ => false)

/-- The lowest free entry of the posted list and its next generation (DESIGN CHOICE, log 26). -/
def State.takeEntry (s : State) (fn : Nat) : Option (Nat × BitVec 16 × State) :=
  ((List.range 65536).find? fun e => !(s.posted.any fun p => p.entry == e)).map fun e =>
    let g := ((SMap.find? s.retrGen e).map RetrEntry.gen).getD 0 + 1
    (e, g, { s with retrGen := SMap.insert s.retrGen e ⟨g, fn, false⟩ })

/-- The first unexpected message that a descriptor matches, in arrival order. -/
def State.findUnexpected (s : State) (fn : Nat) (l : Line) : Option Unexp :=
  s.unexpected.find? fun u => u.fn == fn && descMatches l u.msg

/-- The poison of a queued message that a receive takes in a phase, which rolls back (R174, R247). -/
def State.queuedRolls (s : State) (l : Line) : Option (BitVec 8) :=
  (s.rollsBack s.cur.val).bind fun _ => (s.findUnexpected s.lc.fn l).bind fun u => (s.payloadOf u).2

/-- The payload of the queued message that a receive takes is read. -/
def State.queuedUse (s : State) (l : Line) : State :=
  match s.findUnexpected s.lc.fn l with
  | some u => s.payloadUse u
  | none => s

/-- Steps 2 to 4 of R213. -/
def State.postReceive (s : State) (p : Word) (l : Line) (e : Nat) (g : BitVec 16) : State :=
  let fn := s.lc.fn
  let r : Posted := ⟨e, g, fn, s.cur.val, s.lc.id, s.sq.mode == 0, p, l⟩
  let s := match descTile l with
    | some t => s.modCC fun k => k.setTileState t .filling
    | none => s
  match s.findUnexpected fn l with
  | some u => { s.landQueued r u with unexpected := dropFirst (fun x => x == u) s.unexpected }
  | none => { s with posted := s.posted ++ [r] }

def execRpost (c : Ctl) (d a : Fin 32) (off : Word32) (s : State) : Host.Outcome State Fault Refusal :=
  issue (.rpost c d a off) (fun s =>
    let p := s.addr a off
    if bf p 5 0 ≠ 0 then .trap s (trapAlign p false)
    else if s.descHeld p then .wait s
    else (s.readDesc c p).eff s fun t got =>
      let l := lineOf got.bytes
      if s.descFails l then .trap t (trapMsg p 3)
      else if !boundBy s.lc.cfg.ctx (descCtx l) s.lc.fn then .trap t (trapMsg p 1)
      else match t.takeEntry s.lc.fn with
        | none => .trap t (trapMsg p 2)
        | some (e, g, u) =>
          if (descTile l).any fun t => (s.cc.tile t).state != .empty then .wait s
          else match s.queuedRolls l with
          | some cause => .trap (u.queuedUse l) ⟨cause, 0, 0⟩
          | none => .done ((u.postReceive p l e g).ws d (wd (2 ^ 16 * g.toNat + e))) got.sec) s

def execRcancel (c : Ctl) (d h : Fin 32) (s : State) : Host.Outcome State Fault Refusal :=
  issue (.rcancel c d h) (fun s =>
    let sh := s.rs h
    let e := bf sh 15 0
    let current := match SMap.find? s.retrGen e with
      | some r => r.gen.toNat == bf sh 31 16 && r.fn == s.lc.fn && !r.gone
      | none => false
    if bf sh 63 32 ≠ 0 || !current then .done (s.ws d 2) false
    else match s.posted.find? fun p => p.entry == e with
      | none => .done (s.ws d 1) false
      | some p =>
        let l := s.recvLaunch p.launch p.fn
        if s.statusHeld l p.core p.desc then .wait s
        else
          let t := { s with posted := dropFirst (fun x => x.entry == e) s.posted, retrGen := SMap.insert s.retrGen e ⟨p.gen, p.fn, true⟩ }
          match t.writeStatus l p.core p.user ⟨l.id, p.core, 5, 0, some (descBoff p.body)⟩ p.desc 0 with
          | .miss u f g =>
            let r := ({ u with posted := s.posted, retrGen := s.retrGen } : State).reportMiss f g (some s.lc.id) s.cc.rank none
            .hold r.2 (.extentMiss r.1)
          | .ok u _ => .done ((u.recvDone l p.core p.body).ws d 0) false
          | .trap t tr => .done (((t.errorOf l p.core 5 tr.cause (some (descBoff p.body)) tr.e0).recvDone l p.core p.body).ws d 0) false) s

def execRprobe (c : Ctl) (d a : Fin 32) (off : Word32) (s : State) : Host.Outcome State Fault Refusal :=
  issue (.rprobe c d a off) (fun s =>
    let p := s.addr a off
    if bf p 5 0 ≠ 0 then .trap s (trapAlign p false)
    else if s.descHeld p then .wait s
    else (s.readDesc c p).eff s fun t got =>
      let l := lineOf got.bytes
      if !boundBy s.lc.cfg.ctx (descCtx l) s.lc.fn then .trap t (trapMsg p 1)
      else .done (t.ws d (((s.findUnexpected s.lc.fn l).map fun u => statusWord u.msg u.len).getD 0)) got.sec) s

end Sys2Proof.Machine
end

