-- ==== Sys2Proof/Machine/Launch.lean ====
section
/-! DEFINITION. Launches from the port to the completion record: R41 to R56, R63 to R65, R223, R225,
R229 to R238, R240, R241, R260, R314. -/

namespace Sys2Proof.Machine

/-! ## Pre-emption requests (R55, R234, R238, R245) -/

/-- PART of a VF (Table 15.11). -/
def State.part (s : State) (vf : Nat) : Word := s.pfReg (0x21900 + 8 * vf)

/-- Whether a function is a time-sliced VF (R238). -/
def State.sliced (s : State) (fn : Nat) : Bool := decide (fn < 64) && bt (s.part fn) 63

/-- Whether a launch is one of a time-sliced VF, by PART when it was admitted (R238, R243). -/
def Launch.isSliced (l : Launch) : Bool := decide (l.fn < 64) && bt l.cfg.part 63

/-- Whether a launch may not run now: its VF is stopped, or, unless it is of class 0, it is another VF's slice
(R55, R238, R245). -/
def State.offTurn (s : State) (l : Launch) : Bool :=
  (s.fnRegs l.fn).stopped || (l.cls != 0 && l.isSliced && l.fn != s.sliceVf)

/-- A pre-emption request reaches every core of a running launch whose VF has a free run of save slots
(R234); `WAITI` retires at it (R385). -/
def State.requestPreempt (s : State) (id : Nat) : State :=
  match s.launch? id with
  | none => s
  | some l =>
    if l.state ≠ .running ∨ l.image.isSome then s
    else match s.freeRun l.fn l.nCores with
      | none => s
      | some b =>
        (s.modLaunch id fun l => { l with image := some b, cores := List.replicate l.nCores Core.reset }).modCores l.allCores
          fun k => { k with ppre := some s.cycle, as := k.as.wake, xs := k.xs.wake }

/-- Every launch that may not run now is asked to stop, where slots are free; the Retriever stops for a
stopped VF none of whose launches runs (R238, R245). -/
def State.enforce (s : State) : State :=
  let s := (s.launches.filter fun l => l.state == .running && l.image.isNone && s.offTurn l).foldl (fun s l => s.requestPreempt l.id) s
  let busy (fn : Nat) : Bool := s.launches.any fun l => l.fn == fn && (l.state == .running || l.state == .draining)
  { s with fns := vmapi s.fns fun fn r => if r.stopped && !busy fn then { r with retrStopped := true } else r }

/-! ## The completion record (R46, R229) -/

/-- STATUS codes (Table 15.3). -/
def Status.code : Status → Nat
  | .ok => 0
  | .reject => 1
  | .capacity => 2
  | .fault => 3
  | .killed => 4
  | .mismatch => 5
  | .preempted => 6

/-- A launch as the device acts for it: without flag D, which concerns what its program accesses. -/
def Launch.device (l : Launch) : Launch := { l with record := setBit l.record 209 false }

/-- The context of the device's own accesses for a launch: a supervisor-mode access of its function. -/
def State.launchMem (s : State) (l : Launch) : MCtx := ⟨s.launchCtx l, l.device, false, 0⟩

/-- DETAIL of the record: for OK, EXCUSED joins LATE. -/
def Launch.detailByte (l : Launch) : BitVec 8 := if l.status = .ok then l.detail ||| (if l.excused then 2 else 0) else l.detail

/-- The completion record (Table 3.2). -/
def State.completion (s : State) (l : Launch) : List Byte :=
  leBytes 1 l.status.code ++ [l.detailByte] ++ leBytes 2 0 ++ leBytes 4 l.frank ++ wordBytes s.timebase

/-- CPTR is a 16-byte-aligned global pointer. -/
def Launch.cptrOk (l : Launch) : Bool := bf l.cptr 3 0 == 0 && bf l.cptr 63 57 == 0

/-- Lines of a gathering are demoted, those of the adapter cache too: least recently used, and without the tag (R65). -/
def State.demote (s : State) (fn gath : Nat) : State :=
  let t (x : MscLine) : Bool := x.gath == some (fn, gath)
  let a (x : APage) : Bool := x.gath == some (fn, gath)
  { s with
    msc := vmapi s.msc fun _ ls => ((ls.filter t).map fun x => { x with gath := none }) ++ ls.filter fun x => !t x
    acache := ((s.acache.filter a).map fun x => { x with gath := none }) ++ s.acache.filter fun x => !a x }

/-- Whether a record has been admitted: one that failed a check has not, while its completion record waits (R241). -/
def Launch.isAdmitted (l : Launch) : Bool :=
  match l.state with
  | .port => false
  | .args _ => false
  | .recording _ => l.accepted
  | _ => true

/-- Records in the port buffer of a function. -/
def State.portUsed (s : State) (fn : Nat) : Nat :=
  (s.launches.filter fun l => l.fn == fn && l.poster.isNone && l.image.isNone && !l.isAdmitted).length

/-- Whether a function is permitted a flag: bit 60 P, 61 D, 62 S of PART; the PF has every one (R244). -/
def State.permits (s : State) (fn bit : Nat) : Bool := fn == pfFn || bt (s.part fn) bit

/-- A record enters the device. -/
def State.addLaunch (s : State) (l : Launch) : State :=
  let r := s.takeId
  { r.2 with launches := r.2.launches ++ [{ l with id := r.1, cfg := s.cfgOf l.fn }] }

/-- A record that a port takes: what its function may carry is what PART says now. -/
def State.acceptWrite (s : State) (w : PortWrite) : State :=
  s.addLaunch { Launch.blank with
    record := w.record, fn := w.fn, sup := w.sup, mayP := s.permits w.fn 60, mayD := s.permits w.fn 61, mayS := s.permits w.fn 62
    may3 := w.fn == pfFn, leaf := w.pcie }

/-- Places of a port buffer (R241). -/
def portPlaces : Nat := 64

/-- The oldest record that a function's port holds enters the buffer, where a place is free and the ports are not
refused (R241, R245). -/
def State.letIn (s : State) (fn : Nat) : State :=
  match s.portHeld.find? fun w => w.fn == fn with
  | none => s
  | some w =>
    if (s.fnRegs fn).stopped || decide (portPlaces ≤ s.portUsed fn) then s
    else ({ s with portHeld := dropFirst (fun x => x.fn == fn) s.portHeld } : State).acceptWrite w

/-- A launch is gone: its gathering's count drops (R65), its reserved cores are no longer reserved, and a place of the
port's buffer may be free (R241). -/
def State.dropLaunch (s : State) (l : Launch) : State :=
  let s := { s with launches := s.launches.filter (fun x => x.id != l.id), reserved := s.reserved.filter fun x => x.2 != l.id }
  let s :=
    if l.gath = 0 ∨ (s.launches.any fun x => x.isAdmitted && x.fn == l.fn && x.gath == l.gath) then s else s.demote l.fn l.gath
  (s.letIn l.fn).enforce

/-- The event in place of a record that cannot be written (R46, R242). -/
def State.recordEvent (s : State) (l : Launch) : State :=
  s.postEvent l.fn l.cptr l.cptr l.frank (256 * l.detailByte.toNat + l.status.code) (eventVf l.fn) 8

/-- Writes a launch's completion record, and the launch is gone (R46). -/
def State.writeRecord (s : State) (l : Launch) : State :=
  if !l.cptrOk then (s.recordEvent l).dropLaunch l
  else match s.checkStore (s.launchMem l) l.cptr 16 false with
    | .trap t _ => (t.recordEvent l).dropLaunch l
    | .miss t f g =>
      let r := t.reportMiss f g (some l.id) 0 none
      r.2.modLaunch l.id fun x => { x with state := .recording r.1, excused := l.excused }
    | .ok t ps =>
      if ps.any fun p => (t.poisonAt p.pa p.len).isSome then (s.recordEvent l).dropLaunch l
      else ((t.writePieces (s.launchMem l) (bf l.cptr 56 0) false ps (t.completion l)).getD t).dropLaunch l

/-- MISSDL.LCH saturates. -/
def State.countLate (s : State) (fn : Nat) : State :=
  s.modFn fn fun r => { r with missLch := if r.missLch = BitVec.allOnes 32 then r.missLch else r.missLch + 1 }

/-- A launch finishes with the status it has: LATE and MISSDL (R2, R48; a record removed CAPACITY has failed its
admission and missed no deadline, R51), event 1, its save slots and its completion record. -/
def State.finishLaunch (s : State) (id : Nat) : State :=
  match s.launch? id with
  | none => s
  | some l =>
    let late := l.isAdmitted && l.status != .capacity && decide (l.cls ≤ 1) && decide (l.deadline < s.cycle)
    let s := if late then s.countLate l.fn else s
    let s :=
      if l.status = .fault ∨ l.status = .killed ∨ l.status = .mismatch then
        s.postEvent l.fn 0 l.cptr l.frank l.status.code (eventVf l.fn) 1
      else s
    let l := { l with detail := if l.status = .ok then (if late then 1 else 0) else l.detail, image := none, cores := [] }
    (s.modLaunch id fun _ => l).writeRecord l

/-- A record that never ran finishes. -/
def State.complete (s : State) (id : Nat) (st : Status) (detail : BitVec 8) : State :=
  (s.modLaunch id fun l => { l with status := st, detail := detail, frank := 0 }).finishLaunch id

/-- A saved launch ends: it drains without cores, and consumes no more. -/
def State.endSaved (s : State) (id : Nat) (st : Status) (detail : BitVec 8) (frank : Nat) : State :=
  s.modLaunch id fun l => { l with state := .draining, status := st, detail := detail, frank := frank }

/-- Ends a launch wherever it stands, but for one that drains or that the tracker holds. -/
def State.endAny (s : State) (l : Launch) (st : Status) (detail : BitVec 8) (frank : Nat) : State :=
  match l.state with
  | .port => s.complete l.id st detail
  | .args _ => s.complete l.id st detail
  | .queued => s.complete l.id st detail
  | .running => s.endLaunch l.id st detail frank
  | .saved _ => s.endSaved l.id st detail frank
  | _ => s

/-! ## Ports (R223, R240, R241, R244) -/

/-- A record written to a launch port through PCI Express port `pcie`. A stopped VF's writes are refused
(R245). With no free place the port holds the record until one frees (R241). -/
def State.portWrite (s : State) (fn : Nat) (sup : Bool) (pcie : Nat) (r : Line) : State :=
  let w : PortWrite := ⟨fn, sup, pcie, r⟩
  if (s.fnRegs fn).stopped then s
  else if portPlaces ≤ s.portUsed fn || s.portHeld.any fun x => x.fn == fn then { s with portHeld := s.portHeld ++ [w] }
  else s.acceptWrite w

def execLaunchPortWrite (f : FnId) (sup : Bool) (pcie : Fin 2) (r : Line) (s : State) : Host.Outcome State Fault Refusal :=
  .next (s.portWrite f.val sup pcie.val r)

/-- A KILL ends a launch of the function with that CPTR that has not ended yet (R240, R241). -/
def State.killLaunch (s : State) (fn : Nat) (cptr : Word) : State :=
  let live (l : Launch) : Bool := match l.state with
    | .draining => false
    | .tracker => false
    | .recording _ => false
    | _ => true
  match s.launches.find? fun l => l.fn == fn && l.cptr == cptr && live l with
  | some l => s.endAny l .killed 0 0
  | none => s

def execKill (f : FnId) (cptr : Word) (s : State) : Host.Outcome State Fault Refusal := .next (s.killLaunch f.val cptr)

/-! ## `CPOST` (R56, R314) -/

/-- The record that a core of a running launch posts. -/
def State.postRecord (s : State) (r : Line) : State :=
  let l := s.lc
  s.addLaunch { Launch.blank with
    record := r, fn := l.fn, mayP := l.flagP, mayD := l.flagD, mayS := l.flagS, may3 := l.inBackground s.cur.val
    poster := some (l.id, s.cur.val), leaf := leafOf s.cur.val }

/-- Whether an earlier record of the sequencer is still held. -/
def State.posterHeld (s : State) : Bool :=
  s.launches.any fun l => l.poster == some (s.lc.id, s.cur.val) && !l.isAdmitted

def execCpost (c : Ctl) (a : Fin 32) (off : Word32) (s : State) : Host.Outcome State Fault Refusal :=
  issue (.cpost c a off) (fun s =>
    let p := s.addr a off
    if bf p 5 0 ≠ 0 then .trap s (trapAlign p false)
    else if bf p 63 57 ≠ 0 then .trap s (trapForm p false)
    else if !s.allPerformed || s.posterHeld then .wait s
    else (s.pairedAfter p (s.readGlobal (s.mcur c) p 64)).eff s fun t got =>
      match got.bad with
      | some b => .trap t ⟨b.1, b.2, 0⟩
      | none => .done (t.postRecord (lineOf got.bytes)) false) s

/-! ## Rectangles (R41, R48, R109, R238, R254 to R256) -/

/-- Origins that R41 allows, in row-major order; those of a paired launch lie in leaf 0 (R251). -/
def Launch.origins (l : Launch) : List (Nat × Nat) :=
  let xs := (List.range (if l.flagD then 16 else 32)).filter fun x => x % l.wid == 0
  let ys := (List.range 12).filter fun y => y % l.hgt == 0 && decide (y + l.hgt ≤ 12)
  ys.flatMap fun y => xs.map fun x => (x, y)

/-- A launch at an origin. -/
def Launch.at_ (l : Launch) (o : Nat × Nat) : Launch := { l with x0 := o.1, y0 := o.2 }

/-- Region of a core within its leaf. -/
def regionOf (c : Nat) : Nat := 4 * (coreY c / 3) + coreX c % 16 / 4

/-- Whether a PART register holds the region of a core. -/
def inPart (part : Word) (c : Nat) : Bool := bt part (16 * leafOf c + regionOf c)

/-- Whether a core is available to a launch's class and function (R48, R238). -/
def State.mayUse (s : State) (l : Launch) (c : Nat) : Bool :=
  if l.cls = 3 then l.inBackground c
  else !l.inBackground c && (l.fn == pfFn ||
    (if l.isSliced then (List.range 64).all fun v => s.sliced v || !inPart (s.part v) c else inPart l.cfg.part c))

/-- Usable capacity in rows at the current operating point (R109). -/
def Vault.capRows (v : Vault) (cur : Nat) : Nat := if v.lost.isEmpty then 8192 else v.contRows cur cur

/-- Whether a core meets check 4 of Table 3.3 for a launch. -/
def State.coreFits (s : State) (l : Launch) (c : Nat) : Bool :=
  s.mayUse l c && !s.failed.contains c && bt s.worldCores c == l.flagS &&
    decide (4 * l.foot ≤ (s.vault c).capRows s.vpCur.toNat)

/-- Origins at which a launch meets check 4. -/
def State.fitting (s : State) (l : Launch) : List (Nat × Nat) :=
  l.origins.filter fun o => (l.at_ o).allCores.all (s.coreFits l)

/-- Whether a launch holds cores. -/
def State.onCores (s : State) (l : Launch) : Bool := l.allCores.any fun c => (s.core c).launch == some l.id

/-- Whether a launch that is being saved covers a core, or one that has ended meanwhile and drains: its cores stay busy,
those that were saved too (R63). -/
def State.beingSaved (s : State) (c : Nat) : Bool :=
  s.launches.any fun x => (x.state == .running || (x.state == .draining && s.onCores x)) && x.image.isSome && x.allCores.contains c

/-- Whether a core can take a launch now (R19, R54, R254). -/
def State.coreFree (s : State) (l : Launch) (c : Nat) : Bool :=
  (s.core c).launch.isNone && !s.beingSaved c && !(s.scan.any fun x => x.core == c) &&
    (match vget none s.retiring (leafOf c) with
     | some r => decide (coreY c < r)
     | none => true) &&
    (l.cls == 0 || (SMap.find? s.reserved c).isNone)

/-- Twice the distance between the centre of a launch's region and that of a rectangle, in hops: the
crossing of the spine counts 8 (R16; DEDUCED, log 27). -/
def State.distance (s : State) (l : Launch) (o : Nat × Nat) : Nat :=
  let d (a b : Nat) : Nat := if a ≤ b then b - a else a - b
  let leaf := o.1 / 16
  let rx := 2 * (16 * l.leaf + 4 * (l.region % 4)) + 3
  let ry := s.physRow l.leaf (3 * (l.region / 4)) + s.physRow l.leaf (3 * (l.region / 4) + 2)
  d rx (2 * o.1 + l.wid - 1) + d ry (s.physRow leaf o.2 + s.physRow leaf (o.2 + l.hgt - 1)) + if leaf = l.leaf then 0 else 14

/-- The nearest of some origins, the first on a tie. -/
def State.nearest (s : State) (l : Launch) (os : List (Nat × Nat)) : Option (Nat × Nat) :=
  os.foldl (fun b o => match b with
    | none => some o
    | some p => if s.distance l o < s.distance l p then some o else some p) none

/-! ## Admission (R47 to R52) -/

/-- Check 1 of Table 3.3, the argument block apart (R41, R44, R251). -/
def Launch.formOk (l : Launch) : Bool :=
  bf (lineWord l.record 3) 31 21 == 0 && bf (lineWord l.record 3) 63 56 == 0 && bf (lineWord l.record 4) 7 2 == 0 &&
    bf (lineWord l.record 4) 47 44 == 0 && isPow2 l.wid && decide (l.wid ≤ 32) && isPow2 l.hgt && decide (l.hgt ≤ 8) &&
    (!l.flagD || decide (l.wid ≤ 16)) && decide (l.ntile ≤ 32) && decide (l.apcnt ≤ 8) && decide (l.foot ≤ 2048) &&
    bf l.asEnt 3 0 == 0 && bf l.xsEnt 3 0 == 0 && bf l.argp 2 0 == 0 && l.cptrOk

/-- Reads the argument block (R47). -/
def State.argBlock (s : State) (l : Launch) : Acc (List Byte) :=
  let n := 8 * l.ntile + 4 * l.apcnt
  if n = 0 then .ok s []
  else if bf l.argp 63 57 ≠ 0 then .trap s (trapForm l.argp false)
  else match s.readGlobal (s.launchMem l) l.argp n with
    | .trap t tr => .trap t tr
    | .miss t f g => .miss t f g
    | .ok t got => match got.bad with
      | some b => .trap t ⟨b.1, b.2, 0⟩
      | none => .ok t got.bytes

/-- The words of some bytes. -/
def wordsOf (w : Nat) : Nat → List Byte → List Nat
  | 0, _ => []
  | n + 1, bs => leNat (bs.take w) :: wordsOf w n (bs.drop w)

/-- A tile descriptor of the argument block holds (R45). -/
def Launch.tileOk (l : Launch) (d : Word) : Bool := tileDescOk d && decide (bf d 20 0 + bf d 38 21 ≤ l.footBytes)

/-- Check 2 (R48, R238). -/
def Launch.permitted (l : Launch) : Bool :=
  (!l.flagP || l.mayP) && (!l.flagS || l.mayS) && (!l.flagD || l.mayD) && (l.cls != 3 || l.may3) && !(l.cls == 0 && l.isSliced)

/-- Copies that a launch's cost is charged for (R251). -/
def Launch.copies (l : Launch) : Nat := if l.flagD then 2 else 1

/-- Remaining declared work in core-slots, and HBM traffic in bytes: the declared cost less what has been consumed,
on the cores that it holds now and before (R49). -/
def State.restC (s : State) (l : Launch) : Nat :=
  let now := if s.onCores l then l.spent s.cycle else 0
  l.copies * 1024 * l.costC - (l.usedC + now)

def Launch.restB (l : Launch) : Nat := l.copies * 4096 * l.costB - l.usedB

/-- SHARE of a region: core-slots and bytes per µs. -/
def State.share (s : State) (leaf region : Nat) : Nat × Nat :=
  let a := 0x21100 + 16 * (16 * leaf + region)
  (bf (s.pfReg a) 31 0, bf (s.pfReg (a + 8)) 31 0)

/-- The admission test of R49 over the class-0 launches of a region with the new one; the margin is 1/64. -/
def State.admits (s : State) (l : Launch) : Bool :=
  let a := l :: s.launches.filter fun x => x.id != l.id && x.isAdmitted && x.cls == 0 && x.leaf == l.leaf && x.region == l.region
  let sh := s.share l.leaf l.region
  a.all fun y =>
    if y.deadline ≤ s.cycle then true
    else
      let z := a.filter fun x => decide (x.deadline ≤ y.deadline)
      let span := (y.deadline - s.cycle) * 63
      decide ((z.map s.restC).sum * slotsPerUs * 64 ≤ sh.1 * span) && decide ((z.map Launch.restB).sum * slotsPerUs * 64 ≤ sh.2 * span)

/-- Whether a record stands in a region queue: queued, or waiting to be restored. -/
def Launch.inQueue (l : Launch) : Bool :=
  match l.state with
  | .queued => true
  | .saved _ => true
  | _ => false

def State.queueOf (s : State) (leaf region : Nat) : List Launch :=
  s.launches.filter fun l => l.inQueue && l.leaf == leaf && l.region == region

/-- The first region from `r` on, in index order, whose queue has room for a record. -/
def State.roomFrom (s : State) (leaf r : Nat) : Option Nat :=
  ((List.range 16).map fun i => (r + i) % 16).find? fun i => decide ((s.queueOf leaf i).length < 64)

/-- Leaf and region that AFFIN asks for; a failed translation is counted (R52). -/
def State.affinity (s : State) (l : Launch) : (Nat × Nat) × State :=
  let here := (l.leaf, 0)
  let r : (Nat × Nat) × State :=
    if l.affin = 0 then (here, s)
    else if bf l.affin 63 57 ≠ 0 then (here, s.dropHint l.fn)
    else match s.tryPage (s.launchCtx l) false false l.affin l.affin.toNat with
      | .ok _ t =>
        if t.bad.isSome then (here, s.dropHint l.fn)
        else ((homeLeaf t.page.pa, bitsOf t.page.pa 15 12 ^^^ bitsOf t.page.pa 19 16), s)
      | _ => (here, s.dropHint l.fn)
  if l.wid = 32 then ((0, r.1.2), r.2) else r

/-- A bucket's content now, in 1/3,300 tokens: it gains its rate in every µs, up to its depth (R131). -/
def State.tokensOf (s : State) (vf : Nat) : Nat :=
  let r := s.fnRegs vf
  min (r.tokenDepth * slotsPerUs) (r.tokens + r.tokenRate * (s.cycle - r.tokenTime))

/-- TOKEN as it stands governs the function's requests from the admission of a launch on (R131, R243): the bucket
keeps what it holds. -/
def State.latchTokens (s : State) (fn : Nat) : State :=
  let w := s.pfReg (0x21300 + 8 * fn)
  if fn = pfFn then s
  else s.modFn fn fun r => { r with tokens := s.tokensOf fn, tokenTime := s.cycle, tokenRate := bf w 31 0, tokenDepth := bf w 63 32 }

/-- The record enters its region queue: the deadline runs, and the adapters are fetched ahead (R49, R50). -/
def State.enqueue (s : State) (l : Launch) : State :=
  let l := { l with
    arrival := s.nextArr
    accepted := true
    state := match l.image with
      | some b => .saved b
      | none => .queued }
  let s := (({ s.modLaunch l.id fun _ => l with nextArr := s.nextArr + 1 } : State).latchTokens l.fn).letIn l.fn
  l.handles.foldl (fun s h => s.prefAdapter l (h.setWidth 64)) s

/-- Checks 2 to 5 of Table 3.3 and the choice of a queue; with every queue of the leaf full the record is
held (R52). -/
def State.checkRecord (s : State) (l : Launch) : State :=
  if !l.permitted then s.complete l.id .reject 3
  else if l.cls ≤ 1 ∧ l.dline = 0 then s.complete l.id .reject 4
  else if (s.fitting l).isEmpty then s.complete l.id .capacity 0
  else
    let a := s.affinity l
    match s.roomFrom a.1.1 a.1.2 with
    | none => s
    | some r =>
      let l := { l with leaf := a.1.1, region := r, admitted := s.cycle, deadline := s.cycle + l.dline * slotsPerUs }
      if l.cls = 0 ∧ !s.admits l then a.2.complete l.id .reject 2 else a.2.enqueue l

/-- Whether a record's turn has come: earlier records that the leaf holds go first (R314), and a stopped
VF's records stay (R245). -/
def State.admitTurn (s : State) (l : Launch) : Bool :=
  !(s.fnRegs l.fn).stopped && !(s.launches.any fun x => decide (x.id < l.id) && x.state == .port && x.leaf == l.leaf && !(s.fnRegs x.fn).stopped) &&
    (match l.state with
     | .port => true
     | .args m => !s.missPending m
     | _ => false)

/-- A record is checked, its argument block read, and it enters a queue. The PF's registers that govern it are those
that stand now (R243). -/
def State.admitRecord (s : State) (id : Nat) : State :=
  match s.launch? id with
  | none => s
  | some l =>
    let l := { l with cfg := s.cfgOf l.fn }
    if !s.admitTurn l then s
    else if !l.formOk then s.complete id .reject 1
    else match s.argBlock l with
      | .trap t _ => t.complete id .reject 1
      | .miss t f g =>
        let r := t.reportMiss f g none 0 none
        r.2.modLaunch id fun x => { x with state := .args r.1 }
      | .ok t bs =>
        let ts := (wordsOf 8 l.ntile bs).map wd
        let hs := (wordsOf 4 l.apcnt (bs.drop (8 * l.ntile))).map (BitVec.ofNat 32)
        let l := { ((t.launch? id).getD l) with tiles := ts, handles := hs, state := .port, cfg := l.cfg }
        if ts.all l.tileOk then (t.modLaunch id fun _ => l).checkRecord l else t.complete id .reject 1

def execRecordAdmit (id : Nat) (s : State) : Host.Outcome State Fault Refusal := .next (s.admitRecord id)

/-! ## Balancing (R53) -/

/-- Grid neighbours of a region, +X, −X, +Y, −Y. -/
def gridNeighbours (r : Nat) : List Nat :=
  (if r % 4 < 3 then [r + 1] else []) ++ (if 0 < r % 4 then [r - 1] else []) ++
    (if r / 4 < 3 then [r + 4] else []) ++ (if 0 < r / 4 then [r - 4] else [])

/-- The largest excess of a region's depth over a neighbour's, the first on a tie. -/
def excess (depth : Nat → Nat) (r : Nat) : Nat × Nat :=
  (gridNeighbours r).foldl (fun b n => let d := depth r - depth n; if b.1 < d then (d, n) else b) (0, r)

/-- The `n` youngest of some records. -/
def youngest : Nat → List Launch → List Launch
  | 0, _ => []
  | n + 1, ls =>
    match ls.foldl (fun b (l : Launch) => match b with
      | none => some l
      | some (x : Launch) => if x.arrival < l.arrival then some l else some x) none with
    | none => []
    | some l => l :: youngest n (ls.filter fun x => x.id != l.id)

/-- Every 1 µs each region moves records to a shallower neighbour, as far as the neighbour's queue has room (R52), those
whose BALTH as it stood at their admission the depth exceeds (R243);
the depths compared are those at the beginning (DEDUCED, log 28). -/
def State.balance (s : State) : State :=
  if s.cycle < s.balanced + slotsPerUs then s
  else
    let t := [0, 1].foldl (fun t leaf =>
      let depth (r : Nat) : Nat := (s.queueOf leaf r).length
      (List.range 16).foldl (fun t r =>
        let e := excess depth r
        let n := min (e.1 / 2) (64 - (t.queueOf leaf e.2).length)
        (youngest n ((s.queueOf leaf r).filter fun l => (l.cls == 1 || l.cls == 2) && decide (l.cfg.balth < e.1))).foldl
          (fun t l => t.modLaunch l.id fun l => { l with region := e.2 }) t) t) s
    { t with balanced := s.cycle }

def execRegionBalance (s : State) : Host.Outcome State Fault Refusal := .next s.balance

/-! ## Starting a launch (R27, R45, R78, R95, R223, R225, R260) -/

/-- A sequencer at launch start. World tags stay: only `WTCLR` clears one (R257). -/
def Seq.begin_ (q : Seq) (pc tvec : Word) (mode : BitVec 2) : Seq :=
  { Seq.reset with
    pc := pc
    mode := mode
    tvec := tvec
    run := .running
    icache := q.icache
    sSec := q.sSec
    fSec := q.fSec
    sysSec := q.sysSec }

/-- A core at launch start: registers as at reset, tiles from the descriptors; the vault and the world tags stay, and
what else belongs to the place and not to the launch. -/
def Core.begin_ (k : Core) (l : Launch) (r : FnRegs) (rank : Nat) (copy1 : Bool) (cycle : Nat) : Core :=
  let mode : BitVec 2 := if l.sup then 1 else 0
  { Core.reset with
    launch := some l.id
    rank := rank
    copy1 := copy1
    as := k.as.begin_ l.asEnt r.astvec mode
    xs := k.xs.begin_ l.xsEnt r.xstvec mode
    tiles := tab 32 fun i => match l.tiles[i]? with
      | some d => tileOfDesc d
      | none => ⟨.empty, 0, 0⟩
    x := { XUnit.reset with vSec := k.x.vSec, pSec := k.x.pSec }
    mSec := k.mSec
    accSec := k.accSec
    sysSec := k.sysSec
    vault := k.vault
    tlb := k.tlb
    lands := k.lands
    ticket := k.ticket
    rowRes := k.rowRes
    rowPtr := k.rowPtr
    rowGo := k.rowGo
    rowEvac := k.rowEvac
    slotSeen := cycle
    replays := k.replays
    replaySince := k.replaySince }

/-- Pages of a block for the measurement. The read is not subject to Table 7.3: R260 and R118 do not say so (DESIGN
CHOICE, log 16); a page that does not translate reads as free bytes (log 16), and an extent miss waits (R123). -/
def State.blockPages (s : State) (l : Launch) : List Nat → Acc (List Byte)
  | [] => .ok s []
  | a :: as =>
    let x := s.launchCtx l
    let t := s.triedPages x [(a, 4096)]
    let r : Acc (List Byte) :=
      match s.tryPage x false false (wd a) a with
      | .miss _ f g => .miss t f g
      | .ok _ p =>
        let pa := p.page.pa / 4096 * 4096
        .ok (t.launchRequest l l.fn pa 4096) (s.readPhys l.owner p.page.sh pa 4096)
      | .trap _ _ => let f := t.freeBytes 4096; .ok f.2 f.1
    match r with
    | .ok t bs =>
      match State.blockPages t l as with
      | .ok u cs => .ok u (bs ++ cs)
      | r => r
    | r => r

/-- The 64 KiB block of virtual addresses that holds one, for the measurement (R260). -/
def State.blockAt (s : State) (l : Launch) (p : Word) : Acc (List Byte) :=
  s.blockPages l ((List.range 16).map fun i => p.toNat % 2 ^ 57 / 65536 * 65536 + 4096 * i)

/-- A measurement register takes in some bytes (R260). -/
def extendMr (mr : Line) (bs : List Byte) : Line := Config.sha512 (lineBytes mr ++ lineBytes (Config.sha512 bs))

/-- The measurement of a launch flagged S under attestation mode 1. -/
def State.measured (s : State) (l : Launch) : Acc Line :=
  if l.flagS && bt (s.pfReg 0x24208) 0 then
    match s.blockAt l l.asEnt with
    | .ok t a =>
      match t.blockAt l l.xsEnt with
      | .ok u x => .ok u (extendMr (extendMr (extendMr l.measure (lineBytes l.record)) a) x)
      | .trap u t => .trap u t
      | .miss u f g => .miss u f g
    | .trap t tr => .trap t tr
    | .miss t f g => .miss t f g
  else .ok s l.measure

/-- A measured launch starts at an origin. -/
def State.startOn (s : State) (l : Launch) (o : Nat × Nat) (mr : Line) : State :=
  let l := { l with x0 := o.1, y0 := o.2, state := .running, front := false, placedAt := s.cycle, measure := mr }
  let r := s.fnRegs l.fn
  let t := { s.modLaunch l.id fun _ => l with reserved := s.reserved.filter fun x => x.2 != l.id }
  l.allCores.foldl (fun s c =>
    s.modCore c fun k => k.begin_ l r (l.rankOf c) (l.flagD && decide (l.x0 + 16 ≤ coreX c)) s.cycle) t

/-- A launch starts at an origin; where its measurement misses the extent map it waits for the PF (R123). -/
def State.startAt (s : State) (l : Launch) (o : Nat × Nat) : State :=
  match s.measured l with
  | .ok t mr => t.startOn l o mr
  | .trap t _ => t
  | .miss t f g => (t.reportMiss f g (some l.id) 0 none).2

/-! ## Restoring a launch (R230, R237) -/

/-- The core of a save slot of a launch's run. -/
def Launch.slotCore (l : Launch) (i : Nat) : Nat :=
  let n := l.wid * l.hgt
  if l.flagD && decide (n ≤ i) then l.coreOf true (i - n) else l.coreOf false i

/-- Reads an image in the save area of a launch. -/
def State.imageRd (s : State) (l : Launch) (slot : Nat) : Nat → Nat → Nat := fun off n => s.mem.readNat (l.slotAt slot + off) n

/-- Whether the device restores a saved launch: every image of it has the MAGIC and the VER of R237. What becomes of
a launch with another image no rule says: it stays saved (DESIGN CHOICE, log 18). -/
def State.restorable (s : State) (l : Launch) : Bool :=
  match l.state with
  | .saved base => (List.range l.nCores).all fun i => goodImage (s.imageRd l (base + i))
  | _ => true

/-- The requests for an image of a core: they carry the class and stamp of its launch (R130). -/
def State.imageUse (s : State) (l : Launch) (slot : Nat) : State :=
  (splitPages (l.slotAt slot) (imgSize l)).foldl (fun s a => s.launchRequest l l.fn a.1 a.2) s

/-- A pending report is taken before the first instruction of its sequencer issues (R237). -/
def State.takePending (s : State) (c : Nat) (q : SeqId) : State :=
  let x := (s.core c).seq q
  match x.pend with
  | some r => if x.run = .running then (s.modCore c fun k => k.modSeq q fun x => { x with pend := none }).trapOn c q ⟨r.cause, r.e0, r.e1⟩ else s
  | none => s

/-- What still refers to a core of a launch follows it to its new place: landings, receives, operations in
flight with their packets, records that it posted, the scope records of its agents and what its engines have written (R134, R158, R161). -/
def State.moveRefs (s : State) (l l' : Launch) : State :=
  let go (c : Nat) : Nat := l'.slotCore (l.slotOf c)
  let moved := l.allCores.map fun c => (go c, (s.core c).lands.filter fun x => x.launch == l.id)
  let s := s.modCores l.allCores fun k => { k with lands := k.lands.filter fun x => x.launch != l.id }
  let s := moved.foldl (fun s m => s.modCore m.1 fun k => { k with lands := k.lands ++ m.2 }) s
  let mine (g : Agent) : Bool := g.node == s.nodeId && g.launch == l.id
  let agent (g : Agent) : Agent := if mine g then { g with core := go g.core } else g
  let op (p : RemoteOp) : RemoteOp := { p with
    agent := agent p.agent
    grp := if mine p.agent then p.grp.map go else p.grp
    more := p.more.map fun m => (m.1, m.2.1, agent m.2.2) }
  let line (x : MscLine) : MscLine := { x with
    scope := x.scope.map fun r => if mine r.agent then { r with agent := agent r.agent, grp := r.grp.map go } else r
    eng := x.eng.map fun w => if w.launch == l.id then { w with core := go w.core } else w }
  { s with
    msc := vmapi s.msc fun _ ls => ls.map line
    posted := s.posted.map fun p => if p.launch == l.id then { p with core := go p.core } else p
    net := s.net.map op
    remWaits := s.remWaits.map fun w => { w with op := op w.op }
    inflight := s.inflight.map fun x => if x.launch == l.id then { x with core := go x.core } else x
    launches := s.launches.map fun x => match x.poster with
      | some (i, c) => if i == l.id then { x with poster := some (i, go c) } else x
      | none => x }

/-- The side work of the groups that a restored core holds back goes on: a page that has not come is asked for
again (R193). -/
def State.askHeld (s : State) (c : Nat) : State :=
  ((s.core c).matQ.filter fun (x : MatCmd) => x.isMul && !x.held.isEmpty).foldl (fun s (x : MatCmd) => s.sideRun c x.ticket) s

/-- A saved launch is restored at an origin. -/
def State.restoreAt (s : State) (l : Launch) (base : Nat) (o : Nat × Nat) : State :=
  let l' := { l with x0 := o.1, y0 := o.2, state := .running, front := false, placedAt := s.cycle, image := none, cores := [] }
  let n := l.wid * l.hgt
  let t := s.moveRefs l l'
  let t := (List.range l.nCores).foldl (fun t i =>
    t.modCore (l'.slotCore i) fun k =>
      Core.ofImage (s.imageRd l (base + i)) (l.cores.getD i Core.reset) k l' (l.flagD && decide (n ≤ i)) s.cycle) t
  let t := (List.range l.nCores).foldl (fun t i => t.imageUse l (base + i)) t
  let t := { t.modLaunch l.id fun _ => l' with reserved := t.reserved.filter fun x => x.2 != l.id }
  let t := l'.allCores.foldl (fun t c => (t.takePending c .as).takePending c .xs) t
  let t := l'.allCores.foldl (fun t c => t.askHeld c) t
  t.enforce

/-! ## The placer (R51, R54) -/

/-- Whether `a` goes before `b` in their class: pre-empted records first, then earlier deadlines in classes
0 and 1, then earlier arrivals. R55 gives several pre-empted records of one class no order: they go among themselves as
R48 orders any others (DESIGN CHOICE, log 27). -/
def Launch.goesFirst (a b : Launch) : Bool :=
  if a.front != b.front then a.front
  else if a.cls ≤ 1 ∧ a.deadline ≠ b.deadline then decide (a.deadline < b.deadline)
  else decide (a.arrival < b.arrival)

/-- Whether a record's measurement waits for the PF (R123, R260). -/
def State.measuring (s : State) (l : Launch) : Bool := l.state == .queued && s.misses.any fun m => m.launch == some l.id

/-- The head of a class over the region queues of a leaf. A record of a VF that is stopped, or whose slice it is not,
is no head, nor is one whose measurement waits: R54 does not say that it blocks its class (DESIGN CHOICE, log 27). -/
def State.headOf (s : State) (leaf cls : Nat) : Option Launch :=
  (s.launches.filter fun l => l.inQueue && l.leaf == leaf && l.cls == cls && !s.offTurn l && s.restorable l && !s.measuring l).foldl (fun b l => match b with
    | none => some l
    | some x => if l.goesFirst x then some l else some x) none

/-- What the placer finds: a head that fits nowhere any more, or a head with its place. -/
inductive Placing where
  | unfit (l : Launch)
  | at_ (l : Launch) (o : Nat × Nat)
  deriving DecidableEq, Repr

/-- What becomes of a head: nothing where no fitting rectangle is free. -/
def State.tryHead (s : State) (l : Launch) : Option Placing :=
  match s.fitting l with
  | [] => some (.unfit l)
  | os => (s.nearest l (os.filter fun o => (l.at_ o).allCores.all (s.coreFree l))).map (Placing.at_ l)

/-- The first head, in class order, that the placer can do something with. -/
def State.findHead (s : State) (leaf : Nat) : Option Placing :=
  [0, 1, 2, 3].findSome? fun c => (s.headOf leaf c).bind s.tryHead

/-- A place is taken: the launch starts there, or is restored. -/
def State.takePlace (s : State) (l : Launch) (o : Nat × Nat) : State :=
  match l.state with
  | .saved b => s.restoreAt l b o
  | _ => s.startAt l o

/-- The placer's step. A head that no rectangle qualifies for any more is removed, CAPACITY (R51). -/
def State.place (s : State) (leaf : Nat) : State :=
  match s.findHead leaf with
  | none => s
  | some (.unfit l) =>
    match l.state with
    | .saved _ => s.endSaved l.id .capacity 0 0
    | _ => s.complete l.id .capacity 0
  | some (.at_ l o) => s.takePlace l o

def execLaunchPlace (leaf : Fin 2) (s : State) : Host.Outcome State Fault Refusal := .next (s.place leaf.val)

/-- A saved launch that the placer would place is restored. -/
def State.restoreLaunch (s : State) (id : Nat) : State :=
  match s.launch? id with
  | none => s
  | some l =>
    match l.state, s.findHead l.leaf with
    | .saved b, some (.at_ x o) => if x.id = id then s.restoreAt l b o else s
    | _, _ => s

def execContextRestore (id : Nat) (s : State) : Host.Outcome State Fault Refusal := .next (s.restoreLaunch id)

/-! ## Class-0 pre-emption (R55) -/

/-- 12 µs: the time in which a victim's cores stop and save. -/
def saveSlots : Nat := 12 * slotsPerUs

/-- The estimate for a waiting record: it cannot finish by its deadline unless cores are freed for it now
(DESIGN CHOICE, log 27). -/
def State.tooLate (s : State) (l : Launch) : Bool :=
  decide (l.deadline < s.cycle + s.restC l / l.nCores + saveSlots)

/-- The origins that a victim would free for a record. -/
def State.freedBy (s : State) (l v : Launch) : List (Nat × Nat) :=
  (s.fitting l).filter fun o => (l.at_ o).allCores.all fun c => s.coreFree l c || v.allCores.contains c

/-- Candidates: running launches of lower classes off the background cores, with a free run of save slots,
which free a large enough rectangle. -/
def State.victims (s : State) (l : Launch) : List Launch :=
  s.launches.filter fun v => v.state == .running && v.image.isNone && v.cls != 0 && !(v.allCores.any v.inBackground) &&
    (s.freeRun v.fn v.nCores).isSome && !(s.freedBy l v).isEmpty

/-- The victim: of the lowest class, and within it the one admitted latest. -/
def pickVictim (vs : List Launch) : Option Launch :=
  vs.foldl (fun b v => match b with
    | none => some v
    | some x => if x.cls < v.cls ∨ (x.cls = v.cls ∧ x.admitted < v.admitted) then some v else some x) none

/-- The placer pre-empts for the waiting class-0 head, and reserves the cores for it. -/
def State.class0Preempt (s : State) (leaf : Nat) : State :=
  match s.headOf leaf 0 with
  | none => s
  | some l =>
    if (s.reserved.any fun x => x.2 == l.id) || !s.tooLate l then s
    else match s.tryHead l with
      | some _ => s
      | none =>
        match pickVictim (s.victims l) with
        | none => s
        | some v =>
          match s.nearest l (s.freedBy l v) with
          | none => s
          | some o =>
            let t := s.requestPreempt v.id
            { t with reserved := (l.at_ o).allCores.foldl (fun m c => SMap.insert m c l.id) t.reserved }

def execClass0Preemption (leaf : Fin 2) (s : State) : Host.Outcome State Fault Refusal := .next (s.class0Preempt leaf.val)

/-! ## Saving (R230 to R236) -/

/-- The cores of a launch are free. -/
def State.releaseCores (s : State) (l : Launch) : State :=
  (l.allCores.filter fun c => (s.core c).launch == some l.id).foldl (fun s c =>
    let s := s.raiseWraps c
    let s := s.modCore c Core.freed
    { s with idleSince := SMap.insert s.idleSince c s.cycle }) s

/-- An exchange step is abandoned once every beat that has left has landed (R230, R233). -/
def State.abandonStep (s : State) (l : Launch) : State :=
  let s := s.modCores l.allCores fun k => { k with beats := k.beats.filter fun b => b.data.isSome }
  if l.allCores.all fun c => (s.core c).beats.isEmpty then s.modLaunch l.id fun l => { l with step := none } else s

/-- Whether the engines of a core stand at a stop point: no block, row or drain is in the middle of its pieces, and
every landing into the vault is between packets (R172, R186, R218). -/
def State.enginesStopped (s : State) (l : Launch) (c : Nat) : Bool :=
  let k := s.core c
  (k.copyQ.all fun (x : CopyCmd) => x.part.isNone) && (k.gathQ.all fun (x : GathCmd) => x.part.isNone) &&
    (k.matQ.all fun (x : MatCmd) => x.out.isNone) &&
    k.lands.all fun (x : Landing) => x.launch != l.id || (s.landOff l c x).isNone || x.done % 4096 == 0 || decide (x.need ≤ x.done)

/-- Whether a core of a launch can be saved: no handler runs, no access of several rows and no collective of which
every core has arrived is under way (R304, R321), its engines have stopped, and nothing of the launch travels. -/
def State.saveReady (s : State) (l : Launch) (c : Nat) : Bool :=
  let k := s.core c
  !k.as.inh && !k.xs.inh && !k.as.midRows && !k.xs.midRows && !s.barFull c && !s.csbalFull c && s.enginesStopped l c && k.vault.landing.isEmpty && !(s.vreqs.any fun r => r.launch == l.id) &&
    !(s.inflight.any fun x => x.core == c && x.launch == l.id && x.kind == 4 && x.sent.isNone && x.retryAt.isNone)

/-- A stopped core saves its context, and is free once every core of the launch has (R234). The record then re-enters
its region queue: where that holds 64 records already it stands there as one more, on which R52 and R55 are silent
(DESIGN CHOICE, log 18). -/
def State.saveCore (s : State) (c : Nat) : State :=
  match (s.core c).launch.bind s.launch?, (s.core c).ppre with
  | some l, some _ =>
    match l.image with
    | none => s
    | some base =>
      if l.state ≠ .running || !s.saveReady l c then s
      else
        let s := if l.step.isSome then s.abandonStep l else s
        if ((s.launch? l.id).bind Launch.step).isSome then s
        else
          let slot := base + l.slotOf c
          let s := s.raiseWraps c
          let due (q : Seq) : Seq := { q.flush with stall := s.stallLeft c q }
          let s := s.modCore c fun k => { k with as := due k.as, xs := due k.xs, beatLost := false }
          let snap := s.core c
          let s := (s.putImage (l.slotAt slot) c slot).imageUse l slot
          let s := s.modLaunch l.id fun l => { l with cores := l.cores.set (l.slotOf c) snap }
          let s := s.modCore c Core.freed
          let s := { s with idleSince := SMap.insert s.idleSince c s.cycle }
          if l.allCores.any fun x => (s.core x).launch == some l.id then s
          else (s.modLaunch l.id fun l => { l with
            state := .saved base, front := true, usedC := l.usedC + (s.cycle - l.placedAt) * l.nCores }).enforce
  | _, _ => s

def execContextSave (core : CoreId) (s : State) : Host.Outcome State Fault Refusal := .next (s.saveCore core.val)

/-- A handler that has held a pre-emption back for 12 µs ends the launch KILLED (R232). -/
def State.preemptLate (s : State) (c : Nat) : State :=
  let k := s.core c
  match k.launch, k.ppre with
  | some id, some t => if (k.as.inh || k.xs.inh) && decide (t + saveSlots ≤ s.cycle) then s.endLaunch id .killed 0 0 else s
  | _, _ => s

def execPreemptTimeout (core : CoreId) (s : State) : Host.Outcome State Fault Refusal := .next (s.preemptLate core.val)

/-- The length of the running slice: SLICE as it stood when the VF's oldest time-sliced launch was admitted, else as it
stands (R238, R243; log 32). -/
def State.sliceLen (s : State) : Nat :=
  ((s.launches.find? fun l => l.fn == s.sliceVf && l.isAdmitted && l.isSliced).map fun l => l.cfg.slice).getD (s.pfReg 0x21C00).toNat

/-- Whether a VF takes turns: it is time-sliced now, or has a launch that was admitted when it was (R243). -/
def State.takesTurns (s : State) (vf : Nat) : Bool := s.sliced vf || s.launches.any fun l => l.fn == vf && l.isAdmitted && l.isSliced

/-- The turn passes to the next time-sliced VF; the outgoing VF's launches are pre-empted (R238). -/
def State.sliceTurn (s : State) : State :=
  if s.cycle < s.sliceStart + s.sliceLen * slotsPerUs then s
  else
    let next := (((List.range 64).map fun i => (s.sliceVf + 1 + i) % 64).find? s.takesTurns).getD s.sliceVf
    ({ s with sliceVf := next, sliceStart := s.cycle } : State).enforce

def execSliceBoundary (s : State) : Host.Outcome State Fault Refusal := .next s.sliceTurn

/-! ## Retirement (R63, R64) -/

/-- Whether nothing of a launch is left to be acknowledged or to land. -/
def State.acked (s : State) (l : Launch) : Bool :=
  !(s.inflight.any fun x => x.launch == l.id) && !(s.vreqs.any fun r => r.launch == l.id) &&
    l.allCores.all fun c => !((s.core c).lands.any fun x => x.launch == l.id)

/-- Whether a launch has drained. -/
def State.drained (s : State) (l : Launch) : Bool :=
  s.acked l && l.allCores.all fun c =>
    let k := s.core c
    k.launch != some l.id || (k.copyQ.isEmpty && k.gathQ.isEmpty)

/-- Shadow pages go back to the pools of their copies (R253). -/
def State.returnShadows (s : State) (l : Launch) : State :=
  let mine := s.shadows.filter fun p => p.launch == l.id
  let s := { s with shadows := s.shadows.filter fun p => p.launch != l.id }
  mine.foldl (fun s p => { s with shPool := SMap.insert s.shPool (2 * l.fn + b2n p.copy1) (s.poolOf l.fn p.copy1 ++ [p.new]) }) s

/-- What a launch has consumed on the cores that it gives up is kept (R49). -/
def State.consumed (s : State) (l : Launch) : State :=
  if s.onCores l then s.modLaunch l.id fun x => { x with usedC := x.usedC + l.spent s.cycle } else s

/-- A drained launch frees its cores and finishes; one that ran paired and ended OK is committed by another
step (R253). A record held by an extent miss is written once the PF has answered. -/
def State.drainDone (s : State) (id : Nat) : State :=
  match s.launch? id with
  | none => s
  | some l =>
    match l.state with
    | .recording m => if s.missPending m then s else s.writeRecord l
    | .draining =>
      if !s.drained l || (l.flagD && l.status == .ok) then s
      else (((s.consumed l).releaseCores l).returnShadows l).finishLaunch id
    | _ => s

def execLaunchDrainComplete (id : Nat) (s : State) : Host.Outcome State Fault Refusal := .next (s.drainDone id)

/-- The retirement tracker writes the record once the last transfer is acknowledged (R64). -/
def State.trackerDone (s : State) (id : Nat) : State :=
  match s.launch? id with
  | none => s
  | some l => if l.state = .tracker ∧ l.leftC.isEmpty ∧ l.leftG.isEmpty ∧ s.acked l then s.finishLaunch id else s

def execTrackerComplete (id : Nat) (s : State) : Host.Outcome State Fault Refusal := .next (s.trackerDone id)

end Sys2Proof.Machine
end

