-- ==== Sys2Proof/Machine/MemSys.lean ====
section
/-! DEFINITION. Steps of the memory system: extent misses answered, extent descriptors, adapter-cache ways,
channel requests, and pooled ranges released: R122, R123, R128, R130 to R134. -/

namespace Sys2Proof.Machine

/-! ## The PF's answer to an extent miss (R123, R207) -/

/-- A miss is no longer open. -/
def State.closeMiss (s : State) (id : Nat) : State := { s with misses := s.misses.filter fun m => m.id != id }

/-- Retry: what waits walks again. A remote operation and a completion record go on at once, the rest in
their own steps. -/
def State.missRetry (s : State) (id : Nat) : State :=
  if !s.missPending id then s
  else
    let s := s.closeMiss id
    let ops := s.remWaits.filter fun w => w.miss == id
    let recs := s.launches.filter fun l => l.state == .recording id
    let s := { s with remWaits := s.remWaits.filter fun w => w.miss != id }
    let s := ops.foldl (fun s w => s.performOp w.op true) s
    recs.foldl (fun s l => s.writeRecord l) s

def execExtentMissRetry (n : Nat) (s : State) : Host.Outcome State Fault Refusal := .next (s.missRetry n)

/-- A launch that drains or is tracked fails; the first failure stands. -/
def Launch.failLate (l : Launch) (cause : BitVec 8) (frank : Nat) : Launch :=
  if l.status = .ok then { l with status := .fault, detail := cause, frank := frank } else l

/-- What the abort of a miss does to the launch concerned (R46, R47, R123). -/
def State.abortLaunch (s : State) (l : Launch) (id rank : Nat) : State :=
  match l.state with
  | .args m => if m = id then s.complete l.id .reject 1 else s
  | .queued => s.complete l.id .fault cXLATE
  | .recording m => if m = id then (s.recordEvent l).dropLaunch l else s
  | .running => s.endLaunch l.id .fault cXLATE rank
  | .saved _ => s.endSaved l.id .fault cXLATE rank
  | .draining => s.modLaunch l.id fun l => l.failLate cXLATE rank
  | .tracker => s.modLaunch l.id fun l => l.failLate cXLATE rank
  | _ => s

/-- Commands, landings and messages that wait for an aborted miss are dropped; a message's sender is
answered. -/
def State.dropWaiters (s : State) (id : Nat) : State :=
  let w (m : Option Nat) : Bool := m == some id
  let owed := (List.range 384).flatMap fun c => (s.core c).lands.filter fun x => w x.missed && x.owed
  let s := s.mapCores fun _ k => { k with
    copyQ := k.copyQ.filter fun (x : CopyCmd) => !w x.missed
    gathQ := k.gathQ.filter fun (x : GathCmd) => !w x.missed
    lands := k.lands.filter fun (x : Landing) => !w x.missed }
  let s := { s with
    launches := s.launches.map fun (l : Launch) => { l with
      leftC := l.leftC.filter fun x => !w x.2.missed
      leftG := l.leftG.filter fun x => !w x.2.missed }
    inflight := s.inflight.filter fun x => !w x.missed }
  owed.foldl (fun s x => s.sendAck ⟨x.msg.src, s.nodeId, x.msg.seq, true, 0, false, false, false, 0, false⟩) s

/-- Abort: the launch ends FAULT with DETAIL 0x05, or the remote operation is refused, not performed. -/
def State.missAbort (s : State) (id : Nat) : State :=
  match s.misses.find? fun m => m.id == id with
  | none => s
  | some m =>
    let s := s.closeMiss id
    let ops := s.remWaits.filter fun w => w.miss == id
    let s := { s with remWaits := s.remWaits.filter fun w => w.miss != id }
    let s := ops.foldl (fun s w => s.ackOp w.op false cXLATE false true 0 false) s
    let s := match (if m.remote.isSome then none else (m.launch.bind s.launch?).or (s.launches.find? fun l => l.state == .args id)) with
      | some l => s.abortLaunch l id m.rank
      | none => s
    s.dropWaiters id

def execExtentMissAbort (n : Nat) (s : State) : Host.Outcome State Fault Refusal := .next (s.missAbort n)

/-! ## Extent descriptors (R122) -/

/-- Whether the device takes a descriptor for extent `i` of a VF. Its guest range may overlap no other valid extent,
whatever its own EV; an empty range whose GBASE lies inside another valid extent is taken to overlap it (DESIGN CHOICE,
log 30). -/
def State.extentOk (s : State) (vf i : Nat) (d : BitVec 256) : Bool :=
  let e : Ext := ⟨bf d 63 0, bf d 99 64, bf d 191 128, d.extractLsb' 192 64⟩
  let clash (j : Nat) : Bool :=
    let x := s.ext vf j
    j != i && x.valid && decide (x.gbase < e.gbase + e.bytes) && decide (e.gbase < x.gbase + x.bytes)
  bf d 127 100 == 0 && bf e.fl 63 52 == 0 && bf e.fl 11 8 == 0 && !bt e.fl 1 && e.gbase % 65536 == 0 && e.hbase % 65536 == 0 &&
    inOneWindow e.hbase e.bytes && !(e.valid && e.size == 0) && !((List.range 64).any clash)

/-- A descriptor write: rejected, or taken with REV cleared. -/
def State.extentWrite (s : State) (vf i : Nat) (d : BitVec 256) : State :=
  if !s.extentOk vf i d then s
  else
    let a := extOff vf i
    (((s.setPfReg a (d.extractLsb' 0 64)).setPfReg (a + 8) (d.extractLsb' 64 64)).setPfReg (a + 16) (d.extractLsb' 128 64)).setPfReg (a + 24)
      (setBit (d.extractLsb' 192 64) 7 false)

def execExtentDescriptorWrite (vf i : Fin 64) (d : BitVec 256) (s : State) : Host.Outcome State Fault Refusal :=
  .next (s.extentWrite vf.val i.val d)

/-! ## Adapter-cache ways (R128) -/

/-- ACWAYS changes: what the ways that change sides hold is written back and invalidated before the new value holds.
Ways that are released lose their factor pages; ways that are taken, or that a set with lost rows then has no row for,
lose their general blocks (R128, R129). -/
def State.setWays (s : State) (n : Nat) : State :=
  if 8 < n then s
  else
    let keep (b w : Nat) : Bool := decide (mscWays - n ≤ w) &&
      decide (w - (mscWays - n) < min n (mscWays - s.mscLost (homeLeaf (256 * b)) (mscSetOf (256 * b))))
    let s := { s with acache := s.acache.map fun (p : APage) => { p with blocks := p.blocks.filter fun x => keep x.1 x.2 } }
    let s := [0, 1].foldl (fun s leaf => s.dropMsc leaf (fun l => decide (mscWays - n - s.mscLost leaf (mscSetOf l.addr) ≤ l.way)) pfFn s.deviceStamp) s
    s.setPfReg 0x21010 (wd n)

def execAcwaysWrite (n : BitVec 4) (s : State) : Host.Outcome State Fault Refusal := .next (s.setWays n.toNat)

/-! ## Channel requests (R130 to R132) -/

/-- Tokens that a request spends, in the same unit; class 0 and the PF spend none. -/
def HbmReq.cost (r : HbmReq) : Nat := if r.cls = 0 ∨ r.fn = pfFn then 0 else cdiv r.bytes 64 * slotsPerUs

/-- Whether a request's VF has the tokens that it spends. -/
def State.hasTokens (s : State) (r : HbmReq) : Bool := decide (r.cost = 0) || decide (r.cost ≤ s.tokensOf r.fn)

/-- Stamps compared modulo 2^16. -/
def stampEarlier (a b : BitVec 16) : Bool := a != b && decide ((b - a).toNat < 2 ^ 15)

/-- Whether a channel serves `a` before `b`: class, then stamp, then age. -/
def HbmReq.before (a b : HbmReq) : Bool :=
  if a.cls ≠ b.cls then decide (a.cls < b.cls)
  else if a.stamp ≠ b.stamp then stampEarlier a.stamp b.stamp
  else decide (a.arrival < b.arrival)

def firstReq (rs : List HbmReq) : Option HbmReq :=
  rs.foldl (fun b r => match b with
    | none => some r
    | some x => if r.before x then some r else some x) none

/-- A channel's next request completes: the channel is that of the oldest request; one whose VF lacks
tokens is served only when no request of a VF with tokens waits. R131 does not say what it then spends: the bucket is
left empty (DESIGN CHOICE, log 61). -/
def State.hbmComplete (s : State) : State :=
  match s.hbm with
  | [] => s
  | o :: _ =>
    let here := s.hbm.filter fun r => r.chan == o.chan
    let rich := here.filter s.hasTokens
    match firstReq (if rich.isEmpty then here else rich) with
    | none => s
    | some r =>
      let s' := { s with hbm := dropFirst (fun x => x.arrival == r.arrival) s.hbm }
      let s' :=
        if r.cost = 0 then s'
        else s'.modFn r.fn fun f => { f with tokens := s.tokensOf r.fn - r.cost, tokenTime := s.cycle }
      if r.cls ≤ 1 && stampEarlier r.stamp s.stamp then
        s'.modFn r.fn fun f => { f with missReq := if f.missReq = BitVec.allOnes 32 then f.missReq else f.missReq + 1 }
      else s'

def execHbmRequestComplete (s : State) : Host.Outcome State Fault Refusal := .next s.hbmComplete

/-! ## Pooled ranges (R133, R134) -/

/-- REV is set in every valid extent of every VF whose host range overlaps a range. -/
def State.revoke (s : State) (lo hi : Nat) : State :=
  (List.range 4096).foldl (fun s n =>
    let e := s.ext (n / 64) (n % 64)
    if e.valid && decide (e.hbase < hi) && decide (lo < e.hbase + e.bytes) then
      s.setPfReg (extOff (n / 64) (n % 64) + 24) (setBit e.fl 7 true)
    else s) s

/-- Whether a line lies in a range. -/
def MscLine.within (l : MscLine) (lo hi : Nat) : Bool := decide (l.addr < hi) && decide (lo < l.addr + 64)

/-- The lines of a range leave the MSCs, written back where they are dirty, and the adapter caches. -/
def State.dropLines (s : State) (lo hi : Nat) : State :=
  let s := [0, 1].foldl (fun s leaf => s.dropMsc leaf (fun l => l.within lo hi) pfFn s.deviceStamp) s
  { s with acache := s.acache.map fun p =>
      { p with blocks := p.blocks.filter fun x => !(decide (256 * x.1 < hi) && decide (lo < 256 * x.1 + 256)) } }

/-- Whether a factor page on its way lies in a range. -/
def AFetch.within (f : AFetch) (lo hi : Nat) : Bool := decide (f.pa < hi) && decide (lo < f.pa + f.len)

/-- The factor pages of a range that are on their way arrive. -/
def State.fetchesDone (s : State) (lo hi : Nat) : State :=
  (s.afetch.filter fun f => f.within lo hi).foldl (fun s f => s.pageArrive f.handle f.ver f.pageB .good) s

/-- The pool manager releases a range: REV; what is in flight to it completes, and its lines are written back and
invalidated; the acknowledgement. -/
def State.cxlRelease (s : State) (lo hi : Nat) : State :=
  (((s.revoke lo hi).fetchesDone lo hi).dropLines lo hi).postEvent pfFn (wd lo) 0 0 0 0xFF 5

def execCxlRelease (lo hi : BitVec 52) (s : State) : Host.Outcome State Fault Refusal := .next (s.cxlRelease lo.toNat hi.toNat)

/-- A dirty line's write is lost: its block keeps what it held. -/
def State.loseLine (s : State) (l : MscLine) : State :=
  match l.old with
  | none => s
  | some b => s.rawWrite l.addr (lineBytes b)

/-- The engine error of a lost write: its cause is not stated (DESIGN CHOICE REVOKED, log 41), and no pointer names
the line. -/
def lostWrite : Trap := ⟨cREVOKED, 0, 0⟩

/-- A copy whose writes have been lost stops (R166). -/
def State.stopCopy (s : State) (e : Eng) (x : CopyCmd) : State :=
  ((s.engFail e 1 lostWrite x.bar (x.sectorsFrom x.next)).copyTiles e x).setCopy e x none

/-- A scatter whose writes have been lost stops. -/
def State.stopGath (s : State) (e : Eng) (x : GathCmd) : State :=
  (s.engFail e 2 lostWrite x.bar ((x.rows - x.row) * x.sectors)).gathEnd e x

/-- A command of a saved core stops in its snapshot, and the image takes its error and its sectors. -/
def State.stopSaved (s : State) (l : Launch) (w : EngineWrite) : State :=
  let k := l.cores.getD (l.slotOf w.core) Core.reset
  let rest :=
    match k.copyQ.find? (fun (x : CopyCmd) => x.ticket == w.ticket), k.gathQ.find? (fun (x : GathCmd) => x.ticket == w.ticket) with
    | some x, _ => x.sectorsFrom x.next
    | none, some x => (x.rows - x.row) * x.sectors
    | none, none => 0
  ((s.errorOf l w.core w.path cREVOKED w.bar 0).countOf l w.core w.path w.bar rest).modLaunch l.id fun l => { l with
    cores := modAt l.cores (l.slotOf w.core) fun k => { k with
      copyQ := k.copyQ.filter fun (x : CopyCmd) => x.ticket != w.ticket
      gathQ := k.gathQ.filter fun (x : GathCmd) => x.ticket != w.ticket } }

/-- A landing whose writes have been lost takes an engine error: what of it is still to come does not land (R134, R215). -/
def State.stopLanding (s : State) (l : Launch) (w : EngineWrite) : State :=
  (s.modCore w.core fun k => { k with lands := k.lands.map fun (x : Landing) =>
    if x.launch == w.launch && x.ticket == w.ticket then { x with bad := true } else x }).errorOf l w.core w.path cREVOKED w.bar 0

/-- An engine whose dirty writes have been lost takes an engine error: its command stops, if it has not ended (R134,
R166, R167). -/
def State.stopWrite (s : State) (w : EngineWrite) : State :=
  match s.launch? w.launch with
  | none => s
  | some l =>
    let tracked := l.state == .tracker
    if w.path = 5 then s.stopLanding l w
    else if !tracked && (s.core w.core).launch ≠ some l.id then s.stopSaved l w
    else
      let e := if tracked then trackEng l w.core else s.eng w.core
      let cs := if tracked then (l.leftC.filter fun x => x.1 == w.core).map Prod.snd else (s.core w.core).copyQ
      let gs := if tracked then (l.leftG.filter fun x => x.1 == w.core).map Prod.snd else (s.core w.core).gathQ
      match cs.find? (fun (x : CopyCmd) => x.ticket == w.ticket), gs.find? (fun (x : GathCmd) => x.ticket == w.ticket) with
      | some x, _ => s.stopCopy e x
      | none, some x => s.stopGath e x
      | none, none => s.engFail e w.path lostWrite w.bar 0

/-- A range is withdrawn without the handshake: factor pages on their way will come poisoned, dirty writes are lost,
with an engine error of every command that made one, then REV is set. -/
def State.surprise (s : State) (lo hi : Nat) : State :=
  let lost := s.msc.toList.flatMap fun ls => ls.filter fun l => l.within lo hi && l.old.isSome
  let s := lost.foldl State.loseLine { s with afetch := s.afetch.map fun f => if f.within lo hi then { f with lost := true } else f }
  let s := { s with msc := vmapi s.msc fun _ ls => ls.filter fun l => !l.within lo hi }
  let s := s.dropLines lo hi
  ((lost.flatMap MscLine.eng).eraseDups.foldl State.stopWrite s).revoke lo hi

def execCxlSurpriseRelease (lo hi : BitVec 52) (s : State) : Host.Outcome State Fault Refusal := .next (s.surprise lo.toNat hi.toNat)

end Sys2Proof.Machine
end

