-- ==== Sys2Proof/Machine/VecOps.lean ====
section
/-! DEFINITION. What the vector instructions share: results by lane, by pair and by sub-element, with
their flags and with the draws of stochastic rounding (R14, R30, R31, R78, R82, R83, R370, R371). -/

namespace Sys2Proof.Machine

/-- Writes the guarded lanes of a register with values and raises their flags `lat` slots on (R14, R82). -/
def State.mapLanes (s : State) (c : Ctl) (lat : Nat) (d : Fin 32) (f : Nat → Nat × Flags) : State :=
  let m := s.lanes c
  let rs : Vector (Nat × Flags) 1024 := tab 1024 fun l => if bt m l then f l else (0, 0)
  (s.writeLanes d m (vmapi rs fun _ r => BitVec.ofNat 32 r.1)).orFlags lat (orAll (rs.toList.map Prod.snd))

/-- As `mapLanes` for a pair of registers: latency 8 (R30, R371). -/
def State.mapPairs (s : State) (c : Ctl) (d : Fin 32) (f : Nat → Nat × Flags) : State :=
  let m := s.lanes c
  let rs : Vector (Nat × Flags) 1024 := tab 1024 fun l => if bt m l then f l else (0, 0)
  let s := s.writeLanes d m (vmapi rs fun _ r => BitVec.ofNat 32 r.1)
  let s := s.writeLanes (pairHi d) m (vmapi rs fun _ r => BitVec.ofNat 32 (r.1 / 2 ^ 32))
  s.orFlags 8 (orAll (rs.toList.map Prod.snd))

/-- Applies an operation to each sub-element of one lane. -/
def subs1 (ty : Ty) (n : Nat) (f : Nat → Nat × Flags) : Nat × Flags :=
  let rs := (List.range n).map f
  (packSubs ty (rs.map Prod.fst), orAll (rs.map Prod.snd))

/-- A two-operand operation on patterns of a type, in every sub-element or pair (R370, R373). -/
def State.intOp (s : State) (c : Ctl) (ty : Ty) (d a : Fin 32) (b : VOp) (f : Nat → Nat → Nat × Flags) : State :=
  if ty.is64 then s.mapPairs c d fun l => f (s.pairLane a l).toNat (s.vopPair b l).toNat
  else s.mapLanes c 4 d fun l => subs1 ty (subCount ty) fun k => f (sub ty (lane (s.rv a) l) k) (sub ty (s.vopLane b l) k)

/-- Whole lanes or pairs, without regard to sub-elements (R375, R382). -/
def State.wholeOp (s : State) (c : Ctl) (ty : Ty) (d : Fin 32) (f32 : Nat → Word32) (f64 : Nat → Word) : State :=
  if ty.is64 then s.mapPairs c d fun l => ((f64 l).toNat, 0) else s.mapLanes c 4 d fun l => ((f32 l).toNat, 0)

/-! ## Rounding (R74, R78) -/

/-- The rounding mode in force: DYN takes RMODE. -/
def State.rnd (s : State) (r : Rnd) : Rnd :=
  match r with
  | .dyn => (Rnd.ofCode s.cc.x.rmode.toNat).getD .rne
  | r => r

/-- The next `n` states of a generator. -/
def draws (g : Word32) : Nat → List Word32
  | 0 => []
  | n + 1 => genNext g :: draws (genNext g) n

/-- The generators of some lanes advanced `n` times. -/
def State.advanceGen (s : State) (m : BitVec 1024) (n : Nat) : State :=
  s.modCC fun k => k.modX fun x => { x with gen := vmapi x.gen fun l g => if bt m l then (draws g n).getLastD g else g }

/-- As `mapLanes` with up to `n` roundings in each lane: under SR each draws from the lane's generator. -/
def State.roundLanes (s : State) (c : Ctl) (mode : Rnd) (d : Fin 32) (n : Nat) (f : Nat → (Nat → Nat) → Nat × Flags) : State :=
  if mode = .sr then
    let t := s.mapLanes c 6 d fun l =>
      let ds := (draws (vget 0 s.cc.x.gen l) n).map genDraw
      f l fun k => ds.getD k 0
    t.advanceGen (s.lanes c) n
  else s.mapLanes c 6 d fun l => f l fun _ => 0

/-- Rounds an exact result into a float type, adding NV for an invalid operation (R70, R74 to R77). -/
def roundTo_ (ty : Ty) (mode : Rnd) (sat : Bool) (g : Nat) (x : Num × Bool) : Nat × Flags :=
  let r := roundFloat ty mode sat g x.1
  ((fmtOf ty).pattern r.val, if x.2 then r.fl ||| flNV else r.fl)

/-- The value of sub-element `k` of a lane pattern under a type. -/
def laneSub (ty : Ty) (x : Word32) (k : Nat) : Num := ty.value (sub ty x k)

/-- A float operation in every sub-element of every guarded lane (R83, R379, R383). -/
def State.floatOp (s : State) (c : Ctl) (ty : Ty) (rnd : Rnd) (sat : Bool) (d : Fin 32)
    (f : Rnd → Nat → Nat → Num × Bool) : State :=
  let mode := s.rnd rnd
  s.roundLanes c mode d (subCount ty) fun l g => subs1 ty (subCount ty) fun k => roundTo_ ty mode sat (g k) (f mode l k)

/-- Sum of two values; an exact zero sum is -0 under RDN only (R77). -/
def sum2 (mode : Rnd) (a b : Num) : Num × Bool := Num.add (mode == .rdn) a b

end Sys2Proof.Machine
end

