-- ==== Sys2Proof/Machine/Pred.lean ====
section
/-! DEFINITION. Predicate instructions (group 0x7): R346, R347. -/

namespace Sys2Proof.Machine

def plogVal (op : PlogOp) (a b : BitVec 1024) : BitVec 1024 :=
  match op with
  | .and => a &&& b
  | .or => a ||| b
  | .xor => a ^^^ b
  | .andn => a &&& ~~~b
  | .orn => a ||| ~~~b

def execPlog (c : Ctl) (op : PlogOp) (d a b : Fin 16) (s : State) : Host.Outcome State Fault Refusal :=
  issue (.plog c op d a b) (fun s => .done (s.writePred d (s.lanes c) (plogVal op (s.rp a) (s.rp b))) false) s

/-- The lanes that are set, in ascending order. -/
def lanesOf (m : BitVec 1024) : List Nat := (List.range 1024).filter fun l => bt m l

def pcntVal (ffs : Bool) (m : BitVec 1024) : Word :=
  wd (if ffs then (lanesOf m).headD 1024 else (lanesOf m).length)

def execPcnt (c : Ctl) (ffs : Bool) (d : Fin 32) (a : Fin 16) (s : State) : Host.Outcome State Fault Refusal :=
  issue (.pcnt c ffs d a) (fun s => .done (s.ws d (pcntVal ffs (s.lanes c &&& s.rp a))) false) s

def psetVal (pat : Bool) (x : Word) : BitVec 1024 :=
  predOf fun l => if pat then bt x (l % 32) else decide (l < x.toNat)

def execPset (c : Ctl) (pat : Bool) (d : Fin 16) (b : SOp) (s : State) : Host.Outcome State Fault Refusal :=
  issue (.pset c pat d b) (fun s => .done (s.writePred d (s.lanes c) (psetVal pat (s.sop b))) false) s

end Sys2Proof.Machine
end

