-- ==== Sys2Proof/Machine/Tenants.lean ====
section
/-! DEFINITION. The host's registers, VF commands, events held and counters that wrap: R238 to R246. -/

namespace Sys2Proof.Machine

/-! ## Stopping, resuming and ending a VF (R245, R246) -/

/-- STOP: port writes are refused and every launch of the VF is pre-empted, where slots are free; the
Retriever stops for the VF once none runs. -/
def State.stopVf (s : State) (vf : Nat) : State := (s.modFn vf fun r => { r with stopped := true }).enforce

def execStop (vf : Fin 64) (s : State) : Host.Outcome State Fault Refusal := .next (s.stopVf vf.val)

/-- RESUME: the ports open again for what they hold (R241), and the placer restores the saved launches. -/
def State.resumeVf (s : State) (vf : Nat) : State :=
  let t := s.modFn vf fun r => { r with stopped := false, retrStopped := false }
  t.portHeld.foldl (fun t _ => t.letIn vf) t

def execResume (vf : Fin 64) (s : State) : Host.Outcome State Fault Refusal := .next (s.resumeVf vf.val)

def Launch.isSaved (l : Launch) : Bool :=
  match l.state with
  | .saved _ => true
  | _ => false

/-- Saved launches of a function, and records that have not run. -/
def State.savedOf (s : State) (fn : Nat) : List Launch := s.launches.filter fun l => l.fn == fn && l.isSaved
def State.recordsOf (s : State) (fn : Nat) : List Launch :=
  s.launches.filter fun l => l.fn == fn && (!l.isAdmitted || l.state == .queued)

/-- DISCARD: the saved launches end PREEMPTED. -/
def State.discardVf (s : State) (vf : Nat) : State := (s.savedOf vf).foldl (fun s l => s.endSaved l.id .preempted 0 0) s

def execDiscard (vf : Fin 64) (s : State) : Host.Outcome State Fault Refusal := .next (s.discardVf vf.val)

/-- RELEASE: the stopped VF's saved launches, records and Retriever state are gone, without completion
records; a message that had begun to land is answered, for its rest lands at the destination (DEDUCED for the
Retriever state, log 29). -/
def State.releaseVf (s : State) (vf : Nat) : State :=
  if !(s.fnRegs vf).stopped then s
  else
    let gone := s.savedOf vf ++ s.recordsOf vf
    let is (id : Nat) : Bool := gone.any fun l => l.id == id
    let s := { s with
      posted := s.posted.filter fun p => p.fn != vf
      unexpected := s.unexpected.filter fun u => u.fn != vf
      portHeld := s.portHeld.filter fun w => w.fn != vf
      inflight := s.inflight.filter fun x => !is x.launch
      misses := s.misses.filter fun m => !((m.launch.map is).getD false) }
    let owed := s.cores.toList.flatMap fun k => k.lands.filter fun x => is x.launch && x.owed
    let s := owed.foldl (fun s x => s.ackMessage x.msg true 0 false) s
    let s := s.mapCores fun _ k => { k with lands := k.lands.filter fun x => !is x.launch }
    gone.foldl (fun s l => s.dropLaunch l) s

def execRelease (vf : Fin 64) (s : State) : Host.Outcome State Fault Refusal := .next (s.releaseVf vf.val)

/-! ## Export (R245, R246; log 29) -/

/-- Slot number of the images that belong to no save slot (R246). -/
def noSlot : Nat := 0xFFFFFFFF

/-- What an export says of the records that have not run. -/
def State.queueFields (s : State) (vf : Nat) : List Nat :=
  (s.recordsOf vf).flatMap fun l => [l.record.toNat, b2n l.sup, l.leaf]

/-- What an export says of a message. -/
def messFields (m : Message) : List Nat :=
  [m.src.toNat, m.dst.toNat, m.ctx.toNat, m.tag.toNat, m.seq.toNat, b2n m.sec, m.bytes.length, leNat m.bytes]

/-- What an export says of a message's rest that STOP has held at the end of a packet (R245). -/
def Landing.fields (x : Landing) (launch slot : Nat) : List Nat :=
  [launch, slot, x.done, b2n x.bad, b2n x.user, x.desc.toNat, x.body.toNat] ++ messFields x.msg

/-- The landings that STOP has held, on every core of some launches. -/
def State.landFields (s : State) (ls : List Launch) : List (List Nat) :=
  ls.zipIdx.flatMap fun x => x.1.allCores.flatMap fun c =>
    ((s.core c).lands.filter fun y => y.launch == x.1.id).map fun y => y.fields x.2 (x.1.slotOf c)

/-- What an export says of the VF's receives, held landings and unexpected messages: a receive names its launch by
its place among the saved ones, and its core by its slot. -/
def State.retrFields (s : State) (vf : Nat) : List Nat :=
  let ls := s.savedOf vf
  let rs := s.posted.filter fun p => p.fn == vf && ls.any fun l => l.id == p.launch
  let us := s.unexpected.filter fun u => u.fn == vf
  let recv (p : Posted) : List Nat :=
    let i := (ls.findIdx? fun l => l.id == p.launch).getD 0
    [p.entry, p.gen.toNat, i, (ls[i]?.map fun l => l.slotOf p.core).getD 0, b2n p.user, p.desc.toNat, p.body.toNat]
  let xs := s.landFields ls
  rs.length :: rs.flatMap recv ++ xs.length :: xs.flatten ++ us.flatMap fun u => messFields (s.queuedMsg u)

/-- The IV of an image: 32 zero bits, the export count and the slot number, the first bits highest (R246). -/
def sealIv (count slot : Nat) : BitVec 128 := 0#32 ++ BitVec.ofNat 64 count ++ BitVec.ofNat 32 slot

/-- An image sealed under the VF's migration key: its ciphertext, then the tag of 128 bits. -/
def sealImage (vf count slot : Nat) (bs : List Byte) : List Byte :=
  let k := Config.migrationKey vf
  let c := Config.gcmEncrypt k (sealIv count slot) bs
  c ++ leBytes 16 (Config.gcmTag k (sealIv count slot) c).toNat

/-- The plain bytes of a sealed image, where its tag holds. -/
def openImage (vf count slot : Nat) (bs : List Byte) : Option (List Byte) :=
  let k := Config.migrationKey vf
  let c := bs.take (bs.length - 16)
  if bs.drop (bs.length - 16) = leBytes 16 (Config.gcmTag k (sealIv count slot) c).toNat then
    some (Config.gcmDecrypt k (sealIv count slot) c)
  else none

/-- The sealed images of an export. -/
def State.sealed (s : State) (vf count : Nat) : List (Nat × List Byte) :=
  let image (l : Launch) : List (Nat × List Byte) :=
    match l.image with
    | none => []
    | some b => (List.range l.nCores).map fun i => (b + i, sealImage vf count (b + i) (s.mem.read (l.slotAt (b + i)) (imgSize l)))
  [(noSlot, sealImage vf count noSlot (Config.recordBytes 4 (s.queueFields vf))),
   (noSlot, sealImage vf count noSlot (Config.recordBytes 5 (s.retrFields vf)))] ++ (s.savedOf vf).flatMap image

/-- XPBASE of a VF: host address and bytes. -/
def State.exportBuf (s : State) (vf : Nat) : Nat × Nat :=
  let r := s.pfReg (0x25000 + 8 * vf)
  (bf r 51 12 * 4096, bf r 63 52 * 2 ^ 20)

/-- Event 6 (R242). -/
def State.migrated (s : State) (vf detail : Nat) : State := s.postEvent pfFn 0 0 0 detail vf 6

/-- EXPORT: the VF's state is copied, sealed, into its export buffer. -/
def State.exportState (s : State) (vf : Nat) : State :=
  let count := (s.fnRegs vf).exportCount + 1
  let bs := Config.packExport count (s.sealed vf count)
  let buf := s.exportBuf vf
  let s := s.modFn vf fun r => { r with exportCount := count }
  if buf.2 < bs.length then s.migrated vf 1 else (s.writeDirect 0 buf.1 bs).migrated vf 0

def execExportVf (vf : Fin 64) (s : State) : Host.Outcome State Fault Refusal := .next (s.exportState vf.val)

/-! ## Import (R237, R246; log 29) -/

/-- An image of a core: MAGIC and VER (R237). -/
def imageOk (bs : List Byte) : Bool := leNat (bs.take 4) == 0x56535843 && leNat ((bs.drop 4).take 2) == 1

def bytesRd (bs : List Byte) : Nat → Nat → Nat := fun off n => leNat ((bs.drop off).take n)

/-- A record enters a VF again, with what the VF is permitted here. -/
def State.recordFor' (s : State) (vf : Nat) (r : Line) (sup : Bool) (leaf : Nat) : Launch :=
  { Launch.blank with record := r, fn := vf, sup := sup, mayP := s.permits vf 60, mayD := s.permits vf 61, mayS := s.permits vf 62, leaf := leaf }

/-- The images of launches, one launch after the other: each takes a free run of save slots and is admitted
afresh. Says whether every one found its slots. The image has no place for what EXCUSED reports: a launch comes with none
of what it met before the export (DESIGN CHOICE, log 29). -/
def State.importImages (s : State) (vf : Nat) : Nat → List (List Byte) → State × Bool
  | 0, _ => (s, true)
  | _, [] => (s, true)
  | n + 1, b :: bs =>
    let l := s.recordFor' vf (lineOf ((b.drop 0x10).take 64)) false 0
    let mine := (b :: bs).take (max 1 l.nCores)
    match s.freeRun vf l.nCores with
    | none => (s, false)
    | some base =>
      let s := (mine.zipIdx).foldl (fun s x => s.writeDirect 0 (s.slotAt vf (base + x.2)) x.1) s
      let s := s.addLaunch { l with image := some base, cores := mine.map fun x => Core.ofRecords (bytesRd x) }
      State.importImages s vf n ((b :: bs).drop (max 1 l.nCores))

/-- The records of an import. -/
def State.importQueue (s : State) (vf : Nat) : Nat → List Nat → State
  | n + 1, r :: sup :: leaf :: fs =>
    State.importQueue (s.addLaunch (s.recordFor' vf (BitVec.ofNat 512 r) (sup == 1) (leaf % 2))) vf n fs
  | _, _ => s

/-- The receives of an import; `first` is the number of the first launch that it brought. -/
def State.importPosted (s : State) (vf first : Nat) : Nat → List Nat → State × List Nat
  | n + 1, e :: g :: i :: slot :: user :: desc :: body :: fs =>
    let id := first + i
    let c := ((s.launch? id).map fun l => l.slotCore slot).getD 0
    let p : Posted := ⟨e, BitVec.ofNat 16 g, vf, c, id, user == 1, wd desc, BitVec.ofNat 512 body⟩
    State.importPosted { s with posted := s.posted ++ [p], retrGen := SMap.insert s.retrGen e ⟨BitVec.ofNat 16 g, vf, false⟩ } vf first n fs
  | _, fs => (s, fs)

/-- A message that an export names. -/
def importMess (vf : Fin 64) (src dst ctx tag q sec len x : Nat) : Message :=
  ⟨BitVec.ofNat 12 src, BitVec.ofNat 12 dst, BitVec.ofNat 12 ctx, BitVec.ofNat 24 tag, vf.castLE (by decide), BitVec.ofNat 32 q,
    leBytes len x, sec == 1⟩

/-- The held landings of an import go on; their senders have been answered. -/
def State.importLands (s : State) (vf : Fin 64) (first : Nat) : Nat → List Nat → State × List Nat
  | n + 1, i :: slot :: done :: bad :: user :: desc :: body :: src :: dst :: ctx :: tag :: q :: sec :: len :: x :: fs =>
    let id := first + i
    let c := ((s.launch? id).map fun l => l.slotCore slot).getD 0
    let m := importMess vf src dst ctx tag q sec len x
    let s := s.modCore c fun k =>
      let t := k.takeTicket
      { t.2 with lands := t.2.lands ++ [⟨id, vf.val, m, wd desc, BitVec.ofNat 512 body, done, none, bad == 1, false, user == 1, t.1⟩] }
    State.importLands s vf first n fs
  | _, fs => (s, fs)

/-- The unexpected messages of an import. -/
def State.importUnexpected (s : State) (vf : Fin 64) : Nat → List Nat → State
  | n + 1, src :: dst :: ctx :: tag :: q :: sec :: len :: x :: fs =>
    State.importUnexpected (s.queueMessage (importMess vf src dst ctx tag q sec len x) vf.val) vf n fs
  | _, _ => s

/-- IMPORT: the sealed state becomes the VF's. An image whose tag or version fails is refused, and with it
the whole of the import. -/
def State.importState (s : State) (vf : Fin 64) : State :=
  let buf := s.exportBuf vf.val
  let packed := Config.unpackExport (s.mem.read buf.1 buf.2)
  let opened := packed.2.map fun x => openImage vf.val packed.1 x.1 x.2
  match opened with
  | some q :: some r :: images =>
    if images.all fun o => (o.map imageOk).getD false then
      let first := s.nextId
      let bs := images.map fun o => o.getD []
      let t := s.importImages vf.val bs.length bs
      let fq := Config.recordFields 4 q
      let fr := Config.recordFields 5 r
      let u := t.1.importQueue vf.val fq.length fq
      let p := u.importPosted vf.val first (fr.headD 0) (fr.drop 1)
      let x := p.1.importLands vf first (p.2.headD 0) (p.2.drop 1)
      (x.1.importUnexpected vf x.2.length x.2).migrated vf.val (if t.2 then 0 else 2)
    else s.migrated vf.val 2
  | _ => s.migrated vf.val 2

def execImportVf (vf : Fin 64) (s : State) : Host.Outcome State Fault Refusal := .next (s.importState vf)

/-! ## Register writes (R240, R243, R244) -/

/-- A write to a function's block (Table 15.10). A write to a launch port that is no record is discarded. -/
def State.fnWrite (s : State) (fn off : Nat) (v : Word) : State :=
  match off with
  | 0x088 => s.killLaunch fn v
  | 0x090 => s.modFn fn fun r => { r with evbase := v &&& ~~~0xFFF }
  | 0x098 =>
    let n := v.toNat
    if isPow2 n && decide (64 ≤ n) && decide (n ≤ 65536) then s.modFn fn fun r => { r with evsize := n } else s
  | 0x0A8 => s.modFn fn fun r => { r with evtail := v.toNat }
  | 0x0B0 => s.modFn fn fun r => { r with astvec := v &&& ~~~0xF }
  | 0x0B8 => s.modFn fn fun r => { r with xstvec := v &&& ~~~0xF }
  | _ => s

/-- The value that a PF register without a behaviour of its own takes (Tables 15.11, 16.1); `none` where the
offset names none, or the value lies outside the register's range. -/
def pfValue (off : Nat) (v : Word) : Option Word :=
  let n := v.toNat
  let inR (a len : Nat) : Bool := decide (a ≤ off) && decide (off < a + len) && off % 8 == 0
  if inR 0 0x200 then some (v &&& 0x000FFFFFFFFFF000)
  else if off = 0x21000 then some (v &&& 0x000FFFFFFFFFF000)
  else if off = 0x21008 then if n ≤ 2 ^ 20 then some v else none
  else if off = 0x21018 then if 1 ≤ n ∧ n ≤ 64 then some v else none
  else if off = 0x21020 then some (v &&& 0xFFFFFF)
  else if inR 0x21100 0x200 then some (v &&& 0xFFFFFFFF)
  else if inR 0x21300 0x200 ∨ inR 0x21500 0x200 ∨ inR 0x21700 0x200 ∨ inR 0x21900 0x200 then some v
  else if inR 0x21B00 0x20 then some (v &&& 0x8000000000770F1F)
  else if off = 0x21C00 then if 1 ≤ n ∧ n ≤ 1000 then some v else none
  else if off = 0x21F00 then some (v &&& 0x000FFFFFFFFFF000)
  else if 0x22000 ≤ off ∧ off < 0x24000 ∧ off % 2 = 0 then some (v &&& 0x807F)
  else if inR 0x24000 0x200 then some (v &&& 0x000FFFFFFFFFFFFF)
  else if off = 0x24200 then if n ≤ 65535 then some v else none
  else if off = 0x24208 then some (v &&& 1)
  else if off = 0x24210 then some (v &&& 0xF)
  else if inR 0x25000 0x200 then some (v &&& 0xFFFFFFFFFFFFF000)
  else none

/-- VFCTL: each bit set acts. -/
def State.vfctl (s : State) (vf : Fin 64) (v : Word) : State :=
  let s := if bt v 0 then s.stopVf vf.val else s
  let s := if bt v 1 then s.resumeVf vf.val else s
  let s := if bt v 2 then s.exportState vf.val else s
  let s := if bt v 3 then s.discardVf vf.val else s
  let s := if bt v 4 then s.importState vf else s
  if bt v 5 then s.releaseVf vf.val else s

/-- A new shadow pool takes the place of what was left of the old one (R252). -/
def State.poolReset (s : State) (vf : Nat) : State :=
  { s with shPool := SMap.erase (SMap.erase s.shPool (2 * vf)) (2 * vf + 1) }

/-- A write to the PF's registers. An extent is written as a whole descriptor, by another step (R122). -/
def State.pfWrite (s : State) (off : Nat) (v : Word) : State :=
  if 0x30000 ≤ off then s.fnWrite pfFn (off - 0x30000) v
  else if off = 0x21010 then s.setWays v.toNat
  else if 0x21D00 ≤ off ∧ off < 0x21F00 ∧ off % 8 = 0 then s.vfctl ⟨(off - 0x21D00) / 8 % 64, Nat.mod_lt _ (by decide)⟩ v
  else match pfValue off v with
    | none => s
    | some w =>
      let s := s.setPfReg off w
      if 0x24000 ≤ off ∧ off < 0x24200 then s.poolReset ((off - 0x24000) / 8) else s

/-! ## Register reads (R240, R241, R243, R244) -/

/-- What a read of a function's block gives (Table 15.10): a write-only port reads as zero. -/
def State.fnRead (s : State) (fn off : Nat) : Word :=
  let r := s.fnRegs fn
  match off with
  | 0x080 => wd (64 - s.portUsed fn)
  | 0x090 => r.evbase
  | 0x098 => wd r.evsize
  | 0x0A0 => wd (r.evhead + 2 ^ 63 * b2n r.evlost)
  | 0x0A8 => wd r.evtail
  | 0x0B0 => r.astvec
  | 0x0B8 => r.xstvec
  | _ => 0

/-- WORLDMAP (Table 16.1): 64 of the 192 world bits of a leaf. -/
def State.worldMap (s : State) (leaf i : Nat) : Word :=
  (List.range 64).foldl (fun w b => setBit w b (bt s.worldCores (coreAt (16 * leaf + b % 16) (4 * i + b / 16)))) 0

/-- What a read of the PF's registers gives (Tables 15.11, 16.1). VFCTL is write-only. -/
def State.pfRead (s : State) (off : Nat) : Word :=
  if 0x30000 ≤ off then s.fnRead pfFn (off - 0x30000)
  else if 0x21D00 ≤ off ∧ off < 0x21F00 then 0
  else if 0x24300 ≤ off ∧ off < 0x24330 ∧ off % 8 = 0 then s.worldMap ((off - 0x24300) / 24) ((off - 0x24300) / 8 % 3)
  else s.pfReg off

/-- A host function reads a register of its BAR 0. -/
def State.hostRead (s : State) (f : FnId) (off : Nat) : State :=
  { s with hostReads := s.hostReads ++ [(f.val, off, if f.val = pfFn then s.pfRead off else s.fnRead f.val off)] }

def execRegisterWrite (blk : RegBlk) (off : BitVec 24) (v : Word) (s : State) : Host.Outcome State Fault Refusal :=
  .next (match blk with
    | .pf => s.pfWrite off.toNat v
    | .fn f => s.fnWrite f.val off.toNat v)

/-! ## Events and counters (R239, R242) -/

def execEventHeldFlush (f : FnId) (s : State) : Host.Outcome State Fault Refusal := .next (s.flushHeld f.val)

/-- A counter that has wrapped raises its event. -/
def execCounterWrap (core : CoreId) (n : Fin 8) (s : State) : Host.Outcome State Fault Refusal := .next (s.raiseWrap core.val n.val)

end Sys2Proof.Machine
end

