-- ==== Sys2Proof/Machine/Reliability.lean ====
section
/-! DEFINITION. Replays, scan tests, failed cores, the commit of paired launches, freeze, reset, heat, worlds
and attestation: R17 to R19, R247 to R264. -/

namespace Sys2Proof.Machine

/-! ## Timing replays (R249, R250) -/

/-- 1 ms, and the slots of replays in it above which the PF is told: more than one slot in 64. -/
def replayWindow : Nat := 1000 * slotsPerUs
def replayLimit : Nat := replayWindow / 64

/-- A cycle is replayed: 2 slots, counted by event 9. The XS issue count stays (R249). -/
def Core.replay (k : Core) (cycle : Nat) : Core :=
  let k := if k.replaySince + replayWindow ≤ cycle then { k with replays := 0, replaySince := cycle } else k
  { k.countEv 9 1 with replays := k.replays + 2 }

def execTimingReplay (core : CoreId) (s : State) : Host.Outcome State Fault Refusal :=
  .next (s.modCore core.val fun k => k.replay s.cycle)

/-- Event 7 on the PF ring about a core (R242). -/
def State.coreEvent (s : State) (c detail : Nat) : State := s.postEvent pfFn (s.coreXY c) 0 0 detail 0xFF 7

/-- A core with more replays than the limit in its window is reported, and a new window begins. -/
def State.replayReport (s : State) (c : Nat) : State :=
  if replayLimit < (s.core c).replays then
    (s.coreEvent c 1).modCore c fun k => { k with replays := 0, replaySince := s.cycle }
  else s

def execReplayLimitEvent (core : CoreId) (s : State) : Host.Outcome State Fault Refusal := .next (s.replayReport core.val)

/-! ## Failed cores and the logical core map (R17 to R19, R255) -/

/-- A failed core: its row waits to be retired, or, where its leaf has retired a row already, its rectangles
are gone for good. -/
def State.failCore (s : State) (c : Nat) : State :=
  let s := s.coreEvent c 2
  let leaf := leafOf c
  if (vget none s.retired leaf).isNone && (vget none s.retiring leaf).isNone then
    { s with retiring := vset s.retiring leaf (some (coreY c)) }
  else { s with failed := s.failed ++ [c] }

/-- Whether a core lies in a logical row of a leaf at or above one. -/
def inRows (leaf y c : Nat) : Bool := leafOf c == leaf && decide (y ≤ coreY c)

/-- Where a core of the leaf is found once row `y` is retired; `none` in that row. -/
def shifted (leaf y c : Nat) : Option Nat :=
  if inRows leaf y c then (if coreY c = y then none else some (c - 32)) else some c

/-- The slots since which cores have been idle, once row `y` of a leaf is retired: each goes with its core (R254). -/
def shiftIdle (leaf y : Nat) (m : SMap Nat) : SMap Nat :=
  m.foldl (fun t x => match shifted leaf y x.1 with
    | some c => SMap.insert t c x.2
    | none => t) []

/-- The logical map of a leaf changes once no launch occupies the rows that move: each row from the retired
one on is the next physical row, with that row's vaults, and the last is the spare row. -/
def State.mapChange (s : State) (leaf : Nat) : State :=
  match vget none s.retiring leaf with
  | none => s
  | some y =>
    if (List.range 384).any fun c => inRows leaf y c && ((s.core c).launch.isSome || s.beingSaved c) then s
    else
      let spare : Core := { Core.reset with slotSeen := s.cycle }
      { s with
        cores := vmapi s.cores fun c k => if inRows leaf y c then (if coreY c = 11 then spare else s.core (c + 32)) else k
        worldCores := (List.range 384).foldl (fun w c =>
          if inRows leaf y c then setBit w c (decide (coreY c < 11) && bt s.worldCores (c + 32)) else w) s.worldCores
        retired := vset s.retired leaf (some (s.physRow leaf y))
        retiring := vset s.retiring leaf none
        failed := s.failed.filterMap (shifted leaf y)
        scan := s.scan.filterMap fun x => (shifted leaf y x.core).map fun c => { x with core := c }
        idleSince := shiftIdle leaf y s.idleSince
        reserved := s.reserved.filter fun x => !inRows leaf y x.1 }

def execLogicalMapChange (leaf : Fin 2) (s : State) : Host.Outcome State Fault Refusal := .next (s.mapChange leaf.val)

/-! ## Scan tests (R254) -/

def slotsPerSecond : Nat := 1000000 * slotsPerUs

/-- An idle core that is due is taken from placement. -/
def State.scanStart (s : State) (c : Nat) : State :=
  let every := (s.pfReg 0x24200).toNat
  if every = 0 ∨ (s.core c).launch.isSome ∨ s.beingSaved c ∨ s.failed.contains c ∨ (s.scan.any fun x => x.core == c) ∨
      s.cycle < SMap.get 0 s.idleSince c + every * slotsPerSecond then s
  else { s with scan := s.scan ++ [⟨c, s.cycle⟩] }

def execScanTestStart (core : CoreId) (s : State) : Host.Outcome State Fault Refusal := .next (s.scanStart core.val)

/-- Whether a waiting class-0 record could use a core. -/
def State.class0Needs (s : State) (c : Nat) : Bool :=
  s.launches.any fun l => l.inQueue && l.cls == 0 && (s.fitting l).any fun o => (l.at_ o).allCores.contains c

/-- A class-0 record needs the core: it returns to the idle pool untested. -/
def State.scanAbort (s : State) (c : Nat) : State :=
  if s.class0Needs c then { s with scan := s.scan.filter fun x => x.core != c } else s

def execScanTestAbort (core : CoreId) (s : State) : Host.Outcome State Fault Refusal := .next (s.scanAbort core.val)

/-- Raises the floors that a test has found too low. -/
def Vault.raiseFloors (v : Vault) (fs : List (Nat × Nat)) : Vault :=
  { v with floors := fs.foldl (fun m f => if SMap.get 0 m f.1 < f.2 && decide (f.1 < 8448) then SMap.set 0 m f.1 (min f.2 7) else m) v.floors }

/-- The test ends after 200 µs. A wrong signature, or a floor raised above the operating point, is a failed
core. -/
def State.scanEnd (s : State) (c : Nat) (pass : Bool) (fs : List (Nat × Nat)) : State :=
  match s.scan.find? fun x => x.core == c with
  | none => s
  | some x =>
    if s.cycle < x.since + 200 * slotsPerUs then s
    else
      let old := s.vault c
      let s := { s with scan := s.scan.filter (fun x => x.core != c), idleSince := SMap.insert s.idleSince c s.cycle }
      let s := s.modVault c fun v => v.raiseFloors fs
      let high := fs.any fun f => decide (f.1 < 8448) && decide (old.floorOf f.1 < f.2) && decide (s.vpCur.toNat < f.2)
      if pass && !high then s else s.failCore c

def execScanTestComplete (core : CoreId) (pass : Bool) (floors : List (Nat × Nat)) (s : State) : Host.Outcome State Fault Refusal :=
  .next (s.scanEnd core.val pass floors)

/-! ## Paired launches (R252, R253) -/

/-- Signature over the lines that a copy wrote. -/
def State.signature (s : State) (id : Nat) (copy1 : Bool) : BitVec 128 :=
  ((s.shadows.filter fun p => p.launch == id && p.copy1 == copy1).flatMap fun p =>
    p.lines.map fun x => (Config.sha512 (leBytes 8 (64 * x) ++ s.mem.read (4096 * p.new + 64 * (x % 64)) 64)).extractLsb' 384 128).sum

/-- Guest-physical page number of a host page: through an extent of the VF; the spec does not say what a
shadow page is that none maps, and its number is then a free value (log 16). -/
def State.guestPage (s : State) (fn page : Nat) : Nat × State :=
  if fn = pfFn then (page, s)
  else
    let hit := (List.range 64).findSome? fun i =>
      let e := s.ext fn i
      if e.valid && decide (e.hbase ≤ 4096 * page) && decide (4096 * page < e.hbase + e.bytes) then some (e.gbase + (4096 * page - e.hbase)) else none
    match hit with
    | some g => (g / 4096, s)
    | none => let f := s.takeFree; (bf f.1 51 12, f.2)

/-- The leaf through which a paired launch wrote a page: the walk is from the root table that governs the launch (R243). -/
def State.shadowLeaf (s : State) (l : Launch) (p : ShadowPage) : Walked :=
  s.walkFrom l.fn (4096 * p.va) (rootOf l.cfg.root) (List.range 5) []

/-- Where the commit of a page misses the extent map (R123). -/
def State.commitMiss (s : State) (l : Launch) (p : ShadowPage) : Option Nat :=
  match s.shadowLeaf l p with
  | .miss g => some g
  | .leaf f _ => if (s.toHost l.fn f.ea).isNone then some f.ea else none
  | .bad _ _ => none

/-- A page's leaf names copy 0's shadow; its translations are gone. A page that no leaf maps any more has none to
replace. -/
def State.commitShadow (s : State) (l : Launch) (p : ShadowPage) : State :=
  let va := 4096 * p.va
  match s.shadowLeaf l p with
  | .leaf f _ =>
    match s.toHost l.fn f.ea with
    | some (pa, _) =>
      let g := (s.walkRequests (s.launchCtx l) va).guestPage l.fn p.new
      let new := (f.e &&& 0xFFF0000000000FFF) ||| (wd (4096 * g.1) &&& 0x000FFFFFFFFFF000)
      (((g.2.tableRequest (s.launchCtx l) pa).dirtied pa 8).rawWrite pa (wordBytes new)).invalidate l.fn va (va + 4096)
    | none => s
  | _ => s

/-- Pages go back to the pool of a copy. -/
def State.toPool (s : State) (fn : Nat) (copy1 : Bool) (pages : List Nat) : State :=
  { s with shPool := SMap.insert s.shPool (2 * fn + b2n copy1) (s.poolOf fn copy1 ++ pages) }

/-- Both copies have drained: equal signatures commit copy 0's pages, and the old pages and copy 1's shadows
return to the pool; otherwise nothing is committed, MISMATCH. A commit whose walk misses the extent map waits (R123). -/
def State.pairedDone (s : State) (id : Nat) : State :=
  match s.launch? id with
  | none => s
  | some l =>
    let committed := s.signature id false == s.signature id true
    if l.state ≠ .draining || !l.flagD || l.status != .ok || !s.drained l || s.misses.any (fun m => m.launch == some id) then s
    else match (if committed then (s.shadows.filter fun p => p.launch == id && !p.copy1).findSome? (s.commitMiss l) else none) with
    | some g => (s.reportMiss l.fn g (some id) 0 none).2
    | none =>
      let s := (s.consumed l).releaseCores l
      if committed then
        let p0 := s.shadows.filter fun p => p.launch == id && !p.copy1
        let p1 := s.shadows.filter fun p => p.launch == id && p.copy1
        let s := p0.foldl (fun s p => s.commitShadow l p) s
        let s := { s with shadows := s.shadows.filter fun p => p.launch != id }
        ((s.toPool l.fn false (p0.map ShadowPage.old)).toPool l.fn true (p1.map ShadowPage.new)).finishLaunch id
      else
        let s := ((s.returnShadows l).modLaunch id fun l => { l with status := .mismatch }).finishLaunch id
        if bt (s.pfReg 0x24210) 2 then { s with frozen := true } else s

def execPairedCommit (id : Nat) (s : State) : Host.Outcome State Fault Refusal := .next (s.pairedDone id)

/-! ## Freeze, reset and power (R261, R262) -/

def execFreeze (s : State) : Host.Outcome State Fault Refusal := .next { s with frozen := true }

/-- What a reset leaves: the machine right after reset, with the floors and the retired rows, which belong to
the silicon, and with the model's own agenda and counters (log 31). -/
def State.afterReset (s : State) : State :=
  { State.reset with
    cores := vmapi s.cores fun _ k => { Core.reset with vault := { Vault.reset with floors := k.vault.floors } }
    mscRows := vmapi s.mscRows fun _ m => { m with remap := [], lost := [] }
    retired := s.retired
    agenda := s.agenda
    fresh := s.fresh }

def execPackageReset (s : State) : Host.Outcome State Fault Refusal := .next s.afterReset

/-- The rails fall: everything that the package holds is lost, and nothing acts until a reset. -/
def execRailsFall (s : State) : Host.Outcome State Fault Refusal := .next { s.afterReset with powered := false }

/-! ## Heat (R264) -/

/-- The junction reaches 105 °C: event 7 with detail 3, once until it has cooled below. -/
def State.thermal (s : State) (t : Word) : State :=
  if t.toNat < 105 then { s with tempWarned := false }
  else if s.tempWarned then s
  else
    let s := ({ s with tempWarned := true } : State).postEvent pfFn t 0 0 3 0xFF 7
    if bt (s.pfReg 0x24210) 3 then { s with frozen := true } else s

def execThermalWarning (t : BitVec 64) (s : State) : Host.Outcome State Fault Refusal := .next (s.thermal t)

/-- 115 °C: THERMTRIP_N is asserted. -/
def execThermtrip (s : State) : Host.Outcome State Fault Refusal := .next { s with thermtrip := true }

/-! ## Worlds (R256) -/

/-- The monitor sets a world bit. -/
def State.setWorld (s : State) (u : WorldUnit) (b : Bool) : State :=
  match u with
  | .core c => { s with worldCores := setBit s.worldCores c.val b }
  | .engine e => { s with worldEngines := setBit s.worldEngines e.val b }
  | .fn f => { s with worldFns := setBit s.worldFns f.val b }
  | .ctx x => { s with worldCtx := setBit s.worldCtx x.toNat b }

def execWorldBitSet (u : WorldUnit) (b : Bool) (s : State) : Host.Outcome State Fault Refusal := .next (s.setWorld u b)

/-! ## Attestation (R259, R260; log 19) -/

/-- The responder answers a request: its number and what it names, with the answer. -/
def State.answer (s : State) (req arg : Nat) (a : Line) : State := { s with attest := s.attest ++ [(req, arg, a)] }

def execGetVersion (s : State) : Host.Outcome State Fault Refusal := .next (s.answer 0 0 (Config.attestAnswer 0 0))
def execGetCapabilities (s : State) : Host.Outcome State Fault Refusal := .next (s.answer 1 0 (Config.attestAnswer 1 0))
def execNegotiateAlgorithms (s : State) : Host.Outcome State Fault Refusal := .next (s.answer 2 0 (Config.attestAnswer 2 0))
def execGetDigests (s : State) : Host.Outcome State Fault Refusal := .next (s.answer 3 0 (Config.attestAnswer 3 0))
def execGetCertificate (s : State) : Host.Outcome State Fault Refusal := .next (s.answer 4 0 (Config.attestAnswer 4 0))
def execChallenge (s : State) : Host.Outcome State Fault Refusal := .next (s.answer 5 0 (Config.attestAnswer 5 0))

/-- A VF's configuration registers (Tables 15.11, 16.1): those that are indexed by its number. -/
def State.vfConfig (s : State) (vf : Nat) : List Word :=
  [s.pfReg (8 * vf), s.pfReg (0x21300 + 8 * vf), s.pfReg (0x21500 + 8 * vf), s.pfReg (0x21700 + 8 * vf), s.pfReg (0x21900 + 8 * vf),
    s.pfReg (0x24000 + 8 * vf), s.pfReg (0x25000 + 8 * vf)] ++ (List.range 256).map fun i => s.pfReg (extOff vf 0 + 8 * i)

/-- In mode 0 the measurements of the VF's configuration registers and of the shared firmware; in mode 1 the register
of the launch flagged S with that CPTR, of a VF or of the PF. R260 gives the PF no responder in mode 0, and names no
answer for a CPTR of no such launch: a free value (log 19). -/
def State.measurements (s : State) (f : FnId) (cptr : Word) : State :=
  let other := Config.attestAnswer 6 f.val
  s.answer 6 f.val (
    if bt (s.pfReg 0x24208) 0 then
      ((s.launches.find? fun l => l.fn == f.val && l.cptr == cptr && l.flagS).map Launch.measure).getD other
    else if f.val = pfFn then other
    else Config.vfMeasurement (s.vfConfig f.val))

def execGetMeasurements (f : FnId) (cptr : Word) (s : State) : Host.Outcome State Fault Refusal := .next (s.measurements f cptr)

end Sys2Proof.Machine
end

