-- ==== Sys2Proof/Machine/Scalar.lean ====
section
/-! DEFINITION. The scalar instructions (group 0x0): R297, R299, R300, R305, R306, R311, R312, R323,
R324, R333, R338, R341, R343, R345, R349, R356, R358. -/

namespace Sys2Proof.Machine

/-! ## Values -/

/-- The register value of an exact integer result: modulo 2^w, extended (R297, R299). -/
def wrapVal (ty : Ty) (x : Int) : Word := extend ty (ty.intPattern x)

/-- `ADD` and `SUB` of exact results (R299). -/
def sumVal (ty : Ty) (sat : Bool) (x : Int) : Word := extend ty (intResult ty sat x).1

def addVal (ty : Ty) (sat : Bool) (a b : Word) : Word := sumVal ty sat (sval ty a + sval ty b)

def subVal (ty : Ty) (sat : Bool) (a b : Word) : Word := sumVal ty sat (sval ty a - sval ty b)

/-- A half of the exact product (R343). -/
def mulVal (ty : Ty) (sel : MulSel) (a b : Word) : Word :=
  let x := sval ty a * sval ty b
  match sel with
  | .low => wrapVal ty x
  | .highS | .highU => wrapVal ty (x / 2 ^ ty.width)

/-- Quotient or remainder (R324, R80). -/
def divVal (ty : Ty) (rem : Bool) (a b : Word) : Word :=
  let x := sval ty a
  let y := sval ty b
  if y = 0 then wrapVal ty (if rem then x else 2 ^ ty.width - 1)
  else wrapVal ty (if rem then x.tmod y else x.tdiv y)

/-- A bitwise result (R300). -/
def bitVal (ty : Ty) (f : Nat → Nat → Nat) (a b : Word) : Word := extend ty (f (slow ty a) (slow ty b))

/-- `SHL` (R356): the amount is the whole of operand B, unsigned. -/
def shlVal (ty : Ty) (a b : Word) : Word :=
  extend ty (if ty.width ≤ b.toNat then 0 else slow ty a * 2 ^ b.toNat % 2 ^ ty.width)

/-- `SHR` (R356). -/
def shrVal (ty : Ty) (arith : Bool) (a b : Word) : Word :=
  let x := slow ty a
  let neg := arith && decide (2 ^ (ty.width - 1) ≤ x)
  let n := b.toNat
  if ty.width ≤ n then extend ty (if neg then 2 ^ ty.width - 1 else 0)
  else extend ty (x / 2 ^ n + (if neg then 2 ^ ty.width - 2 ^ (ty.width - n) else 0))

/-- `ROL` (R356). -/
def rolVal (ty : Ty) (a b : Word) : Word :=
  let k := b.toNat % ty.width
  extend ty ((slow ty a * 2 ^ k + slow ty a / 2 ^ (ty.width - k)) % 2 ^ ty.width)

/-- `MIN` and `MAX` (R338). -/
def pickVal (ty : Ty) (wantMax : Bool) (a b : Word) : Word :=
  let x := sval ty a
  let y := sval ty b
  wrapVal ty (if wantMax then max x y else min x y)

/-- `CLZ` (R311): zero bits above the highest set bit. -/
def clzVal (ty : Ty) (a : Word) : Word :=
  wd (if slow ty a = 0 then ty.width else ty.width - 1 - log2 (slow ty a))

/-- `POPC` (R349). -/
def popcVal (ty : Ty) (a : Word) : Word :=
  wd ((List.range ty.width).filter fun i => bt a i).length

/-- `BFX` (R305). -/
def bfxVal (ty : Ty) (a c : Word) : Word :=
  let pos := bf c 5 0
  let len := bf c 14 8
  if len = 0 then 0
  else
    let len := min len 64
    let x := a.toNat / 2 ^ pos % 2 ^ len
    if ty = .i64 ∧ len < 64 ∧ 2 ^ (len - 1) ≤ x then wi ((x : Int) - 2 ^ len) else wd x

/-- `BFI` (R306). -/
def bfiVal (d a c : Word) : Word :=
  let len := min (bf c 14 8) 64
  let m := wd ((2 ^ len - 1) * 2 ^ bf c 5 0)
  (d &&& ~~~m) ||| (wd (a.toNat * 2 ^ bf c 5 0) &&& m)

/-- `LI` (R333). -/
def liVal (hi : Bool) (imm : Word32) : Word := if hi then imm ++ (0 : Word32) else imm.signExtend 64

/-- The RW fields of an m register (Table 2.3, R26). -/
def mKeep (v : Word) : Word := v &&& 0xFFFF7F7F

/-! ## Meanings -/

def execNop (c : Ctl) (s : State) : Host.Outcome State Fault Refusal :=
  issue (.nop c) (fun s => .done s false) s

def execAdd (c : Ctl) (ty : Ty) (sat : Bool) (d a : Fin 32) (b : SOp) (s : State) : Host.Outcome State Fault Refusal :=
  issue (.add c ty sat d a b) (fun s => .done (s.ws d (addVal ty sat (s.rs a) (s.sop b))) false) s

def execSub (c : Ctl) (ty : Ty) (sat : Bool) (d a : Fin 32) (b : SOp) (s : State) : Host.Outcome State Fault Refusal :=
  issue (.sub c ty sat d a b) (fun s => .done (s.ws d (subVal ty sat (s.rs a) (s.sop b))) false) s

/-- `MUL` (R343): its result is written later (R323). -/
def execMul (c : Ctl) (ty : Ty) (sel : MulSel) (d a : Fin 32) (b : SOp) (s : State) : Host.Outcome State Fault Refusal :=
  let i : Instr := .mul c ty sel d a b
  issue i (fun s => .done (s.addResult ⟨d, mulVal ty sel (s.rs a) (s.sop b), .mul, none, s.srcSec i.regs c⟩) false) s

/-- `DIV` (R324): one divider per sequencer (R323). -/
def execDiv (c : Ctl) (ty : Ty) (rem : Bool) (d a : Fin 32) (b : SOp) (s : State) : Host.Outcome State Fault Refusal :=
  let i : Instr := .div c ty rem d a b
  issue i (fun s =>
    if s.sq.results.any fun r => r.src == .div then .wait s
    else .done (s.addResult ⟨d, divVal ty rem (s.rs a) (s.sop b), .div, none, s.srcSec i.regs c⟩) false) s

def execAnd (c : Ctl) (ty : Ty) (d a : Fin 32) (b : SOp) (s : State) : Host.Outcome State Fault Refusal :=
  issue (.and c ty d a b) (fun s => .done (s.ws d (bitVal ty (· &&& ·) (s.rs a) (s.sop b))) false) s

def execOr (c : Ctl) (ty : Ty) (d a : Fin 32) (b : SOp) (s : State) : Host.Outcome State Fault Refusal :=
  issue (.or c ty d a b) (fun s => .done (s.ws d (bitVal ty (· ||| ·) (s.rs a) (s.sop b))) false) s

def execXor (c : Ctl) (ty : Ty) (d a : Fin 32) (b : SOp) (s : State) : Host.Outcome State Fault Refusal :=
  issue (.xor c ty d a b) (fun s => .done (s.ws d (bitVal ty (· ^^^ ·) (s.rs a) (s.sop b))) false) s

def execShl (c : Ctl) (ty : Ty) (d a : Fin 32) (b : SOp) (s : State) : Host.Outcome State Fault Refusal :=
  issue (.shl c ty d a b) (fun s => .done (s.ws d (shlVal ty (s.rs a) (s.sop b))) false) s

def execShr (c : Ctl) (ty : Ty) (ar : Bool) (d a : Fin 32) (b : SOp) (s : State) : Host.Outcome State Fault Refusal :=
  issue (.shr c ty ar d a b) (fun s => .done (s.ws d (shrVal ty ar (s.rs a) (s.sop b))) false) s

def execRol (c : Ctl) (ty : Ty) (d a : Fin 32) (b : SOp) (s : State) : Host.Outcome State Fault Refusal :=
  issue (.rol c ty d a b) (fun s => .done (s.ws d (rolVal ty (s.rs a) (s.sop b))) false) s

def execMin (c : Ctl) (ty : Ty) (d a : Fin 32) (b : SOp) (s : State) : Host.Outcome State Fault Refusal :=
  issue (.min c ty d a b) (fun s => .done (s.ws d (pickVal ty false (s.rs a) (s.sop b))) false) s

def execMax (c : Ctl) (ty : Ty) (d a : Fin 32) (b : SOp) (s : State) : Host.Outcome State Fault Refusal :=
  issue (.max c ty d a b) (fun s => .done (s.ws d (pickVal ty true (s.rs a) (s.sop b))) false) s

/-- `CMP` (R312). -/
def execCmp (c : Ctl) (ty : Ty) (cond : Cond) (d : Fin 8) (a : Fin 32) (b : SOp) (s : State) : Host.Outcome State Fault Refusal :=
  issue (.cmp c ty cond d a b) (fun s => .done (s.wf d (intCond cond (sval ty (s.rs a)) (sval ty (s.sop b)))) false) s

/-- `SEL` (R358). -/
def execSel (c : Ctl) (ty : Ty) (d a : Fin 32) (b : SOp) (fc : Fin 8) (s : State) : Host.Outcome State Fault Refusal :=
  issue (.sel c ty d a b fc) (fun s =>
    .done (s.ws d (wrapVal ty (sval ty (if s.rf fc then s.rs a else s.sop b)))) false) s

def execLi (c : Ctl) (hi : Bool) (d : Fin 32) (imm : Word32) (s : State) : Host.Outcome State Fault Refusal :=
  issue (.li c hi d imm) (fun s => .done (s.ws d (liVal hi imm)) false) s

/-- The value of an operand of `MOV`. -/
def State.movSrc (s : State) : SM → Word
  | .s r => s.rs r
  | .m r => vget 0 s.cc.m r.val

/-- Writing an operand of `MOV`: an m register keeps its RW fields (R26, R341), and the other sequencer sees the write
from the next slot on (R28). -/
def State.movDst (s : State) (v : Word) : SM → State
  | .s r => s.ws r v
  | .m r => (s.noteShared (.m r)).modCC fun k => { k with m := vset k.m r.val (mKeep v) }

def execMov (c : Ctl) (d a : SM) (s : State) : Host.Outcome State Fault Refusal :=
  inSlot (issue (.mov c d a) fun s => .done (s.movDst (s.movSrc a) d) false) s

def execClz (c : Ctl) (ty : Ty) (d a : Fin 32) (s : State) : Host.Outcome State Fault Refusal :=
  issue (.clz c ty d a) (fun s => .done (s.ws d (clzVal ty (s.rs a))) false) s

def execPopc (c : Ctl) (ty : Ty) (d a : Fin 32) (s : State) : Host.Outcome State Fault Refusal :=
  issue (.popc c ty d a) (fun s => .done (s.ws d (popcVal ty (s.rs a))) false) s

def execBfx (c : Ctl) (ty : Ty) (d a : Fin 32) (b : SOp) (s : State) : Host.Outcome State Fault Refusal :=
  issue (.bfx c ty d a b) (fun s => .done (s.ws d (bfxVal ty (s.rs a) (s.sop b))) false) s

def execBfi (c : Ctl) (ty : Ty) (d a : Fin 32) (b : SOp) (s : State) : Host.Outcome State Fault Refusal :=
  issue (.bfi c ty d a b) (fun s => .done (s.ws d (bfiVal (s.rs d) (s.rs a) (s.sop b))) false) s

end Sys2Proof.Machine
end

