-- ==== Sys2Proof/Machine/System.lean ====
section
/-! DEFINITION. System instructions (group 0xC) and the effects of register writes as steps: R225, R258,
R261, R265 to R267, R307, R326, R339, R340, R366, R374, R385. -/

namespace Sys2Proof.Machine

/-- `TRAP` (R366). -/
def execTrap (c : Ctl) (code : Word32) (a : Option (Fin 32)) (s : State) : Host.Outcome State Fault Refusal :=
  issue (.trap c code a) (fun s => .trap s ⟨cSWTRAP, code.setWidth 64, (a.map s.rs).getD 0⟩) s

/-- The handler's own SFU results land before `ERET` retires (R36, R326). -/
def Core.landAll (now : Nat) (k : Core) : Core :=
  match k.pipe.getLast? with
  | some r => (k.setCount (max k.count r.at_)).landDue now
  | none => k

/-- `ERET` (R326). -/
def execEret (c : Ctl) (s : State) : Host.Outcome State Fault Refusal :=
  issue (.eret c) (fun s =>
    let q := s.sq
    if q.pmode = 2 ∨ q.mode.toNat < q.pmode.toNat then .trap s (wordTrap cPRIV (.eret c))
    else if bf q.epc 3 0 ≠ 0 then .trap s (trapAlign q.epc false)
    else match s.curSeq with
      | .xs => .ret (s.modCC (Core.landAll s.cycle))
      | .as => .ret s) s

/-- `MFSR` (R339, R265). -/
def execMfsr (c : Ctl) (d : Fin 32) (n : BitVec 12) (r : Option (Fin 32)) (s : State) : Host.Outcome State Fault Refusal :=
  inSlot (issue (.mfsr c d n r) fun s =>
    match s.srCore r with
      | none => .trap s (s.srBounds r)
      | some k => .done (s.ws d (s.readSR k s.curSeq n.toNat)) (s.srSec k s.curSeq n.toNat)) s

/-- `MTSR` (R339, R265); of a register that both sequencers share the other one sees the write from the next slot on
(R28). -/
def execMtsr (c : Ctl) (n : BitVec 12) (a : Fin 32) (r : Option (Fin 32)) (s : State) : Host.Outcome State Fault Refusal :=
  inSlot (issue (.mtsr c n a r) fun s =>
    if srRejects n.toNat (s.rs a) then .trap s (wordTrap cRI (.mtsr c n a r))
    else match s.srCore r with
      | none => .trap s (s.srBounds r)
      | some k =>
        let s := if r.isNone && plainSr n.toNat then s.noteShared (.sr n.toNat) else s
        .done ((s.writeSR k s.curSeq n.toNat (s.rs a)).setSrSec k s.curSeq n.toNat (s.srcSec (Instr.mtsr c n a r).regs c)) false) s

/-- `WAITI` (R385): it waits until its deadline or a wake event. -/
def execWaiti (c : Ctl) (rel : Bool) (b : SOp) (s : State) : Host.Outcome State Fault Refusal :=
  issue (.waiti c rel b) (fun s => .hold s (.until (if rel then s.timebase + s.sop b else s.sop b))) s

/-- The clocks stop (R261). -/
def State.freezeNow (s : State) : State := { s with frozen := true }

/-- `BKPT` (R307). -/
def execBkpt (c : Ctl) (frz : Bool) (code : BitVec 16) (s : State) : Host.Outcome State Fault Refusal :=
  issue (.bkpt c frz code) (fun s =>
    if frz then .done s.freezeNow false else .trap s ⟨cBKPT, code.setWidth 64, 0⟩) s

/-- Clears the tags of every vault row in a range (R258); a lost row has none (R267). -/
def Vault.clearSec (v : Vault) (off n : Nat) : Vault :=
  { v with sec := (List.range (n / 256)).foldl (fun m i =>
      let o := off / 256 + i
      if v.isLost (o / 512) (o % 512) then m else SMap.set false m (v.phys (o / 512) (o % 512)) false) v.sec }

/-- `WTCLR` (R258): a pointer outside the vault space, another core's vault or a range beyond FOOT traps
PERM; alignment ranks first (R227). -/
def execWtclr (c : Ctl) (ocl : BitVec 4) (a : Fin 32) (off : Word32) (l : Fin 32) (s : State) : Host.Outcome State Fault Refusal :=
  issue (.wtclr c ocl a off l) (fun s =>
    let p := s.addr a off
    let n := (s.rs l).toNat
    if bf p 7 0 ≠ 0 ∨ n % 256 ≠ 0 then .trap s (trapAlign p true)
    else match s.ownVault s.cur.val p n true with
      | .inl _ => .trap s (trapFoot p true)
      | .inr o => if s.classHeld ocl s.cur.val then .wait s else .done (s.modVault s.cur.val fun v => v.clearSec o n) false) s

/-- Clears the tags of every register and queue entry of a core (R258). -/
def Core.clearTags (k : Core) : Core :=
  let q (x : Seq) : Seq := { x with sSec := 0, fSec := 0, sysSec := 0 }
  { k with
    sysSec := 0
    as := q k.as
    xs := q k.xs
    x := { k.x with vSec := 0, pSec := 0 }
    mSec := 0
    tileSec := 0
    kSec := 0
    nestSec := 0
    q := vmapi k.q fun _ l => l.map fun e => { e with sec := false }
    bqA := k.bqA.map fun e => (e.1, false)
    bqX := k.bqX.map fun e => (e.1, false) }

def execWtclrRegs (c : Ctl) (s : State) : Host.Outcome State Fault Refusal :=
  issue (.wtclrRegs c) (fun s => .done (s.modCC Core.clearTags) false) s

/-- `VAINV` (R121, R374). -/
def execVainv (c : Ctl) (a : Fin 32) (l : SOp) (s : State) : Host.Outcome State Fault Refusal :=
  issue (.vainv c a l) (fun s =>
    let p := s.rs a
    let n := (s.sop l).toNat
    if bf p 63 57 ≠ 0 then .trap s (trapForm p false)
    else if n = 0 then .done s false
    else .done (s.invalidate s.lc.fn p.toNat (min (p.toNat + n) (2 ^ 57))) false) s

/-! ## Effects of writes, as steps of their own -/

def execMstatFinFault (s : State) : Host.Outcome State Fault Refusal := .next s.finFault

def execMstatFinKill (s : State) : Host.Outcome State Fault Refusal := .next s.finKill

def execSeedWrite (v : Word32) (s : State) : Host.Outcome State Fault Refusal := .next (s.seedWrite v)

def execVpreqWrite (tvp : BitVec 3) (s : State) : Host.Outcome State Fault Refusal := .next (s.vpreq tvp)

/-- A write to ROWMV with GO = 1. -/
def execRowmvGo (core : CoreId) (v : Word32) (s : State) : Host.Outcome State Fault Refusal :=
  .next (s.rowmvWrite core.val (v.setWidth 64 ||| 0x80000000))

def execEerrClear (core : CoreId) (s : State) : Host.Outcome State Fault Refusal := .next (s.modCore core.val Core.eerrClear)

def execFerrClear (core : CoreId) (s : State) : Host.Outcome State Fault Refusal := .next (s.modCore core.val Core.ferrClear)

def execEvacuationChunkCopy (core : CoreId) (bank : Fin 16) (s : State) : Host.Outcome State Fault Refusal :=
  .next (s.evacChunk core.val bank.val)

def execVpRailReached (s : State) : Host.Outcome State Fault Refusal := .next s.railReached

end Sys2Proof.Machine
end

