-- ==== Sys2Proof/Machine/VecAxis.lean ====
section
/-! DEFINITION. Axis movements, reductions, the special functions and the quantiser (group 0x6): R34, R35,
R375, R376, R378, R384. -/

namespace Sys2Proof.Machine

/-- Element (i, j) of a register (R30). -/
def elem (v : VReg) (i j : Nat) : Word32 := lane v (64 * i + j)

/-- Writes the guarded lanes from a function of row and column. -/
def State.moveLanes (s : State) (c : Ctl) (d : Fin 32) (f : Nat → Nat → Word32) : State :=
  s.mapLanes c 4 d fun l => ((f (l / 64) (l % 64)).toNat, 0)

/-- The index of an axis movement; none is 0 (R375). -/
def State.axisB (s : State) (b : Option SOp) : Nat := match b with
  | some b => (s.sop b).toNat
  | none => 0

def execVrotr (c : Ctl) (ty : Ty) (d a : Fin 32) (b : SOp) (s : State) : Host.Outcome State Fault Refusal :=
  issue (.vrotr c ty d a b) (fun s =>
    let n := (s.sop b).toNat % 64
    .done (s.moveLanes c d fun i j => elem (s.rv a) i ((j + 64 - n) % 64)) false) s

def execVrotc (c : Ctl) (ty : Ty) (d a : Fin 32) (b : SOp) (s : State) : Host.Outcome State Fault Refusal :=
  issue (.vrotc c ty d a b) (fun s =>
    let n := (s.sop b).toNat % 16
    .done (s.moveLanes c d fun i j => elem (s.rv a) ((i + 16 - n) % 16) j) false) s

def execVbcr (c : Ctl) (ty : Ty) (d a : Fin 32) (b : Option SOp) (s : State) : Host.Outcome State Fault Refusal :=
  issue (.vbcr c ty d a b) (fun s =>
    .done (s.moveLanes c d fun i _ => elem (s.rv a) i (s.axisB b % 64)) false) s

def execVbcc (c : Ctl) (ty : Ty) (d a : Fin 32) (b : Option SOp) (s : State) : Host.Outcome State Fault Refusal :=
  issue (.vbcc c ty d a b) (fun s =>
    .done (s.moveLanes c d fun _ j => elem (s.rv a) (s.axisB b % 16) j) false) s

def execVtrn (c : Ctl) (ty : Ty) (d a : Fin 32) (s : State) : Host.Outcome State Fault Refusal :=
  issue (.vtrn c ty d a) (fun s =>
    .done (s.moveLanes c d fun i j => elem (s.rv a) (j % 16) (16 * (j / 16) + i)) false) s

/-! ## Reductions (R376) -/

/-- The f32 sum of a row or a column: NaN, then opposite infinities, then an infinity, then the exact sum. -/
def sumF32 (mode : Rnd) (xs : List Num) : Num × Bool :=
  match Num.firstNan xs with
  | some n => (.nan n.sign, false)
  | none =>
    let infs := xs.filter Num.isInf
    match infs with
    | i :: _ => if infs.any fun x => x.sign != i.sign then (.nan false, true) else (i, false)
    | [] =>
      let t := sumExact xs
      let neg := xs.all Num.sign
      let mixed := !neg && xs.any Num.sign
      if t.isZero then (.fin (neg || (mixed && mode == .rdn)) 0 0, false) else (t, false)

/-- The smaller or larger f32 value of a row or a column, NaNs passed over. -/
def pickF32 (wantMax : Bool) (xs : List Num) : Num :=
  match xs.filter fun x => !x.isNan with
  | [] => .nan (xs.head?.map Num.sign |>.getD false)
  | y :: ys => ys.foldl (floatPick wantMax) y

/-- A reduction of the patterns of a row or a column; `g` is the draw of the lane that receives it. -/
def reduce (ty : Ty) (op : RedOp) (mode : Rnd) (sat : Bool) (g : Nat) (xs : List Nat) : Nat × Flags :=
  if ty = .f32 then
    match op with
    | .min => (f32p (pickF32 false (xs.map f32v)), 0)
    | .max => (f32p (pickF32 true (xs.map f32v)), 0)
    | _ => roundTo_ .f32 mode sat g (sumF32 mode (xs.map f32v))
  else
    let is := xs.map ty.intValue
    match op, is with
    | .add, _ => intResult ty sat is.sum
    | .min, i :: is => (ty.intPattern (is.foldl min i), 0)
    | .max, i :: is => (ty.intPattern (is.foldl max i), 0)
    | .and, _ => (xs.foldl (· &&& ·) (2 ^ ty.width - 1), 0)
    | .or, _ => (xs.foldl (· ||| ·) 0, 0)
    | .xor, _ => (xs.foldl (· ^^^ ·) 0, 0)
    | _, [] => (0, 0)

/-- A reduction into the lanes that `into` accepts, of the elements that `from_` lists; zero elsewhere.
Only a sum of f32 values rounds, and draws from the lane that receives it. -/
def State.reduceLanes (s : State) (c : Ctl) (lat : Nat) (ty : Ty) (op : RedOp) (rnd : Rnd) (sat : Bool) (d : Fin 32)
    (into : Nat → Bool) (from_ : Nat → List Nat) : State :=
  let mode := s.rnd rnd
  let draw := mode = .sr ∧ ty = .f32 ∧ op = .add
  let t := s.mapLanes c lat d fun l =>
    if into l then reduce ty op mode sat (if draw then genDraw (genNext (vget 0 s.cc.x.gen l)) else 0) (from_ l) else (0, 0)
  if draw then t.advanceGen (s.lanes c &&& predOf into) 1 else t

def execVredr (c : Ctl) (ty : Ty) (op : RedOp) (rnd : Rnd) (sat : Bool) (d a : Fin 32) (s : State) : Host.Outcome State Fault Refusal :=
  issue (.vredr c ty op rnd sat d a) (fun s =>
    .done (s.reduceLanes c 10 ty op rnd sat d (fun l => l % 64 == 0)
      fun l => (List.range 64).map fun j => (elem (s.rv a) (l / 64) j).toNat) false) s

def execVredc (c : Ctl) (ty : Ty) (op : RedOp) (rnd : Rnd) (sat : Bool) (d a : Fin 32) (s : State) : Host.Outcome State Fault Refusal :=
  issue (.vredc c ty op rnd sat d a) (fun s =>
    .done (s.reduceLanes c 6 ty op rnd sat d (fun l => decide (l < 64))
      fun l => (List.range 16).map fun i => (elem (s.rv a) i l).toNat) false) s

/-! ## The special-function unit (R34, R35, R378) -/

/-- Results pending that a next SFU instruction must first see land: with four pending, the issue count
advances to the oldest's landing (R35). -/
def Core.makeRoom (now : Nat) (k : Core) : Core :=
  match k.pipe with
  | r :: _ => if 4 ≤ k.pipe.length then (k.setCount (max k.count r.at_)).landDue now else k
  | [] => k

/-- Issues an SFU function: sources are read now, the result is pending for eight counts. -/
def State.sfuIssue (s : State) (fn : SfuFn) (c : Ctl) (sec : Bool) (d a : Fin 32) : State :=
  let s := s.modCC (Core.makeRoom s.cycle)
  let m := s.lanes c
  let rs : Vector (Nat × Flags) 1024 := tab 1024 fun l => if bt m l then sfuApply fn (lane (s.rv a) l).toNat else (0, 0)
  s.modCC fun k => k.setPipe (k.pipe ++ [⟨d, k.count + 8, fn, vmapi rs fun _ r => BitVec.ofNat 32 r.1, m,
    orAll (rs.toList.map Prod.snd), sec⟩])

/-- The body of an SFU instruction: its sources and their tags are read once a place is free (R35, R257). The
destination's tag is set when the result lands, so the instruction's own effect leaves it. -/
def State.sfuBody (s : State) (i : Instr) (fn : SfuFn) (c : Ctl) (d a : Fin 32) : Eff :=
  .done (s.sfuIssue fn c ((s.modCC (Core.makeRoom s.cycle)).srcSec i.regs c) d a) false

def execVexp2 (c : Ctl) (d a : Fin 32) (s : State) : Host.Outcome State Fault Refusal :=
  issue (.vexp2 c d a) (fun s => s.sfuBody (.vexp2 c d a) .exp2 c d a) s

def execVlog2 (c : Ctl) (d a : Fin 32) (s : State) : Host.Outcome State Fault Refusal :=
  issue (.vlog2 c d a) (fun s => s.sfuBody (.vlog2 c d a) .log2 c d a) s

def execVrcp (c : Ctl) (d a : Fin 32) (s : State) : Host.Outcome State Fault Refusal :=
  issue (.vrcp c d a) (fun s => s.sfuBody (.vrcp c d a) .rcp c d a) s

def execVrsq (c : Ctl) (d a : Fin 32) (s : State) : Host.Outcome State Fault Refusal :=
  issue (.vrsq c d a) (fun s => s.sfuBody (.vrsq c d a) .rsq c d a) s

/-! ## The quantiser (R89, R384) -/

/-- The blocks of a row: first column and length. -/
def qntBlocks (b64 : Bool) : List Nat := if b64 then [0] else [0, 32]

/-- The block of a row that starts at a column: scale, element patterns and flags. -/
def State.quantise (s : State) (ty : Ty) (mode : Rnd) (b64 : Bool) (a : Fin 32) (i j0 : Nat) : Nat × List Nat × Flags :=
  qntBlock ty mode ((List.range (if b64 then 64 else 32)).map fun j =>
    let l := 64 * i + j0 + j
    (f32v (lane (s.rv a) l).toNat, if mode = .sr then genDraw (genNext (vget 0 s.cc.x.gen l)) else 0))

/-- `VQNT` (R384): elements packed into the first lanes of each row of vd, scales in ve. -/
def execVqnt (c : Ctl) (ty : Ty) (rnd : Rnd) (b64 : Bool) (d e a : Fin 32) (s : State) : Host.Outcome State Fault Refusal :=
  issue (.vqnt c ty rnd b64 d e a) (fun s =>
    let mode := s.rnd rnd
    let rows : Vector (List (Nat × List Nat × Flags)) 16 := tab 16 fun i => (qntBlocks b64).map (s.quantise ty mode b64 a i)
    let row (i : Nat) : List (Nat × List Nat × Flags) := vget [] rows i
    let n := subCount ty
    let t := s.mapLanes c 6 d fun l =>
      (packSubs ty ((((row (l / 64)).flatMap fun r => r.2.1).drop (n * (l % 64))).take n), 0)
    let t := t.mapLanes c 6 e fun l => ((((row (l / 64)).map Prod.fst).getD (l % 64) 0), 0)
    let t := t.orFlags 6 (orAll (rows.toList.flatMap fun r => r.map fun x => x.2.2))
    .done (if mode = .sr then t.advanceGen (BitVec.allOnes 1024) 1 else t) false) s

end Sys2Proof.Machine
end

