-- ==== Sys2Proof/Machine/VecFloat.lean ====
section
/-! DEFINITION. Vector float and packed instructions and conversions (group 0x5): R83, R379 to R381,
R383. -/

namespace Sys2Proof.Machine

def execVfadd (c : Ctl) (rnd : Rnd) (sat : Bool) (d a : Fin 32) (b : VOp) (s : State) : Host.Outcome State Fault Refusal :=
  issue (.vfadd c rnd sat d a b) (fun s => .done (s.floatOp c .f32 rnd sat d fun mode l k =>
    sum2 mode (laneSub .f32 (lane (s.rv a) l) k) (laneSub .f32 (s.vopLane b l) k)) false) s

def execVfmul (c : Ctl) (rnd : Rnd) (sat : Bool) (d a : Fin 32) (b : VOp) (s : State) : Host.Outcome State Fault Refusal :=
  issue (.vfmul c rnd sat d a b) (fun s => .done (s.floatOp c .f32 rnd sat d fun _ l k =>
    Num.mul (laneSub .f32 (lane (s.rv a) l) k) (laneSub .f32 (s.vopLane b l) k)) false) s

def execVfma (c : Ctl) (rnd : Rnd) (sat : Bool) (d a : Fin 32) (b : VOp) (e : Fin 32) (s : State) : Host.Outcome State Fault Refusal :=
  issue (.vfma c rnd sat d a b e) (fun s => .done (s.floatOp c .f32 rnd sat d fun mode l k =>
    Num.fma (mode == .rdn) (laneSub .f32 (lane (s.rv a) l) k) (laneSub .f32 (s.vopLane b l) k)
      (laneSub .f32 (lane (s.rv e) l) k)) false) s

/-- `VFMIN` and `VFMAX` (R379): no flag, RND and SAT without effect. -/
def State.pickLanes (s : State) (c : Ctl) (wantMax : Bool) (d a : Fin 32) (b : VOp) : State :=
  s.mapLanes c 6 d fun l => (f32p (floatPick wantMax (f32v (lane (s.rv a) l).toNat) (f32v (s.vopLane b l).toNat)), 0)

def execVfmin (c : Ctl) (rnd : Rnd) (sat : Bool) (d a : Fin 32) (b : VOp) (s : State) : Host.Outcome State Fault Refusal :=
  issue (.vfmin c rnd sat d a b) (fun s => .done (s.pickLanes c false d a b) false) s

def execVfmax (c : Ctl) (rnd : Rnd) (sat : Bool) (d a : Fin 32) (b : VOp) (s : State) : Host.Outcome State Fault Refusal :=
  issue (.vfmax c rnd sat d a b) (fun s => .done (s.pickLanes c true d a b) false) s

/-- `VFCMP` (R380). -/
def execVfcmp (c : Ctl) (cond : Cond) (d : Fin 16) (a : Fin 32) (b : VOp) (s : State) : Host.Outcome State Fault Refusal :=
  issue (.vfcmp c cond d a b) (fun s =>
    .done (s.writePred d (s.lanes c) (predOf fun l =>
      floatCond cond (f32v (lane (s.rv a) l).toNat) (f32v (s.vopLane b l).toNat))) false) s

/-! ## Conversion (R381) -/

/-- Roundings in one lane of a conversion. -/
def cvtCount (ty sty : Ty) : Nat := if ty.width ≤ sty.width then subCount sty else subCount ty

/-- One lane of `VFCVT`: `old` is the destination's lane. -/
def cvtLane (ty sty : Ty) (k : Nat) (mode : Rnd) (sat : Bool) (x old : Word32) (g : Nat → Nat) : Nat × Flags :=
  let cvt (src j : Nat) : Nat × Flags := convert ty mode sat (!sty.isFloat) (g j) (laneSub sty x src)
  if ty.width = sty.width then subs1 ty (subCount ty) fun j => cvt j j
  else if ty.width < sty.width then
    let cs := subCount sty
    subs1 ty (subCount ty) fun j => if k * cs ≤ j ∧ j < (k + 1) * cs then cvt (j - k * cs) (j - k * cs) else (sub ty old j, 0)
  else subs1 ty (subCount ty) fun j => cvt (k * subCount ty + j) j

def execVfcvt (c : Ctl) (ty sty : Ty) (k : BitVec 3) (rnd : Rnd) (sat : Bool) (d a : Fin 32) (s : State) : Host.Outcome State Fault Refusal :=
  issue (.vfcvt c ty sty k rnd sat d a) (fun s =>
    let mode := s.rnd rnd
    .done (s.roundLanes c mode d (if convRounds sty ty then cvtCount ty sty else 0) fun l g =>
      cvtLane ty sty k.toNat mode sat (lane (s.rv a) l) (lane (s.rv d) l) g) false) s

/-! ## Packed (R83, R383) -/

def execVpadd (c : Ctl) (ty : Ty) (rnd : Rnd) (sat : Bool) (d a : Fin 32) (b : VOp) (s : State) : Host.Outcome State Fault Refusal :=
  issue (.vpadd c ty rnd sat d a b) (fun s => .done (s.floatOp c ty rnd sat d fun mode l k =>
    sum2 mode (laneSub ty (lane (s.rv a) l) k) (laneSub ty (s.vopLane b l) k)) false) s

def execVpmul (c : Ctl) (ty : Ty) (rnd : Rnd) (sat : Bool) (d a : Fin 32) (b : VOp) (s : State) : Host.Outcome State Fault Refusal :=
  issue (.vpmul c ty rnd sat d a b) (fun s => .done (s.floatOp c ty rnd sat d fun _ l k =>
    Num.mul (laneSub ty (lane (s.rv a) l) k) (laneSub ty (s.vopLane b l) k)) false) s

def execVpfma (c : Ctl) (ty : Ty) (rnd : Rnd) (sat : Bool) (d a : Fin 32) (b : VOp) (e : Fin 32) (s : State) : Host.Outcome State Fault Refusal :=
  issue (.vpfma c ty rnd sat d a b e) (fun s => .done (s.floatOp c ty rnd sat d fun mode l k =>
    Num.fma (mode == .rdn) (laneSub ty (lane (s.rv a) l) k) (laneSub ty (s.vopLane b l) k)
      (laneSub ty (lane (s.rv e) l) k)) false) s

end Sys2Proof.Machine
end

