-- ==== Sys2Proof/Machine/VecInt.lean ====
section
/-! DEFINITION. Vector integer instructions (group 0x4): R373, R377, R382. -/

namespace Sys2Proof.Machine

/-- An exact integer operation, clamped with SATI under SAT, else modulo 2^w (R79, R373). -/
def exactOp (ty : Ty) (sat : Bool) (f : Int → Int → Int) (a b : Nat) : Nat × Flags :=
  intResult ty sat (f (ty.intValue a) (ty.intValue b))

/-- `VMUL`'s high half: bits 2w-1:w of the exact product. -/
def highOp (ty : Ty) (a b : Nat) : Nat × Flags := (ty.intPattern (ty.intValue a * ty.intValue b / 2 ^ ty.width), 0)

def vmulOp (ty : Ty) (sel : MulSel) (sat : Bool) (a b : Nat) : Nat × Flags :=
  match sel with
  | .low => exactOp ty sat (· * ·) a b
  | .highS | .highU => highOp ty a b

/-- A bitwise operation. -/
def bitOp (f : Nat → Nat → Nat) (a b : Nat) : Nat × Flags := (f a b, 0)

def vshlOp (ty : Ty) (a b : Nat) : Nat × Flags := (if ty.width ≤ b then 0 else a * 2 ^ b % 2 ^ ty.width, 0)

def vshrOp (ty : Ty) (ar : Bool) (a b : Nat) : Nat × Flags :=
  let neg := ar && decide (2 ^ (ty.width - 1) ≤ a)
  if ty.width ≤ b then (if neg then 2 ^ ty.width - 1 else 0, 0)
  else (a / 2 ^ b + (if neg then 2 ^ ty.width - 2 ^ (ty.width - b) else 0), 0)

def pickOp (ty : Ty) (wantMax : Bool) (a b : Nat) : Nat × Flags :=
  (ty.intPattern (if wantMax then max (ty.intValue a) (ty.intValue b) else min (ty.intValue a) (ty.intValue b)), 0)

def execVadd (c : Ctl) (ty : Ty) (sat : Bool) (d a : Fin 32) (b : VOp) (s : State) : Host.Outcome State Fault Refusal :=
  issue (.vadd c ty sat d a b) (fun s => .done (s.intOp c ty d a b (exactOp ty sat (· + ·))) false) s

def execVsub (c : Ctl) (ty : Ty) (sat : Bool) (d a : Fin 32) (b : VOp) (s : State) : Host.Outcome State Fault Refusal :=
  issue (.vsub c ty sat d a b) (fun s => .done (s.intOp c ty d a b (exactOp ty sat (· - ·))) false) s

def execVmul (c : Ctl) (ty : Ty) (sel : MulSel) (sat : Bool) (d a : Fin 32) (b : VOp) (s : State) : Host.Outcome State Fault Refusal :=
  issue (.vmul c ty sel sat d a b) (fun s => .done (s.intOp c ty d a b (vmulOp ty sel sat)) false) s

/-- `VMAD`: a × b + c, exact. -/
def execVmad (c : Ctl) (ty : Ty) (sat : Bool) (d a : Fin 32) (b : VOp) (e : Fin 32) (s : State) : Host.Outcome State Fault Refusal :=
  issue (.vmad c ty sat d a b e) (fun s =>
    .done (s.mapLanes c 4 d fun l => subs1 ty (subCount ty) fun k =>
      intResult ty sat (ty.intValue (sub ty (lane (s.rv a) l) k) * ty.intValue (sub ty (s.vopLane b l) k) +
        ty.intValue (sub ty (lane (s.rv e) l) k))) false) s

def execVand (c : Ctl) (ty : Ty) (d a : Fin 32) (b : VOp) (s : State) : Host.Outcome State Fault Refusal :=
  issue (.vand c ty d a b) (fun s => .done (s.intOp c ty d a b (bitOp (· &&& ·))) false) s

def execVor (c : Ctl) (ty : Ty) (d a : Fin 32) (b : VOp) (s : State) : Host.Outcome State Fault Refusal :=
  issue (.vor c ty d a b) (fun s => .done (s.intOp c ty d a b (bitOp (· ||| ·))) false) s

def execVxor (c : Ctl) (ty : Ty) (d a : Fin 32) (b : VOp) (s : State) : Host.Outcome State Fault Refusal :=
  issue (.vxor c ty d a b) (fun s => .done (s.intOp c ty d a b (bitOp (· ^^^ ·))) false) s

def execVshl (c : Ctl) (ty : Ty) (d a : Fin 32) (b : VOp) (s : State) : Host.Outcome State Fault Refusal :=
  issue (.vshl c ty d a b) (fun s => .done (s.intOp c ty d a b (vshlOp ty)) false) s

def execVshr (c : Ctl) (ty : Ty) (ar : Bool) (d a : Fin 32) (b : VOp) (s : State) : Host.Outcome State Fault Refusal :=
  issue (.vshr c ty ar d a b) (fun s => .done (s.intOp c ty d a b (vshrOp ty ar)) false) s

def execVmin (c : Ctl) (ty : Ty) (d a : Fin 32) (b : VOp) (s : State) : Host.Outcome State Fault Refusal :=
  issue (.vmin c ty d a b) (fun s => .done (s.intOp c ty d a b (pickOp ty false)) false) s

def execVmax (c : Ctl) (ty : Ty) (d a : Fin 32) (b : VOp) (s : State) : Host.Outcome State Fault Refusal :=
  issue (.vmax c ty d a b) (fun s => .done (s.intOp c ty d a b (pickOp ty true)) false) s

/-- The values that `VCMP` compares in a lane. -/
def State.cmpLane (s : State) (ty : Ty) (a : Fin 32) (b : VOp) (l : Nat) : Int × Int :=
  if ty.is64 then (ty.intValue (s.pairLane a l).toNat, ty.intValue (s.vopPair b l).toNat)
  else (ty.intValue (lane (s.rv a) l).toNat, ty.intValue (s.vopLane b l).toNat)

/-- `VCMP` (R377). -/
def execVcmp (c : Ctl) (ty : Ty) (cond : Cond) (d : Fin 16) (a : Fin 32) (b : VOp) (s : State) : Host.Outcome State Fault Refusal :=
  issue (.vcmp c ty cond d a b) (fun s =>
    .done (s.writePred d (s.lanes c) (predOf fun l => intCond cond (s.cmpLane ty a b l).1 (s.cmpLane ty a b l).2)) false) s

/-- `VSEL` (R382). -/
def execVsel (c : Ctl) (ty : Ty) (d a : Fin 32) (b : VOp) (p : Fin 16) (s : State) : Host.Outcome State Fault Refusal :=
  issue (.vsel c ty d a b p) (fun s =>
    let m := s.rp p
    .done (s.wholeOp c ty d (fun l => if bt m l then lane (s.rv a) l else s.vopLane b l)
      (fun l => if bt m l then s.pairLane a l else s.vopPair b l)) false) s

/-- `VMOV` (R382). -/
def execVmov (c : Ctl) (ty : Ty) (d : Fin 32) (b : VOp) (s : State) : Host.Outcome State Fault Refusal :=
  issue (.vmov c ty d b) (fun s => .done (s.wholeOp c ty d (s.vopLane b) (s.vopPair b)) false) s

/-- `VIOTA` (R382): the number of the lane. -/
def execViota (c : Ctl) (ty : Ty) (d : Fin 32) (s : State) : Host.Outcome State Fault Refusal :=
  issue (.viota c ty d) (fun s => .done (s.mapLanes c 4 d fun l => (l, 0)) false) s

end Sys2Proof.Machine
end

