-- ==== Sys2Proof/Machine/Dispatch.lean ====
section
/-! DEFINITION. One arm per constructor: each calls the meaning of its instruction. -/

namespace Sys2Proof.Machine

def exec (i : Instr) (s : State) : Host.Outcome State Fault Refusal :=
  match i with
  | .nop c => Sys2Proof.Machine.execNop c s
  | .add c ty sat d a b => Sys2Proof.Machine.execAdd c ty sat d a b s
  | .sub c ty sat d a b => Sys2Proof.Machine.execSub c ty sat d a b s
  | .mul c ty sel d a b => Sys2Proof.Machine.execMul c ty sel d a b s
  | .div c ty rem d a b => Sys2Proof.Machine.execDiv c ty rem d a b s
  | .and c ty d a b => Sys2Proof.Machine.execAnd c ty d a b s
  | .or c ty d a b => Sys2Proof.Machine.execOr c ty d a b s
  | .xor c ty d a b => Sys2Proof.Machine.execXor c ty d a b s
  | .shl c ty d a b => Sys2Proof.Machine.execShl c ty d a b s
  | .shr c ty arith d a b => Sys2Proof.Machine.execShr c ty arith d a b s
  | .rol c ty d a b => Sys2Proof.Machine.execRol c ty d a b s
  | .min c ty d a b => Sys2Proof.Machine.execMin c ty d a b s
  | .max c ty d a b => Sys2Proof.Machine.execMax c ty d a b s
  | .cmp c ty cond d a b => Sys2Proof.Machine.execCmp c ty cond d a b s
  | .sel c ty d a b fc => Sys2Proof.Machine.execSel c ty d a b fc s
  | .li c hi d imm => Sys2Proof.Machine.execLi c hi d imm s
  | .mov c d a => Sys2Proof.Machine.execMov c d a s
  | .clz c ty d a => Sys2Proof.Machine.execClz c ty d a s
  | .popc c ty d a => Sys2Proof.Machine.execPopc c ty d a s
  | .bfx c ty d a b => Sys2Proof.Machine.execBfx c ty d a b s
  | .bfi c ty d a b => Sys2Proof.Machine.execBfi c ty d a b s
  | .br c off => Sys2Proof.Machine.execBr c off s
  | .jmp c a => Sys2Proof.Machine.execJmp c a s
  | .call c d off => Sys2Proof.Machine.execCall c d off s
  | .ret c a => Sys2Proof.Machine.execRet c a s
  | .loop c d off => Sys2Proof.Machine.execLoop c d off s
  | .bqsend c a => Sys2Proof.Machine.execBqsend c a s
  | .bqbr c z off => Sys2Proof.Machine.execBqbr c z off s
  | .endSeq c => Sys2Proof.Machine.execEndSeq c s
  | .tail c => Sys2Proof.Machine.execTail c s
  | .mark c k n mask => Sys2Proof.Machine.execMark c k n mask s
  | .waitmk c k n => Sys2Proof.Machine.execWaitmk c k n s
  | .ld c ty acq ocl scp d a off => Sys2Proof.Machine.execLd c ty acq ocl scp d a off s
  | .st c ty rel ocl scp a off v => Sys2Proof.Machine.execSt c ty rel ocl scp a off v s
  | .ldv c ty ocl d a off n => Sys2Proof.Machine.execLdv c ty ocl d a off n s
  | .stv c ty ocl a off v n => Sys2Proof.Machine.execStv c ty ocl a off v n s
  | .gather c d a p ix bar b => Sys2Proof.Machine.execGather c d a p ix bar b s
  | .scatter c d t p ix bar b => Sys2Proof.Machine.execScatter c d t p ix bar b s
  | .atom c ty op ord ocl scp d a v cmp => Sys2Proof.Machine.execAtom c ty op ord ocl scp d a v cmp s
  | .fence c scp m1 m2 => Sys2Proof.Machine.execFence c scp m1 m2 s
  | .xfence c scp pm => Sys2Proof.Machine.execXfence c scp pm s
  | .pref c a len off => Sys2Proof.Machine.execPref c a len off s
  | .qpush c q a => Sys2Proof.Machine.execQpush c q a s
  | .qpop c d q => Sys2Proof.Machine.execQpop c d q s
  | .qcnt c d q => Sys2Proof.Machine.execQcnt c d q s
  | .bar c lw lh => Sys2Proof.Machine.execBar c lw lh s
  | .barAll c => Sys2Proof.Machine.execBarAll c s
  | .xch c => Sys2Proof.Machine.execXch c s
  | .phase c tf tb => Sys2Proof.Machine.execPhase c tf tb s
  | .vadd c ty sat d a b => Sys2Proof.Machine.execVadd c ty sat d a b s
  | .vsub c ty sat d a b => Sys2Proof.Machine.execVsub c ty sat d a b s
  | .vmul c ty sel sat d a b => Sys2Proof.Machine.execVmul c ty sel sat d a b s
  | .vmad c ty sat d a b e => Sys2Proof.Machine.execVmad c ty sat d a b e s
  | .vand c ty d a b => Sys2Proof.Machine.execVand c ty d a b s
  | .vor c ty d a b => Sys2Proof.Machine.execVor c ty d a b s
  | .vxor c ty d a b => Sys2Proof.Machine.execVxor c ty d a b s
  | .vshl c ty d a b => Sys2Proof.Machine.execVshl c ty d a b s
  | .vshr c ty arith d a b => Sys2Proof.Machine.execVshr c ty arith d a b s
  | .vmin c ty d a b => Sys2Proof.Machine.execVmin c ty d a b s
  | .vmax c ty d a b => Sys2Proof.Machine.execVmax c ty d a b s
  | .vcmp c ty cond d a b => Sys2Proof.Machine.execVcmp c ty cond d a b s
  | .vsel c ty d a b p => Sys2Proof.Machine.execVsel c ty d a b p s
  | .vmov c ty d b => Sys2Proof.Machine.execVmov c ty d b s
  | .viota c ty d => Sys2Proof.Machine.execViota c ty d s
  | .vfadd c rnd sat d a b => Sys2Proof.Machine.execVfadd c rnd sat d a b s
  | .vfmul c rnd sat d a b => Sys2Proof.Machine.execVfmul c rnd sat d a b s
  | .vfma c rnd sat d a b e => Sys2Proof.Machine.execVfma c rnd sat d a b e s
  | .vfmin c rnd sat d a b => Sys2Proof.Machine.execVfmin c rnd sat d a b s
  | .vfmax c rnd sat d a b => Sys2Proof.Machine.execVfmax c rnd sat d a b s
  | .vfcmp c cond d a b => Sys2Proof.Machine.execVfcmp c cond d a b s
  | .vfcvt c ty sty k rnd sat d a => Sys2Proof.Machine.execVfcvt c ty sty k rnd sat d a s
  | .vpadd c ty rnd sat d a b => Sys2Proof.Machine.execVpadd c ty rnd sat d a b s
  | .vpmul c ty rnd sat d a b => Sys2Proof.Machine.execVpmul c ty rnd sat d a b s
  | .vpfma c ty rnd sat d a b e => Sys2Proof.Machine.execVpfma c ty rnd sat d a b e s
  | .vrotr c ty d a b => Sys2Proof.Machine.execVrotr c ty d a b s
  | .vrotc c ty d a b => Sys2Proof.Machine.execVrotc c ty d a b s
  | .vbcr c ty d a b => Sys2Proof.Machine.execVbcr c ty d a b s
  | .vbcc c ty d a b => Sys2Proof.Machine.execVbcc c ty d a b s
  | .vtrn c ty d a => Sys2Proof.Machine.execVtrn c ty d a s
  | .vredr c ty op rnd sat d a => Sys2Proof.Machine.execVredr c ty op rnd sat d a s
  | .vredc c ty op rnd sat d a => Sys2Proof.Machine.execVredc c ty op rnd sat d a s
  | .vexp2 c d a => Sys2Proof.Machine.execVexp2 c d a s
  | .vlog2 c d a => Sys2Proof.Machine.execVlog2 c d a s
  | .vrcp c d a => Sys2Proof.Machine.execVrcp c d a s
  | .vrsq c d a => Sys2Proof.Machine.execVrsq c d a s
  | .vqnt c ty rnd b64 d e a => Sys2Proof.Machine.execVqnt c ty rnd b64 d e a s
  | .plog c op d a b => Sys2Proof.Machine.execPlog c op d a b s
  | .pcnt c ffs d a => Sys2Proof.Machine.execPcnt c ffs d a s
  | .pset c pat d b => Sys2Proof.Machine.execPset c pat d b s
  | .cspush c t a => Sys2Proof.Machine.execCspush c t a s
  | .cspop c d t => Sys2Proof.Machine.execCspop c d t s
  | .csbal c d p t => Sys2Proof.Machine.execCsbal c d p t s
  | .mshape c ty sp d b => Sys2Proof.Machine.execMshape c ty sp d b s
  | .mshapeGrp c ty sp d b => Sys2Proof.Machine.execMshapeGrp c ty sp d b s
  | .mload c sp t => Sys2Proof.Machine.execMload c sp t s
  | .mswap c => Sys2Proof.Machine.execMswap c s
  | .mmul c str last m t => Sys2Proof.Machine.execMmul c str last m t s
  | .mmuls c str last m t => Sys2Proof.Machine.execMmuls c str last m t s
  | .mzero c str m => Sys2Proof.Machine.execMzero c str m s
  | .mdrain c str ty rnd sat t m => Sys2Proof.Machine.execMdrain c str ty rnd sat t m s
  | .madpt c t b => Sys2Proof.Machine.execMadpt c t b s
  | .axlt c a off h => Sys2Proof.Machine.execAxlt c a off h s
  | .apref c h => Sys2Proof.Machine.execApref c h s
  | .apub c a off h => Sys2Proof.Machine.execApub c a off h s
  | .aunpin c b => Sys2Proof.Machine.execAunpin c b s
  | .cnest c lvl n ss ds => Sys2Proof.Machine.execCnest c lvl n ss ds s
  | .cpy c dst src b bar sh => Sys2Proof.Machine.execCpy c dst src b bar sh s
  | .cpym c str last d src b bar m => Sys2Proof.Machine.execCpym c str last d src b bar m s
  | .tbinit c a n => Sys2Proof.Machine.execTbinit c a n s
  | .tbarv c a n => Sys2Proof.Machine.execTbarv c a n s
  | .tbwait c chk a n => Sys2Proof.Machine.execTbwait c chk a n s
  | .tset c t n => Sys2Proof.Machine.execTset c t n s
  | .tsetDef c t a => Sys2Proof.Machine.execTsetDef c t a s
  | .sendm c ocl h a off l bar => Sys2Proof.Machine.execSendm c ocl h a off l bar s
  | .rpost c d a off => Sys2Proof.Machine.execRpost c d a off s
  | .rcancel c d h => Sys2Proof.Machine.execRcancel c d h s
  | .rprobe c d a off => Sys2Proof.Machine.execRprobe c d a off s
  | .rld c ty acq ocl scp d n a off => Sys2Proof.Machine.execRld c ty acq ocl scp d n a off s
  | .rst c ty add rel ocl scp n a off v bar => Sys2Proof.Machine.execRst c ty add rel ocl scp n a off v bar s
  | .ratom c ty op ord ocl scp d n a v cmp => Sys2Proof.Machine.execRatom c ty op ord ocl scp d n a v cmp s
  | .msop c op ocl n a off r bar => Sys2Proof.Machine.execMsop c op ocl n a off r bar s
  | .cpost c a off => Sys2Proof.Machine.execCpost c a off s
  | .trap c code a => Sys2Proof.Machine.execTrap c code a s
  | .eret c => Sys2Proof.Machine.execEret c s
  | .mfsr c d n r => Sys2Proof.Machine.execMfsr c d n r s
  | .mtsr c n a r => Sys2Proof.Machine.execMtsr c n a r s
  | .waiti c rel b => Sys2Proof.Machine.execWaiti c rel b s
  | .bkpt c frz code => Sys2Proof.Machine.execBkpt c frz code s
  | .wtclr c ocl a off l => Sys2Proof.Machine.execWtclr c ocl a off l s
  | .wtclrRegs c => Sys2Proof.Machine.execWtclrRegs c s
  | .vainv c a l => Sys2Proof.Machine.execVainv c a l s
  | .mstatFinFault => Sys2Proof.Machine.execMstatFinFault s
  | .mstatFinKill => Sys2Proof.Machine.execMstatFinKill s
  | .seedWrite v => Sys2Proof.Machine.execSeedWrite v s
  | .vpreqWrite tvp => Sys2Proof.Machine.execVpreqWrite tvp s
  | .rowmvGo core v => Sys2Proof.Machine.execRowmvGo core v s
  | .eerrClear core => Sys2Proof.Machine.execEerrClear core s
  | .ferrClear core => Sys2Proof.Machine.execFerrClear core s
  | .registerWrite blk off v => Sys2Proof.Machine.execRegisterWrite blk off v s
  | .evacuationChunkCopy core bank => Sys2Proof.Machine.execEvacuationChunkCopy core bank s
  | .vpRailReached => Sys2Proof.Machine.execVpRailReached s
  | .launchPortWrite f sup pcie r => Sys2Proof.Machine.execLaunchPortWrite f sup pcie r s
  | .kill f cptr => Sys2Proof.Machine.execKill f cptr s
  | .recordAdmit id => Sys2Proof.Machine.execRecordAdmit id s
  | .regionBalance => Sys2Proof.Machine.execRegionBalance s
  | .launchPlace leaf => Sys2Proof.Machine.execLaunchPlace leaf s
  | .contextSave core => Sys2Proof.Machine.execContextSave core s
  | .contextRestore id => Sys2Proof.Machine.execContextRestore id s
  | .preemptTimeout core => Sys2Proof.Machine.execPreemptTimeout core s
  | .sliceBoundary => Sys2Proof.Machine.execSliceBoundary s
  | .launchDrainComplete id => Sys2Proof.Machine.execLaunchDrainComplete id s
  | .trackerComplete id => Sys2Proof.Machine.execTrackerComplete id s
  | .barrierComplete core => Sys2Proof.Machine.execBarrierComplete core s
  | .csbalComplete core => Sys2Proof.Machine.execCsbalComplete core s
  | .phaseBoundary core => Sys2Proof.Machine.execPhaseBoundary core s
  | .exchangeStepStart id => Sys2Proof.Machine.execExchangeStepStart id s
  | .exchangeBeat core => Sys2Proof.Machine.execExchangeBeat core s
  | .exchangeStepEnd id => Sys2Proof.Machine.execExchangeStepEnd id s
  | .sfuResultLand core => Sys2Proof.Machine.execSfuResultLand core s
  | .loadResult core q => Sys2Proof.Machine.execLoadResult core q s
  | .remoteVaultAccess n => Sys2Proof.Machine.execRemoteVaultAccess n s
  | .remoteVaultReply n => Sys2Proof.Machine.execRemoteVaultReply n s
  | .landingRowRetire core bank => Sys2Proof.Machine.execLandingRowRetire core bank s
  | .vaultScrub core bank => Sys2Proof.Machine.execVaultScrub core bank s
  | .mscScrub leaf => Sys2Proof.Machine.execMscScrub leaf s
  | .copyCommandStart core => Sys2Proof.Machine.execCopyCommandStart core s
  | .copyBlockMove core => Sys2Proof.Machine.execCopyBlockMove core s
  | .cpymFollowonEnqueue core => Sys2Proof.Machine.execCpymFollowonEnqueue core s
  | .gatherRow core => Sys2Proof.Machine.execGatherRow core s
  | .matrixCommandExecute core n => Sys2Proof.Machine.execMatrixCommandExecute core n s
  | .matrixPass core n => Sys2Proof.Machine.execMatrixPass core n s
  | .sidePathLast core n => Sys2Proof.Machine.execSidePathLast core n s
  | .adapterPageArrive h ver pageB o => Sys2Proof.Machine.execAdapterPageArrive h ver pageB o s
  | .adapterPageTimeout core n => Sys2Proof.Machine.execAdapterPageTimeout core n s
  | .pinFree core pin => Sys2Proof.Machine.execPinFree core pin s
  | .markerRetire core k e => Sys2Proof.Machine.execMarkerRetire core k e s
  | .extentMissRetry n => Sys2Proof.Machine.execExtentMissRetry n s
  | .extentMissAbort n => Sys2Proof.Machine.execExtentMissAbort n s
  | .extentDescriptorWrite vf ix d => Sys2Proof.Machine.execExtentDescriptorWrite vf ix d s
  | .acwaysWrite n => Sys2Proof.Machine.execAcwaysWrite n s
  | .hbmRequestComplete => Sys2Proof.Machine.execHbmRequestComplete s
  | .cxlRelease lo hi => Sys2Proof.Machine.execCxlRelease lo hi s
  | .cxlSurpriseRelease lo hi => Sys2Proof.Machine.execCxlSurpriseRelease lo hi s
  | .remoteOpArrive p => Sys2Proof.Machine.execRemoteOpArrive p s
  | .remoteOpAck a => Sys2Proof.Machine.execRemoteOpAck a s
  | .remoteOpTimeout n => Sys2Proof.Machine.execRemoteOpTimeout n s
  | .msopResult n => Sys2Proof.Machine.execMsopResult n s
  | .rstAddCombine ix j => Sys2Proof.Machine.execRstAddCombine ix j s
  | .linkLaneFailure l => Sys2Proof.Machine.execLinkLaneFailure l s
  | .linkRetrainComplete l => Sys2Proof.Machine.execLinkRetrainComplete l s
  | .keyGenerationChange l => Sys2Proof.Machine.execKeyGenerationChange l s
  | .messageArrive m => Sys2Proof.Machine.execMessageArrive m s
  | .messageRetry n => Sys2Proof.Machine.execMessageRetry n s
  | .messageSendTimeout n => Sys2Proof.Machine.execMessageSendTimeout n s
  | .messageLandingComplete core => Sys2Proof.Machine.execMessageLandingComplete core s
  | .eventHeldFlush f => Sys2Proof.Machine.execEventHeldFlush f s
  | .counterWrap core n => Sys2Proof.Machine.execCounterWrap core n s
  | .stop vf => Sys2Proof.Machine.execStop vf s
  | .resume vf => Sys2Proof.Machine.execResume vf s
  | .exportVf vf => Sys2Proof.Machine.execExportVf vf s
  | .discard vf => Sys2Proof.Machine.execDiscard vf s
  | .importVf vf => Sys2Proof.Machine.execImportVf vf s
  | .release vf => Sys2Proof.Machine.execRelease vf s
  | .timingReplay core => Sys2Proof.Machine.execTimingReplay core s
  | .replayLimitEvent core => Sys2Proof.Machine.execReplayLimitEvent core s
  | .scanTestStart core => Sys2Proof.Machine.execScanTestStart core s
  | .scanTestAbort core => Sys2Proof.Machine.execScanTestAbort core s
  | .scanTestComplete core pass floors => Sys2Proof.Machine.execScanTestComplete core pass floors s
  | .logicalMapChange leaf => Sys2Proof.Machine.execLogicalMapChange leaf s
  | .pairedCommit id => Sys2Proof.Machine.execPairedCommit id s
  | .freeze => Sys2Proof.Machine.execFreeze s
  | .packageReset => Sys2Proof.Machine.execPackageReset s
  | .thermalWarning t => Sys2Proof.Machine.execThermalWarning t s
  | .thermtrip => Sys2Proof.Machine.execThermtrip s
  | .worldBitSet u b => Sys2Proof.Machine.execWorldBitSet u b s
  | .getVersion => Sys2Proof.Machine.execGetVersion s
  | .getCapabilities => Sys2Proof.Machine.execGetCapabilities s
  | .negotiateAlgorithms => Sys2Proof.Machine.execNegotiateAlgorithms s
  | .getDigests => Sys2Proof.Machine.execGetDigests s
  | .getCertificate => Sys2Proof.Machine.execGetCertificate s
  | .challenge => Sys2Proof.Machine.execChallenge s
  | .getMeasurements f cptr => Sys2Proof.Machine.execGetMeasurements f cptr s
  | .railsFall => Sys2Proof.Machine.execRailsFall s
  | .flitReplay l => Sys2Proof.Machine.execFlitReplay l s
  | .matrixCommandFinish core n => Sys2Proof.Machine.execMatrixCommandFinish core n s
  | .mulDivResult core q => Sys2Proof.Machine.execMulDivResult core q s
  | .waitiDeadline core q => Sys2Proof.Machine.execWaitiDeadline core q s
  | .class0Preemption leaf => Sys2Proof.Machine.execClass0Preemption leaf s

end Sys2Proof.Machine
end

