-- ==== Sys2Proof/Machine/Fetch.lean ====
section
/-! DEFINITION. Fetching an instruction word (R21 to R24, R269) and choosing what acts next (log 1, 2). -/

namespace Sys2Proof.Machine

/-- Lines of an instruction cache: 48 KiB of 64 bytes (R21). -/
def icLines : Nat := 768

/-- What fetching comes to: a word, or a step taken instead. -/
inductive Fetched where
  | word (s : State) (w : Word128)
  | other (s : State)

/-- The word at an address of a cached line. -/
def ICLine.word (l : ICLine) (pc : Nat) : Word128 := l.bytes.extractLsb' (8 * (pc % 64)) 128

/-- A report that the next instruction takes whatever it is (R174, R227, R326). -/
def Seq.urgent (q : Seq) : Option Report :=
  q.pend.filter fun r => r.cause == cFABRIC || r.cause == cPOISON || q.resumed

/-- A trap of the fetch or of the decoder, which ranks after such a report (R227). -/
def State.fetchTrap (s : State) (t : Trap) : State :=
  match s.sq.urgent with
  | some r => s.trapWith s (s.modSq fun q => { q with pend := none }) ⟨r.cause, r.e0, r.e1⟩
  | none => s.trapWith s s t

/-- Fetches through memory: the line of the word is read and cached (R23, R24). -/
def State.fetchMiss (s : State) (pc : Word) : Fetched :=
  let m := s.mctx s.cur.val (s.sq.mode == 0) 0
  if bf pc 63 57 != 0 then .other (s.fetchTrap ⟨cXLATE, pc, einfoX 11 false 7⟩)
  else match s.translate m.x false true pc 16 with
    | .trap t tr => .other (t.fetchTrap tr)
    | .miss t f g =>
      let r := t.reportMiss f g (some s.lc.id) s.cc.rank none
      .other (r.2.modSq fun q => { q with wait := some (.extentMiss r.1) })
    | .ok t ps =>
      let base := pc.toNat / 64 * 64
      let r := t.readPieces m base (wd base) (ps.map fun p => { p with pa := p.pa / 64 * 64, len := 64 })
      match r.2.bad with
      | some b => .other (r.1.fetchTrap ⟨b.1, pc, 0⟩)
      | none =>
        let l : ICLine := ⟨m.x.fn, base, lineOf r.2.bytes⟩
        .word (r.1.modSq fun q => { q with icache := fifo icLines q.icache l }) (l.word pc.toNat)

/-- Fetches the word at the program counter of the acting sequencer. -/
def State.fetch (s : State) : Fetched :=
  let q := s.sq
  match q.icache.find? fun l => l.fn == s.lc.fn && l.va == q.pc.toNat / 64 * 64 with
  | some l => .word s (l.word q.pc.toNat)
  | none => if s.held then .other s else s.fetchMiss q.pc

/-- Whether the next word of a sequencer is an `END` or a `TAIL`, which in one slot a pre-emption meets after it (R231,
R363). -/
def State.nextStops (s : State) (c : Nat) (q : SeqId) : Bool :=
  match (s.wordAt c ((s.core c).seq q)).map decode with
  | some (.ok (.endSeq _)) | some (.ok (.tail _)) => true
  | _ => false

/-- Whether a sequencer issues: its launch runs, it has not stopped, and no pre-emption waits to be
taken (R63, R231, R261). An access of several rows that has issued goes on (R99, R230). -/
def State.canIssue (s : State) (c : Nat) (q : SeqId) : Bool :=
  let k := s.core c
  !s.frozen && s.powered && (k.seq q).run == .running &&
    ((k.launch.bind s.launch?).map fun l => l.state == .running).getD false &&
    (k.ppre.isNone || k.as.inh || k.xs.inh || (k.seq q).midRows || (k.ppre == some s.cycle && s.nextStops c q))

/-- What a step does: an instruction or a device step to execute, or a state reached without one. -/
inductive Todo where
  | run (s : State) (i : Instr)
  | done (s : State)

/-- A sequencer's turn: fetch, decode, and the RI trap of a word that does not decode (R226, R270). With a false guard
the word takes no report first (R12). -/
def State.turnOf (s : State) (c : CoreId) (q : SeqId) : Todo :=
  if s.canIssue c.val q then
    match ({ s with cur := c, curSeq := q } : State).fetch with
    | .other t => .done t
    | .word t w =>
      match decode w with
      | .ok i => .run t i
      | .error _ =>
        let tr : Trap := ⟨cRI, w.extractLsb' 0 64, w.extractLsb' 64 64⟩
        .done (if t.guard (Fields.unpack w).ctl then t.fetchTrap tr else t.trapWith t t tr)
  else .done s

/-- The MSC of a leaf gives up its least recently used block (log 13). -/
def State.evictBlock (s : State) (leaf : Nat) : State :=
  match s.mscOf leaf with
  | [] => s
  | l :: _ => s.dropMsc leaf (fun x => x.addr / 256 == l.addr / 256) pfFn s.deviceStamp

/-- A sequencer's register takes a double-bit error. -/
def Seq.poisonS (q : Seq) (r : Fin 32) : Seq := { q with sPois := SMap.insert q.sPois r.val (cPOISON, 0) }
def Seq.poisonF (q : Seq) (r : Fin 8) : Seq := { q with fPois := setBit q.fPois r.val true }

/-- A double-bit error strikes a cell of a core: the word is poisoned (R247). -/
def Core.strike (k : Core) (x : Cell) : Core :=
  match x with
  | .s q r => k.modSeq q fun x => x.poisonS r
  | .f q r => k.modSeq q fun x => x.poisonF r
  | .v r w => k.modX fun x => { x with vPois := if x.vPois.contains (512 * r.val + w.val) then x.vPois else (512 * r.val + w.val) :: x.vPois }
  | .p r => k.modX fun x => { x with pPois := setBit x.pPois r.val true }
  | .m r => { k with mPois := setBit k.mPois r.val true }
  | .q n e => { k with q := vset k.q n.val (modAt (vget [] k.q n.val) e.val fun x => { x with bad := some (cPOISON, 0) }) }
  | .bq toXs => { k with bqPois := setBit k.bqPois (if toXs then 0 else 1) true }
  | .tile t => { k with tilePois := setBit k.tilePois t.val true }
  | .k r => { k with kPois := setBit k.kPois r.val true }
  | .save w => { k with savePois := if k.savePois.contains w then k.savePois else w :: k.savePois }

/-- A double-bit error strikes the word of an MSC line that holds an address (R247). -/
def State.mscStrike (s : State) (a : Nat) : State :=
  { s with msc := vset s.msc (homeLeaf a) ((s.mscOf (homeLeaf a)).map fun l =>
      if l.addr = a / 64 * 64 then { l with pois := setBit l.pois (a / 8 % 8) true } else l) }

/-- An error strikes a word of a vault: a correctable one stays in the word until it is corrected. -/
def Vault.strike (v : Vault) (w : Nat) (hard : Bool) : Vault :=
  if hard then { v with pois := SMap.set false v.pois w true } else { v with soft := SMap.set false v.soft w true }

/-- A step of the device; an instruction acts only as a sequencer's word. -/
def State.eventOf (s : State) (i : Instr) : Todo := if i.isWord then .done s else .run s i

/-- What an act does in a package that is frozen or without power: only a package reset and the fall of its rails act
(R261, R262), and the scan chain
reads a frozen package's memory, as ciphertext (R261). -/
def State.stillAct (s : State) : Act → Todo
  | .event i => if i = .packageReset ∨ i = .railsFall then .run s i else .done s
  | .scanRead b => .done (if s.powered then { s with scanned := s.scanned ++ [(b.toNat, s.cipherBlock b.toNat)] } else s)
  | _ => .done s

/-- What an act does while the clocks run. -/
def State.liveAct (s : State) : Act → Todo
  | .issue c q => s.turnOf c q
  | .event i => s.eventOf i
  | .hostWrite f a b => .done (s.writeDirect (ownerTag f.val) a.toNat [b])
  | .hostRead f off => .done (s.hostRead f off.toNat)
  | .memError b integ => .done { s with memPois := SMap.insert s.memPois b.toNat ⟨integ, BitVec.allOnes 256⟩ }
  | .vaultError c w hard => .done (s.modVault c.val fun v => v.strike w hard)
  | .cellError c x => .done (s.modCore c.val fun k => k.strike x)
  | .mscError a => .done (s.mscStrike a.toNat)
  | .evict leaf => .done (s.evictBlock leaf.val)
  | .scanRead _ => .done s

/-- What an act does. -/
def State.actOf (s : State) (a : Act) : Todo := if s.frozen || !s.powered then s.stillAct a else s.liveAct a

end Sys2Proof.Machine
end

