-- ==== Sys2Proof/Machine/Sched.lean ====
section
/-! DEFINITION. What acts next: the agenda's head, or with an empty agenda the default order (log 1, 2),
and the placing of one instruction (log 3). -/

namespace Sys2Proof.Machine

/-- Time passes (log 1), but not in a frozen package or one without power (R261). -/
def State.tick (s : State) (n : Nat) : State :=
  if s.frozen || !s.powered || n == 0 then s else { s with cycle := s.cycle + n, slotLog := [], slotRegs := [], slotAtoms := [] }

/-! ## What may act in one slot (R28, R65, R97, R106, R107, R155, R170, R211, R228, R231, R265, R302, R303; log 56) -/

/-- What an instruction touches that both sequencers of its core reach: nothing, bytes of vaults and memory,
tiles and engine queues, `m` registers and the system registers of `plainSr`, or other registers and queues of the
core. -/
inductive SlotKind where
  | own | bytes | command | regs | shared
  deriving DecidableEq, Repr

/-- Whether what touches `b` on sequencer `q` may act in a slot after what touched `a` on the other: a bank serves the
XS first (R97), tiles and commands the AS (R106, R107); of the registers of `inSlot` each sees what they held before
the slot, and the XS's write stands (R28); the rest of what they share acts in different slots (log 56). -/
def SlotKind.mayFollow (a b : SlotKind) (q : SeqId) : Bool :=
  a == .own || b == .own || (a == .regs && b == .regs) || (a == .bytes && b == .bytes && q == .as) || (a == .command && b == .command && q == .xs)

end Sys2Proof.Machine

namespace Sys2Proof

/-- Whether an operand is an `m` register. -/
def SM.isM : SM → Bool
  | .m _ => true
  | .s _ => false

def Instr.slotKind : Instr → Machine.SlotKind
  | .ld .. | .st .. | .ldv .. | .stv .. | .atom .. | .tbinit .. | .tbarv .. | .tbwait .. => .bytes
  | .gather .. | .scatter .. | .cpy .. | .cpym .. | .tset .. | .tsetDef .. | .mshape .. | .mshapeGrp .. | .mload .. | .mswap _
  | .mmul .. | .mmuls .. | .mzero .. | .mdrain .. | .madpt .. => .command
  | .mov _ d a => if d.isM || a.isM then .regs else .own
  | .mfsr _ _ n none | .mtsr _ n _ none => if Machine.plainSr n.toNat then .regs else .shared
  | .bqsend .. | .bqbr .. | .endSeq _ | .tail _ | .mark .. | .waitmk .. | .xfence .. | .qpush .. | .qpop .. | .qcnt .. | .bar ..
  | .barAll _ | .xch _ | .phase .. | .cspush .. | .cspop .. | .csbal .. | .axlt .. | .apref .. | .apub .. | .aunpin .. | .cnest ..
  | .sendm .. | .rpost .. | .rcancel .. | .rprobe .. | .rld .. | .rst .. | .ratom .. | .msop .. | .cpost .. | .eret _ | .mfsr ..
  | .mtsr .. | .wtclr .. | .wtclrRegs _ | .vainv .. => .shared
  | _ => .own

/-- `END`, which does not retire in the slot of a trap of its core (R231). -/
def Instr.isEnd : Instr → Bool
  | .endSeq _ => true
  | _ => false

def Instr.isRetr : Instr → Bool
  | .rpost .. | .rcancel .. | .rprobe .. => true
  | _ => false

/-- A system register instruction, which with a rank operand acts after every access of its target's own
sequencers (R265). -/
def Instr.isSr : Instr → Bool
  | .mfsr .. | .mtsr .. => true
  | _ => false

end Sys2Proof

namespace Sys2Proof.Machine

/-- The paths of Table 9.1 whose barriers a step may update, from the first to the last, and its core where the step
names one. -/
structure BarPaths where
  first : Nat
  last : Nat
  core : Option CoreId
  deriving DecidableEq, Repr

end Sys2Proof.Machine

namespace Sys2Proof

/-- The paths of a step of an engine; a surprise release counts what it loses on the paths C to N (R134). -/
def Instr.enginePaths : Instr → Option Machine.BarPaths
  | .copyCommandStart c | .copyBlockMove c | .cpymFollowonEnqueue c => some ⟨1, 1, some c⟩
  | .gatherRow c => some ⟨2, 2, some c⟩
  | .matrixCommandExecute c _ | .matrixPass c _ | .matrixCommandFinish c _ => some ⟨3, 3, some c⟩
  | .sidePathLast c _ | .adapterPageTimeout c _ => some ⟨4, 4, some c⟩
  | .messageLandingComplete c => some ⟨5, 5, some c⟩
  | .remoteOpAck _ | .remoteOpTimeout _ | .msopResult _ | .messageRetry _ | .messageSendTimeout _ => some ⟨6, 6, none⟩
  | .cxlSurpriseRelease _ _ => some ⟨1, 5, none⟩
  | _ => none

/-- The path of an instruction that may update a barrier as an engine does when it issues: an operation of the fabric
that fails, or a request to the Retriever. -/
def Instr.issuePath : Instr → Option Nat
  | .rpost .. | .rcancel .. => some 5
  | .sendm .. | .rst .. | .msop .. => some 6
  | _ => none

end Sys2Proof

namespace Sys2Proof.Machine

/-- The paths of what an act did. -/
def actPaths (x : Act × Option Instr) : Option BarPaths :=
  match x.1 with
  | .issue c _ => (x.2.bind Instr.issuePath).map fun n => ⟨n, n, some c⟩
  | .event e => e.enginePaths
  | _ => none

/-- Whether two steps may update barriers of one core. -/
def BarPaths.meets (a b : BarPaths) : Bool := a.core.isNone || b.core.isNone || a.core == b.core

/-- Whether a step of an engine must come before what acted already: engines update barriers in the order of
Table 9.1 (R170). -/
def BarPaths.precedes (b a : BarPaths) : Bool := decide (b.first < a.last) && a.meets b

/-! ### The rank that ends a launch (R228) -/

/-- The launch that an act may end, and the rank for which it does. -/
def State.mayEnd (s : State) (a : Act) : Option (Nat × Nat) :=
  let on (c : CoreId) := (s.core c.val).launch.map fun l => (l, (s.core c.val).rank)
  match a with
  | .issue c _ | .event (.barrierComplete c) | .event (.csbalComplete c) | .event (.phaseBoundary c) => on c
  | .event (.extentMissAbort n) => (s.misses.find? fun m => m.id == n).bind fun m => m.launch.map fun l => (l, m.rank)
  | _ => none

/-- Whether what acted already may have ended the launch of an act for a higher rank than the act does. An aborted miss
is gone: the launch that it ended tells its rank. -/
def State.ranksDown (s : State) (was a : Act) : Bool :=
  match s.mayEnd a with
  | none => false
  | some y =>
    match was with
    | .event (.extentMissAbort _) => ((s.launch? y.1).map fun l => l.state != .running && decide (y.2 < l.frank)).getD false
    | _ => ((s.mayEnd was).map fun x => x.1 == y.1 && decide (y.2 < x.2)).getD false

/-! ### Atomic operations on one line (R155) -/

/-- Host bytes that an operation over the fabric reaches, where its page translates. -/
def State.opBytes (s : State) (p : RemoteOp) : List (Nat × Nat) := s.hostSpans (s.remCtx p).x p.addr (p.ty.width / 8)

/-- Whether an atomic operation has acted in this slot on a line of some host bytes. -/
def State.lineTaken (s : State) (bs : List (Nat × Nat)) : Bool :=
  bs.any fun b => s.slotAtoms.any fun n => decide (b.1 / 64 ≤ n) && decide (n ≤ (b.1 + b.2 - 1) / 64)

/-- Whether an operation over the fabric works on a line that an atomic operation has taken: of an `MSOP` the device
does not foresee which lines. -/
def State.opTaken (s : State) (p : RemoteOp) : Bool :=
  match p.kind with
  | .rld => false
  | .rst => p.add && s.lineTaken (s.opBytes p)
  | .ratom => s.lineTaken (s.opBytes p)
  | .msop => !s.slotAtoms.isEmpty

/-- Whether an act is an atomic operation on a line that one has taken in this slot. -/
def State.atomTaken (s : State) (a : Act) (t : Option (State × Instr)) : Bool :=
  match a, t with
  | .issue c _, some (u, .atom _ ty _ _ _ _ _ p _ _) =>
    bf (u.rs p) 63 57 == 0 && s.lineTaken (u.hostSpans (u.xctx c.val (u.sq.mode == 0)) (u.rs p) (ty.width / 8))
  | .event (.remoteOpArrive p), _ => p.dst == s.nodeId && s.opTaken p
  | .event (.extentMissRetry n), _ => s.remWaits.any fun w => w.miss == n && s.opTaken w.op
  | _, _ => false

/-! ### What waits for the next slot -/

/-- Whether a sequencer's turn on `c` must wait for the next slot after an act of this one. -/
def State.turnAfter (s : State) (c : CoreId) (q : SeqId) (i : Option Instr) (x : Act × Option Instr) : Bool :=
  let is (p : Instr → Bool) : Bool := (i.map p).getD false
  let was (p : Instr → Bool) : Bool := (x.2.map p).getD false
  match x.1 with
  | .issue d r =>
    if d = c then
      r == q || is Instr.isEnd || was Instr.isEnd ||
        !((x.2.map Instr.slotKind).getD .own).mayFollow ((i.map Instr.slotKind).getD .own) q
    else s.ranksDown x.1 (.issue c q) || (was Instr.isSr && is Instr.isSr)
  | .event e => s.ranksDown x.1 (.issue c q) ||
    (is (fun i => i.slotKind == .bytes || i.slotKind == .command || i.isRetr) && (e.enginePaths.map fun p => p.meets ⟨0, 0, some c⟩).getD false)
  | _ => false

/-- Whether a step of the device must wait for the next slot after an act of this one: engines update barriers in the
order of Table 9.1 (R170), a launch ends by its lower rank (R228), an arrival is handled before a request (R211), an
admission counts before a completion (R65). -/
def State.eventAfter (s : State) (e : Instr) (x : Act × Option Instr) : Bool :=
  s.ranksDown x.1 (.event e) ||
    (match actPaths x, e.enginePaths with
      | some a, some b => b.precedes a
      | _, _ => false) ||
    (match x.1, e with
      | .issue _ _, .messageArrive _ => (x.2.map Instr.isRetr).getD false
      | .event f, .recordAdmit _ => match f with
        | .recordAdmit _ | .launchPortWrite _ _ _ _ => false
        | _ => true
      | _, _ => false)

/-- The state and the instruction that an act executes. -/
def Todo.runs : Todo → Option (State × Instr)
  | .run s i => some (s, i)
  | .done _ => none

/-- Whether an act must wait for the next slot. -/
def State.clash (s : State) (a : Act) (t : Todo) : Bool :=
  s.atomTaken a t.runs || match a with
  | .issue c q => s.slotLog.any (s.turnAfter c q (t.runs.map Prod.snd))
  | .event e => s.slotLog.any (s.eventAfter e)
  | _ => false

/-- What an act comes to, noted for the rest of its slot. -/
def Todo.log (a : Act) : Todo → Todo
  | .run s i => .run { s with slotLog := s.slotLog ++ [(a, some i)] } i
  | .done s => .done { s with slotLog := s.slotLog ++ [(a, none)] }

/-- An act in the present slot, or where what acted in it forbids that, in the next. -/
def State.actNow (s : State) (a : Act) : Todo :=
  let t := s.actOf a
  (if s.clash a t then (s.tick 1).actOf a else t).log a

/-- The next move of the exchange steps that run, which falls before a slot: a beat moves in its own slot, after what
else acts in it (R60). -/
def State.forced (s : State) (before : Nat) : Option (Nat × Instr) :=
  if s.frozen || !s.powered then none
  else (s.launches.filterMap s.stepNext).foldl (fun o x => match o with
    | some y => if x.1 < y.1 then some x else some y
    | none => if x.1 < before then some x else none) none

/-! ## The default order (log 2) -/

/-- Events as agenda actions. -/
def events (is : List Instr) : List Act := is.map Act.event

/-- A list where a condition holds. -/
def given {α : Type} (b : Bool) (l : List α) : List α := if b then l else []

/-- What may act on a core: its sequencers, its collectives, its results and its engines. -/
def State.coreActs (s : State) (c : CoreId) : List Act :=
  let k := s.core c.val
  let waits (p : Wait → Bool) : Bool := (k.as.wait.map p).getD false || (k.xs.wait.map p).getD false
  given k.launch.isSome [.issue c .as, .issue c .xs] ++
  events (
    given (waits fun w => match w with | .bar _ _ _ => true | _ => false) [.barrierComplete c] ++
    given (waits fun w => match w with | .csbal _ _ _ _ => true | _ => false) [.csbalComplete c] ++
    given (waits fun w => match w with | .phase _ _ => true | _ => false) [.phaseBoundary c] ++
    given (waits fun w => match w with | .until _ => true | _ => false) [.waitiDeadline c .as, .waitiDeadline c .xs] ++
    given (!k.beats.isEmpty) [.exchangeBeat c] ++
    given (!k.pipe.isEmpty) [.sfuResultLand c] ++
    given (!k.as.results.isEmpty) [.loadResult c .as, .mulDivResult c .as] ++
    given (!k.xs.results.isEmpty) [.loadResult c .xs, .mulDivResult c .xs] ++
    given (!k.copyQ.isEmpty || s.launches.any fun l => l.leftC.any fun x => x.1 == c.val)
      [.copyCommandStart c, .copyBlockMove c, .cpymFollowonEnqueue c] ++
    given (!k.gathQ.isEmpty || s.launches.any fun l => l.leftG.any fun x => x.1 == c.val) [.gatherRow c] ++
    (k.matQ.flatMap fun (x : MatCmd) =>
      [.matrixCommandExecute c x.ticket, .matrixPass c x.ticket, .sidePathLast c x.ticket, .adapterPageTimeout c x.ticket, .matrixCommandFinish c x.ticket]) ++
    given (k.pins.toList.any fun p => (p.map fun p => p.count == 0).getD false) ((List.finRange 32).map fun p => .pinFree c p) ++
    ((List.finRange 4).flatMap fun i => given ((vget none k.k i.val).isSome) ((List.finRange 5).map fun e => .markerRetire c i e)) ++
    given (!k.vault.landing.isEmpty) ((List.finRange 16).map fun b => .landingRowRetire c b) ++
    given (!k.vault.evac.isEmpty) ((List.finRange 16).map fun b => .evacuationChunkCopy c b) ++
    given (!k.lands.isEmpty) [.messageLandingComplete c] ++
    given k.ppre.isSome [.contextSave c, .preemptTimeout c] ++
    given (k.wrapped != 0) ((List.finRange 8).map fun n => .counterWrap c n))

/-- What may act for a launch. -/
def launchActs (l : Launch) : List Act :=
  events (match l.state with
    | .port => [.recordAdmit l.id]
    | .args _ => [.recordAdmit l.id]
    | .running => given l.flagX [.exchangeStepStart l.id, .exchangeStepEnd l.id]
    | .draining => [.launchDrainComplete l.id] ++ given l.flagD [.pairedCommit l.id]
    | .recording _ => [.launchDrainComplete l.id]
    | .tracker => [.trackerComplete l.id]
    | _ => [])

/-- What may act for the package. -/
def State.deviceActs (s : State) : List Act :=
  events (
    given (s.launches.any Launch.inQueue) [.regionBalance, .launchPlace 0, .launchPlace 1, .class0Preemption 0, .class0Preemption 1] ++
    (s.vreqs.flatMap fun r => [.remoteVaultAccess r.id, .remoteVaultReply r.id]) ++
    (s.net.map fun p => .remoteOpArrive p) ++ (s.netMsgs.map fun m => .messageArrive m) ++ (s.acks.map fun a => .remoteOpAck a) ++
    ((List.range s.inflight.length).flatMap fun n => [.messageRetry n, .messageSendTimeout n, .remoteOpTimeout n, .msopResult n]) ++
    given (!s.hbm.isEmpty) [.hbmRequestComplete] ++
    (s.afetch.map fun f => .adapterPageArrive f.handle f.ver f.pageB .good) ++
    given (s.pfReg 0x21C00 != 0) [.sliceBoundary] ++
    given (s.vpStat == 2) [.vpRailReached] ++
    ((List.finRange 65).flatMap fun f => given (!(s.fnRegs f.val).held.isEmpty) [.eventHeldFlush f]) ++
    ((List.finRange 2).flatMap fun l => given ((vget none s.retiring l.val).isSome) [.logicalMapChange l]))

/-- Everything that may act. -/
def State.candidates (s : State) : List Act :=
  s.launches.flatMap launchActs ++ s.deviceActs ++ (List.finRange 384).flatMap s.coreActs

/-- The default order with an empty agenda: what may act takes turns, a slot each. -/
def State.byDefault (s : State) : Todo :=
  let as_ := s.candidates
  match as_[s.turn % as_.length]? with
  | none => .done (s.tick 1)
  | some a => (({ s with turn := s.turn + 1 } : State).tick 1).actOf a

/-- The slots after which the agenda's head acts. -/
def State.headSlots (s : State) : Nat := ((s.agenda.head?).map Entry.slots).getD 1

/-- What the next step does: a move of an exchange step that falls before, or the agenda's head. -/
def State.choose (s : State) : Todo :=
  match s.forced (s.cycle + s.headSlots) with
  | some x =>
    let n := x.1 - s.cycle
    let es := match s.agenda with
      | e :: es => { e with slots := e.slots - n } :: es
      | [] => []
    (({ s with agenda := es } : State).tick n).actOf (.event x.2)
  | none =>
    match s.agenda with
    | e :: es => (({ s with agenda := es } : State).tick e.slots).actNow e.act
    | [] => s.byDefault

/-- The launch record of one core: WID and HGT 1. -/
def oneCore : Line := BitVec.ofNat 512 (0x0101 * 2 ^ 192)

/-- A running launch of one core for a placed word. -/
def placedLaunch (id : Nat) : Launch := { Launch.blank with id := id, record := oneCore, state := .running }

/-- Places an instruction word (log 3). -/
def State.placeWord (s : State) (nbits w : Nat) : State :=
  let word := w % 2 ^ nbits % 2 ^ 128
  let q : SeqId := match decodeTableWord nbits w with
    | some i => if i.runsOn .as then .as else .xs
    | none => .as
  let l := placedLaunch s.nextId
  let put (x : Seq) : Seq := { x with
    run := .running
    wait := none
    icache := ⟨l.fn, x.pc.toNat / 64 * 64, BitVec.ofNat 512 (word * 2 ^ (8 * (x.pc.toNat % 64)))⟩ :: x.icache }
  let s := { s with launches := l :: s.launches, nextId := s.nextId + 1, agenda := [⟨0, .issue ⟨0, by decide⟩ q⟩], slotLog := [], slotRegs := [], slotAtoms := [] }
  s.modCore 0 fun k => ({ k with launch := some l.id, ppre := none } : Core).modSeq q put

end Sys2Proof.Machine
end

