-- ==== Sys2Proof/Machine/Step.lean ====
section
/-! DEFINITION. One step of the package (log 1, 2), and the placing of an instruction where the next
step fetches (log 3). -/

namespace Sys2Proof.Machine

/-- One step: what the agenda, or with an empty agenda the default order, lets act next. -/
def step (s : State) : Host.Outcome State Fault Refusal :=
  match s.choose with
  | .run t i => exec i t
  | .done t => .next t

/-- The state with an instruction placed in the instruction cache of a sequencer of core 0, which a
launch of one core occupies, and with that sequencer next on the agenda (log 3). -/
def State.withFetchWord (s : State) (nbits w : Nat) : State := s.placeWord nbits w

end Sys2Proof.Machine
end

