-- ==== Sys2Proof/Safety.lean ====
section
/-! DEFINITION. The terms that statements use: when an instruction issues with its own effect, what an
outcome completes with, and which part of the state an instruction leaves as it was. -/

namespace Sys2Proof.Machine

/-! ## Completion -/

/-- The step goes on, and the next state meets `P`. -/
def Gives (o : Host.Outcome State Fault Refusal) (P : State → Prop) : Prop := ∃ t, o = .next t ∧ P t

/-- An instruction issues with its own effect: it has not been taken up yet, and after its STALL slots its
scalar guard holds (R272) and is not poisoned (R247), no asynchronous report comes first (R227), it names a listed
system register if any (R277), the sequencer and the mode may run it (R275, R12), no register that it names awaits a result (R323, R331) and none that it reads is poisoned
(R247). The state that it then acts on is `s.startIssue c`. -/
structure Issues (i : Instr) (c : Ctl) (s : State) : Prop where
  ctl : i.ctl = some c
  free : s.held = false
  guarded : (s.startIssue c).guard c = true
  sure : (s.startIssue c).guardBad c = false
  quiet : (s.startIssue c).reportFor i = none
  named : unlisted i = false
  runs : (s.startIssue c).wrongSeq i = false
  allowed : (s.startIssue c).privFails i = false
  settled : (s.startIssue c).interlocked i.regs = false
  clean : (s.startIssue c).srcPoison i i.regs c = none

/-- An instruction that issues takes a trap: it enters the handler, or ends the launch, as R225 says, EINFO0 and EINFO1
tagged with what it has read (R257). -/
def State.trapped (s : State) (i : Instr) (c : Ctl) (t : Trap) : State :=
  (s.startIssue c).trapWith s ((s.startIssue c).markInfo t ((s.startIssue c).srcSec i.regs c)) t

def Traps (i : Instr) (c : Ctl) (s : State) (t : Trap) : Prop := exec i s = .next (s.trapped i c t)

/-! ## Values as the spec reads and writes them -/

/-- The low w bits of a pattern, w the width of the type (R299). -/
def tyLow (ty : Ty) (x : Word) : BitVec ty.width := x.setWidth ty.width

/-- Value(x, TY) of R299: the low w bits, signed or unsigned as TY says. -/
def tyRead (ty : Ty) (x : Word) : Int := if ty.signed then (tyLow ty x).toInt else (tyLow ty x).toNat

/-- Extend(y, TY) of R297: sign-extended for a signed type, else zero-extended. -/
def tyExtend (ty : Ty) (y : BitVec ty.width) : Word := if ty.signed then y.signExtend 64 else y.setWidth 64

/-- Extend(x mod 2^w, TY) of an exact integer (R299). -/
def tyWrap (ty : Ty) (x : Int) : Word := tyExtend ty (BitVec.ofInt ty.width x)

/-- Least and greatest value of an integer type (R79). -/
def tyMin (ty : Ty) : Int := if ty.signed then -2 ^ (ty.width - 1) else 0
def tyMax (ty : Ty) : Int := if ty.signed then 2 ^ (ty.width - 1) - 1 else 2 ^ ty.width - 1

/-- Clamp(x, TY) of R299. -/
def tyClamp (ty : Ty) (x : Int) : Int := max (tyMin ty) (min (tyMax ty) x)

/-- A condition between two values (R312, R377); `un` holds of no integers. -/
def condHolds (c : Cond) (x y : Int) : Prop :=
  match c with
  | .eq => x = y
  | .ne => x ≠ y
  | .lt => x < y
  | .le => x ≤ y
  | .gt => y < x
  | .ge => y ≤ x
  | .un => False

/-! ## Vector operands and results (R13, R14, R30) -/

/-- The pattern that a register, or for a 64-bit type a pair, holds in a lane. -/
def State.regLane (s : State) (ty : Ty) (r : Fin 32) (l : Nat) : Word :=
  if ty.is64 then s.pairLane r l else (lane (s.rv r) l).setWidth 64

/-- The pattern of operand B in a lane. -/
def State.opLane (s : State) (ty : Ty) (b : VOp) (l : Nat) : Word :=
  if ty.is64 then s.vopPair b l else (s.vopLane b l).setWidth 64

/-- Elements of a type in a lane. -/
def tyCount (ty : Ty) : Nat := if ty.is64 then 1 else 32 / ty.width

/-- An element of a lane's pattern, the first lowest. -/
def part (ty : Ty) (x : Word) (k : Nat) : BitVec ty.width := x.extractLsb' (ty.width * k) ty.width

/-- The integer that a pattern stands for. -/
def partInt (ty : Ty) (x : BitVec ty.width) : Int := if ty.signed then x.toInt else x.toNat

/-- Whether the lane guard selects a lane. -/
def State.isOn (s : State) (c : Ctl) (l : Nat) : Prop := (s.rp c.lPred).getLsbD l = !c.lNeg

/-- Every element of a selected lane of d is what `f` gives, and the other lanes keep theirs. -/
def Elements (u t : State) (c : Ctl) (ty : Ty) (d : Fin 32) (f : Nat → Nat → BitVec ty.width) : Prop :=
  ∀ l k : Nat, l < 1024 → k < tyCount ty →
    (u.isOn c l → part ty (t.regLane ty d l) k = f l k) ∧ (¬u.isOn c l → t.regLane ty d l = u.regLane ty d l)

/-- As `Elements` for whole lanes. -/
def LaneWords (u t : State) (c : Ctl) (ty : Ty) (d : Fin 32) (f : Nat → Word) : Prop :=
  ∀ l : Nat, l < 1024 →
    (u.isOn c l → t.regLane ty d l = f l) ∧ (¬u.isOn c l → t.regLane ty d l = u.regLane ty d l)

/-- Bit l of a predicate is `f l` in a selected lane, and as before in the others; p15 stays all ones. -/
def PredBits (u t : State) (c : Ctl) (d : Fin 16) (f : Nat → Prop) : Prop :=
  ∀ l : Nat, l < 1024 →
    (d ≠ 15 → u.isOn c l → ((t.rp d).getLsbD l = true ↔ f l)) ∧
    (d ≠ 15 → ¬u.isOn c l → (t.rp d).getLsbD l = (u.rp d).getLsbD l) ∧ (d = 15 → (t.rp d).getLsbD l = true)

/-- A generator after some steps (R78), and what rounding event `k` of a lane reads: bits 31:8 of the state
after `k + 1` steps under SR, and nothing otherwise. -/
def genAt (g : Word32) : Nat → Word32
  | 0 => g
  | n + 1 => genAt (genNext g) n

def State.drawAt (u : State) (mode : Rnd) (l k : Nat) : Nat :=
  if mode = .sr then (genAt (vget 0 u.cc.x.gen l) (k + 1)).toNat / 256 else 0

/-- The generators after an instruction: those of the selected lanes have advanced `n` times under SR. -/
def Draws (u t : State) (c : Ctl) (mode : Rnd) (n : Nat) : Prop :=
  ∀ l : Nat, l < 1024 → vget 0 t.cc.x.gen l =
    if mode = .sr ∧ (u.rp c.lPred).getLsbD l = !c.lNeg then genAt (vget 0 u.cc.x.gen l) n else vget 0 u.cc.x.gen l

/-! ## Frames -/

/-- Nothing outside the acting core changes: no other core, and nothing that the package holds beside its
cores (memory, caches, registers of functions, launches). -/
structure OutsideSame (s t : State) : Prop where
  device : t = { s with cores := t.cores }
  cores : ∀ d : Nat, d ≠ s.cur.val → t.core d = s.core d

/-- A core without its sequencers, its vector unit, its m registers and its performance counters: its vault,
queues, tiles, markers, engines, accumulator and special registers, but for the tags of tiles, markers and the nest and
the poison of markers. -/
def Core.rest (k : Core) : Core :=
  { k with
    as := Seq.reset, xs := Seq.reset, x := XUnit.reset, m := Vector.replicate 16 0, mSec := 0, mPois := 0
    kPois := 0, tileSec := 0, kSec := 0, nestSec := 0
    cnt := Vector.replicate 8 0, cntcfg := Vector.replicate 8 0, wrapped := 0 }

/-- A sequencer without its registers s and f, their tags and poison, its pc, its pending results, its wait and
whether it has just resumed: its mode, its exception registers with their tags, its pending report, its fences and
whether it runs. -/
def Seq.rest (q : Seq) : Seq :=
  { q with
    s := Vector.replicate 32 0, f := Vector.replicate 8 false, pc := 0, results := [], wait := none, stall := none
    sSec := 0, fSec := 0, sPois := [], fPois := 0, resumed := false }

/-- The vector unit without its registers v and p, their tags, VSTAT, the generators and the issue counts:
RMODE, SEED and the pending SFU results. -/
def XUnit.rest (x : XUnit) : XUnit :=
  { x with
    v := Vector.replicate 32 (Vector.replicate 1024 0), p := Vector.replicate 16 0, vSec := 0, pSec := 0, vPois := [], pPois := 0
    vstat := 0, vflags := [], gen := Vector.replicate 1024 0, count := 0, hcount := 0 }

/-- The registers that some lists do not name keep their values. -/
structure RegsSame (u : RegUse) (s t : State) : Prop where
  other : t.cc.seq (SeqId.other s.curSeq) = s.cc.seq (SeqId.other s.curSeq)
  sRegs : ∀ r, r ∉ u.sW → t.rs r = s.rs r
  flags : ∀ r, r ∉ u.fW → t.rf r = s.rf r
  vRegs : ∀ r, r ∉ u.vW → t.rv r = s.rv r
  preds : ∀ r, r ∉ u.pW → t.rp r = s.rp r
  mRegs : ∀ r : Fin 16, r ∉ u.mW → vget 0 t.cc.m r.val = vget 0 s.cc.m r.val

/-- Retiring: `r` is `t` with the word counted and passed and the written registers tagged. No value of a
register, no memory and no special register but the performance counters differs, and the pc is `pc`. -/
structure Retires (pc : Word) (t r : State) : Prop where
  outside : OutsideSame t r
  core : r.cc.rest = t.cc.rest
  seq : r.sq.rest = t.sq.rest
  unit : r.cc.x.rest = t.cc.x.rest
  regs : RegsSame {} t r
  vstat : r.cc.x.settleAll.vstat = t.cc.x.settleAll.vstat
  gen : r.cc.x.gen = t.cc.x.gen
  results : r.sq.results = t.sq.results
  free : r.sq.wait = none
  pc : r.sq.pc = pc

/-- What writing registers may change: everything but the registers that `u` names as destinations, their
tags, VSTAT, the generators, the counters and the pc is as before. -/
structure Writes (u : RegUse) (s t : State) : Prop where
  outside : OutsideSame s t
  core : t.cc.rest = s.cc.rest
  seq : t.sq.rest = s.sq.rest
  unit : t.cc.x.rest = s.cc.x.rest
  regs : RegsSame u s t
  results : t.sq.results = s.sq.results

/-- Flags that a step adds to VSTAT, those of vector results still to be written included (R82). -/
def Raises (s t : State) (fl : Flags) : Prop := t.cc.x.settleAll.vstat = s.cc.x.settleAll.vstat ||| fl

/-- No flag is raised and no generator advances. -/
def Silent (s t : State) : Prop := Raises s t 0 ∧ t.cc.x.gen = s.cc.x.gen

/-- An instruction that writes registers only completes: it changes nothing but the registers it names as
destinations, the pc becomes `pc`, and the next state meets `P`. -/
def GoesTo (i : Instr) (c : Ctl) (s : State) (pc : Word) (P : State → Prop) : Prop :=
  Gives (exec i s) fun t => Writes i.regs (s.startIssue c) t ∧ t.sq.pc = pc ∧ P t

/-- As `GoesTo`, the pc moving past the instruction's word. -/
def WritesRegs (i : Instr) (c : Ctl) (s : State) (P : State → Prop) : Prop := GoesTo i c s (s.sq.pc + 16) P

/-- An instruction that acts on its core alone completes. Against `u` it changes no more of the registers, the
sequencers and the vector unit than `GoesTo` says, the pc becomes `pc`, and the next state meets `P`, which says
what becomes of the rest of the core (`Core.rest`) and of the pending results. -/
def ActsFrom (u : State) (i : Instr) (s : State) (pc : Word) (P : State → Prop) : Prop :=
  Gives (exec i s) fun t => OutsideSame u t ∧ t.sq.rest = u.sq.rest ∧ t.cc.x.rest = u.cc.x.rest ∧ RegsSame i.regs u t ∧
    t.sq.pc = pc ∧ P t

/-- As `ActsFrom`, from the state after the STALL slots. -/
def Acts (i : Instr) (c : Ctl) (s : State) (pc : Word) (P : State → Prop) : Prop := ActsFrom (s.startIssue c) i s pc P

/-- An instruction that acts beyond its core, on global memory or on shared units, completes: no other core
changes, and of its own core what `ActsFrom` says. -/
def ActsWide (u : State) (i : Instr) (s : State) (pc : Word) (P : State → Prop) : Prop :=
  Gives (exec i s) fun t => t.cur = u.cur ∧ t.curSeq = u.curSeq ∧ (∀ d : Nat, d ≠ u.cur.val → t.core d = u.core d) ∧
    t.sq.rest = u.sq.rest ∧ t.cc.x.rest = u.cc.x.rest ∧ RegsSame i.regs u t ∧ t.sq.pc = pc ∧ P t

/-- A vault with no row moved, lost or being moved, and its bytes in canonical form. -/
structure Vault.Plain (v : Vault) : Prop where
  bytes : v.bytes.wf = true
  remap : v.remap = []
  lost : v.lost = []
  evac : v.evac = []

/-- Of the bytes that an owner reads in a plain vault only those from `off` on change, and become `bs`. -/
def VaultWrites (owner : BitVec 8) (off : Nat) (bs : List Byte) (v w : Vault) : Prop :=
  v.Plain → ∀ a : Nat, w.byte owner a = if off ≤ a ∧ a < off + bs.length then bs.getD (a - off) 0 else v.byte owner a

/-- The pieces of a translated store take its bytes in order. -/
def Memory.storePieces (m : Memory) : List Piece → List Byte → Memory
  | [], _ => m
  | p :: ps, bs => Memory.storePieces (m.write p.pa (bs.take p.len)) ps (bs.drop p.len)

/-- No piece of an access lies in a device, and the launch is not a paired one. -/
def Ordinary (s : State) (ps : List Piece) : Prop := s.lc.flagD = false ∧ ∀ p ∈ ps, p.page.ca ≠ 3

/-- No line of an MSC holds a poisoned word (R247). -/
def State.CleanMsc (s : State) : Prop := ∀ leaf, ∀ l ∈ s.mscOf leaf, l.pois = 0

/-- What an access of several bank rows has done (R99): nothing before its first row. -/
def State.rowsSoFar (s : State) : RowsDone := s.rowsDone.getD RowsDone.start

/-- One row of an access of several bank rows performs, and others are still to come: `w` is what has been done then.
No register and nothing of the core changes but what `P` says, and the pc stays. -/
def Pauses (i : Instr) (c : Ctl) (s : State) (w : RowsDone) (P : State → Prop) : Prop :=
  Gives (exec i s) fun t => OutsideSame (s.startIssue c) t ∧ t.sq.rest = s.sq.rest ∧ t.cc.x.rest = (s.startIssue c).cc.x.rest ∧
    RegsSame {} (s.startIssue c) t ∧ t.sq.pc = s.sq.pc ∧ t.sq.results = s.sq.results ∧ t.sq.wait = some (.rows w) ∧ P t

/-- An instruction is taken up and waits, as `w` says, for the step that completes it: no register, no
memory and nothing of the core changes but its wait, and the next state meets `P`. -/
def Arrives (i : Instr) (c : Ctl) (s : State) (w : Wait) (P : State → Prop) : Prop :=
  Gives (exec i s) fun t => OutsideSame (s.startIssue c) t ∧ t.cc.rest = s.cc.rest ∧ RegsSame {} (s.startIssue c) t ∧
    t.cc.x.rest = (s.startIssue c).cc.x.rest ∧ t.sq.pc = s.sq.pc ∧ t.sq.results = s.sq.results ∧ t.sq.wait = some w ∧ P t

/-- A copy may be queued (R104, R165, R170, R315): its named tiles differ and stand as they must, the queue has room,
the barrier and the shape record are aligned, every pointer names what it may, and the block size is 1 to 4096. -/
structure CopyReady (u : State) (dst src : TS) (n : Word) (bar sh : Option (Fin 32)) : Prop where
  dstTile : ∀ r, dst = .t r → (u.cc.tile r).state = .empty ∧ u.pairBarrier r bar = false ∧ src ≠ .t r
  srcTile : ∀ r, src = .t r → (u.cc.tile r).state = .ready
  room : u.cc.copyFull = false
  barAligned : ∀ r, bar = some r → (u.rs r).toNat % 16 = 0
  shAligned : ∀ r, sh = some r → (u.rs r).toNat % 64 = 0
  dstPtr : u.copyPtr true dst = none
  srcPtr : u.copyPtr false src = none
  barPtr : u.barPtr bar = none
  size : 1 ≤ n.toNat ∧ n.toNat ≤ 4096

/-- The copy that `CPY` or `CPYM` queues: its operands, nest and bank formats as they stand at issue (R101, R163). -/
def State.copyOf (u : State) (c : Ctl) (dst src : TS) (n : Word) (bar : Option (Fin 32)) (shape : Option Line) (follow : Option Follow) : CopyCmd where
  ticket := u.cc.ticket
  src := u.tsPtr src
  dst := u.tsPtr dst
  srcTile := tsTile src
  dstTile := tsTile dst
  b := n.toNat
  nest := u.cc.nest
  bar := bar.map fun r => (u.rs r).toNat % 2 ^ 21
  shape := shape
  fmts := u.cc.bfmt
  follow := follow
  started := false
  next := 0
  part := none
  missed := none
  landed := false
  user := u.sq.mode == 0
  hint := c.hint.toNat

/-- A barrier's fields are within their widths (Table 10.4). -/
def Bar.Fits (b : Bar) : Prop := b.ph < 16 ∧ b.arr < 2 ^ 20 ∧ b.rld < 2 ^ 20 ∧ -2 ^ 31 ≤ b.sec ∧ b.sec < 2 ^ 31

/-- A stream instruction may act on its tile (R318). -/
def StreamReady (u : State) (t : Fin 32) : Prop :=
  (u.cc.tile t).state = .ready ∧ u.classHeld 0 hereTarget = false ∧
  (∃ cap, streamCap (u.cc.tile t).size = some cap ∧ (u.stream u.cur.val t).fill ≤ cap) ∧
  u.streamBad u.cur.val (u.stream u.cur.val t) 0 0 = none

/-- A register after a write: s0 reads 0 (R25). -/
def Holds (t : State) (d : Fin 32) (v : Word) : Prop := t.rs d = if d = 0 then 0 else v

end Sys2Proof.Machine
end

