-- ==== Sys2Proof/Certificates/Slice0/Obligations.lean ====
section
/-! DEFINITION. The statements for the provers. `s.startIssue c` is the state on which an instruction acts: `s`
after the instruction's STALL slots (R33, R272). `WritesRegs` says that an instruction completes, with its
frame; `Holds` what an s register holds afterwards. -/

open Sys2Proof Sys2Proof.Machine

/-! ## Scalar instructions -/

/-- R299: `ADD` and `SUB` form the exact sum or difference of Value(sa, TY) and Value(OB, TY), clamp it under
SAT or keep it modulo 2^w, and write it to sd, extended; nothing else changes but the pc, and no flag is raised.
R300: `AND`, `OR` and `XOR` combine sa and OB bit by bit over w bits and write the result to sd, extended. R356:
shifts and rotates by the whole 64-bit value of OB, read unsigned. -/
def Obligations.scalarArithmetic : Prop :=
  (∀ (c : Ctl) (ty : Ty) (sat : Bool) (d a : Fin 32) (b : SOp) (s : State), ty.scalar = true →
      let x := tyRead ty (s.rs a)
      let y := tyRead ty (s.sop b)
      let out (v : Int) : Word := tyWrap ty (if sat then tyClamp ty v else v)
      (Issues (.add c ty sat d a b) c s → WritesRegs (.add c ty sat d a b) c s fun t =>
        Holds t d (out (x + y)) ∧ Silent (s.startIssue c) t) ∧
      (Issues (.sub c ty sat d a b) c s → WritesRegs (.sub c ty sat d a b) c s fun t =>
        Holds t d (out (x - y)) ∧ Silent (s.startIssue c) t)) ∧
  (∀ (c : Ctl) (ty : Ty) (d a : Fin 32) (b : SOp) (s : State), ty.scalar = true →
      let x := tyLow ty (s.rs a)
      let y := tyLow ty (s.sop b)
      (Issues (.and c ty d a b) c s → WritesRegs (.and c ty d a b) c s fun t =>
        Holds t d (tyExtend ty (x &&& y)) ∧ Silent (s.startIssue c) t) ∧
      (Issues (.or c ty d a b) c s → WritesRegs (.or c ty d a b) c s fun t =>
        Holds t d (tyExtend ty (x ||| y)) ∧ Silent (s.startIssue c) t) ∧
      (Issues (.xor c ty d a b) c s → WritesRegs (.xor c ty d a b) c s fun t =>
        Holds t d (tyExtend ty (x ^^^ y)) ∧ Silent (s.startIssue c) t)) ∧
  (∀ (c : Ctl) (ty : Ty) (ar : Bool) (d a : Fin 32) (b : SOp) (s : State), ty.scalar = true →
      let x := tyLow ty (s.rs a)
      let n := (s.sop b).toNat
      (Issues (.shl c ty d a b) c s → WritesRegs (.shl c ty d a b) c s fun t =>
        Holds t d (tyExtend ty (x <<< n)) ∧ Silent (s.startIssue c) t) ∧
      (Issues (.shr c ty ar d a b) c s → WritesRegs (.shr c ty ar d a b) c s fun t =>
        Holds t d (tyExtend ty (if ar then x.sshiftRight n else x >>> n)) ∧ Silent (s.startIssue c) t) ∧
      (Issues (.rol c ty d a b) c s → WritesRegs (.rol c ty d a b) c s fun t =>
        Holds t d (tyExtend ty (x.rotateLeft n)) ∧ Silent (s.startIssue c) t))

/-- R312, R338, R358: `CMP` writes whether its condition holds between the two values to fd (f7 stays 1); `MIN`,
`MAX` and `SEL` pick one of them. R305, R306, R311, R349: the bit-field, leading-zero and population
instructions. -/
def Obligations.scalarPickAndField : Prop :=
  (∀ (c : Ctl) (ty : Ty) (cond : Cond) (fd fc : Fin 8) (d a : Fin 32) (b : SOp) (s : State), ty.scalar = true →
      let x := tyRead ty (s.rs a)
      let y := tyRead ty (s.sop b)
      (Issues (.cmp c ty cond fd a b) c s → WritesRegs (.cmp c ty cond fd a b) c s fun t =>
        (t.rf fd = true ↔ fd = 7 ∨ condHolds cond x y) ∧ Silent (s.startIssue c) t) ∧
      (Issues (.min c ty d a b) c s → WritesRegs (.min c ty d a b) c s fun t =>
        Holds t d (tyWrap ty (min x y)) ∧ Silent (s.startIssue c) t) ∧
      (Issues (.max c ty d a b) c s → WritesRegs (.max c ty d a b) c s fun t =>
        Holds t d (tyWrap ty (max x y)) ∧ Silent (s.startIssue c) t) ∧
      (Issues (.sel c ty d a b fc) c s → WritesRegs (.sel c ty d a b fc) c s fun t =>
        Holds t d (tyWrap ty (if s.rf fc then x else y)) ∧ Silent (s.startIssue c) t)) ∧
  (∀ (c : Ctl) (ty : Ty) (d a : Fin 32) (b : SOp) (s : State), ty.scalar = true →
      let x := tyLow ty (s.rs a)
      let pos := (s.sop b).toNat % 64
      let len := min ((s.sop b).toNat / 256 % 128) 64
      (Issues (.clz c ty d a) c s → WritesRegs (.clz c ty d a) c s fun t =>
        ∃ n, n ≤ ty.width ∧ Holds t d (wd n) ∧ x.toNat < 2 ^ (ty.width - n) ∧ (n < ty.width → 2 ^ (ty.width - n - 1) ≤ x.toNat)) ∧
      (Issues (.popc c ty d a) c s → WritesRegs (.popc c ty d a) c s fun t =>
        Holds t d (wd ((List.range ty.width).countP fun i => x.getLsbD i))) ∧
      (ty.is64 = true → Issues (.bfx c ty d a b) c s → WritesRegs (.bfx c ty d a b) c s fun t =>
        Holds t d (if ty.signed then (((s.rs a) >>> pos).setWidth len).signExtend 64 else (((s.rs a) >>> pos).setWidth len).setWidth 64)) ∧
      (ty.is64 = true → Issues (.bfi c ty d a b) c s → WritesRegs (.bfi c ty d a b) c s fun t =>
        d = 0 ∨ ∀ k, k < 64 → (t.rs d).getLsbD k =
          if pos ≤ k ∧ k < pos + len then (s.rs a).getLsbD (k - pos) else (s.rs d).getLsbD k))

/-- R333, R341, R345, R351: `NOP` changes nothing; `LI` writes its immediate; `MOV` copies 64 bits between s and m
registers, an m register keeping its RW fields only (Table 2.3); `QCNT` writes how many entries a queue holds.
R28: where the other sequencer wrote the m register in the same slot, a read gives what it held before, and of two
writes that of the XS stands. That a slot runs one sequencer's instruction after the other's, the second put back on
what the register held, is log 56. -/
def Obligations.loadsAndMoves : Prop :=
  ∀ (c : Ctl) (hi : Bool) (d a : Fin 32) (e g : Fin 16) (imm : Word32) (q : QB) (s : State),
    let u := s.startIssue c
    let toM (i : Instr) (v : Word) : Prop := Gives (exec i s) fun t =>
      t.slotRegs = u.slotRegs ++ [u.sharedNow (.m g)] ∧ Writes i.regs u { t with slotRegs := u.slotRegs } ∧
      t.sq.pc = s.sq.pc + 16 ∧ vget 0 t.cc.m g.val = v &&& 0xFFFF7F7F
    (Issues (.nop c) c s → WritesRegs (.nop c) c s fun t => Silent (s.startIssue c) t) ∧
    (Issues (.li c hi d imm) c s → WritesRegs (.li c hi d imm) c s fun t =>
      Holds t d (if hi then imm ++ (0 : Word32) else imm.signExtend 64) ∧ Silent (s.startIssue c) t) ∧
    (s.othersWrote = [] →
      (Issues (.mov c (.s d) (.s a)) c s → WritesRegs (.mov c (.s d) (.s a)) c s fun t => Holds t d (s.rs a)) ∧
      (Issues (.mov c (.s d) (.m e)) c s → WritesRegs (.mov c (.s d) (.m e)) c s fun t => Holds t d (vget 0 s.cc.m e.val)) ∧
      (Issues (.mov c (.m g) (.s a)) c s → toM (.mov c (.m g) (.s a)) (s.rs a)) ∧
      (Issues (.mov c (.m g) (.m e)) c s → toM (.mov c (.m g) (.m e)) (vget 0 s.cc.m e.val))) ∧
    (∀ w : SlotWrite, s.slotRegs = [w] → w.core = s.cur.val → w.seq = SeqId.other s.curSeq → w.reg = .m e →
      (Issues (.mov c (.s d) (.m e)) c (s.putShared w) → Gives (exec (.mov c (.s d) (.m e)) s) fun t =>
        Holds t d w.val ∧ vget 0 t.cc.m e.val = vget 0 s.cc.m e.val ∧ t.sq.pc = s.sq.pc + 16) ∧
      (Issues (.mov c (.m e) (.s a)) c (s.putShared w) → Gives (exec (.mov c (.m e) (.s a)) s) fun t =>
        t.sq.pc = s.sq.pc + 16 ∧ vget 0 t.cc.m e.val = match s.curSeq with
          | .as => vget 0 s.cc.m e.val
          | .xs => s.rs a &&& 0xFFFF7F7F)) ∧
    (Issues (.qcnt c d q) c s → WritesRegs (.qcnt c d q) c s fun t =>
      Holds t d (match q with
        | .q r => wd (s.cc.queue r).length
        | .bq => wd (match s.curSeq with
          | .as => s.cc.bqX.length
          | .xs => s.cc.bqA.length)))

/-! ## Vector instructions -/

/-- R373: `VADD`, `VSUB`, `VMUL` and `VMAD` form the exact integer result in every element of the selected
lanes, clamp it under SAT (SATI where that changes it, R79) or keep it modulo 2^w; `VMUL`'s high half is bits
2w-1:w of the product. R373: bitwise operations, shifts and `VMIN`, `VMAX` in every element of the selected
lanes; no flag. -/
def Obligations.vectorIntegerResult : Prop :=
  (∀ (c : Ctl) (ty : Ty) (sat : Bool) (sel : MulSel) (d a e : Fin 32) (b : VOp) (s : State),
      let u := s.startIssue c
      let x (l k : Nat) : Int := partInt ty (part ty (u.regLane ty a l) k)
      let y (l k : Nat) : Int := partInt ty (part ty (u.opLane ty b l) k)
      let z (l k : Nat) : Int := partInt ty (part ty (u.regLane ty e l) k)
      let exactly (i : Instr) (f : Nat → Nat → Int) : Prop := i.wf = true → Issues i c s → WritesRegs i c s fun t =>
        Elements u t c ty d (fun l k => BitVec.ofInt ty.width (if sat then tyClamp ty (f l k) else f l k)) ∧
        t.cc.x.gen = u.cc.x.gen ∧ ∃ fl, Raises u t fl ∧ (fl = 0 ∨ fl = flSATI) ∧
          (fl = flSATI ↔ sat = true ∧ ∃ l k, l < 1024 ∧ k < tyCount ty ∧ u.isOn c l ∧ tyClamp ty (f l k) ≠ f l k)
      exactly (.vadd c ty sat d a b) (fun l k => x l k + y l k) ∧
      exactly (.vsub c ty sat d a b) (fun l k => x l k - y l k) ∧
      exactly (.vmul c ty .low sat d a b) (fun l k => x l k * y l k) ∧
      exactly (.vmad c ty sat d a b e) (fun l k => x l k * y l k + z l k) ∧
      (sel ≠ .low → (Instr.vmul c ty sel sat d a b).wf = true → Issues (.vmul c ty sel sat d a b) c s →
        WritesRegs (.vmul c ty sel sat d a b) c s fun t =>
          Elements u t c ty d (fun l k => (BitVec.ofInt (2 * ty.width) (x l k * y l k)).extractLsb' ty.width ty.width) ∧
          Silent u t)) ∧
  (∀ (c : Ctl) (ty : Ty) (ar : Bool) (d a : Fin 32) (b : VOp) (s : State),
      let u := s.startIssue c
      let x (l k : Nat) := part ty (u.regLane ty a l) k
      let y (l k : Nat) := part ty (u.opLane ty b l) k
      let each (i : Instr) (f : Nat → Nat → BitVec ty.width) : Prop := i.wf = true → Issues i c s → WritesRegs i c s fun t =>
        Elements u t c ty d f ∧ Silent u t
      each (.vand c ty d a b) (fun l k => x l k &&& y l k) ∧
      each (.vor c ty d a b) (fun l k => x l k ||| y l k) ∧
      each (.vxor c ty d a b) (fun l k => x l k ^^^ y l k) ∧
      each (.vshl c ty d a b) (fun l k => x l k <<< (y l k).toNat) ∧
      each (.vshr c ty ar d a b) (fun l k => if ar then (x l k).sshiftRight (y l k).toNat else x l k >>> (y l k).toNat) ∧
      each (.vmin c ty d a b) (fun l k => if partInt ty (x l k) ≤ partInt ty (y l k) then x l k else y l k) ∧
      each (.vmax c ty d a b) (fun l k => if partInt ty (x l k) ≤ partInt ty (y l k) then y l k else x l k))

/-- R377, R382: `VCMP` writes whether its condition holds in each selected lane to a predicate; `VSEL` picks
whole lanes by a predicate; `VMOV` copies operand B; `VIOTA` writes the lane's number 64 i + j. R346, R347:
`PLOG` combines two predicates, `PSET` sets the first lanes or a pattern of 32, both in the selected lanes;
`PCNT` counts the selected lanes that are set, or with `.ffs` names the first of them (1024: none). -/
def Obligations.vectorPredicateResult : Prop :=
  (∀ (c : Ctl) (ty : Ty) (cond : Cond) (d a : Fin 32) (b : VOp) (p q : Fin 16) (s : State),
      let u := s.startIssue c
      let num (x : Word) : Int := partInt ty (part ty x 0)
      ((Instr.vcmp c ty cond q a b).wf = true → Issues (.vcmp c ty cond q a b) c s → WritesRegs (.vcmp c ty cond q a b) c s fun t =>
        PredBits u t c q (fun l => condHolds cond (num (u.regLane ty a l)) (num (u.opLane ty b l))) ∧ Silent u t) ∧
      ((Instr.vsel c ty d a b p).wf = true → Issues (.vsel c ty d a b p) c s → WritesRegs (.vsel c ty d a b p) c s fun t =>
        LaneWords u t c ty d (fun l => if (u.rp p).getLsbD l then u.regLane ty a l else u.opLane ty b l) ∧ Silent u t) ∧
      ((Instr.vmov c ty d b).wf = true → Issues (.vmov c ty d b) c s → WritesRegs (.vmov c ty d b) c s fun t =>
        LaneWords u t c ty d (fun l => u.opLane ty b l) ∧ Silent u t) ∧
      ((Instr.viota c ty d).wf = true → Issues (.viota c ty d) c s → WritesRegs (.viota c ty d) c s fun t =>
        LaneWords u t c ty d (fun l => wd l) ∧ Silent u t)) ∧
  (∀ (c : Ctl) (op : PlogOp) (pat ffs : Bool) (d a b : Fin 16) (r : Fin 32) (o : SOp) (s : State),
      let u := s.startIssue c
      let x (l : Nat) : Prop := (u.rp a).getLsbD l = true
      let y (l : Nat) : Prop := (u.rp b).getLsbD l = true
      let set (l : Nat) : Prop := u.isOn c l ∧ x l
      (Issues (.plog c op d a b) c s → WritesRegs (.plog c op d a b) c s fun t =>
        PredBits u t c d (fun l => match op with
          | .and => x l ∧ y l
          | .or => x l ∨ y l
          | .xor => ¬(x l ↔ y l)
          | .andn => x l ∧ ¬y l
          | .orn => x l ∨ ¬y l) ∧ Silent u t) ∧
      (Issues (.pset c pat d o) c s → WritesRegs (.pset c pat d o) c s fun t =>
        PredBits u t c d (fun l => if pat then (s.sop o).getLsbD (l % 32) = true else l < (s.sop o).toNat) ∧ Silent u t) ∧
      (Issues (.pcnt c ffs r a) c s → WritesRegs (.pcnt c ffs r a) c s fun t =>
        ∃ n, Holds t r (wd n) ∧ Silent u t ∧
          if ffs then (n < 1024 ∧ set n ∨ n = 1024) ∧ ∀ l, l < n → ¬set l
          else ∃ ls : List Nat, ls.length = n ∧ ls.Nodup ∧ ∀ l, l ∈ ls ↔ l < 1024 ∧ set l))

/-- R77 to R83, R379, R383: `VFADD`, `VFMUL`, `VFMA` and the packed forms compute exactly in every element of the
selected lanes and round once, under RND (DYN: RMODE) and SAT; the flags of all elements are raised, NV for an
invalid operation; under SR each rounding reads the lane's generator, which advances once for each. -/
def Obligations.vectorFloatResult : Prop :=
  ∀ (c : Ctl) (ty : Ty) (rnd : Rnd) (sat : Bool) (d a e : Fin 32) (b : VOp) (s : State),
    let u := s.startIssue c
    let mode := u.rnd rnd
    let rounded (i : Instr) (t0 : Ty) (f : (Fin 32 → Nat → Nat → Machine.Num) → (Nat → Nat → Machine.Num) → Nat → Nat → Machine.Num × Bool) : Prop :=
      let reg (r : Fin 32) (l k : Nat) : Machine.Num := t0.value (part t0 (u.regLane t0 r l) k).toNat
      let opB (l k : Nat) : Machine.Num := t0.value (part t0 (u.opLane t0 b l) k).toNat
      let out (l k : Nat) : Rounded := roundFloat t0 mode sat (u.drawAt mode l k) (f reg opB l k).1
      i.wf = true → Issues i c s → WritesRegs i c s fun t =>
        Elements u t c t0 d (fun l k => BitVec.ofNat t0.width ((fmtOf t0).pattern (out l k).val)) ∧
        Draws u t c mode (tyCount t0) ∧
        ∃ fl, Raises u t fl ∧ ∀ j : Nat, fl.getLsbD j = true ↔ ∃ l k, l < 1024 ∧ k < tyCount t0 ∧ u.isOn c l ∧
          ((out l k).fl.getLsbD j = true ∨ (f reg opB l k).2 = true ∧ flNV.getLsbD j = true)
    rounded (.vfadd c rnd sat d a b) .f32 (fun r o l k => Machine.Num.add (mode == .rdn) (r a l k) (o l k)) ∧
    rounded (.vfmul c rnd sat d a b) .f32 (fun r o l k => Machine.Num.mul (r a l k) (o l k)) ∧
    rounded (.vfma c rnd sat d a b e) .f32 (fun r o l k => Machine.Num.fma (mode == .rdn) (r a l k) (o l k) (r e l k)) ∧
    rounded (.vpadd c ty rnd sat d a b) ty (fun r o l k => Machine.Num.add (mode == .rdn) (r a l k) (o l k)) ∧
    rounded (.vpmul c ty rnd sat d a b) ty (fun r o l k => Machine.Num.mul (r a l k) (o l k)) ∧
    rounded (.vpfma c ty rnd sat d a b e) ty (fun r o l k => Machine.Num.fma (mode == .rdn) (r a l k) (o l k) (r e l k))

/-- R379, R380: `VFMIN` and `VFMAX` pick a value in each selected lane, NaNs passed over and -0 below +0, a NaN
result being the canonical one with the sign of A's; `VFCMP` writes a predicate. No flag is raised. R381:
`VFCVT` converts between types of one width element by element; toward a narrower type it writes part PART of
each destination lane and keeps the other elements; toward a wider one it reads part PART of each source lane.
-/
def Obligations.vectorPickAndConvert : Prop :=
  (∀ (c : Ctl) (rnd : Rnd) (sat : Bool) (cond : Cond) (d a : Fin 32) (q : Fin 16) (b : VOp) (s : State),
      let u := s.startIssue c
      let x (l : Nat) : Machine.Num := f32v (lane (u.rv a) l).toNat
      let y (l : Nat) : Machine.Num := f32v (u.vopLane b l).toNat
      let less (p q : Machine.Num) : Bool := Machine.Num.lt p q || (Machine.Num.eq p q && p.sign && !q.sign)
      let pick (wantMax : Bool) (l : Nat) : Word :=
        if (x l).isNan && (y l).isNan then wd (0x7FC00000 + if (x l).sign then 2 ^ 31 else 0)
        else if (x l).isNan then (u.vopLane b l).setWidth 64
        else if (y l).isNan then (lane (u.rv a) l).setWidth 64
        else if less (x l) (y l) = wantMax then (u.vopLane b l).setWidth 64 else (lane (u.rv a) l).setWidth 64
      (Issues (.vfmin c rnd sat d a b) c s → WritesRegs (.vfmin c rnd sat d a b) c s fun t =>
        LaneWords u t c .f32 d (pick false) ∧ Silent u t) ∧
      (Issues (.vfmax c rnd sat d a b) c s → WritesRegs (.vfmax c rnd sat d a b) c s fun t =>
        LaneWords u t c .f32 d (pick true) ∧ Silent u t) ∧
      (Issues (.vfcmp c cond q a b) c s → WritesRegs (.vfcmp c cond q a b) c s fun t =>
        Silent u t ∧ PredBits u t c q (fun l =>
          if (x l).isNan || (y l).isNan then cond = .ne ∨ cond = .un
          else match cond with
            | .eq => Machine.Num.eq (x l) (y l) = true
            | .ne => Machine.Num.eq (x l) (y l) = false
            | .lt => Machine.Num.lt (x l) (y l) = true
            | .le => Machine.Num.lt (y l) (x l) = false
            | .gt => Machine.Num.lt (y l) (x l) = true
            | .ge => Machine.Num.lt (x l) (y l) = false
            | .un => False))) ∧
  (∀ (c : Ctl) (ty sty : Ty) (n : BitVec 3) (rnd : Rnd) (sat : Bool) (d a : Fin 32) (s : State),
      let i : Instr := .vfcvt c ty sty n rnd sat d a
      let u := s.startIssue c
      let mode := u.rnd rnd
      let rounds := convRounds sty ty
      let src (l k : Nat) : Machine.Num := sty.value (part sty (u.regLane sty a l) k).toNat
      let out (l src0 k : Nat) : Nat × Flags :=
        convert ty mode sat (!sty.isFloat) (if rounds then u.drawAt mode l k else 0) (src l src0)
      i.wf = true → Issues i c s → WritesRegs i c s fun t =>
        ∃ from_ : Nat → Option (Nat × Nat),
          (∀ k, from_ k =
            if ty.width = sty.width then some (k, k)
            else if sty.width < ty.width then some (n.toNat * tyCount ty + k, k)
            else if n.toNat * tyCount sty ≤ k ∧ k < (n.toNat + 1) * tyCount sty then some (k - n.toNat * tyCount sty, k - n.toNat * tyCount sty)
            else none) ∧
          Elements u t c ty d (fun l k => match from_ k with
            | some (j, g) => BitVec.ofNat ty.width (out l j g).1
            | none => part ty (u.regLane ty d l) k) ∧
          Draws u t c mode (if rounds then min (tyCount ty) (tyCount sty) else 0) ∧
          ∃ fl, Raises u t fl ∧ ∀ b : Nat, fl.getLsbD b = true ↔ ∃ l k j g, l < 1024 ∧ k < tyCount ty ∧ u.isOn c l ∧
            from_ k = some (j, g) ∧ (out l j g).2.getLsbD b = true)

/-- R375: the axis movements, on elements (i, j) of 16 rows and 64 columns. -/
def Obligations.axisMoveResult : Prop :=
  ∀ (c : Ctl) (ty : Ty) (d a : Fin 32) (b : SOp) (ob : Option SOp) (s : State),
    let u := s.startIssue c
    let n := (s.sop b).toNat
    let m := match ob with
      | some o => (s.sop o).toNat
      | none => 0
    let moves (i : Instr) (f : Nat → Nat → Word32) : Prop := i.wf = true → Issues i c s → WritesRegs i c s fun t =>
      Silent u t ∧ ∀ p q : Nat, p < 16 → q < 64 →
        elem (t.rv d) p q = if (u.rp c.lPred).getLsbD (64 * p + q) = !c.lNeg then f p q else elem (u.rv d) p q
    moves (.vrotr c ty d a b) (fun p q => elem (u.rv a) p ((q + 64 - n % 64) % 64)) ∧
    moves (.vrotc c ty d a b) (fun p q => elem (u.rv a) ((p + 16 - n % 16) % 16) q) ∧
    moves (.vbcr c ty d a ob) (fun p _ => elem (u.rv a) p (m % 64)) ∧
    moves (.vbcc c ty d a ob) (fun _ q => elem (u.rv a) (m % 16) q) ∧
    moves (.vtrn c ty d a) (fun p q => elem (u.rv a) (q % 16) (16 * (q / 16) + p))

/-- R376: `VREDR` reduces each row into its column 0, `VREDC` each column into row 0, and the other selected lanes
become 0. An integer sum is exact and then clamped or kept modulo 2^32; an f32 sum is exact and rounded once; only
that one draws, from the lane that receives it. -/
def Obligations.reductionResult : Prop :=
  ∀ (c : Ctl) (ty : Ty) (op : RedOp) (rnd : Rnd) (sat : Bool) (d a : Fin 32) (s : State),
    let u := s.startIssue c
    let mode := u.rnd rnd
    let reduces (i : Instr) (into : Nat → Bool) (els : Nat → List Nat) : Prop :=
      let sum : Bool := ty == .f32 && op == .add
      let out (l : Nat) : Nat × Flags := reduce ty op mode sat (if sum then u.drawAt mode l 0 else 0) (els l)
      i.wf = true → Issues i c s → WritesRegs i c s fun t =>
        LaneWords u t c .f32 d (fun l => if into l then (BitVec.ofNat 32 (out l).1).setWidth 64 else 0) ∧
        (∀ l, l < 1024 → vget 0 t.cc.x.gen l =
          if sum ∧ mode = .sr ∧ into l ∧ (u.rp c.lPred).getLsbD l = !c.lNeg then genNext (vget 0 u.cc.x.gen l) else vget 0 u.cc.x.gen l) ∧
        ∃ fl, Raises u t fl ∧ ∀ j : Nat, fl.getLsbD j = true ↔ ∃ l, l < 1024 ∧ into l ∧ u.isOn c l ∧ (out l).2.getLsbD j = true
    reduces (.vredr c ty op rnd sat d a) (fun l => l % 64 == 0)
      (fun l => (List.range 64).map fun j => (elem (u.rv a) (l / 64) j).toNat) ∧
    reduces (.vredc c ty op rnd sat d a) (fun l => decide (l < 64))
      (fun l => (List.range 16).map fun j => (elem (u.rv a) j l).toNat)

/-- R89, R384: `VQNT` quantises each block of 32 or 64 columns of a row: its elements go packed into the first lanes
of the row of vd, its scale into ve, and every other lane of both becomes 0; under SR every generator advances
once. -/
def Obligations.quantiserResult : Prop :=
  ∀ (c : Ctl) (ty : Ty) (rnd : Rnd) (b64 : Bool) (d e a : Fin 32) (s : State),
    let i : Instr := .vqnt c ty rnd b64 d e a
    let u := s.startIssue c
    let mode := u.rnd rnd
    let size := if b64 then 64 else 32
    let block (p b : Nat) : Nat × List Nat × Flags := qntBlock ty mode ((List.range size).map fun q =>
      let l := 64 * p + size * b + q
      (f32v (lane (u.rv a) l).toNat, u.drawAt mode l 0))
    i.wf = true → Issues i c s → WritesRegs i c s fun t =>
      (∀ p q, p < 16 → q < 64 →
        part ty ((elem (t.rv d) p (q / tyCount ty)).setWidth 64) (q % tyCount ty) =
          BitVec.ofNat ty.width ((block p (q / size)).2.1.getD (q % size) 0)) ∧
      (∀ p q, p < 16 → q < 64 → 64 / tyCount ty ≤ q → elem (t.rv d) p q = 0) ∧
      (∀ p q, p < 16 → q < 64 → elem (t.rv e) p q = if q < 64 / size then BitVec.ofNat 32 (block p q).1 else 0) ∧
      Draws u t c mode 1 ∧
      ∃ fl, Raises u t fl ∧ ∀ j : Nat, fl.getLsbD j = true ↔ ∃ p b, p < 16 ∧ b < 64 / size ∧ (block p b).2.2.getLsbD j = true

/-! ## Multiplication, division, control and queues -/

/-- R323, R324, R343: `MUL` and `DIV` retire with their result still to be written: a half of the exact product;
a quotient rounded toward zero or its remainder, with 2^w - 1 and the dividend for a divisor of 0. A second `DIV`
waits for the first. -/
def Obligations.mulDivIssue : Prop :=
  ∀ (c : Ctl) (ty : Ty) (sel : MulSel) (rem : Bool) (d a : Fin 32) (b : SOp) (s : State), ty.scalar = true →
    let x := tyRead ty (s.rs a)
    let y := tyRead ty (s.sop b)
    let low := tyWrap ty (x * y)
    let high := tyExtend ty ((BitVec.ofInt (2 * ty.width) (x * y)).extractLsb' ty.width ty.width)
    let quot := tyWrap ty (if y = 0 then 2 ^ ty.width - 1 else x.tdiv y)
    let rm := tyWrap ty (if y = 0 then x else x.tmod y)
    let pends (i : Instr) (src : ResultFrom) (v : Word) : Prop := Acts i c s (s.sq.pc + 16) fun t =>
      t.cc.rest = s.cc.rest ∧ Silent (s.startIssue c) t ∧ (∀ r, t.rs r = s.rs r) ∧
      ∃ r : Result, t.sq.results = s.sq.results ++ [r] ∧ r.dst = d ∧ r.val = v ∧ r.src = src ∧ r.bad = none
    (Issues (.mul c ty sel d a b) c s → pends (.mul c ty sel d a b) .mul (if sel = .low then low else high)) ∧
    (Issues (.div c ty rem d a b) c s → (∀ r ∈ s.sq.results, r.src ≠ .div) →
      pends (.div c ty rem d a b) .div (if rem then rm else quot))

/-- R22, R298, R334: `BR`, `JMP`, `CALL`, `RET` and a taken `LOOP` go to their target, which is relative to the
instruction's own address or the value of a register; `CALL` writes the address of the next word; `LOOP` counts
down and falls through at 0. -/
def Obligations.branchResult : Prop :=
  ∀ (c : Ctl) (off : Word32) (d a : Fin 32) (s : State),
    let rel := s.sq.pc + off.signExtend 64
    let aligned (x : Word) : Prop := x.toNat % 16 = 0
    (Issues (.br c off) c s → aligned rel → GoesTo (.br c off) c s rel fun t => Silent (s.startIssue c) t) ∧
    (Issues (.jmp c a) c s → aligned (s.rs a) → GoesTo (.jmp c a) c s (s.rs a) fun t => Silent (s.startIssue c) t) ∧
    (Issues (.ret c a) c s → aligned (s.rs a) → GoesTo (.ret c a) c s (s.rs a) fun t => Silent (s.startIssue c) t) ∧
    (Issues (.call c d off) c s → aligned rel → GoesTo (.call c d off) c s rel fun t =>
      Holds t d (s.sq.pc + 16) ∧ Silent (s.startIssue c) t) ∧
    (Issues (.loop c d off) c s → aligned rel ∨ s.rs d = 1 →
      GoesTo (.loop c d off) c s (if s.rs d = 1 then s.sq.pc + 16 else rel) fun t =>
        Holds t d (s.rs d - 1) ∧ Silent (s.startIssue c) t)

/-- R149, R308, R352: once every earlier access of the sequencer has performed, `QPUSH` and `BQSEND` append to a
queue with room, the entry with the source's tag (and, of `QPUSH`, its poison), and wake the other sequencer's
`WAITI`; `QPOP` and `BQBR` take the oldest entry, `QPOP` into a register with its tag and poison, `BQBR` to branch
where the outcome is the one it names. -/
def Obligations.queueResult : Prop :=
  ∀ (c : Ctl) (q : Fin 8) (f : Fin 8) (z : Bool) (d a : Fin 32) (off : Word32) (s : State),
    let u := s.startIssue c
    let woken := u.wakeSeq s.cur.val (SeqId.other s.curSeq)
    let mine : List (Bool × Bool) := match s.curSeq with
      | .as => s.cc.bqX
      | .xs => s.cc.bqA
    let theirs : List (Bool × Bool) := match s.curSeq with
      | .as => s.cc.bqA
      | .xs => s.cc.bqX
    (Issues (.qpush c q a) c s → (q.val < 6 ↔ s.curSeq = .as) → (s.cc.queue q).length < 32 → u.allPerformed = true →
      ActsFrom woken (.qpush c q a) s (s.sq.pc + 16) fun t => t.sq.results = s.sq.results ∧ Silent u t ∧
        ∃ e : QEnt, e.val = s.rs a ∧ (a ≠ 0 → e.bad = SMap.find? s.sq.sPois a.val) ∧
          e.sec = u.srcSec (Instr.qpush c q a).regs c ∧
          t.cc.rest = { s.cc.rest with q := vset s.cc.q q.val (s.cc.queue q ++ [e]) }) ∧
    (∀ e l, Issues (.qpop c d q) c s → ¬(q.val < 6 ↔ s.curSeq = .as) → s.cc.queue q = e :: l →
      Acts (.qpop c d q) c s (s.sq.pc + 16) fun t => t.sq.results = s.sq.results ∧ Silent u t ∧
        Holds t d e.val ∧ (d ≠ 0 → ∀ x, e.bad = some x → SMap.find? t.sq.sPois d.val = some x) ∧
        t.cc.rest = { s.cc.rest with q := vset s.cc.q q.val l }) ∧
    (Issues (.bqsend c f) c s → theirs.length < 64 → u.allPerformed = true →
      ActsFrom woken (.bqsend c f) s (s.sq.pc + 16) fun t => t.sq.results = s.sq.results ∧ Silent u t ∧
        ∃ tag, t.cc.rest = match s.curSeq with
          | .as => { s.cc.rest with bqA := theirs ++ [(s.rf f, tag)] }
          | .xs => { s.cc.rest with bqX := theirs ++ [(s.rf f, tag)] }) ∧
    (∀ o l, Issues (.bqbr c z off) c s → mine = o :: l → (o.1 ≠ z → (s.sq.pc + off.signExtend 64).toNat % 16 = 0) →
      Acts (.bqbr c z off) c s (if o.1 = z then s.sq.pc + 16 else s.sq.pc + off.signExtend 64) fun t =>
        t.sq.results = s.sq.results ∧ Silent u t ∧ t.cc.rest = match s.curSeq with
          | .as => { s.cc.rest with bqX := l }
          | .xs => { s.cc.rest with bqA := l })

/-- R61, R82, R337, R386: `MARK` gives a marker register its number and the engines of its mask, all still to retire
it; `WAITMK` completes when the register holds another number or its engines have all retired it, and waits else;
where it waited for the matrix array, reads of VSTAT see from then on the flags of the drains before its marker.
R146, R153, R327, R388: `FENCE` retires at once and adds itself to the fences in force behind what its sequencer has
issued; `XFENCE` retires when no path of its first mask has work from before it. -/
def Obligations.orderingResult : Prop :=
  (∀ (c : Ctl) (k : Fin 4) (n : BitVec 8) (mask : BitVec 5) (s : State),
      let u := s.startIssue c
      (Issues (.mark c k n mask) c s → Acts (.mark c k n mask) c s (s.sq.pc + 16) fun t =>
        t.sq.results = s.sq.results ∧ Silent u t ∧
        t.cc.rest = { s.cc.rest with k := vset s.cc.k k.val (some ⟨n, mask, mask, s.cc.ticket⟩), ticket := s.cc.ticket + 1 }) ∧
      (Issues (.waitmk c k n) c s → (∀ m, vget none s.cc.k k.val = some m → m.n ≠ n ∨ m.left = 0 ∧ m.mask.getLsbD 2 = false) →
        WritesRegs (.waitmk c k n) c s fun t => Silent u t) ∧
      (∀ m, Issues (.waitmk c k n) c s → vget none s.cc.k k.val = some m → m.n = n → m.left = 0 → m.mask.getLsbD 2 = true →
        Gives (exec (.waitmk c k n) s) fun t => OutsideSame u t ∧ RegsSame {} u t ∧ t.sq.pc = s.sq.pc + 16 ∧
          t.cc.rest = s.cc.rest ∧ t.sq.rest = s.sq.rest ∧ t.sq.results = s.sq.results ∧
          (∀ j, t.cc.x.settleAll.vstat.getLsbD j = true ↔
            u.cc.x.settleAll.vstat.getLsbD j = true ∨ ∃ e ∈ u.cc.x.drained, e.ticket < m.ticket ∧ e.fl.getLsbD j = true)) ∧
      (∀ m, Issues (.waitmk c k n) c s → vget none s.cc.k k.val = some m → m.n = n → m.left ≠ 0 →
        exec (.waitmk c k n) s = .next u)) ∧
  (∀ (c : Ctl) (scp : BitVec 3) (b e : BitVec 16) (m1 m2 : BitVec 7) (s : State),
      let u := s.startIssue c
      (Issues (.fence c scp b e) c s → Gives (exec (.fence c scp b e) s) fun t =>
        OutsideSame u t ∧ RegsSame {} u t ∧ t.sq.pc = s.sq.pc + 16 ∧ Silent u t ∧ t.sq.results = s.sq.results ∧
        t.cc.rest = { s.cc.rest with ticket := s.cc.ticket + 1 } ∧
        ∃ live, t.sq.fences = live ++ [⟨b, e, s.cc.ticket + 1⟩] ∧ t.sq.rest = { s.sq.rest with fences := t.sq.fences } ∧
          ∀ f, f ∈ live ↔ f ∈ s.sq.fences ∧
            ∃ x ∈ u.pendingAccesses, f.before.getLsbD x.1 = true ∧ x.2.1 < f.ticket) ∧
      (Issues (.xfence c scp ⟨m1, m2⟩) c s →
        (∀ tk, s.sq.wait = some (.xfence tk) → u.pathBusy m1 tk = false → WritesRegs (.xfence c scp ⟨m1, m2⟩) c s fun t => Silent u t) ∧
        ((∀ tk, s.sq.wait ≠ some (.xfence tk)) → m1 = 0 ∨ u.pathBusy m1 s.cc.ticket = false →
          WritesRegs (.xfence c scp ⟨m1, m2⟩) c s fun t => Silent u t)))

/-- R63, R325, R363: `END` stops its sequencer; it waits for a result that is pending. When it was the last
sequencer of the launch to run, the launch drains with status OK. In a launch flagged D `TAIL` acts so too. R64,
R363: a `TAIL` that need not wait retires its launch: the launch passes to the tracker with status OK, and both
sequencers of every core stop and the cores are free. -/
def Obligations.endResult : Prop :=
  (∀ (c : Ctl) (s : State),
      let last : Prop := ∀ k ∈ s.lc.allCores, ∀ q, (k = s.cur.val ∧ q = s.curSeq) ∨ ((s.core k).seq q).run = .stopped
      let ends (i : Instr) : Prop := s.sq.results = [] → Gives (exec i s) fun t =>
        t.sq.run = .stopped ∧ t.mem = s.mem ∧ (¬last → t.launches = s.launches ∧ OutsideSame (s.startIssue c) t) ∧
        (last → ∀ l, s.launch? s.lc.id = some l → l.state = .running →
          t.launch? l.id = some { l with state := .draining, status := .ok, detail := 0, frank := 0, step := none })
      (Issues (.endSeq c) c s → ends (.endSeq c)) ∧
      (Issues (.tail c) c s → s.lc.flagD = true → ends (.tail c))) ∧
  (∀ (c : Ctl) (s : State), Issues (.tail c) c s → s.lc.flagD = false → (s.startIssue c).tailReady = true →
      s.launch? s.lc.id = some s.lc →
      Gives (exec (.tail c) s) fun t =>
        (∃ l, t.launch? s.lc.id = some l ∧ l.state = .tracker ∧ l.status = .ok ∧ l.record = s.lc.record) ∧
        ∀ k ∈ s.lc.allCores, k < 384 →
          (t.core k).launch = none ∧ (t.core k).as.run = .stopped ∧ (t.core k).xs.run = .stopped ∧
          (t.core k).vault = (s.core k).vault)

/-! ## Memory -/

/-- R39, R40: the places that a pointer names. SPACE 0 is global memory; SPACE 1 and 2 are the vault and the
accumulator image of the core that RANK names, 0xFFF being the core's own; what lies outside a space's format traps
XLATE with REASON 11, and a vault access beyond the footprint PERM with REASON 14. -/
def Obligations.pointerPlaces : Prop :=
  ∀ (s : State) (c : Nat) (p : Word) (n : Nat) (wr : Bool),
    let space := p.toNat / 2 ^ 60
    let rank := p.toNat / 2 ^ 48 % 2 ^ 12
    let off := p.toNat % 2 ^ 48
    let l := s.launchOn c
    let form : Trap := ⟨cXLATE, p, wd (0xB7 + if wr then 8 else 0)⟩
    let foot : Trap := ⟨cPERM, p, wd (0xE7 + if wr then 8 else 0)⟩
    let core := if rank = 0xFFF then c else l.coreOf (s.core c).copy1 rank
    let named := rank = 0xFFF ∨ rank < l.wid * l.hgt
    (space = 0 → p.toNat < 2 ^ 57 → s.decodePtr c p n wr = .at_ .glob) ∧
    (space = 0 → 2 ^ 57 ≤ p.toNat → s.decodePtr c p n wr = .bad form) ∧
    (2 < space → s.decodePtr c p n wr = .bad form) ∧
    (space = 1 ∨ space = 2 → ¬named → s.decodePtr c p n wr = .bad form) ∧
    (space = 1 → named → 2 ^ 21 ≤ off → s.decodePtr c p n wr = .bad form) ∧
    (space = 1 → named → off < 2 ^ 21 → 1024 * l.foot < off + n → s.decodePtr c p n wr = .bad foot) ∧
    (space = 1 → named → off < 2 ^ 21 → off + n ≤ 1024 * l.foot → s.decodePtr c p n wr = .at_ (.vault core off)) ∧
    (space = 2 → named → off + n ≤ 0x1C000 → off < 2 ^ 17 → s.decodePtr c p n wr = .at_ (.acc core off)) ∧
    (space = 2 → named → 0x1C000 < off + n ∨ 2 ^ 17 ≤ off → s.decodePtr c p n wr = .bad form)

/-- R99, R330, R331: `LD` retires with its value still to be written: the bytes at its address, extended by its type,
with the poison met; an access of the own vault that crosses into another row performs row by row; from another
core's vault or accumulator the value is asked for over the lateral network. That the value still to be written is that
of the bytes as they stand at issue is log 47, and that such rows take one turn of the sequencer each, the instruction
retiring after the last, is log 6. -/
def Obligations.loadResultPending : Prop :=
  ∀ (c : Ctl) (ty : Ty) (acq : Bool) (ocl : BitVec 4) (scp : BitVec 3) (d a : Fin 32) (off : Word32) (s : State),
    let i : Instr := .ld c ty acq ocl scp d a off
    let u := s.startIssue c
    let p := s.rs a + off.signExtend 64
    let n := ty.width / 8
    let m := u.mcur c
    let here := u.classHeld ocl hereTarget = false
    let pending (bs : List Byte) (bad : Option (BitVec 8 × Word)) (t : State) : Prop :=
      (∀ r, t.rs r = s.rs r) ∧ Silent u t ∧ ∃ r : Result, t.sq.results = s.sq.results ++ [r] ∧ r.dst = d ∧
        r.val = tyExtend ty (BitVec.ofNat ty.width (leNat bs)) ∧ r.src = .load ∧ r.bad = bad
    Issues i c s → i.wf = true → (acq = true → p.toNat % n = 0) →
      (∀ o, (s.rowsDone = none → here) → u.decodePtr s.cur.val p n false = .at_ (.vault s.cur.val o) →
        let w := s.rowsSoFar
        let from_ := o + w.got.length
        let rest := n - w.got.length
        let vault (t : State) : Prop := t.cc.rest = { s.cc.rest with vault := { s.cc.vault with soft := t.cc.vault.soft } }
        (from_ % 256 + rest ≤ 256 → Acts i c s (s.sq.pc + 16) fun t =>
          pending (w.got ++ u.readVault s.cur.val from_ rest) (if w.bad || s.cc.vault.bad from_ rest then some (cPOISON, p) else none) t ∧ vault t) ∧
        (256 < from_ % 256 + rest →
          let first := 256 - from_ % 256
          Pauses i c s ⟨w.n + 1, w.got ++ u.readVault s.cur.val from_ first, w.sec || s.cc.vault.secure from_ first,
            w.bad || s.cc.vault.bad from_ first, none⟩ vault)) ∧
      (∀ o, here → s.cc.matQ = [] → u.decodePtr s.cur.val p n false = .at_ (.acc s.cur.val o) →
        Acts i c s (s.sq.pc + 16) fun t => pending (s.cc.readAcc o n) none t ∧ t.cc.rest = s.cc.rest) ∧
      (∀ v ps, here → u.ownRemote p n = false → u.decodePtr s.cur.val p n false = .at_ .glob →
        u.translate m.x false false p n = .ok v ps →
        u.scopeFor acq acq false scp p ps = none →
        ActsWide u i s (s.sq.pc + 16) fun t =>
          (∃ bs bad, pending bs bad t ∧
            (Ordinary s ps → v.CleanMsc → (∀ x ∈ ps, v.poisonAt x.pa x.len = none) → t.mem = v.mem ∧ bad = none ∧
              bs = ps.flatMap fun x => v.readPhys (ownerTag s.lc.fn) x.page.sh x.pa x.len)) ∧
          t.cc.rest = { s.cc.rest with tlb := t.cc.tlb }) ∧
      (∀ acc k o, k ≠ s.cur.val → u.classHeld ocl k = false →
        u.decodePtr s.cur.val p n false = .at_ (if acc then .acc k o else .vault k o) →
        Gives (exec i s) fun t => t.sq.pc = s.sq.pc + 16 ∧ t.mem = s.mem ∧ (∀ r, t.rs r = s.rs r) ∧
          ∃ (q : VReq) (r : Result), t.vreqs = s.vreqs ++ [q] ∧ q.target = k ∧ q.acc = acc ∧ q.off = o ∧ q.n = n ∧
            q.ty = ty ∧ q.kind = .load ∧ q.acted = false ∧ q.core = s.cur.val ∧ q.seq = s.curSeq ∧
            t.sq.results = s.sq.results ++ [r] ∧ r.dst = d ∧ r.src = .vault q.id)

/-- R99, R361: `ST` writes the low bytes of its register at its address, least significant first: to the own vault,
row by row where they lie in two, to the own accumulator image while the array is idle, to global memory through its
translation, or as a request to another core. No other byte changes and no register does. That the store has performed
when it retires, and that rows take one turn of the sequencer each, is log 6. -/
def Obligations.storeResult : Prop :=
  ∀ (c : Ctl) (ty : Ty) (rel : Bool) (ocl : BitVec 4) (scp : BitVec 3) (a : Fin 32) (off : Word32) (v : Fin 32) (s : State),
    let i : Instr := .st c ty rel ocl scp a off v
    let u := s.startIssue c
    let p := s.rs a + off.signExtend 64
    let n := ty.width / 8
    let m := u.mcur c
    let bs := leBytes n (s.rs v).toNat
    let sec := bt s.sq.sSec v.val
    let here := (rel = true → u.allPerformed = true) ∧ u.classHeld ocl hereTarget = false
    let quiet (t : State) : Prop := t.sq.results = s.sq.results ∧ Silent u t
    Issues i c s → i.wf = true → (rel = true → p.toNat % n = 0) →
      (∀ o, (s.rowsDone = none → here) → (sec = true → s.lc.flagS = true) → u.decodePtr s.cur.val p n true = .at_ (.vault s.cur.val o) →
        let w := s.rowsSoFar
        let from_ := o + w.got.length
        let rest := bs.drop w.got.length
        let writes (l : List Byte) (t : State) : Prop := t.cc.rest = { s.cc.rest with vault := t.cc.vault } ∧
          VaultWrites s.lc.owner from_ l s.cc.vault t.cc.vault
        (from_ % 256 + rest.length ≤ 256 → Acts i c s (s.sq.pc + 16) fun t => quiet t ∧ writes rest t) ∧
        (256 < from_ % 256 + rest.length →
          let first := rest.take (256 - from_ % 256)
          Pauses i c s ⟨w.n + 1, first, sec, false, none⟩ (writes first))) ∧
      (∀ o, here → s.cc.matQ = [] → u.decodePtr s.cur.val p n true = .at_ (.acc s.cur.val o) →
        Acts i c s (s.sq.pc + 16) fun t => quiet t ∧
          t.cc.rest = { s.cc.rest with acc := t.cc.acc, accSec := t.cc.accSec } ∧
          ∀ b, b < accBytes → t.cc.accByte b = if o ≤ b ∧ b < o + n then bs.getD (b - o) 0 else s.cc.accByte b) ∧
      (∀ w ps, here → u.ownRemote p n = false → u.decodePtr s.cur.val p n true = .at_ .glob → u.checkStore m p n sec = .ok w ps →
        u.scopeFor rel false true scp p ps = none → Ordinary s ps →
        ActsWide u i s (s.sq.pc + 16) fun t => quiet t ∧
          (w.CleanMsc → (∀ x ∈ ps, w.poisonAt x.pa x.len = none) → t.mem = w.mem.storePieces ps bs) ∧
          t.cc.rest = { s.cc.rest with tlb := t.cc.tlb }) ∧
      (∀ acc k o, k ≠ s.cur.val → (rel = true → u.allPerformed = true) → u.classHeld ocl k = false →
        (acc = false → sec = true → s.lc.flagS = true) →
        u.decodePtr s.cur.val p n true = .at_ (if acc then .acc k o else .vault k o) →
        ActsWide u i s (s.sq.pc + 16) fun t => quiet t ∧ t.mem = s.mem ∧
          t.cc.rest = { s.cc.rest with ticket := s.cc.ticket + 1 } ∧
          ∃ q : VReq, t.vreqs = s.vreqs ++ [q] ∧ q.target = k ∧ q.acc = acc ∧ q.off = o ∧ q.n = n ∧ q.kind = .store ∧
            q.val = s.rs v ∧ q.acted = false ∧ q.core = s.cur.val ∧ q.seq = s.curSeq)

/-- R298: a branch to an address that is not a multiple of 16 traps ALIGN, with the target and REASON 13, and
`CALL` and `LOOP` then write no register. R39, R227: a pointer that decodes to no place traps with its cause; an
acquiring load or a releasing store that is not naturally aligned traps ALIGN first. R332, R362: the pointer of
`LDV` and `STV` must be a multiple of 256 (ALIGN) and name the own vault (XLATE where it is no vault pointer,
PERM where it is another core's). R155, R302: an atomic that is not naturally aligned traps ALIGN with REASON 9.
-/
def Obligations.addressTraps : Prop :=
  (∀ (c : Ctl) (off : Word32) (d a : Fin 32) (s : State),
      let rel := s.sq.pc + off.signExtend 64
      let traps (i : Instr) (x : Word) : Prop := Issues i c s → x.toNat % 16 ≠ 0 →
        Traps i c s ⟨cALIGN, x, 0xD7⟩
      traps (.br c off) rel ∧ traps (.jmp c a) (s.rs a) ∧ traps (.ret c a) (s.rs a) ∧ traps (.call c d off) rel ∧
      (s.rs d ≠ 1 → traps (.loop c d off) rel)) ∧
  (∀ (c : Ctl) (ty : Ty) (ord : Bool) (ocl : BitVec 4) (scp : BitVec 3) (d a : Fin 32) (off : Word32) (s : State) (tr : Trap),
      let u := s.startIssue c
      let p := s.rs a + off.signExtend 64
      let n := ty.width / 8
      let misaligned := ord = true ∧ p.toNat % n ≠ 0
      (Issues (.ld c ty ord ocl scp d a off) c s →
        (misaligned → Traps (.ld c ty ord ocl scp d a off) c s ⟨cALIGN, p, 0xD7⟩) ∧
        (¬misaligned → u.decodePtr s.cur.val p n false = .bad tr → Traps (.ld c ty ord ocl scp d a off) c s tr)) ∧
      (Issues (.st c ty ord ocl scp a off d) c s →
        (misaligned → Traps (.st c ty ord ocl scp a off d) c s ⟨cALIGN, p, 0xDF⟩) ∧
        (¬misaligned → u.decodePtr s.cur.val p n true = .bad tr → Traps (.st c ty ord ocl scp a off d) c s tr))) ∧
  (∀ (c : Ctl) (ty : Ty) (ocl : BitVec 4) (d a : Fin 32) (off : Word32) (n : BitVec 4) (s : State),
      let p := s.rs a + off.signExtend 64
      let tr (wr : Bool) (k : Trap → Prop) : Prop :=
        (p.toNat % 256 ≠ 0 → k ⟨cALIGN, p, if wr then 0xDF else 0xD7⟩) ∧
        (p.toNat % 256 = 0 → p.toNat / 2 ^ 60 ≠ 1 → k ⟨cXLATE, p, if wr then 0xBF else 0xB7⟩) ∧
        (p.toNat % 256 = 0 → p.toNat / 2 ^ 60 = 1 → p.toNat / 2 ^ 48 % 4096 ≠ 0xFFF → p.toNat / 2 ^ 48 % 4096 ≠ s.cc.rank →
          k ⟨cPERM, p, if wr then 0xEF else 0xE7⟩)
      (Issues (.ldv c ty ocl d a off n) c s → tr false fun x => Traps (.ldv c ty ocl d a off n) c s x) ∧
      (Issues (.stv c ty ocl a off d n) c s → tr true fun x => Traps (.stv c ty ocl a off d n) c s x)) ∧
  (∀ (c : Ctl) (ty : Ty) (op : AtomOp) (ord : AtomOrd) (ocl : BitVec 4) (scp : BitVec 3) (d a v : Fin 32) (cmp : Option (Fin 32)) (s : State),
      let i : Instr := .atom c ty op ord ocl scp d a v cmp
      Issues i c s → (s.rs a).toNat % (ty.width / 8) ≠ 0 →
        Traps i c s ⟨cALIGN, s.rs a, 0x9F⟩)

/-- R99, R332, R362: `LDV` and `STV` move up to 16 rows of 64 lanes between a vector register and the own vault, lane l
at offset 4 l, the selected lanes only, a row at a time in ascending order: row `k` is the next. That each row takes a
turn of the sequencer and the instruction retires after the last is log 6. -/
def Obligations.vectorRows : Prop :=
  ∀ (c : Ctl) (ty : Ty) (ocl : BitVec 4) (d a v : Fin 32) (off : Word32) (n : BitVec 4) (o k : Nat) (s : State),
    let u := s.startIssue c
    let p := s.rs a + off.signExtend 64
    let rows := if n = 0 then 16 else n.toNat
    let on (l : Nat) : Prop := l < 64 * rows ∧ u.isOn c l
    let here (l : Nat) : Prop := l / 64 = k ∧ on l
    let free := s.rowsDone = none → u.classHeld ocl hereTarget = false
    let w := s.rowsSoFar
    let row := u.readVault s.cur.val (o + 256 * k) 256
    let soft (t : State) : Prop := t.cc.rest = { s.cc.rest with vault := { s.cc.vault with soft := t.cc.vault.soft } }
    w.n = k →
    (Issues (.ldv c ty ocl d a off n) c s → u.rowPtr p rows false = .inr o → free →
      (∀ l, here l → s.cc.vault.bad (o + 4 * l) 4 = false) →
      (k + 1 < rows → Pauses (.ldv c ty ocl d a off n) c s
        ⟨k + 1, w.got ++ row, w.sec || s.cc.vault.secure (o + 256 * k) 256, false, none⟩ soft) ∧
      (k + 1 = rows → w.got.length = 256 * k → Acts (.ldv c ty ocl d a off n) c s (s.sq.pc + 16) fun t =>
        t.sq.results = s.sq.results ∧ Silent u t ∧ soft t ∧ ∀ l, l < 1024 →
          (on l → (lane (t.rv d) l).toNat = leNat (((w.got ++ row).drop (4 * l)).take 4)) ∧
          (¬on l → lane (t.rv d) l = lane (u.rv d) l))) ∧
    (Issues (.stv c ty ocl a off v n) c s → u.rowPtr p rows true = .inr o → free →
      (bt u.cc.x.vSec v.val = true → s.lc.flagS = true) →
      (s.rowsDone = none → s.cc.rangeHeld s.cc.ticket [⟨o, o + 256 * rows, true⟩] = false) →
      let stores (t : State) : Prop := s.cc.vault.Plain → ∀ b,
        (o ≤ b → here ((b - o) / 4) → t.cc.vault.byte s.lc.owner b =
          BitVec.ofNat 8 ((lane (u.rv v) ((b - o) / 4)).toNat / 256 ^ ((b - o) % 4))) ∧
        (¬(o ≤ b ∧ here ((b - o) / 4)) → t.cc.vault.byte s.lc.owner b = s.cc.vault.byte s.lc.owner b)
      (k + 1 < rows →
        Pauses (.stv c ty ocl a off v n) c s
          { w with n := k + 1, held := if s.rowsDone = none then some (s.cc.ticket, ⟨o, o + 256 * rows, true⟩) else w.held }
          fun t => stores t ∧ t.cc.rest = { s.cc.rest with
            vault := t.cc.vault, ticket := s.cc.ticket + if s.rowsDone = none then 1 else 0 }) ∧
      (k + 1 = rows → Acts (.stv c ty ocl a off v n) c s (s.sq.pc + 16) fun t =>
        t.sq.results = s.sq.results ∧ Silent u t ∧ stores t ∧ t.cc.rest = { s.cc.rest with vault := t.cc.vault }))

/-- R155, R302: `ATOM` reads the old value into its register and stores the new one in one access: in the own vault,
in global memory, or at another core's vault, from which the answer completes it. A failed cas stores nothing. -/
def Obligations.atomicResult : Prop :=
  ∀ (c : Ctl) (ty : Ty) (op : AtomOp) (ord : AtomOrd) (ocl : BitVec 4) (scp : BitVec 3) (d a v : Fin 32) (cmp : Option (Fin 32)) (s : State),
    let i : Instr := .atom c ty op ord ocl scp d a v cmp
    let u := s.startIssue c
    let p := s.rs a
    let n := ty.width / 8
    let x := tyLow ty (s.rs v)
    let y := tyLow ty ((cmp.map s.rs).getD 0)
    let new (o : BitVec ty.width) : BitVec ty.width := match op with
      | .add => o + x
      | .min => if tyRead ty (tyExtend ty o) ≤ tyRead ty (tyExtend ty x) then o else x
      | .max => if tyRead ty (tyExtend ty x) ≤ tyRead ty (tyExtend ty o) then o else x
      | .and => o &&& x
      | .or => o ||| x
      | .xor => o ^^^ x
      | .swap => x
      | .cas => if o = y then x else o
    let sec := bt s.sq.sSec v.val
    let early := (ord = .rel ∨ ord = .ar → u.allPerformed = true)
    Issues i c s → i.wf = true → p.toNat % n = 0 → early →
      (∀ o, u.classHeld ocl hereTarget = false → (sec = true → s.lc.flagS = true) →
        u.decodePtr s.cur.val p n true = .at_ (.vault s.cur.val o) → s.cc.vault.bad o n = false →
        let old := BitVec.ofNat ty.width (leNat (u.readVault s.cur.val o n))
        Acts i c s (s.sq.pc + 16) fun t => Holds t d (tyExtend ty old) ∧ t.sq.results = s.sq.results ∧ Silent u t ∧
          t.cc.rest = { s.cc.rest with vault := t.cc.vault } ∧
          VaultWrites s.lc.owner o (leBytes n (new old).toNat) s.cc.vault t.cc.vault) ∧
      (∀ w ps g, u.classHeld ocl hereTarget = false → u.ownRemote p n = false → u.decodePtr s.cur.val p n true = .at_ .glob →
        u.checkStore (u.mcur c) p n sec = .ok w [⟨ps, n, g⟩] →
        u.scopeFor (ord != .none) (ord == .acq || ord == .ar) true scp p [⟨ps, n, g⟩] = none → Ordinary s [⟨ps, n, g⟩] →
        w.poisonAt ps n = none →
        let old := BitVec.ofNat ty.width (leNat (w.readPhys (ownerTag s.lc.fn) g.sh ps n))
        ActsWide u i s (s.sq.pc + 16) fun t => Holds t d (tyExtend ty old) ∧ t.sq.results = s.sq.results ∧ Silent u t ∧
          (w.CleanMsc → t.mem = (if op = .cas ∧ old ≠ y then w.mem else w.mem.write ps (leBytes n (new old).toNat))) ∧
          t.cc.rest = { s.cc.rest with tlb := t.cc.tlb }) ∧
      (∀ k o, k ≠ s.cur.val → u.classHeld ocl k = false → (sec = true → s.lc.flagS = true) →
        u.decodePtr s.cur.val p n true = .at_ (.vault k o) →
        Gives (exec i s) fun t => (∀ r, t.rs r = s.rs r) ∧ t.sq.pc = s.sq.pc ∧ t.mem = s.mem ∧
          ∃ q : VReq, t.vreqs = s.vreqs ++ [q] ∧ t.sq.wait = some (.vault q.id) ∧ q.target = k ∧ q.off = o ∧ q.n = n ∧ q.ty = ty ∧
            q.kind = .atom op ((cmp.map s.rs).getD 0) ∧ q.val = s.rs v ∧ q.acted = false)

/-- R126, R350: `PREF` is a hint: it always retires and changes no register and no byte of memory, but for the event
that reports a poisoned block which it brings in (R138) or which it makes an MSC write back (log 53); one that would
fault is dropped, and counted. R126, R195: `APREF` is a hint: it always retires and changes no register and no byte
of memory; for a live handle of its own owner, neither of whose factor pages would fault, each is then cached or on
its way. -/
def Obligations.hintResult : Prop :=
  (∀ (c : Ctl) (a : Fin 32) (len : Option (Fin 32)) (off : Word32) (s : State),
      let i : Instr := .pref c a len off
      let u := s.startIssue c
      let p := s.rs a + off.signExtend 64
      let h := (u.fnRegs s.lc.fn).hintdrop
      Issues i c s → ActsWide u i s (s.sq.pc + 16) fun t =>
        (s.memPois = [] → s.CleanMsc → t.mem = s.mem) ∧ t.cc.rest = s.cc.rest ∧ t.sq.results = s.sq.results ∧ Silent u t ∧
        (len = none → 2 ^ 57 ≤ p.toNat → s.lc.fn < 65 →
          (t.fnRegs s.lc.fn).hintdrop = if h = BitVec.allOnes 48 then h else h + 1)) ∧
  (∀ (c : Ctl) (h : Fin 32) (s : State),
      let i : Instr := .apref c h
      let u := s.startIssue c
      let n := (s.rs h).toNat
      Issues i c s → ActsWide u i s (s.sq.pc + 16) fun t =>
        t.mem = s.mem ∧ t.cc.rest = s.cc.rest ∧ t.sq.results = s.sq.results ∧ Silent u t ∧
        ∀ e pageB, 0 < n → n < 2 ^ 20 → u.attEntry s.lc.cfg n = some e → entOk e = true → entOwner e = (ownerTag s.lc.fn).toNat →
          s.lc.cfg.acWays ≠ 0 → u.acWays ≠ 0 → u.pageFaults e false = false → u.pageFaults e true = false → t.cachedPage (BitVec.ofNat 20 n) (entVer e) pageB = true ∨
            ∃ f ∈ t.afetch, f.handle.toNat = n ∧ f.ver = entVer e ∧ f.pageB = pageB)

/-! ## Copies, tiles, barriers and streams -/

/-- R162, R313: `CNEST` sets one level of the loop nest: a count of 1 to 65536 and two strides that fit 32 bits;
each other value traps BOUNDS with it and a subcode. R105, R367, R368, Table 6.6: `TSET` moves a tile between
EMPTY and READY and traps TILE from any other state or toward any other value; `TSET.def` gives an EMPTY tile a
new region. -/
def Obligations.nestAndTileResult : Prop :=
  (∀ (c : Ctl) (l : Fin 6) (n : SOp) (ss ds : Fin 32) (s : State),
      let i : Instr := .cnest c l n ss ds
      let u := s.startIssue c
      let fits (x : Word) : Prop := -2 ^ 31 ≤ x.toInt ∧ x.toInt < 2 ^ 31
      let count : Prop := 1 ≤ (s.sop n).toNat ∧ (s.sop n).toNat ≤ 65536
      let traps (v : Word) (sub : Nat) : Prop := Traps i c s ⟨cBOUNDS, v, wd sub⟩
      Issues i c s →
        (count → fits (s.rs ss) → fits (s.rs ds) → Acts i c s (s.sq.pc + 16) fun t =>
          t.sq.results = s.sq.results ∧ Silent u t ∧
          t.cc.rest = { s.cc.rest with nest := vset s.cc.nest l.val ⟨(s.sop n).toNat, (s.rs ss).toInt, (s.rs ds).toInt⟩ }) ∧
        (¬count → traps (s.sop n) l.val) ∧ (count → ¬fits (s.rs ss) → traps (s.rs ss) (0x10 + l.val)) ∧
        (count → fits (s.rs ss) → ¬fits (s.rs ds) → traps (s.rs ds) (0x20 + l.val))) ∧
  (∀ (c : Ctl) (r a : Fin 32) (n : SOp) (s : State),
      let u := s.startIssue c
      let e := s.cc.tile r
      let free : Prop := e.state = .empty ∨ e.state = .ready
      let v := s.sop n
      let d := s.rs a
      let off := d.toNat % 2 ^ 21
      let size := d.toNat / 2 ^ 21 % 2 ^ 18
      let sets (i : Instr) (x : Tile) : Prop := Acts i c s (s.sq.pc + 16) fun t => t.sq.results = s.sq.results ∧ Silent u t ∧
        t.cc.rest = { s.cc.rest with tiles := vset s.cc.tiles r.val x }
      (Issues (.tset c r n) c s → free → v = 0 → sets (.tset c r n) { e with state := .empty }) ∧
      (Issues (.tset c r n) c s → free → v = 2 → sets (.tset c r n) { e with state := .ready }) ∧
      (Issues (.tset c r n) c s → ¬(free ∧ (v = 0 ∨ v = 2)) →
        Traps (.tset c r n) c s ⟨cTILE, wd r.val, wd e.state.code⟩) ∧
      (Issues (.tsetDef c r a) c s → e.state = .empty → d.toNat / 2 ^ 39 % 2 ^ 24 = 0 → 1 ≤ size → size ≤ 131072 →
        off / 131072 = (off + size - 1) / 131072 → off + size ≤ 1024 * s.lc.foot →
        Acts (.tsetDef c r a) c s (s.sq.pc + 16) fun t => t.sq.results = s.sq.results ∧ Silent u t ∧
          t.cc.rest = { s.cc.rest with
            tiles := vset s.cc.tiles r.val ⟨if 2 ^ 63 ≤ d.toNat then .ready else .empty, size, off⟩
            filledC := SMap.erase s.cc.filledC r.val, filledG := SMap.erase s.cc.filledG r.val }) ∧
      (Issues (.tsetDef c r a) c s → e.state ≠ .empty →
        Traps (.tsetDef c r a) c s ⟨cTILE, wd r.val, wd e.state.code⟩))

/-- R104, R163, R316, R317: a `CPY` or `CPYM` that passes its checks retires once it is queued; its destination
tile fills and its source tile drains. No byte of memory changes yet but by the reading of the shape record.
R169, R328, R357: a `GATHER` or `SCATTER` that passes its checks retires once it is queued, with its tiles,
base, pitch and bank formats as they stand at issue; the gather's tile fills, the scatter's drains. -/
def Obligations.copyQueued : Prop :=
  (∀ (c : Ctl) (dst src : TS) (b : SOp) (bar sh : Option (Fin 32)) (str : BitVec 2) (last : Bool) (d : Fin 32) (m : Fin 16) (s : State),
      let u := s.startIssue c
      let queued (i : Instr) (dst : TS) (sh : Option (Fin 32)) (f : Option Follow) : Prop := Issues i c s →
        CopyReady u dst src (s.sop b) bar sh → (sh.isSome = true → u.pathHeld ((sh.map s.rs).getD 0) 64 = false) →
        ∀ v shape, u.readShape c sh = .ok v shape →
        let x := u.copyOf c dst src (s.sop b) bar shape f
        u.copyChecks { x with ticket := 0 } ((sh.map s.rs).getD 0) = none →
        ActsWide u i s (s.sq.pc + 16) fun t => t.mem = v.mem ∧ t.sq.results = s.sq.results ∧ Silent u t ∧
          t.cc.rest = { s.cc.rest with
            vault := { s.cc.vault with soft := t.cc.vault.soft }, tlb := t.cc.tlb
            copyQ := s.cc.copyQ ++ [x], ticket := s.cc.ticket + 1
            tiles := t.cc.tiles, filledC := t.cc.filledC, filledG := t.cc.filledG } ∧
          ∀ r, t.cc.tile r = { s.cc.tile r with
            state := if dst = .t r then .filling else if src = .t r then .draining else (s.cc.tile r).state }
      queued (.cpy c dst src b bar sh) dst sh none ∧
      queued (.cpym c str last d src b bar m) (.t d) none (some ⟨vget 0 s.cc.m m.val, str, last⟩)) ∧
  (∀ (c : Ctl) (a t0 p ix : Fin 32) (bar : Option (Fin 32)) (b : Word32) (s : State),
      let u := s.startIssue c
      let queued (i : Instr) (sc : Bool) : Prop :=
        let e := s.cc.tile t0
        let ti := s.cc.tile ix
        let x : GathCmd := ⟨s.cc.ticket, sc, s.rs a, t0, e.off, e.size, ix, ti.off, ti.size / 4, s.rs p, b.toNat, s.cc.nest,
          bar.map fun r => (s.rs r).toNat % 2 ^ 21, s.cc.bfmt, 0, none, none, s.sq.mode == 0, c.hint.toNat⟩
        Issues i c s → t0 ≠ ix → e.state = (if sc then .ready else .empty) → ti.state = .ready → s.cc.gathQ.length < 9 →
        (∀ r, bar = some r → (s.rs r).toNat % 16 = 0) → u.copyPtr sc (.s a) = none → u.barPtr bar = none →
        1 ≤ b.toNat → b.toNat ≤ 4096 → ti.size % 4 = 0 → x.rows * (if sc then x.b else x.bd) ≤ e.size → x.whole = true →
        (sc = false → u.pairBarrier t0 bar = false) →
        Acts i c s (s.sq.pc + 16) fun t => t.sq.results = s.sq.results ∧ Silent u t ∧
          t.cc.rest = { s.cc.rest with
            gathQ := s.cc.gathQ ++ [x], ticket := s.cc.ticket + 1, tiles := t.cc.tiles
            filledC := t.cc.filledC, filledG := t.cc.filledG } ∧
          ∀ r, t.cc.tile r = if r = t0 then { e with state := if sc then .draining else .filling } else s.cc.tile r
      queued (.gather c t0 a p ix bar b) false ∧ queued (.scatter c a t0 p ix bar b) true)

/-- R170, R171, R364, R365: `TBINIT` writes a barrier with its count pending and nothing else; `TBARV` adds to its
sectors and counts one arrival, with ERR where none is pending or the sum leaves 32 bits, and the phase completes
once neither is left; `TBWAIT` retires once the phase that it names has completed, and changes nothing but that the
barrier it reads has its single-bit errors corrected (R247). -/
def Obligations.barrierResult : Prop :=
  ∀ (c : Ctl) (chk : Bool) (a : Fin 32) (n : SOp) (o : Nat) (s : State),
    let u := s.startIssue c
    let v := (s.sop n).toNat
    let b := u.bar s.cur.val o
    let sum : Int := b.sec + v
    let wraps : Prop := ¬sum < 2 ^ 31
    let sec1 : Int := if sum < 2 ^ 31 then sum else sum - 2 ^ 32
    let arr1 := b.arr - 1
    let done := arr1 = 0 ∧ sec1 = 0
    let plain : Prop := s.cc.vault.Plain ∧ u.classHeld 0 hereTarget = false
    (Issues (.tbinit c a n) c s → plain → u.barIssue (.tbinit c a n) a n 1 1048575 true = .inr o →
      (u.barSec (.tbinit c a n) c = true → s.lc.flagS = true) →
      Acts (.tbinit c a n) c s (s.sq.pc + 16) fun t => t.sq.results = s.sq.results ∧ Silent u t ∧
        t.cc.rest = { s.cc.rest with vault := t.cc.vault } ∧ t.bar s.cur.val o = ⟨0, v, 0, v, false⟩ ∧
        ∀ x, x < o ∨ o + 16 ≤ x → t.cc.vault.byte s.lc.owner x = s.cc.vault.byte s.lc.owner x) ∧
    (Issues (.tbarv c a n) c s → plain → u.barIssue (.tbarv c a n) a n 0 (2 ^ 31 - 1) true = .inr o →
      u.vaultBad o 16 (s.rs a) = none → (u.barSec (.tbarv c a n) c = true → s.lc.flagS = true) → b.Fits →
      ActsFrom (if done then u.wake s.cur.val else u) (.tbarv c a n) s (s.sq.pc + 16) fun t =>
        t.sq.results = s.sq.results ∧ Silent u t ∧
        t.cc.rest = { s.cc.rest with vault := t.cc.vault, eerr0 := t.cc.eerr0, eerr1 := t.cc.eerr1 } ∧
        (0 < b.arr → t.cc.eerr0 = s.cc.eerr0 ∧ t.cc.eerr1 = s.cc.eerr1) ∧
        (t.bar s.cur.val o).ph = (if done then (b.ph + 1) % 16 else b.ph) ∧
        (t.bar s.cur.val o).arr = (if done then b.rld else arr1) ∧ (t.bar s.cur.val o).sec = sec1 ∧
        (t.bar s.cur.val o).rld = b.rld ∧ ((t.bar s.cur.val o).err = true ↔ b.err = true ∨ wraps ∨ b.arr = 0) ∧
        ∀ x, x < o ∨ o + 16 ≤ x → t.cc.vault.byte s.lc.owner x = s.cc.vault.byte s.lc.owner x) ∧
    (Issues (.tbwait c chk a n) c s → u.barIssue (.tbwait c chk a n) a n 0 15 false = .inr o → u.vaultBad o 16 (s.rs a) = none →
      ((b.ph + 31 - v) % 16 < 8 → (chk = true → b.err = false) → Acts (.tbwait c chk a n) c s (s.sq.pc + 16) fun t =>
        t.sq.results = s.sq.results ∧ Silent u t ∧ t.cc.rest = { s.cc.rest with vault := s.cc.vault.correct o 16 }) ∧
      (8 ≤ (b.ph + 31 - v) % 16 → exec (.tbwait c chk a n) s = .next u))

/-- R318 to R320: `CSPUSH` appends the selected lanes of a register to a stream in lane order, and `CSPOP` moves its
first 1,024 elements to a register; each moves its count. -/
def Obligations.streamResult : Prop :=
  ∀ (c : Ctl) (r d a : Fin 32) (s : State),
    let u := s.startIssue c
    let x := u.stream s.cur.val r
    StreamReady u r →
    (∀ ls : List Nat, Issues (.cspush c r a) c s → ls.Pairwise (· < ·) → (∀ l, l ∈ ls ↔ l < 1024 ∧ u.isOn c l) →
      x.fill + ls.length ≤ x.cap →
      ((bt u.cc.x.vSec a.val || bt u.cc.x.pSec c.lPred.val) = true → s.lc.flagS = true) →
      Acts (.cspush c r a) c s (s.sq.pc + 16) fun t => t.sq.results = s.sq.results ∧ Silent u t ∧
        t.cc.rest = { s.cc.rest with vault := t.cc.vault } ∧
        (s.cc.vault.Plain → t.stream s.cur.val r = { x with wr := (x.wr + ls.length) % 2 ^ 32 } ∧
          t.getElems s.cur.val x x.wr ls.length = ls.map fun l => lane (u.rv a) l)) ∧
    (Issues (.cspop c d r) c s → 1024 ≤ x.fill → u.streamBad s.cur.val x x.rd 1024 = none →
      Acts (.cspop c d r) c s (s.sq.pc + 16) fun t => t.sq.results = s.sq.results ∧ Silent u t ∧
        t.cc.rest = { s.cc.rest with vault := t.cc.vault } ∧
        (∀ l, l < 1024 → (lane (t.rv d) l).toNat = leNat (u.readVault s.cur.val (x.at_ (x.rd + l)) 4)) ∧
        (s.cc.vault.Plain → t.stream s.cur.val r = { x with rd := (x.rd + 1024) % 2 ^ 32 }))

/-! ## Collectives -/

/-- R57, R60, R173, R177, R303, R321, R348, R385: a collective or `WAITI` is taken up and waits, with its operands and
its arrival slot, for the step that completes it. `State.timebase` counts nanoseconds as log 7 derives them. -/
def Obligations.collectiveArrives : Prop :=
  ∀ (c : Ctl) (lw lh : BitVec 3) (tf tb d r : Fin 32) (p : Fin 16) (ty : Ty) (sp rel : Bool) (b : SOp) (s : State),
    let u := s.startIssue c
    let other := s.cc.seq (SeqId.other s.curSeq)
    let still := u.sq.travels = false
    let fits (lw lh : BitVec 3) : Prop := 2 ^ lw.toNat ≤ s.lc.wid ∧ 2 ^ lh.toNat ≤ s.lc.hgt ∧
      ∀ w h t, other.wait = some (.bar w h t) → w = lw ∧ h = lh
    let aw : BitVec 3 := BitVec.ofNat 3 (Nat.log2 s.lc.wid)
    let ah : BitVec 3 := BitVec.ofNat 3 (Nat.log2 s.lc.hgt)
    (Issues (.bar c lw lh) c s → still → fits lw lh → Arrives (.bar c lw lh) c s (.bar lw lh s.cycle) fun t =>
      t.sq.barShape = some (lw, lh)) ∧
    (Issues (.barAll c) c s → still → fits aw ah → Arrives (.barAll c) c s (.bar aw ah s.cycle) fun t =>
      t.sq.barShape = some (aw, ah)) ∧
    (∀ o, Issues (.xch c) c s → still → s.cc.xbase.toNat % 16 = 0 →
      u.ownVault s.cur.val s.cc.xbase (16 * s.cc.nent) false = .inr o → s.lc.flagX = true → s.cc.stepLen ≠ 0 →
      s.cc.vault.bad o (16 * s.cc.nent) = false → u.badEntry s.cur.val (u.schedule s.cur.val) = none →
      Arrives (.xch c) c s (.xch s.cycle) fun t => t.sq.rest = s.sq.rest) ∧
    (Issues (.phase c tf tb) c s → still → s.lc.flagH = true → (∀ x y, other.wait = some (.phase x y) → x = tf ∧ y = tb) →
      Arrives (.phase c tf tb) c s (.phase tf tb) fun t => t.sq.rest = s.sq.rest) ∧
    (Issues (.csbal c d p r) c s → still → StreamReady u r →
      (let x := u.stream s.cur.val r; u.streamBad s.cur.val x x.rd x.fill) = none →
      Arrives (.csbal c d p r) c s (.csbal d p r s.cycle) fun t => t.sq.rest = s.sq.rest) ∧
    (Issues (.mshapeGrp c ty sp d b) c s → still → s.curSeq = .xs → (grpShape (s.sop b)).1 ≤ s.lc.wid → (grpShape (s.sop b)).2 ≤ s.lc.hgt →
      s.cc.matQ = [] →
      (∀ k ∈ s.lc.copyCores s.cc.copy1, ∀ r, (k = s.cur.val ∧ r = s.sop b ∨ ∃ x, (s.core k).grpAt = some x ∧ x.1 = r) →
        ∃ j ∈ u.groupCores k (grpShape r), j ≠ s.cur.val ∧ (s.core j).grpAt = none) →
      Arrives (.mshapeGrp c ty sp d b) c s (.shapeGrp (s.sop b) ty sp d (u.srcSec (Instr.mshapeGrp c ty sp d b).regs c)) fun t =>
        t.sq.rest = s.sq.rest) ∧
    (Issues (.waiti c rel b) c s →
      Arrives (.waiti c rel b) c s (.until (if rel then s.timebase + s.sop b else s.sop b)) fun t =>
        t.sq.rest = s.sq.rest)

/-! ## Matrix array and adapters -/

/-- R176: `MSHAPE` grants M, N and K rounded up and limited, clears both planes and the bindings, and writes the
grant to sd in the request's layout; a nonzero bit in 63:27 traps SHAPE with the request. R177, R336: where the
request of `MSHAPE.grp` asks for a group of one core, that core is granted at once (log 39), and the other bits of sd
are zero. In a larger group the last arrival completes it: where every request is equal each core is granted its slice,
and its register holds the grant and the slice's place; where one differs each core traps SHAPE with its own request
(here with handlers, so that no launch ends). -/
def Obligations.shapeGranted : Prop :=
  (∀ (c : Ctl) (ty : Ty) (sp : Bool) (d : Fin 32) (b : SOp) (s : State),
      let i : Instr := .mshape c ty sp d b
      let u := s.startIssue c
      let r := (s.sop b).toNat
      let up (x n : Nat) : Nat := (x + n - 1) / n * n
      let g : Grant :=
        { m := min 128 (up (r % 256 + 1) 8)
          n := min 128 (up (r / 2 ^ 8 % 256 + 1) 16)
          k := min ((if sp then 2 else 1) * ty.maxK) (up (r / 2 ^ 16 % 256 + 256 * (r / 2 ^ 26 % 2) + 1) 16)
          g := 2 ^ (r / 2 ^ 24 % 4)
          ty := ty
          sp := sp }
      Issues i c s →
        (r < 2 ^ 27 → s.cc.matQ = [] → Acts i c s (s.sq.pc + 16) fun t => t.sq.results = s.sq.results ∧ Silent u t ∧
          Holds t d (wd (g.m - 1 + 2 ^ 8 * (g.n - 1) + 2 ^ 16 * ((g.k - 1) % 256) + 2 ^ 24 * (r / 2 ^ 24 % 4) + 2 ^ 26 * ((g.k - 1) / 256))) ∧
          t.cc.rest = { s.cc.rest with grant := some g, shadow := none, active := none, binds := [], bindNow := none }) ∧
        (2 ^ 27 ≤ r → Traps i c s ⟨cSHAPE, s.sop b, 0⟩)) ∧
  (∀ (c : Ctl) (ty : Ty) (sp : Bool) (d : Fin 32) (b : SOp) (s : State),
      let i : Instr := .mshapeGrp c ty sp d b
      let u := s.startIssue c
      let r := (s.sop b).toNat
      let up (x n : Nat) : Nat := (x + n - 1) / n * n
      let m := r % 2 ^ 11 + 1
      let n := r / 2 ^ 11 % 2 ^ 10 + 1
      let k := min ((if sp then 2 else 1) * ty.maxK) (up (r / 2 ^ 21 % 256 + 256 * (r / 2 ^ 31 % 2) + 1) 16)
      Issues i c s → u.sq.travels = false → s.curSeq = .xs → m ≤ 128 → n ≤ 128 → 1 ≤ s.lc.wid → 1 ≤ s.lc.hgt → s.cc.matQ = [] →
        s.lc.coreOf s.cc.copy1 s.cc.rank = s.cur.val → s.cc.rank < s.lc.wid * s.lc.hgt →
        (∀ k, (s.core k).grpAt = none) →
        Gives (exec i s) fun t => OutsideSame u t ∧ RegsSame { sW := [d] } u t ∧ t.sq.pc = s.sq.pc + 16 ∧ t.sq.wait = none ∧
          Holds t d (wd (up m 8 - 1 + 2 ^ 11 * (up n 16 - 1) + 2 ^ 21 * ((k - 1) % 256) + 2 ^ 29 * (r / 2 ^ 29 % 4) + 2 ^ 31 * ((k - 1) / 256))) ∧
          t.cc.rest = { s.cc.rest with
            grant := some { m := up m 8, n := up n 16, k := k, g := 2 ^ (r / 2 ^ 29 % 4), ty := ty, sp := sp }
            shadow := none, active := none, binds := [], bindNow := none }) ∧
  (∀ (c : Ctl) (ty : Ty) (sp : Bool) (d : Fin 32) (b : SOp) (p q : Nat) (dst : Nat → Fin 32) (req : Nat → Word) (s : State),
      let i : Instr := .mshapeGrp c ty sp d b
      let u := s.startIssue c
      let r := (s.sop b).toNat
      let up (x n : Nat) : Nat := (x + n - 1) / n * n
      let m := r % 2 ^ 11 + 1
      let n := r / 2 ^ 11 % 2 ^ 10 + 1
      let k := min ((if sp then 2 else 1) * ty.maxK) (up (r / 2 ^ 21 % 256 + 256 * (r / 2 ^ 31 % 2) + 1) 16)
      let gw := 2 ^ p
      let gh := 2 ^ q
      let mc := up ((m + gw - 1) / gw) 8
      let nc := up ((n + gh - 1) / gh) 16
      let grp := u.groupCores s.cur.val (gw, gh)
      let least (x e : Nat) : Prop := (x + 127) / 128 ≤ 2 ^ e ∧ (e = 0 ∨ 2 ^ (e - 1) < (x + 127) / 128)
      let wait (j : Nat) : Prop := ∃ tj sj cj, (s.core j).grpAt = some (req j, tj, sj, dst j, cj)
      Issues i c s → u.sq.travels = false → s.curSeq = .xs → least m p → least n q → gw ≤ s.lc.wid → gh ≤ s.lc.hgt →
        s.cur.val ∈ grp → grp.Nodup → req s.cur.val = s.sop b → dst s.cur.val = d →
        (∀ j ∈ grp, j < 384 ∧ j ∈ s.lc.copyCores s.cc.copy1 ∧ s.launchOn j = s.lc ∧ (s.core j).matQ = [] ∧
          u.groupCores j (gw, gh) = grp) →
        (∀ j ∈ s.lc.copyCores s.cc.copy1, j ∉ grp → (s.core j).grpAt = none) →
        ((∀ j ∈ grp, j ≠ s.cur.val → ∃ cj, (s.core j).grpAt = some (s.sop b, ty, sp, dst j, cj)) →
          Gives (exec i s) fun t => t = { u with cores := t.cores } ∧ (∀ j : Nat, j ∉ grp → t.core j = s.core j) ∧
            ∀ j ∈ grp, (t.core j).xs.wait = none ∧ (t.core j).xs.pc = (s.core j).xs.pc + 16 ∧
              (t.core j).grant = some { m := mc, n := nc, k := k, g := 2 ^ (r / 2 ^ 29 % 4), ty := ty, sp := sp } ∧
              (t.core j).shadow = none ∧ (t.core j).active = none ∧ (t.core j).binds = [] ∧ (t.core j).bindNow = none ∧
              ∀ x, (t.core j).xs.rs x = if x = 0 then 0 else if x = dst j then
                wd (mc * gw - 1 + 2 ^ 11 * (nc * gh - 1) + 2 ^ 21 * ((k - 1) % 256) + 2 ^ 29 * (r / 2 ^ 29 % 4) +
                  2 ^ 31 * ((k - 1) / 256) + 2 ^ 32 * (mc * ((s.core j).rank % s.lc.wid % gw)) +
                  2 ^ 43 * (nc * ((s.core j).rank / s.lc.wid % gh)))
              else (s.core j).xs.rs x) ∧
        ((∀ j ∈ grp, grpShape (req j) = (gw, gh) ∧ (s.core j).xs.inh = false ∧ (s.core j).xs.tvec ≠ 0 ∧ (j ≠ s.cur.val → wait j)) →
          (∃ j ∈ grp, req j ≠ s.sop b) →
          ∃ v, OutsideSame u v ∧ v.cc.rest = s.cc.rest ∧ RegsSame {} u v ∧ v.sq.pc = s.sq.pc ∧
            exec i s = .next (grp.foldl (fun w j => w.trapOn j .xs ⟨cSHAPE, req j, 0⟩) v)))

/-- R179 to R184, R335: a matrix command that passes its checks retires once it is queued, with its tile, bank format,
descriptor and bindings as they stand at issue. -/
def Obligations.matrixQueued : Prop :=
  ∀ (c : Ctl) (sp last sat : Bool) (str : BitVec 2) (ty : Ty) (rnd : Rnd) (m : Fin 16) (r : Fin 32) (g : Grant) (s : State),
    let u := s.startIssue c
    let e := s.cc.tile r
    let f := s.cc.tileFmt r
    let d := vget 0 s.cc.m m.val
    let z := g.region d
    let bind := s.cc.bindNow.getD 0
    let mode := match rnd with
      | .dyn => (Rnd.ofCode u.cc.x.rmode.toNat).getD .rne
      | q => q
    let queues (i : Instr) (x : MatCmd) : Prop := Acts i c s (s.sq.pc + 16) fun t =>
      t.sq.results = s.sq.results ∧ Silent u t ∧
      t.cc.rest = { s.cc.rest with matQ := s.cc.matQ ++ [{ x with ticket := s.cc.ticket, issued := s.cc.ticket }], ticket := s.cc.ticket + 1 }
    s.cc.matFull = false → s.cc.grant = some g →
    (Issues (.mload c sp r) c s → e.state = .ready → g.ty.weightFmt (fmtTy f) = true → blkOk f e.off g.k = true →
      (sp = false → g.k ≤ g.ty.maxK) → planeBytes (fmtTy f) g.n g.k sp ≤ e.size →
      queues (.mload c sp r) (matCmd (.load sp) 0 0 r e f
        (⟨e.off, e.off + planeBytes (fmtTy f) g.n g.k sp, false⟩ :: scaleTouch f e.off (planeElems g.n g.k sp)) 0)) ∧
    (Issues (.mswap c) c s → queues (.mswap c) (matCmd .swap 0 0 0 ⟨.empty, 0, 0⟩ 0 [] 0)) ∧
    (Issues (.mmul c str last m r) c s → e.state = .ready → s.cc.mulTrap false d r = none →
      queues (.mmul c str last m r) (matCmd (.mul false last) str d r e f (elemTouch f e.off (z.r * g.k)) bind)) ∧
    (Issues (.mmuls c str last m r) c s → e.state = .ready → s.cc.mulTrap true d r = none →
      queues (.mmuls c str last m r) (matCmd (.mul true last) str d r e f (elemTouch f e.off (z.r * g.k)) bind)) ∧
    (Issues (.mzero c str m) c s → z.inside = true → queues (.mzero c str m) (matCmd .zero str d 0 ⟨.empty, 0, 0⟩ 0 [] 0)) ∧
    (Issues (.mdrain c str ty rnd sat r m) c s → e.state = .ready → z.inside = true → Ty.ofCode (f.toNat % 256) = some ty →
      blkSize f = 0 → z.r * z.c * ty.width ≤ 8 * e.size →
      queues (.mdrain c str ty rnd sat r m) (matCmd (.drain ty mode sat) str d r e f
        [⟨e.off, e.off + (z.r * z.c * ty.width + 7) / 8, true⟩] 0))

/-- R352: a queue that runs the other way traps QUEUE with its number; a full queue or an empty one is waited
for, and the instruction has not issued. R57, R303: a `BAR` larger than the launch, or of another shape than the
core's other sequencer waits at, traps SHAPE; that EINFO0 is then its shape word for a `BAR` too large as well is log 34.
R176, R183, R335: without a grant every matrix command but `MSHAPE` traps SHAPE with EINFO0 = 0; a command for which
the queue has no room, or whose tile is not READY, waits and has not issued. -/
def Obligations.queueAndShapeTraps : Prop :=
  (∀ (c : Ctl) (q : Fin 8) (f : Fin 8) (z : Bool) (d a : Fin 32) (off : Word32) (s : State),
      let u := s.startIssue c
      let other := SeqId.other s.curSeq
      (Issues (.qpush c q a) c s → ¬(q.val < 6 ↔ s.curSeq = .as) →
        Traps (.qpush c q a) c s ⟨cQUEUE, wd q.val, 0⟩) ∧
      (Issues (.qpop c d q) c s → (q.val < 6 ↔ s.curSeq = .as) →
        Traps (.qpop c d q) c s ⟨cQUEUE, wd q.val, 0⟩) ∧
      (Issues (.qpush c q a) c s → (q.val < 6 ↔ s.curSeq = .as) → 32 ≤ (s.cc.queue q).length →
        exec (.qpush c q a) s = .next u) ∧
      (Issues (.qpop c d q) c s → ¬(q.val < 6 ↔ s.curSeq = .as) → s.cc.queue q = [] → exec (.qpop c d q) s = .next u) ∧
      (Issues (.bqsend c f) c s → 64 ≤ (s.cc.bqIn other).length → exec (.bqsend c f) s = .next u) ∧
      (Issues (.bqbr c z off) c s → s.cc.bqIn s.curSeq = [] → exec (.bqbr c z off) s = .next u)) ∧
  (∀ (c : Ctl) (lw lh : BitVec 3) (s : State), Issues (.bar c lw lh) c s →
      (s.lc.wid < 2 ^ lw.toNat ∨ s.lc.hgt < 2 ^ lh.toNat ∨
        ∃ w h t, (s.cc.seq (SeqId.other s.curSeq)).wait = some (.bar w h t) ∧ ¬(w = lw ∧ h = lh)) →
      Traps (.bar c lw lh) c s ⟨cSHAPE, wd (lw.toNat + 16 * lh.toNat), 0⟩) ∧
  (∀ (c : Ctl) (sp last sat : Bool) (str : BitVec 2) (ty : Ty) (rnd : Rnd) (m : Fin 16) (r b : Fin 32) (ob : Option (Fin 32)) (s : State),
      let u := s.startIssue c
      (s.cc.grant = none → ∀ i ∈ ([.mload c sp r, .mswap c, .mmul c str last m r, .mmuls c str last m r, .mzero c str m,
          .mdrain c str ty rnd sat r m, .madpt c ob b] : List Instr),
        Issues i c s → Traps i c s ⟨cSHAPE, 0, 0⟩) ∧
      (∀ sparse, s.cc.mulTrap sparse (vget 0 s.cc.m m.val) r = none → s.cc.matFull = true ∨ (s.cc.tile r).state ≠ .ready →
        let i : Instr := if sparse then .mmuls c str last m r else .mmul c str last m r
        Issues i c s → exec i s = .next u) ∧
      ∀ g, s.cc.grant = some g →
        let e := s.cc.tile r
        let f := s.cc.tileFmt r
        let z := g.region (vget 0 s.cc.m m.val)
        let full := s.cc.matFull = true
        let waits (i : Instr) : Prop := Issues i c s → exec i s = .next u
        let base := (s.rs b).toNat < 2 ^ 16 ∧ (s.rs b).toNat % 16 = 0
        (g.ty.weightFmt (fmtTy f) = true → blkOk f e.off g.k = true → (sp = false → g.k ≤ g.ty.maxK) →
          planeBytes (fmtTy f) g.n g.k sp ≤ e.size → full ∨ e.state ≠ .ready → waits (.mload c sp r)) ∧
        (full → waits (.mswap c)) ∧
        (z.inside = true → full → waits (.mzero c str m)) ∧
        (z.inside = true → Ty.ofCode (f.toNat % 256) = some ty → blkSize f = 0 → z.r * z.c * ty.width ≤ 8 * e.size →
          full ∨ e.state ≠ .ready → waits (.mdrain c str ty rnd sat r m)) ∧
        (base → full → waits (.madpt c none b)) ∧
        (base → 4 * ((g.m + g.g - 1) / g.g) ≤ e.size → full ∨ e.state ≠ .ready → waits (.madpt c (some r) b)))

/-- R191: `MADPT` binds row groups to the binding words of its tile for the multiplies queued from then on, with
cursor and side values at zero, or with no tile clears every binding. R190: `AUNPIN` of a valid binding word
counts its pin down, and frees it at 0 unless a queued command names it; of a word with V = 0 it does nothing.
-/
def Obligations.bindingResult : Prop :=
  (∀ (c : Ctl) (r b : Fin 32) (g : Grant) (s : State),
      let u := s.startIssue c
      let e := s.cc.tile r
      let n := (g.m + g.g - 1) / g.g
      let nbase := (s.rs b).toNat % 2 ^ 16
      let ws : List Word32 := (List.range n).map fun i => BitVec.ofNat 32 (leNat (u.readVault s.cur.val (e.off + 4 * i) 4))
      let acts (i : Instr) (P : State → Prop) : Prop := Acts i c s (s.sq.pc + 16) fun t =>
        t.sq.results = s.sq.results ∧ Silent u t ∧
        t.cc.rest = { s.cc.rest with
          matQ := s.cc.matQ ++ [matCmd (.adpt (s.cc.ticket + 1)) 0 0 0 ⟨.empty, 0, 0⟩ 0 [] 0 |> fun x => { x with ticket := s.cc.ticket, issued := s.cc.ticket }]
          vault := { s.cc.vault with soft := t.cc.vault.soft }
          ticket := s.cc.ticket + 1, binds := t.cc.binds, bindNow := t.cc.bindNow } ∧ P t
      s.cc.grant = some g → s.cc.matFull = false → (s.rs b).toNat < 2 ^ 16 → (s.rs b).toNat % 16 = 0 →
      (Issues (.madpt c none b) c s → acts (.madpt c none b) fun t => t.cc.bindNow = none) ∧
      (Issues (.madpt c (some r) b) c s → 0 < n → 4 * n ≤ e.size → e.state = .ready → u.classHeld 0 hereTarget = false →
        s.cc.vault.bad e.off (4 * n) = false → (∀ w ∈ ws, s.cc.badBinding g w = false) →
        acts (.madpt c (some r) b) fun t => ∃ x ∈ t.cc.binds, t.cc.bindNow = some x.id ∧ x.nbase = nbase ∧ x.words = ws ∧
          x.cursors = [] ∧ x.xa = [])) ∧
  (∀ (c : Ctl) (b : Fin 32) (s : State),
      let i : Instr := .aunpin c b
      let u := s.startIssue c
      let v := (s.rs b).toNat
      let k := v / 2 ^ 20 % 32
      Issues i c s → v < 2 ^ 32 →
        (v < 2 ^ 31 → WritesRegs i c s fun t => Silent u t) ∧
        (∀ x, 2 ^ 31 ≤ v → vget none s.cc.pins k = some x → x.handle.toNat = v % 2 ^ 20 → 1 ≤ x.count →
          Acts i c s (s.sq.pc + 16) fun t => t.sq.results = s.sq.results ∧ Silent u t ∧
            t.cc.rest = { s.cc.rest with
              pins := vset s.cc.pins k (if x.count = 1 ∧ s.cc.pinInUse k = false then none else some { x with count := x.count - 1 }) }))

/-- R189, R198: `AXLT` of a live handle of its own owner pins the entry, spends one of its quota, and stores the
binding word (V, pin, handle) in the own vault; of handle 0 it stores 0. R196: `APUB` replaces a table entry by
the staged one, but for the quota, which stays; no other byte of memory changes but the bits that a function's dirty
bitmap keeps of the entry's block (R124). -/
def Obligations.adapterTableResult : Prop :=
  (∀ (c : Ctl) (a h : Fin 32) (off : Word32) (o : Nat) (s : State),
      let i : Instr := .axlt c a off h
      let u := s.startIssue c
      let p := s.rs a + off.signExtend 64
      let n := (s.rs h).toNat
      let stores (w : Nat) (pins : Vector (Option Pin) 32) (mem : Memory) : Prop := ActsWide u i s (s.sq.pc + 16) fun t =>
        t.sq.results = s.sq.results ∧ Silent u t ∧ t.mem = mem ∧
        t.cc.rest = { s.cc.rest with vault := t.cc.vault, pins := pins } ∧
        VaultWrites s.lc.owner o (leBytes 4 w) s.cc.vault t.cc.vault
      Issues i c s → p.toNat % 4 = 0 → u.ownVault s.cur.val p 4 true = .inr o → u.classHeld 0 hereTarget = false →
        (n = 0 → stores 0 s.cc.pins s.mem) ∧
        (∀ e k, 0 < n → n < 2 ^ 20 → u.attEntry s.lc.cfg n = some e → u.poisonAt (s.lc.cfg.attAddr n) 64 = none → entOk e = true →
          entOwner e = s.lc.owner.toNat → entQuota e ≠ 0 → s.cc.takePin n e = some k →
          stores (2 ^ 31 + 2 ^ 20 * k.1 + n) k.2.pins
            (if entQuota e = BitVec.allOnes 64 then s.mem
              else (u.dirtied (s.lc.cfg.attAddr n + 8) 8).mem.write (s.lc.cfg.attAddr n + 8) (wordBytes (entQuota e - 1))) ∧
          ∃ x, vget none k.2.pins k.1 = some x ∧ x.handle.toNat = n ∧ entVer x.entry = entVer e ∧
            x.count = ((vget none s.cc.pins k.1).map Pin.count).getD 0 + 1)) ∧
  (∀ (c : Ctl) (a h : Fin 32) (off : Word32) (s v : State) (got : Got) (cur : Line),
      let i : Instr := .apub c a off h
      let u := s.startIssue c
      let p := s.rs a + off.signExtend 64
      let n := (s.rs h).toNat
      let new := lineOf got.bytes
      Issues i c s → p.toNat % 64 = 0 → p.toNat < 2 ^ 57 → u.allPerformed = true → s.lc.flagD = false →
        u.readGlobal (u.mcur c) p 64 = .ok v got → got.bad = none → 0 < n → n < 2 ^ 20 → u.attEntry s.lc.cfg n = some cur →
        publishOk cur new = true → ActsWide u i s (s.sq.pc + 16) fun t =>
          t.sq.results = s.sq.results ∧ Silent u t ∧ t.cc.rest = { s.cc.rest with tlb := t.cc.tlb } ∧
          (v.poisonAt (s.lc.cfg.attAddr n) 64 = none → t.mem = (v.dirtied (s.lc.cfg.attAddr n) 64).mem.write (s.lc.cfg.attAddr n)
            (wordBytes (lineWord new 0) ++ wordBytes (entQuota cur) ++ (lineBytes new).drop 16)))

/-! ## The special-function unit, messages and the fabric -/

/-- R34, R35, R378: `VEXP2`, `VLOG2`, `VRCP` and `VRSQ` read their source at issue and retire with a result pending for
issue count n + 8 in the lanes guarded at issue; no register changes yet. With four pending the oldest lands
first. -/
def Obligations.specialFunctionPends : Prop :=
  ∀ (c : Ctl) (d a : Fin 32) (s : State),
    let u := (s.startIssue c).modCC (Core.makeRoom s.cycle)
    let pends (i : Instr) (fn : SfuFn) : Prop :=
      let y (l : Nat) : Nat × Flags := sfuApply fn (lane (u.rv a) l).toNat
      Issues i c s → Gives (exec i s) fun t =>
        OutsideSame u t ∧ t.cc.rest = s.cc.rest ∧ t.sq.rest = u.sq.rest ∧ RegsSame {} u t ∧ t.sq.pc = s.sq.pc + 16 ∧
        t.sq.results = s.sq.results ∧ Silent u t ∧ t.cc.count = u.cc.count + 1 ∧
        ∃ r : SfuPend, r.dst = d ∧ r.at_ = u.cc.count + 8 ∧ r.fn = fn ∧ r.lanes = u.lanes c ∧
          t.cc.x.rest = (if s.cc.xs.inh then { u.cc.x.rest with sfuH := u.cc.pipe ++ [r] } else { u.cc.x.rest with sfu := u.cc.pipe ++ [r] }) ∧
          (∀ l, l < 1024 → u.isOn c l → lane r.val l = BitVec.ofNat 32 (y l).1) ∧
          ∀ j : Nat, r.fl.getLsbD j = true ↔ ∃ l, l < 1024 ∧ u.isOn c l ∧ (y l).2.getLsbD j = true
    pends (.vexp2 c d a) .exp2 ∧ pends (.vlog2 c d a) .log2 ∧ pends (.vrcp c d a) .rcp ∧ pends (.vrsq c d a) .rsq

/-- R205 to R208, R302: `RLD` and `RATOM` put their operation on the way to the node with its next sequence number, and
wait for its value; no register changes. One for a node outside the torus traps FABRIC with its pointer and the
FERR word; one that is not naturally aligned traps ALIGN. -/
def Obligations.remoteReadSent : Prop :=
  ∀ (c : Ctl) (ty : Ty) (acq : Bool) (op : AtomOp) (ord : AtomOrd) (ocl : BitVec 4) (scp : BitVec 3) (d n a v : Fin 32)
      (cmp : Option (Fin 32)) (off : Word32) (s : State),
    let u := s.startIssue c
    let node : BitVec 12 := (s.rs n).setWidth 12
    let seq := SMap.get 0 s.seqOut node.toNat
    let sends (i : Instr) (p : Word) (kind : Nat) (rel atomic : Bool) (P : RemoteOp → Prop) : Prop :=
      Issues i c s → p.toNat % (ty.width / 8) = 0 → p.toNat < 2 ^ 57 → (s.rs n).toNat < 4096 → (atomic = true → s.lc.flagD = false) →
      u.remoteHeld ocl node rel = false →
      (u.inTorus node = true → Gives (exec i s) fun t =>
        (∀ k : Nat, k ≠ s.cur.val → t.core k = s.core k) ∧ t.mem = s.mem ∧ RegsSame {} u t ∧ t.sq.rest = u.sq.rest ∧
        t.cc.x.rest = u.cc.x.rest ∧ t.sq.pc = s.sq.pc ∧ t.cc.rest = { s.cc.rest with ticket := s.cc.ticket + 1 } ∧
        t.sq.wait = some (.remote node seq) ∧ t.seqOut = SMap.set 0 s.seqOut node.toNat (seq + 1) ∧
        (∃ x : Inflight, t.inflight = s.inflight ++ [x] ∧ x.node = node ∧ x.seq = seq ∧ x.kind = kind ∧ x.core = s.cur.val ∧
          x.from_ = s.curSeq ∧ x.dst = d ∧ x.ptr = p ∧ x.ty = ty ∧ x.sent = some s.cycle) ∧
        ∃ o : RemoteOp, t.net = s.net ++ [o] ∧ o.src = s.nodeId ∧ o.dst = node ∧ o.seq = seq ∧ o.addr = p ∧ o.ty = ty ∧
          o.fn.val = s.lc.fn % 65 ∧ o.scp = scp ∧ P o) ∧
      (u.inTorus node = false →
        let w := ferrWord false kind 0 node seq
        exec i s = .next (u.trapWith s (((u.opStart node).2.modCC fun k => if k.ferr.getLsbD 63 then k else { k with ferr := w }).markInfo
          ⟨cFABRIC, p, w⟩ (u.srcSec i.regs c)) ⟨cFABRIC, p, w⟩))
    sends (.rld c ty acq ocl scp d n a off) (s.rs a + off.signExtend 64) 0 false false (fun o =>
      o.kind = .rld ∧ o.ord = if acq then .acq else .none) ∧
    sends (.ratom c ty op ord ocl scp d n a v cmp) (s.rs a) 2 (ord == .rel || ord == .ar) true (fun o =>
      o.kind = .ratom ∧ o.op = op.code ∧ o.ord = ord ∧ o.data = (s.rs v).setWidth 512 ∧ o.cmp = (cmp.map s.rs).getD 0) ∧
    (Issues (.rld c ty acq ocl scp d n a off) c s → (s.rs a + off.signExtend 64).toNat % (ty.width / 8) ≠ 0 →
      Traps (.rld c ty acq ocl scp d n a off) c s ⟨cALIGN, s.rs a + off.signExtend 64, 0xD7⟩) ∧
    (Issues (.ratom c ty op ord ocl scp d n a v cmp) c s → (s.rs a).toNat % (ty.width / 8) ≠ 0 →
      Traps (.ratom c ty op ord ocl scp d n a v cmp) c s ⟨cALIGN, s.rs a, 0x9F⟩)

/-- R208, R342: `RST` and `MSOP` retire with their operation on the way: the value of sv, or the operand block of the
own vault; an acknowledgement counts 1 sector of an `RST`, a written result 2 of an `MSOP`. -/
def Obligations.remoteWriteSent : Prop :=
  ∀ (c : Ctl) (ty : Ty) (add rel : Bool) (op ocl : BitVec 4) (scp : BitVec 3) (n a v r b : Fin 32) (bar : Option (Fin 32))
      (off : Word32) (s : State),
    let u := s.startIssue c
    let node : BitVec 12 := (s.rs n).setWidth 12
    let seq := SMap.get 0 s.seqOut node.toNat
    let p := s.rs a + off.signExtend 64
    let blk := (s.rs r).toNat % 2 ^ 21
    let sends (i : Instr) (kind : Nat) (bar : Option (Fin 32)) (sectors : Nat) (rel : Bool) (P : RemoteOp → Prop) : Prop :=
      Issues i c s → p.toNat < 2 ^ 57 → (s.rs n).toNat < 4096 → s.lc.flagD = false → (∀ x, bar = some x → (s.rs x).toNat % 16 = 0) →
      u.barPtr bar = none → u.remoteHeld ocl node rel = false → u.inTorus node = true →
      ActsWide u i s (s.sq.pc + 16) fun t => t.mem = s.mem ∧ t.sq.results = s.sq.results ∧ Silent u t ∧
        t.cc.rest = { s.cc.rest with vault := { s.cc.vault with soft := t.cc.vault.soft }, ticket := s.cc.ticket + 1 } ∧
        (kind = 1 → t.cc.vault = s.cc.vault) ∧ t.seqOut = SMap.set 0 s.seqOut node.toNat (seq + 1) ∧
        (∃ x : Inflight, t.inflight = s.inflight ++ [x] ∧ x.node = node ∧ x.seq = seq ∧ x.kind = kind ∧ x.core = s.cur.val ∧
          x.bar = (bar.map fun x => (s.rs x).toNat % 2 ^ 21) ∧ x.sectors = sectors ∧ (kind = 3 → x.block = blk)) ∧
        ∃ o : RemoteOp, t.net = s.net ++ [o] ∧ o.src = s.nodeId ∧ o.dst = node ∧ o.seq = seq ∧ o.addr = p ∧ P o
    (p.toNat % (ty.width / 8) = 0 → sends (.rst c ty add rel ocl scp n a off v bar) 1 bar 1 rel fun o =>
      o.kind = .rst ∧ o.ty = ty ∧ o.add = add ∧ o.ord = (if rel then .rel else .none) ∧ o.data = (s.rs v).setWidth 512) ∧
    (blk % 64 = 0 → p.toNat % msopAlign op.toNat = 0 → u.classHeld ocl hereTarget = false → u.msopVault r 64 = none → u.vaultBad blk 64 (s.rs r) = none →
      sends (.msop c op ocl n a off r b) 3 (some b) 2 false fun o =>
        o.kind = .msop ∧ o.op = op ∧ o.data = lineOf (u.readVault s.cur.val blk 64))

/-- R157, R214, R359: `SENDM` retires; its message waits in the package until its payload may be read, and then leaves
with the bytes of the payload. A header with a nonzero spare field or a length of 2^24 or more traps MSG 3. -/
def Obligations.messageSent : Prop :=
  ∀ (c : Ctl) (ocl : BitVec 4) (h a l : Fin 32) (off : Word32) (bar : Option (Fin 32)) (s : State),
    let i : Instr := .sendm c ocl h a off l bar
    let u := s.startIssue c
    let p := s.rs a + off.signExtend 64
    let sh := s.rs h
    let n := (s.rs l).toNat
    let node : BitVec 12 := sh.setWidth 12
    let seq := SMap.get 0 s.seqOut node.toNat
    let spare := sh.toNat / 2 ^ 12 % 16 = 0 ∧ sh.toNat / 2 ^ 28 % 16 = 0 ∧ sh.toNat / 2 ^ 56 = 0
    let m : Message := ⟨s.nodeId, node, sh.extractLsb' 16 12, sh.extractLsb' 32 24, ⟨s.lc.fn % 65, Nat.mod_lt _ (by decide)⟩, seq, [], false⟩
    let x : Inflight := { u.inflightOf node seq 4 ocl p .n8 with
      bar := bar.map fun b => (s.rs b).toNat % 2 ^ 21, sectors := max 1 ((n + 31) / 32), msg := some m, len := n, sent := none
      hint := c.hint.toNat }
    let w : State := { (u.opStart node).2 with inflight := s.inflight ++ [x] }
    let e : Eng := ⟨s.cur.val, w.opLaunch x, (w.opLaunch x).rankOf s.cur.val, false⟩
    let retires (P : State → Prop) : Prop := Gives (exec i s) fun t => t.sq.pc = s.sq.pc + 16 ∧ (∀ r, t.rs r = s.rs r) ∧
      t.sq.results = s.sq.results ∧ (∀ k : Nat, k ≠ s.cur.val → t.core k = s.core k) ∧ P t
    Issues i c s → (∀ b, bar = some b → (s.rs b).toNat % 16 = 0) → s.lc.flagD = false → u.payloadPtr p n = none → u.barPtr bar = none →
      (spare → n < 2 ^ 24 → u.inTorus node = true →
        (w.payloadReady x = false → retires fun t => t.mem = s.mem ∧ t.inflight = s.inflight ++ [x] ∧ t.netMsgs = s.netMsgs) ∧
        (w.payloadReady x = true → n = 0 → retires fun t => t.mem = s.mem ∧ t.netMsgs = s.netMsgs ++ [m]) ∧
        (∀ y got, w.payloadReady x = true → 0 < n → w.engRead e (e.ctx w x.user x.hint) p n = .ok y got → retires fun t =>
          t.mem = y.mem ∧ t.netMsgs = s.netMsgs ++ [{ m with bytes := got.bytes, sec := got.sec }])) ∧
      (∀ b, bar = some b → ¬(spare ∧ n < 2 ^ 24) → Traps i c s ⟨cMSG, s.rs b, 3⟩)

/-- R213, R216, R217: `RPOST` gives a handle and takes the first unexpected message that its descriptor matches, or joins
the posted list; `RCANCEL` answers 2 for a handle that is not current, 1 for a receive that has matched, and 0 once
it has withdrawn one; `RPROBE` gives the status word of the first match, or 0, and consumes nothing. Which entry
and generation a handle names is the model's choice (log 26). -/
def Obligations.receiveResult : Prop :=
  ∀ (c : Ctl) (d a h : Fin 32) (off : Word32) (s v : State) (got : Got),
    let u := s.startIssue c
    let p := s.rs a + off.signExtend 64
    let l := lineOf got.bytes
    let sh := s.rs h
    let e := sh.toNat % 2 ^ 16
    let current := sh.toNat < 2 ^ 32 ∧ ∃ r, SMap.find? s.retrGen e = some r ∧ r.gen.toNat = sh.toNat / 2 ^ 16 ∧ r.fn = s.lc.fn ∧ r.gone = false
    let answers (n : Word) : Prop := WritesRegs (.rcancel c d h) c s fun t => Holds t d n ∧ Silent u t
    (p.toNat % 64 = 0 → u.descHeld p = false → u.readDesc c p = .ok v got → boundBy s.lc.cfg.ctx (descCtx l) s.lc.fn = true →
      (Issues (.rpost c d a off) c s → u.descFails l = false → (∃ n < 65536, ∀ q ∈ s.posted, q.entry ≠ n) →
        (∀ r, descTile l = some r → (s.cc.tile r).state = .empty) →
        u.queuedRolls l = none → (∀ m, s.findUnexpected s.lc.fn l = some m → (v.payloadOf m).2 = none) →
        ActsWide u (.rpost c d a off) s (s.sq.pc + 16) fun t => t.mem = v.mem ∧ t.sq.results = s.sq.results ∧ Silent u t ∧
          (∀ r, (t.cc.tile r).state = if descTile l = some r then .filling else (s.cc.tile r).state) ∧
          ∃ (n : Nat) (g : BitVec 16), n < 65536 ∧ (∀ q ∈ s.posted, q.entry ≠ n) ∧ Holds t d (wd (2 ^ 16 * g.toNat + n)) ∧
            match s.findUnexpected s.lc.fn l with
            | none => t.unexpected = s.unexpected ∧ t.cc.lands = s.cc.lands ∧
              t.posted = s.posted ++ [⟨n, g, s.lc.fn, s.cur.val, s.lc.id, s.sq.mode == 0, p, l⟩]
            | some m => t.posted = s.posted ∧ t.unexpected = dropFirst (fun x => x == m) s.unexpected ∧
              ∃ y : Landing, t.cc.lands = s.cc.lands ++ [y] ∧ y.msg = v.queuedMsg m ∧ y.body = l ∧ y.desc = p ∧ y.done = 0) ∧
      (Issues (.rprobe c d a off) c s → ActsWide u (.rprobe c d a off) s (s.sq.pc + 16) fun t =>
        t.mem = v.mem ∧ t.unexpected = s.unexpected ∧ t.posted = s.posted ∧ t.sq.results = s.sq.results ∧ Silent u t ∧
        Holds t d (match s.findUnexpected s.lc.fn l with
          | some m => wd (2 ^ 63 + 2 ^ 48 * m.msg.src.toNat + 2 ^ 24 * m.msg.tag.toNat + m.len % 2 ^ 24)
          | none => 0))) ∧
    (Issues (.rcancel c d h) c s →
      (¬current → answers 2) ∧ (current → (∀ q ∈ s.posted, q.entry ≠ e) → answers 1) ∧
      (∀ q, current → s.posted.find? (fun x => x.entry == e) = some q →
        let w : State := { u with posted := dropFirst (fun x => x.entry == e) s.posted, retrGen := SMap.insert s.retrGen e ⟨q.gen, q.fn, true⟩ }
        u.statusHeld (u.recvLaunch q.launch q.fn) q.core q.desc = false →
        w.writeStatus (u.recvLaunch q.launch q.fn) q.core q.user
          ⟨(u.recvLaunch q.launch q.fn).id, q.core, 5, 0, some (descBoff q.body)⟩ q.desc 0 = .ok v () →
        Gives (exec (.rcancel c d h) s) fun t => Holds t d 0 ∧ t.sq.pc = s.sq.pc + 16 ∧
          t.posted = dropFirst (fun x => x.entry == e) s.posted))

/-! ## System instructions -/

/-- R225: a trap saves the pc and the status in its own sequencer's registers, enters supervisor mode (monitor mode in a
launch flagged S) and goes to TVEC; inside a handler, or with TVEC = 0, the launch ends FAULT with the cause in
DETAIL. -/
def Obligations.trapEntry : Prop :=
  ∀ (s : State) (k : Nat) (q : SeqId) (x : Trap), k < 384 →
    let t := s.trapOn k q x
    let a := (s.core k).seq q
    (a.inh = false → a.tvec ≠ 0 →
      (t.core k).seq q = { a.flush with
        epc := a.pc, ecause := x.cause, einfo0 := x.e0, einfo1 := x.e1, pmode := a.mode
        mode := if (s.launchOn k).flagS then 3 else if a.mode = 0 then 1 else a.mode
        inh := true, pc := a.tvec, wait := none, stall := none, resumed := false } ∧
      (t.core k).seq (SeqId.other q) = (s.core k).seq (SeqId.other q) ∧ (t.core k).rest = (s.core k).rest ∧
      (t.core k).x.rest = (s.core k).x.rest ∧ (∀ r, (t.core k).x.rv r = (s.core k).x.rv r) ∧
      (∀ r, (t.core k).x.rp r = (s.core k).x.rp r) ∧ t = { s with cores := t.cores } ∧
      ∀ d : Nat, d ≠ k → t.core d = s.core d) ∧
    (a.inh = true ∨ a.tvec = 0 → ∀ l, (s.core k).launch = some l.id → s.launch? l.id = some l → l.state = .running →
      t.launch? l.id = some { l with state := .draining, status := .fault, detail := x.cause, frank := (s.core k).rank, step := none } ∧
      t.mem = s.mem ∧ ∀ c ∈ l.allCores, c < 384 → (s.core c).launch = some l.id →
        (t.core c).as.run = .stopped ∧ (t.core c).xs.run = .stopped)

/-- R307, R366: `TRAP` and `BKPT` trap SWTRAP and BKPT: EPC holds their own address, EINFO0 the code and EINFO1 the
register named or 0. `BKPT.frz` stops the clocks of the package. R326: `ERET` returns to EPC in the mode that PMODE
holds, outside the handler; PMODE 2 or a mode above the present one traps PRIV, and an EPC that is not a multiple of
16 traps ALIGN. A handler's SFU results land first (R36). -/
def Obligations.softwareTrapsAndReturn : Prop :=
  (∀ (c : Ctl) (code : Word32) (a : Option (Fin 32)) (n : BitVec 16) (s : State),
      let u := s.startIssue c
      let enters (i : Instr) (cause : BitVec 8) (e0 e1 : Word) : Prop :=
        Issues i c s → s.sq.inh = false → s.sq.tvec ≠ 0 → (∀ r ∈ s.sq.results, r.remote = false) → Gives (exec i s) fun t =>
          OutsideSame s t ∧ t.cc.rest = s.cc.rest ∧ t.cc.seq (SeqId.other s.curSeq) = s.cc.seq (SeqId.other s.curSeq) ∧
          (∀ r, t.rv r = u.rv r) ∧ (∀ r, t.rp r = u.rp r) ∧
          t.sq = { s.sq.flush with
            epc := s.sq.pc, ecause := cause, einfo0 := e0, einfo1 := e1, pmode := s.sq.mode
            mode := if s.lc.flagS then 3 else if s.sq.mode = 0 then 1 else s.sq.mode
            inh := true, pc := s.sq.tvec, wait := none, stall := none, resumed := false
            sysSec := setBit (setBit s.sq.sysSec 3 (u.srcSec i.regs c)) 4 (u.srcSec i.regs c) }
      enters (.trap c code a) 0x16 (code.setWidth 64) ((a.map s.rs).getD 0) ∧
      enters (.bkpt c false n) 0x17 (n.setWidth 64) 0 ∧
      (Issues (.bkpt c true n) c s → ActsWide u (.bkpt c true n) s (s.sq.pc + 16) fun t =>
        t.frozen = true ∧ t.mem = s.mem ∧ t.cc.rest = s.cc.rest ∧ t.sq.results = s.sq.results ∧ Silent u t)) ∧
  (∀ (c : Ctl) (s : State),
      let i : Instr := .eret c
      let u := s.startIssue c
      let q := s.sq
      let legal := q.pmode ≠ 2 ∧ q.pmode.toNat ≤ q.mode.toNat
      Issues i c s →
        (legal → q.epc.toNat % 16 = 0 → Gives (exec i s) fun t =>
          OutsideSame u t ∧ t.cc.rest = s.cc.rest ∧ t.cc.seq (SeqId.other s.curSeq) = s.cc.seq (SeqId.other s.curSeq) ∧
          t.sq = { q with mode := q.pmode, inh := false, pc := q.epc, stall := none, resumed := true, wait := u.sq.wait } ∧
          (s.curSeq = .as ∨ u.cc.pipe = [] → RegsSame {} u t ∧ t.cc.x.rest = u.cc.x.rest) ∧
          (s.curSeq = .xs → u.cc.pipe.Pairwise (fun x y => x.at_ ≤ y.at_) → t.cc.x.sfuH = [])) ∧
        (¬legal → Traps i c s (wordTrap cPRIV i)) ∧
        (legal → q.epc.toNat % 16 ≠ 0 → Traps i c s ⟨cALIGN, q.epc, 0xD7⟩))

/-- R11, R81, R224, R265, R339: `MFSR` gives the value of a listed register of the named core; `MTSR` writes the RW
fields, leaves RO fields and clears W1C bits. A number outside Table 18.4 and a rejected value trap RI, on any sequencer
and in any mode (R340), a rank of 384 or more BOUNDS. That ROWMV gives back its RW fields is the model's reading (log
20). R28: where the other sequencer wrote the register in the same slot, here XBASE, a read gives what it held before,
and of two writes that of the XS stands (log 56). -/
def Obligations.systemRegisters : Prop :=
  ∀ (c : Ctl) (d a : Fin 32) (n : BitVec 12) (r : Option (Fin 32)) (s : State),
    let u := s.startIssue c
    let rd : Instr := .mfsr c d n r
    let wr : Instr := .mtsr c n a r
    let v := s.rs a
    let known := srListed n.toNat = true ∧ ∀ x, r = some x → (s.rs x).toNat < 384
    let reads (k : Nat) (w : Word) : Prop := n = BitVec.ofNat 12 k → r = none → WritesRegs rd c s fun t => Holds t d w ∧ Silent u t
    let keeps (q : Seq) (k : Core) (x : XUnit) : Prop := Gives (exec wr s) fun t =>
      t.slotRegs = u.slotRegs ++ (if plainSr n.toNat then [u.sharedNow (.sr n.toNat)] else []) ∧
      OutsideSame u { t with slotRegs := u.slotRegs } ∧ RegsSame {} u t ∧
      t.sq.pc = s.sq.pc + 16 ∧ t.sq.rest = q ∧ t.cc.rest = k ∧ t.cc.x.rest = x
    let sec := u.srcSec wr.regs c
    let writes (k : Nat) (q : Seq) : Prop := n = BitVec.ofNat 12 k → r = none →
      keeps { q with sysSec := setBit u.sq.sysSec (k - 0x10) sec } s.cc.rest u.cc.x.rest
    let tagged (e : Core) (k : Nat) (b : Bool) : Core := { e with sysSec := setBit s.cc.sysSec k b }
    let sets (k : Nat) (e : Core) : Prop := n = BitVec.ofNat 12 k → r = none → keeps u.sq.rest (tagged e k sec) u.cc.x.rest
    let clears (k : Nat) (e : Core) : Prop := n = BitVec.ofNat 12 k → r = none →
      keeps u.sq.rest (tagged e k (sec || s.cc.sysSec.getLsbD k)) u.cc.x.rest
    (∀ w : SlotWrite, s.slotRegs = [w] → w.core = s.cur.val → w.seq = SeqId.other s.curSeq → w.reg = .sr 0x030 →
      n = 0x030 → r = none →
      (Issues rd c (s.putShared w) → Gives (exec rd s) fun t =>
        Holds t d w.val ∧ t.cc.xbase = s.cc.xbase ∧ t.sq.pc = s.sq.pc + 16) ∧
      (Issues wr c (s.putShared w) → Gives (exec wr s) fun t => t.sq.pc = s.sq.pc + 16 ∧
        t.cc.xbase = match s.curSeq with
          | .as => s.cc.xbase
          | .xs => v)) ∧
    (s.othersWrote = [] → Issues rd c s →
      (known → WritesRegs rd c s fun t => Silent u t ∧
        Holds t d (u.readSR (match r with
          | some x => (s.rs x).toNat
          | none => s.cur.val) s.curSeq n.toNat)) ∧
      reads 0x001 (wd s.cc.rank) ∧ reads 0x008 (wd s.cycle) ∧ reads 0x011 s.sq.epc ∧ reads 0x012 (s.sq.ecause.setWidth 64) ∧
      reads 0x013 s.sq.einfo0 ∧ reads 0x014 s.sq.einfo1 ∧ reads 0x015 s.sq.tvec ∧ reads 0x016 s.sq.esave ∧
      reads 0x041 0 ∧ reads 0x044 (s.cc.rowmv.setWidth 64) ∧ reads 0x046 s.cc.eerr0 ∧ reads 0x048 s.cc.ferr ∧
      (∀ x, r = some x → 384 ≤ (s.rs x).toNat → Traps rd c s ⟨cBOUNDS, s.rs x, 0⟩)) ∧
    (∀ i ∈ [rd, wr], s.othersWrote = [] → srListed n.toNat = false → s.held = false → u.guard c = true → u.reportFor i = none →
      exec i s = .next (u.trapWith s u (wordTrap cRI i))) ∧
    (s.othersWrote = [] → srListed n.toNat = true → s.held = false → u.guard c = true → u.guardBad c = false →
      u.reportFor wr = none → u.interlocked wr.regs = false → srRejects n.toNat v = true → Traps wr c s (wordTrap cRI wr)) ∧
    (s.othersWrote = [] → Issues wr c s →
      (known → srRejects n.toNat v = false → ∃ t, exec wr s = .next t) ∧
      writes 0x011 { u.sq.rest with epc := v } ∧ writes 0x012 { u.sq.rest with ecause := v.setWidth 8 } ∧
      writes 0x013 { u.sq.rest with einfo0 := v } ∧ writes 0x014 { u.sq.rest with einfo1 := v } ∧
      writes 0x015 { u.sq.rest with tvec := v &&& ~~~0xF } ∧ writes 0x016 { u.sq.rest with esave := v } ∧
      (v.toNat / 64 % 4 = 0 → writes 0x010 { u.sq.rest with pmode := v.extractLsb' 2 2 }) ∧
      (v.toNat % 8 < 6 → n = 0x021 → r = none → keeps u.sq.rest (tagged s.cc.rest 0x021 sec) { u.cc.x.rest with rmode := v.setWidth 3 }) ∧
      (n = 0x022 → r = none → Gives (exec wr s) fun t => OutsideSame u t ∧ t.sq.pc = s.sq.pc + 16 ∧ t.cc.x.seed = v.setWidth 32 ∧
        ∀ l, l < 1024 → vget 0 t.cc.x.gen l = genStart (v.setWidth 32) l) ∧
      sets 0x030 { s.cc.rest with xbase := v } ∧ sets 0x031 { s.cc.rest with xctl := v &&& 0xFFFF0FFF } ∧
      sets 0x042 { s.cc.rest with vcapSel := v.setWidth 3 } ∧ sets 0x043 { s.cc.rest with vhealth := v.setWidth 16 } ∧
      clears 0x046 (if v.getLsbD 63 then { s.cc.rest with eerr0 := 0, eerr1 := 0 } else s.cc.rest) ∧
      clears 0x048 (if v.getLsbD 63 then { s.cc.rest with ferr := 0 } else s.cc.rest) ∧
      (∀ k, k < 16 → bfmtOk v = true → sets (0x070 + k) { s.cc.rest with bfmt := vset s.cc.bfmt k (v &&& 0x00FFC0FF) }) ∧
      ∀ k ∈ [0x000, 0x001, 0x002, 0x003, 0x004, 0x005, 0x008, 0x009, 0x040, 0x045, 0x047], n = BitVec.ofNat 12 k → r = none → keeps u.sq.rest s.cc.rest u.cc.x.rest)

/-- R258, R374: `WTCLR` clears the world tag of the vault rows of its range and of no other; `WTCLR.regs` those of every
register and queue entry of the core; `VAINV` removes every translation, walk-cache entry and instruction-cache line of
the launch's function that overlaps its range, in the whole package, and nothing else changes but the pc. A lost row
has no tag to clear (R267). -/
def Obligations.tagsAndTranslations : Prop :=
  ∀ (c : Ctl) (ocl : BitVec 4) (a l : Fin 32) (off : Word32) (b : SOp) (o : Nat) (s : State),
    let u := s.startIssue c
    let p := s.rs a + off.signExtend 64
    let n := (s.rs l).toNat
    let v := s.rs a
    let len := (s.sop b).toNat
    let row (i : Nat) : Nat := 528 * (i / 512) + i % 512
    (Issues (.wtclr c ocl a off l) c s → p.toNat % 256 = 0 → n % 256 = 0 → u.ownVault s.cur.val p n true = .inr o →
      u.classHeld ocl s.cur.val = false → Acts (.wtclr c ocl a off l) c s (s.sq.pc + 16) fun t =>
        t.sq.results = s.sq.results ∧ Silent u t ∧
        t.cc.rest = { s.cc.rest with vault := { s.cc.vault with sec := t.cc.vault.sec } } ∧
        (s.cc.vault.remap = [] → SMap.wf false s.cc.vault.sec = true → ∀ i, i < 8192 →
          SMap.get false t.cc.vault.sec (row i) =
            if o / 256 ≤ i ∧ i < o / 256 + n / 256 ∧ s.cc.vault.isLost (i / 512) (i % 512) = false then false
            else SMap.get false s.cc.vault.sec (row i))) ∧
    (Issues (.wtclrRegs c) c s → Gives (exec (.wtclrRegs c) s) fun t => OutsideSame u t ∧ t.sq.pc = s.sq.pc + 16 ∧
      (∀ q, (t.cc.seq q).sSec = 0 ∧ (t.cc.seq q).fSec = 0 ∧ (t.cc.seq q).sysSec = 0 ∧ (t.cc.seq q).s = (s.cc.seq q).s ∧ (t.cc.seq q).f = (s.cc.seq q).f) ∧
      t.cc.x.vSec = 0 ∧ t.cc.x.pSec = 0 ∧ t.cc.mSec = 0 ∧ t.cc.tileSec = 0 ∧ t.cc.kSec = 0 ∧ t.cc.nestSec = 0 ∧ (∀ r, t.rv r = u.rv r) ∧ (∀ r, t.rp r = u.rp r) ∧ t.cc.m = s.cc.m ∧
      t.cc.rest = { s.cc.rest with q := t.cc.q, bqA := t.cc.bqA, bqX := t.cc.bqX, sysSec := 0 } ∧
      (∀ r, t.cc.queue r = (s.cc.queue r).map fun e => { e with sec := false }) ∧
      t.cc.bqA = (s.cc.bqA.map fun e => (e.1, false)) ∧ t.cc.bqX = s.cc.bqX.map fun e => (e.1, false)) ∧
    (Issues (.vainv c a b) c s →
      (2 ^ 57 ≤ v.toNat → Traps (.vainv c a b) c s ⟨cXLATE, v, 0xB7⟩) ∧
      (v.toNat < 2 ^ 57 → len = 0 → WritesRegs (.vainv c a b) c s fun t => Silent u t) ∧
      (v.toNat < 2 ^ 57 → 0 < len →
        let hi := min (v.toNat + len) (2 ^ 57)
        let gone (fn va size : Nat) : Prop := fn = s.lc.fn ∧ va < hi ∧ v.toNat < va + size
        let lines (q r : Seq) : Seq := { q with icache := r.icache }
        Gives (exec (.vainv c a b) s) fun t => t = { u with cores := t.cores, tlb2 := t.tlb2, walk := t.walk } ∧
          t.sq.pc = s.sq.pc + 16 ∧ (∀ r, t.rs r = s.rs r) ∧ (∀ r, t.rf r = s.rf r) ∧ (∀ r, t.rv r = u.rv r) ∧
          (∀ r, t.rp r = u.rp r) ∧ t.cc.m = s.cc.m ∧ t.sq.results = s.sq.results ∧ t.sq.rest = lines s.sq.rest t.sq ∧
          t.cc.seq (SeqId.other s.curSeq) = lines (s.cc.seq (SeqId.other s.curSeq)) (t.cc.seq (SeqId.other s.curSeq)) ∧
          t.cc.rest = { s.cc.rest with tlb := t.cc.tlb } ∧ t.cc.x.rest = u.cc.x.rest ∧
          (∀ k : Nat, k ≠ s.cur.val → t.core k = { s.core k with
            tlb := (t.core k).tlb, as := lines (s.core k).as (t.core k).as, xs := lines (s.core k).xs (t.core k).xs }) ∧
          (∀ k : Nat, k < 384 → (∀ e, e ∈ (t.core k).tlb ↔ e ∈ (s.core k).tlb ∧ ¬gone e.fn e.va (2 ^ e.sz)) ∧
            ∀ q e, e ∈ ((t.core k).seq q).icache ↔ e ∈ ((s.core k).seq q).icache ∧ ¬gone e.fn e.va 64) ∧
          ∀ i, i < 2 → (∀ e, e ∈ vget [] t.tlb2 i ↔ e ∈ vget [] s.tlb2 i ∧ ¬gone e.fn e.va (2 ^ e.sz)) ∧
            ∀ e, e ∈ vget [] t.walk i ↔ e ∈ vget [] s.walk i ∧
              ¬gone e.fn (e.vaTop * 2 ^ (48 - 9 * e.lvl)) (2 ^ (48 - 9 * e.lvl))))

/-! ## Launches -/

/-- R56, R223, R240, R241, R245: a record written to a port joins those that wait, unless the function is stopped; while
64 of its records wait there, or one is held already, the port holds it, which is how the model keeps the pending
write of R241 (log 45). `CPOST` posts the record that it reads, in the name of its own launch and core. -/
def Obligations.recordPosted : Prop :=
  ∀ (f : FnId) (sup : Bool) (pcie : Fin 2) (r : Line) (c : Ctl) (a : Fin 32) (off : Word32) (s v : State) (got : Got),
    let u := s.startIssue c
    let p := s.rs a + off.signExtend 64
    Gives (exec (.launchPortWrite f sup pcie r) s) (fun t =>
      if (s.fnRegs f.val).stopped = true then t = s
      else if 64 ≤ s.portUsed f.val ∨ ∃ w ∈ s.portHeld, w.fn = f.val then
        t = { s with portHeld := s.portHeld ++ [⟨f.val, sup, pcie.val, r⟩] }
      else t = { s with nextId := s.nextId + 1, launches := t.launches } ∧ ∃ l : Launch, t.launches = s.launches ++ [l] ∧
        l.id = s.nextId ∧ l.record = r ∧ l.fn = f.val ∧ l.sup = sup ∧ l.leaf = pcie.val ∧ l.state = .port ∧ l.poster = none) ∧
    (Issues (.cpost c a off) c s → p.toNat % 64 = 0 → p.toNat < 2 ^ 57 → u.allPerformed = true → u.posterHeld = false →
      u.pairedAfter p (u.readGlobal (u.mcur c) p 64) = .ok v got → got.bad = none →
      ActsWide u (.cpost c a off) s (s.sq.pc + 16) fun t => t.mem = v.mem ∧ t.sq.results = s.sq.results ∧ Silent u t ∧
        ∃ l : Launch, t.launches = v.launches ++ [l] ∧ l.record = lineOf got.bytes ∧ l.fn = s.lc.fn ∧ l.state = .port ∧
          l.poster = some (s.lc.id, s.cur.val))

/-- R47 to R54: a record that passes its checks enters the region queue that its AFFIN chooses, with its deadline
counted from then on; balancing moves a queued record to a grid neighbour of its region only; the placer starts the
first head that fits a free rectangle with the state of R27, unless its measurement misses the extent map, which is
reported and waited for (R123); a late class-0 head pre-empts a victim and reserves its rectangle. How distances and lateness are reckoned is the model's choice (log 27, 28). -/
def Obligations.recordPlaced : Prop :=
  ∀ (s v : State) (id r : Nat) (leaf : Fin 2) (l x : Launch) (bs : List Byte) (o : Nat × Nat),
    (s.launches.map Launch.id).Nodup →
    Gives (exec (.recordAdmit id) s) (fun t =>
      (s.launch? id = none → t = s) ∧ (s.launch? id = some l → s.admitTurn l = false → t = s) ∧
      (s.launch? id = some l → s.admitTurn l = true → l.formOk = true → s.argBlock { l with cfg := s.cfgOf l.fn } = .ok v bs →
        let y : Launch := { (v.launch? id).getD { l with cfg := s.cfgOf l.fn } with
          tiles := (wordsOf 8 l.ntile bs).map wd, handles := (wordsOf 4 l.apcnt (bs.drop (8 * l.ntile))).map (BitVec.ofNat 32)
          state := .port, cfg := s.cfgOf l.fn }
        let w := v.modLaunch id fun _ => y
        let z : Launch := { y with leaf := (w.affinity y).1.1, region := r, admitted := w.cycle, deadline := w.cycle + y.dline * 3300 }
        y.tiles.all y.tileOk = true → y.permitted = true → ¬(y.cls ≤ 1 ∧ y.dline = 0) → w.fitting y ≠ [] → y.image = none →
        w.roomFrom (w.affinity y).1.1 (w.affinity y).1.2 = some r → (y.cls = 0 → w.admits z = true) →
        ∃ q : Launch, t.launch? id = some q ∧ q.state = .queued ∧ q.region = r ∧ q.leaf = z.leaf ∧ q.deadline = z.deadline ∧
          q.record = y.record)) ∧
    Gives (exec .regionBalance s) (fun t =>
      if s.cycle < s.balanced + 3300 then t = s
      else t = { s with balanced := s.cycle, launches := t.launches } ∧ t.launches.length = s.launches.length ∧
        ∀ y ∈ t.launches, ∃ y0 ∈ s.launches, y = { y0 with region := y.region } ∧
          (y.region = y0.region ∨ y0.inQueue = true ∧ (y0.cls = 1 ∨ y0.cls = 2) ∧ y.region ∈ gridNeighbours y0.region)) ∧
    Gives (exec (.launchPlace leaf) s) (fun t =>
      (s.findHead leaf.val = none → t = s) ∧
      (∀ w g n, s.findHead leaf.val = some (.at_ l o) → l.state = .queued → s.measured l = .miss w g n →
        t = (w.reportMiss g n (some l.id) 0 none).2) ∧
      (∀ w mr, s.findHead leaf.val = some (.at_ l o) → l.state = .queued → s.launch? l.id = some l → s.measured l = .ok w mr →
        (∃ q : Launch, t.launch? l.id = some q ∧ q.state = .running ∧ q.x0 = o.1 ∧ q.y0 = o.2 ∧ q.placedAt = s.cycle) ∧
        ∀ c ∈ (l.at_ o).allCores, c < 384 →
          (t.core c).launch = some l.id ∧ (t.core c).as.pc = l.asEnt ∧ (t.core c).xs.pc = l.xsEnt ∧
          (t.core c).as.run = .running ∧ (t.core c).xs.run = .running ∧ (t.core c).vault = (s.core c).vault ∧
          (t.core c).as.s = Vector.replicate 32 0 ∧ (t.core c).as.mode = (if l.sup then 1 else 0))) ∧
    Gives (exec (.class0Preemption leaf) s) (fun t =>
      (s.headOf leaf.val 0 = none → t = s) ∧
      (s.headOf leaf.val 0 = some l → (s.reserved.any fun y => y.2 == l.id) = false → s.tooLate l = true → s.tryHead l = none →
        pickVictim (s.victims l) = some x → s.nearest l (s.freedBy l x) = some o →
        (∃ q : Launch, t.launch? x.id = some q ∧ q.state = .running ∧ q.image ≠ none) ∧
        t.reserved = (l.at_ o).allCores.foldl (fun m c => SMap.insert m c l.id) s.reserved ∧
        ∀ c ∈ x.allCores, c < 384 → (t.core c).ppre = some s.cycle))

/-- R232, R234, R237, R238, R240, R241: a stopped core whose launch can be saved is saved and free, and with the last of
them the launch waits in its queue; a restored launch runs at its new place; a handler that holds a pre-emption back
for 12 µs ends its launch KILLED, as KILL does; a slice ends after SLICE µs, SLICE being that of the admission of the VF's
oldest time-sliced launch (log 32). -/
def Obligations.launchMoves : Prop :=
  ∀ (s : State) (c : CoreId) (f : FnId) (cptr : Word) (l x : Launch) (base n t0 : Nat) (o : Nat × Nat),
    let k := s.core c.val
    (s.launches.map Launch.id).Nodup →
    Gives (exec (.contextSave c) s) (fun t =>
      (k.launch = some l.id → s.launch? l.id = some l → l.state = .running → l.image = some base → k.ppre ≠ none →
        s.saveReady l c.val = true → l.step = none → c.val ∈ l.allCores →
        (t.core c.val).launch = none ∧ ∃ q : Launch, t.launch? l.id = some q ∧
          q.state = (if ∃ d ∈ l.allCores, d ≠ c.val ∧ (s.core d).launch = some l.id then .running else .saved base)) ∧
      (k.launch = none ∨ k.ppre = none → t = s)) ∧
    Gives (exec (.contextRestore l.id) s) (fun t =>
      s.launch? l.id = some l → l.state = .saved base → s.findHead l.leaf = some (.at_ x o) →
        (x.id ≠ l.id → t = s) ∧
        (x.id = l.id → ∃ q : Launch, t.launch? l.id = some q ∧ q.x0 = o.1 ∧ q.y0 = o.2 ∧ q.record = l.record ∧
          (q.state = .running ∨ q.state = .draining))) ∧
    Gives (exec (.preemptTimeout c) s) (fun t =>
      (k.launch = some l.id → s.launch? l.id = some l → l.state = .running → k.ppre = some t0 → k.as.inh = true ∨ k.xs.inh = true →
        t0 + 39600 ≤ s.cycle →
        t.launch? l.id = some { l with state := .draining, status := .killed, detail := 0, frank := 0, step := none }) ∧
      (k.ppre = none ∨ (k.as.inh = false ∧ k.xs.inh = false) → t = s)) ∧
    Gives (exec .sliceBoundary s) (fun t =>
      if s.cycle < s.sliceStart + s.sliceLen * 3300 then t = s
      else t.sliceStart = s.cycle ∧ t.mem = s.mem ∧
        ((∃ i < 64, s.takesTurns i = true) → s.takesTurns t.sliceVf = true ∧
          ∀ i, i < 64 → (i + 64 - (s.sliceVf + 1) % 64) % 64 < (t.sliceVf + 64 - (s.sliceVf + 1) % 64) % 64 → s.takesTurns i = false)) ∧
    Gives (exec (.kill f cptr) s) (fun t =>
      ((∀ y ∈ s.launches, ¬(y.fn = f.val ∧ y.cptr = cptr)) → t = s) ∧
      (l ∈ s.launches → l.fn = f.val → l.cptr = cptr → (∀ y ∈ s.launches, y.fn = f.val → y.cptr = cptr → y = l) →
        (l.state = .running →
          t.launch? l.id = some { l with state := .draining, status := .killed, detail := 0, frank := 0, step := none }) ∧
        (l.state = .saved n →
          t.launch? l.id = some { l with state := .draining, status := .killed, detail := 0, frank := 0 }) ∧
        (l.state = .draining ∨ l.state = .tracker → t = s)))

/-- R46, R63, R64, R229, R253: a drained launch frees its cores and finishes; the tracker finishes a launch once its last
transfer is acknowledged; a paired launch commits where its copies' signatures agree, unless the walk to a page of it
misses the extent map, which is waited for (R123), and its shadow pages go back.
The completion record holds STATUS, DETAIL, FRANK and TIMEBASE. -/
def Obligations.launchFinishes : Prop :=
  ∀ (s v : State) (l : Launch) (ps : List Piece),
    let closed (t : State) : Prop := t.launch? l.id = none ∨ ∃ m q, t.launch? l.id = some q ∧ q.state = .recording m
    let freed (t : State) : Prop := ∀ c ∈ l.allCores, c < 384 → (t.core c).launch ≠ some l.id
    s.launch? l.id = some l → l.id < s.nextId →
    (l.state = .draining → s.drained l = true → ¬(l.flagD = true ∧ l.status = .ok) →
      ∃ t, exec (.launchDrainComplete l.id) s = .next t ∧ freed t ∧ closed t) ∧
    (l.state = .draining → s.drained l = false → exec (.launchDrainComplete l.id) s = .next s) ∧
    (l.state = .tracker → l.leftC = [] → l.leftG = [] → s.acked l = true →
      ∃ t, exec (.trackerComplete l.id) s = .next t ∧ closed t) ∧
    (l.state = .tracker → l.leftC ≠ [] ∨ l.leftG ≠ [] ∨ s.acked l = false → exec (.trackerComplete l.id) s = .next s) ∧
    (l.state = .draining → l.flagD = true → l.status = .ok → s.drained l = true → (∀ m ∈ s.misses, m.launch ≠ some l.id) →
      (∀ p ∈ s.shadows, p.launch = l.id → p.copy1 = false → s.commitMiss l p = none) →
      ∃ t, exec (.pairedCommit l.id) s = .next t ∧ freed t ∧ closed t ∧
        t.shadows = (s.shadows.filter fun p => p.launch != l.id) ∧
        (s.signature l.id false ≠ s.signature l.id true → (s.pfReg 0x24210).getLsbD 2 = true →
          t.frozen = true)) ∧
    (l.state ≠ .draining ∨ l.flagD = false ∨ l.status ≠ .ok ∨ s.drained l = false ∨ (∃ m ∈ s.misses, m.launch = some l.id) →
      exec (.pairedCommit l.id) s = .next s) ∧
    (l.cptrOk = true → s.checkStore (s.launchMem l) l.cptr 16 false = .ok v ps → v.CleanMsc → (∀ p ∈ ps, p.page.ca ≠ 3 ∧ v.poisonAt p.pa p.len = none) →
      (s.writeRecord l).mem = v.mem.storePieces ps
        (leBytes 1 l.status.code ++ [if l.status = .ok then l.detail ||| (if l.excused then 2 else 0) else l.detail] ++ leBytes 2 0 ++
          leBytes 4 l.frank ++ wordBytes v.timebase) ∧
      (s.writeRecord l).launch? l.id = none)

/-! ## Collectives and results -/

/-- R57, R60, R173, R174, R321, R385, R387: a barrier completes on every core of its group once each has arrived, its
accesses have performed and the delay has passed, and not before; so do an exchange step and its end, a phase
boundary, `CSBAL` and the deadline of `WAITI`. Once the whole group waits at `CSBAL` each core has its run of the
streams, and it completes on every core once these have landed (R100) and its slot has come. That the accesses of every
class must have performed is the model's choice (log 6). -/
def Obligations.collectiveCompletes : Prop :=
  ∀ (c : CoreId) (q : SeqId) (w h : BitVec 3) (tf tb : Fin 32) (id : Nat) (l : Launch) (st : Nat × Nat) (b : Beat) (p : Parcel)
      (d : Word) (s : State),
    let k := s.core c.val
    let sh : Nat × Nat := (2 ^ w.toNat, 2 ^ h.toNat)
    let g := s.groupCores c.val sh
    let arrived (e : Nat) : Prop := ∃ a, (s.core e).barArrival w h = some a ∧ a + 40 + 2 * (sh.1 + sh.2) ≤ s.cycle
    let retired (t : State) (e : Nat) (r : SeqId) : Prop :=
      ((t.core e).seq r).pc = ((s.core e).seq r).pc + 16 ∧ ((t.core e).seq r).wait = none
    Gives (exec (.barrierComplete c) s) (fun t => k.barShape = some (w, h) → c.val ∈ g →
      ((∀ e ∈ g, arrived e ∧ s.coreQuiet e = true) → t.mem = s.mem ∧
        ∀ e ∈ g, e < 384 → ∀ r, ((s.core e).seq r).atBar = true → retired t e r) ∧
      ((∃ e ∈ g, ¬(arrived e ∧ s.coreQuiet e = true)) → t = s)) ∧
    Gives (exec (.waitiDeadline c q) s) (fun t => (k.seq q).wait = some (.until d) →
      (d.toNat ≤ s.timebase.toNat → retired t c.val q) ∧ (s.timebase.toNat < d.toNat → t = s)) ∧
    Gives (exec (.phaseBoundary c) s) (fun t =>
      (k.phaseArrived = none → t = s) ∧
      (k.phaseArrived = some (tf, tb) → s.boundaryReady c.val tf tb = false → t = s) ∧
      (k.phaseArrived = some (tf, tb) → s.boundaryReady c.val tf tb = true → k.fullQueue = none → tf ≠ tb →
        (t.core c.val).tile tf = ⟨.ready, (k.tile tb).size, (k.tile tb).off⟩ ∧
        (t.core c.val).tile tb = ⟨.empty, (k.tile tf).size, (k.tile tf).off⟩ ∧
        (∀ r, (k.seq r).phaseAt ≠ none → retired t c.val r) ∧ ∃ x : Phase, (t.core c.val).phase = some x ∧ x.tf = tf ∧ x.tb = tb)) ∧
    Gives (exec (.exchangeStepStart id) s) (fun t =>
      (s.launch? id = none → t = s) ∧
      (s.launch? id = some l → l.state = .running → l.image = none → l.step = none →
        (∀ e ∈ l.allCores, s.coreQuiet e = true ∧ ∃ a, (s.core e).xchAt = some a ∧ a + 40 + 2 * (l.wid + l.hgt) ≤ s.cycle) → l.allCores ≠ [] →
        (∀ e ∈ l.allCores, (s.core e).stepLen = (s.core (l.coreOf false 0)).stepLen) →
        t.launch? id = some { l with step := some (s.cycle, (s.core (l.coreOf false 0)).stepLen) } ∧
        ∀ e ∈ l.allCores, e < 384 → (t.core e).beats = s.beatsOf e)) ∧
    Gives (exec (.exchangeBeat c) s) (fun t =>
      ((s.launchOn c.val).step = none ∨ k.beats = [] → t = s) ∧
      ((s.launchOn c.val).step = some st → nextBeat k.beats = some b →
        let l := s.launchOn c.val
        let first : Prop := ∀ e ∈ l.allCores, ∀ y ∈ (s.core e).beats, b.next ≤ y.next
        (s.cycle < st.1 + b.next ∨ ¬first → t = s) ∧
        (st.1 + b.next ≤ s.cycle → first →
          (b.data = none → t.mem = s.mem ∧ (t.core c.val).vault = k.vault.correct b.src 64 ∧
            (t.core c.val).beats = modFirst (fun x => x == b) (fun _ => { b with data := some (s.parcel l.owner c.val b.src 64) }) k.beats) ∧
          (b.data = some p → b.dstCore < 384 →
            if (s.vault b.dstCore).landing.length + ((s.vault b.dstCore).newRows b.dst p.bytes.length).length ≤ 256 then
              VaultWrites l.owner b.dst p.bytes (s.vault b.dstCore) (t.vault b.dstCore)
            else (t.core b.dstCore).beatLost = true ∧ (t.vault b.dstCore) = s.vault b.dstCore)))) ∧
    Gives (exec (.exchangeStepEnd id) s) (fun t => s.launch? id = some l → l.step = some st →
      (s.cycle < st.1 + st.2 → t = s) ∧
      (l.image = none → st.1 + st.2 ≤ s.cycle → (∀ e ∈ l.allCores, (s.core e).beats = [] ∧ (s.core e).beatLost = false) →
        t.launch? id = some { l with step := none } ∧
        ∀ e ∈ l.allCores, e < 384 → (s.core e).xchAt ≠ none → retired t e .as)) ∧
    Gives (exec (.csbalComplete c) s) (fun t =>
      let sh2 := s.xsShape c.val
      let g2 := s.groupCores c.val sh2
      let at_ (e : Nat) (x : Fin 32) (y : Fin 16) (z : Fin 32) (a : Nat) : Prop := s.csbalAt e sh2 = some (x, y, z, a)
      let here : Prop := c.val ∈ g2 ∧ g2.Nodup ∧ ∀ e ∈ g2, e < 384 ∧ ∃ x y z a, at_ e x y z a
      let took (e : Nat) : Prop := ∃ w, (s.core e).cs = some w ∧ w.vs.length ≤ w.done
      let due : Prop := ∀ e ∈ g2, ∀ x y z a, at_ e x y z a → ∀ e' ∈ g2, ∀ w, (s.core e').cs = some w →
        a + 40 + 2 * (sh2.1 + sh2.2) + (w.vs.length - (w.hi - w.lo) + 15) / 16 ≤ s.cycle
      ((∃ e ∈ g2, s.csbalAt e sh2 = none) → t = s) ∧
      (∀ xs : List (List Word32), here → (∃ e ∈ g2, (s.core e).cs = none) →
        (∃ e ∈ g2, ∃ x y z a, at_ e x y z a ∧ s.cycle < a + 40 + 2 * (sh2.1 + sh2.2)) → xs.length = g2.length →
        (∀ j e : Nat, g2[j]? = some e → ∀ x y z a, at_ e x y z a →
          xs[j]? = some (s.getElems e (s.stream e z) (s.stream e z).rd (s.stream e z).fill)) →
        let f := xs.flatten.length
        let n := g2.length
        ∀ j e : Nat, g2[j]? = some e → (t.core e).xs = (s.core e).xs ∧ ∃ w, (t.core e).cs = some w ∧
          w.vs = (xs.flatten.drop (j * (f / n) + min j (f % n))).take (f / n + if j < f % n then 1 else 0)) ∧
      (here → (∀ e ∈ g2, (s.core e).cs ≠ none) → ¬due → ∀ e ∈ g2, (t.core e).xs = (s.core e).xs) ∧
      (here → due → (∀ e ∈ g2, took e) → ∀ e ∈ g2, ∀ x y z a w, at_ e x y z a → (s.core e).cs = some w →
        retired t e .xs ∧ (t.core e).cs = none ∧ ∀ j, j < 1024 →
          ((t.core e).x.rp y).getLsbD j = (decide (y = 15) || decide (j < w.vs.length)) ∧
          lane ((t.core e).x.rv x) j = w.vs.getD j 0) ∧
      (∀ (x : Fin 32) (y : Fin 16) (z : Fin 32) (a : Nat), g2 = [c.val] → k.cs = none → at_ c.val x y z a →
        let n := (s.stream c.val z).fill
        a + 40 + 2 * (sh2.1 + sh2.2) ≤ s.cycle →
        retired t c.val .xs ∧ ∀ j, j < 1024 →
          ((t.core c.val).x.rp y).getLsbD j = (decide (y = 15) || decide (j < n)) ∧
          lane ((t.core c.val).x.rv x) j =
            if j < n then (s.getElems c.val (s.stream c.val z) (s.stream c.val z).rd n).getD j 0 else 0))

/-- R34, R40, R247, R248, R302, R323, R331: a result that is due reaches its register; a request acts at another core's
vault in one access, and its reply gives the value; a row leaves the landing buffer and a bank scrubs a row with no
byte changed. -/
def Obligations.resultsLand : Prop :=
  ∀ (c : CoreId) (q : SeqId) (bank : Fin 16) (leaf : Fin 2) (x : Result) (f : SfuPend) (fs : List SfuPend) (r : VReq) (n : Nat) (s : State),
    let k := s.core c.val
    let v := s.vault r.target
    let lands (i : Instr) (p : Result → Bool) : Prop := Gives (exec i s) fun t =>
      ((k.seq q).results.find? p = none → (t.core c.val).seq q = k.seq q) ∧
      ((k.seq q).results.find? p = some x →
        ((t.core c.val).seq q).results = dropFirst p (k.seq q).results ∧
        (∀ d, ((t.core c.val).seq q).rs d = if d = x.dst ∧ d ≠ 0 then x.val else (k.seq q).rs d) ∧
        ((t.core c.val).seq q).pc = (k.seq q).pc ∧ t.mem = s.mem ∧ ∀ e : Nat, e ≠ c.val → t.core e = s.core e)
    let acted (t : State) (val : Word) (bad : Bool) : Prop := ∃ y ∈ t.vreqs, y.id = n ∧ y.acted = true ∧ y.val = val ∧ y.bad = bad ∧
      y.due = s.cycle + 10 + s.hops r.core r.target
    let old := leNat (v.read r.owner r.off r.n)
    let m := min r.n (256 - r.off % 256)
    let val := r.val.toNat + leNat (v.read r.owner r.off m) * 2 ^ (8 * r.doneBytes)
    let rest (t : State) (x : Word) (bad : Bool) : Prop := ∃ y ∈ t.vreqs, y = { r with off := r.off + m, n := r.n - m, val := x, sec := y.sec, bad := bad }
    lands (.loadResult c q) (fun y => y.src == .load) ∧ lands (.mulDivResult c q) (fun y => y.src == .mul || y.src == .div) ∧
    Gives (exec (.sfuResultLand c) s) (fun t =>
      ((∀ y ∈ k.pipe, k.count < y.at_) → (t.core c.val).x.rv f.dst = k.x.rv f.dst) ∧
      (k.pipe = f :: fs → f.at_ ≤ k.count → (∀ y ∈ fs, k.count < y.at_) →
        (t.core c.val).pipe = fs ∧ (t.core c.val).x.settleAll.vstat = k.x.settleAll.vstat ||| f.fl ∧
        ∀ j, j < 1024 → lane ((t.core c.val).x.rv f.dst) j = if f.lanes.getLsbD j then lane f.val j else lane (k.x.rv f.dst) j)) ∧
    Gives (exec (.remoteVaultAccess n) s) (fun t =>
      (s.vreqs.find? (fun y => y.id == n) = none → t = s) ∧
      (s.vreqs.find? (fun y => y.id == n) = some r → s.vreqReady r = false → t = s) ∧
      (s.vreqs.find? (fun y => y.id == n) = some r → s.vreqReady r = true → r.target < 384 → t.mem = s.mem ∧
        (r.acc = false → r.kind = .load → (t.vault r.target).bytes = v.bytes ∧
          if m < r.n then rest t (wd val) (r.bad || v.bad r.off m) else acted t (extend r.ty val) (r.bad || v.bad r.off m)) ∧
        (r.acc = false → r.kind = .store →
          if v.landing.length + (v.newRows r.off m).length ≤ 256 then VaultWrites r.owner r.off (leBytes m r.val.toNat) v (t.vault r.target) ∧
            if m < r.n then rest t (r.val >>> (8 * m)) false else acted t 0 false
          else t = s) ∧
        (∀ op cmp, r.acc = false → r.kind = .atom op cmp → v.bad r.off r.n = false → acted t (extend r.ty old) false ∧
          (∀ y, atomNew r.ty op old r.val.toNat cmp.toNat = some y → VaultWrites r.owner r.off (leBytes r.n y) v (t.vault r.target)) ∧
          (atomNew r.ty op old r.val.toNat cmp.toNat = none → (t.vault r.target).bytes = v.bytes)) ∧
        (r.acc = true → (s.core r.target).arrayIdle = true → r.kind = .load →
          acted t (extend r.ty (leNat ((s.core r.target).readAcc r.off r.n))) false))) ∧
    Gives (exec (.remoteVaultReply n) s) (fun t => s.vreqs.find? (fun y => y.id == n) = some r →
      (r.acted = false ∨ s.cycle < r.due → t = s) ∧
      (r.acted = true → r.due ≤ s.cycle → r.core < 384 → (∀ y ∈ t.vreqs, y.id ≠ n) ∧
        (r.kind = .store → t = { s with vreqs := t.vreqs }) ∧
        (r.kind = .load → ∀ y ∈ ((s.core r.core).seq r.seq).results, y.src = .vault r.id →
          ∃ z ∈ ((t.core r.core).seq r.seq).results, z.dst = y.dst ∧ z.val = r.val ∧ z.src = .load ∧ (z.bad = none ↔ r.bad = false)) ∧
        (∀ op cmp y, r.kind = .atom op cmp → r.bad = false → ((s.core r.core).seq r.seq).wait = some (.vault r.id) →
          ((s.core r.core).seq r.seq).results.find? (fun z => z.src == .vault r.id) = some y →
          ((t.core r.core).seq r.seq).pc = ((s.core r.core).seq r.seq).pc + 16 ∧
          ((t.core r.core).seq r.seq).rs y.dst = if y.dst = 0 then 0 else r.val))) ∧
    Gives (exec (.landingRowRetire c bank) s) (fun t => t = { s with cores := t.cores } ∧ (∀ e : Nat, e ≠ c.val → t.core e = s.core e) ∧
      t.core c.val = { k with vault := { k.vault with landing := dropFirst (fun y => y.bank == bank.val) k.vault.landing } }) ∧
    Gives (exec (.vaultScrub c bank) s) (fun t => t = { s with cores := t.cores } ∧ (∀ e : Nat, e ≠ c.val → t.core e = s.core e) ∧
      (t.vault c.val).bytes = k.vault.bytes ∧ (t.vault c.val).pois = k.vault.pois ∧
      vget 0 (t.vault c.val).scrubAt bank.val = (vget 0 k.vault.scrubAt bank.val + 1) % 512) ∧
    exec (.mscScrub leaf) s = .next s

/-! ## Memory system, tenants and reliability -/

/-- R122, R123, R128, R130 to R134: an aborted miss ends its launch FAULT with DETAIL 0x05; a descriptor that is taken
reads back with REV clear, and a rejected one changes nothing; ACWAYS gives up the pages of its ways; a request of
the oldest request's channel completes; a released range leaves the MSC and is revoked in every extent. R129: lost rows of
a set count among its ways. Which ways a page takes is the model's choice (log 8). -/
def Obligations.memorySystemSteps : Prop :=
  ∀ (n : Nat) (vf i : Fin 64) (d : BitVec 256) (ways : BitVec 4) (lo hi : BitVec 52) (m : Miss) (l : Launch) (r : HbmReq) (rs : List HbmReq) (s : State),
    let a := extOff vf.val i.val
    let revoked (t : State) : Prop := SMap.wf 0 s.pf = true → ∀ f j, f < 64 → j < 64 → (s.ext f j).valid = true →
      (s.ext f j).hbase < hi.toNat → lo.toNat < (s.ext f j).hbase + (s.ext f j).bytes → (t.ext f j).fl.getLsbD 7 = true
    let gone (w : State) : Prop := ∀ j, j < 2 → ∀ x ∈ vget [] w.msc j, x.addr < hi.toNat → x.addr + 64 ≤ lo.toNat
    Gives (exec (.extentMissRetry n) s) (fun t =>
      (s.missPending n = false → t = s) ∧
      (s.missPending n = true → (∀ w ∈ s.remWaits, w.miss ≠ n) → (∀ x ∈ s.launches, x.state ≠ .recording n) →
        t = { s with misses := s.misses.filter fun x => x.id != n })) ∧
    Gives (exec (.extentMissAbort n) s) (fun t =>
      (s.missPending n = false → t = s) ∧
      (s.misses.find? (fun x => x.id == n) = some m → m.remote = none → m.launch = some l.id → s.launch? l.id = some l → l.state = .running →
        (∀ x ∈ t.misses, x.id ≠ n) ∧ ∃ q : Launch, t.launch? l.id = some q ∧ q.state = .draining ∧ q.status = .fault ∧ q.detail = 5 ∧
          q.frank = m.rank)) ∧
    Gives (exec (.extentDescriptorWrite vf i d) s) (fun t =>
      (s.extentOk vf.val i.val d = false → t = s) ∧
      (s.extentOk vf.val i.val d = true → SMap.wf 0 s.pf = true → t = { s with pf := t.pf } ∧
        t.pfReg a = d.extractLsb' 0 64 ∧ t.pfReg (a + 8) = d.extractLsb' 64 64 ∧ t.pfReg (a + 16) = d.extractLsb' 128 64 ∧
        (∀ j, (t.pfReg (a + 24)).getLsbD j = (decide (j ≠ 7) && (d.extractLsb' 192 64).getLsbD j)) ∧
        ∀ x, x ∉ [a, a + 8, a + 16, a + 24] → t.pfReg x = s.pfReg x)) ∧
    Gives (exec (.acwaysWrite ways) s) (fun t =>
      (8 < ways.toNat → t = s) ∧
      (ways.toNat ≤ 8 → SMap.wf 0 s.pf = true → s.acWays ≤ 8 → t.acWays = ways.toNat ∧ t.mem = s.mem ∧ t.cores = s.cores ∧
        t.acache = (s.acache.map fun p => { p with blocks := p.blocks.filter (fun y =>
          decide (16 - ways.toNat ≤ y.2 ∧ y.2 - (16 - ways.toNat) < min ways.toNat (16 - s.mscLost (homeLeaf (256 * y.1)) (mscSetOf (256 * y.1))))) }) ∧
        ∀ j, j < 2 → ∀ y ∈ vget [] t.msc j, y.way < 16 - ways.toNat - s.mscLost j (mscSetOf y.addr))) ∧
    Gives (exec .hbmRequestComplete s) (fun t =>
      (s.hbm = [] → t = s) ∧
      (s.hbm = r :: rs → t = { s with hbm := t.hbm, fns := t.fns } ∧
        ∃ x ∈ s.hbm, x.chan = r.chan ∧ t.hbm = dropFirst (fun y => y.arrival == x.arrival) s.hbm ∧
          ((∃ y ∈ s.hbm, y.chan = r.chan ∧ s.hasTokens y = true) → s.hasTokens x = true))) ∧
    Gives (exec (.cxlRelease lo hi) s) (fun t => ∃ w : State, t = w.postEvent pfFn (lo.setWidth 64) 0 0 0 0xFF 5 ∧ gone w ∧ revoked w ∧
      ((∀ y ∈ s.afetch, y.pa < hi.toNat → y.pa + y.len ≤ lo.toNat) → w.mem = s.mem ∧ w.cores = s.cores)) ∧
    Gives (exec (.cxlSurpriseRelease lo hi) s) (fun t => gone t ∧ revoked t)

/-- R239, R241, R242, R245, R246: STOP and RESUME set and clear the function's stop, and RESUME lets in what its ports hold;
DISCARD ends its saved launches PREEMPTED; RELEASE leaves none of its saved launches and records; EXPORT counts; IMPORT
brings records in, or answers with detail 2; a held event is written once the ring has room. What an export buffer
packs, that one image which fails refuses the whole import, and that RELEASE drops receives and unexpected messages
are the model's choice (log 29). -/
def Obligations.tenantSteps : Prop :=
  ∀ (vf : Fin 64) (f : FnId) (c : CoreId) (n : Fin 8) (l : Launch) (b : List Byte) (bs : List (List Byte)) (s : State),
    let buf := s.exportBuf vf.val
    let packed := Config.unpackExport (s.mem.read buf.1 buf.2)
    let opened := packed.2.map fun x => openImage vf.val packed.1 x.1 x.2
    Gives (exec (.stop vf) s) (fun t => (t.fnRegs vf.val).stopped = true ∧ t.mem = s.mem ∧
      ∀ g, g ≠ vf.val → (t.fnRegs g).stopped = (s.fnRegs g).stopped) ∧
    Gives (exec (.resume vf) s) (fun t =>
      t = { s with fns := t.fns, launches := t.launches, nextId := t.nextId, portHeld := t.portHeld } ∧
      ((∀ w ∈ s.portHeld, w.fn ≠ vf.val) → t = { s with fns := t.fns }) ∧
      (∃ ls : List Launch, t.launches = s.launches ++ ls ∧ ∀ y ∈ ls, y.fn = vf.val ∧ y.state = .port) ∧
      ((∃ w ∈ t.portHeld, w.fn = vf.val) → 64 ≤ t.portUsed vf.val) ∧
      ∀ g, t.fnRegs g = if g = vf.val then { s.fnRegs g with stopped := false, retrStopped := false } else s.fnRegs g) ∧
    Gives (exec (.discard vf) s) (fun t => (s.launches.map Launch.id).Nodup → l ∈ s.launches →
      t.launch? l.id = some (if l.fn = vf.val ∧ l.isSaved = true then
        { l with state := .draining, status := .preempted, detail := 0, frank := 0 } else l)) ∧
    Gives (exec (.release vf) s) (fun t =>
      ((s.fnRegs vf.val).stopped = false → t = s) ∧
      ((s.fnRegs vf.val).stopped = true → (∀ p ∈ t.posted, p.fn ≠ vf.val) ∧ (∀ x ∈ t.unexpected, x.fn ≠ vf.val) ∧
        ∀ y ∈ t.launches, y.fn = vf.val → y.isSaved = false ∧ y.isAdmitted = true ∧ y.state ≠ .queued)) ∧
    Gives (exec (.exportVf vf) s) (fun t => (t.fnRegs vf.val).exportCount = (s.fnRegs vf.val).exportCount + 1 ∧ t.cores = s.cores ∧
      t.launches = s.launches ∧ t.posted = s.posted) ∧
    Gives (exec (.importVf vf) s) (fun t =>
      (none ∈ opened ∨ opened.length < 2 → t = s.postEvent pfFn 0 0 0 2 vf.val 6) ∧
      ∃ ls : List Launch, t.launches = s.launches ++ ls ∧ ∀ y ∈ ls, y.fn = vf.val ∧ y.state = .port) ∧
    Gives (exec (.eventHeldFlush f) s) (fun t =>
      ((s.fnRegs f.val).held = [] → t = s) ∧
      ((s.fnRegs f.val).held = b :: bs → (s.fnRegs f.val).ringRoom = false → t = s) ∧
      ((s.fnRegs f.val).held = b :: bs → (s.fnRegs f.val).ringRoom = true → (t.fnRegs f.val).held = bs)) ∧
    Gives (exec (.counterWrap c n) s) (fun t =>
      let k := (s.core c.val).syncSlots s.cycle
      ((t.core c.val).wrapped = if k.wrapped.getLsbD n.val then setBit k.wrapped n.val false else k.wrapped) ∧
      (k.wrapped.getLsbD n.val = true → (vget 0 k.cntcfg n.val).getLsbD 17 = true → (s.launchOn c.val).fn < 65 →
        (t.fnRegs (s.launchOn c.val).fn).msix.getLsbD 1 = true))

/-- R81, R108, R111, R112, R225, R240, R243, R244, R256, R265 to R267: what register writes do as steps of their own:
FIN ends the launch, SEED seeds the generators, EERR0 and FERR clear, VPREQ asks for a point that the rail then
reaches, ROWMV starts the evacuation of a row, which copies a chunk at a time and commits with the last, unless its
destination is a lost row of a footprint (R267), the host's registers take their fields, and the monitor sets a world
bit. That a value out of range is ignored is the model's choice (log 32), and that VPREQ reports rows still to move
before rows that would be lost (log 12). -/
def Obligations.registerSteps : Prop :=
  ∀ (c : CoreId) (bank : Fin 16) (w : Word32) (v : Word) (tvp : BitVec 3) (f : FnId) (off : BitVec 24) (x : Word) (e : Evac) (b : Bool)
      (eng : Fin 7) (ctx : BitVec 12) (l : Launch) (s : State),
    let k := s.core c.val
    let ended (st : Status) (detail : BitVec 8) (frank : Nat) : Option Launch :=
      some { l with state := .draining, status := st, detail := detail, frank := frank, step := none }
    let others (t : State) : Prop := t = { s with cores := t.cores } ∧ ∀ d : Nat, d ≠ c.val → t.core d = s.core d
    let fnw (o : Nat) (r : FnRegs) : Prop := off.toNat = o → ∃ t, exec (.registerWrite (.fn f) off v) s = .next t ∧
      t = { s with fns := t.fns } ∧ ∀ g, t.fnRegs g = if g = f.val then r else s.fnRegs g
    let bits {n : Nat} (old new : BitVec n) (i : Nat) : Prop := ∀ j, new.getLsbD j = if j = i then b else old.getLsbD j
    (s.cc.launch = some l.id → s.launch? l.id = some l → l.state = .running →
      (∃ t, exec .mstatFinFault s = .next t ∧ t.launch? l.id = ended .fault s.sq.ecause s.cc.rank) ∧
      ∃ t, exec .mstatFinKill s = .next t ∧ t.launch? l.id = ended .killed 0 0) ∧
    (∃ t, exec (.seedWrite w) s = .next t ∧ OutsideSame s t ∧ t.cc.x.seed = w ∧
      (∀ l, l < 1024 → vget 0 t.cc.x.gen l = genStart w l) ∧ (∀ j, j < 128 → vget 0 t.cc.mgen j = genStart w (1024 + j)) ∧
      t.cc.cgen = genStart w 1152 ∧ t.cc.ggen = genStart w 1153) ∧
    (∃ t, exec (.eerrClear c) s = .next t ∧ others t ∧ t.core c.val = { k with eerr0 := 0, eerr1 := 0 }) ∧
    (∃ t, exec (.ferrClear c) s = .next t ∧ others t ∧ t.core c.val = { k with ferr := 0 }) ∧
    (s.vpStat = 2 → exec (.vpreqWrite tvp) s = .next s) ∧
    (s.vpStat ≠ 2 → ∃ t, exec (.vpreqWrite tvp) s = .next t ∧ t = { s with vpStat := t.vpStat, vpReq := t.vpReq } ∧
      (s.vpCur = tvp → t.vpStat = 1 ∧ t.vpReq = s.vpReq) ∧ (s.vpCur.toNat < tvp.toNat → t.vpStat = 2 ∧ t.vpReq = tvp) ∧
      (tvp.toNat < s.vpCur.toNat →
        ((∃ d < 384, (s.vault d).remain s.vpCur.toNat tvp.toNat ≠ 0) → t.vpStat = 3 ∧ t.vpReq = s.vpReq) ∧
        ((∀ d < 384, (s.vault d).remain s.vpCur.toNat tvp.toNat = 0) →
          ((∃ d < 384, s.losesFoot d tvp.toNat = true) → t.vpStat = 4 ∧ t.vpReq = s.vpReq) ∧
          ((∀ d < 384, s.losesFoot d tvp.toNat = false) → t.vpStat = 2 ∧ t.vpReq = tvp)))) ∧
    (s.vpStat ≠ 2 → exec .vpRailReached s = .next s) ∧
    (s.vpStat = 2 → ∃ t, exec .vpRailReached s = .next t ∧ t.vpCur = s.vpReq ∧ t.vpStat = 1 ∧ t.mem = s.mem) ∧
    ((∃ y ∈ k.vault.evac, y.bank = w.toNat / 2 ^ 9 % 16) → ∃ t, exec (.rowmvGo c w) s = .next t ∧ others t ∧
      (t.core c.val).rowRes = 2 ∧ (t.core c.val).vault = k.vault) ∧
    ((∀ y ∈ k.vault.evac, y.bank ≠ w.toNat / 2 ^ 9 % 16) →
      (k.vault.dests (w.toNat / 2 ^ 9 % 16) (w.toNat / 2 ^ 16 % 8)).find? (fun y => y.1 == w.toNat % 2 ^ 9) = some (w.toNat % 2 ^ 9, v.toNat, none) →
      ∃ t, exec (.rowmvGo c w) s = .next t ∧ others t ∧ (t.core c.val).rowRes = 0 ∧
        (t.core c.val).vault.evac = k.vault.evac ++ [⟨w.toNat / 2 ^ 9 % 16, w.toNat % 2 ^ 9, v.toNat, none, 0⟩]) ∧
    ((∀ y ∈ k.vault.evac, y.bank ≠ w.toNat / 2 ^ 9 % 16) →
      (k.vault.dests (w.toNat / 2 ^ 9 % 16) (w.toNat / 2 ^ 16 % 8)).find? (fun y => y.1 == w.toNat % 2 ^ 9) = none →
      ∃ t, exec (.rowmvGo c w) s = .next t ∧ others t ∧ (t.core c.val).rowRes = 3 ∧ (t.core c.val).vault = k.vault) ∧
    (∀ gone : Nat, (∀ y ∈ k.vault.evac, y.bank ≠ w.toNat / 2 ^ 9 % 16) →
      (k.vault.dests (w.toNat / 2 ^ 9 % 16) (w.toNat / 2 ^ 16 % 8)).find? (fun y => y.1 == w.toNat % 2 ^ 9) = some (w.toNat % 2 ^ 9, v.toNat, some gone) →
      ∃ t, exec (.rowmvGo c w) s = .next t ∧ others t ∧
        (131072 * (w.toNat / 2 ^ 9 % 16) + 256 * gone < s.footOn c.val → (t.core c.val).rowRes = 4 ∧ (t.core c.val).vault = k.vault) ∧
        (s.footOn c.val ≤ 131072 * (w.toNat / 2 ^ 9 % 16) + 256 * gone → (t.core c.val).rowRes = 0 ∧
          (t.core c.val).vault.evac = k.vault.evac ++ [⟨w.toNat / 2 ^ 9 % 16, w.toNat % 2 ^ 9, v.toNat, some gone, 0⟩])) ∧
    (k.vault.evac.find? (fun y => y.bank == bank.val) = none → exec (.evacuationChunkCopy c bank) s = .next s) ∧
    (k.vault.evac.find? (fun y => y.bank == bank.val) = some e → e.p < 7 →
      (∀ j, j < 4 → SMap.get false k.vault.pois (32 * k.vault.phys bank.val e.row + 4 * e.p + j) = false) →
      ∃ t, exec (.evacuationChunkCopy c bank) s = .next t ∧ others t ∧
        (k.rowEvac = some bank.val → (t.core c.val).rowPtr = BitVec.ofNat 4 (e.p + 1)) ∧ { e with p := e.p + 1 } ∈ (t.vault c.val).evac ∧
        (k.vault.bytes.wf = true → ∀ j, j < 32 →
          (t.vault c.val).bytes.byte (256 * e.dst + 32 * e.p + j) = k.vault.bytes.byte (256 * k.vault.phys bank.val e.row + 32 * e.p + j))) ∧
    (k.vault.evac.find? (fun y => y.bank == bank.val) = some e → e.p = 7 →
      (∀ j, j < 4 → SMap.get false k.vault.pois (32 * k.vault.phys bank.val e.row + 28 + j) = false) →
      ∃ t, exec (.evacuationChunkCopy c bank) s = .next t ∧ others t ∧ (∀ y ∈ (t.vault c.val).evac, y.bank ≠ bank.val) ∧
        (k.rowGo = some bank.val → (t.core c.val).rowRes = 1) ∧ (k.rowEvac = some bank.val → (t.core c.val).rowPtr = 8) ∧
        (k.vault.remap = [] → (t.vault c.val).phys bank.val e.row = e.dst) ∧
        (k.vault.lost = [] → ∀ r, (t.vault c.val).isLost bank.val r = true ↔ e.lost = some r) ∧
        (k.vault.bytes.wf = true → ∀ j, j < 32 →
          (t.vault c.val).bytes.byte (256 * e.dst + 224 + j) = k.vault.bytes.byte (256 * k.vault.phys bank.val e.row + 224 + j))) ∧
    (k.vault.evac.find? (fun y => y.bank == bank.val) = some e →
      (∃ j < 4, SMap.get false k.vault.pois (32 * k.vault.phys bank.val e.row + 4 * e.p + j) = true) →
      ∃ t, exec (.evacuationChunkCopy c bank) s = .next t ∧ others t ∧ (∀ y ∈ (t.vault c.val).evac, y.bank ≠ bank.val) ∧
        (k.rowGo = some bank.val → (t.core c.val).rowRes = 4) ∧ (t.vault c.val).bytes = k.vault.bytes ∧
        (t.vault c.val).remap = k.vault.remap) ∧
    fnw 0x90 { s.fnRegs f.val with evbase := v &&& ~~~0xFFF } ∧ fnw 0xA8 { s.fnRegs f.val with evtail := v.toNat } ∧
    fnw 0xB0 { s.fnRegs f.val with astvec := v &&& ~~~0xF } ∧ fnw 0xB8 { s.fnRegs f.val with xstvec := v &&& ~~~0xF } ∧
    (off.toNat < 0x30000 → off.toNat ≠ 0x21010 → ¬(0x21D00 ≤ off.toNat ∧ off.toNat < 0x21F00) →
      (pfValue off.toNat v = none → exec (.registerWrite .pf off v) s = .next s) ∧
      (pfValue off.toNat v = some x → SMap.wf 0 s.pf = true → ∃ t, exec (.registerWrite .pf off v) s = .next t ∧
        t.mem = s.mem ∧ t.cores = s.cores ∧ ∀ o, t.pfReg o = if o = off.toNat then x else s.pfReg o)) ∧
    (∃ t, exec (.worldBitSet (.core c) b) s = .next t ∧ t = { s with worldCores := t.worldCores } ∧
      bits s.worldCores t.worldCores c.val) ∧
    (∃ t, exec (.worldBitSet (.engine eng) b) s = .next t ∧ t = { s with worldEngines := t.worldEngines } ∧
      bits s.worldEngines t.worldEngines eng.val) ∧
    (∃ t, exec (.worldBitSet (.fn f) b) s = .next t ∧ t = { s with worldFns := t.worldFns } ∧ bits s.worldFns t.worldFns f.val) ∧
    ∃ t, exec (.worldBitSet (.ctx ctx) b) s = .next t ∧ t = { s with worldCtx := t.worldCtx } ∧ bits s.worldCtx t.worldCtx ctx.toNat

/-- R17 to R19, R249, R250, R254, R255, R259 to R264: a replay costs two slots and changes no register; a scan test takes
an idle core and ends after 200 µs; a retired row's cores are those of the next row; freeze, reset, loss of power and
heat; an attestation answer is a value that the spec leaves open (log 19). The model's choices: a replay counts two
slots and delays nothing (log 33); what a package reset keeps, of a vault its floors (log 31); what the fall of the
rails and THERMTRIP leave (log 40); a map change moves each row's vaults with their cores, beside R19 (log 42); one
event for each crossing of 105 °C (log 49). -/
def Obligations.reliabilitySteps : Prop :=
  ∀ (c : CoreId) (leaf : Fin 2) (pass : Bool) (fs : List (Nat × Nat)) (y : Nat) (temp : Word) (vf : FnId) (cptr : Word) (z : Scan) (l : Launch) (s : State),
    let k := s.core c.val
    let answers (i : Instr) (n arg : Nat) (a : Line) : Prop := exec i s = .next { s with attest := s.attest ++ [(n, arg, a)] }
    let rowOf (d : Nat) : Prop := coreX d / 16 = leaf.val ∧ y ≤ coreY d
    Gives (exec (.timingReplay c) s) (fun t => t = { s with cores := t.cores } ∧ (∀ d : Nat, d ≠ c.val → t.core d = s.core d) ∧
      (t.core c.val).as = k.as ∧ (t.core c.val).xs = k.xs ∧ (t.core c.val).x = k.x ∧
      (t.core c.val).replays = (if k.replaySince + 3300000 ≤ s.cycle then 0 else k.replays) + 2) ∧
    Gives (exec (.replayLimitEvent c) s) (fun t =>
      (k.replays ≤ 51562 → t = s) ∧ (51562 < k.replays → (t.core c.val).replays = 0 ∧ (t.core c.val).replaySince = s.cycle)) ∧
    Gives (exec (.scanTestStart c) s) (fun t =>
      let every := (s.pfReg 0x24200).toNat
      if every = 0 ∨ k.launch ≠ none ∨ s.beingSaved c.val = true ∨ c.val ∈ s.failed ∨ (∃ x ∈ s.scan, x.core = c.val) ∨
          s.cycle < SMap.get 0 s.idleSince c.val + every * 3300000000 then t = s
      else t = { s with scan := s.scan ++ [⟨c.val, s.cycle⟩] }) ∧
    Gives (exec (.scanTestAbort c) s) (fun t => t = { s with scan := t.scan } ∧
      (s.class0Needs c.val = false → t = s) ∧ (s.class0Needs c.val = true → ∀ x, x ∈ t.scan ↔ x ∈ s.scan ∧ x.core ≠ c.val)) ∧
    Gives (exec (.scanTestComplete c pass fs) s) (fun t =>
      (s.scan.find? (fun x => x.core == c.val) = none → t = s) ∧
      (s.scan.find? (fun x => x.core == c.val) = some z → s.cycle < z.since + 660000 → t = s) ∧
      (s.scan.find? (fun x => x.core == c.val) = some z → z.since + 660000 ≤ s.cycle →
        (∀ x, x ∈ t.scan ↔ x ∈ s.scan ∧ x.core ≠ c.val) ∧
        (pass = true → fs = [] → t.failed = s.failed ∧ t.retiring = s.retiring) ∧
        (pass = false → c.val ∈ t.failed ∨ vget none t.retiring (leafOf c.val) = some (coreY c.val)))) ∧
    Gives (exec (.logicalMapChange leaf) s) (fun t =>
      (vget none s.retiring leaf.val = none → t = s) ∧
      (vget none s.retiring leaf.val = some y → (∃ d < 384, rowOf d ∧ ((s.core d).launch ≠ none ∨ s.beingSaved d = true)) → t = s) ∧
      (vget none s.retiring leaf.val = some y → (∀ d < 384, rowOf d → (s.core d).launch = none ∧ s.beingSaved d = false) →
        vget none t.retired leaf.val = some (s.physRow leaf.val y) ∧ vget none t.retiring leaf.val = none ∧ t.mem = s.mem ∧
        ∀ d, d < 384 → (¬rowOf d → t.core d = s.core d) ∧ (rowOf d → coreY d < 11 → t.core d = s.core (d + 32)))) ∧
    exec .freeze s = .next { s with frozen := true } ∧
    Gives (exec .packageReset s) (fun t => t.frozen = false ∧ t.powered = true ∧ t.cycle = 0 ∧ t.mem = [] ∧ t.launches = [] ∧
      t.pf = State.reset.pf ∧ t.fns = State.reset.fns ∧ ∀ d, d < 384 →
        t.core d = { Core.reset with vault := { Vault.reset with floors := (s.core d).vault.floors } }) ∧
    Gives (exec .railsFall s) (fun t => t.powered = false ∧ t.mem = [] ∧ t.launches = []) ∧
    Gives (exec (.thermalWarning temp) s) (fun t =>
      (temp.toNat < 105 → t = { s with tempWarned := false }) ∧ (105 ≤ temp.toNat → s.tempWarned = true → t = s) ∧
      (105 ≤ temp.toNat → s.tempWarned = false → t.tempWarned = true ∧ t.frozen = (s.frozen || (s.pfReg 0x24210).getLsbD 3))) ∧
    exec .thermtrip s = .next { s with thermtrip := true } ∧
    answers .getVersion 0 0 (Config.attestAnswer 0 0) ∧ answers .getCapabilities 1 0 (Config.attestAnswer 1 0) ∧
    answers .negotiateAlgorithms 2 0 (Config.attestAnswer 2 0) ∧ answers .getDigests 3 0 (Config.attestAnswer 3 0) ∧
    answers .getCertificate 4 0 (Config.attestAnswer 4 0) ∧ answers .challenge 5 0 (Config.attestAnswer 5 0) ∧
    ((s.pfReg 0x24208).getLsbD 0 = false → vf.val < 64 → answers (.getMeasurements vf cptr) 6 vf.val (Config.vfMeasurement (s.vfConfig vf.val))) ∧
    ((s.pfReg 0x24208).getLsbD 0 = true → s.launches.find? (fun x => x.fn == vf.val && x.cptr == cptr && x.flagS) = some l →
      answers (.getMeasurements vf cptr) 6 vf.val l.measure)

/-! ## Engines, the matrix array and the fabric at work -/

/-- R61, R99, R102, R104, R107, R163, R168, R169, R337: a copy starts once no earlier overlapping command is queued; each
block then moves, a bank row at a time, is filled with zeros or is dropped, and with the last one the copy ends and
its tiles turn; a gather row moves likewise; a marker is retired once no command ahead of it is left. -/
def Obligations.engineSteps : Prop :=
  ∀ (c : CoreId) (i : Fin 4) (n : Fin 5) (e : Eng) (x : CopyCmd) (y : GathCmd) (f : Follow) (r : Fin 32) (m : Marker) (p : Part) (bs : List Byte) (o1 o2 : Nat) (s v : State),
    let k := s.core c.val
    let only (t : State) : Prop := t = { s with cores := t.cores } ∧ ∀ d : Nat, d ≠ c.val → t.core d = s.core d
    let filler (t : Nat) (r : Fin 32) : Prop := (∀ z ∈ k.copyQ, z.dstTile = some r → z.ticket = t) ∧
      ∀ z ∈ k.gathQ, z.tile = r → z.scatter = true ∨ z.ticket = t
    let work : Prop := s.copyHead c.val = some (e, x) ∧ e.tracked = false
    let runs : Prop := work ∧ x.started = true ∧ x.landed = false ∧ s.stillMissed x.missed = false ∧ x.bar = none
    let moves : Prop := runs ∧ x.part = none ∧ e.place (x.dstAt x.next) (x.bd x.next) true = .inr (some o2)
    Gives (exec (.copyCommandStart c) s) (fun t =>
      (s.copyHead c.val = none → t = s) ∧
      (work → x.started = true ∨ k.rangeHeld x.ticket x.ranges = true → t = s) ∧
      (work → x.started = false → k.rangeHeld x.ticket x.ranges = false → only t ∧
        t.core c.val = { k with copyQ := modFirst (fun z => z.ticket == x.ticket) (fun _ => { x with started := true }) k.copyQ })) ∧
    Gives (exec (.copyBlockMove c) s) (fun t =>
      (s.copyHead c.val = none → t = s) ∧
      (work → x.started = false ∨ x.landed = true ∨ s.stillMissed x.missed = true → t = s) ∧
      (moves → x.reads x.next = true → converts x.fmts (x.srcAt x.next) (x.dstAt x.next) = false → x.bd x.next = x.b →
        e.place (x.srcAt x.next) x.b false = .inr (some o1) → o1 % 256 + x.b ≤ 256 → o2 % 256 + x.b ≤ 256 →
        k.vault.bad o1 x.b = false → (k.vault.secure o1 x.b = true → e.launch.flagS = true) →
        t.mem = s.mem ∧ VaultWrites e.launch.owner o2 (k.vault.read e.launch.owner o1 x.b) k.vault (t.vault c.val)) ∧
      (runs → x.part = none → x.reads x.next = true → e.place (x.srcAt x.next) x.b false = .inr (some o1) → 256 < o1 % 256 + x.b →
        k.vault.bad o1 (256 - o1 % 256) = false →
        t.mem = s.mem ∧ VaultWrites e.launch.owner 0 [] k.vault (t.vault c.val) ∧ ∃ p : Part, p.out = none ∧
          p.got = k.vault.read e.launch.owner o1 (256 - o1 % 256) ∧ { x with part := some p, missed := none } ∈ (t.core c.val).copyQ) ∧
      (runs → x.dropped x.next = false → x.part = some p → p.out = some bs → e.place p.dst bs.length true = .inr (some o2) →
        (p.sec = true → e.launch.flagS = true) →
        let m := min (bs.length - p.done) (256 - (o2 + p.done) % 256)
        t.mem = s.mem ∧ VaultWrites e.launch.owner (o2 + p.done) ((bs.drop p.done).take m) k.vault (t.vault c.val) ∧
        (p.done + m < bs.length → { x with part := some { p with done := p.done + m }, missed := none } ∈ (t.core c.val).copyQ)) ∧
      (moves → x.reads x.next = false →
        t.mem = s.mem ∧ (x.dropped x.next = true → t.vault c.val = k.vault) ∧
        (x.dropped x.next = false →
          VaultWrites e.launch.owner o2 (List.replicate (min (x.bd x.next) (256 - o2 % 256)) 0) k.vault (t.vault c.val)) ∧
        (x.dropped x.next = true ∨ o2 % 256 + x.bd x.next ≤ 256 →
        (x.next + 1 < x.total → { x with next := x.next + 1, missed := none } ∈ (t.core c.val).copyQ) ∧
        (x.total ≤ x.next + 1 → x.follow = none → ((t.core c.val).copyQ = k.copyQ.filter fun z => z.ticket != x.ticket) ∧
          (∀ r, x.dstTile = some r → x.srcTile ≠ some r → filler x.ticket r → ((t.core c.val).tile r).state = .ready) ∧
          ∀ r, x.srcTile = some r → ((t.core c.val).tile r).state = .empty)))) ∧
    Gives (exec (.cpymFollowonEnqueue c) s) (fun t =>
      (s.copyHead c.val = none → t = s) ∧ (work → x.follow = none ∨ x.landed = false ∨ k.matFull = true → t = s) ∧
      (work → x.follow = some f → x.landed = true → k.matFull = false → x.bar = none → x.dstTile = some r → k.mulTrap false f.m r = none →
        (t.core c.val).matQ = k.matQ ++ [{ k.mulCmd false f.last f.str f.m r with ticket := k.ticket, issued := x.ticket }] ∧
        (t.core c.val).copyQ = k.copyQ.filter fun z => z.ticket != x.ticket)) ∧
    Gives (exec (.gatherRow c) s) (fun t =>
      (s.gathHead c.val = none → t = s) ∧
      (s.gathHead c.val = some (e, y) → e.tracked = false → s.stillMissed y.missed = false →
        (y.row = 0 → y.part = none → k.rangeHeld y.ticket y.ranges = false) →
        (y.rows ≤ y.row → only t ∧ ((t.core c.val).gathQ = k.gathQ.filter fun z => z.ticket != y.ticket) ∧
          (y.scatter = true ∨ filler y.ticket y.tile → ((t.core c.val).tile y.tile).state = if y.scatter then .empty else .ready)) ∧
        (y.row < y.rows → s.gathDo e y = .ok v (some p) →
          t.mem = v.mem ∧ { y with part := some p, missed := none } ∈ (t.core c.val).gathQ) ∧
        (y.row + 1 < y.rows → y.bar = none → s.gathDo e y = .ok v none →
          t.mem = v.mem ∧ { y with row := y.row + 1, part := none, missed := none } ∈ (t.core c.val).gathQ))) ∧
    Gives (exec (.markerRetire c i n) s) (fun t =>
      (vget none k.k i.val = none → t = s) ∧
      (vget none k.k i.val = some m → m.left.getLsbD n.val = true → k.ahead n.val m.ticket = false →
        vget none (t.core c.val).k i.val = some { m with left := setBit m.left n.val false } ∧ t.mem = s.mem) ∧
      (vget none k.k i.val = some m → m.left.getLsbD n.val = false ∨ k.ahead n.val m.ticket = true → t = s))

/-- R90, R99, R107, R138, R179 to R185, R190, R193: a matrix command starts in the order of R179; a pass adds the sums of eight
rows to the accumulators of its region and no other; a load fills the shadow plane, a swap exchanges the planes, a
zero clears a region, a drain writes the converted region to its tile, a bank row at a time (R99), and its flags to
VSTAT; a side pass moves its group's cursor on; a page that has arrived is kept, and one that came bad is poisoned and
reported (R138, R242); a pin without uses is freed. -/
def Obligations.matrixSteps : Prop :=
  ∀ (c : CoreId) (n : Nat) (x : MatCmd) (g : Grant) (b : BindSet) (q : Nat) (w : HeldGroup) (pin : Fin 32) (p : Pin) (h : BitVec 20)
      (ver : BitVec 16) (pageB sp : Bool) (ty : Ty) (rnd : Rnd) (sat : Bool) (off : Nat) (bs : List Byte) (sec : Bool)
      (f : AFetch) (o : PageOutcome) (s : State),
    let k := s.core c.val
    let z := g.region x.region
    let here : Prop := k.matCmd? n = some x ∧ k.grant = some g
    let only (t : State) : Prop := t = { s with cores := t.cores } ∧ ∀ d : Nat, d ≠ c.val → t.core d = s.core d
    let gone (t : State) : Prop := (t.core c.val).matQ = k.matQ.filter fun y => y.ticket != n
    let passAt := x.since + 8 + 8 * (x.pass + 1) * ((z.c + 63) / 64)
    let entry := b.ents.getD q 0
    let handle : BitVec 20 := BitVec.ofNat 20 ((b.words.getD q 0).toNat % 2 ^ 20)
    Gives (exec (.matrixCommandExecute c n) s) (fun t =>
      (k.matCmd? n = none → t = s) ∧ (k.matCmd? n = some x → k.matReady x = false → t = s) ∧
      (k.matCmd? n = some x → k.matReady x = true → only t ∧ (x.isAdpt = true → gone t) ∧
        (x.isAdpt = false →
          t.core c.val = { k with matQ := modFirst (fun y => y.ticket == n) (fun y => { y with started := true, since := s.cycle }) k.matQ }))) ∧
    Gives (exec (.matrixPass c n) s) (fun t =>
      (here → x.isMul = false ∨ x.started = false ∨ z.r ≤ 8 * x.pass ∨ s.cycle < passAt → t = s) ∧
      (here → x.isMul = true → x.started = true → 8 * x.pass < z.r → passAt ≤ s.cycle →
        (∀ r ∈ elemReads x.fmt x.off (8 * x.pass * g.k) (8 * g.k), k.vault.bad r.1 r.2 = false) → k.bindOf x = none →
        only t ∧ ∀ i j, i < 128 → j < 128 → (t.core c.val).accAt i j =
          if z.r0 + 8 * x.pass ≤ i ∧ i < z.r0 + 8 * x.pass + 8 ∧ z.c0 ≤ j ∧ j < z.c0 + z.c then
            accumulate g.ty (k.accAt i j) (s.actRow c.val x g (i - z.r0)) ((List.range g.k).map fun m => weightOf k.active g (j - z.c0) m)
          else k.accAt i j)) ∧
    Gives (exec (.matrixCommandFinish c n) s) (fun t =>
      (here → x.started = false ∨ s.cycle < x.since + x.time g → t = s) ∧
      (here → x.started = true → x.since + x.time g ≤ s.cycle →
        (x.op = .swap → only t ∧ gone t ∧ (t.core c.val).shadow = k.active ∧ (t.core c.val).active = k.shadow) ∧
        (x.op = .zero → only t ∧ gone t ∧ ∀ i j, i < 128 → j < 128 → (t.core c.val).accAt i j =
          if z.r0 ≤ i ∧ i < z.r0 + z.r ∧ z.c0 ≤ j ∧ j < z.c0 + z.c then 0 else k.accAt i j) ∧
        (x.op = .load sp → x.ticket = n → (∀ r ∈ planeReads x.fmt x.off g sp, k.vault.bad r.1 r.2 = false) → only t ∧ gone t ∧
          (t.core c.val).shadow = some (s.planeAt c.val x.fmt x.off g sp) ∧ (t.core c.val).active = k.active) ∧
        (x.op = .drain ty rnd sat → x.ticket = n →
          x.out = some (off, bs, sec) ∨
            (x.out = none ∧ ty ≠ .bpi ∧ k.accSec = 0 ∧ off = x.off ∧ bs = packBytes ty.width (k.drainAll g z ty rnd sat).1 ∧ sec = false) →
          let m := pieceOf (ownPtr off) 0 bs.length
          let flags := k.x.drained ++ if x.out = none then [⟨n, s.cycle, (k.drainAll g z ty rnd sat).2.1⟩] else []
          only t ∧ VaultWrites (s.launchOn c.val).owner off (bs.take m) k.vault (t.vault c.val) ∧
          (m < bs.length → (t.core c.val).x = { k.x with drained := flags } ∧
            ∃ y, (t.core c.val).matCmd? n = some y ∧ y.out = some (off + m, bs.drop m, sec)) ∧
          (bs.length ≤ m → gone t ∧
            (t.core c.val).x = { k.x with drained := flags.map fun d => if d.ticket = n then { d with due := s.cycle } else d })))) ∧
    Gives (exec (.sidePathLast c n) s) (fun t =>
      (k.matCmd? n = none → t = s) ∧
      (here → k.boundGroups x = [] → x.isMul = true ∧ x.started = true ∧ z.r ≤ 8 * x.pass → only t ∧ gone t) ∧
      (here → k.boundGroups x = [] → ¬(x.isMul = true ∧ x.started = true ∧ z.r ≤ 8 * x.pass) → t = s) ∧
      (here → k.boundGroups x = [q] → k.bindOf x = some b → x.groupDone q = false → k.sideTurn x q = true → q * g.g < 8 * x.pass →
        q ∉ x.sideDone → 8 * x.pass < z.r →
        (s.pageHere (s.launchOn c.val) x q handle (entVer entry) false = false →
          ∃ y ∈ t.afetch, y.handle = handle ∧ y.ver = entVer entry ∧ y.pageB = false) ∧
        (s.pageHere (s.launchOn c.val) x q handle (entVer entry) false = true → x.isLast = false →
          (∃ y, (t.core c.val).matCmd? n = some y ∧ q ∈ y.sideDone) ∧
          ∃ y ∈ (t.core c.val).binds, y.id = b.id ∧ y.cursors = SMap.set 0 b.cursors q (SMap.get 0 b.cursors q + g.k)))) ∧
    Gives (exec (.adapterPageArrive h ver pageB o) s) (fun t =>
      let asked := s.afetch.find? fun y => y.handle == h && y.ver == ver && y.pageB == pageB
      (asked = none → t = s) ∧
      (asked = some f → o = .good → f.lost = false → s.poisonAt f.pa f.len = none →
        (∃ y ∈ t.acache, y.handle = h ∧ y.ver = ver ∧ y.pageB = pageB ∧ y.pa = f.pa ∧ y.len = f.len) ∧
        ∀ y, blocksOf f.pa f.len = [y] → s.adapterWays (homeLeaf (256 * y)) (mscSetOf (256 * y)) ≠ 0 → t.cachedPage h ver pageB = true) ∧
      (asked = some f → o ≠ .good → (∀ d, (s.core d).waitingFor h ver pageB = []) → blocksOf f.pa f.len ≠ [] → f.hint = none →
        ∃ (u : State) (fn : Nat) (gpa cptr : Word) (rank : Nat),
          u = { s with afetch := s.afetch.filter fun y => y != f, memPois := u.memPois, fresh := u.fresh } ∧
          (∀ y ∈ blocksOf f.pa f.len, (SMap.find? u.memPois y).isSome = true) ∧ t = u.postEvent fn gpa cptr rank 0 (eventVf fn) 2)) ∧
    Gives (exec (.adapterPageTimeout c n) s) (fun t =>
      (k.matCmd? n = none → t = s) ∧
      (k.matCmd? n = some x → (∀ y ∈ x.held, s.cycle < y.since + 165000) → t = s) ∧
      (here → k.bindOf x = some b → x.held = [w] → w.since + 165000 ≤ s.cycle → k.xs.pend = none →
        (t.core c.val).xs.pend = some ⟨0x0E, (b.words.getD w.g 0).setWidth 64, 20⟩)) ∧
    Gives (exec (.pinFree c pin) s) (fun t =>
      (vget none k.pins pin.val = none → t.core c.val = k) ∧
      (vget none k.pins pin.val = some p → only t ∧ t.core c.val =
        if p.count = 0 ∧ k.pinInUse pin.val = false then { k with pins := vset k.pins pin.val none } else k))

/-- R100, R155, R156, R202 to R208, R210, R214, R215: an operation at its target acts once, and a packet seen before does
nothing; an acknowledgement gives the value or settles the barrier; a failure is recorded in FERR; combined
additions keep every contribution, in the place of the first; links narrow and go down; a message is matched, queued,
refused or turned away. The model's choices: a packet of which one contribution has been seen is discarded whole
(log 24); a flit's replay changes nothing (log 33); messages for a stopped function are turned away, and the places that
a queued payload takes (log 50). -/
def Obligations.fabricSteps : Prop :=
  ∀ (p a b : RemoteOp) (k : RemoteAck) (m : Message) (n i j : Nat) (l : Fin 6) (c : CoreId) (x : Inflight) (y : Posted) (z : Landing)
      (ps : List Piece) (data block : Line) (tc : BitVec 8) (sec : Bool) (t0 lk : Nat) (s v : State),
    let w : State := (opParts p).foldl (fun s e => s.markSeq e.1 e.2.1) { s with net := dropFirst (fun e => e == p) s.net }
    let acks : State := { s with acks := dropFirst (fun e => e == k) s.acks }
    let here : State := { s with netMsgs := dropFirst (fun e => e == m) s.netMsgs }
    let q := (s.core x.core).seq x.from_
    let cur := (s.fnRegs a.fn.val).fabricGen
    let link (i : Instr) (y : Link) : Prop := Gives (exec i s) fun t => t = { s with links := t.links } ∧
      ∀ d, t.linkOf d = if d = l.val then y else s.linkOf d
    let lk0 := s.linkOf l.val
    Gives (exec (.remoteOpArrive p) s) (fun t =>
      (p.dst = s.nodeId → s.opBehind p = true → t = s) ∧
      (p.dst = s.nodeId → s.opBehind p = false → (∃ e ∈ opParts p, s.freshSeq e.1 e.2.1 = false) → t = { s with net := dropFirst (fun e => e == p) s.net }) ∧
      (p.dst = s.nodeId → s.opBehind p = false → (∀ e ∈ opParts p, s.freshSeq e.1 e.2.1 = true) →
        (w.serve p = .done v data tc sec → t = v.ackOp p true tc false false data sec) ∧
        (w.serve p = .refused v tc → t = v.ackOp p false tc false false 0 false)) ∧
      (p.dst ≠ s.nodeId → s.net.contains p = true → s.opBehind p = false →
        s.route p.src p.dst (s.leftBy p.src p.dst p.seq) = some lk → (∀ e ∈ opParts p, s.mayLeave e.1 p.dst e.2.1 lk = true) →
        t.outOps = s.outOps ++ [(s.hop p.src lk, p)] ∧ t.net = dropFirst (fun e => e == p) s.net ∧ t.mem = s.mem ∧ t.cores = s.cores) ∧
      (p.dst ≠ s.nodeId → s.net.contains p = true → s.route p.src p.dst (s.leftBy p.src p.dst p.seq) = none → t = s)) ∧
    (p.kind = .rld → p.ord = .none → s.translate (s.remCtx p).x false false p.addr (p.ty.width / 8) = .ok v ps →
      v.CleanMsc → (∀ e ∈ ps, e.page.ca ≠ 3 ∧ v.poisonAt e.pa e.len = none) → ∃ u sec, s.serve p = .done u
        (lineOf (ps.flatMap fun e => v.readPhys (ownerTag p.fn.val) e.page.sh e.pa e.len)) 0 sec ∧ u.mem = v.mem) ∧
    (p.kind = .rst → p.add = false → p.ord = .none → s.checkStore (s.remCtx p) p.addr (p.ty.width / 8) p.sec = .ok v ps →
      v.CleanMsc → (∀ e ∈ ps, e.page.ca ≠ 3 ∧ v.poisonAt e.pa e.len = none) → ∃ u, s.serve p = .done u 0 0 false ∧ u.mem = v.mem.storePieces ps (leBytes (p.ty.width / 8) p.data.toNat)) ∧
    Gives (exec (.remoteOpAck k) s) (fun t =>
      (k.src ≠ s.nodeId → s.acks.contains k = false → t = { s with acks := s.acks ++ [k] }) ∧
      (k.src ≠ s.nodeId → s.acks.contains k = true →
        (s.route k.target k.src none = none → t = s) ∧
        (s.route k.target k.src none = some lk → if (s.linkOf lk).paused then t = s
          else t.outAcks = s.outAcks ++ [(s.hop k.target lk, k)] ∧ t.acks = acks.acks ∧ t.mem = s.mem ∧ t.cores = s.cores)) ∧
      (k.src = s.nodeId → (∀ e ∈ s.inflight, ¬(e.node = k.target ∧ e.seq = k.seq)) → t = acks) ∧
      (k.src = s.nodeId → s.inflight.find? (fun e => e.node == k.target && e.seq == k.seq && e.result.isNone) = some x → k.ok = true → k.missed = false →
        (x.kind = 1 → x.bar = none → t = { acks with inflight := dropFirst (fun e => e.node == x.node && e.seq == x.seq) s.inflight }) ∧
        (x.kind = 0 ∨ x.kind = 2 → x.core < 384 → s.holds x = true → x.awaited q = true →
          ((t.core x.core).seq x.from_).pc = q.pc + 16 ∧ ((t.core x.core).seq x.from_).wait = none ∧
          ((t.core x.core).seq x.from_).rs x.dst = if x.dst = 0 then 0 else extend x.ty (k.data.toNat % 2 ^ x.ty.width)) ∧
        (x.kind = 3 → t.mem = s.mem ∧ t.cores = s.cores ∧ ∃ e ∈ t.inflight, e.result = some k.data))) ∧
    Gives (exec (.remoteOpTimeout n) s) (fun t =>
      (s.inflight[n]? = none → t = s) ∧
      (s.inflight[n]? = some x → x.sent = none ∨ x.result ≠ none → t = s) ∧
      (s.inflight[n]? = some x → x.sent = some t0 → x.result = none →
        (s.cycle < t0 + s.ackLimit x.node → t = s) ∧
        (t0 + s.ackLimit x.node ≤ s.cycle → x.kind = 1 → x.bar = none → x.core < 384 → s.holds x = true →
          (t.core x.core).ferr = (if (s.core x.core).ferr.getLsbD 63 then (s.core x.core).ferr else ferrWord true 1 0 x.node x.seq) ∧
          t.inflight = dropFirst (fun e => e.node == x.node && e.seq == x.seq) s.inflight))) ∧
    Gives (exec (.msopResult n) s) (fun t =>
      (s.inflight[n]? = none → t = s) ∧ (s.inflight[n]? = some x → x.result = none → t = s) ∧
      (s.inflight[n]? = some x → x.result = some block → s.imageOf (s.opLaunch x) x.core = none → x.resSec = false → x.bar = none →
        x.core < 384 →
        let room : Prop := (s.vault x.core).landing.length + ((s.vault x.core).newRows x.block 64).length ≤ 256
        (¬room → t = s) ∧ (room → t.mem = s.mem ∧
          VaultWrites (s.opLaunch x).owner x.block (lineBytes block) (s.vault x.core) (t.vault x.core) ∧
          (block.toNat / 2 ^ 504 = 0 → (t.core x.core).ferr = (s.core x.core).ferr)))) ∧
    Gives (exec (.rstAddCombine i j) s) (fun t => s.net[min i j]? = some a → s.net[max i j]? = some b →
      (i = j ∨ combinable a b = false ∨ s.opBehind a = true ∨ s.opBehind b = true → t = s) ∧
      (i ≠ j → combinable a b = true → s.opBehind a = false → s.opBehind b = false → genOk cur a.gen = true → genOk cur b.gen = true →
        t = { s with net := t.net } ∧ ∃ e : RemoteOp,
          (∀ n, t.net[n]? = if n = min i j then some e else s.net[if n < max i j then n else n + 1]?) ∧ e.kind = .rst ∧ e.add = true ∧ e.addr = a.addr ∧ e.src = a.src ∧
          e.seq = a.seq ∧ opParts e = opParts a ++ opParts b ∧ e.gen = cur ∧
          e.data = BitVec.ofNat 512 (rstSum a.ty a.data.toNat b.data.toNat)) ∧
      (i ≠ j → combinable a b = true → s.opBehind a = false → s.opBehind b = false → genOk cur a.gen = false ∨ genOk cur b.gen = false →
        t.net = ((s.net.zipIdx).filter fun e => e.2 != i && e.2 != j).map Prod.fst ∧ t.mem = s.mem ∧
        ∀ e ∈ opParts a ++ opParts b, ∃ y ∈ t.acks, y.src = e.1 ∧ y.seq = e.2.1 ∧ y.ok = false ∧ y.key = true)) ∧
    link (.linkLaneFailure l) (if lk0.down then lk0 else if lk0.ports = 24 then { lk0 with ports := 12, paused := true }
      else if lk0.ports = 12 then { lk0 with ports := 6, paused := true } else { lk0 with down := true, paused := false }) ∧
    link (.linkRetrainComplete l) { lk0 with paused := false } ∧ link (.keyGenerationChange l) { lk0 with gen := lk0.gen + 1, count := 0 } ∧
    exec (.flitReplay l) s = .next s ∧
    Gives (exec (.messageArrive m) s) (fun t =>
      (s.msgBehind m = true → t = s) ∧
      (s.msgBehind m = false → m.dst = s.nodeId →
        (here.freshSeq m.src m.seq = false → t = here) ∧
        (here.freshSeq m.src m.seq = true → s.ctxBound m = false →
          t = (here.handled m).ackMessage m false cMSG false) ∧
        (here.freshSeq m.src m.seq = true → s.ctxBound m = true →
          (s.fnRegs m.fn.val).retrStopped = true ∨ here.afterTurned m = true → t = here.turnAway m) ∧
        (here.freshSeq m.src m.seq = true → s.ctxBound m = true → (s.fnRegs m.fn.val).retrStopped = false →
          here.afterTurned m = false →
          (s.posted.find? (fun e => e.fn == m.fn.val && descMatches e.body m) = some y → y.core < 384 →
            t.posted = dropFirst (fun e => e.entry == y.entry) s.posted ∧ t.unexpected = s.unexpected ∧
            ∃ e : Landing, (t.core y.core).lands = (s.core y.core).lands ++ [e] ∧ e.msg = m ∧ e.body = y.body ∧ e.owed = true) ∧
          (s.posted.find? (fun e => e.fn == m.fn.val && descMatches e.body m) = none → s.queueRoom m = true →
            t.posted = s.posted ∧ t.unexpected = s.unexpected ++ [⟨{ m with bytes := [] }, m.fn.val, m.bytes.length,
              s.overflowPlaces m.fn.val m.bytes.length⟩]) ∧
          (s.posted.find? (fun e => e.fn == m.fn.val && descMatches e.body m) = none → s.queueRoom m = false →
            t = here.turnAway m)))) ∧
    Gives (exec (.messageRetry n) s) (fun t =>
      (s.inflight[n]? = none → t = s) ∧
      (s.inflight[n]? = some x → x.msg = some m → x.sent = none → x.retryAt = some t0 →
        (s.cycle < t0 → t = s) ∧ (t0 ≤ s.cycle → t.netMsgs = s.netMsgs ++ [m] ∧ t.mem = s.mem))) ∧
    Gives (exec (.messageSendTimeout n) s) (fun t =>
      (s.inflight[n]? = none → t = s) ∧
      (s.inflight[n]? = some x → ¬(x.kind = 4 ∧ x.retryAt ≠ none ∧ x.issued + 3300000 ≤ s.cycle) → t = s) ∧
      (s.inflight[n]? = some x → x.kind = 4 → x.retryAt ≠ none → x.issued + 3300000 ≤ s.cycle → x.bar = none →
        t.inflight = dropFirst (fun e => e.node == x.node && e.seq == x.seq) s.inflight)) ∧
    Gives (exec (.messageLandingComplete c) s) (fun t =>
      ((s.core c.val).lands = [] → t = s) ∧
      (∀ zs, (s.core c.val).lands = z :: zs → s.stillMissed z.missed = true → t = s) ∧
      (∀ zs, (s.core c.val).lands = z :: zs → s.stillMissed z.missed = false → z.need ≤ z.done → z.bad = false →
        let f := s.recvLaunch z.launch z.fn
        let r := s.landTicket c.val { z with missed := none }
        r.1.statusHeld f c.val z.desc = false → r.1.writeStatus f c.val z.user (r.2.write f c.val) z.desc (msgStatus z.msg) = .ok v () →
        (t.core c.val).lands = zs))

/-! ## Encoding and the machine as a whole -/

/-- R269 to R276: a word decodes to an instruction just when the instruction is well formed and the word is its
encoding: no bit of an encoding is dropped, no two instructions share a word, and every reserved bit is tested. -/
def Obligations.decodeEncode : Prop :=
  ∀ (i : Instr) (w : Word128), decode w = .ok i ↔ i.wf = true ∧ encode i = some w

/-- Words that the spec writes out, of WTCLR (R258), END (Table 20.2), QPUSH, TBWAIT and TSET (Table 21.2), decode to the
instructions they stand for. -/
def Obligations.encodingWords : Prop :=
  let c : Ctl := ⟨false, 7, false, 15, 0, 0⟩
  decode 0x00000000000000003DFFFFC1413FC306 = .ok (.wtclr c 0 4 0 5) ∧
  decode 0x00000000000000003DFFFFFFC02180C0 = .ok (.qpush c 6 0) ∧
  decode 0x0000000000000000BDFFFFFFC23FC286 = .ok (.tbwait c false 8 (.imm 0)) ∧
  decode 0x0000000000000000BDFFFFFFFFE80288 = .ok (.tset c 0 (.imm 0)) ∧
  decode 0x00000000000000003DFFFFFFFFFFC047 = .ok (.endSeq c)

/-- R21, R24, R226, R269, R270: a step whose turn it is fetches the word at the pc, from the instruction cache where it
holds the line, decodes it, and runs that instruction on the state with this sequencer acting; a word that does not
decode traps RI with its two halves; a device step runs by itself; and every step goes on. A beat of an exchange step
whose slot has come goes first (R60). Whose turn it is, and that an act which another of its slot forbids falls in
the next slot, is the model's choice (log 1, 56). -/
def Obligations.stepRunsDecoded : Prop :=
  ∀ (s u : State) (e : Entry) (es : List Entry) (c : CoreId) (q : SeqId) (w : Word128) (i : Instr) (l : ICLine),
    let v : State := ({ s with agenda := es } : State).tick e.slots
    let at_ (x : State) : State := { x with cur := c, curSeq := q }
    let noted (x : State) (y : Option Instr) : State := { x with slotLog := x.slotLog ++ [(e.act, y)] }
    let runs (x : State) : Prop := x.canIssue c.val q = true → (at_ x).fetch = .word u w → decode w = .ok i → step s = exec i (noted u (some i))
    let head : Prop := s.agenda = e :: es ∧ s.forced (s.cycle + e.slots) = none
    (head → e.act = .issue c q →
      (v.clash e.act (v.actOf e.act) = false → runs v) ∧ (v.clash e.act (v.actOf e.act) = true → runs (v.tick 1)) ∧
      (v.clash e.act (v.actOf e.act) = false → v.canIssue c.val q = true → (at_ v).fetch = .word u w → (∀ j, decode w ≠ .ok j) →
        u.guard (Fields.unpack w).ctl = false ∨ u.sq.urgent = none → step s = .next (noted (u.trapWith u u ⟨cRI, w.extractLsb' 0 64, w.extractLsb' 64 64⟩) none)) ∧
      (v.clash e.act (v.actOf e.act) = false → v.canIssue c.val q = false → step s = .next (noted v none))) ∧
    ((at_ v).sq.icache.find? (fun x => x.fn == (at_ v).lc.fn && x.va == (at_ v).sq.pc.toNat / 64 * 64) = some l →
      (at_ v).fetch = .word (at_ v) (l.bytes.extractLsb' (8 * ((at_ v).sq.pc.toNat % 64)) 128)) ∧
    (head → e.act = .event i → i.isWord = false → s.frozen = false → s.powered = true → v.clash e.act (.run v i) = false →
      step s = exec i (noted v (some i))) ∧
    (s.frozen = false → s.powered = true → e.slots ≠ 0 → ∀ a x, v.clash a x = false) ∧
    (∀ x, s.forced (s.cycle + s.headSlots) = some x → ∃ ds : List Entry, ds.map Entry.act = s.agenda.map Entry.act ∧
      step s = exec x.2 (({ s with agenda := ds } : State).tick (x.1 - s.cycle))) ∧
    ∃ t, step s = .next t

/-- R261, R262: while the package is frozen, and neither its reset nor the fall of its rails is to come, it stays frozen:
time stands still, and nothing changes but what the management port has read, beside the model's own order of acts. -/
def Obligations.frozenStays : Prop :=
  ∀ (s t : State), s.frozen = true → (∀ e ∈ s.agenda, e.act ≠ .event .packageReset ∧ e.act ≠ .event .railsFall) → step s = .next t →
    t.frozen = true ∧ (∀ e ∈ t.agenda, e.act ≠ .event .packageReset ∧ e.act ≠ .event .railsFall) ∧
    t = { s with agenda := t.agenda, turn := t.turn, slotLog := t.slotLog, scanned := t.scanned }

/-- Every step keeps memory in its canonical form: addresses strictly rising, and no byte listed that holds what an
unlisted address reads as (log 5). -/
def Obligations.memoryStaysCanonical : Prop := ∀ (s t : State), s.mem.wf = true → step s = .next t → t.mem.wf = true

/-- R4, R78, R110, R244, R256, R261, R278: after package reset time is 0, the package runs, memory lists nothing and
is in canonical form, no core has a launch, the operating point is 7, and the generators hold their seeds of 0. The
register values that the spec does not give are the model's choice (log 4). -/
def Obligations.resetValues : Prop :=
  State.reset.cycle = 0 ∧ State.reset.frozen = false ∧ State.reset.powered = true ∧ State.reset.mem = [] ∧
  State.reset.mem.wf = true ∧ State.reset.launches = [] ∧ State.reset.vpCur = 7 ∧ State.reset.worldCores = 0 ∧
  ∀ c : Nat, c < 384 → (State.reset.core c).launch = none ∧ (State.reset.core c).as.mode = 0 ∧ (State.reset.core c).as.inh = false ∧
    (State.reset.core c).as.tvec = 0 ∧ (∀ r, (State.reset.core c).as.rs r = 0) ∧ (∀ r, (State.reset.core c).xs.rs r = 0) ∧
    (∀ r, (State.reset.core c).as.rf r = decide (r = 7)) ∧ (∀ l, l < 1024 → vget 0 (State.reset.core c).x.gen l = genStart 0 l) ∧
    (∀ t, (State.reset.core c).tile t = ⟨.empty, 0, 0⟩) ∧ (State.reset.core c).vault.bytes = []
end

