-- ==== Sys2Proof/Laws/Encoding.lean ====
section
/-! SUPPORT. Reading back what the encoder writes: codes, operand codes, and the fields of a word. -/

namespace Sys2Proof

@[simp] theorem Ty.ofCode_code (t : Ty) : Ty.ofCode t.code.toNat = some t := by cases t <;> rfl
@[simp] theorem Rnd.ofCode_code (r : Rnd) : Rnd.ofCode r.code.toNat = some r := by cases r <;> rfl
@[simp] theorem Cond.ofCode_code (c : Cond) : Cond.ofCode c.code.toNat = some c := by cases c <;> rfl
@[simp] theorem MulSel.ofCode_code (m : MulSel) : MulSel.ofCode m.code.toNat = some m := by cases m <;> rfl
@[simp] theorem AtomOp.ofCode_code (o : AtomOp) : AtomOp.ofCode o.code.toNat = some o := by cases o <;> rfl
@[simp] theorem AtomOrd.ofCode_code (o : AtomOrd) : AtomOrd.ofCode o.code.toNat = some o := by cases o <;> rfl
@[simp] theorem RedOp.ofCode_code (o : RedOp) : RedOp.ofCode o.code.toNat = some o := by cases o <;> rfl
@[simp] theorem PlogOp.ofCode_code (o : PlogOp) : PlogOp.ofCode o.code.toNat = some o := by cases o <;> rfl

@[simp] theorem r32_cS (r : Fin 32) : r32 (cS r) = r := by revert r; decide
@[simp] theorem r32_cV (r : Fin 32) : r32 (cV r) = r := by revert r; decide
@[simp] theorem r32_cT (r : Fin 32) : r32 (cT r) = r := by revert r; decide
@[simp] theorem r16_cP (r : Fin 16) : r16 (cP r) = r := by revert r; decide
@[simp] theorem r16_cM (r : Fin 16) : r16 (cM r) = r := by revert r; decide
@[simp] theorem r8_cF (r : Fin 8) : r8 (cF r) = r := by revert r; decide
@[simp] theorem r8_cQ (r : Fin 8) : r8 (cQ r) = r := by revert r; decide
@[simp] theorem r4_cK (r : Fin 4) : r4 (cK r) = r := by revert r; decide

@[simp] theorem cS_ne_none (r : Fin 32) : cS r ≠ cNone := by revert r; decide
theorem cT_ne_none (r : Fin 32) : cT r ≠ cNone := by revert r; decide

@[simp] theorem ro32_cSo (o : Option (Fin 32)) : ro32 (cSo o) = o := by
  cases o with
  | none => rfl
  | some r => simp [ro32, cSo, cS_ne_none]

@[simp] theorem ro32_cTo (o : Option (Fin 32)) : ro32 (cTo o) = o := by
  cases o with
  | none => rfl
  | some r => simp [ro32, cTo, cT_ne_none]

@[simp] theorem rSM_code (x : SM) : rSM x.code = x := by
  cases x with
  | s r => revert r; decide
  | m r => revert r; decide

@[simp] theorem rTS_code (x : TS) : rTS x.code = x := by
  cases x with
  | t r => revert r; decide
  | s r => revert r; decide

@[simp] theorem rQB_code (x : QB) : rQB x.code = x := by
  cases x with
  | q r => revert r; decide
  | bq => rfl

/-- The guards, HINT and STALL read back. -/
theorem Ctl.read_back (c : Ctl) (f : Fields) (hs : f.gs = BitVec.ofBool c.gNeg ++ BitVec.ofNat 3 c.gFlag.val)
    (hl : f.gl = BitVec.ofBool c.lNeg ++ BitVec.ofNat 4 c.lPred.val) (hh : f.hint = c.hint) (ht : f.stall = c.stall) : f.ctl = c := by
  obtain ⟨gn, gf, ln, lp, h, s⟩ := c
  have hg : ∀ (b : Bool) (r : Fin 8), ((BitVec.ofBool b ++ BitVec.ofNat 3 r.val : BitVec 4).getLsbD 3 = b) ∧
      (BitVec.ofBool b ++ BitVec.ofNat 3 r.val : BitVec 4).toNat % 8 = r.val := by decide
  have hp : ∀ (b : Bool) (r : Fin 16), ((BitVec.ofBool b ++ BitVec.ofNat 4 r.val : BitVec 5).getLsbD 4 = b) ∧
      (BitVec.ofBool b ++ BitVec.ofNat 4 r.val : BitVec 5).toNat % 16 = r.val := by decide
  simp only [Fields.ctl, Ctl.mk.injEq, Fin.ext_iff]
  exact ⟨by rw [hs]; exact (hg _ _).1, by rw [hs]; exact (hg _ _).2, by rw [hl]; exact (hp _ _).1, by rw [hl]; exact (hp _ _).2, hh, ht⟩

@[simp] theorem ofBool_bit0 (b : Bool) : (BitVec.ofBool b)[0] = b := by cases b <;> rfl
@[simp] theorem fnB_bit0 (b : Bool) : (fnB b)[0] = b := by cases b <;> rfl
@[simp] theorem fnBB_bit0 (a b : Bool) : (fnBB a b)[0] = a := by cases a <;> cases b <;> rfl
@[simp] theorem fnBB_bit1 (a b : Bool) : (fnBB a b)[1] = b := by cases a <;> cases b <;> rfl
@[simp] theorem fnStr_low (s : BitVec 2) (l : Bool) : (fnStr s l).extractLsb' 0 2 = s := by cases l <;> revert s <;> decide
@[simp] theorem fnStr_bit2 (s : BitVec 2) (l : Bool) : (fnStr s l)[2] = l := by cases l <;> revert s <;> decide

/-- A part of the low word of two. -/
theorem extract_low {v w : Nat} (x : BitVec v) (y : BitVec w) {a n : Nat} (h : a + n ≤ w) :
    (x ++ y).extractLsb' a n = y.extractLsb' a n := by
  ext i hi
  have : a + i < w := by omega
  simp [BitVec.getLsbD_append, this]

/-- A part of the high word of two. -/
theorem extract_high {v w : Nat} (x : BitVec v) (y : BitVec w) {a n : Nat} (h : w ≤ a) :
    (x ++ y).extractLsb' a n = x.extractLsb' (a - w) n := by
  ext i hi
  have h1 : ¬a + i < w := by omega
  have h2 : a + i - w = a - w + i := by omega
  simp [BitVec.getLsbD_append, h1, h2]

/-- A whole word. -/
theorem extract_whole {w : Nat} (x : BitVec w) : x.extractLsb' 0 w = x := by
  ext i hi
  simp

/-- Every field of a word is read back as it was written (Table 18.1). -/
theorem Fields.unpack_pack (f : Fields) : Fields.unpack f.pack = f := by
  obtain ⟨imm, sat, rnd, ty, stall, scp, ocl, hint, immf, gl, gs, oe, oc, ob, oa, od, fn, opc⟩ := f
  simp only [Fields.unpack, Fields.pack, Fields.mk.injEq]
  and_intros <;>
    (repeat first | rw [extract_low _ _ (by decide)] | rw [extract_high _ _ (by decide)]) <;>
    exact extract_whole _

end Sys2Proof
end

