-- ==== Sys2Proof/Laws/Arms.lean ====
section
/-! SUPPORT. What the decoder reads under each opcode: one equation per arm of `Fields.instr`. -/

namespace Sys2Proof.Laws

theorem instr_000 (f : Fields) (h : f.opc = 0x000) : f.instr = (some (.nop f.ctl) : Option Instr) := by unfold Fields.instr; rw [h]; rfl
theorem instr_001 (f : Fields) (h : f.opc = 0x001) : f.instr = ((Ty.ofCode f.ty.toNat).map fun t => .add f.ctl t f.satB (r32 f.od) (r32 f.oa) f.sop : Option Instr) := by unfold Fields.instr; rw [h]; rfl
theorem instr_002 (f : Fields) (h : f.opc = 0x002) : f.instr = ((Ty.ofCode f.ty.toNat).map fun t => .sub f.ctl t f.satB (r32 f.od) (r32 f.oa) f.sop : Option Instr) := by unfold Fields.instr; rw [h]; rfl
theorem instr_003 (f : Fields) (h : f.opc = 0x003) : f.instr = ((Ty.ofCode f.ty.toNat).bind fun t => (MulSel.ofCode f.fn.toNat).map fun m => .mul f.ctl t m (r32 f.od) (r32 f.oa) f.sop : Option Instr) := by unfold Fields.instr; rw [h]; rfl
theorem instr_004 (f : Fields) (h : f.opc = 0x004) : f.instr = ((Ty.ofCode f.ty.toNat).map fun t => .div f.ctl t f.fn0 (r32 f.od) (r32 f.oa) f.sop : Option Instr) := by unfold Fields.instr; rw [h]; rfl
theorem instr_005 (f : Fields) (h : f.opc = 0x005) : f.instr = ((Ty.ofCode f.ty.toNat).map fun t => .and f.ctl t (r32 f.od) (r32 f.oa) f.sop : Option Instr) := by unfold Fields.instr; rw [h]; rfl
theorem instr_006 (f : Fields) (h : f.opc = 0x006) : f.instr = ((Ty.ofCode f.ty.toNat).map fun t => .or f.ctl t (r32 f.od) (r32 f.oa) f.sop : Option Instr) := by unfold Fields.instr; rw [h]; rfl
theorem instr_007 (f : Fields) (h : f.opc = 0x007) : f.instr = ((Ty.ofCode f.ty.toNat).map fun t => .xor f.ctl t (r32 f.od) (r32 f.oa) f.sop : Option Instr) := by unfold Fields.instr; rw [h]; rfl
theorem instr_008 (f : Fields) (h : f.opc = 0x008) : f.instr = ((Ty.ofCode f.ty.toNat).map fun t => .shl f.ctl t (r32 f.od) (r32 f.oa) f.sop : Option Instr) := by unfold Fields.instr; rw [h]; rfl
theorem instr_009 (f : Fields) (h : f.opc = 0x009) : f.instr = ((Ty.ofCode f.ty.toNat).map fun t => .shr f.ctl t f.fn0 (r32 f.od) (r32 f.oa) f.sop : Option Instr) := by unfold Fields.instr; rw [h]; rfl
theorem instr_00A (f : Fields) (h : f.opc = 0x00A) : f.instr = ((Ty.ofCode f.ty.toNat).map fun t => .rol f.ctl t (r32 f.od) (r32 f.oa) f.sop : Option Instr) := by unfold Fields.instr; rw [h]; rfl
theorem instr_00B (f : Fields) (h : f.opc = 0x00B) : f.instr = ((Ty.ofCode f.ty.toNat).map fun t => .min f.ctl t (r32 f.od) (r32 f.oa) f.sop : Option Instr) := by unfold Fields.instr; rw [h]; rfl
theorem instr_00C (f : Fields) (h : f.opc = 0x00C) : f.instr = ((Ty.ofCode f.ty.toNat).map fun t => .max f.ctl t (r32 f.od) (r32 f.oa) f.sop : Option Instr) := by unfold Fields.instr; rw [h]; rfl
theorem instr_00D (f : Fields) (h : f.opc = 0x00D) : f.instr = ((Ty.ofCode f.ty.toNat).bind fun t => (Cond.ofCode f.fn.toNat).map fun k => .cmp f.ctl t k (r8 f.od) (r32 f.oa) f.sop : Option Instr) := by unfold Fields.instr; rw [h]; rfl
theorem instr_00E (f : Fields) (h : f.opc = 0x00E) : f.instr = ((Ty.ofCode f.ty.toNat).map fun t => .sel f.ctl t (r32 f.od) (r32 f.oa) f.sop (r8 f.oc) : Option Instr) := by unfold Fields.instr; rw [h]; rfl
theorem instr_00F (f : Fields) (h : f.opc = 0x00F) : f.instr = (some (.li f.ctl f.fn0 (r32 f.od) f.imm) : Option Instr) := by unfold Fields.instr; rw [h]; rfl
theorem instr_010 (f : Fields) (h : f.opc = 0x010) : f.instr = (some (.mov f.ctl (rSM f.od) (rSM f.oa)) : Option Instr) := by unfold Fields.instr; rw [h]; rfl
theorem instr_011 (f : Fields) (h : f.opc = 0x011) : f.instr = ((Ty.ofCode f.ty.toNat).map fun t => .clz f.ctl t (r32 f.od) (r32 f.oa) : Option Instr) := by unfold Fields.instr; rw [h]; rfl
theorem instr_012 (f : Fields) (h : f.opc = 0x012) : f.instr = ((Ty.ofCode f.ty.toNat).map fun t => .popc f.ctl t (r32 f.od) (r32 f.oa) : Option Instr) := by unfold Fields.instr; rw [h]; rfl
theorem instr_013 (f : Fields) (h : f.opc = 0x013) : f.instr = ((Ty.ofCode f.ty.toNat).map fun t => .bfx f.ctl t (r32 f.od) (r32 f.oa) f.sop : Option Instr) := by unfold Fields.instr; rw [h]; rfl
theorem instr_014 (f : Fields) (h : f.opc = 0x014) : f.instr = ((Ty.ofCode f.ty.toNat).map fun t => .bfi f.ctl t (r32 f.od) (r32 f.oa) f.sop : Option Instr) := by unfold Fields.instr; rw [h]; rfl
theorem instr_040 (f : Fields) (h : f.opc = 0x040) : f.instr = (some (.br f.ctl f.imm) : Option Instr) := by unfold Fields.instr; rw [h]; rfl
theorem instr_041 (f : Fields) (h : f.opc = 0x041) : f.instr = (some (.jmp f.ctl (r32 f.oa)) : Option Instr) := by unfold Fields.instr; rw [h]; rfl
theorem instr_042 (f : Fields) (h : f.opc = 0x042) : f.instr = (some (.call f.ctl (r32 f.od) f.imm) : Option Instr) := by unfold Fields.instr; rw [h]; rfl
theorem instr_043 (f : Fields) (h : f.opc = 0x043) : f.instr = (some (.ret f.ctl (r32 f.oa)) : Option Instr) := by unfold Fields.instr; rw [h]; rfl
theorem instr_044 (f : Fields) (h : f.opc = 0x044) : f.instr = (some (.loop f.ctl (r32 f.od) f.imm) : Option Instr) := by unfold Fields.instr; rw [h]; rfl
theorem instr_045 (f : Fields) (h : f.opc = 0x045) : f.instr = (some (.bqsend f.ctl (r8 f.oa)) : Option Instr) := by unfold Fields.instr; rw [h]; rfl
theorem instr_046 (f : Fields) (h : f.opc = 0x046) : f.instr = (some (.bqbr f.ctl f.fn0 f.imm) : Option Instr) := by unfold Fields.instr; rw [h]; rfl
theorem instr_047 (f : Fields) (h : f.opc = 0x047) : f.instr = (some (.endSeq f.ctl) : Option Instr) := by unfold Fields.instr; rw [h]; rfl
theorem instr_048 (f : Fields) (h : f.opc = 0x048) : f.instr = (some (.tail f.ctl) : Option Instr) := by unfold Fields.instr; rw [h]; rfl
theorem instr_049 (f : Fields) (h : f.opc = 0x049) : f.instr = (some (.mark f.ctl (r4 f.od) (f.imm.extractLsb' 0 8) (f.imm.extractLsb' 8 5)) : Option Instr) := by unfold Fields.instr; rw [h]; rfl
theorem instr_04A (f : Fields) (h : f.opc = 0x04A) : f.instr = (some (.waitmk f.ctl (r4 f.oa) (f.imm.extractLsb' 0 8)) : Option Instr) := by unfold Fields.instr; rw [h]; rfl
theorem instr_080 (f : Fields) (h : f.opc = 0x080) : f.instr = ((Ty.ofCode f.ty.toNat).map fun t => .ld f.ctl t f.fn0 f.ocl f.scp (r32 f.od) (r32 f.oa) f.imm : Option Instr) := by unfold Fields.instr; rw [h]; rfl
theorem instr_081 (f : Fields) (h : f.opc = 0x081) : f.instr = ((Ty.ofCode f.ty.toNat).map fun t => .st f.ctl t f.fn0 f.ocl f.scp (r32 f.oa) f.imm (r32 f.ob) : Option Instr) := by unfold Fields.instr; rw [h]; rfl
theorem instr_082 (f : Fields) (h : f.opc = 0x082) : f.instr = ((Ty.ofCode f.ty.toNat).map fun t => .ldv f.ctl t f.ocl (r32 f.od) (r32 f.oa) f.imm f.fn : Option Instr) := by unfold Fields.instr; rw [h]; rfl
theorem instr_083 (f : Fields) (h : f.opc = 0x083) : f.instr = ((Ty.ofCode f.ty.toNat).map fun t => .stv f.ctl t f.ocl (r32 f.oa) f.imm (r32 f.ob) f.fn : Option Instr) := by unfold Fields.instr; rw [h]; rfl
theorem instr_084 (f : Fields) (h : f.opc = 0x084) : f.instr = (some (.gather f.ctl (r32 f.od) (r32 f.oa) (r32 f.ob) (r32 f.oc) (ro32 f.oe) f.imm) : Option Instr) := by unfold Fields.instr; rw [h]; rfl
theorem instr_085 (f : Fields) (h : f.opc = 0x085) : f.instr = (some (.scatter f.ctl (r32 f.od) (r32 f.oa) (r32 f.ob) (r32 f.oc) (ro32 f.oe) f.imm) : Option Instr) := by unfold Fields.instr; rw [h]; rfl
theorem instr_086 (f : Fields) (h : f.opc = 0x086) : f.instr = ((Ty.ofCode f.ty.toNat).bind fun t => (AtomOp.ofCode f.fn.toNat).bind fun o => (AtomOrd.ofCode f.imm.toNat).map fun r => .atom f.ctl t o r f.ocl f.scp (r32 f.od) (r32 f.oa) (r32 f.ob) (ro32 f.oe) : Option Instr) := by unfold Fields.instr; rw [h]; rfl
theorem instr_087 (f : Fields) (h : f.opc = 0x087) : f.instr = (some (.fence f.ctl f.scp (f.imm.extractLsb' 0 16) (f.imm.extractLsb' 16 16)) : Option Instr) := by unfold Fields.instr; rw [h]; rfl
theorem instr_088 (f : Fields) (h : f.opc = 0x088) : f.instr = (some (.xfence f.ctl f.scp ⟨f.imm.extractLsb' 0 7, f.imm.extractLsb' 16 7⟩) : Option Instr) := by unfold Fields.instr; rw [h]; rfl
theorem instr_089 (f : Fields) (h : f.opc = 0x089) : f.instr = (some (.pref f.ctl (r32 f.oa) (ro32 f.ob) f.imm) : Option Instr) := by unfold Fields.instr; rw [h]; rfl
theorem instr_0C0 (f : Fields) (h : f.opc = 0x0C0) : f.instr = (some (.qpush f.ctl (r8 f.od) (r32 f.oa)) : Option Instr) := by unfold Fields.instr; rw [h]; rfl
theorem instr_0C1 (f : Fields) (h : f.opc = 0x0C1) : f.instr = (some (.qpop f.ctl (r32 f.od) (r8 f.oa)) : Option Instr) := by unfold Fields.instr; rw [h]; rfl
theorem instr_0C2 (f : Fields) (h : f.opc = 0x0C2) : f.instr = (some (.qcnt f.ctl (r32 f.od) (rQB f.oa)) : Option Instr) := by unfold Fields.instr; rw [h]; rfl
theorem instr_0C3 (f : Fields) (h : f.opc = 0x0C3) : f.instr = (some (if f.fn = 0 then .bar f.ctl (f.imm.extractLsb' 0 3) (f.imm.extractLsb' 4 3) else .barAll f.ctl) : Option Instr) := by unfold Fields.instr; rw [h]; rfl
theorem instr_0C4 (f : Fields) (h : f.opc = 0x0C4) : f.instr = (some (.xch f.ctl) : Option Instr) := by unfold Fields.instr; rw [h]; rfl
theorem instr_0C5 (f : Fields) (h : f.opc = 0x0C5) : f.instr = (some (.phase f.ctl (r32 f.oa) (r32 f.ob)) : Option Instr) := by unfold Fields.instr; rw [h]; rfl
theorem instr_100 (f : Fields) (h : f.opc = 0x100) : f.instr = ((Ty.ofCode f.ty.toNat).map fun t => .vadd f.ctl t f.satB (r32 f.od) (r32 f.oa) f.vop : Option Instr) := by unfold Fields.instr; rw [h]; rfl
theorem instr_101 (f : Fields) (h : f.opc = 0x101) : f.instr = ((Ty.ofCode f.ty.toNat).map fun t => .vsub f.ctl t f.satB (r32 f.od) (r32 f.oa) f.vop : Option Instr) := by unfold Fields.instr; rw [h]; rfl
theorem instr_102 (f : Fields) (h : f.opc = 0x102) : f.instr = ((Ty.ofCode f.ty.toNat).bind fun t => (MulSel.ofCode f.fn.toNat).map fun m => .vmul f.ctl t m f.satB (r32 f.od) (r32 f.oa) f.vop : Option Instr) := by unfold Fields.instr; rw [h]; rfl
theorem instr_103 (f : Fields) (h : f.opc = 0x103) : f.instr = ((Ty.ofCode f.ty.toNat).map fun t => .vmad f.ctl t f.satB (r32 f.od) (r32 f.oa) f.vop (r32 f.oc) : Option Instr) := by unfold Fields.instr; rw [h]; rfl
theorem instr_104 (f : Fields) (h : f.opc = 0x104) : f.instr = ((Ty.ofCode f.ty.toNat).map fun t => .vand f.ctl t (r32 f.od) (r32 f.oa) f.vop : Option Instr) := by unfold Fields.instr; rw [h]; rfl
theorem instr_105 (f : Fields) (h : f.opc = 0x105) : f.instr = ((Ty.ofCode f.ty.toNat).map fun t => .vor f.ctl t (r32 f.od) (r32 f.oa) f.vop : Option Instr) := by unfold Fields.instr; rw [h]; rfl
theorem instr_106 (f : Fields) (h : f.opc = 0x106) : f.instr = ((Ty.ofCode f.ty.toNat).map fun t => .vxor f.ctl t (r32 f.od) (r32 f.oa) f.vop : Option Instr) := by unfold Fields.instr; rw [h]; rfl
theorem instr_107 (f : Fields) (h : f.opc = 0x107) : f.instr = ((Ty.ofCode f.ty.toNat).map fun t => .vshl f.ctl t (r32 f.od) (r32 f.oa) f.vop : Option Instr) := by unfold Fields.instr; rw [h]; rfl
theorem instr_108 (f : Fields) (h : f.opc = 0x108) : f.instr = ((Ty.ofCode f.ty.toNat).map fun t => .vshr f.ctl t f.fn0 (r32 f.od) (r32 f.oa) f.vop : Option Instr) := by unfold Fields.instr; rw [h]; rfl
theorem instr_109 (f : Fields) (h : f.opc = 0x109) : f.instr = ((Ty.ofCode f.ty.toNat).map fun t => .vmin f.ctl t (r32 f.od) (r32 f.oa) f.vop : Option Instr) := by unfold Fields.instr; rw [h]; rfl
theorem instr_10A (f : Fields) (h : f.opc = 0x10A) : f.instr = ((Ty.ofCode f.ty.toNat).map fun t => .vmax f.ctl t (r32 f.od) (r32 f.oa) f.vop : Option Instr) := by unfold Fields.instr; rw [h]; rfl
theorem instr_10B (f : Fields) (h : f.opc = 0x10B) : f.instr = ((Ty.ofCode f.ty.toNat).bind fun t => (Cond.ofCode f.fn.toNat).map fun k => .vcmp f.ctl t k (r16 f.od) (r32 f.oa) f.vop : Option Instr) := by unfold Fields.instr; rw [h]; rfl
theorem instr_10C (f : Fields) (h : f.opc = 0x10C) : f.instr = ((Ty.ofCode f.ty.toNat).map fun t => .vsel f.ctl t (r32 f.od) (r32 f.oa) f.vop (r16 f.oc) : Option Instr) := by unfold Fields.instr; rw [h]; rfl
theorem instr_10D (f : Fields) (h : f.opc = 0x10D) : f.instr = ((Ty.ofCode f.ty.toNat).map fun t => .vmov f.ctl t (r32 f.od) f.vop : Option Instr) := by unfold Fields.instr; rw [h]; rfl
theorem instr_10E (f : Fields) (h : f.opc = 0x10E) : f.instr = ((Ty.ofCode f.ty.toNat).map fun t => .viota f.ctl t (r32 f.od) : Option Instr) := by unfold Fields.instr; rw [h]; rfl
theorem instr_140 (f : Fields) (h : f.opc = 0x140) : f.instr = ((Rnd.ofCode f.rnd.toNat).map fun r => .vfadd f.ctl r f.satB (r32 f.od) (r32 f.oa) f.vop : Option Instr) := by unfold Fields.instr; rw [h]; rfl
theorem instr_141 (f : Fields) (h : f.opc = 0x141) : f.instr = ((Rnd.ofCode f.rnd.toNat).map fun r => .vfmul f.ctl r f.satB (r32 f.od) (r32 f.oa) f.vop : Option Instr) := by unfold Fields.instr; rw [h]; rfl
theorem instr_142 (f : Fields) (h : f.opc = 0x142) : f.instr = ((Rnd.ofCode f.rnd.toNat).map fun r => .vfma f.ctl r f.satB (r32 f.od) (r32 f.oa) f.vop (r32 f.oc) : Option Instr) := by unfold Fields.instr; rw [h]; rfl
theorem instr_143 (f : Fields) (h : f.opc = 0x143) : f.instr = ((Rnd.ofCode f.rnd.toNat).map fun r => .vfmin f.ctl r f.satB (r32 f.od) (r32 f.oa) f.vop : Option Instr) := by unfold Fields.instr; rw [h]; rfl
theorem instr_144 (f : Fields) (h : f.opc = 0x144) : f.instr = ((Rnd.ofCode f.rnd.toNat).map fun r => .vfmax f.ctl r f.satB (r32 f.od) (r32 f.oa) f.vop : Option Instr) := by unfold Fields.instr; rw [h]; rfl
theorem instr_145 (f : Fields) (h : f.opc = 0x145) : f.instr = ((Cond.ofCode f.fn.toNat).map fun k => .vfcmp f.ctl k (r16 f.od) (r32 f.oa) f.vop : Option Instr) := by unfold Fields.instr; rw [h]; rfl
theorem instr_146 (f : Fields) (h : f.opc = 0x146) : f.instr = ((Ty.ofCode f.ty.toNat).bind fun t => (Rnd.ofCode f.rnd.toNat).bind fun r => (Ty.ofCode (f.imm.extractLsb' 0 6).toNat).map fun s => .vfcvt f.ctl t s (f.imm.extractLsb' 8 3) r f.satB (r32 f.od) (r32 f.oa) : Option Instr) := by unfold Fields.instr; rw [h]; rfl
theorem instr_147 (f : Fields) (h : f.opc = 0x147) : f.instr = ((Ty.ofCode f.ty.toNat).bind fun t => (Rnd.ofCode f.rnd.toNat).map fun r => .vpadd f.ctl t r f.satB (r32 f.od) (r32 f.oa) f.vop : Option Instr) := by unfold Fields.instr; rw [h]; rfl
theorem instr_148 (f : Fields) (h : f.opc = 0x148) : f.instr = ((Ty.ofCode f.ty.toNat).bind fun t => (Rnd.ofCode f.rnd.toNat).map fun r => .vpmul f.ctl t r f.satB (r32 f.od) (r32 f.oa) f.vop : Option Instr) := by unfold Fields.instr; rw [h]; rfl
theorem instr_149 (f : Fields) (h : f.opc = 0x149) : f.instr = ((Ty.ofCode f.ty.toNat).bind fun t => (Rnd.ofCode f.rnd.toNat).map fun r => .vpfma f.ctl t r f.satB (r32 f.od) (r32 f.oa) f.vop (r32 f.oc) : Option Instr) := by unfold Fields.instr; rw [h]; rfl
theorem instr_180 (f : Fields) (h : f.opc = 0x180) : f.instr = ((Ty.ofCode f.ty.toNat).map fun t => .vrotr f.ctl t (r32 f.od) (r32 f.oa) f.sop : Option Instr) := by unfold Fields.instr; rw [h]; rfl
theorem instr_181 (f : Fields) (h : f.opc = 0x181) : f.instr = ((Ty.ofCode f.ty.toNat).map fun t => .vrotc f.ctl t (r32 f.od) (r32 f.oa) f.sop : Option Instr) := by unfold Fields.instr; rw [h]; rfl
theorem instr_182 (f : Fields) (h : f.opc = 0x182) : f.instr = ((Ty.ofCode f.ty.toNat).map fun t => .vbcr f.ctl t (r32 f.od) (r32 f.oa) f.sopo : Option Instr) := by unfold Fields.instr; rw [h]; rfl
theorem instr_183 (f : Fields) (h : f.opc = 0x183) : f.instr = ((Ty.ofCode f.ty.toNat).map fun t => .vbcc f.ctl t (r32 f.od) (r32 f.oa) f.sopo : Option Instr) := by unfold Fields.instr; rw [h]; rfl
theorem instr_184 (f : Fields) (h : f.opc = 0x184) : f.instr = ((Ty.ofCode f.ty.toNat).bind fun t => (Rnd.ofCode f.rnd.toNat).bind fun r => (RedOp.ofCode f.fn.toNat).map fun o => .vredr f.ctl t o r f.satB (r32 f.od) (r32 f.oa) : Option Instr) := by unfold Fields.instr; rw [h]; rfl
theorem instr_185 (f : Fields) (h : f.opc = 0x185) : f.instr = ((Ty.ofCode f.ty.toNat).bind fun t => (Rnd.ofCode f.rnd.toNat).bind fun r => (RedOp.ofCode f.fn.toNat).map fun o => .vredc f.ctl t o r f.satB (r32 f.od) (r32 f.oa) : Option Instr) := by unfold Fields.instr; rw [h]; rfl
theorem instr_186 (f : Fields) (h : f.opc = 0x186) : f.instr = ((Ty.ofCode f.ty.toNat).map fun t => .vtrn f.ctl t (r32 f.od) (r32 f.oa) : Option Instr) := by unfold Fields.instr; rw [h]; rfl
theorem instr_188 (f : Fields) (h : f.opc = 0x188) : f.instr = (some (.vexp2 f.ctl (r32 f.od) (r32 f.oa)) : Option Instr) := by unfold Fields.instr; rw [h]; rfl
theorem instr_189 (f : Fields) (h : f.opc = 0x189) : f.instr = (some (.vlog2 f.ctl (r32 f.od) (r32 f.oa)) : Option Instr) := by unfold Fields.instr; rw [h]; rfl
theorem instr_18A (f : Fields) (h : f.opc = 0x18A) : f.instr = (some (.vrcp f.ctl (r32 f.od) (r32 f.oa)) : Option Instr) := by unfold Fields.instr; rw [h]; rfl
theorem instr_18B (f : Fields) (h : f.opc = 0x18B) : f.instr = (some (.vrsq f.ctl (r32 f.od) (r32 f.oa)) : Option Instr) := by unfold Fields.instr; rw [h]; rfl
theorem instr_18C (f : Fields) (h : f.opc = 0x18C) : f.instr = ((Ty.ofCode f.ty.toNat).bind fun t => (Rnd.ofCode f.rnd.toNat).map fun r => .vqnt f.ctl t r f.fn0 (r32 f.od) (r32 f.oc) (r32 f.oa) : Option Instr) := by unfold Fields.instr; rw [h]; rfl
theorem instr_1C0 (f : Fields) (h : f.opc = 0x1C0) : f.instr = ((PlogOp.ofCode f.fn.toNat).map fun o => .plog f.ctl o (r16 f.od) (r16 f.oa) (r16 f.ob) : Option Instr) := by unfold Fields.instr; rw [h]; rfl
theorem instr_1C1 (f : Fields) (h : f.opc = 0x1C1) : f.instr = (some (.pcnt f.ctl f.fn0 (r32 f.od) (r16 f.oa)) : Option Instr) := by unfold Fields.instr; rw [h]; rfl
theorem instr_1C2 (f : Fields) (h : f.opc = 0x1C2) : f.instr = (some (.pset f.ctl f.fn0 (r16 f.od) f.sop) : Option Instr) := by unfold Fields.instr; rw [h]; rfl
theorem instr_1C4 (f : Fields) (h : f.opc = 0x1C4) : f.instr = (some (.cspush f.ctl (r32 f.od) (r32 f.oa)) : Option Instr) := by unfold Fields.instr; rw [h]; rfl
theorem instr_1C5 (f : Fields) (h : f.opc = 0x1C5) : f.instr = (some (.cspop f.ctl (r32 f.od) (r32 f.oa)) : Option Instr) := by unfold Fields.instr; rw [h]; rfl
theorem instr_1C6 (f : Fields) (h : f.opc = 0x1C6) : f.instr = (some (.csbal f.ctl (r32 f.od) (r16 f.ob) (r32 f.oa)) : Option Instr) := by unfold Fields.instr; rw [h]; rfl
theorem instr_200 (f : Fields) (h : f.opc = 0x200) : f.instr = ((Ty.ofCode f.ty.toNat).map fun t => if f.fn0 then .mshapeGrp f.ctl t f.fn1 (r32 f.od) f.sop else .mshape f.ctl t f.fn1 (r32 f.od) f.sop : Option Instr) := by unfold Fields.instr; rw [h]; rfl
theorem instr_201 (f : Fields) (h : f.opc = 0x201) : f.instr = (some (.mload f.ctl f.fn0 (r32 f.oa)) : Option Instr) := by unfold Fields.instr; rw [h]; rfl
theorem instr_202 (f : Fields) (h : f.opc = 0x202) : f.instr = (some (.mswap f.ctl) : Option Instr) := by unfold Fields.instr; rw [h]; rfl
theorem instr_203 (f : Fields) (h : f.opc = 0x203) : f.instr = (some (.mmul f.ctl (f.fn.extractLsb' 0 2) f.fn2 (r16 f.od) (r32 f.oa)) : Option Instr) := by unfold Fields.instr; rw [h]; rfl
theorem instr_204 (f : Fields) (h : f.opc = 0x204) : f.instr = (some (.mmuls f.ctl (f.fn.extractLsb' 0 2) f.fn2 (r16 f.od) (r32 f.oa)) : Option Instr) := by unfold Fields.instr; rw [h]; rfl
theorem instr_205 (f : Fields) (h : f.opc = 0x205) : f.instr = (some (.mzero f.ctl (f.fn.extractLsb' 0 2) (r16 f.od)) : Option Instr) := by unfold Fields.instr; rw [h]; rfl
theorem instr_206 (f : Fields) (h : f.opc = 0x206) : f.instr = ((Ty.ofCode f.ty.toNat).bind fun t => (Rnd.ofCode f.rnd.toNat).map fun r => .mdrain f.ctl (f.fn.extractLsb' 0 2) t r f.satB (r32 f.od) (r16 f.oa) : Option Instr) := by unfold Fields.instr; rw [h]; rfl
theorem instr_207 (f : Fields) (h : f.opc = 0x207) : f.instr = (some (.madpt f.ctl (ro32 f.oa) (r32 f.ob)) : Option Instr) := by unfold Fields.instr; rw [h]; rfl
theorem instr_240 (f : Fields) (h : f.opc = 0x240) : f.instr = (some (.axlt f.ctl (r32 f.oa) f.imm (r32 f.ob)) : Option Instr) := by unfold Fields.instr; rw [h]; rfl
theorem instr_241 (f : Fields) (h : f.opc = 0x241) : f.instr = (some (.apref f.ctl (r32 f.oa)) : Option Instr) := by unfold Fields.instr; rw [h]; rfl
theorem instr_242 (f : Fields) (h : f.opc = 0x242) : f.instr = (some (.apub f.ctl (r32 f.oa) f.imm (r32 f.ob)) : Option Instr) := by unfold Fields.instr; rw [h]; rfl
theorem instr_243 (f : Fields) (h : f.opc = 0x243) : f.instr = (some (.aunpin f.ctl (r32 f.oa)) : Option Instr) := by unfold Fields.instr; rw [h]; rfl
theorem instr_280 (f : Fields) (h : f.opc = 0x280) : f.instr = (if h : f.fn.toNat < 6 then some (.cnest f.ctl ⟨f.fn.toNat, h⟩ f.sop (r32 f.oc) (r32 f.oe)) else none : Option Instr) := by unfold Fields.instr; rw [h]; rfl
theorem instr_281 (f : Fields) (h : f.opc = 0x281) : f.instr = (some (.cpy f.ctl (rTS f.od) (rTS f.oa) f.sop (ro32 f.oc) (ro32 f.oe)) : Option Instr) := by unfold Fields.instr; rw [h]; rfl
theorem instr_282 (f : Fields) (h : f.opc = 0x282) : f.instr = (some (.cpym f.ctl (f.fn.extractLsb' 0 2) f.fn2 (r32 f.od) (rTS f.oa) f.sop (ro32 f.oc) (r16 f.oe)) : Option Instr) := by unfold Fields.instr; rw [h]; rfl
theorem instr_284 (f : Fields) (h : f.opc = 0x284) : f.instr = (some (.tbinit f.ctl (r32 f.oa) f.sop) : Option Instr) := by unfold Fields.instr; rw [h]; rfl
theorem instr_285 (f : Fields) (h : f.opc = 0x285) : f.instr = (some (.tbarv f.ctl (r32 f.oa) f.sop) : Option Instr) := by unfold Fields.instr; rw [h]; rfl
theorem instr_286 (f : Fields) (h : f.opc = 0x286) : f.instr = (some (.tbwait f.ctl f.fn0 (r32 f.oa) f.sop) : Option Instr) := by unfold Fields.instr; rw [h]; rfl
theorem instr_288 (f : Fields) (h : f.opc = 0x288) : f.instr = (some (if f.fn = 0 then .tset f.ctl (r32 f.od) f.sop else .tsetDef f.ctl (r32 f.od) (r32 f.oa)) : Option Instr) := by unfold Fields.instr; rw [h]; rfl
theorem instr_2C0 (f : Fields) (h : f.opc = 0x2C0) : f.instr = (some (.sendm f.ctl f.ocl (r32 f.oc) (r32 f.oa) f.imm (r32 f.ob) (ro32 f.od)) : Option Instr) := by unfold Fields.instr; rw [h]; rfl
theorem instr_2C1 (f : Fields) (h : f.opc = 0x2C1) : f.instr = (some (.rpost f.ctl (r32 f.od) (r32 f.oa) f.imm) : Option Instr) := by unfold Fields.instr; rw [h]; rfl
theorem instr_2C2 (f : Fields) (h : f.opc = 0x2C2) : f.instr = (some (.rcancel f.ctl (r32 f.od) (r32 f.oa)) : Option Instr) := by unfold Fields.instr; rw [h]; rfl
theorem instr_2C3 (f : Fields) (h : f.opc = 0x2C3) : f.instr = (some (.rprobe f.ctl (r32 f.od) (r32 f.oa) f.imm) : Option Instr) := by unfold Fields.instr; rw [h]; rfl
theorem instr_2C4 (f : Fields) (h : f.opc = 0x2C4) : f.instr = ((Ty.ofCode f.ty.toNat).map fun t => .rld f.ctl t f.fn0 f.ocl f.scp (r32 f.od) (r32 f.oc) (r32 f.oa) f.imm : Option Instr) := by unfold Fields.instr; rw [h]; rfl
theorem instr_2C5 (f : Fields) (h : f.opc = 0x2C5) : f.instr = ((Ty.ofCode f.ty.toNat).map fun t => .rst f.ctl t f.fn0 f.fn1 f.ocl f.scp (r32 f.oc) (r32 f.oa) f.imm (r32 f.ob) (ro32 f.od) : Option Instr) := by unfold Fields.instr; rw [h]; rfl
theorem instr_2C6 (f : Fields) (h : f.opc = 0x2C6) : f.instr = ((Ty.ofCode f.ty.toNat).bind fun t => (AtomOp.ofCode f.fn.toNat).bind fun o => (AtomOrd.ofCode f.imm.toNat).map fun r => .ratom f.ctl t o r f.ocl f.scp (r32 f.od) (r32 f.oc) (r32 f.oa) (r32 f.ob) (ro32 f.oe) : Option Instr) := by unfold Fields.instr; rw [h]; rfl
theorem instr_2C7 (f : Fields) (h : f.opc = 0x2C7) : f.instr = (some (.msop f.ctl f.fn f.ocl (r32 f.oc) (r32 f.oa) f.imm (r32 f.ob) (r32 f.od)) : Option Instr) := by unfold Fields.instr; rw [h]; rfl
theorem instr_2C8 (f : Fields) (h : f.opc = 0x2C8) : f.instr = (some (.cpost f.ctl (r32 f.oa) f.imm) : Option Instr) := by unfold Fields.instr; rw [h]; rfl
theorem instr_300 (f : Fields) (h : f.opc = 0x300) : f.instr = (some (.trap f.ctl f.imm (ro32 f.oa)) : Option Instr) := by unfold Fields.instr; rw [h]; rfl
theorem instr_301 (f : Fields) (h : f.opc = 0x301) : f.instr = (some (.eret f.ctl) : Option Instr) := by unfold Fields.instr; rw [h]; rfl
theorem instr_302 (f : Fields) (h : f.opc = 0x302) : f.instr = (some (.mfsr f.ctl (r32 f.od) (f.imm.extractLsb' 0 12) (ro32 f.oc)) : Option Instr) := by unfold Fields.instr; rw [h]; rfl
theorem instr_303 (f : Fields) (h : f.opc = 0x303) : f.instr = (some (.mtsr f.ctl (f.imm.extractLsb' 0 12) (r32 f.oa) (ro32 f.oc)) : Option Instr) := by unfold Fields.instr; rw [h]; rfl
theorem instr_304 (f : Fields) (h : f.opc = 0x304) : f.instr = (some (.waiti f.ctl f.fn0 f.sop) : Option Instr) := by unfold Fields.instr; rw [h]; rfl
theorem instr_305 (f : Fields) (h : f.opc = 0x305) : f.instr = (some (.bkpt f.ctl f.fn0 (f.imm.extractLsb' 0 16)) : Option Instr) := by unfold Fields.instr; rw [h]; rfl
theorem instr_306 (f : Fields) (h : f.opc = 0x306) : f.instr = (some (if f.fn = 0 then .wtclr f.ctl f.ocl (r32 f.oa) f.imm (r32 f.ob) else .wtclrRegs f.ctl) : Option Instr) := by unfold Fields.instr; rw [h]; rfl
theorem instr_307 (f : Fields) (h : f.opc = 0x307) : f.instr = (some (.vainv f.ctl (r32 f.oa) f.sop) : Option Instr) := by unfold Fields.instr; rw [h]; rfl

end Sys2Proof.Laws
end

