-- ==== Sys2Proof/Laws/Exec.lean ====
section
/-! SUPPORT. The meaning of each constructor, by its name. -/

namespace Sys2Proof.Machine

theorem exec_nop (c : Ctl) (s : State) : exec (.nop c) s = execNop c s := rfl
theorem exec_add (c : Ctl) (ty : Ty) (sat : Bool) (d a : Fin 32) (b : SOp) (s : State) : exec (.add c ty sat d a b) s = execAdd c ty sat d a b s := rfl
theorem exec_sub (c : Ctl) (ty : Ty) (sat : Bool) (d a : Fin 32) (b : SOp) (s : State) : exec (.sub c ty sat d a b) s = execSub c ty sat d a b s := rfl
theorem exec_mul (c : Ctl) (ty : Ty) (sel : MulSel) (d a : Fin 32) (b : SOp) (s : State) : exec (.mul c ty sel d a b) s = execMul c ty sel d a b s := rfl
theorem exec_div (c : Ctl) (ty : Ty) (rem : Bool) (d a : Fin 32) (b : SOp) (s : State) : exec (.div c ty rem d a b) s = execDiv c ty rem d a b s := rfl
theorem exec_and (c : Ctl) (ty : Ty) (d a : Fin 32) (b : SOp) (s : State) : exec (.and c ty d a b) s = execAnd c ty d a b s := rfl
theorem exec_or (c : Ctl) (ty : Ty) (d a : Fin 32) (b : SOp) (s : State) : exec (.or c ty d a b) s = execOr c ty d a b s := rfl
theorem exec_xor (c : Ctl) (ty : Ty) (d a : Fin 32) (b : SOp) (s : State) : exec (.xor c ty d a b) s = execXor c ty d a b s := rfl
theorem exec_shl (c : Ctl) (ty : Ty) (d a : Fin 32) (b : SOp) (s : State) : exec (.shl c ty d a b) s = execShl c ty d a b s := rfl
theorem exec_shr (c : Ctl) (ty : Ty) (arith : Bool) (d a : Fin 32) (b : SOp) (s : State) : exec (.shr c ty arith d a b) s = execShr c ty arith d a b s := rfl
theorem exec_rol (c : Ctl) (ty : Ty) (d a : Fin 32) (b : SOp) (s : State) : exec (.rol c ty d a b) s = execRol c ty d a b s := rfl
theorem exec_min (c : Ctl) (ty : Ty) (d a : Fin 32) (b : SOp) (s : State) : exec (.min c ty d a b) s = execMin c ty d a b s := rfl
theorem exec_max (c : Ctl) (ty : Ty) (d a : Fin 32) (b : SOp) (s : State) : exec (.max c ty d a b) s = execMax c ty d a b s := rfl
theorem exec_cmp (c : Ctl) (ty : Ty) (cond : Cond) (d : Fin 8) (a : Fin 32) (b : SOp) (s : State) : exec (.cmp c ty cond d a b) s = execCmp c ty cond d a b s := rfl
theorem exec_sel (c : Ctl) (ty : Ty) (d a : Fin 32) (b : SOp) (fc : Fin 8) (s : State) : exec (.sel c ty d a b fc) s = execSel c ty d a b fc s := rfl
theorem exec_li (c : Ctl) (hi : Bool) (d : Fin 32) (imm : Word32) (s : State) : exec (.li c hi d imm) s = execLi c hi d imm s := rfl
theorem exec_mov (c : Ctl) (d a : SM) (s : State) : exec (.mov c d a) s = execMov c d a s := rfl
theorem exec_clz (c : Ctl) (ty : Ty) (d a : Fin 32) (s : State) : exec (.clz c ty d a) s = execClz c ty d a s := rfl
theorem exec_popc (c : Ctl) (ty : Ty) (d a : Fin 32) (s : State) : exec (.popc c ty d a) s = execPopc c ty d a s := rfl
theorem exec_bfx (c : Ctl) (ty : Ty) (d a : Fin 32) (b : SOp) (s : State) : exec (.bfx c ty d a b) s = execBfx c ty d a b s := rfl
theorem exec_bfi (c : Ctl) (ty : Ty) (d a : Fin 32) (b : SOp) (s : State) : exec (.bfi c ty d a b) s = execBfi c ty d a b s := rfl
theorem exec_br (c : Ctl) (off : Word32) (s : State) : exec (.br c off) s = execBr c off s := rfl
theorem exec_jmp (c : Ctl) (a : Fin 32) (s : State) : exec (.jmp c a) s = execJmp c a s := rfl
theorem exec_call (c : Ctl) (d : Fin 32) (off : Word32) (s : State) : exec (.call c d off) s = execCall c d off s := rfl
theorem exec_ret (c : Ctl) (a : Fin 32) (s : State) : exec (.ret c a) s = execRet c a s := rfl
theorem exec_loop (c : Ctl) (d : Fin 32) (off : Word32) (s : State) : exec (.loop c d off) s = execLoop c d off s := rfl
theorem exec_bqsend (c : Ctl) (a : Fin 8) (s : State) : exec (.bqsend c a) s = execBqsend c a s := rfl
theorem exec_bqbr (c : Ctl) (z : Bool) (off : Word32) (s : State) : exec (.bqbr c z off) s = execBqbr c z off s := rfl
theorem exec_endSeq (c : Ctl) (s : State) : exec (.endSeq c) s = execEndSeq c s := rfl
theorem exec_tail (c : Ctl) (s : State) : exec (.tail c) s = execTail c s := rfl
theorem exec_mark (c : Ctl) (k : Fin 4) (n : BitVec 8) (mask : BitVec 5) (s : State) : exec (.mark c k n mask) s = execMark c k n mask s := rfl
theorem exec_waitmk (c : Ctl) (k : Fin 4) (n : BitVec 8) (s : State) : exec (.waitmk c k n) s = execWaitmk c k n s := rfl
theorem exec_ld (c : Ctl) (ty : Ty) (acq : Bool) (ocl : BitVec 4) (scp : BitVec 3) (d a : Fin 32) (off : Word32) (s : State) : exec (.ld c ty acq ocl scp d a off) s = execLd c ty acq ocl scp d a off s := rfl
theorem exec_st (c : Ctl) (ty : Ty) (rel : Bool) (ocl : BitVec 4) (scp : BitVec 3) (a : Fin 32) (off : Word32) (v : Fin 32) (s : State) : exec (.st c ty rel ocl scp a off v) s = execSt c ty rel ocl scp a off v s := rfl
theorem exec_ldv (c : Ctl) (ty : Ty) (ocl : BitVec 4) (d a : Fin 32) (off : Word32) (n : BitVec 4) (s : State) : exec (.ldv c ty ocl d a off n) s = execLdv c ty ocl d a off n s := rfl
theorem exec_stv (c : Ctl) (ty : Ty) (ocl : BitVec 4) (a : Fin 32) (off : Word32) (v : Fin 32) (n : BitVec 4) (s : State) : exec (.stv c ty ocl a off v n) s = execStv c ty ocl a off v n s := rfl
theorem exec_gather (c : Ctl) (d a p i : Fin 32) (bar : Option (Fin 32)) (b : Word32) (s : State) : exec (.gather c d a p i bar b) s = execGather c d a p i bar b s := rfl
theorem exec_scatter (c : Ctl) (d t p i : Fin 32) (bar : Option (Fin 32)) (b : Word32) (s : State) : exec (.scatter c d t p i bar b) s = execScatter c d t p i bar b s := rfl
theorem exec_atom (c : Ctl) (ty : Ty) (op : AtomOp) (ord : AtomOrd) (ocl : BitVec 4) (scp : BitVec 3) (d a v : Fin 32) (cmp : Option (Fin 32)) (s : State) : exec (.atom c ty op ord ocl scp d a v cmp) s = execAtom c ty op ord ocl scp d a v cmp s := rfl
theorem exec_fence (c : Ctl) (scp : BitVec 3) (m1 m2 : BitVec 16) (s : State) : exec (.fence c scp m1 m2) s = execFence c scp m1 m2 s := rfl
theorem exec_xfence (c : Ctl) (scp : BitVec 3) (pm : PathMasks) (s : State) : exec (.xfence c scp pm) s = execXfence c scp pm s := rfl
theorem exec_pref (c : Ctl) (a : Fin 32) (len : Option (Fin 32)) (off : Word32) (s : State) : exec (.pref c a len off) s = execPref c a len off s := rfl
theorem exec_qpush (c : Ctl) (q : Fin 8) (a : Fin 32) (s : State) : exec (.qpush c q a) s = execQpush c q a s := rfl
theorem exec_qpop (c : Ctl) (d : Fin 32) (q : Fin 8) (s : State) : exec (.qpop c d q) s = execQpop c d q s := rfl
theorem exec_qcnt (c : Ctl) (d : Fin 32) (q : QB) (s : State) : exec (.qcnt c d q) s = execQcnt c d q s := rfl
theorem exec_bar (c : Ctl) (lw lh : BitVec 3) (s : State) : exec (.bar c lw lh) s = execBar c lw lh s := rfl
theorem exec_barAll (c : Ctl) (s : State) : exec (.barAll c) s = execBarAll c s := rfl
theorem exec_xch (c : Ctl) (s : State) : exec (.xch c) s = execXch c s := rfl
theorem exec_phase (c : Ctl) (tf tb : Fin 32) (s : State) : exec (.phase c tf tb) s = execPhase c tf tb s := rfl
theorem exec_vadd (c : Ctl) (ty : Ty) (sat : Bool) (d a : Fin 32) (b : VOp) (s : State) : exec (.vadd c ty sat d a b) s = execVadd c ty sat d a b s := rfl
theorem exec_vsub (c : Ctl) (ty : Ty) (sat : Bool) (d a : Fin 32) (b : VOp) (s : State) : exec (.vsub c ty sat d a b) s = execVsub c ty sat d a b s := rfl
theorem exec_vmul (c : Ctl) (ty : Ty) (sel : MulSel) (sat : Bool) (d a : Fin 32) (b : VOp) (s : State) : exec (.vmul c ty sel sat d a b) s = execVmul c ty sel sat d a b s := rfl
theorem exec_vmad (c : Ctl) (ty : Ty) (sat : Bool) (d a : Fin 32) (b : VOp) (e : Fin 32) (s : State) : exec (.vmad c ty sat d a b e) s = execVmad c ty sat d a b e s := rfl
theorem exec_vand (c : Ctl) (ty : Ty) (d a : Fin 32) (b : VOp) (s : State) : exec (.vand c ty d a b) s = execVand c ty d a b s := rfl
theorem exec_vor (c : Ctl) (ty : Ty) (d a : Fin 32) (b : VOp) (s : State) : exec (.vor c ty d a b) s = execVor c ty d a b s := rfl
theorem exec_vxor (c : Ctl) (ty : Ty) (d a : Fin 32) (b : VOp) (s : State) : exec (.vxor c ty d a b) s = execVxor c ty d a b s := rfl
theorem exec_vshl (c : Ctl) (ty : Ty) (d a : Fin 32) (b : VOp) (s : State) : exec (.vshl c ty d a b) s = execVshl c ty d a b s := rfl
theorem exec_vshr (c : Ctl) (ty : Ty) (arith : Bool) (d a : Fin 32) (b : VOp) (s : State) : exec (.vshr c ty arith d a b) s = execVshr c ty arith d a b s := rfl
theorem exec_vmin (c : Ctl) (ty : Ty) (d a : Fin 32) (b : VOp) (s : State) : exec (.vmin c ty d a b) s = execVmin c ty d a b s := rfl
theorem exec_vmax (c : Ctl) (ty : Ty) (d a : Fin 32) (b : VOp) (s : State) : exec (.vmax c ty d a b) s = execVmax c ty d a b s := rfl
theorem exec_vcmp (c : Ctl) (ty : Ty) (cond : Cond) (d : Fin 16) (a : Fin 32) (b : VOp) (s : State) : exec (.vcmp c ty cond d a b) s = execVcmp c ty cond d a b s := rfl
theorem exec_vsel (c : Ctl) (ty : Ty) (d a : Fin 32) (b : VOp) (p : Fin 16) (s : State) : exec (.vsel c ty d a b p) s = execVsel c ty d a b p s := rfl
theorem exec_vmov (c : Ctl) (ty : Ty) (d : Fin 32) (b : VOp) (s : State) : exec (.vmov c ty d b) s = execVmov c ty d b s := rfl
theorem exec_viota (c : Ctl) (ty : Ty) (d : Fin 32) (s : State) : exec (.viota c ty d) s = execViota c ty d s := rfl
theorem exec_vfadd (c : Ctl) (rnd : Rnd) (sat : Bool) (d a : Fin 32) (b : VOp) (s : State) : exec (.vfadd c rnd sat d a b) s = execVfadd c rnd sat d a b s := rfl
theorem exec_vfmul (c : Ctl) (rnd : Rnd) (sat : Bool) (d a : Fin 32) (b : VOp) (s : State) : exec (.vfmul c rnd sat d a b) s = execVfmul c rnd sat d a b s := rfl
theorem exec_vfma (c : Ctl) (rnd : Rnd) (sat : Bool) (d a : Fin 32) (b : VOp) (e : Fin 32) (s : State) : exec (.vfma c rnd sat d a b e) s = execVfma c rnd sat d a b e s := rfl
theorem exec_vfmin (c : Ctl) (rnd : Rnd) (sat : Bool) (d a : Fin 32) (b : VOp) (s : State) : exec (.vfmin c rnd sat d a b) s = execVfmin c rnd sat d a b s := rfl
theorem exec_vfmax (c : Ctl) (rnd : Rnd) (sat : Bool) (d a : Fin 32) (b : VOp) (s : State) : exec (.vfmax c rnd sat d a b) s = execVfmax c rnd sat d a b s := rfl
theorem exec_vfcmp (c : Ctl) (cond : Cond) (d : Fin 16) (a : Fin 32) (b : VOp) (s : State) : exec (.vfcmp c cond d a b) s = execVfcmp c cond d a b s := rfl
theorem exec_vfcvt (c : Ctl) (ty sty : Ty) (k : BitVec 3) (rnd : Rnd) (sat : Bool) (d a : Fin 32) (s : State) : exec (.vfcvt c ty sty k rnd sat d a) s = execVfcvt c ty sty k rnd sat d a s := rfl
theorem exec_vpadd (c : Ctl) (ty : Ty) (rnd : Rnd) (sat : Bool) (d a : Fin 32) (b : VOp) (s : State) : exec (.vpadd c ty rnd sat d a b) s = execVpadd c ty rnd sat d a b s := rfl
theorem exec_vpmul (c : Ctl) (ty : Ty) (rnd : Rnd) (sat : Bool) (d a : Fin 32) (b : VOp) (s : State) : exec (.vpmul c ty rnd sat d a b) s = execVpmul c ty rnd sat d a b s := rfl
theorem exec_vpfma (c : Ctl) (ty : Ty) (rnd : Rnd) (sat : Bool) (d a : Fin 32) (b : VOp) (e : Fin 32) (s : State) : exec (.vpfma c ty rnd sat d a b e) s = execVpfma c ty rnd sat d a b e s := rfl
theorem exec_vrotr (c : Ctl) (ty : Ty) (d a : Fin 32) (b : SOp) (s : State) : exec (.vrotr c ty d a b) s = execVrotr c ty d a b s := rfl
theorem exec_vrotc (c : Ctl) (ty : Ty) (d a : Fin 32) (b : SOp) (s : State) : exec (.vrotc c ty d a b) s = execVrotc c ty d a b s := rfl
theorem exec_vbcr (c : Ctl) (ty : Ty) (d a : Fin 32) (b : Option SOp) (s : State) : exec (.vbcr c ty d a b) s = execVbcr c ty d a b s := rfl
theorem exec_vbcc (c : Ctl) (ty : Ty) (d a : Fin 32) (b : Option SOp) (s : State) : exec (.vbcc c ty d a b) s = execVbcc c ty d a b s := rfl
theorem exec_vtrn (c : Ctl) (ty : Ty) (d a : Fin 32) (s : State) : exec (.vtrn c ty d a) s = execVtrn c ty d a s := rfl
theorem exec_vredr (c : Ctl) (ty : Ty) (op : RedOp) (rnd : Rnd) (sat : Bool) (d a : Fin 32) (s : State) : exec (.vredr c ty op rnd sat d a) s = execVredr c ty op rnd sat d a s := rfl
theorem exec_vredc (c : Ctl) (ty : Ty) (op : RedOp) (rnd : Rnd) (sat : Bool) (d a : Fin 32) (s : State) : exec (.vredc c ty op rnd sat d a) s = execVredc c ty op rnd sat d a s := rfl
theorem exec_vexp2 (c : Ctl) (d a : Fin 32) (s : State) : exec (.vexp2 c d a) s = execVexp2 c d a s := rfl
theorem exec_vlog2 (c : Ctl) (d a : Fin 32) (s : State) : exec (.vlog2 c d a) s = execVlog2 c d a s := rfl
theorem exec_vrcp (c : Ctl) (d a : Fin 32) (s : State) : exec (.vrcp c d a) s = execVrcp c d a s := rfl
theorem exec_vrsq (c : Ctl) (d a : Fin 32) (s : State) : exec (.vrsq c d a) s = execVrsq c d a s := rfl
theorem exec_vqnt (c : Ctl) (ty : Ty) (rnd : Rnd) (b64 : Bool) (d e a : Fin 32) (s : State) : exec (.vqnt c ty rnd b64 d e a) s = execVqnt c ty rnd b64 d e a s := rfl
theorem exec_plog (c : Ctl) (op : PlogOp) (d a b : Fin 16) (s : State) : exec (.plog c op d a b) s = execPlog c op d a b s := rfl
theorem exec_pcnt (c : Ctl) (ffs : Bool) (d : Fin 32) (a : Fin 16) (s : State) : exec (.pcnt c ffs d a) s = execPcnt c ffs d a s := rfl
theorem exec_pset (c : Ctl) (pat : Bool) (d : Fin 16) (b : SOp) (s : State) : exec (.pset c pat d b) s = execPset c pat d b s := rfl
theorem exec_cspush (c : Ctl) (t a : Fin 32) (s : State) : exec (.cspush c t a) s = execCspush c t a s := rfl
theorem exec_cspop (c : Ctl) (d t : Fin 32) (s : State) : exec (.cspop c d t) s = execCspop c d t s := rfl
theorem exec_csbal (c : Ctl) (d : Fin 32) (p : Fin 16) (t : Fin 32) (s : State) : exec (.csbal c d p t) s = execCsbal c d p t s := rfl
theorem exec_mshape (c : Ctl) (ty : Ty) (sp : Bool) (d : Fin 32) (b : SOp) (s : State) : exec (.mshape c ty sp d b) s = execMshape c ty sp d b s := rfl
theorem exec_mshapeGrp (c : Ctl) (ty : Ty) (sp : Bool) (d : Fin 32) (b : SOp) (s : State) : exec (.mshapeGrp c ty sp d b) s = execMshapeGrp c ty sp d b s := rfl
theorem exec_mload (c : Ctl) (sp : Bool) (t : Fin 32) (s : State) : exec (.mload c sp t) s = execMload c sp t s := rfl
theorem exec_mswap (c : Ctl) (s : State) : exec (.mswap c) s = execMswap c s := rfl
theorem exec_mmul (c : Ctl) (str : BitVec 2) (last : Bool) (m : Fin 16) (t : Fin 32) (s : State) : exec (.mmul c str last m t) s = execMmul c str last m t s := rfl
theorem exec_mmuls (c : Ctl) (str : BitVec 2) (last : Bool) (m : Fin 16) (t : Fin 32) (s : State) : exec (.mmuls c str last m t) s = execMmuls c str last m t s := rfl
theorem exec_mzero (c : Ctl) (str : BitVec 2) (m : Fin 16) (s : State) : exec (.mzero c str m) s = execMzero c str m s := rfl
theorem exec_mdrain (c : Ctl) (str : BitVec 2) (ty : Ty) (rnd : Rnd) (sat : Bool) (t : Fin 32) (m : Fin 16) (s : State) : exec (.mdrain c str ty rnd sat t m) s = execMdrain c str ty rnd sat t m s := rfl
theorem exec_madpt (c : Ctl) (t : Option (Fin 32)) (b : Fin 32) (s : State) : exec (.madpt c t b) s = execMadpt c t b s := rfl
theorem exec_axlt (c : Ctl) (a : Fin 32) (off : Word32) (h : Fin 32) (s : State) : exec (.axlt c a off h) s = execAxlt c a off h s := rfl
theorem exec_apref (c : Ctl) (h : Fin 32) (s : State) : exec (.apref c h) s = execApref c h s := rfl
theorem exec_apub (c : Ctl) (a : Fin 32) (off : Word32) (h : Fin 32) (s : State) : exec (.apub c a off h) s = execApub c a off h s := rfl
theorem exec_aunpin (c : Ctl) (b : Fin 32) (s : State) : exec (.aunpin c b) s = execAunpin c b s := rfl
theorem exec_cnest (c : Ctl) (lvl : Fin 6) (n : SOp) (ss ds : Fin 32) (s : State) : exec (.cnest c lvl n ss ds) s = execCnest c lvl n ss ds s := rfl
theorem exec_cpy (c : Ctl) (dst src : TS) (b : SOp) (bar sh : Option (Fin 32)) (s : State) : exec (.cpy c dst src b bar sh) s = execCpy c dst src b bar sh s := rfl
theorem exec_cpym (c : Ctl) (str : BitVec 2) (last : Bool) (d : Fin 32) (src : TS) (b : SOp) (bar : Option (Fin 32)) (m : Fin 16) (s : State) : exec (.cpym c str last d src b bar m) s = execCpym c str last d src b bar m s := rfl
theorem exec_tbinit (c : Ctl) (a : Fin 32) (n : SOp) (s : State) : exec (.tbinit c a n) s = execTbinit c a n s := rfl
theorem exec_tbarv (c : Ctl) (a : Fin 32) (n : SOp) (s : State) : exec (.tbarv c a n) s = execTbarv c a n s := rfl
theorem exec_tbwait (c : Ctl) (chk : Bool) (a : Fin 32) (n : SOp) (s : State) : exec (.tbwait c chk a n) s = execTbwait c chk a n s := rfl
theorem exec_tset (c : Ctl) (t : Fin 32) (n : SOp) (s : State) : exec (.tset c t n) s = execTset c t n s := rfl
theorem exec_tsetDef (c : Ctl) (t a : Fin 32) (s : State) : exec (.tsetDef c t a) s = execTsetDef c t a s := rfl
theorem exec_sendm (c : Ctl) (ocl : BitVec 4) (h a : Fin 32) (off : Word32) (l : Fin 32) (bar : Option (Fin 32)) (s : State) : exec (.sendm c ocl h a off l bar) s = execSendm c ocl h a off l bar s := rfl
theorem exec_rpost (c : Ctl) (d a : Fin 32) (off : Word32) (s : State) : exec (.rpost c d a off) s = execRpost c d a off s := rfl
theorem exec_rcancel (c : Ctl) (d h : Fin 32) (s : State) : exec (.rcancel c d h) s = execRcancel c d h s := rfl
theorem exec_rprobe (c : Ctl) (d a : Fin 32) (off : Word32) (s : State) : exec (.rprobe c d a off) s = execRprobe c d a off s := rfl
theorem exec_rld (c : Ctl) (ty : Ty) (acq : Bool) (ocl : BitVec 4) (scp : BitVec 3) (d n a : Fin 32) (off : Word32) (s : State) : exec (.rld c ty acq ocl scp d n a off) s = execRld c ty acq ocl scp d n a off s := rfl
theorem exec_rst (c : Ctl) (ty : Ty) (add rel : Bool) (ocl : BitVec 4) (scp : BitVec 3) (n a : Fin 32) (off : Word32) (v : Fin 32) (bar : Option (Fin 32)) (s : State) : exec (.rst c ty add rel ocl scp n a off v bar) s = execRst c ty add rel ocl scp n a off v bar s := rfl
theorem exec_ratom (c : Ctl) (ty : Ty) (op : AtomOp) (ord : AtomOrd) (ocl : BitVec 4) (scp : BitVec 3) (d n a v : Fin 32) (cmp : Option (Fin 32)) (s : State) : exec (.ratom c ty op ord ocl scp d n a v cmp) s = execRatom c ty op ord ocl scp d n a v cmp s := rfl
theorem exec_msop (c : Ctl) (op : BitVec 4) (ocl : BitVec 4) (n a : Fin 32) (off : Word32) (r bar : Fin 32) (s : State) : exec (.msop c op ocl n a off r bar) s = execMsop c op ocl n a off r bar s := rfl
theorem exec_cpost (c : Ctl) (a : Fin 32) (off : Word32) (s : State) : exec (.cpost c a off) s = execCpost c a off s := rfl
theorem exec_trap (c : Ctl) (code : Word32) (a : Option (Fin 32)) (s : State) : exec (.trap c code a) s = execTrap c code a s := rfl
theorem exec_eret (c : Ctl) (s : State) : exec (.eret c) s = execEret c s := rfl
theorem exec_mfsr (c : Ctl) (d : Fin 32) (n : BitVec 12) (r : Option (Fin 32)) (s : State) : exec (.mfsr c d n r) s = execMfsr c d n r s := rfl
theorem exec_mtsr (c : Ctl) (n : BitVec 12) (a : Fin 32) (r : Option (Fin 32)) (s : State) : exec (.mtsr c n a r) s = execMtsr c n a r s := rfl
theorem exec_waiti (c : Ctl) (rel : Bool) (b : SOp) (s : State) : exec (.waiti c rel b) s = execWaiti c rel b s := rfl
theorem exec_bkpt (c : Ctl) (frz : Bool) (code : BitVec 16) (s : State) : exec (.bkpt c frz code) s = execBkpt c frz code s := rfl
theorem exec_wtclr (c : Ctl) (ocl : BitVec 4) (a : Fin 32) (off : Word32) (l : Fin 32) (s : State) : exec (.wtclr c ocl a off l) s = execWtclr c ocl a off l s := rfl
theorem exec_wtclrRegs (c : Ctl) (s : State) : exec (.wtclrRegs c) s = execWtclrRegs c s := rfl
theorem exec_vainv (c : Ctl) (a : Fin 32) (l : SOp) (s : State) : exec (.vainv c a l) s = execVainv c a l s := rfl
theorem exec_mstatFinFault (s : State) : exec (.mstatFinFault) s = execMstatFinFault s := rfl
theorem exec_mstatFinKill (s : State) : exec (.mstatFinKill) s = execMstatFinKill s := rfl
theorem exec_seedWrite (v : Word32) (s : State) : exec (.seedWrite v) s = execSeedWrite v s := rfl
theorem exec_vpreqWrite (tvp : BitVec 3) (s : State) : exec (.vpreqWrite tvp) s = execVpreqWrite tvp s := rfl
theorem exec_rowmvGo (core : CoreId) (v : Word32) (s : State) : exec (.rowmvGo core v) s = execRowmvGo core v s := rfl
theorem exec_eerrClear (core : CoreId) (s : State) : exec (.eerrClear core) s = execEerrClear core s := rfl
theorem exec_ferrClear (core : CoreId) (s : State) : exec (.ferrClear core) s = execFerrClear core s := rfl
theorem exec_registerWrite (blk : RegBlk) (off : BitVec 24) (v : Word) (s : State) : exec (.registerWrite blk off v) s = execRegisterWrite blk off v s := rfl
theorem exec_evacuationChunkCopy (core : CoreId) (bank : Fin 16) (s : State) : exec (.evacuationChunkCopy core bank) s = execEvacuationChunkCopy core bank s := rfl
theorem exec_vpRailReached (s : State) : exec (.vpRailReached) s = execVpRailReached s := rfl
theorem exec_launchPortWrite (f : FnId) (sup : Bool) (pcie : Fin 2) (r : Line) (s : State) : exec (.launchPortWrite f sup pcie r) s = execLaunchPortWrite f sup pcie r s := rfl
theorem exec_kill (f : FnId) (cptr : Word) (s : State) : exec (.kill f cptr) s = execKill f cptr s := rfl
theorem exec_recordAdmit (id : Nat) (s : State) : exec (.recordAdmit id) s = execRecordAdmit id s := rfl
theorem exec_regionBalance (s : State) : exec (.regionBalance) s = execRegionBalance s := rfl
theorem exec_launchPlace (leaf : Fin 2) (s : State) : exec (.launchPlace leaf) s = execLaunchPlace leaf s := rfl
theorem exec_contextSave (core : CoreId) (s : State) : exec (.contextSave core) s = execContextSave core s := rfl
theorem exec_contextRestore (id : Nat) (s : State) : exec (.contextRestore id) s = execContextRestore id s := rfl
theorem exec_preemptTimeout (core : CoreId) (s : State) : exec (.preemptTimeout core) s = execPreemptTimeout core s := rfl
theorem exec_sliceBoundary (s : State) : exec (.sliceBoundary) s = execSliceBoundary s := rfl
theorem exec_launchDrainComplete (id : Nat) (s : State) : exec (.launchDrainComplete id) s = execLaunchDrainComplete id s := rfl
theorem exec_trackerComplete (id : Nat) (s : State) : exec (.trackerComplete id) s = execTrackerComplete id s := rfl
theorem exec_barrierComplete (core : CoreId) (s : State) : exec (.barrierComplete core) s = execBarrierComplete core s := rfl
theorem exec_csbalComplete (core : CoreId) (s : State) : exec (.csbalComplete core) s = execCsbalComplete core s := rfl
theorem exec_phaseBoundary (core : CoreId) (s : State) : exec (.phaseBoundary core) s = execPhaseBoundary core s := rfl
theorem exec_exchangeStepStart (id : Nat) (s : State) : exec (.exchangeStepStart id) s = execExchangeStepStart id s := rfl
theorem exec_exchangeBeat (core : CoreId) (s : State) : exec (.exchangeBeat core) s = execExchangeBeat core s := rfl
theorem exec_exchangeStepEnd (id : Nat) (s : State) : exec (.exchangeStepEnd id) s = execExchangeStepEnd id s := rfl
theorem exec_sfuResultLand (core : CoreId) (s : State) : exec (.sfuResultLand core) s = execSfuResultLand core s := rfl
theorem exec_loadResult (core : CoreId) (q : SeqId) (s : State) : exec (.loadResult core q) s = execLoadResult core q s := rfl
theorem exec_remoteVaultAccess (n : Nat) (s : State) : exec (.remoteVaultAccess n) s = execRemoteVaultAccess n s := rfl
theorem exec_remoteVaultReply (n : Nat) (s : State) : exec (.remoteVaultReply n) s = execRemoteVaultReply n s := rfl
theorem exec_landingRowRetire (core : CoreId) (bank : Fin 16) (s : State) : exec (.landingRowRetire core bank) s = execLandingRowRetire core bank s := rfl
theorem exec_vaultScrub (core : CoreId) (bank : Fin 16) (s : State) : exec (.vaultScrub core bank) s = execVaultScrub core bank s := rfl
theorem exec_mscScrub (leaf : Fin 2) (s : State) : exec (.mscScrub leaf) s = execMscScrub leaf s := rfl
theorem exec_copyCommandStart (core : CoreId) (s : State) : exec (.copyCommandStart core) s = execCopyCommandStart core s := rfl
theorem exec_copyBlockMove (core : CoreId) (s : State) : exec (.copyBlockMove core) s = execCopyBlockMove core s := rfl
theorem exec_cpymFollowonEnqueue (core : CoreId) (s : State) : exec (.cpymFollowonEnqueue core) s = execCpymFollowonEnqueue core s := rfl
theorem exec_gatherRow (core : CoreId) (s : State) : exec (.gatherRow core) s = execGatherRow core s := rfl
theorem exec_matrixCommandExecute (core : CoreId) (n : Nat) (s : State) : exec (.matrixCommandExecute core n) s = execMatrixCommandExecute core n s := rfl
theorem exec_matrixPass (core : CoreId) (n : Nat) (s : State) : exec (.matrixPass core n) s = execMatrixPass core n s := rfl
theorem exec_sidePathLast (core : CoreId) (n : Nat) (s : State) : exec (.sidePathLast core n) s = execSidePathLast core n s := rfl
theorem exec_adapterPageArrive (h : BitVec 20) (ver : BitVec 16) (pageB : Bool) (o : PageOutcome) (s : State) : exec (.adapterPageArrive h ver pageB o) s = execAdapterPageArrive h ver pageB o s := rfl
theorem exec_adapterPageTimeout (core : CoreId) (n : Nat) (s : State) : exec (.adapterPageTimeout core n) s = execAdapterPageTimeout core n s := rfl
theorem exec_pinFree (core : CoreId) (pin : Fin 32) (s : State) : exec (.pinFree core pin) s = execPinFree core pin s := rfl
theorem exec_markerRetire (core : CoreId) (k : Fin 4) (e : Fin 5) (s : State) : exec (.markerRetire core k e) s = execMarkerRetire core k e s := rfl
theorem exec_extentMissRetry (n : Nat) (s : State) : exec (.extentMissRetry n) s = execExtentMissRetry n s := rfl
theorem exec_extentMissAbort (n : Nat) (s : State) : exec (.extentMissAbort n) s = execExtentMissAbort n s := rfl
theorem exec_extentDescriptorWrite (vf : Fin 64) (i : Fin 64) (d : BitVec 256) (s : State) : exec (.extentDescriptorWrite vf i d) s = execExtentDescriptorWrite vf i d s := rfl
theorem exec_acwaysWrite (n : BitVec 4) (s : State) : exec (.acwaysWrite n) s = execAcwaysWrite n s := rfl
theorem exec_hbmRequestComplete (s : State) : exec (.hbmRequestComplete) s = execHbmRequestComplete s := rfl
theorem exec_cxlRelease (lo hi : BitVec 52) (s : State) : exec (.cxlRelease lo hi) s = execCxlRelease lo hi s := rfl
theorem exec_cxlSurpriseRelease (lo hi : BitVec 52) (s : State) : exec (.cxlSurpriseRelease lo hi) s = execCxlSurpriseRelease lo hi s := rfl
theorem exec_remoteOpArrive (p : RemoteOp) (s : State) : exec (.remoteOpArrive p) s = execRemoteOpArrive p s := rfl
theorem exec_remoteOpAck (a : RemoteAck) (s : State) : exec (.remoteOpAck a) s = execRemoteOpAck a s := rfl
theorem exec_remoteOpTimeout (n : Nat) (s : State) : exec (.remoteOpTimeout n) s = execRemoteOpTimeout n s := rfl
theorem exec_msopResult (n : Nat) (s : State) : exec (.msopResult n) s = execMsopResult n s := rfl
theorem exec_rstAddCombine (i j : Nat) (s : State) : exec (.rstAddCombine i j) s = execRstAddCombine i j s := rfl
theorem exec_linkLaneFailure (l : Fin 6) (s : State) : exec (.linkLaneFailure l) s = execLinkLaneFailure l s := rfl
theorem exec_linkRetrainComplete (l : Fin 6) (s : State) : exec (.linkRetrainComplete l) s = execLinkRetrainComplete l s := rfl
theorem exec_keyGenerationChange (l : Fin 6) (s : State) : exec (.keyGenerationChange l) s = execKeyGenerationChange l s := rfl
theorem exec_messageArrive (m : Message) (s : State) : exec (.messageArrive m) s = execMessageArrive m s := rfl
theorem exec_messageRetry (n : Nat) (s : State) : exec (.messageRetry n) s = execMessageRetry n s := rfl
theorem exec_messageSendTimeout (n : Nat) (s : State) : exec (.messageSendTimeout n) s = execMessageSendTimeout n s := rfl
theorem exec_messageLandingComplete (core : CoreId) (s : State) : exec (.messageLandingComplete core) s = execMessageLandingComplete core s := rfl
theorem exec_eventHeldFlush (f : FnId) (s : State) : exec (.eventHeldFlush f) s = execEventHeldFlush f s := rfl
theorem exec_counterWrap (core : CoreId) (n : Fin 8) (s : State) : exec (.counterWrap core n) s = execCounterWrap core n s := rfl
theorem exec_stop (vf : Fin 64) (s : State) : exec (.stop vf) s = execStop vf s := rfl
theorem exec_resume (vf : Fin 64) (s : State) : exec (.resume vf) s = execResume vf s := rfl
theorem exec_exportVf (vf : Fin 64) (s : State) : exec (.exportVf vf) s = execExportVf vf s := rfl
theorem exec_discard (vf : Fin 64) (s : State) : exec (.discard vf) s = execDiscard vf s := rfl
theorem exec_importVf (vf : Fin 64) (s : State) : exec (.importVf vf) s = execImportVf vf s := rfl
theorem exec_release (vf : Fin 64) (s : State) : exec (.release vf) s = execRelease vf s := rfl
theorem exec_timingReplay (core : CoreId) (s : State) : exec (.timingReplay core) s = execTimingReplay core s := rfl
theorem exec_replayLimitEvent (core : CoreId) (s : State) : exec (.replayLimitEvent core) s = execReplayLimitEvent core s := rfl
theorem exec_scanTestStart (core : CoreId) (s : State) : exec (.scanTestStart core) s = execScanTestStart core s := rfl
theorem exec_scanTestAbort (core : CoreId) (s : State) : exec (.scanTestAbort core) s = execScanTestAbort core s := rfl
theorem exec_scanTestComplete (core : CoreId) (pass : Bool) (floors : List (Nat × Nat)) (s : State) : exec (.scanTestComplete core pass floors) s = execScanTestComplete core pass floors s := rfl
theorem exec_logicalMapChange (leaf : Fin 2) (s : State) : exec (.logicalMapChange leaf) s = execLogicalMapChange leaf s := rfl
theorem exec_pairedCommit (id : Nat) (s : State) : exec (.pairedCommit id) s = execPairedCommit id s := rfl
theorem exec_freeze (s : State) : exec (.freeze) s = execFreeze s := rfl
theorem exec_packageReset (s : State) : exec (.packageReset) s = execPackageReset s := rfl
theorem exec_thermalWarning (t : BitVec 64) (s : State) : exec (.thermalWarning t) s = execThermalWarning t s := rfl
theorem exec_thermtrip (s : State) : exec (.thermtrip) s = execThermtrip s := rfl
theorem exec_worldBitSet (u : WorldUnit) (b : Bool) (s : State) : exec (.worldBitSet u b) s = execWorldBitSet u b s := rfl
theorem exec_getVersion (s : State) : exec (.getVersion) s = execGetVersion s := rfl
theorem exec_getCapabilities (s : State) : exec (.getCapabilities) s = execGetCapabilities s := rfl
theorem exec_negotiateAlgorithms (s : State) : exec (.negotiateAlgorithms) s = execNegotiateAlgorithms s := rfl
theorem exec_getDigests (s : State) : exec (.getDigests) s = execGetDigests s := rfl
theorem exec_getCertificate (s : State) : exec (.getCertificate) s = execGetCertificate s := rfl
theorem exec_challenge (s : State) : exec (.challenge) s = execChallenge s := rfl
theorem exec_getMeasurements (vf : FnId) (cptr : Word) (s : State) : exec (.getMeasurements vf cptr) s = execGetMeasurements vf cptr s := rfl
theorem exec_railsFall (s : State) : exec (.railsFall) s = execRailsFall s := rfl
theorem exec_flitReplay (l : Fin 6) (s : State) : exec (.flitReplay l) s = execFlitReplay l s := rfl
theorem exec_matrixCommandFinish (core : CoreId) (n : Nat) (s : State) : exec (.matrixCommandFinish core n) s = execMatrixCommandFinish core n s := rfl
theorem exec_mulDivResult (core : CoreId) (q : SeqId) (s : State) : exec (.mulDivResult core q) s = execMulDivResult core q s := rfl
theorem exec_waitiDeadline (core : CoreId) (q : SeqId) (s : State) : exec (.waitiDeadline core q) s = execWaitiDeadline core q s := rfl
theorem exec_class0Preemption (leaf : Fin 2) (s : State) : exec (.class0Preemption leaf) s = execClass0Preemption leaf s := rfl

end Sys2Proof.Machine
end

