-- ==== Sys2Proof/Laws/State.lean ====
section
/-! SUPPORT. One lemma per field per named update of the state, and reading back what an accessor wrote. -/

namespace Sys2Proof.Machine

/-! ## Vectors -/

theorem vget_eq {α : Type} {n : Nat} (d : α) (v : Vector α n) (i : Nat) (h : i < n) : vget d v i = v[i] := by
  simp [vget, h]

@[simp] theorem vget_vset_same {α : Type} {n : Nat} (d : α) (v : Vector α n) (i : Nat) (x : α) (h : i < n) :
    vget d (vset v i x) i = x := by
  simp [vget, vset, h]

@[simp] theorem vget_vset_ne {α : Type} {n : Nat} (d : α) (v : Vector α n) (i j : Nat) (x : α) (h : i ≠ j) :
    vget d (vset v i x) j = vget d v j := by
  simp [vget, vset, h]

@[simp] theorem vset_vset {α : Type} {n : Nat} (v : Vector α n) (i : Nat) (x y : α) :
    vset (vset v i x) i y = vset v i y := by
  simp [vset]

theorem vset_vget {α : Type} {n : Nat} (d : α) (v : Vector α n) (i : Nat) : vset v i (vget d v i) = v := by
  apply Vector.toList_inj.mp
  have e : (vset v i (vget d v i)).toList = v.toList.set i (vget d v i) := rfl
  rw [e]
  by_cases h : i < n
  · rw [vget_eq d v i h]; exact List.set_getElem_self _ |>.trans rfl
  · exact List.set_eq_of_length_le (by simpa using Nat.le_of_not_lt h)

@[simp] theorem vget_tab {α : Type} (d : α) (n : Nat) (f : Nat → α) (i : Nat) (h : i < n) : vget d (tab n f) i = f i := by
  simp [vget, tab, h]

/-! ## `State.setCore`, `State.mapCores`, `State.modFn`, `State.setPfReg`, `State.modLaunch` -/

@[simp] theorem State.setCore_cycle (s : State) (c : Nat) (k : Core) : (s.setCore c k).cycle = s.cycle := rfl
@[simp] theorem State.modCore_cycle (s : State) (c : Nat) (g : Core → Core) : (s.modCore c g).cycle = s.cycle := rfl
@[simp] theorem State.modCC_cycle (s : State) (g : Core → Core) : (s.modCC g).cycle = s.cycle := rfl
@[simp] theorem State.modSq_cycle (s : State) (g : Seq → Seq) : (s.modSq g).cycle = s.cycle := rfl
@[simp] theorem State.mapCores_cycle (s : State) (g : Nat → Core → Core) : (s.mapCores g).cycle = s.cycle := rfl
@[simp] theorem State.modFn_cycle (s : State) (n : Nat) (g : FnRegs → FnRegs) : (s.modFn n g).cycle = s.cycle := rfl
@[simp] theorem State.setPfReg_cycle (s : State) (o : Nat) (v : Word) : (s.setPfReg o v).cycle = s.cycle := rfl
@[simp] theorem State.modLaunch_cycle (s : State) (n : Nat) (g : Launch → Launch) : (s.modLaunch n g).cycle = s.cycle := rfl
@[simp] theorem State.modFn_cores (s : State) (n : Nat) (g : FnRegs → FnRegs) : (s.modFn n g).cores = s.cores := rfl
@[simp] theorem State.setPfReg_cores (s : State) (o : Nat) (v : Word) : (s.setPfReg o v).cores = s.cores := rfl
@[simp] theorem State.modLaunch_cores (s : State) (n : Nat) (g : Launch → Launch) : (s.modLaunch n g).cores = s.cores := rfl
@[simp] theorem State.setCore_mem (s : State) (c : Nat) (k : Core) : (s.setCore c k).mem = s.mem := rfl
@[simp] theorem State.modCore_mem (s : State) (c : Nat) (g : Core → Core) : (s.modCore c g).mem = s.mem := rfl
@[simp] theorem State.modCC_mem (s : State) (g : Core → Core) : (s.modCC g).mem = s.mem := rfl
@[simp] theorem State.modSq_mem (s : State) (g : Seq → Seq) : (s.modSq g).mem = s.mem := rfl
@[simp] theorem State.mapCores_mem (s : State) (g : Nat → Core → Core) : (s.mapCores g).mem = s.mem := rfl
@[simp] theorem State.modFn_mem (s : State) (n : Nat) (g : FnRegs → FnRegs) : (s.modFn n g).mem = s.mem := rfl
@[simp] theorem State.setPfReg_mem (s : State) (o : Nat) (v : Word) : (s.setPfReg o v).mem = s.mem := rfl
@[simp] theorem State.modLaunch_mem (s : State) (n : Nat) (g : Launch → Launch) : (s.modLaunch n g).mem = s.mem := rfl
@[simp] theorem State.setCore_lineOwner (s : State) (c : Nat) (k : Core) : (s.setCore c k).lineOwner = s.lineOwner := rfl
@[simp] theorem State.modCore_lineOwner (s : State) (c : Nat) (g : Core → Core) : (s.modCore c g).lineOwner = s.lineOwner := rfl
@[simp] theorem State.modCC_lineOwner (s : State) (g : Core → Core) : (s.modCC g).lineOwner = s.lineOwner := rfl
@[simp] theorem State.modSq_lineOwner (s : State) (g : Seq → Seq) : (s.modSq g).lineOwner = s.lineOwner := rfl
@[simp] theorem State.mapCores_lineOwner (s : State) (g : Nat → Core → Core) : (s.mapCores g).lineOwner = s.lineOwner := rfl
@[simp] theorem State.modFn_lineOwner (s : State) (n : Nat) (g : FnRegs → FnRegs) : (s.modFn n g).lineOwner = s.lineOwner := rfl
@[simp] theorem State.setPfReg_lineOwner (s : State) (o : Nat) (v : Word) : (s.setPfReg o v).lineOwner = s.lineOwner := rfl
@[simp] theorem State.modLaunch_lineOwner (s : State) (n : Nat) (g : Launch → Launch) : (s.modLaunch n g).lineOwner = s.lineOwner := rfl
@[simp] theorem State.setCore_memPois (s : State) (c : Nat) (k : Core) : (s.setCore c k).memPois = s.memPois := rfl
@[simp] theorem State.modCore_memPois (s : State) (c : Nat) (g : Core → Core) : (s.modCore c g).memPois = s.memPois := rfl
@[simp] theorem State.modCC_memPois (s : State) (g : Core → Core) : (s.modCC g).memPois = s.memPois := rfl
@[simp] theorem State.modSq_memPois (s : State) (g : Seq → Seq) : (s.modSq g).memPois = s.memPois := rfl
@[simp] theorem State.mapCores_memPois (s : State) (g : Nat → Core → Core) : (s.mapCores g).memPois = s.memPois := rfl
@[simp] theorem State.modFn_memPois (s : State) (n : Nat) (g : FnRegs → FnRegs) : (s.modFn n g).memPois = s.memPois := rfl
@[simp] theorem State.setPfReg_memPois (s : State) (o : Nat) (v : Word) : (s.setPfReg o v).memPois = s.memPois := rfl
@[simp] theorem State.modLaunch_memPois (s : State) (n : Nat) (g : Launch → Launch) : (s.modLaunch n g).memPois = s.memPois := rfl
@[simp] theorem State.setCore_memSec (s : State) (c : Nat) (k : Core) : (s.setCore c k).memSec = s.memSec := rfl
@[simp] theorem State.modCore_memSec (s : State) (c : Nat) (g : Core → Core) : (s.modCore c g).memSec = s.memSec := rfl
@[simp] theorem State.modCC_memSec (s : State) (g : Core → Core) : (s.modCC g).memSec = s.memSec := rfl
@[simp] theorem State.modSq_memSec (s : State) (g : Seq → Seq) : (s.modSq g).memSec = s.memSec := rfl
@[simp] theorem State.mapCores_memSec (s : State) (g : Nat → Core → Core) : (s.mapCores g).memSec = s.memSec := rfl
@[simp] theorem State.modFn_memSec (s : State) (n : Nat) (g : FnRegs → FnRegs) : (s.modFn n g).memSec = s.memSec := rfl
@[simp] theorem State.setPfReg_memSec (s : State) (o : Nat) (v : Word) : (s.setPfReg o v).memSec = s.memSec := rfl
@[simp] theorem State.modLaunch_memSec (s : State) (n : Nat) (g : Launch → Launch) : (s.modLaunch n g).memSec = s.memSec := rfl
@[simp] theorem State.setCore_adaptKeys (s : State) (c : Nat) (k : Core) : (s.setCore c k).adaptKeys = s.adaptKeys := rfl
@[simp] theorem State.modCore_adaptKeys (s : State) (c : Nat) (g : Core → Core) : (s.modCore c g).adaptKeys = s.adaptKeys := rfl
@[simp] theorem State.modCC_adaptKeys (s : State) (g : Core → Core) : (s.modCC g).adaptKeys = s.adaptKeys := rfl
@[simp] theorem State.modSq_adaptKeys (s : State) (g : Seq → Seq) : (s.modSq g).adaptKeys = s.adaptKeys := rfl
@[simp] theorem State.mapCores_adaptKeys (s : State) (g : Nat → Core → Core) : (s.mapCores g).adaptKeys = s.adaptKeys := rfl
@[simp] theorem State.modFn_adaptKeys (s : State) (n : Nat) (g : FnRegs → FnRegs) : (s.modFn n g).adaptKeys = s.adaptKeys := rfl
@[simp] theorem State.setPfReg_adaptKeys (s : State) (o : Nat) (v : Word) : (s.setPfReg o v).adaptKeys = s.adaptKeys := rfl
@[simp] theorem State.modLaunch_adaptKeys (s : State) (n : Nat) (g : Launch → Launch) : (s.modLaunch n g).adaptKeys = s.adaptKeys := rfl
@[simp] theorem State.setCore_msc (s : State) (c : Nat) (k : Core) : (s.setCore c k).msc = s.msc := rfl
@[simp] theorem State.modCore_msc (s : State) (c : Nat) (g : Core → Core) : (s.modCore c g).msc = s.msc := rfl
@[simp] theorem State.modCC_msc (s : State) (g : Core → Core) : (s.modCC g).msc = s.msc := rfl
@[simp] theorem State.modSq_msc (s : State) (g : Seq → Seq) : (s.modSq g).msc = s.msc := rfl
@[simp] theorem State.mapCores_msc (s : State) (g : Nat → Core → Core) : (s.mapCores g).msc = s.msc := rfl
@[simp] theorem State.modFn_msc (s : State) (n : Nat) (g : FnRegs → FnRegs) : (s.modFn n g).msc = s.msc := rfl
@[simp] theorem State.setPfReg_msc (s : State) (o : Nat) (v : Word) : (s.setPfReg o v).msc = s.msc := rfl
@[simp] theorem State.modLaunch_msc (s : State) (n : Nat) (g : Launch → Launch) : (s.modLaunch n g).msc = s.msc := rfl
@[simp] theorem State.setCore_mscRows (s : State) (c : Nat) (k : Core) : (s.setCore c k).mscRows = s.mscRows := rfl
@[simp] theorem State.modCore_mscRows (s : State) (c : Nat) (g : Core → Core) : (s.modCore c g).mscRows = s.mscRows := rfl
@[simp] theorem State.modCC_mscRows (s : State) (g : Core → Core) : (s.modCC g).mscRows = s.mscRows := rfl
@[simp] theorem State.modSq_mscRows (s : State) (g : Seq → Seq) : (s.modSq g).mscRows = s.mscRows := rfl
@[simp] theorem State.mapCores_mscRows (s : State) (g : Nat → Core → Core) : (s.mapCores g).mscRows = s.mscRows := rfl
@[simp] theorem State.modFn_mscRows (s : State) (n : Nat) (g : FnRegs → FnRegs) : (s.modFn n g).mscRows = s.mscRows := rfl
@[simp] theorem State.setPfReg_mscRows (s : State) (o : Nat) (v : Word) : (s.setPfReg o v).mscRows = s.mscRows := rfl
@[simp] theorem State.modLaunch_mscRows (s : State) (n : Nat) (g : Launch → Launch) : (s.modLaunch n g).mscRows = s.mscRows := rfl
@[simp] theorem State.setCore_acache (s : State) (c : Nat) (k : Core) : (s.setCore c k).acache = s.acache := rfl
@[simp] theorem State.modCore_acache (s : State) (c : Nat) (g : Core → Core) : (s.modCore c g).acache = s.acache := rfl
@[simp] theorem State.modCC_acache (s : State) (g : Core → Core) : (s.modCC g).acache = s.acache := rfl
@[simp] theorem State.modSq_acache (s : State) (g : Seq → Seq) : (s.modSq g).acache = s.acache := rfl
@[simp] theorem State.mapCores_acache (s : State) (g : Nat → Core → Core) : (s.mapCores g).acache = s.acache := rfl
@[simp] theorem State.modFn_acache (s : State) (n : Nat) (g : FnRegs → FnRegs) : (s.modFn n g).acache = s.acache := rfl
@[simp] theorem State.setPfReg_acache (s : State) (o : Nat) (v : Word) : (s.setPfReg o v).acache = s.acache := rfl
@[simp] theorem State.modLaunch_acache (s : State) (n : Nat) (g : Launch → Launch) : (s.modLaunch n g).acache = s.acache := rfl
@[simp] theorem State.setCore_afetch (s : State) (c : Nat) (k : Core) : (s.setCore c k).afetch = s.afetch := rfl
@[simp] theorem State.modCore_afetch (s : State) (c : Nat) (g : Core → Core) : (s.modCore c g).afetch = s.afetch := rfl
@[simp] theorem State.modCC_afetch (s : State) (g : Core → Core) : (s.modCC g).afetch = s.afetch := rfl
@[simp] theorem State.modSq_afetch (s : State) (g : Seq → Seq) : (s.modSq g).afetch = s.afetch := rfl
@[simp] theorem State.mapCores_afetch (s : State) (g : Nat → Core → Core) : (s.mapCores g).afetch = s.afetch := rfl
@[simp] theorem State.modFn_afetch (s : State) (n : Nat) (g : FnRegs → FnRegs) : (s.modFn n g).afetch = s.afetch := rfl
@[simp] theorem State.setPfReg_afetch (s : State) (o : Nat) (v : Word) : (s.setPfReg o v).afetch = s.afetch := rfl
@[simp] theorem State.modLaunch_afetch (s : State) (n : Nat) (g : Launch → Launch) : (s.modLaunch n g).afetch = s.afetch := rfl
@[simp] theorem State.setCore_tlb2 (s : State) (c : Nat) (k : Core) : (s.setCore c k).tlb2 = s.tlb2 := rfl
@[simp] theorem State.modCore_tlb2 (s : State) (c : Nat) (g : Core → Core) : (s.modCore c g).tlb2 = s.tlb2 := rfl
@[simp] theorem State.modCC_tlb2 (s : State) (g : Core → Core) : (s.modCC g).tlb2 = s.tlb2 := rfl
@[simp] theorem State.modSq_tlb2 (s : State) (g : Seq → Seq) : (s.modSq g).tlb2 = s.tlb2 := rfl
@[simp] theorem State.mapCores_tlb2 (s : State) (g : Nat → Core → Core) : (s.mapCores g).tlb2 = s.tlb2 := rfl
@[simp] theorem State.modFn_tlb2 (s : State) (n : Nat) (g : FnRegs → FnRegs) : (s.modFn n g).tlb2 = s.tlb2 := rfl
@[simp] theorem State.setPfReg_tlb2 (s : State) (o : Nat) (v : Word) : (s.setPfReg o v).tlb2 = s.tlb2 := rfl
@[simp] theorem State.modLaunch_tlb2 (s : State) (n : Nat) (g : Launch → Launch) : (s.modLaunch n g).tlb2 = s.tlb2 := rfl
@[simp] theorem State.setCore_walk (s : State) (c : Nat) (k : Core) : (s.setCore c k).walk = s.walk := rfl
@[simp] theorem State.modCore_walk (s : State) (c : Nat) (g : Core → Core) : (s.modCore c g).walk = s.walk := rfl
@[simp] theorem State.modCC_walk (s : State) (g : Core → Core) : (s.modCC g).walk = s.walk := rfl
@[simp] theorem State.modSq_walk (s : State) (g : Seq → Seq) : (s.modSq g).walk = s.walk := rfl
@[simp] theorem State.mapCores_walk (s : State) (g : Nat → Core → Core) : (s.mapCores g).walk = s.walk := rfl
@[simp] theorem State.modFn_walk (s : State) (n : Nat) (g : FnRegs → FnRegs) : (s.modFn n g).walk = s.walk := rfl
@[simp] theorem State.setPfReg_walk (s : State) (o : Nat) (v : Word) : (s.setPfReg o v).walk = s.walk := rfl
@[simp] theorem State.modLaunch_walk (s : State) (n : Nat) (g : Launch → Launch) : (s.modLaunch n g).walk = s.walk := rfl
@[simp] theorem State.setCore_hbm (s : State) (c : Nat) (k : Core) : (s.setCore c k).hbm = s.hbm := rfl
@[simp] theorem State.modCore_hbm (s : State) (c : Nat) (g : Core → Core) : (s.modCore c g).hbm = s.hbm := rfl
@[simp] theorem State.modCC_hbm (s : State) (g : Core → Core) : (s.modCC g).hbm = s.hbm := rfl
@[simp] theorem State.modSq_hbm (s : State) (g : Seq → Seq) : (s.modSq g).hbm = s.hbm := rfl
@[simp] theorem State.mapCores_hbm (s : State) (g : Nat → Core → Core) : (s.mapCores g).hbm = s.hbm := rfl
@[simp] theorem State.modFn_hbm (s : State) (n : Nat) (g : FnRegs → FnRegs) : (s.modFn n g).hbm = s.hbm := rfl
@[simp] theorem State.setPfReg_hbm (s : State) (o : Nat) (v : Word) : (s.setPfReg o v).hbm = s.hbm := rfl
@[simp] theorem State.modLaunch_hbm (s : State) (n : Nat) (g : Launch → Launch) : (s.modLaunch n g).hbm = s.hbm := rfl
@[simp] theorem State.setCore_pf (s : State) (c : Nat) (k : Core) : (s.setCore c k).pf = s.pf := rfl
@[simp] theorem State.modCore_pf (s : State) (c : Nat) (g : Core → Core) : (s.modCore c g).pf = s.pf := rfl
@[simp] theorem State.modCC_pf (s : State) (g : Core → Core) : (s.modCC g).pf = s.pf := rfl
@[simp] theorem State.modSq_pf (s : State) (g : Seq → Seq) : (s.modSq g).pf = s.pf := rfl
@[simp] theorem State.mapCores_pf (s : State) (g : Nat → Core → Core) : (s.mapCores g).pf = s.pf := rfl
@[simp] theorem State.modFn_pf (s : State) (n : Nat) (g : FnRegs → FnRegs) : (s.modFn n g).pf = s.pf := rfl
@[simp] theorem State.modLaunch_pf (s : State) (n : Nat) (g : Launch → Launch) : (s.modLaunch n g).pf = s.pf := rfl
@[simp] theorem State.setCore_fns (s : State) (c : Nat) (k : Core) : (s.setCore c k).fns = s.fns := rfl
@[simp] theorem State.modCore_fns (s : State) (c : Nat) (g : Core → Core) : (s.modCore c g).fns = s.fns := rfl
@[simp] theorem State.modCC_fns (s : State) (g : Core → Core) : (s.modCC g).fns = s.fns := rfl
@[simp] theorem State.modSq_fns (s : State) (g : Seq → Seq) : (s.modSq g).fns = s.fns := rfl
@[simp] theorem State.mapCores_fns (s : State) (g : Nat → Core → Core) : (s.mapCores g).fns = s.fns := rfl
@[simp] theorem State.setPfReg_fns (s : State) (o : Nat) (v : Word) : (s.setPfReg o v).fns = s.fns := rfl
@[simp] theorem State.modLaunch_fns (s : State) (n : Nat) (g : Launch → Launch) : (s.modLaunch n g).fns = s.fns := rfl
@[simp] theorem State.setCore_launches (s : State) (c : Nat) (k : Core) : (s.setCore c k).launches = s.launches := rfl
@[simp] theorem State.modCore_launches (s : State) (c : Nat) (g : Core → Core) : (s.modCore c g).launches = s.launches := rfl
@[simp] theorem State.modCC_launches (s : State) (g : Core → Core) : (s.modCC g).launches = s.launches := rfl
@[simp] theorem State.modSq_launches (s : State) (g : Seq → Seq) : (s.modSq g).launches = s.launches := rfl
@[simp] theorem State.mapCores_launches (s : State) (g : Nat → Core → Core) : (s.mapCores g).launches = s.launches := rfl
@[simp] theorem State.modFn_launches (s : State) (n : Nat) (g : FnRegs → FnRegs) : (s.modFn n g).launches = s.launches := rfl
@[simp] theorem State.setPfReg_launches (s : State) (o : Nat) (v : Word) : (s.setPfReg o v).launches = s.launches := rfl
@[simp] theorem State.setCore_retired (s : State) (c : Nat) (k : Core) : (s.setCore c k).retired = s.retired := rfl
@[simp] theorem State.modCore_retired (s : State) (c : Nat) (g : Core → Core) : (s.modCore c g).retired = s.retired := rfl
@[simp] theorem State.modCC_retired (s : State) (g : Core → Core) : (s.modCC g).retired = s.retired := rfl
@[simp] theorem State.modSq_retired (s : State) (g : Seq → Seq) : (s.modSq g).retired = s.retired := rfl
@[simp] theorem State.mapCores_retired (s : State) (g : Nat → Core → Core) : (s.mapCores g).retired = s.retired := rfl
@[simp] theorem State.modFn_retired (s : State) (n : Nat) (g : FnRegs → FnRegs) : (s.modFn n g).retired = s.retired := rfl
@[simp] theorem State.setPfReg_retired (s : State) (o : Nat) (v : Word) : (s.setPfReg o v).retired = s.retired := rfl
@[simp] theorem State.modLaunch_retired (s : State) (n : Nat) (g : Launch → Launch) : (s.modLaunch n g).retired = s.retired := rfl
@[simp] theorem State.setCore_retiring (s : State) (c : Nat) (k : Core) : (s.setCore c k).retiring = s.retiring := rfl
@[simp] theorem State.modCore_retiring (s : State) (c : Nat) (g : Core → Core) : (s.modCore c g).retiring = s.retiring := rfl
@[simp] theorem State.modCC_retiring (s : State) (g : Core → Core) : (s.modCC g).retiring = s.retiring := rfl
@[simp] theorem State.modSq_retiring (s : State) (g : Seq → Seq) : (s.modSq g).retiring = s.retiring := rfl
@[simp] theorem State.mapCores_retiring (s : State) (g : Nat → Core → Core) : (s.mapCores g).retiring = s.retiring := rfl
@[simp] theorem State.modFn_retiring (s : State) (n : Nat) (g : FnRegs → FnRegs) : (s.modFn n g).retiring = s.retiring := rfl
@[simp] theorem State.setPfReg_retiring (s : State) (o : Nat) (v : Word) : (s.setPfReg o v).retiring = s.retiring := rfl
@[simp] theorem State.modLaunch_retiring (s : State) (n : Nat) (g : Launch → Launch) : (s.modLaunch n g).retiring = s.retiring := rfl
@[simp] theorem State.setCore_vpCur (s : State) (c : Nat) (k : Core) : (s.setCore c k).vpCur = s.vpCur := rfl
@[simp] theorem State.modCore_vpCur (s : State) (c : Nat) (g : Core → Core) : (s.modCore c g).vpCur = s.vpCur := rfl
@[simp] theorem State.modCC_vpCur (s : State) (g : Core → Core) : (s.modCC g).vpCur = s.vpCur := rfl
@[simp] theorem State.modSq_vpCur (s : State) (g : Seq → Seq) : (s.modSq g).vpCur = s.vpCur := rfl
@[simp] theorem State.mapCores_vpCur (s : State) (g : Nat → Core → Core) : (s.mapCores g).vpCur = s.vpCur := rfl
@[simp] theorem State.modFn_vpCur (s : State) (n : Nat) (g : FnRegs → FnRegs) : (s.modFn n g).vpCur = s.vpCur := rfl
@[simp] theorem State.setPfReg_vpCur (s : State) (o : Nat) (v : Word) : (s.setPfReg o v).vpCur = s.vpCur := rfl
@[simp] theorem State.modLaunch_vpCur (s : State) (n : Nat) (g : Launch → Launch) : (s.modLaunch n g).vpCur = s.vpCur := rfl
@[simp] theorem State.setCore_vpStat (s : State) (c : Nat) (k : Core) : (s.setCore c k).vpStat = s.vpStat := rfl
@[simp] theorem State.modCore_vpStat (s : State) (c : Nat) (g : Core → Core) : (s.modCore c g).vpStat = s.vpStat := rfl
@[simp] theorem State.modCC_vpStat (s : State) (g : Core → Core) : (s.modCC g).vpStat = s.vpStat := rfl
@[simp] theorem State.modSq_vpStat (s : State) (g : Seq → Seq) : (s.modSq g).vpStat = s.vpStat := rfl
@[simp] theorem State.mapCores_vpStat (s : State) (g : Nat → Core → Core) : (s.mapCores g).vpStat = s.vpStat := rfl
@[simp] theorem State.modFn_vpStat (s : State) (n : Nat) (g : FnRegs → FnRegs) : (s.modFn n g).vpStat = s.vpStat := rfl
@[simp] theorem State.setPfReg_vpStat (s : State) (o : Nat) (v : Word) : (s.setPfReg o v).vpStat = s.vpStat := rfl
@[simp] theorem State.modLaunch_vpStat (s : State) (n : Nat) (g : Launch → Launch) : (s.modLaunch n g).vpStat = s.vpStat := rfl
@[simp] theorem State.setCore_vpReq (s : State) (c : Nat) (k : Core) : (s.setCore c k).vpReq = s.vpReq := rfl
@[simp] theorem State.modCore_vpReq (s : State) (c : Nat) (g : Core → Core) : (s.modCore c g).vpReq = s.vpReq := rfl
@[simp] theorem State.modCC_vpReq (s : State) (g : Core → Core) : (s.modCC g).vpReq = s.vpReq := rfl
@[simp] theorem State.modSq_vpReq (s : State) (g : Seq → Seq) : (s.modSq g).vpReq = s.vpReq := rfl
@[simp] theorem State.mapCores_vpReq (s : State) (g : Nat → Core → Core) : (s.mapCores g).vpReq = s.vpReq := rfl
@[simp] theorem State.modFn_vpReq (s : State) (n : Nat) (g : FnRegs → FnRegs) : (s.modFn n g).vpReq = s.vpReq := rfl
@[simp] theorem State.setPfReg_vpReq (s : State) (o : Nat) (v : Word) : (s.setPfReg o v).vpReq = s.vpReq := rfl
@[simp] theorem State.modLaunch_vpReq (s : State) (n : Nat) (g : Launch → Launch) : (s.modLaunch n g).vpReq = s.vpReq := rfl
@[simp] theorem State.setCore_posted (s : State) (c : Nat) (k : Core) : (s.setCore c k).posted = s.posted := rfl
@[simp] theorem State.modCore_posted (s : State) (c : Nat) (g : Core → Core) : (s.modCore c g).posted = s.posted := rfl
@[simp] theorem State.modCC_posted (s : State) (g : Core → Core) : (s.modCC g).posted = s.posted := rfl
@[simp] theorem State.modSq_posted (s : State) (g : Seq → Seq) : (s.modSq g).posted = s.posted := rfl
@[simp] theorem State.mapCores_posted (s : State) (g : Nat → Core → Core) : (s.mapCores g).posted = s.posted := rfl
@[simp] theorem State.modFn_posted (s : State) (n : Nat) (g : FnRegs → FnRegs) : (s.modFn n g).posted = s.posted := rfl
@[simp] theorem State.setPfReg_posted (s : State) (o : Nat) (v : Word) : (s.setPfReg o v).posted = s.posted := rfl
@[simp] theorem State.modLaunch_posted (s : State) (n : Nat) (g : Launch → Launch) : (s.modLaunch n g).posted = s.posted := rfl
@[simp] theorem State.setCore_unexpected (s : State) (c : Nat) (k : Core) : (s.setCore c k).unexpected = s.unexpected := rfl
@[simp] theorem State.modCore_unexpected (s : State) (c : Nat) (g : Core → Core) : (s.modCore c g).unexpected = s.unexpected := rfl
@[simp] theorem State.modCC_unexpected (s : State) (g : Core → Core) : (s.modCC g).unexpected = s.unexpected := rfl
@[simp] theorem State.modSq_unexpected (s : State) (g : Seq → Seq) : (s.modSq g).unexpected = s.unexpected := rfl
@[simp] theorem State.mapCores_unexpected (s : State) (g : Nat → Core → Core) : (s.mapCores g).unexpected = s.unexpected := rfl
@[simp] theorem State.modFn_unexpected (s : State) (n : Nat) (g : FnRegs → FnRegs) : (s.modFn n g).unexpected = s.unexpected := rfl
@[simp] theorem State.setPfReg_unexpected (s : State) (o : Nat) (v : Word) : (s.setPfReg o v).unexpected = s.unexpected := rfl
@[simp] theorem State.modLaunch_unexpected (s : State) (n : Nat) (g : Launch → Launch) : (s.modLaunch n g).unexpected = s.unexpected := rfl
@[simp] theorem State.setCore_retrGen (s : State) (c : Nat) (k : Core) : (s.setCore c k).retrGen = s.retrGen := rfl
@[simp] theorem State.modCore_retrGen (s : State) (c : Nat) (g : Core → Core) : (s.modCore c g).retrGen = s.retrGen := rfl
@[simp] theorem State.modCC_retrGen (s : State) (g : Core → Core) : (s.modCC g).retrGen = s.retrGen := rfl
@[simp] theorem State.modSq_retrGen (s : State) (g : Seq → Seq) : (s.modSq g).retrGen = s.retrGen := rfl
@[simp] theorem State.mapCores_retrGen (s : State) (g : Nat → Core → Core) : (s.mapCores g).retrGen = s.retrGen := rfl
@[simp] theorem State.modFn_retrGen (s : State) (n : Nat) (g : FnRegs → FnRegs) : (s.modFn n g).retrGen = s.retrGen := rfl
@[simp] theorem State.setPfReg_retrGen (s : State) (o : Nat) (v : Word) : (s.setPfReg o v).retrGen = s.retrGen := rfl
@[simp] theorem State.modLaunch_retrGen (s : State) (n : Nat) (g : Launch → Launch) : (s.modLaunch n g).retrGen = s.retrGen := rfl
@[simp] theorem State.setCore_links (s : State) (c : Nat) (k : Core) : (s.setCore c k).links = s.links := rfl
@[simp] theorem State.modCore_links (s : State) (c : Nat) (g : Core → Core) : (s.modCore c g).links = s.links := rfl
@[simp] theorem State.modCC_links (s : State) (g : Core → Core) : (s.modCC g).links = s.links := rfl
@[simp] theorem State.modSq_links (s : State) (g : Seq → Seq) : (s.modSq g).links = s.links := rfl
@[simp] theorem State.mapCores_links (s : State) (g : Nat → Core → Core) : (s.mapCores g).links = s.links := rfl
@[simp] theorem State.modFn_links (s : State) (n : Nat) (g : FnRegs → FnRegs) : (s.modFn n g).links = s.links := rfl
@[simp] theorem State.setPfReg_links (s : State) (o : Nat) (v : Word) : (s.setPfReg o v).links = s.links := rfl
@[simp] theorem State.modLaunch_links (s : State) (n : Nat) (g : Launch → Launch) : (s.modLaunch n g).links = s.links := rfl
@[simp] theorem State.setCore_net (s : State) (c : Nat) (k : Core) : (s.setCore c k).net = s.net := rfl
@[simp] theorem State.modCore_net (s : State) (c : Nat) (g : Core → Core) : (s.modCore c g).net = s.net := rfl
@[simp] theorem State.modCC_net (s : State) (g : Core → Core) : (s.modCC g).net = s.net := rfl
@[simp] theorem State.modSq_net (s : State) (g : Seq → Seq) : (s.modSq g).net = s.net := rfl
@[simp] theorem State.mapCores_net (s : State) (g : Nat → Core → Core) : (s.mapCores g).net = s.net := rfl
@[simp] theorem State.modFn_net (s : State) (n : Nat) (g : FnRegs → FnRegs) : (s.modFn n g).net = s.net := rfl
@[simp] theorem State.setPfReg_net (s : State) (o : Nat) (v : Word) : (s.setPfReg o v).net = s.net := rfl
@[simp] theorem State.modLaunch_net (s : State) (n : Nat) (g : Launch → Launch) : (s.modLaunch n g).net = s.net := rfl
@[simp] theorem State.setCore_netMsgs (s : State) (c : Nat) (k : Core) : (s.setCore c k).netMsgs = s.netMsgs := rfl
@[simp] theorem State.modCore_netMsgs (s : State) (c : Nat) (g : Core → Core) : (s.modCore c g).netMsgs = s.netMsgs := rfl
@[simp] theorem State.modCC_netMsgs (s : State) (g : Core → Core) : (s.modCC g).netMsgs = s.netMsgs := rfl
@[simp] theorem State.modSq_netMsgs (s : State) (g : Seq → Seq) : (s.modSq g).netMsgs = s.netMsgs := rfl
@[simp] theorem State.mapCores_netMsgs (s : State) (g : Nat → Core → Core) : (s.mapCores g).netMsgs = s.netMsgs := rfl
@[simp] theorem State.modFn_netMsgs (s : State) (n : Nat) (g : FnRegs → FnRegs) : (s.modFn n g).netMsgs = s.netMsgs := rfl
@[simp] theorem State.setPfReg_netMsgs (s : State) (o : Nat) (v : Word) : (s.setPfReg o v).netMsgs = s.netMsgs := rfl
@[simp] theorem State.modLaunch_netMsgs (s : State) (n : Nat) (g : Launch → Launch) : (s.modLaunch n g).netMsgs = s.netMsgs := rfl
@[simp] theorem State.setCore_acks (s : State) (c : Nat) (k : Core) : (s.setCore c k).acks = s.acks := rfl
@[simp] theorem State.modCore_acks (s : State) (c : Nat) (g : Core → Core) : (s.modCore c g).acks = s.acks := rfl
@[simp] theorem State.modCC_acks (s : State) (g : Core → Core) : (s.modCC g).acks = s.acks := rfl
@[simp] theorem State.modSq_acks (s : State) (g : Seq → Seq) : (s.modSq g).acks = s.acks := rfl
@[simp] theorem State.mapCores_acks (s : State) (g : Nat → Core → Core) : (s.mapCores g).acks = s.acks := rfl
@[simp] theorem State.modFn_acks (s : State) (n : Nat) (g : FnRegs → FnRegs) : (s.modFn n g).acks = s.acks := rfl
@[simp] theorem State.setPfReg_acks (s : State) (o : Nat) (v : Word) : (s.setPfReg o v).acks = s.acks := rfl
@[simp] theorem State.modLaunch_acks (s : State) (n : Nat) (g : Launch → Launch) : (s.modLaunch n g).acks = s.acks := rfl
@[simp] theorem State.setCore_outOps (s : State) (c : Nat) (k : Core) : (s.setCore c k).outOps = s.outOps := rfl
@[simp] theorem State.modCore_outOps (s : State) (c : Nat) (g : Core → Core) : (s.modCore c g).outOps = s.outOps := rfl
@[simp] theorem State.modCC_outOps (s : State) (g : Core → Core) : (s.modCC g).outOps = s.outOps := rfl
@[simp] theorem State.modSq_outOps (s : State) (g : Seq → Seq) : (s.modSq g).outOps = s.outOps := rfl
@[simp] theorem State.mapCores_outOps (s : State) (g : Nat → Core → Core) : (s.mapCores g).outOps = s.outOps := rfl
@[simp] theorem State.modFn_outOps (s : State) (n : Nat) (g : FnRegs → FnRegs) : (s.modFn n g).outOps = s.outOps := rfl
@[simp] theorem State.setPfReg_outOps (s : State) (o : Nat) (v : Word) : (s.setPfReg o v).outOps = s.outOps := rfl
@[simp] theorem State.modLaunch_outOps (s : State) (n : Nat) (g : Launch → Launch) : (s.modLaunch n g).outOps = s.outOps := rfl
@[simp] theorem State.setCore_outMsgs (s : State) (c : Nat) (k : Core) : (s.setCore c k).outMsgs = s.outMsgs := rfl
@[simp] theorem State.modCore_outMsgs (s : State) (c : Nat) (g : Core → Core) : (s.modCore c g).outMsgs = s.outMsgs := rfl
@[simp] theorem State.modCC_outMsgs (s : State) (g : Core → Core) : (s.modCC g).outMsgs = s.outMsgs := rfl
@[simp] theorem State.modSq_outMsgs (s : State) (g : Seq → Seq) : (s.modSq g).outMsgs = s.outMsgs := rfl
@[simp] theorem State.mapCores_outMsgs (s : State) (g : Nat → Core → Core) : (s.mapCores g).outMsgs = s.outMsgs := rfl
@[simp] theorem State.modFn_outMsgs (s : State) (n : Nat) (g : FnRegs → FnRegs) : (s.modFn n g).outMsgs = s.outMsgs := rfl
@[simp] theorem State.setPfReg_outMsgs (s : State) (o : Nat) (v : Word) : (s.setPfReg o v).outMsgs = s.outMsgs := rfl
@[simp] theorem State.modLaunch_outMsgs (s : State) (n : Nat) (g : Launch → Launch) : (s.modLaunch n g).outMsgs = s.outMsgs := rfl
@[simp] theorem State.setCore_outAcks (s : State) (c : Nat) (k : Core) : (s.setCore c k).outAcks = s.outAcks := rfl
@[simp] theorem State.modCore_outAcks (s : State) (c : Nat) (g : Core → Core) : (s.modCore c g).outAcks = s.outAcks := rfl
@[simp] theorem State.modCC_outAcks (s : State) (g : Core → Core) : (s.modCC g).outAcks = s.outAcks := rfl
@[simp] theorem State.modSq_outAcks (s : State) (g : Seq → Seq) : (s.modSq g).outAcks = s.outAcks := rfl
@[simp] theorem State.mapCores_outAcks (s : State) (g : Nat → Core → Core) : (s.mapCores g).outAcks = s.outAcks := rfl
@[simp] theorem State.modFn_outAcks (s : State) (n : Nat) (g : FnRegs → FnRegs) : (s.modFn n g).outAcks = s.outAcks := rfl
@[simp] theorem State.setPfReg_outAcks (s : State) (o : Nat) (v : Word) : (s.setPfReg o v).outAcks = s.outAcks := rfl
@[simp] theorem State.modLaunch_outAcks (s : State) (n : Nat) (g : Launch → Launch) : (s.modLaunch n g).outAcks = s.outAcks := rfl
@[simp] theorem State.setCore_transit (s : State) (c : Nat) (k : Core) : (s.setCore c k).transit = s.transit := rfl
@[simp] theorem State.modCore_transit (s : State) (c : Nat) (g : Core → Core) : (s.modCore c g).transit = s.transit := rfl
@[simp] theorem State.modCC_transit (s : State) (g : Core → Core) : (s.modCC g).transit = s.transit := rfl
@[simp] theorem State.modSq_transit (s : State) (g : Seq → Seq) : (s.modSq g).transit = s.transit := rfl
@[simp] theorem State.mapCores_transit (s : State) (g : Nat → Core → Core) : (s.mapCores g).transit = s.transit := rfl
@[simp] theorem State.modFn_transit (s : State) (n : Nat) (g : FnRegs → FnRegs) : (s.modFn n g).transit = s.transit := rfl
@[simp] theorem State.setPfReg_transit (s : State) (o : Nat) (v : Word) : (s.setPfReg o v).transit = s.transit := rfl
@[simp] theorem State.modLaunch_transit (s : State) (n : Nat) (g : Launch → Launch) : (s.modLaunch n g).transit = s.transit := rfl
@[simp] theorem State.setCore_turned (s : State) (c : Nat) (k : Core) : (s.setCore c k).turned = s.turned := rfl
@[simp] theorem State.modCore_turned (s : State) (c : Nat) (g : Core → Core) : (s.modCore c g).turned = s.turned := rfl
@[simp] theorem State.modCC_turned (s : State) (g : Core → Core) : (s.modCC g).turned = s.turned := rfl
@[simp] theorem State.modSq_turned (s : State) (g : Seq → Seq) : (s.modSq g).turned = s.turned := rfl
@[simp] theorem State.mapCores_turned (s : State) (g : Nat → Core → Core) : (s.mapCores g).turned = s.turned := rfl
@[simp] theorem State.modFn_turned (s : State) (n : Nat) (g : FnRegs → FnRegs) : (s.modFn n g).turned = s.turned := rfl
@[simp] theorem State.setPfReg_turned (s : State) (o : Nat) (v : Word) : (s.setPfReg o v).turned = s.turned := rfl
@[simp] theorem State.modLaunch_turned (s : State) (n : Nat) (g : Launch → Launch) : (s.modLaunch n g).turned = s.turned := rfl
@[simp] theorem State.setCore_seqOut (s : State) (c : Nat) (k : Core) : (s.setCore c k).seqOut = s.seqOut := rfl
@[simp] theorem State.modCore_seqOut (s : State) (c : Nat) (g : Core → Core) : (s.modCore c g).seqOut = s.seqOut := rfl
@[simp] theorem State.modCC_seqOut (s : State) (g : Core → Core) : (s.modCC g).seqOut = s.seqOut := rfl
@[simp] theorem State.modSq_seqOut (s : State) (g : Seq → Seq) : (s.modSq g).seqOut = s.seqOut := rfl
@[simp] theorem State.mapCores_seqOut (s : State) (g : Nat → Core → Core) : (s.mapCores g).seqOut = s.seqOut := rfl
@[simp] theorem State.modFn_seqOut (s : State) (n : Nat) (g : FnRegs → FnRegs) : (s.modFn n g).seqOut = s.seqOut := rfl
@[simp] theorem State.setPfReg_seqOut (s : State) (o : Nat) (v : Word) : (s.setPfReg o v).seqOut = s.seqOut := rfl
@[simp] theorem State.modLaunch_seqOut (s : State) (n : Nat) (g : Launch → Launch) : (s.modLaunch n g).seqOut = s.seqOut := rfl
@[simp] theorem State.setCore_window (s : State) (c : Nat) (k : Core) : (s.setCore c k).window = s.window := rfl
@[simp] theorem State.modCore_window (s : State) (c : Nat) (g : Core → Core) : (s.modCore c g).window = s.window := rfl
@[simp] theorem State.modCC_window (s : State) (g : Core → Core) : (s.modCC g).window = s.window := rfl
@[simp] theorem State.modSq_window (s : State) (g : Seq → Seq) : (s.modSq g).window = s.window := rfl
@[simp] theorem State.mapCores_window (s : State) (g : Nat → Core → Core) : (s.mapCores g).window = s.window := rfl
@[simp] theorem State.modFn_window (s : State) (n : Nat) (g : FnRegs → FnRegs) : (s.modFn n g).window = s.window := rfl
@[simp] theorem State.setPfReg_window (s : State) (o : Nat) (v : Word) : (s.setPfReg o v).window = s.window := rfl
@[simp] theorem State.modLaunch_window (s : State) (n : Nat) (g : Launch → Launch) : (s.modLaunch n g).window = s.window := rfl
@[simp] theorem State.setCore_inflight (s : State) (c : Nat) (k : Core) : (s.setCore c k).inflight = s.inflight := rfl
@[simp] theorem State.modCore_inflight (s : State) (c : Nat) (g : Core → Core) : (s.modCore c g).inflight = s.inflight := rfl
@[simp] theorem State.modCC_inflight (s : State) (g : Core → Core) : (s.modCC g).inflight = s.inflight := rfl
@[simp] theorem State.modSq_inflight (s : State) (g : Seq → Seq) : (s.modSq g).inflight = s.inflight := rfl
@[simp] theorem State.mapCores_inflight (s : State) (g : Nat → Core → Core) : (s.mapCores g).inflight = s.inflight := rfl
@[simp] theorem State.modFn_inflight (s : State) (n : Nat) (g : FnRegs → FnRegs) : (s.modFn n g).inflight = s.inflight := rfl
@[simp] theorem State.setPfReg_inflight (s : State) (o : Nat) (v : Word) : (s.setPfReg o v).inflight = s.inflight := rfl
@[simp] theorem State.modLaunch_inflight (s : State) (n : Nat) (g : Launch → Launch) : (s.modLaunch n g).inflight = s.inflight := rfl
@[simp] theorem State.setCore_misses (s : State) (c : Nat) (k : Core) : (s.setCore c k).misses = s.misses := rfl
@[simp] theorem State.modCore_misses (s : State) (c : Nat) (g : Core → Core) : (s.modCore c g).misses = s.misses := rfl
@[simp] theorem State.modCC_misses (s : State) (g : Core → Core) : (s.modCC g).misses = s.misses := rfl
@[simp] theorem State.modSq_misses (s : State) (g : Seq → Seq) : (s.modSq g).misses = s.misses := rfl
@[simp] theorem State.mapCores_misses (s : State) (g : Nat → Core → Core) : (s.mapCores g).misses = s.misses := rfl
@[simp] theorem State.modFn_misses (s : State) (n : Nat) (g : FnRegs → FnRegs) : (s.modFn n g).misses = s.misses := rfl
@[simp] theorem State.setPfReg_misses (s : State) (o : Nat) (v : Word) : (s.setPfReg o v).misses = s.misses := rfl
@[simp] theorem State.modLaunch_misses (s : State) (n : Nat) (g : Launch → Launch) : (s.modLaunch n g).misses = s.misses := rfl
@[simp] theorem State.setCore_remWaits (s : State) (c : Nat) (k : Core) : (s.setCore c k).remWaits = s.remWaits := rfl
@[simp] theorem State.modCore_remWaits (s : State) (c : Nat) (g : Core → Core) : (s.modCore c g).remWaits = s.remWaits := rfl
@[simp] theorem State.modCC_remWaits (s : State) (g : Core → Core) : (s.modCC g).remWaits = s.remWaits := rfl
@[simp] theorem State.modSq_remWaits (s : State) (g : Seq → Seq) : (s.modSq g).remWaits = s.remWaits := rfl
@[simp] theorem State.mapCores_remWaits (s : State) (g : Nat → Core → Core) : (s.mapCores g).remWaits = s.remWaits := rfl
@[simp] theorem State.modFn_remWaits (s : State) (n : Nat) (g : FnRegs → FnRegs) : (s.modFn n g).remWaits = s.remWaits := rfl
@[simp] theorem State.setPfReg_remWaits (s : State) (o : Nat) (v : Word) : (s.setPfReg o v).remWaits = s.remWaits := rfl
@[simp] theorem State.modLaunch_remWaits (s : State) (n : Nat) (g : Launch → Launch) : (s.modLaunch n g).remWaits = s.remWaits := rfl
@[simp] theorem State.setCore_vreqs (s : State) (c : Nat) (k : Core) : (s.setCore c k).vreqs = s.vreqs := rfl
@[simp] theorem State.modCore_vreqs (s : State) (c : Nat) (g : Core → Core) : (s.modCore c g).vreqs = s.vreqs := rfl
@[simp] theorem State.modCC_vreqs (s : State) (g : Core → Core) : (s.modCC g).vreqs = s.vreqs := rfl
@[simp] theorem State.modSq_vreqs (s : State) (g : Seq → Seq) : (s.modSq g).vreqs = s.vreqs := rfl
@[simp] theorem State.mapCores_vreqs (s : State) (g : Nat → Core → Core) : (s.mapCores g).vreqs = s.vreqs := rfl
@[simp] theorem State.modFn_vreqs (s : State) (n : Nat) (g : FnRegs → FnRegs) : (s.modFn n g).vreqs = s.vreqs := rfl
@[simp] theorem State.setPfReg_vreqs (s : State) (o : Nat) (v : Word) : (s.setPfReg o v).vreqs = s.vreqs := rfl
@[simp] theorem State.modLaunch_vreqs (s : State) (n : Nat) (g : Launch → Launch) : (s.modLaunch n g).vreqs = s.vreqs := rfl
@[simp] theorem State.setCore_worldCores (s : State) (c : Nat) (k : Core) : (s.setCore c k).worldCores = s.worldCores := rfl
@[simp] theorem State.modCore_worldCores (s : State) (c : Nat) (g : Core → Core) : (s.modCore c g).worldCores = s.worldCores := rfl
@[simp] theorem State.modCC_worldCores (s : State) (g : Core → Core) : (s.modCC g).worldCores = s.worldCores := rfl
@[simp] theorem State.modSq_worldCores (s : State) (g : Seq → Seq) : (s.modSq g).worldCores = s.worldCores := rfl
@[simp] theorem State.mapCores_worldCores (s : State) (g : Nat → Core → Core) : (s.mapCores g).worldCores = s.worldCores := rfl
@[simp] theorem State.modFn_worldCores (s : State) (n : Nat) (g : FnRegs → FnRegs) : (s.modFn n g).worldCores = s.worldCores := rfl
@[simp] theorem State.setPfReg_worldCores (s : State) (o : Nat) (v : Word) : (s.setPfReg o v).worldCores = s.worldCores := rfl
@[simp] theorem State.modLaunch_worldCores (s : State) (n : Nat) (g : Launch → Launch) : (s.modLaunch n g).worldCores = s.worldCores := rfl
@[simp] theorem State.setCore_worldFns (s : State) (c : Nat) (k : Core) : (s.setCore c k).worldFns = s.worldFns := rfl
@[simp] theorem State.modCore_worldFns (s : State) (c : Nat) (g : Core → Core) : (s.modCore c g).worldFns = s.worldFns := rfl
@[simp] theorem State.modCC_worldFns (s : State) (g : Core → Core) : (s.modCC g).worldFns = s.worldFns := rfl
@[simp] theorem State.modSq_worldFns (s : State) (g : Seq → Seq) : (s.modSq g).worldFns = s.worldFns := rfl
@[simp] theorem State.mapCores_worldFns (s : State) (g : Nat → Core → Core) : (s.mapCores g).worldFns = s.worldFns := rfl
@[simp] theorem State.modFn_worldFns (s : State) (n : Nat) (g : FnRegs → FnRegs) : (s.modFn n g).worldFns = s.worldFns := rfl
@[simp] theorem State.setPfReg_worldFns (s : State) (o : Nat) (v : Word) : (s.setPfReg o v).worldFns = s.worldFns := rfl
@[simp] theorem State.modLaunch_worldFns (s : State) (n : Nat) (g : Launch → Launch) : (s.modLaunch n g).worldFns = s.worldFns := rfl
@[simp] theorem State.setCore_worldEngines (s : State) (c : Nat) (k : Core) : (s.setCore c k).worldEngines = s.worldEngines := rfl
@[simp] theorem State.modCore_worldEngines (s : State) (c : Nat) (g : Core → Core) : (s.modCore c g).worldEngines = s.worldEngines := rfl
@[simp] theorem State.modCC_worldEngines (s : State) (g : Core → Core) : (s.modCC g).worldEngines = s.worldEngines := rfl
@[simp] theorem State.modSq_worldEngines (s : State) (g : Seq → Seq) : (s.modSq g).worldEngines = s.worldEngines := rfl
@[simp] theorem State.mapCores_worldEngines (s : State) (g : Nat → Core → Core) : (s.mapCores g).worldEngines = s.worldEngines := rfl
@[simp] theorem State.modFn_worldEngines (s : State) (n : Nat) (g : FnRegs → FnRegs) : (s.modFn n g).worldEngines = s.worldEngines := rfl
@[simp] theorem State.setPfReg_worldEngines (s : State) (o : Nat) (v : Word) : (s.setPfReg o v).worldEngines = s.worldEngines := rfl
@[simp] theorem State.modLaunch_worldEngines (s : State) (n : Nat) (g : Launch → Launch) : (s.modLaunch n g).worldEngines = s.worldEngines := rfl
@[simp] theorem State.setCore_worldCtx (s : State) (c : Nat) (k : Core) : (s.setCore c k).worldCtx = s.worldCtx := rfl
@[simp] theorem State.modCore_worldCtx (s : State) (c : Nat) (g : Core → Core) : (s.modCore c g).worldCtx = s.worldCtx := rfl
@[simp] theorem State.modCC_worldCtx (s : State) (g : Core → Core) : (s.modCC g).worldCtx = s.worldCtx := rfl
@[simp] theorem State.modSq_worldCtx (s : State) (g : Seq → Seq) : (s.modSq g).worldCtx = s.worldCtx := rfl
@[simp] theorem State.mapCores_worldCtx (s : State) (g : Nat → Core → Core) : (s.mapCores g).worldCtx = s.worldCtx := rfl
@[simp] theorem State.modFn_worldCtx (s : State) (n : Nat) (g : FnRegs → FnRegs) : (s.modFn n g).worldCtx = s.worldCtx := rfl
@[simp] theorem State.setPfReg_worldCtx (s : State) (o : Nat) (v : Word) : (s.setPfReg o v).worldCtx = s.worldCtx := rfl
@[simp] theorem State.modLaunch_worldCtx (s : State) (n : Nat) (g : Launch → Launch) : (s.modLaunch n g).worldCtx = s.worldCtx := rfl
@[simp] theorem State.setCore_shadows (s : State) (c : Nat) (k : Core) : (s.setCore c k).shadows = s.shadows := rfl
@[simp] theorem State.modCore_shadows (s : State) (c : Nat) (g : Core → Core) : (s.modCore c g).shadows = s.shadows := rfl
@[simp] theorem State.modCC_shadows (s : State) (g : Core → Core) : (s.modCC g).shadows = s.shadows := rfl
@[simp] theorem State.modSq_shadows (s : State) (g : Seq → Seq) : (s.modSq g).shadows = s.shadows := rfl
@[simp] theorem State.mapCores_shadows (s : State) (g : Nat → Core → Core) : (s.mapCores g).shadows = s.shadows := rfl
@[simp] theorem State.modFn_shadows (s : State) (n : Nat) (g : FnRegs → FnRegs) : (s.modFn n g).shadows = s.shadows := rfl
@[simp] theorem State.setPfReg_shadows (s : State) (o : Nat) (v : Word) : (s.setPfReg o v).shadows = s.shadows := rfl
@[simp] theorem State.modLaunch_shadows (s : State) (n : Nat) (g : Launch → Launch) : (s.modLaunch n g).shadows = s.shadows := rfl
@[simp] theorem State.setCore_shPool (s : State) (c : Nat) (k : Core) : (s.setCore c k).shPool = s.shPool := rfl
@[simp] theorem State.modCore_shPool (s : State) (c : Nat) (g : Core → Core) : (s.modCore c g).shPool = s.shPool := rfl
@[simp] theorem State.modCC_shPool (s : State) (g : Core → Core) : (s.modCC g).shPool = s.shPool := rfl
@[simp] theorem State.modSq_shPool (s : State) (g : Seq → Seq) : (s.modSq g).shPool = s.shPool := rfl
@[simp] theorem State.mapCores_shPool (s : State) (g : Nat → Core → Core) : (s.mapCores g).shPool = s.shPool := rfl
@[simp] theorem State.modFn_shPool (s : State) (n : Nat) (g : FnRegs → FnRegs) : (s.modFn n g).shPool = s.shPool := rfl
@[simp] theorem State.setPfReg_shPool (s : State) (o : Nat) (v : Word) : (s.setPfReg o v).shPool = s.shPool := rfl
@[simp] theorem State.modLaunch_shPool (s : State) (n : Nat) (g : Launch → Launch) : (s.modLaunch n g).shPool = s.shPool := rfl
@[simp] theorem State.setCore_scan (s : State) (c : Nat) (k : Core) : (s.setCore c k).scan = s.scan := rfl
@[simp] theorem State.modCore_scan (s : State) (c : Nat) (g : Core → Core) : (s.modCore c g).scan = s.scan := rfl
@[simp] theorem State.modCC_scan (s : State) (g : Core → Core) : (s.modCC g).scan = s.scan := rfl
@[simp] theorem State.modSq_scan (s : State) (g : Seq → Seq) : (s.modSq g).scan = s.scan := rfl
@[simp] theorem State.mapCores_scan (s : State) (g : Nat → Core → Core) : (s.mapCores g).scan = s.scan := rfl
@[simp] theorem State.modFn_scan (s : State) (n : Nat) (g : FnRegs → FnRegs) : (s.modFn n g).scan = s.scan := rfl
@[simp] theorem State.setPfReg_scan (s : State) (o : Nat) (v : Word) : (s.setPfReg o v).scan = s.scan := rfl
@[simp] theorem State.modLaunch_scan (s : State) (n : Nat) (g : Launch → Launch) : (s.modLaunch n g).scan = s.scan := rfl
@[simp] theorem State.setCore_idleSince (s : State) (c : Nat) (k : Core) : (s.setCore c k).idleSince = s.idleSince := rfl
@[simp] theorem State.modCore_idleSince (s : State) (c : Nat) (g : Core → Core) : (s.modCore c g).idleSince = s.idleSince := rfl
@[simp] theorem State.modCC_idleSince (s : State) (g : Core → Core) : (s.modCC g).idleSince = s.idleSince := rfl
@[simp] theorem State.modSq_idleSince (s : State) (g : Seq → Seq) : (s.modSq g).idleSince = s.idleSince := rfl
@[simp] theorem State.mapCores_idleSince (s : State) (g : Nat → Core → Core) : (s.mapCores g).idleSince = s.idleSince := rfl
@[simp] theorem State.modFn_idleSince (s : State) (n : Nat) (g : FnRegs → FnRegs) : (s.modFn n g).idleSince = s.idleSince := rfl
@[simp] theorem State.setPfReg_idleSince (s : State) (o : Nat) (v : Word) : (s.setPfReg o v).idleSince = s.idleSince := rfl
@[simp] theorem State.modLaunch_idleSince (s : State) (n : Nat) (g : Launch → Launch) : (s.modLaunch n g).idleSince = s.idleSince := rfl
@[simp] theorem State.setCore_reserved (s : State) (c : Nat) (k : Core) : (s.setCore c k).reserved = s.reserved := rfl
@[simp] theorem State.modCore_reserved (s : State) (c : Nat) (g : Core → Core) : (s.modCore c g).reserved = s.reserved := rfl
@[simp] theorem State.modCC_reserved (s : State) (g : Core → Core) : (s.modCC g).reserved = s.reserved := rfl
@[simp] theorem State.modSq_reserved (s : State) (g : Seq → Seq) : (s.modSq g).reserved = s.reserved := rfl
@[simp] theorem State.mapCores_reserved (s : State) (g : Nat → Core → Core) : (s.mapCores g).reserved = s.reserved := rfl
@[simp] theorem State.modFn_reserved (s : State) (n : Nat) (g : FnRegs → FnRegs) : (s.modFn n g).reserved = s.reserved := rfl
@[simp] theorem State.setPfReg_reserved (s : State) (o : Nat) (v : Word) : (s.setPfReg o v).reserved = s.reserved := rfl
@[simp] theorem State.modLaunch_reserved (s : State) (n : Nat) (g : Launch → Launch) : (s.modLaunch n g).reserved = s.reserved := rfl
@[simp] theorem State.setCore_failed (s : State) (c : Nat) (k : Core) : (s.setCore c k).failed = s.failed := rfl
@[simp] theorem State.modCore_failed (s : State) (c : Nat) (g : Core → Core) : (s.modCore c g).failed = s.failed := rfl
@[simp] theorem State.modCC_failed (s : State) (g : Core → Core) : (s.modCC g).failed = s.failed := rfl
@[simp] theorem State.modSq_failed (s : State) (g : Seq → Seq) : (s.modSq g).failed = s.failed := rfl
@[simp] theorem State.mapCores_failed (s : State) (g : Nat → Core → Core) : (s.mapCores g).failed = s.failed := rfl
@[simp] theorem State.modFn_failed (s : State) (n : Nat) (g : FnRegs → FnRegs) : (s.modFn n g).failed = s.failed := rfl
@[simp] theorem State.setPfReg_failed (s : State) (o : Nat) (v : Word) : (s.setPfReg o v).failed = s.failed := rfl
@[simp] theorem State.modLaunch_failed (s : State) (n : Nat) (g : Launch → Launch) : (s.modLaunch n g).failed = s.failed := rfl
@[simp] theorem State.setCore_attest (s : State) (c : Nat) (k : Core) : (s.setCore c k).attest = s.attest := rfl
@[simp] theorem State.modCore_attest (s : State) (c : Nat) (g : Core → Core) : (s.modCore c g).attest = s.attest := rfl
@[simp] theorem State.modCC_attest (s : State) (g : Core → Core) : (s.modCC g).attest = s.attest := rfl
@[simp] theorem State.modSq_attest (s : State) (g : Seq → Seq) : (s.modSq g).attest = s.attest := rfl
@[simp] theorem State.mapCores_attest (s : State) (g : Nat → Core → Core) : (s.mapCores g).attest = s.attest := rfl
@[simp] theorem State.modFn_attest (s : State) (n : Nat) (g : FnRegs → FnRegs) : (s.modFn n g).attest = s.attest := rfl
@[simp] theorem State.setPfReg_attest (s : State) (o : Nat) (v : Word) : (s.setPfReg o v).attest = s.attest := rfl
@[simp] theorem State.modLaunch_attest (s : State) (n : Nat) (g : Launch → Launch) : (s.modLaunch n g).attest = s.attest := rfl
@[simp] theorem State.setCore_hostReads (s : State) (c : Nat) (k : Core) : (s.setCore c k).hostReads = s.hostReads := rfl
@[simp] theorem State.modCore_hostReads (s : State) (c : Nat) (g : Core → Core) : (s.modCore c g).hostReads = s.hostReads := rfl
@[simp] theorem State.modCC_hostReads (s : State) (g : Core → Core) : (s.modCC g).hostReads = s.hostReads := rfl
@[simp] theorem State.modSq_hostReads (s : State) (g : Seq → Seq) : (s.modSq g).hostReads = s.hostReads := rfl
@[simp] theorem State.mapCores_hostReads (s : State) (g : Nat → Core → Core) : (s.mapCores g).hostReads = s.hostReads := rfl
@[simp] theorem State.modFn_hostReads (s : State) (n : Nat) (g : FnRegs → FnRegs) : (s.modFn n g).hostReads = s.hostReads := rfl
@[simp] theorem State.setPfReg_hostReads (s : State) (o : Nat) (v : Word) : (s.setPfReg o v).hostReads = s.hostReads := rfl
@[simp] theorem State.modLaunch_hostReads (s : State) (n : Nat) (g : Launch → Launch) : (s.modLaunch n g).hostReads = s.hostReads := rfl
@[simp] theorem State.setCore_scanned (s : State) (c : Nat) (k : Core) : (s.setCore c k).scanned = s.scanned := rfl
@[simp] theorem State.modCore_scanned (s : State) (c : Nat) (g : Core → Core) : (s.modCore c g).scanned = s.scanned := rfl
@[simp] theorem State.modCC_scanned (s : State) (g : Core → Core) : (s.modCC g).scanned = s.scanned := rfl
@[simp] theorem State.modSq_scanned (s : State) (g : Seq → Seq) : (s.modSq g).scanned = s.scanned := rfl
@[simp] theorem State.mapCores_scanned (s : State) (g : Nat → Core → Core) : (s.mapCores g).scanned = s.scanned := rfl
@[simp] theorem State.modFn_scanned (s : State) (n : Nat) (g : FnRegs → FnRegs) : (s.modFn n g).scanned = s.scanned := rfl
@[simp] theorem State.setPfReg_scanned (s : State) (o : Nat) (v : Word) : (s.setPfReg o v).scanned = s.scanned := rfl
@[simp] theorem State.modLaunch_scanned (s : State) (n : Nat) (g : Launch → Launch) : (s.modLaunch n g).scanned = s.scanned := rfl
@[simp] theorem State.setCore_frozen (s : State) (c : Nat) (k : Core) : (s.setCore c k).frozen = s.frozen := rfl
@[simp] theorem State.modCore_frozen (s : State) (c : Nat) (g : Core → Core) : (s.modCore c g).frozen = s.frozen := rfl
@[simp] theorem State.modCC_frozen (s : State) (g : Core → Core) : (s.modCC g).frozen = s.frozen := rfl
@[simp] theorem State.modSq_frozen (s : State) (g : Seq → Seq) : (s.modSq g).frozen = s.frozen := rfl
@[simp] theorem State.mapCores_frozen (s : State) (g : Nat → Core → Core) : (s.mapCores g).frozen = s.frozen := rfl
@[simp] theorem State.modFn_frozen (s : State) (n : Nat) (g : FnRegs → FnRegs) : (s.modFn n g).frozen = s.frozen := rfl
@[simp] theorem State.setPfReg_frozen (s : State) (o : Nat) (v : Word) : (s.setPfReg o v).frozen = s.frozen := rfl
@[simp] theorem State.modLaunch_frozen (s : State) (n : Nat) (g : Launch → Launch) : (s.modLaunch n g).frozen = s.frozen := rfl
@[simp] theorem State.setCore_powered (s : State) (c : Nat) (k : Core) : (s.setCore c k).powered = s.powered := rfl
@[simp] theorem State.modCore_powered (s : State) (c : Nat) (g : Core → Core) : (s.modCore c g).powered = s.powered := rfl
@[simp] theorem State.modCC_powered (s : State) (g : Core → Core) : (s.modCC g).powered = s.powered := rfl
@[simp] theorem State.modSq_powered (s : State) (g : Seq → Seq) : (s.modSq g).powered = s.powered := rfl
@[simp] theorem State.mapCores_powered (s : State) (g : Nat → Core → Core) : (s.mapCores g).powered = s.powered := rfl
@[simp] theorem State.modFn_powered (s : State) (n : Nat) (g : FnRegs → FnRegs) : (s.modFn n g).powered = s.powered := rfl
@[simp] theorem State.setPfReg_powered (s : State) (o : Nat) (v : Word) : (s.setPfReg o v).powered = s.powered := rfl
@[simp] theorem State.modLaunch_powered (s : State) (n : Nat) (g : Launch → Launch) : (s.modLaunch n g).powered = s.powered := rfl
@[simp] theorem State.setCore_thermtrip (s : State) (c : Nat) (k : Core) : (s.setCore c k).thermtrip = s.thermtrip := rfl
@[simp] theorem State.modCore_thermtrip (s : State) (c : Nat) (g : Core → Core) : (s.modCore c g).thermtrip = s.thermtrip := rfl
@[simp] theorem State.modCC_thermtrip (s : State) (g : Core → Core) : (s.modCC g).thermtrip = s.thermtrip := rfl
@[simp] theorem State.modSq_thermtrip (s : State) (g : Seq → Seq) : (s.modSq g).thermtrip = s.thermtrip := rfl
@[simp] theorem State.mapCores_thermtrip (s : State) (g : Nat → Core → Core) : (s.mapCores g).thermtrip = s.thermtrip := rfl
@[simp] theorem State.modFn_thermtrip (s : State) (n : Nat) (g : FnRegs → FnRegs) : (s.modFn n g).thermtrip = s.thermtrip := rfl
@[simp] theorem State.setPfReg_thermtrip (s : State) (o : Nat) (v : Word) : (s.setPfReg o v).thermtrip = s.thermtrip := rfl
@[simp] theorem State.modLaunch_thermtrip (s : State) (n : Nat) (g : Launch → Launch) : (s.modLaunch n g).thermtrip = s.thermtrip := rfl
@[simp] theorem State.setCore_tempWarned (s : State) (c : Nat) (k : Core) : (s.setCore c k).tempWarned = s.tempWarned := rfl
@[simp] theorem State.modCore_tempWarned (s : State) (c : Nat) (g : Core → Core) : (s.modCore c g).tempWarned = s.tempWarned := rfl
@[simp] theorem State.modCC_tempWarned (s : State) (g : Core → Core) : (s.modCC g).tempWarned = s.tempWarned := rfl
@[simp] theorem State.modSq_tempWarned (s : State) (g : Seq → Seq) : (s.modSq g).tempWarned = s.tempWarned := rfl
@[simp] theorem State.mapCores_tempWarned (s : State) (g : Nat → Core → Core) : (s.mapCores g).tempWarned = s.tempWarned := rfl
@[simp] theorem State.modFn_tempWarned (s : State) (n : Nat) (g : FnRegs → FnRegs) : (s.modFn n g).tempWarned = s.tempWarned := rfl
@[simp] theorem State.setPfReg_tempWarned (s : State) (o : Nat) (v : Word) : (s.setPfReg o v).tempWarned = s.tempWarned := rfl
@[simp] theorem State.modLaunch_tempWarned (s : State) (n : Nat) (g : Launch → Launch) : (s.modLaunch n g).tempWarned = s.tempWarned := rfl
@[simp] theorem State.setCore_sliceVf (s : State) (c : Nat) (k : Core) : (s.setCore c k).sliceVf = s.sliceVf := rfl
@[simp] theorem State.modCore_sliceVf (s : State) (c : Nat) (g : Core → Core) : (s.modCore c g).sliceVf = s.sliceVf := rfl
@[simp] theorem State.modCC_sliceVf (s : State) (g : Core → Core) : (s.modCC g).sliceVf = s.sliceVf := rfl
@[simp] theorem State.modSq_sliceVf (s : State) (g : Seq → Seq) : (s.modSq g).sliceVf = s.sliceVf := rfl
@[simp] theorem State.mapCores_sliceVf (s : State) (g : Nat → Core → Core) : (s.mapCores g).sliceVf = s.sliceVf := rfl
@[simp] theorem State.modFn_sliceVf (s : State) (n : Nat) (g : FnRegs → FnRegs) : (s.modFn n g).sliceVf = s.sliceVf := rfl
@[simp] theorem State.setPfReg_sliceVf (s : State) (o : Nat) (v : Word) : (s.setPfReg o v).sliceVf = s.sliceVf := rfl
@[simp] theorem State.modLaunch_sliceVf (s : State) (n : Nat) (g : Launch → Launch) : (s.modLaunch n g).sliceVf = s.sliceVf := rfl
@[simp] theorem State.setCore_sliceStart (s : State) (c : Nat) (k : Core) : (s.setCore c k).sliceStart = s.sliceStart := rfl
@[simp] theorem State.modCore_sliceStart (s : State) (c : Nat) (g : Core → Core) : (s.modCore c g).sliceStart = s.sliceStart := rfl
@[simp] theorem State.modCC_sliceStart (s : State) (g : Core → Core) : (s.modCC g).sliceStart = s.sliceStart := rfl
@[simp] theorem State.modSq_sliceStart (s : State) (g : Seq → Seq) : (s.modSq g).sliceStart = s.sliceStart := rfl
@[simp] theorem State.mapCores_sliceStart (s : State) (g : Nat → Core → Core) : (s.mapCores g).sliceStart = s.sliceStart := rfl
@[simp] theorem State.modFn_sliceStart (s : State) (n : Nat) (g : FnRegs → FnRegs) : (s.modFn n g).sliceStart = s.sliceStart := rfl
@[simp] theorem State.setPfReg_sliceStart (s : State) (o : Nat) (v : Word) : (s.setPfReg o v).sliceStart = s.sliceStart := rfl
@[simp] theorem State.modLaunch_sliceStart (s : State) (n : Nat) (g : Launch → Launch) : (s.modLaunch n g).sliceStart = s.sliceStart := rfl
@[simp] theorem State.setCore_balanced (s : State) (c : Nat) (k : Core) : (s.setCore c k).balanced = s.balanced := rfl
@[simp] theorem State.modCore_balanced (s : State) (c : Nat) (g : Core → Core) : (s.modCore c g).balanced = s.balanced := rfl
@[simp] theorem State.modCC_balanced (s : State) (g : Core → Core) : (s.modCC g).balanced = s.balanced := rfl
@[simp] theorem State.modSq_balanced (s : State) (g : Seq → Seq) : (s.modSq g).balanced = s.balanced := rfl
@[simp] theorem State.mapCores_balanced (s : State) (g : Nat → Core → Core) : (s.mapCores g).balanced = s.balanced := rfl
@[simp] theorem State.modFn_balanced (s : State) (n : Nat) (g : FnRegs → FnRegs) : (s.modFn n g).balanced = s.balanced := rfl
@[simp] theorem State.setPfReg_balanced (s : State) (o : Nat) (v : Word) : (s.setPfReg o v).balanced = s.balanced := rfl
@[simp] theorem State.modLaunch_balanced (s : State) (n : Nat) (g : Launch → Launch) : (s.modLaunch n g).balanced = s.balanced := rfl
@[simp] theorem State.setCore_cur (s : State) (c : Nat) (k : Core) : (s.setCore c k).cur = s.cur := rfl
@[simp] theorem State.modCore_cur (s : State) (c : Nat) (g : Core → Core) : (s.modCore c g).cur = s.cur := rfl
@[simp] theorem State.modCC_cur (s : State) (g : Core → Core) : (s.modCC g).cur = s.cur := rfl
@[simp] theorem State.modSq_cur (s : State) (g : Seq → Seq) : (s.modSq g).cur = s.cur := rfl
@[simp] theorem State.mapCores_cur (s : State) (g : Nat → Core → Core) : (s.mapCores g).cur = s.cur := rfl
@[simp] theorem State.modFn_cur (s : State) (n : Nat) (g : FnRegs → FnRegs) : (s.modFn n g).cur = s.cur := rfl
@[simp] theorem State.setPfReg_cur (s : State) (o : Nat) (v : Word) : (s.setPfReg o v).cur = s.cur := rfl
@[simp] theorem State.modLaunch_cur (s : State) (n : Nat) (g : Launch → Launch) : (s.modLaunch n g).cur = s.cur := rfl
@[simp] theorem State.setCore_curSeq (s : State) (c : Nat) (k : Core) : (s.setCore c k).curSeq = s.curSeq := rfl
@[simp] theorem State.modCore_curSeq (s : State) (c : Nat) (g : Core → Core) : (s.modCore c g).curSeq = s.curSeq := rfl
@[simp] theorem State.modCC_curSeq (s : State) (g : Core → Core) : (s.modCC g).curSeq = s.curSeq := rfl
@[simp] theorem State.modSq_curSeq (s : State) (g : Seq → Seq) : (s.modSq g).curSeq = s.curSeq := rfl
@[simp] theorem State.mapCores_curSeq (s : State) (g : Nat → Core → Core) : (s.mapCores g).curSeq = s.curSeq := rfl
@[simp] theorem State.modFn_curSeq (s : State) (n : Nat) (g : FnRegs → FnRegs) : (s.modFn n g).curSeq = s.curSeq := rfl
@[simp] theorem State.setPfReg_curSeq (s : State) (o : Nat) (v : Word) : (s.setPfReg o v).curSeq = s.curSeq := rfl
@[simp] theorem State.modLaunch_curSeq (s : State) (n : Nat) (g : Launch → Launch) : (s.modLaunch n g).curSeq = s.curSeq := rfl
@[simp] theorem State.setCore_agenda (s : State) (c : Nat) (k : Core) : (s.setCore c k).agenda = s.agenda := rfl
@[simp] theorem State.modCore_agenda (s : State) (c : Nat) (g : Core → Core) : (s.modCore c g).agenda = s.agenda := rfl
@[simp] theorem State.modCC_agenda (s : State) (g : Core → Core) : (s.modCC g).agenda = s.agenda := rfl
@[simp] theorem State.modSq_agenda (s : State) (g : Seq → Seq) : (s.modSq g).agenda = s.agenda := rfl
@[simp] theorem State.mapCores_agenda (s : State) (g : Nat → Core → Core) : (s.mapCores g).agenda = s.agenda := rfl
@[simp] theorem State.modFn_agenda (s : State) (n : Nat) (g : FnRegs → FnRegs) : (s.modFn n g).agenda = s.agenda := rfl
@[simp] theorem State.setPfReg_agenda (s : State) (o : Nat) (v : Word) : (s.setPfReg o v).agenda = s.agenda := rfl
@[simp] theorem State.modLaunch_agenda (s : State) (n : Nat) (g : Launch → Launch) : (s.modLaunch n g).agenda = s.agenda := rfl
@[simp] theorem State.setCore_slotLog (s : State) (c : Nat) (k : Core) : (s.setCore c k).slotLog = s.slotLog := rfl
@[simp] theorem State.modCore_slotLog (s : State) (c : Nat) (g : Core → Core) : (s.modCore c g).slotLog = s.slotLog := rfl
@[simp] theorem State.modCC_slotLog (s : State) (g : Core → Core) : (s.modCC g).slotLog = s.slotLog := rfl
@[simp] theorem State.modSq_slotLog (s : State) (g : Seq → Seq) : (s.modSq g).slotLog = s.slotLog := rfl
@[simp] theorem State.mapCores_slotLog (s : State) (g : Nat → Core → Core) : (s.mapCores g).slotLog = s.slotLog := rfl
@[simp] theorem State.modFn_slotLog (s : State) (n : Nat) (g : FnRegs → FnRegs) : (s.modFn n g).slotLog = s.slotLog := rfl
@[simp] theorem State.setPfReg_slotLog (s : State) (o : Nat) (v : Word) : (s.setPfReg o v).slotLog = s.slotLog := rfl
@[simp] theorem State.modLaunch_slotLog (s : State) (n : Nat) (g : Launch → Launch) : (s.modLaunch n g).slotLog = s.slotLog := rfl
@[simp] theorem State.setCore_portHeld (s : State) (c : Nat) (k : Core) : (s.setCore c k).portHeld = s.portHeld := rfl
@[simp] theorem State.modCore_portHeld (s : State) (c : Nat) (g : Core → Core) : (s.modCore c g).portHeld = s.portHeld := rfl
@[simp] theorem State.modCC_portHeld (s : State) (g : Core → Core) : (s.modCC g).portHeld = s.portHeld := rfl
@[simp] theorem State.modSq_portHeld (s : State) (g : Seq → Seq) : (s.modSq g).portHeld = s.portHeld := rfl
@[simp] theorem State.mapCores_portHeld (s : State) (g : Nat → Core → Core) : (s.mapCores g).portHeld = s.portHeld := rfl
@[simp] theorem State.modFn_portHeld (s : State) (n : Nat) (g : FnRegs → FnRegs) : (s.modFn n g).portHeld = s.portHeld := rfl
@[simp] theorem State.setPfReg_portHeld (s : State) (o : Nat) (v : Word) : (s.setPfReg o v).portHeld = s.portHeld := rfl
@[simp] theorem State.modLaunch_portHeld (s : State) (n : Nat) (g : Launch → Launch) : (s.modLaunch n g).portHeld = s.portHeld := rfl
@[simp] theorem State.setCore_slotAtoms (s : State) (c : Nat) (k : Core) : (s.setCore c k).slotAtoms = s.slotAtoms := rfl
@[simp] theorem State.modCore_slotAtoms (s : State) (c : Nat) (g : Core → Core) : (s.modCore c g).slotAtoms = s.slotAtoms := rfl
@[simp] theorem State.modCC_slotAtoms (s : State) (g : Core → Core) : (s.modCC g).slotAtoms = s.slotAtoms := rfl
@[simp] theorem State.modSq_slotAtoms (s : State) (g : Seq → Seq) : (s.modSq g).slotAtoms = s.slotAtoms := rfl
@[simp] theorem State.mapCores_slotAtoms (s : State) (g : Nat → Core → Core) : (s.mapCores g).slotAtoms = s.slotAtoms := rfl
@[simp] theorem State.modFn_slotAtoms (s : State) (n : Nat) (g : FnRegs → FnRegs) : (s.modFn n g).slotAtoms = s.slotAtoms := rfl
@[simp] theorem State.setPfReg_slotAtoms (s : State) (o : Nat) (v : Word) : (s.setPfReg o v).slotAtoms = s.slotAtoms := rfl
@[simp] theorem State.modLaunch_slotAtoms (s : State) (n : Nat) (g : Launch → Launch) : (s.modLaunch n g).slotAtoms = s.slotAtoms := rfl
@[simp] theorem State.setCore_slotRegs (s : State) (c : Nat) (k : Core) : (s.setCore c k).slotRegs = s.slotRegs := rfl
@[simp] theorem State.modCore_slotRegs (s : State) (c : Nat) (g : Core → Core) : (s.modCore c g).slotRegs = s.slotRegs := rfl
@[simp] theorem State.modCC_slotRegs (s : State) (g : Core → Core) : (s.modCC g).slotRegs = s.slotRegs := rfl
@[simp] theorem State.modSq_slotRegs (s : State) (g : Seq → Seq) : (s.modSq g).slotRegs = s.slotRegs := rfl
@[simp] theorem State.mapCores_slotRegs (s : State) (g : Nat → Core → Core) : (s.mapCores g).slotRegs = s.slotRegs := rfl
@[simp] theorem State.modFn_slotRegs (s : State) (n : Nat) (g : FnRegs → FnRegs) : (s.modFn n g).slotRegs = s.slotRegs := rfl
@[simp] theorem State.setPfReg_slotRegs (s : State) (o : Nat) (v : Word) : (s.setPfReg o v).slotRegs = s.slotRegs := rfl
@[simp] theorem State.modLaunch_slotRegs (s : State) (n : Nat) (g : Launch → Launch) : (s.modLaunch n g).slotRegs = s.slotRegs := rfl
@[simp] theorem State.setCore_turn (s : State) (c : Nat) (k : Core) : (s.setCore c k).turn = s.turn := rfl
@[simp] theorem State.modCore_turn (s : State) (c : Nat) (g : Core → Core) : (s.modCore c g).turn = s.turn := rfl
@[simp] theorem State.modCC_turn (s : State) (g : Core → Core) : (s.modCC g).turn = s.turn := rfl
@[simp] theorem State.modSq_turn (s : State) (g : Seq → Seq) : (s.modSq g).turn = s.turn := rfl
@[simp] theorem State.mapCores_turn (s : State) (g : Nat → Core → Core) : (s.mapCores g).turn = s.turn := rfl
@[simp] theorem State.modFn_turn (s : State) (n : Nat) (g : FnRegs → FnRegs) : (s.modFn n g).turn = s.turn := rfl
@[simp] theorem State.setPfReg_turn (s : State) (o : Nat) (v : Word) : (s.setPfReg o v).turn = s.turn := rfl
@[simp] theorem State.modLaunch_turn (s : State) (n : Nat) (g : Launch → Launch) : (s.modLaunch n g).turn = s.turn := rfl
@[simp] theorem State.setCore_fresh (s : State) (c : Nat) (k : Core) : (s.setCore c k).fresh = s.fresh := rfl
@[simp] theorem State.modCore_fresh (s : State) (c : Nat) (g : Core → Core) : (s.modCore c g).fresh = s.fresh := rfl
@[simp] theorem State.modCC_fresh (s : State) (g : Core → Core) : (s.modCC g).fresh = s.fresh := rfl
@[simp] theorem State.modSq_fresh (s : State) (g : Seq → Seq) : (s.modSq g).fresh = s.fresh := rfl
@[simp] theorem State.mapCores_fresh (s : State) (g : Nat → Core → Core) : (s.mapCores g).fresh = s.fresh := rfl
@[simp] theorem State.modFn_fresh (s : State) (n : Nat) (g : FnRegs → FnRegs) : (s.modFn n g).fresh = s.fresh := rfl
@[simp] theorem State.setPfReg_fresh (s : State) (o : Nat) (v : Word) : (s.setPfReg o v).fresh = s.fresh := rfl
@[simp] theorem State.modLaunch_fresh (s : State) (n : Nat) (g : Launch → Launch) : (s.modLaunch n g).fresh = s.fresh := rfl
@[simp] theorem State.setCore_nextId (s : State) (c : Nat) (k : Core) : (s.setCore c k).nextId = s.nextId := rfl
@[simp] theorem State.modCore_nextId (s : State) (c : Nat) (g : Core → Core) : (s.modCore c g).nextId = s.nextId := rfl
@[simp] theorem State.modCC_nextId (s : State) (g : Core → Core) : (s.modCC g).nextId = s.nextId := rfl
@[simp] theorem State.modSq_nextId (s : State) (g : Seq → Seq) : (s.modSq g).nextId = s.nextId := rfl
@[simp] theorem State.mapCores_nextId (s : State) (g : Nat → Core → Core) : (s.mapCores g).nextId = s.nextId := rfl
@[simp] theorem State.modFn_nextId (s : State) (n : Nat) (g : FnRegs → FnRegs) : (s.modFn n g).nextId = s.nextId := rfl
@[simp] theorem State.setPfReg_nextId (s : State) (o : Nat) (v : Word) : (s.setPfReg o v).nextId = s.nextId := rfl
@[simp] theorem State.modLaunch_nextId (s : State) (n : Nat) (g : Launch → Launch) : (s.modLaunch n g).nextId = s.nextId := rfl
@[simp] theorem State.setCore_nextArr (s : State) (c : Nat) (k : Core) : (s.setCore c k).nextArr = s.nextArr := rfl
@[simp] theorem State.modCore_nextArr (s : State) (c : Nat) (g : Core → Core) : (s.modCore c g).nextArr = s.nextArr := rfl
@[simp] theorem State.modCC_nextArr (s : State) (g : Core → Core) : (s.modCC g).nextArr = s.nextArr := rfl
@[simp] theorem State.modSq_nextArr (s : State) (g : Seq → Seq) : (s.modSq g).nextArr = s.nextArr := rfl
@[simp] theorem State.mapCores_nextArr (s : State) (g : Nat → Core → Core) : (s.mapCores g).nextArr = s.nextArr := rfl
@[simp] theorem State.modFn_nextArr (s : State) (n : Nat) (g : FnRegs → FnRegs) : (s.modFn n g).nextArr = s.nextArr := rfl
@[simp] theorem State.setPfReg_nextArr (s : State) (o : Nat) (v : Word) : (s.setPfReg o v).nextArr = s.nextArr := rfl
@[simp] theorem State.modLaunch_nextArr (s : State) (n : Nat) (g : Launch → Launch) : (s.modLaunch n g).nextArr = s.nextArr := rfl

/-! ## `Core.setSeq`, `Core.modX` -/

@[simp] theorem Core.setSeq_launch (k : Core) (i : SeqId) (q : Seq) : (k.setSeq i q).launch = k.launch := by cases i <;> rfl
@[simp] theorem Core.modSeq_launch (k : Core) (i : SeqId) (g : Seq → Seq) : (k.modSeq i g).launch = k.launch := by cases i <;> rfl
@[simp] theorem Core.modX_launch (k : Core) (g : XUnit → XUnit) : (k.modX g).launch = k.launch := rfl
@[simp] theorem Core.setSeq_rank (k : Core) (i : SeqId) (q : Seq) : (k.setSeq i q).rank = k.rank := by cases i <;> rfl
@[simp] theorem Core.modSeq_rank (k : Core) (i : SeqId) (g : Seq → Seq) : (k.modSeq i g).rank = k.rank := by cases i <;> rfl
@[simp] theorem Core.modX_rank (k : Core) (g : XUnit → XUnit) : (k.modX g).rank = k.rank := rfl
@[simp] theorem Core.setSeq_copy1 (k : Core) (i : SeqId) (q : Seq) : (k.setSeq i q).copy1 = k.copy1 := by cases i <;> rfl
@[simp] theorem Core.modSeq_copy1 (k : Core) (i : SeqId) (g : Seq → Seq) : (k.modSeq i g).copy1 = k.copy1 := by cases i <;> rfl
@[simp] theorem Core.modX_copy1 (k : Core) (g : XUnit → XUnit) : (k.modX g).copy1 = k.copy1 := rfl
@[simp] theorem Core.setSeq_ppre (k : Core) (i : SeqId) (q : Seq) : (k.setSeq i q).ppre = k.ppre := by cases i <;> rfl
@[simp] theorem Core.modSeq_ppre (k : Core) (i : SeqId) (g : Seq → Seq) : (k.modSeq i g).ppre = k.ppre := by cases i <;> rfl
@[simp] theorem Core.modX_ppre (k : Core) (g : XUnit → XUnit) : (k.modX g).ppre = k.ppre := rfl
@[simp] theorem Core.modX_as (k : Core) (g : XUnit → XUnit) : (k.modX g).as = k.as := rfl
@[simp] theorem Core.modX_xs (k : Core) (g : XUnit → XUnit) : (k.modX g).xs = k.xs := rfl
@[simp] theorem Core.setSeq_x (k : Core) (i : SeqId) (q : Seq) : (k.setSeq i q).x = k.x := by cases i <;> rfl
@[simp] theorem Core.modSeq_x (k : Core) (i : SeqId) (g : Seq → Seq) : (k.modSeq i g).x = k.x := by cases i <;> rfl
@[simp] theorem Core.setSeq_q (k : Core) (i : SeqId) (q : Seq) : (k.setSeq i q).q = k.q := by cases i <;> rfl
@[simp] theorem Core.modSeq_q (k : Core) (i : SeqId) (g : Seq → Seq) : (k.modSeq i g).q = k.q := by cases i <;> rfl
@[simp] theorem Core.modX_q (k : Core) (g : XUnit → XUnit) : (k.modX g).q = k.q := rfl
@[simp] theorem Core.setSeq_bqA (k : Core) (i : SeqId) (q : Seq) : (k.setSeq i q).bqA = k.bqA := by cases i <;> rfl
@[simp] theorem Core.modSeq_bqA (k : Core) (i : SeqId) (g : Seq → Seq) : (k.modSeq i g).bqA = k.bqA := by cases i <;> rfl
@[simp] theorem Core.modX_bqA (k : Core) (g : XUnit → XUnit) : (k.modX g).bqA = k.bqA := rfl
@[simp] theorem Core.setSeq_bqX (k : Core) (i : SeqId) (q : Seq) : (k.setSeq i q).bqX = k.bqX := by cases i <;> rfl
@[simp] theorem Core.modSeq_bqX (k : Core) (i : SeqId) (g : Seq → Seq) : (k.modSeq i g).bqX = k.bqX := by cases i <;> rfl
@[simp] theorem Core.modX_bqX (k : Core) (g : XUnit → XUnit) : (k.modX g).bqX = k.bqX := rfl
@[simp] theorem Core.setSeq_bqPois (k : Core) (i : SeqId) (q : Seq) : (k.setSeq i q).bqPois = k.bqPois := by cases i <;> rfl
@[simp] theorem Core.modSeq_bqPois (k : Core) (i : SeqId) (g : Seq → Seq) : (k.modSeq i g).bqPois = k.bqPois := by cases i <;> rfl
@[simp] theorem Core.modX_bqPois (k : Core) (g : XUnit → XUnit) : (k.modX g).bqPois = k.bqPois := rfl
@[simp] theorem Core.setSeq_m (k : Core) (i : SeqId) (q : Seq) : (k.setSeq i q).m = k.m := by cases i <;> rfl
@[simp] theorem Core.modSeq_m (k : Core) (i : SeqId) (g : Seq → Seq) : (k.modSeq i g).m = k.m := by cases i <;> rfl
@[simp] theorem Core.modX_m (k : Core) (g : XUnit → XUnit) : (k.modX g).m = k.m := rfl
@[simp] theorem Core.setSeq_mSec (k : Core) (i : SeqId) (q : Seq) : (k.setSeq i q).mSec = k.mSec := by cases i <;> rfl
@[simp] theorem Core.modSeq_mSec (k : Core) (i : SeqId) (g : Seq → Seq) : (k.modSeq i g).mSec = k.mSec := by cases i <;> rfl
@[simp] theorem Core.modX_mSec (k : Core) (g : XUnit → XUnit) : (k.modX g).mSec = k.mSec := rfl
@[simp] theorem Core.setSeq_mPois (k : Core) (i : SeqId) (q : Seq) : (k.setSeq i q).mPois = k.mPois := by cases i <;> rfl
@[simp] theorem Core.modSeq_mPois (k : Core) (i : SeqId) (g : Seq → Seq) : (k.modSeq i g).mPois = k.mPois := by cases i <;> rfl
@[simp] theorem Core.modX_mPois (k : Core) (g : XUnit → XUnit) : (k.modX g).mPois = k.mPois := rfl
@[simp] theorem Core.setSeq_cs (k : Core) (i : SeqId) (q : Seq) : (k.setSeq i q).cs = k.cs := by cases i <;> rfl
@[simp] theorem Core.modSeq_cs (k : Core) (i : SeqId) (g : Seq → Seq) : (k.modSeq i g).cs = k.cs := by cases i <;> rfl
@[simp] theorem Core.modX_cs (k : Core) (g : XUnit → XUnit) : (k.modX g).cs = k.cs := rfl
@[simp] theorem Core.setSeq_savePois (k : Core) (i : SeqId) (q : Seq) : (k.setSeq i q).savePois = k.savePois := by cases i <;> rfl
@[simp] theorem Core.modSeq_savePois (k : Core) (i : SeqId) (g : Seq → Seq) : (k.modSeq i g).savePois = k.savePois := by cases i <;> rfl
@[simp] theorem Core.modX_savePois (k : Core) (g : XUnit → XUnit) : (k.modX g).savePois = k.savePois := rfl
@[simp] theorem Core.setSeq_nestSec (k : Core) (i : SeqId) (q : Seq) : (k.setSeq i q).nestSec = k.nestSec := by cases i <;> rfl
@[simp] theorem Core.modSeq_nestSec (k : Core) (i : SeqId) (g : Seq → Seq) : (k.modSeq i g).nestSec = k.nestSec := by cases i <;> rfl
@[simp] theorem Core.modX_nestSec (k : Core) (g : XUnit → XUnit) : (k.modX g).nestSec = k.nestSec := rfl
@[simp] theorem Core.setSeq_kSec (k : Core) (i : SeqId) (q : Seq) : (k.setSeq i q).kSec = k.kSec := by cases i <;> rfl
@[simp] theorem Core.modSeq_kSec (k : Core) (i : SeqId) (g : Seq → Seq) : (k.modSeq i g).kSec = k.kSec := by cases i <;> rfl
@[simp] theorem Core.modX_kSec (k : Core) (g : XUnit → XUnit) : (k.modX g).kSec = k.kSec := rfl
@[simp] theorem Core.setSeq_tileSec (k : Core) (i : SeqId) (q : Seq) : (k.setSeq i q).tileSec = k.tileSec := by cases i <;> rfl
@[simp] theorem Core.modSeq_tileSec (k : Core) (i : SeqId) (g : Seq → Seq) : (k.modSeq i g).tileSec = k.tileSec := by cases i <;> rfl
@[simp] theorem Core.modX_tileSec (k : Core) (g : XUnit → XUnit) : (k.modX g).tileSec = k.tileSec := rfl
@[simp] theorem Core.setSeq_kPois (k : Core) (i : SeqId) (q : Seq) : (k.setSeq i q).kPois = k.kPois := by cases i <;> rfl
@[simp] theorem Core.modSeq_kPois (k : Core) (i : SeqId) (g : Seq → Seq) : (k.modSeq i g).kPois = k.kPois := by cases i <;> rfl
@[simp] theorem Core.modX_kPois (k : Core) (g : XUnit → XUnit) : (k.modX g).kPois = k.kPois := rfl
@[simp] theorem Core.setSeq_k (k : Core) (i : SeqId) (q : Seq) : (k.setSeq i q).k = k.k := by cases i <;> rfl
@[simp] theorem Core.modSeq_k (k : Core) (i : SeqId) (g : Seq → Seq) : (k.modSeq i g).k = k.k := by cases i <;> rfl
@[simp] theorem Core.modX_k (k : Core) (g : XUnit → XUnit) : (k.modX g).k = k.k := rfl
@[simp] theorem Core.setSeq_tiles (k : Core) (i : SeqId) (q : Seq) : (k.setSeq i q).tiles = k.tiles := by cases i <;> rfl
@[simp] theorem Core.modSeq_tiles (k : Core) (i : SeqId) (g : Seq → Seq) : (k.modSeq i g).tiles = k.tiles := by cases i <;> rfl
@[simp] theorem Core.modX_tiles (k : Core) (g : XUnit → XUnit) : (k.modX g).tiles = k.tiles := rfl
@[simp] theorem Core.setSeq_tilePois (k : Core) (i : SeqId) (q : Seq) : (k.setSeq i q).tilePois = k.tilePois := by cases i <;> rfl
@[simp] theorem Core.modSeq_tilePois (k : Core) (i : SeqId) (g : Seq → Seq) : (k.modSeq i g).tilePois = k.tilePois := by cases i <;> rfl
@[simp] theorem Core.modX_tilePois (k : Core) (g : XUnit → XUnit) : (k.modX g).tilePois = k.tilePois := rfl
@[simp] theorem Core.setSeq_vault (k : Core) (i : SeqId) (q : Seq) : (k.setSeq i q).vault = k.vault := by cases i <;> rfl
@[simp] theorem Core.modSeq_vault (k : Core) (i : SeqId) (g : Seq → Seq) : (k.modSeq i g).vault = k.vault := by cases i <;> rfl
@[simp] theorem Core.modX_vault (k : Core) (g : XUnit → XUnit) : (k.modX g).vault = k.vault := rfl
@[simp] theorem Core.setSeq_bfmt (k : Core) (i : SeqId) (q : Seq) : (k.setSeq i q).bfmt = k.bfmt := by cases i <;> rfl
@[simp] theorem Core.modSeq_bfmt (k : Core) (i : SeqId) (g : Seq → Seq) : (k.modSeq i g).bfmt = k.bfmt := by cases i <;> rfl
@[simp] theorem Core.modX_bfmt (k : Core) (g : XUnit → XUnit) : (k.modX g).bfmt = k.bfmt := rfl
@[simp] theorem Core.setSeq_xbase (k : Core) (i : SeqId) (q : Seq) : (k.setSeq i q).xbase = k.xbase := by cases i <;> rfl
@[simp] theorem Core.modSeq_xbase (k : Core) (i : SeqId) (g : Seq → Seq) : (k.modSeq i g).xbase = k.xbase := by cases i <;> rfl
@[simp] theorem Core.modX_xbase (k : Core) (g : XUnit → XUnit) : (k.modX g).xbase = k.xbase := rfl
@[simp] theorem Core.setSeq_xctl (k : Core) (i : SeqId) (q : Seq) : (k.setSeq i q).xctl = k.xctl := by cases i <;> rfl
@[simp] theorem Core.modSeq_xctl (k : Core) (i : SeqId) (g : Seq → Seq) : (k.modSeq i g).xctl = k.xctl := by cases i <;> rfl
@[simp] theorem Core.modX_xctl (k : Core) (g : XUnit → XUnit) : (k.modX g).xctl = k.xctl := rfl
@[simp] theorem Core.setSeq_vcapSel (k : Core) (i : SeqId) (q : Seq) : (k.setSeq i q).vcapSel = k.vcapSel := by cases i <;> rfl
@[simp] theorem Core.modSeq_vcapSel (k : Core) (i : SeqId) (g : Seq → Seq) : (k.modSeq i g).vcapSel = k.vcapSel := by cases i <;> rfl
@[simp] theorem Core.modX_vcapSel (k : Core) (g : XUnit → XUnit) : (k.modX g).vcapSel = k.vcapSel := rfl
@[simp] theorem Core.setSeq_vhealth (k : Core) (i : SeqId) (q : Seq) : (k.setSeq i q).vhealth = k.vhealth := by cases i <;> rfl
@[simp] theorem Core.modSeq_vhealth (k : Core) (i : SeqId) (g : Seq → Seq) : (k.modSeq i g).vhealth = k.vhealth := by cases i <;> rfl
@[simp] theorem Core.modX_vhealth (k : Core) (g : XUnit → XUnit) : (k.modX g).vhealth = k.vhealth := rfl
@[simp] theorem Core.setSeq_rowmv (k : Core) (i : SeqId) (q : Seq) : (k.setSeq i q).rowmv = k.rowmv := by cases i <;> rfl
@[simp] theorem Core.modSeq_rowmv (k : Core) (i : SeqId) (g : Seq → Seq) : (k.modSeq i g).rowmv = k.rowmv := by cases i <;> rfl
@[simp] theorem Core.modX_rowmv (k : Core) (g : XUnit → XUnit) : (k.modX g).rowmv = k.rowmv := rfl
@[simp] theorem Core.setSeq_rowRes (k : Core) (i : SeqId) (q : Seq) : (k.setSeq i q).rowRes = k.rowRes := by cases i <;> rfl
@[simp] theorem Core.modSeq_rowRes (k : Core) (i : SeqId) (g : Seq → Seq) : (k.modSeq i g).rowRes = k.rowRes := by cases i <;> rfl
@[simp] theorem Core.modX_rowRes (k : Core) (g : XUnit → XUnit) : (k.modX g).rowRes = k.rowRes := rfl
@[simp] theorem Core.setSeq_rowPtr (k : Core) (i : SeqId) (q : Seq) : (k.setSeq i q).rowPtr = k.rowPtr := by cases i <;> rfl
@[simp] theorem Core.modSeq_rowPtr (k : Core) (i : SeqId) (g : Seq → Seq) : (k.modSeq i g).rowPtr = k.rowPtr := by cases i <;> rfl
@[simp] theorem Core.modX_rowPtr (k : Core) (g : XUnit → XUnit) : (k.modX g).rowPtr = k.rowPtr := rfl
@[simp] theorem Core.setSeq_rowGo (k : Core) (i : SeqId) (q : Seq) : (k.setSeq i q).rowGo = k.rowGo := by cases i <;> rfl
@[simp] theorem Core.modSeq_rowGo (k : Core) (i : SeqId) (g : Seq → Seq) : (k.modSeq i g).rowGo = k.rowGo := by cases i <;> rfl
@[simp] theorem Core.modX_rowGo (k : Core) (g : XUnit → XUnit) : (k.modX g).rowGo = k.rowGo := rfl
@[simp] theorem Core.setSeq_rowEvac (k : Core) (i : SeqId) (q : Seq) : (k.setSeq i q).rowEvac = k.rowEvac := by cases i <;> rfl
@[simp] theorem Core.modSeq_rowEvac (k : Core) (i : SeqId) (g : Seq → Seq) : (k.modSeq i g).rowEvac = k.rowEvac := by cases i <;> rfl
@[simp] theorem Core.modX_rowEvac (k : Core) (g : XUnit → XUnit) : (k.modX g).rowEvac = k.rowEvac := rfl
@[simp] theorem Core.setSeq_sysSec (k : Core) (i : SeqId) (q : Seq) : (k.setSeq i q).sysSec = k.sysSec := by cases i <;> rfl
@[simp] theorem Core.modSeq_sysSec (k : Core) (i : SeqId) (g : Seq → Seq) : (k.modSeq i g).sysSec = k.sysSec := by cases i <;> rfl
@[simp] theorem Core.modX_sysSec (k : Core) (g : XUnit → XUnit) : (k.modX g).sysSec = k.sysSec := rfl
@[simp] theorem Core.setSeq_eerr0 (k : Core) (i : SeqId) (q : Seq) : (k.setSeq i q).eerr0 = k.eerr0 := by cases i <;> rfl
@[simp] theorem Core.modSeq_eerr0 (k : Core) (i : SeqId) (g : Seq → Seq) : (k.modSeq i g).eerr0 = k.eerr0 := by cases i <;> rfl
@[simp] theorem Core.modX_eerr0 (k : Core) (g : XUnit → XUnit) : (k.modX g).eerr0 = k.eerr0 := rfl
@[simp] theorem Core.setSeq_eerr1 (k : Core) (i : SeqId) (q : Seq) : (k.setSeq i q).eerr1 = k.eerr1 := by cases i <;> rfl
@[simp] theorem Core.modSeq_eerr1 (k : Core) (i : SeqId) (g : Seq → Seq) : (k.modSeq i g).eerr1 = k.eerr1 := by cases i <;> rfl
@[simp] theorem Core.modX_eerr1 (k : Core) (g : XUnit → XUnit) : (k.modX g).eerr1 = k.eerr1 := rfl
@[simp] theorem Core.setSeq_ferr (k : Core) (i : SeqId) (q : Seq) : (k.setSeq i q).ferr = k.ferr := by cases i <;> rfl
@[simp] theorem Core.modSeq_ferr (k : Core) (i : SeqId) (g : Seq → Seq) : (k.modSeq i g).ferr = k.ferr := by cases i <;> rfl
@[simp] theorem Core.modX_ferr (k : Core) (g : XUnit → XUnit) : (k.modX g).ferr = k.ferr := rfl
@[simp] theorem Core.setSeq_cnt (k : Core) (i : SeqId) (q : Seq) : (k.setSeq i q).cnt = k.cnt := by cases i <;> rfl
@[simp] theorem Core.modSeq_cnt (k : Core) (i : SeqId) (g : Seq → Seq) : (k.modSeq i g).cnt = k.cnt := by cases i <;> rfl
@[simp] theorem Core.modX_cnt (k : Core) (g : XUnit → XUnit) : (k.modX g).cnt = k.cnt := rfl
@[simp] theorem Core.setSeq_cntcfg (k : Core) (i : SeqId) (q : Seq) : (k.setSeq i q).cntcfg = k.cntcfg := by cases i <;> rfl
@[simp] theorem Core.modSeq_cntcfg (k : Core) (i : SeqId) (g : Seq → Seq) : (k.modSeq i g).cntcfg = k.cntcfg := by cases i <;> rfl
@[simp] theorem Core.modX_cntcfg (k : Core) (g : XUnit → XUnit) : (k.modX g).cntcfg = k.cntcfg := rfl
@[simp] theorem Core.setSeq_wrapped (k : Core) (i : SeqId) (q : Seq) : (k.setSeq i q).wrapped = k.wrapped := by cases i <;> rfl
@[simp] theorem Core.modSeq_wrapped (k : Core) (i : SeqId) (g : Seq → Seq) : (k.modSeq i g).wrapped = k.wrapped := by cases i <;> rfl
@[simp] theorem Core.modX_wrapped (k : Core) (g : XUnit → XUnit) : (k.modX g).wrapped = k.wrapped := rfl
@[simp] theorem Core.setSeq_slotSeen (k : Core) (i : SeqId) (q : Seq) : (k.setSeq i q).slotSeen = k.slotSeen := by cases i <;> rfl
@[simp] theorem Core.modSeq_slotSeen (k : Core) (i : SeqId) (g : Seq → Seq) : (k.modSeq i g).slotSeen = k.slotSeen := by cases i <;> rfl
@[simp] theorem Core.modX_slotSeen (k : Core) (g : XUnit → XUnit) : (k.modX g).slotSeen = k.slotSeen := rfl
@[simp] theorem Core.setSeq_nest (k : Core) (i : SeqId) (q : Seq) : (k.setSeq i q).nest = k.nest := by cases i <;> rfl
@[simp] theorem Core.modSeq_nest (k : Core) (i : SeqId) (g : Seq → Seq) : (k.modSeq i g).nest = k.nest := by cases i <;> rfl
@[simp] theorem Core.modX_nest (k : Core) (g : XUnit → XUnit) : (k.modX g).nest = k.nest := rfl
@[simp] theorem Core.setSeq_cgen (k : Core) (i : SeqId) (q : Seq) : (k.setSeq i q).cgen = k.cgen := by cases i <;> rfl
@[simp] theorem Core.modSeq_cgen (k : Core) (i : SeqId) (g : Seq → Seq) : (k.modSeq i g).cgen = k.cgen := by cases i <;> rfl
@[simp] theorem Core.modX_cgen (k : Core) (g : XUnit → XUnit) : (k.modX g).cgen = k.cgen := rfl
@[simp] theorem Core.setSeq_ggen (k : Core) (i : SeqId) (q : Seq) : (k.setSeq i q).ggen = k.ggen := by cases i <;> rfl
@[simp] theorem Core.modSeq_ggen (k : Core) (i : SeqId) (g : Seq → Seq) : (k.modSeq i g).ggen = k.ggen := by cases i <;> rfl
@[simp] theorem Core.modX_ggen (k : Core) (g : XUnit → XUnit) : (k.modX g).ggen = k.ggen := rfl
@[simp] theorem Core.setSeq_copyQ (k : Core) (i : SeqId) (q : Seq) : (k.setSeq i q).copyQ = k.copyQ := by cases i <;> rfl
@[simp] theorem Core.modSeq_copyQ (k : Core) (i : SeqId) (g : Seq → Seq) : (k.modSeq i g).copyQ = k.copyQ := by cases i <;> rfl
@[simp] theorem Core.modX_copyQ (k : Core) (g : XUnit → XUnit) : (k.modX g).copyQ = k.copyQ := rfl
@[simp] theorem Core.setSeq_gathQ (k : Core) (i : SeqId) (q : Seq) : (k.setSeq i q).gathQ = k.gathQ := by cases i <;> rfl
@[simp] theorem Core.modSeq_gathQ (k : Core) (i : SeqId) (g : Seq → Seq) : (k.modSeq i g).gathQ = k.gathQ := by cases i <;> rfl
@[simp] theorem Core.modX_gathQ (k : Core) (g : XUnit → XUnit) : (k.modX g).gathQ = k.gathQ := rfl
@[simp] theorem Core.setSeq_matQ (k : Core) (i : SeqId) (q : Seq) : (k.setSeq i q).matQ = k.matQ := by cases i <;> rfl
@[simp] theorem Core.modSeq_matQ (k : Core) (i : SeqId) (g : Seq → Seq) : (k.modSeq i g).matQ = k.matQ := by cases i <;> rfl
@[simp] theorem Core.modX_matQ (k : Core) (g : XUnit → XUnit) : (k.modX g).matQ = k.matQ := rfl
@[simp] theorem Core.setSeq_mgen (k : Core) (i : SeqId) (q : Seq) : (k.setSeq i q).mgen = k.mgen := by cases i <;> rfl
@[simp] theorem Core.modSeq_mgen (k : Core) (i : SeqId) (g : Seq → Seq) : (k.modSeq i g).mgen = k.mgen := by cases i <;> rfl
@[simp] theorem Core.modX_mgen (k : Core) (g : XUnit → XUnit) : (k.modX g).mgen = k.mgen := rfl
@[simp] theorem Core.setSeq_grant (k : Core) (i : SeqId) (q : Seq) : (k.setSeq i q).grant = k.grant := by cases i <;> rfl
@[simp] theorem Core.modSeq_grant (k : Core) (i : SeqId) (g : Seq → Seq) : (k.modSeq i g).grant = k.grant := by cases i <;> rfl
@[simp] theorem Core.modX_grant (k : Core) (g : XUnit → XUnit) : (k.modX g).grant = k.grant := rfl
@[simp] theorem Core.setSeq_shadow (k : Core) (i : SeqId) (q : Seq) : (k.setSeq i q).shadow = k.shadow := by cases i <;> rfl
@[simp] theorem Core.modSeq_shadow (k : Core) (i : SeqId) (g : Seq → Seq) : (k.modSeq i g).shadow = k.shadow := by cases i <;> rfl
@[simp] theorem Core.modX_shadow (k : Core) (g : XUnit → XUnit) : (k.modX g).shadow = k.shadow := rfl
@[simp] theorem Core.setSeq_active (k : Core) (i : SeqId) (q : Seq) : (k.setSeq i q).active = k.active := by cases i <;> rfl
@[simp] theorem Core.modSeq_active (k : Core) (i : SeqId) (g : Seq → Seq) : (k.modSeq i g).active = k.active := by cases i <;> rfl
@[simp] theorem Core.modX_active (k : Core) (g : XUnit → XUnit) : (k.modX g).active = k.active := rfl
@[simp] theorem Core.setSeq_acc (k : Core) (i : SeqId) (q : Seq) : (k.setSeq i q).acc = k.acc := by cases i <;> rfl
@[simp] theorem Core.modSeq_acc (k : Core) (i : SeqId) (g : Seq → Seq) : (k.modSeq i g).acc = k.acc := by cases i <;> rfl
@[simp] theorem Core.modX_acc (k : Core) (g : XUnit → XUnit) : (k.modX g).acc = k.acc := rfl
@[simp] theorem Core.setSeq_accSec (k : Core) (i : SeqId) (q : Seq) : (k.setSeq i q).accSec = k.accSec := by cases i <;> rfl
@[simp] theorem Core.modSeq_accSec (k : Core) (i : SeqId) (g : Seq → Seq) : (k.modSeq i g).accSec = k.accSec := by cases i <;> rfl
@[simp] theorem Core.modX_accSec (k : Core) (g : XUnit → XUnit) : (k.modX g).accSec = k.accSec := rfl
@[simp] theorem Core.setSeq_binds (k : Core) (i : SeqId) (q : Seq) : (k.setSeq i q).binds = k.binds := by cases i <;> rfl
@[simp] theorem Core.modSeq_binds (k : Core) (i : SeqId) (g : Seq → Seq) : (k.modSeq i g).binds = k.binds := by cases i <;> rfl
@[simp] theorem Core.modX_binds (k : Core) (g : XUnit → XUnit) : (k.modX g).binds = k.binds := rfl
@[simp] theorem Core.setSeq_bindNow (k : Core) (i : SeqId) (q : Seq) : (k.setSeq i q).bindNow = k.bindNow := by cases i <;> rfl
@[simp] theorem Core.modSeq_bindNow (k : Core) (i : SeqId) (g : Seq → Seq) : (k.modSeq i g).bindNow = k.bindNow := by cases i <;> rfl
@[simp] theorem Core.modX_bindNow (k : Core) (g : XUnit → XUnit) : (k.modX g).bindNow = k.bindNow := rfl
@[simp] theorem Core.setSeq_pins (k : Core) (i : SeqId) (q : Seq) : (k.setSeq i q).pins = k.pins := by cases i <;> rfl
@[simp] theorem Core.modSeq_pins (k : Core) (i : SeqId) (g : Seq → Seq) : (k.modSeq i g).pins = k.pins := by cases i <;> rfl
@[simp] theorem Core.modX_pins (k : Core) (g : XUnit → XUnit) : (k.modX g).pins = k.pins := rfl
@[simp] theorem Core.setSeq_lands (k : Core) (i : SeqId) (q : Seq) : (k.setSeq i q).lands = k.lands := by cases i <;> rfl
@[simp] theorem Core.modSeq_lands (k : Core) (i : SeqId) (g : Seq → Seq) : (k.modSeq i g).lands = k.lands := by cases i <;> rfl
@[simp] theorem Core.modX_lands (k : Core) (g : XUnit → XUnit) : (k.modX g).lands = k.lands := rfl
@[simp] theorem Core.setSeq_phase (k : Core) (i : SeqId) (q : Seq) : (k.setSeq i q).phase = k.phase := by cases i <;> rfl
@[simp] theorem Core.modSeq_phase (k : Core) (i : SeqId) (g : Seq → Seq) : (k.modSeq i g).phase = k.phase := by cases i <;> rfl
@[simp] theorem Core.modX_phase (k : Core) (g : XUnit → XUnit) : (k.modX g).phase = k.phase := rfl
@[simp] theorem Core.setSeq_filledC (k : Core) (i : SeqId) (q : Seq) : (k.setSeq i q).filledC = k.filledC := by cases i <;> rfl
@[simp] theorem Core.modSeq_filledC (k : Core) (i : SeqId) (g : Seq → Seq) : (k.modSeq i g).filledC = k.filledC := by cases i <;> rfl
@[simp] theorem Core.modX_filledC (k : Core) (g : XUnit → XUnit) : (k.modX g).filledC = k.filledC := rfl
@[simp] theorem Core.setSeq_filledG (k : Core) (i : SeqId) (q : Seq) : (k.setSeq i q).filledG = k.filledG := by cases i <;> rfl
@[simp] theorem Core.modSeq_filledG (k : Core) (i : SeqId) (g : Seq → Seq) : (k.modSeq i g).filledG = k.filledG := by cases i <;> rfl
@[simp] theorem Core.modX_filledG (k : Core) (g : XUnit → XUnit) : (k.modX g).filledG = k.filledG := rfl
@[simp] theorem Core.setSeq_tlb (k : Core) (i : SeqId) (q : Seq) : (k.setSeq i q).tlb = k.tlb := by cases i <;> rfl
@[simp] theorem Core.modSeq_tlb (k : Core) (i : SeqId) (g : Seq → Seq) : (k.modSeq i g).tlb = k.tlb := by cases i <;> rfl
@[simp] theorem Core.modX_tlb (k : Core) (g : XUnit → XUnit) : (k.modX g).tlb = k.tlb := rfl
@[simp] theorem Core.setSeq_replays (k : Core) (i : SeqId) (q : Seq) : (k.setSeq i q).replays = k.replays := by cases i <;> rfl
@[simp] theorem Core.modSeq_replays (k : Core) (i : SeqId) (g : Seq → Seq) : (k.modSeq i g).replays = k.replays := by cases i <;> rfl
@[simp] theorem Core.modX_replays (k : Core) (g : XUnit → XUnit) : (k.modX g).replays = k.replays := rfl
@[simp] theorem Core.setSeq_replaySince (k : Core) (i : SeqId) (q : Seq) : (k.setSeq i q).replaySince = k.replaySince := by cases i <;> rfl
@[simp] theorem Core.modSeq_replaySince (k : Core) (i : SeqId) (g : Seq → Seq) : (k.modSeq i g).replaySince = k.replaySince := by cases i <;> rfl
@[simp] theorem Core.modX_replaySince (k : Core) (g : XUnit → XUnit) : (k.modX g).replaySince = k.replaySince := rfl
@[simp] theorem Core.setSeq_ticket (k : Core) (i : SeqId) (q : Seq) : (k.setSeq i q).ticket = k.ticket := by cases i <;> rfl
@[simp] theorem Core.modSeq_ticket (k : Core) (i : SeqId) (g : Seq → Seq) : (k.modSeq i g).ticket = k.ticket := by cases i <;> rfl
@[simp] theorem Core.modX_ticket (k : Core) (g : XUnit → XUnit) : (k.modX g).ticket = k.ticket := rfl
@[simp] theorem Core.setSeq_beats (k : Core) (i : SeqId) (q : Seq) : (k.setSeq i q).beats = k.beats := by cases i <;> rfl
@[simp] theorem Core.modSeq_beats (k : Core) (i : SeqId) (g : Seq → Seq) : (k.modSeq i g).beats = k.beats := by cases i <;> rfl
@[simp] theorem Core.modX_beats (k : Core) (g : XUnit → XUnit) : (k.modX g).beats = k.beats := rfl
@[simp] theorem Core.setSeq_beatLost (k : Core) (i : SeqId) (q : Seq) : (k.setSeq i q).beatLost = k.beatLost := by cases i <;> rfl
@[simp] theorem Core.modSeq_beatLost (k : Core) (i : SeqId) (g : Seq → Seq) : (k.modSeq i g).beatLost = k.beatLost := by cases i <;> rfl
@[simp] theorem Core.modX_beatLost (k : Core) (g : XUnit → XUnit) : (k.modX g).beatLost = k.beatLost := rfl
@[simp] theorem Core.modX_x (k : Core) (g : XUnit → XUnit) : (k.modX g).x = g k.x := rfl

/-! ## `Seq.ws`, `Seq.wf` -/

@[simp] theorem Seq.wf_s (q : Seq) (r : Fin 8) (v : Bool) : (q.wf r v).s = q.s := by unfold Seq.wf; split <;> rfl
@[simp] theorem Seq.ws_f (q : Seq) (r : Fin 32) (v : Word) : (q.ws r v).f = q.f := by unfold Seq.ws; split <;> rfl
@[simp] theorem Seq.ws_pc (q : Seq) (r : Fin 32) (v : Word) : (q.ws r v).pc = q.pc := by unfold Seq.ws; split <;> rfl
@[simp] theorem Seq.wf_pc (q : Seq) (r : Fin 8) (v : Bool) : (q.wf r v).pc = q.pc := by unfold Seq.wf; split <;> rfl
@[simp] theorem Seq.ws_mode (q : Seq) (r : Fin 32) (v : Word) : (q.ws r v).mode = q.mode := by unfold Seq.ws; split <;> rfl
@[simp] theorem Seq.wf_mode (q : Seq) (r : Fin 8) (v : Bool) : (q.wf r v).mode = q.mode := by unfold Seq.wf; split <;> rfl
@[simp] theorem Seq.ws_pmode (q : Seq) (r : Fin 32) (v : Word) : (q.ws r v).pmode = q.pmode := by unfold Seq.ws; split <;> rfl
@[simp] theorem Seq.wf_pmode (q : Seq) (r : Fin 8) (v : Bool) : (q.wf r v).pmode = q.pmode := by unfold Seq.wf; split <;> rfl
@[simp] theorem Seq.ws_inh (q : Seq) (r : Fin 32) (v : Word) : (q.ws r v).inh = q.inh := by unfold Seq.ws; split <;> rfl
@[simp] theorem Seq.wf_inh (q : Seq) (r : Fin 8) (v : Bool) : (q.wf r v).inh = q.inh := by unfold Seq.wf; split <;> rfl
@[simp] theorem Seq.ws_epc (q : Seq) (r : Fin 32) (v : Word) : (q.ws r v).epc = q.epc := by unfold Seq.ws; split <;> rfl
@[simp] theorem Seq.wf_epc (q : Seq) (r : Fin 8) (v : Bool) : (q.wf r v).epc = q.epc := by unfold Seq.wf; split <;> rfl
@[simp] theorem Seq.ws_ecause (q : Seq) (r : Fin 32) (v : Word) : (q.ws r v).ecause = q.ecause := by unfold Seq.ws; split <;> rfl
@[simp] theorem Seq.wf_ecause (q : Seq) (r : Fin 8) (v : Bool) : (q.wf r v).ecause = q.ecause := by unfold Seq.wf; split <;> rfl
@[simp] theorem Seq.ws_einfo0 (q : Seq) (r : Fin 32) (v : Word) : (q.ws r v).einfo0 = q.einfo0 := by unfold Seq.ws; split <;> rfl
@[simp] theorem Seq.wf_einfo0 (q : Seq) (r : Fin 8) (v : Bool) : (q.wf r v).einfo0 = q.einfo0 := by unfold Seq.wf; split <;> rfl
@[simp] theorem Seq.ws_einfo1 (q : Seq) (r : Fin 32) (v : Word) : (q.ws r v).einfo1 = q.einfo1 := by unfold Seq.ws; split <;> rfl
@[simp] theorem Seq.wf_einfo1 (q : Seq) (r : Fin 8) (v : Bool) : (q.wf r v).einfo1 = q.einfo1 := by unfold Seq.wf; split <;> rfl
@[simp] theorem Seq.ws_tvec (q : Seq) (r : Fin 32) (v : Word) : (q.ws r v).tvec = q.tvec := by unfold Seq.ws; split <;> rfl
@[simp] theorem Seq.wf_tvec (q : Seq) (r : Fin 8) (v : Bool) : (q.wf r v).tvec = q.tvec := by unfold Seq.wf; split <;> rfl
@[simp] theorem Seq.ws_esave (q : Seq) (r : Fin 32) (v : Word) : (q.ws r v).esave = q.esave := by unfold Seq.ws; split <;> rfl
@[simp] theorem Seq.wf_esave (q : Seq) (r : Fin 8) (v : Bool) : (q.wf r v).esave = q.esave := by unfold Seq.wf; split <;> rfl
@[simp] theorem Seq.ws_run (q : Seq) (r : Fin 32) (v : Word) : (q.ws r v).run = q.run := by unfold Seq.ws; split <;> rfl
@[simp] theorem Seq.wf_run (q : Seq) (r : Fin 8) (v : Bool) : (q.wf r v).run = q.run := by unfold Seq.wf; split <;> rfl
@[simp] theorem Seq.ws_pend (q : Seq) (r : Fin 32) (v : Word) : (q.ws r v).pend = q.pend := by unfold Seq.ws; split <;> rfl
@[simp] theorem Seq.wf_pend (q : Seq) (r : Fin 8) (v : Bool) : (q.wf r v).pend = q.pend := by unfold Seq.wf; split <;> rfl
@[simp] theorem Seq.ws_results (q : Seq) (r : Fin 32) (v : Word) : (q.ws r v).results = q.results := by unfold Seq.ws; split <;> rfl
@[simp] theorem Seq.wf_results (q : Seq) (r : Fin 8) (v : Bool) : (q.wf r v).results = q.results := by unfold Seq.wf; split <;> rfl
@[simp] theorem Seq.ws_wait (q : Seq) (r : Fin 32) (v : Word) : (q.ws r v).wait = q.wait := by unfold Seq.ws; split <;> rfl
@[simp] theorem Seq.wf_wait (q : Seq) (r : Fin 8) (v : Bool) : (q.wf r v).wait = q.wait := by unfold Seq.wf; split <;> rfl
@[simp] theorem Seq.ws_fences (q : Seq) (r : Fin 32) (v : Word) : (q.ws r v).fences = q.fences := by unfold Seq.ws; split <;> rfl
@[simp] theorem Seq.wf_fences (q : Seq) (r : Fin 8) (v : Bool) : (q.wf r v).fences = q.fences := by unfold Seq.wf; split <;> rfl
@[simp] theorem Seq.ws_barShape (q : Seq) (r : Fin 32) (v : Word) : (q.ws r v).barShape = q.barShape := by unfold Seq.ws; split <;> rfl
@[simp] theorem Seq.wf_barShape (q : Seq) (r : Fin 8) (v : Bool) : (q.wf r v).barShape = q.barShape := by unfold Seq.wf; split <;> rfl
@[simp] theorem Seq.ws_stall (q : Seq) (r : Fin 32) (v : Word) : (q.ws r v).stall = q.stall := by unfold Seq.ws; split <;> rfl
@[simp] theorem Seq.wf_stall (q : Seq) (r : Fin 8) (v : Bool) : (q.wf r v).stall = q.stall := by unfold Seq.wf; split <;> rfl
@[simp] theorem Seq.ws_sSec (q : Seq) (r : Fin 32) (v : Word) : (q.ws r v).sSec = q.sSec := by unfold Seq.ws; split <;> rfl
@[simp] theorem Seq.wf_sSec (q : Seq) (r : Fin 8) (v : Bool) : (q.wf r v).sSec = q.sSec := by unfold Seq.wf; split <;> rfl
@[simp] theorem Seq.ws_fSec (q : Seq) (r : Fin 32) (v : Word) : (q.ws r v).fSec = q.fSec := by unfold Seq.ws; split <;> rfl
@[simp] theorem Seq.wf_fSec (q : Seq) (r : Fin 8) (v : Bool) : (q.wf r v).fSec = q.fSec := by unfold Seq.wf; split <;> rfl
@[simp] theorem Seq.ws_sPois (q : Seq) (r : Fin 32) (v : Word) : (q.ws r v).sPois = q.sPois := by unfold Seq.ws; split <;> rfl
@[simp] theorem Seq.wf_sPois (q : Seq) (r : Fin 8) (v : Bool) : (q.wf r v).sPois = q.sPois := by unfold Seq.wf; split <;> rfl
@[simp] theorem Seq.ws_fPois (q : Seq) (r : Fin 32) (v : Word) : (q.ws r v).fPois = q.fPois := by unfold Seq.ws; split <;> rfl
@[simp] theorem Seq.wf_fPois (q : Seq) (r : Fin 8) (v : Bool) : (q.wf r v).fPois = q.fPois := by unfold Seq.wf; split <;> rfl
@[simp] theorem Seq.ws_sysSec (q : Seq) (r : Fin 32) (v : Word) : (q.ws r v).sysSec = q.sysSec := by unfold Seq.ws; split <;> rfl
@[simp] theorem Seq.wf_sysSec (q : Seq) (r : Fin 8) (v : Bool) : (q.wf r v).sysSec = q.sysSec := by unfold Seq.wf; split <;> rfl
@[simp] theorem Seq.ws_resumed (q : Seq) (r : Fin 32) (v : Word) : (q.ws r v).resumed = q.resumed := by unfold Seq.ws; split <;> rfl
@[simp] theorem Seq.wf_resumed (q : Seq) (r : Fin 8) (v : Bool) : (q.wf r v).resumed = q.resumed := by unfold Seq.wf; split <;> rfl
@[simp] theorem Seq.ws_icache (q : Seq) (r : Fin 32) (v : Word) : (q.ws r v).icache = q.icache := by unfold Seq.ws; split <;> rfl
@[simp] theorem Seq.wf_icache (q : Seq) (r : Fin 8) (v : Bool) : (q.wf r v).icache = q.icache := by unfold Seq.wf; split <;> rfl

/-! ## `XUnit.wv`, `XUnit.wp` -/

@[simp] theorem XUnit.wp_v (x : XUnit) (r : Fin 16) (v : BitVec 1024) : (x.wp r v).v = x.v := by unfold XUnit.wp; split <;> rfl
@[simp] theorem XUnit.wv_p (x : XUnit) (r : Fin 32) (v : VReg) : (x.wv r v).p = x.p := rfl
@[simp] theorem XUnit.wv_vSec (x : XUnit) (r : Fin 32) (v : VReg) : (x.wv r v).vSec = x.vSec := rfl
@[simp] theorem XUnit.wp_vSec (x : XUnit) (r : Fin 16) (v : BitVec 1024) : (x.wp r v).vSec = x.vSec := by unfold XUnit.wp; split <;> rfl
@[simp] theorem XUnit.wv_pSec (x : XUnit) (r : Fin 32) (v : VReg) : (x.wv r v).pSec = x.pSec := rfl
@[simp] theorem XUnit.wp_pSec (x : XUnit) (r : Fin 16) (v : BitVec 1024) : (x.wp r v).pSec = x.pSec := by unfold XUnit.wp; split <;> rfl
@[simp] theorem XUnit.wv_vPois (x : XUnit) (r : Fin 32) (v : VReg) : (x.wv r v).vPois = x.vPois := rfl
@[simp] theorem XUnit.wp_vPois (x : XUnit) (r : Fin 16) (v : BitVec 1024) : (x.wp r v).vPois = x.vPois := by unfold XUnit.wp; split <;> rfl
@[simp] theorem XUnit.wv_pPois (x : XUnit) (r : Fin 32) (v : VReg) : (x.wv r v).pPois = x.pPois := rfl
@[simp] theorem XUnit.wp_pPois (x : XUnit) (r : Fin 16) (v : BitVec 1024) : (x.wp r v).pPois = x.pPois := by unfold XUnit.wp; split <;> rfl
@[simp] theorem XUnit.wv_vstat (x : XUnit) (r : Fin 32) (v : VReg) : (x.wv r v).vstat = x.vstat := rfl
@[simp] theorem XUnit.wp_vstat (x : XUnit) (r : Fin 16) (v : BitVec 1024) : (x.wp r v).vstat = x.vstat := by unfold XUnit.wp; split <;> rfl
@[simp] theorem XUnit.wv_vflags (x : XUnit) (r : Fin 32) (v : VReg) : (x.wv r v).vflags = x.vflags := rfl
@[simp] theorem XUnit.wp_vflags (x : XUnit) (r : Fin 16) (v : BitVec 1024) : (x.wp r v).vflags = x.vflags := by unfold XUnit.wp; split <;> rfl
@[simp] theorem XUnit.wv_drained (x : XUnit) (r : Fin 32) (v : VReg) : (x.wv r v).drained = x.drained := rfl
@[simp] theorem XUnit.wp_drained (x : XUnit) (r : Fin 16) (v : BitVec 1024) : (x.wp r v).drained = x.drained := by unfold XUnit.wp; split <;> rfl
@[simp] theorem XUnit.wv_rmode (x : XUnit) (r : Fin 32) (v : VReg) : (x.wv r v).rmode = x.rmode := rfl
@[simp] theorem XUnit.wp_rmode (x : XUnit) (r : Fin 16) (v : BitVec 1024) : (x.wp r v).rmode = x.rmode := by unfold XUnit.wp; split <;> rfl
@[simp] theorem XUnit.wv_seed (x : XUnit) (r : Fin 32) (v : VReg) : (x.wv r v).seed = x.seed := rfl
@[simp] theorem XUnit.wp_seed (x : XUnit) (r : Fin 16) (v : BitVec 1024) : (x.wp r v).seed = x.seed := by unfold XUnit.wp; split <;> rfl
@[simp] theorem XUnit.wv_gen (x : XUnit) (r : Fin 32) (v : VReg) : (x.wv r v).gen = x.gen := rfl
@[simp] theorem XUnit.wp_gen (x : XUnit) (r : Fin 16) (v : BitVec 1024) : (x.wp r v).gen = x.gen := by unfold XUnit.wp; split <;> rfl
@[simp] theorem XUnit.wv_count (x : XUnit) (r : Fin 32) (v : VReg) : (x.wv r v).count = x.count := rfl
@[simp] theorem XUnit.wp_count (x : XUnit) (r : Fin 16) (v : BitVec 1024) : (x.wp r v).count = x.count := by unfold XUnit.wp; split <;> rfl
@[simp] theorem XUnit.wv_hcount (x : XUnit) (r : Fin 32) (v : VReg) : (x.wv r v).hcount = x.hcount := rfl
@[simp] theorem XUnit.wp_hcount (x : XUnit) (r : Fin 16) (v : BitVec 1024) : (x.wp r v).hcount = x.hcount := by unfold XUnit.wp; split <;> rfl
@[simp] theorem XUnit.wv_sfu (x : XUnit) (r : Fin 32) (v : VReg) : (x.wv r v).sfu = x.sfu := rfl
@[simp] theorem XUnit.wp_sfu (x : XUnit) (r : Fin 16) (v : BitVec 1024) : (x.wp r v).sfu = x.sfu := by unfold XUnit.wp; split <;> rfl
@[simp] theorem XUnit.wv_sfuH (x : XUnit) (r : Fin 32) (v : VReg) : (x.wv r v).sfuH = x.sfuH := rfl
@[simp] theorem XUnit.wp_sfuH (x : XUnit) (r : Fin 16) (v : BitVec 1024) : (x.wp r v).sfuH = x.sfuH := by unfold XUnit.wp; split <;> rfl

/-! ## Reading back -/

theorem State.core_setCore (s : State) (c d : Nat) (k : Core) (h : c < 384) :
    (s.setCore c k).core d = if d = c then k else s.core d := by
  by_cases e : d = c
  · subst e; simp [State.core, State.setCore, h]
  · simp [State.core, State.setCore, Ne.symm e, e]

@[simp] theorem State.core_setCore_same (s : State) (c : CoreId) (k : Core) : (s.setCore c.val k).core c.val = k := by
  simp [State.core_setCore]

@[simp] theorem State.core_setCore_ne (s : State) (c d : Nat) (k : Core) (h : c ≠ d) : (s.setCore c k).core d = s.core d := by
  simp [State.core, State.setCore, h]

@[simp] theorem State.setCore_setCore (s : State) (c : Nat) (k l : Core) : (s.setCore c k).setCore c l = s.setCore c l := by
  simp [State.setCore]

@[simp] theorem State.setCore_core (s : State) (c : Nat) : s.setCore c (s.core c) = s := by
  simp [State.setCore, State.core, vset_vget]

@[simp] theorem State.cc_modCC (s : State) (g : Core → Core) : (s.modCC g).cc = g s.cc := by
  simp [State.cc, State.modCC, State.modCore]

@[simp] theorem State.core_modCC_ne (s : State) (g : Core → Core) (d : Nat) (h : d ≠ s.cur.val) :
    (s.modCC g).core d = s.core d := by
  simp [State.modCC, State.modCore, Ne.symm h]

@[simp] theorem State.modCC_modCC (s : State) (g h : Core → Core) : (s.modCC g).modCC h = s.modCC fun k => h (g k) := by
  have e : (s.modCC g).cc = g s.cc := State.cc_modCC s g
  simp only [State.cc, State.modCC, State.modCore, State.setCore_cur] at e
  simp only [State.modCC, State.modCore, State.setCore_cur, e, State.setCore_setCore]

@[simp] theorem Core.seq_setSeq (k : Core) (i : SeqId) (q : Seq) : (k.setSeq i q).seq i = q := by cases i <;> rfl

@[simp] theorem Core.seq_setSeq_other (k : Core) (i : SeqId) (q : Seq) : (k.setSeq i q).seq (SeqId.other i) = k.seq (SeqId.other i) := by
  cases i <;> rfl

@[simp] theorem Core.seq_modSeq (k : Core) (i : SeqId) (g : Seq → Seq) : (k.modSeq i g).seq i = g (k.seq i) := by cases i <;> rfl

@[simp] theorem Core.seq_modSeq_other (k : Core) (i : SeqId) (g : Seq → Seq) :
    (k.modSeq i g).seq (SeqId.other i) = k.seq (SeqId.other i) := by
  cases i <;> rfl

@[simp] theorem Core.modSeq_modSeq (k : Core) (i : SeqId) (g h : Seq → Seq) :
    (k.modSeq i g).modSeq i h = k.modSeq i fun q => h (g q) := by
  cases i <;> rfl

@[simp] theorem Core.seq_modX (k : Core) (i : SeqId) (g : XUnit → XUnit) : (k.modX g).seq i = k.seq i := by cases i <;> rfl

@[simp] theorem State.sq_modSq (s : State) (g : Seq → Seq) : (s.modSq g).sq = g s.sq := by
  simp [State.sq, State.modSq]

@[simp] theorem State.modSq_modSq (s : State) (g h : Seq → Seq) : (s.modSq g).modSq h = s.modSq fun q => h (g q) := by
  simp [State.modSq]

theorem Seq.rs_ws (q : Seq) (r t : Fin 32) (v : Word) : (q.ws r v).rs t = if t = r then (if r = 0 then 0 else v) else q.rs t := by
  by_cases h : r = 0
  · subst h; by_cases e : t = 0 <;> simp [Seq.ws, Seq.rs, e]
  · by_cases e : t = r
    · subst e; simp [Seq.ws, Seq.rs, h]
    · have : r.val ≠ t.val := fun x => e (Fin.ext x.symm)
      simp [Seq.ws, Seq.rs, h, e, this]

@[simp] theorem Seq.rs_zero (q : Seq) : q.rs 0 = 0 := by simp [Seq.rs]

theorem Seq.rf_wf (q : Seq) (r t : Fin 8) (v : Bool) : (q.wf r v).rf t = if t = r then (if r = 7 then true else v) else q.rf t := by
  by_cases h : r = 7
  · subst h; by_cases e : t = 7 <;> simp [Seq.wf, Seq.rf, e]
  · by_cases e : t = r
    · subst e; simp [Seq.wf, Seq.rf, h]
    · have : r.val ≠ t.val := fun x => e (Fin.ext x.symm)
      simp [Seq.wf, Seq.rf, h, e, this]

@[simp] theorem XUnit.rv_wv_same (x : XUnit) (r : Fin 32) (v : VReg) : (x.wv r v).rv r = v := by simp [XUnit.rv, XUnit.wv]

@[simp] theorem XUnit.rv_wv_ne (x : XUnit) (r t : Fin 32) (v : VReg) (h : t ≠ r) : (x.wv r v).rv t = x.rv t := by
  have : r.val ≠ t.val := fun e => h (Fin.ext e.symm)
  simp [XUnit.rv, XUnit.wv, this]

theorem XUnit.rp_wp (x : XUnit) (r t : Fin 16) (v : BitVec 1024) :
    (x.wp r v).rp t = if t = r then (if r = 15 then BitVec.allOnes 1024 else v) else x.rp t := by
  by_cases h : r = 15
  · subst h; by_cases e : t = 15 <;> simp [XUnit.wp, XUnit.rp, e]
  · by_cases e : t = r
    · subst e; simp [XUnit.wp, XUnit.rp, h]
    · have : r.val ≠ t.val := fun x => e (Fin.ext x.symm)
      simp [XUnit.wp, XUnit.rp, h, e, this]

end Sys2Proof.Machine
end

