-- ==== Sys2Proof/Laws/Issue.lean ====
section
/-! SUPPORT. What issuing an instruction can do, said once: under `Issues` it has its own effect, and every
outcome is a next state. -/

namespace Sys2Proof.Machine

/-- An instruction that issues has its own effect. -/
theorem issue_of_issues {i : Instr} {c : Ctl} {s : State} (h : Issues i c s) (body : State → Eff) :
    issue i body s = .next (s.finish (s.startIssue c) i c i.regs (body (s.startIssue c))) := by
  have hr : (if ((s.startIssue c).guard c && (s.startIssue c).rowsDone.isNone) = true then (s.startIssue c).reportFor i else none) = none := by
    rw [h.quiet, ite_self]
  unfold issue
  rw [h.ctl]
  dsimp only
  rw [if_neg (by rw [h.free]; decide), hr]
  dsimp only
  rw [h.named, h.settled, h.sure, h.runs, h.allowed, h.guarded, h.clean, ite_self]
  cases valueChecked i <;> cases (s.startIssue c).rejects i <;> rfl

/-- A branch between two steps that go on goes on. -/
theorem ite_next {p : Prop} [Decidable p] {a b : Host.Outcome State Fault Refusal} (ha : ∃ t, a = .next t) (hb : ∃ t, b = .next t) :
    ∃ t, (if p then a else b) = .next t := by split <;> assumption

/-- Issuing never stops the machine. -/
theorem issue_next (i : Instr) (body : State → Eff) (s : State) : ∃ t, issue i body s = .next t := by
  unfold issue
  cases i.ctl with
  | none => exact ⟨_, rfl⟩
  | some c =>
    dsimp only
    refine ite_next ⟨_, rfl⟩ ?_
    generalize (if ((s.startIssue c).guard c && (s.startIssue c).rowsDone.isNone) = true then (s.startIssue c).reportFor i else none) = r
    cases r with
    | some r => exact ⟨_, rfl⟩
    | none =>
      dsimp only
      iterate 8 refine ite_next ⟨_, rfl⟩ ?_
      cases (if i.isHint = true then none else (s.startIssue c).srcPoison i i.regs c) with
      | none => exact ⟨_, rfl⟩
      | some p => cases body (s.startIssue c) <;> exact ⟨_, rfl⟩

/-- An unguarded instruction is passed over (R272). -/
theorem issue_unguarded {i : Instr} {c : Ctl} {s : State} (body : State → Eff) (hc : i.ctl = some c)
    (hf : s.held = false) (hw : (s.startIssue c).wrongSeq i = false) (hp : (s.startIssue c).privFails i = false)
    (hb : (s.startIssue c).guardBad c = false) (hg : (s.startIssue c).guard c = false) :
    issue i body s = .next (((s.startIssue c).countIssue false).advance ((s.startIssue c).sq.pc + 16)) := by
  simp [issue, hc, hf, hw, hp, hb, hg]

end Sys2Proof.Machine
end

