-- ==== Sys2Proof/Laws/Memory.lean ====
section
/-! SUPPORT. Sparse maps and memory: every operation keeps the canonical form, a read after a write gives
the value written, and a write leaves every other place alone. -/

namespace Sys2Proof.Machine

variable {α : Type}

/-- Keys strictly rising. -/
abbrev SMap.Sorted (m : SMap α) : Prop := m.Pairwise fun x y => x.1 < y.1

theorem SMap.wf_iff [DecidableEq α] {d : α} {m : SMap α} : m.wf d = true ↔ m.Sorted ∧ ∀ x ∈ m, x.2 ≠ d := by
  simp [SMap.wf]

/-! ## Finding -/

theorem SMap.find?_insert (m : SMap α) (a b : Nat) (x : α) :
    SMap.find? (SMap.insert m a x) b = if a = b then some x else SMap.find? m b := by
  induction m with
  | nil => simp only [SMap.insert, SMap.find?]; split <;> simp
  | cons e m ih =>
    obtain ⟨k, v⟩ := e
    unfold SMap.insert
    split
    · subst k; simp only [SMap.find?]; split <;> simp_all
    · split
      · simp only [SMap.find?]
        split
        · rfl
        · split
          · have : ¬k = b := by omega
            simp [this, show b < k by omega]
          · rfl
      · simp only [SMap.find?]
        rw [ih]
        repeat' split
        all_goals first | rfl | omega

theorem SMap.find?_below {m : SMap α} {a : Nat} (h : ∀ x ∈ m, a < x.1) : SMap.find? m a = none := by
  cases m with
  | nil => rfl
  | cons e m =>
    have := h e (by simp)
    simp [SMap.find?, this, show ¬e.1 = a by omega]

theorem SMap.find?_erase {m : SMap α} (h : m.Sorted) (a b : Nat) :
    SMap.find? (SMap.erase m a) b = if a = b then none else SMap.find? m b := by
  induction m with
  | nil => simp [SMap.erase, SMap.find?]
  | cons e m ih =>
    obtain ⟨k, v⟩ := e
    have hs := List.pairwise_cons.1 h
    unfold SMap.erase
    split
    · subst k
      split
      · subst b; exact SMap.find?_below hs.1
      · simp only [SMap.find?]
        split
        · contradiction
        · split
          · exact SMap.find?_below fun x hx => Nat.lt_trans ‹_› (hs.1 x hx)
          · rfl
    · split
      · simp only [SMap.find?]
        repeat' split
        all_goals first | rfl | omega
      · simp only [SMap.find?]
        rw [ih hs.2]
        repeat' split
        all_goals first | rfl | omega

/-! ## The canonical form -/

theorem SMap.mem_insert {m : SMap α} {a : Nat} {x : α} {e : Nat × α} (h : e ∈ SMap.insert m a x) : e = (a, x) ∨ e ∈ m := by
  induction m with
  | nil => simpa [SMap.insert] using h
  | cons f m ih =>
    unfold SMap.insert at h
    repeat' split at h
    all_goals simp only [List.mem_cons] at h ⊢
    · tauto
    · tauto
    · rcases h with h | h
      · tauto
      · have := ih h; tauto

theorem SMap.mem_erase {m : SMap α} {a : Nat} {e : Nat × α} (h : e ∈ SMap.erase m a) : e ∈ m := by
  induction m with
  | nil => exact h
  | cons f m ih =>
    unfold SMap.erase at h
    repeat' split at h
    all_goals simp only [List.mem_cons] at h ⊢
    · exact .inr h
    · exact h
    · exact h.imp id ih

theorem SMap.sorted_insert {m : SMap α} (h : m.Sorted) (a : Nat) (x : α) : (SMap.insert m a x).Sorted := by
  induction m with
  | nil => simp [SMap.insert]
  | cons f m ih =>
    obtain ⟨k, v⟩ := f
    have hs := List.pairwise_cons.1 h
    unfold SMap.insert
    split
    · subst k; exact List.pairwise_cons.2 hs
    · split
      · refine List.pairwise_cons.2 ⟨fun e he => ?_, h⟩
        rcases List.mem_cons.1 he with rfl | he
        · assumption
        · exact Nat.lt_trans ‹_› (hs.1 e he)
      · refine List.pairwise_cons.2 ⟨fun e he => ?_, ih hs.2⟩
        rcases SMap.mem_insert he with rfl | he
        · simp only; omega
        · exact hs.1 e he

theorem SMap.sorted_erase {m : SMap α} (h : m.Sorted) (a : Nat) : (SMap.erase m a).Sorted := by
  induction m with
  | nil => exact h
  | cons f m ih =>
    have hs := List.pairwise_cons.1 h
    unfold SMap.erase
    split
    · exact hs.2
    · split
      · exact h
      · exact List.pairwise_cons.2 ⟨fun e he => hs.1 e (SMap.mem_erase he), ih hs.2⟩

variable [DecidableEq α]

theorem SMap.wf_nil (d : α) : SMap.wf d ([] : SMap α) = true := by simp [SMap.wf]

theorem SMap.wf_set {d : α} {m : SMap α} (h : m.wf d = true) (a : Nat) (x : α) : (SMap.set d m a x).wf d = true := by
  rw [SMap.wf_iff] at h ⊢
  unfold SMap.set
  split
  · exact ⟨SMap.sorted_erase h.1 a, fun e he => h.2 e (SMap.mem_erase he)⟩
  · refine ⟨SMap.sorted_insert h.1 a x, fun e he => ?_⟩
    rcases SMap.mem_insert he with rfl | he
    · assumption
    · exact h.2 e he

theorem SMap.wf_setAll {d : α} {m : SMap α} (h : m.wf d = true) (a : Nat) (xs : List α) : (SMap.setAll d m a xs).wf d = true := by
  induction xs generalizing m a with
  | nil => exact h
  | cons x xs ih => exact ih (SMap.wf_set h a x) (a + 1)

theorem SMap.wf_fill {d : α} {m : SMap α} (h : m.wf d = true) (a n : Nat) (x : α) : (SMap.fill d m a n x).wf d = true :=
  SMap.wf_setAll h a _

/-! ## Reading back -/

/-- A read after a write: the value written, or what was there before. -/
theorem SMap.get_set {d : α} {m : SMap α} (h : m.wf d = true) (a b : Nat) (x : α) :
    SMap.get d (SMap.set d m a x) b = if b = a then x else SMap.get d m b := by
  unfold SMap.get SMap.set
  have hs := (SMap.wf_iff.1 h).1
  split
  · rw [SMap.find?_erase hs]
    by_cases e : a = b
    · subst e; simp_all
    · simp [e, show ¬b = a from fun c => e c.symm]
  · rw [SMap.find?_insert]
    by_cases e : a = b
    · subst e; simp
    · simp [e, show ¬b = a from fun c => e c.symm]

theorem SMap.get_setAll {d : α} {m : SMap α} (h : m.wf d = true) (a b : Nat) (xs : List α) :
    SMap.get d (SMap.setAll d m a xs) b = if a ≤ b ∧ b < a + xs.length then xs.getD (b - a) d else SMap.get d m b := by
  induction xs generalizing m a with
  | nil => simp [SMap.setAll]
  | cons x xs ih =>
    rw [SMap.setAll, ih (SMap.wf_set h a x), SMap.get_set h]
    by_cases h1 : a + 1 ≤ b ∧ b < a + 1 + xs.length
    · have h2 : a ≤ b ∧ b < a + (x :: xs).length := by simp; omega
      rw [if_pos h1, if_pos h2, show b - a = (b - (a + 1)) + 1 by omega, List.getD_cons_succ]
    · rw [if_neg h1]
      by_cases e : b = a
      · subst e; simp
      · have h2 : ¬(a ≤ b ∧ b < a + (x :: xs).length) := by simp at h1 ⊢; omega
        rw [if_neg e, if_neg h2]

/-- Two maps in canonical form that read alike are equal. -/
theorem SMap.ext_get {d : α} {m n : SMap α} (hm : m.wf d = true) (hn : n.wf d = true)
    (h : ∀ a, SMap.get d m a = SMap.get d n a) : m = n := by
  induction m generalizing n with
  | nil =>
    cases n with
    | nil => rfl
    | cons e n =>
      have := h e.1
      rw [SMap.wf_iff] at hn
      simp [SMap.get, SMap.find?] at this
      exact absurd this.symm (hn.2 e (by simp))
  | cons e m ih =>
    rw [SMap.wf_iff] at hm hn
    have ms := List.pairwise_cons.1 hm.1
    cases n with
    | nil =>
      have := h e.1
      simp [SMap.get, SMap.find?] at this
      exact absurd this (hm.2 e (by simp))
    | cons f n =>
      have ns := List.pairwise_cons.1 hn.1
      have key : e.1 = f.1 := by
        rcases Nat.lt_trichotomy e.1 f.1 with c | c | c
        · have := h e.1
          simp [SMap.get, SMap.find?, c, show ¬f.1 = e.1 by omega] at this
          exact absurd this (hm.2 e (by simp))
        · exact c
        · have := h f.1
          simp [SMap.get, SMap.find?, c, show ¬e.1 = f.1 by omega] at this
          exact absurd this.symm (hn.2 f (by simp))
      have val : e.2 = f.2 := by
        have := h e.1
        simpa [SMap.get, SMap.find?, key] using this
      have tail : m = n := by
        refine ih (SMap.wf_iff.2 ⟨ms.2, fun x hx => hm.2 x (by simp [hx])⟩) (SMap.wf_iff.2 ⟨ns.2, fun x hx => hn.2 x (by simp [hx])⟩) fun a => ?_
        by_cases c : e.1 = a
        · subst c
          rw [SMap.get, SMap.get, SMap.find?_below ms.1, SMap.find?_below (key ▸ ns.1)]
        · by_cases l : a < e.1
          · rw [SMap.get, SMap.get, SMap.find?_below fun x hx => Nat.lt_trans l (ms.1 x hx),
              SMap.find?_below fun x hx => Nat.lt_trans (key ▸ l) (ns.1 x hx)]
          · have := h a
            simpa [SMap.get, SMap.find?, c, l, key ▸ c, key ▸ l] using this
      rw [tail, Prod.ext key val]

/-! ## Memory -/

theorem Memory.wf_nil : Memory.wf [] = true := SMap.wf_nil _

/-- The memory after reset is in canonical form. -/
theorem reset_mem_wf : State.reset.mem.wf = true := Memory.wf_nil

theorem Memory.wf_setByte {m : Memory} (h : m.wf = true) (a : Nat) (b : Byte) : (m.setByte a b).wf = true := SMap.wf_set h a b

theorem Memory.wf_write {m : Memory} (h : m.wf = true) (a : Nat) (bs : List Byte) : (m.write a bs).wf = true :=
  SMap.wf_setAll h a bs

theorem Memory.byte_setByte {m : Memory} (h : m.wf = true) (a b : Nat) (x : Byte) :
    (m.setByte a x).byte b = if b = a then x else m.byte b := SMap.get_set h a b x

theorem Memory.byte_write {m : Memory} (h : m.wf = true) (a b : Nat) (bs : List Byte) :
    (m.write a bs).byte b = if a ≤ b ∧ b < a + bs.length then bs.getD (b - a) Memory.blank else m.byte b :=
  SMap.get_setAll h a b bs

/-- Equal memories are equal data. -/
theorem Memory.ext_byte {m n : Memory} (hm : m.wf = true) (hn : n.wf = true) (h : ∀ a, m.byte a = n.byte a) : m = n :=
  SMap.ext_get hm hn h

end Sys2Proof.Machine
end

