-- ==== Sys2Proof/Laws/PerInstr.lean ====
section
/-! SUPPORT. The family `FieldsRead` of LAWS.json: the decoder reads back the fields of an instruction's word as that
instruction, with every operand at every value that its encoding admits. -/

namespace Sys2Proof.Laws

/-- What the decoder reads from the fields of an instruction is the instruction. -/
def FieldsRead.Statement (i : Instr) : Prop := ∀ f, i.fields = some f → f.instr = some i

/-- No word encodes a step of the device. -/
theorem fields_none (i : Instr) (h : i.fields = none) : FieldsRead.Statement i := by
  intro f hf
  simp [h] at hf

@[simp] theorem ctl_fields (c : Ctl) (opc : BitVec 10) (fn : BitVec 4) : (c.fields opc fn).ctl = c := c.read_back _ rfl rfl rfl rfl

@[simp] theorem cS_low (r : Fin 32) : (cS r).toNat < 0x20 := by revert r; decide
@[simp] theorem cV_high (r : Fin 32) : ¬(cV r).toNat < 0x20 := by revert r; decide

@[simp] theorem satB_eq (f : Fields) : f.satB = f.sat.getLsbD 0 := rfl
@[simp] theorem fn0_eq (f : Fields) : f.fn0 = f.fn.getLsbD 0 := rfl
@[simp] theorem fn1_eq (f : Fields) : f.fn1 = f.fn.getLsbD 1 := rfl
@[simp] theorem fn2_eq (f : Fields) : f.fn2 = f.fn.getLsbD 2 := rfl
@[simp] theorem wS_reg (f : Fields) (r : Fin 32) : f.wS (.reg r) = f.wB (cS r) := rfl
@[simp] theorem wS_imm (f : Fields) (i : Word32) : f.wS (.imm i) = f.wBi i := rfl
@[simp] theorem wV_vec (f : Fields) (r : Fin 32) : f.wV (.vec r) = f.wB (cV r) := rfl
@[simp] theorem wV_reg (f : Fields) (r : Fin 32) : f.wV (.reg r) = f.wB (cS r) := rfl
@[simp] theorem wV_imm (f : Fields) (i : Word32) : f.wV (.imm i) = f.wBi i := rfl
@[simp] theorem wSo_some (f : Fields) (b : SOp) : f.wSo (some b) = f.wS b := rfl
@[simp] theorem wSo_none (f : Fields) : f.wSo none = f := rfl
@[simp] theorem wTy_imm (f : Fields) (t : Ty) : (f.wTy t).imm = f.imm := rfl
@[simp] theorem wTy_sat (f : Fields) (t : Ty) : (f.wTy t).sat = f.sat := rfl
@[simp] theorem wTy_rnd (f : Fields) (t : Ty) : (f.wTy t).rnd = f.rnd := rfl
@[simp] theorem wTy_ty (f : Fields) (t : Ty) : (f.wTy t).ty = t.code := rfl
@[simp] theorem wTy_scp (f : Fields) (t : Ty) : (f.wTy t).scp = f.scp := rfl
@[simp] theorem wTy_ocl (f : Fields) (t : Ty) : (f.wTy t).ocl = f.ocl := rfl
@[simp] theorem wTy_immf (f : Fields) (t : Ty) : (f.wTy t).immf = f.immf := rfl
@[simp] theorem wTy_oe (f : Fields) (t : Ty) : (f.wTy t).oe = f.oe := rfl
@[simp] theorem wTy_oc (f : Fields) (t : Ty) : (f.wTy t).oc = f.oc := rfl
@[simp] theorem wTy_ob (f : Fields) (t : Ty) : (f.wTy t).ob = f.ob := rfl
@[simp] theorem wTy_oa (f : Fields) (t : Ty) : (f.wTy t).oa = f.oa := rfl
@[simp] theorem wTy_od (f : Fields) (t : Ty) : (f.wTy t).od = f.od := rfl
@[simp] theorem wTy_fn (f : Fields) (t : Ty) : (f.wTy t).fn = f.fn := rfl
@[simp] theorem wTy_opc (f : Fields) (t : Ty) : (f.wTy t).opc = f.opc := rfl
@[simp] theorem wTy_ctl (f : Fields) (t : Ty) : (f.wTy t).ctl = f.ctl := rfl
@[simp] theorem wRnd_imm (f : Fields) (r : Rnd) : (f.wRnd r).imm = f.imm := rfl
@[simp] theorem wRnd_sat (f : Fields) (r : Rnd) : (f.wRnd r).sat = f.sat := rfl
@[simp] theorem wRnd_rnd (f : Fields) (r : Rnd) : (f.wRnd r).rnd = r.code := rfl
@[simp] theorem wRnd_ty (f : Fields) (r : Rnd) : (f.wRnd r).ty = f.ty := rfl
@[simp] theorem wRnd_scp (f : Fields) (r : Rnd) : (f.wRnd r).scp = f.scp := rfl
@[simp] theorem wRnd_ocl (f : Fields) (r : Rnd) : (f.wRnd r).ocl = f.ocl := rfl
@[simp] theorem wRnd_immf (f : Fields) (r : Rnd) : (f.wRnd r).immf = f.immf := rfl
@[simp] theorem wRnd_oe (f : Fields) (r : Rnd) : (f.wRnd r).oe = f.oe := rfl
@[simp] theorem wRnd_oc (f : Fields) (r : Rnd) : (f.wRnd r).oc = f.oc := rfl
@[simp] theorem wRnd_ob (f : Fields) (r : Rnd) : (f.wRnd r).ob = f.ob := rfl
@[simp] theorem wRnd_oa (f : Fields) (r : Rnd) : (f.wRnd r).oa = f.oa := rfl
@[simp] theorem wRnd_od (f : Fields) (r : Rnd) : (f.wRnd r).od = f.od := rfl
@[simp] theorem wRnd_fn (f : Fields) (r : Rnd) : (f.wRnd r).fn = f.fn := rfl
@[simp] theorem wRnd_opc (f : Fields) (r : Rnd) : (f.wRnd r).opc = f.opc := rfl
@[simp] theorem wRnd_ctl (f : Fields) (r : Rnd) : (f.wRnd r).ctl = f.ctl := rfl
@[simp] theorem wSat_imm (f : Fields) (b : Bool) : (f.wSat b).imm = f.imm := rfl
@[simp] theorem wSat_sat (f : Fields) (b : Bool) : (f.wSat b).sat = BitVec.ofBool b := rfl
@[simp] theorem wSat_rnd (f : Fields) (b : Bool) : (f.wSat b).rnd = f.rnd := rfl
@[simp] theorem wSat_ty (f : Fields) (b : Bool) : (f.wSat b).ty = f.ty := rfl
@[simp] theorem wSat_scp (f : Fields) (b : Bool) : (f.wSat b).scp = f.scp := rfl
@[simp] theorem wSat_ocl (f : Fields) (b : Bool) : (f.wSat b).ocl = f.ocl := rfl
@[simp] theorem wSat_immf (f : Fields) (b : Bool) : (f.wSat b).immf = f.immf := rfl
@[simp] theorem wSat_oe (f : Fields) (b : Bool) : (f.wSat b).oe = f.oe := rfl
@[simp] theorem wSat_oc (f : Fields) (b : Bool) : (f.wSat b).oc = f.oc := rfl
@[simp] theorem wSat_ob (f : Fields) (b : Bool) : (f.wSat b).ob = f.ob := rfl
@[simp] theorem wSat_oa (f : Fields) (b : Bool) : (f.wSat b).oa = f.oa := rfl
@[simp] theorem wSat_od (f : Fields) (b : Bool) : (f.wSat b).od = f.od := rfl
@[simp] theorem wSat_fn (f : Fields) (b : Bool) : (f.wSat b).fn = f.fn := rfl
@[simp] theorem wSat_opc (f : Fields) (b : Bool) : (f.wSat b).opc = f.opc := rfl
@[simp] theorem wSat_ctl (f : Fields) (b : Bool) : (f.wSat b).ctl = f.ctl := rfl
@[simp] theorem wD_imm (f : Fields) (x : BitVec 8) : (f.wD x).imm = f.imm := rfl
@[simp] theorem wD_sat (f : Fields) (x : BitVec 8) : (f.wD x).sat = f.sat := rfl
@[simp] theorem wD_rnd (f : Fields) (x : BitVec 8) : (f.wD x).rnd = f.rnd := rfl
@[simp] theorem wD_ty (f : Fields) (x : BitVec 8) : (f.wD x).ty = f.ty := rfl
@[simp] theorem wD_scp (f : Fields) (x : BitVec 8) : (f.wD x).scp = f.scp := rfl
@[simp] theorem wD_ocl (f : Fields) (x : BitVec 8) : (f.wD x).ocl = f.ocl := rfl
@[simp] theorem wD_immf (f : Fields) (x : BitVec 8) : (f.wD x).immf = f.immf := rfl
@[simp] theorem wD_oe (f : Fields) (x : BitVec 8) : (f.wD x).oe = f.oe := rfl
@[simp] theorem wD_oc (f : Fields) (x : BitVec 8) : (f.wD x).oc = f.oc := rfl
@[simp] theorem wD_ob (f : Fields) (x : BitVec 8) : (f.wD x).ob = f.ob := rfl
@[simp] theorem wD_oa (f : Fields) (x : BitVec 8) : (f.wD x).oa = f.oa := rfl
@[simp] theorem wD_od (f : Fields) (x : BitVec 8) : (f.wD x).od = x := rfl
@[simp] theorem wD_fn (f : Fields) (x : BitVec 8) : (f.wD x).fn = f.fn := rfl
@[simp] theorem wD_opc (f : Fields) (x : BitVec 8) : (f.wD x).opc = f.opc := rfl
@[simp] theorem wD_ctl (f : Fields) (x : BitVec 8) : (f.wD x).ctl = f.ctl := rfl
@[simp] theorem wA_imm (f : Fields) (x : BitVec 8) : (f.wA x).imm = f.imm := rfl
@[simp] theorem wA_sat (f : Fields) (x : BitVec 8) : (f.wA x).sat = f.sat := rfl
@[simp] theorem wA_rnd (f : Fields) (x : BitVec 8) : (f.wA x).rnd = f.rnd := rfl
@[simp] theorem wA_ty (f : Fields) (x : BitVec 8) : (f.wA x).ty = f.ty := rfl
@[simp] theorem wA_scp (f : Fields) (x : BitVec 8) : (f.wA x).scp = f.scp := rfl
@[simp] theorem wA_ocl (f : Fields) (x : BitVec 8) : (f.wA x).ocl = f.ocl := rfl
@[simp] theorem wA_immf (f : Fields) (x : BitVec 8) : (f.wA x).immf = f.immf := rfl
@[simp] theorem wA_oe (f : Fields) (x : BitVec 8) : (f.wA x).oe = f.oe := rfl
@[simp] theorem wA_oc (f : Fields) (x : BitVec 8) : (f.wA x).oc = f.oc := rfl
@[simp] theorem wA_ob (f : Fields) (x : BitVec 8) : (f.wA x).ob = f.ob := rfl
@[simp] theorem wA_oa (f : Fields) (x : BitVec 8) : (f.wA x).oa = x := rfl
@[simp] theorem wA_od (f : Fields) (x : BitVec 8) : (f.wA x).od = f.od := rfl
@[simp] theorem wA_fn (f : Fields) (x : BitVec 8) : (f.wA x).fn = f.fn := rfl
@[simp] theorem wA_opc (f : Fields) (x : BitVec 8) : (f.wA x).opc = f.opc := rfl
@[simp] theorem wA_ctl (f : Fields) (x : BitVec 8) : (f.wA x).ctl = f.ctl := rfl
@[simp] theorem wB_imm (f : Fields) (x : BitVec 8) : (f.wB x).imm = f.imm := rfl
@[simp] theorem wB_sat (f : Fields) (x : BitVec 8) : (f.wB x).sat = f.sat := rfl
@[simp] theorem wB_rnd (f : Fields) (x : BitVec 8) : (f.wB x).rnd = f.rnd := rfl
@[simp] theorem wB_ty (f : Fields) (x : BitVec 8) : (f.wB x).ty = f.ty := rfl
@[simp] theorem wB_scp (f : Fields) (x : BitVec 8) : (f.wB x).scp = f.scp := rfl
@[simp] theorem wB_ocl (f : Fields) (x : BitVec 8) : (f.wB x).ocl = f.ocl := rfl
@[simp] theorem wB_immf (f : Fields) (x : BitVec 8) : (f.wB x).immf = f.immf := rfl
@[simp] theorem wB_oe (f : Fields) (x : BitVec 8) : (f.wB x).oe = f.oe := rfl
@[simp] theorem wB_oc (f : Fields) (x : BitVec 8) : (f.wB x).oc = f.oc := rfl
@[simp] theorem wB_ob (f : Fields) (x : BitVec 8) : (f.wB x).ob = x := rfl
@[simp] theorem wB_oa (f : Fields) (x : BitVec 8) : (f.wB x).oa = f.oa := rfl
@[simp] theorem wB_od (f : Fields) (x : BitVec 8) : (f.wB x).od = f.od := rfl
@[simp] theorem wB_fn (f : Fields) (x : BitVec 8) : (f.wB x).fn = f.fn := rfl
@[simp] theorem wB_opc (f : Fields) (x : BitVec 8) : (f.wB x).opc = f.opc := rfl
@[simp] theorem wB_ctl (f : Fields) (x : BitVec 8) : (f.wB x).ctl = f.ctl := rfl
@[simp] theorem wC_imm (f : Fields) (x : BitVec 8) : (f.wC x).imm = f.imm := rfl
@[simp] theorem wC_sat (f : Fields) (x : BitVec 8) : (f.wC x).sat = f.sat := rfl
@[simp] theorem wC_rnd (f : Fields) (x : BitVec 8) : (f.wC x).rnd = f.rnd := rfl
@[simp] theorem wC_ty (f : Fields) (x : BitVec 8) : (f.wC x).ty = f.ty := rfl
@[simp] theorem wC_scp (f : Fields) (x : BitVec 8) : (f.wC x).scp = f.scp := rfl
@[simp] theorem wC_ocl (f : Fields) (x : BitVec 8) : (f.wC x).ocl = f.ocl := rfl
@[simp] theorem wC_immf (f : Fields) (x : BitVec 8) : (f.wC x).immf = f.immf := rfl
@[simp] theorem wC_oe (f : Fields) (x : BitVec 8) : (f.wC x).oe = f.oe := rfl
@[simp] theorem wC_oc (f : Fields) (x : BitVec 8) : (f.wC x).oc = x := rfl
@[simp] theorem wC_ob (f : Fields) (x : BitVec 8) : (f.wC x).ob = f.ob := rfl
@[simp] theorem wC_oa (f : Fields) (x : BitVec 8) : (f.wC x).oa = f.oa := rfl
@[simp] theorem wC_od (f : Fields) (x : BitVec 8) : (f.wC x).od = f.od := rfl
@[simp] theorem wC_fn (f : Fields) (x : BitVec 8) : (f.wC x).fn = f.fn := rfl
@[simp] theorem wC_opc (f : Fields) (x : BitVec 8) : (f.wC x).opc = f.opc := rfl
@[simp] theorem wC_ctl (f : Fields) (x : BitVec 8) : (f.wC x).ctl = f.ctl := rfl
@[simp] theorem wE_imm (f : Fields) (x : BitVec 8) : (f.wE x).imm = f.imm := rfl
@[simp] theorem wE_sat (f : Fields) (x : BitVec 8) : (f.wE x).sat = f.sat := rfl
@[simp] theorem wE_rnd (f : Fields) (x : BitVec 8) : (f.wE x).rnd = f.rnd := rfl
@[simp] theorem wE_ty (f : Fields) (x : BitVec 8) : (f.wE x).ty = f.ty := rfl
@[simp] theorem wE_scp (f : Fields) (x : BitVec 8) : (f.wE x).scp = f.scp := rfl
@[simp] theorem wE_ocl (f : Fields) (x : BitVec 8) : (f.wE x).ocl = f.ocl := rfl
@[simp] theorem wE_immf (f : Fields) (x : BitVec 8) : (f.wE x).immf = f.immf := rfl
@[simp] theorem wE_oe (f : Fields) (x : BitVec 8) : (f.wE x).oe = x := rfl
@[simp] theorem wE_oc (f : Fields) (x : BitVec 8) : (f.wE x).oc = f.oc := rfl
@[simp] theorem wE_ob (f : Fields) (x : BitVec 8) : (f.wE x).ob = f.ob := rfl
@[simp] theorem wE_oa (f : Fields) (x : BitVec 8) : (f.wE x).oa = f.oa := rfl
@[simp] theorem wE_od (f : Fields) (x : BitVec 8) : (f.wE x).od = f.od := rfl
@[simp] theorem wE_fn (f : Fields) (x : BitVec 8) : (f.wE x).fn = f.fn := rfl
@[simp] theorem wE_opc (f : Fields) (x : BitVec 8) : (f.wE x).opc = f.opc := rfl
@[simp] theorem wE_ctl (f : Fields) (x : BitVec 8) : (f.wE x).ctl = f.ctl := rfl
@[simp] theorem wImm_imm (f : Fields) (x : Word32) : (f.wImm x).imm = x := rfl
@[simp] theorem wImm_sat (f : Fields) (x : Word32) : (f.wImm x).sat = f.sat := rfl
@[simp] theorem wImm_rnd (f : Fields) (x : Word32) : (f.wImm x).rnd = f.rnd := rfl
@[simp] theorem wImm_ty (f : Fields) (x : Word32) : (f.wImm x).ty = f.ty := rfl
@[simp] theorem wImm_scp (f : Fields) (x : Word32) : (f.wImm x).scp = f.scp := rfl
@[simp] theorem wImm_ocl (f : Fields) (x : Word32) : (f.wImm x).ocl = f.ocl := rfl
@[simp] theorem wImm_immf (f : Fields) (x : Word32) : (f.wImm x).immf = f.immf := rfl
@[simp] theorem wImm_oe (f : Fields) (x : Word32) : (f.wImm x).oe = f.oe := rfl
@[simp] theorem wImm_oc (f : Fields) (x : Word32) : (f.wImm x).oc = f.oc := rfl
@[simp] theorem wImm_ob (f : Fields) (x : Word32) : (f.wImm x).ob = f.ob := rfl
@[simp] theorem wImm_oa (f : Fields) (x : Word32) : (f.wImm x).oa = f.oa := rfl
@[simp] theorem wImm_od (f : Fields) (x : Word32) : (f.wImm x).od = f.od := rfl
@[simp] theorem wImm_fn (f : Fields) (x : Word32) : (f.wImm x).fn = f.fn := rfl
@[simp] theorem wImm_opc (f : Fields) (x : Word32) : (f.wImm x).opc = f.opc := rfl
@[simp] theorem wImm_ctl (f : Fields) (x : Word32) : (f.wImm x).ctl = f.ctl := rfl
@[simp] theorem wOcl_imm (f : Fields) (x : BitVec 4) : (f.wOcl x).imm = f.imm := rfl
@[simp] theorem wOcl_sat (f : Fields) (x : BitVec 4) : (f.wOcl x).sat = f.sat := rfl
@[simp] theorem wOcl_rnd (f : Fields) (x : BitVec 4) : (f.wOcl x).rnd = f.rnd := rfl
@[simp] theorem wOcl_ty (f : Fields) (x : BitVec 4) : (f.wOcl x).ty = f.ty := rfl
@[simp] theorem wOcl_scp (f : Fields) (x : BitVec 4) : (f.wOcl x).scp = f.scp := rfl
@[simp] theorem wOcl_ocl (f : Fields) (x : BitVec 4) : (f.wOcl x).ocl = x := rfl
@[simp] theorem wOcl_immf (f : Fields) (x : BitVec 4) : (f.wOcl x).immf = f.immf := rfl
@[simp] theorem wOcl_oe (f : Fields) (x : BitVec 4) : (f.wOcl x).oe = f.oe := rfl
@[simp] theorem wOcl_oc (f : Fields) (x : BitVec 4) : (f.wOcl x).oc = f.oc := rfl
@[simp] theorem wOcl_ob (f : Fields) (x : BitVec 4) : (f.wOcl x).ob = f.ob := rfl
@[simp] theorem wOcl_oa (f : Fields) (x : BitVec 4) : (f.wOcl x).oa = f.oa := rfl
@[simp] theorem wOcl_od (f : Fields) (x : BitVec 4) : (f.wOcl x).od = f.od := rfl
@[simp] theorem wOcl_fn (f : Fields) (x : BitVec 4) : (f.wOcl x).fn = f.fn := rfl
@[simp] theorem wOcl_opc (f : Fields) (x : BitVec 4) : (f.wOcl x).opc = f.opc := rfl
@[simp] theorem wOcl_ctl (f : Fields) (x : BitVec 4) : (f.wOcl x).ctl = f.ctl := rfl
@[simp] theorem wScp_imm (f : Fields) (x : BitVec 3) : (f.wScp x).imm = f.imm := rfl
@[simp] theorem wScp_sat (f : Fields) (x : BitVec 3) : (f.wScp x).sat = f.sat := rfl
@[simp] theorem wScp_rnd (f : Fields) (x : BitVec 3) : (f.wScp x).rnd = f.rnd := rfl
@[simp] theorem wScp_ty (f : Fields) (x : BitVec 3) : (f.wScp x).ty = f.ty := rfl
@[simp] theorem wScp_scp (f : Fields) (x : BitVec 3) : (f.wScp x).scp = x := rfl
@[simp] theorem wScp_ocl (f : Fields) (x : BitVec 3) : (f.wScp x).ocl = f.ocl := rfl
@[simp] theorem wScp_immf (f : Fields) (x : BitVec 3) : (f.wScp x).immf = f.immf := rfl
@[simp] theorem wScp_oe (f : Fields) (x : BitVec 3) : (f.wScp x).oe = f.oe := rfl
@[simp] theorem wScp_oc (f : Fields) (x : BitVec 3) : (f.wScp x).oc = f.oc := rfl
@[simp] theorem wScp_ob (f : Fields) (x : BitVec 3) : (f.wScp x).ob = f.ob := rfl
@[simp] theorem wScp_oa (f : Fields) (x : BitVec 3) : (f.wScp x).oa = f.oa := rfl
@[simp] theorem wScp_od (f : Fields) (x : BitVec 3) : (f.wScp x).od = f.od := rfl
@[simp] theorem wScp_fn (f : Fields) (x : BitVec 3) : (f.wScp x).fn = f.fn := rfl
@[simp] theorem wScp_opc (f : Fields) (x : BitVec 3) : (f.wScp x).opc = f.opc := rfl
@[simp] theorem wScp_ctl (f : Fields) (x : BitVec 3) : (f.wScp x).ctl = f.ctl := rfl
@[simp] theorem wBi_imm (f : Fields) (x : Word32) : (f.wBi x).imm = x := rfl
@[simp] theorem wBi_sat (f : Fields) (x : Word32) : (f.wBi x).sat = f.sat := rfl
@[simp] theorem wBi_rnd (f : Fields) (x : Word32) : (f.wBi x).rnd = f.rnd := rfl
@[simp] theorem wBi_ty (f : Fields) (x : Word32) : (f.wBi x).ty = f.ty := rfl
@[simp] theorem wBi_scp (f : Fields) (x : Word32) : (f.wBi x).scp = f.scp := rfl
@[simp] theorem wBi_ocl (f : Fields) (x : Word32) : (f.wBi x).ocl = f.ocl := rfl
@[simp] theorem wBi_immf (f : Fields) (x : Word32) : (f.wBi x).immf = 1 := rfl
@[simp] theorem wBi_oe (f : Fields) (x : Word32) : (f.wBi x).oe = f.oe := rfl
@[simp] theorem wBi_oc (f : Fields) (x : Word32) : (f.wBi x).oc = f.oc := rfl
@[simp] theorem wBi_ob (f : Fields) (x : Word32) : (f.wBi x).ob = f.ob := rfl
@[simp] theorem wBi_oa (f : Fields) (x : Word32) : (f.wBi x).oa = f.oa := rfl
@[simp] theorem wBi_od (f : Fields) (x : Word32) : (f.wBi x).od = f.od := rfl
@[simp] theorem wBi_fn (f : Fields) (x : Word32) : (f.wBi x).fn = f.fn := rfl
@[simp] theorem wBi_opc (f : Fields) (x : Word32) : (f.wBi x).opc = f.opc := rfl
@[simp] theorem wBi_ctl (f : Fields) (x : Word32) : (f.wBi x).ctl = f.ctl := rfl
@[simp] theorem fields_imm (c : Ctl) (o : BitVec 10) (n : BitVec 4) : (c.fields o n).imm = 0 := rfl
@[simp] theorem fields_sat (c : Ctl) (o : BitVec 10) (n : BitVec 4) : (c.fields o n).sat = 0 := rfl
@[simp] theorem fields_rnd (c : Ctl) (o : BitVec 10) (n : BitVec 4) : (c.fields o n).rnd = 0 := rfl
@[simp] theorem fields_ty (c : Ctl) (o : BitVec 10) (n : BitVec 4) : (c.fields o n).ty = 0 := rfl
@[simp] theorem fields_scp (c : Ctl) (o : BitVec 10) (n : BitVec 4) : (c.fields o n).scp = 0 := rfl
@[simp] theorem fields_ocl (c : Ctl) (o : BitVec 10) (n : BitVec 4) : (c.fields o n).ocl = 0 := rfl
@[simp] theorem fields_immf (c : Ctl) (o : BitVec 10) (n : BitVec 4) : (c.fields o n).immf = 0 := rfl
@[simp] theorem fields_oe (c : Ctl) (o : BitVec 10) (n : BitVec 4) : (c.fields o n).oe = 0xFF := rfl
@[simp] theorem fields_oc (c : Ctl) (o : BitVec 10) (n : BitVec 4) : (c.fields o n).oc = 0xFF := rfl
@[simp] theorem fields_ob (c : Ctl) (o : BitVec 10) (n : BitVec 4) : (c.fields o n).ob = 0xFF := rfl
@[simp] theorem fields_oa (c : Ctl) (o : BitVec 10) (n : BitVec 4) : (c.fields o n).oa = 0xFF := rfl
@[simp] theorem fields_od (c : Ctl) (o : BitVec 10) (n : BitVec 4) : (c.fields o n).od = 0xFF := rfl
@[simp] theorem fields_fn (c : Ctl) (o : BitVec 10) (n : BitVec 4) : (c.fields o n).fn = n := rfl
@[simp] theorem fields_opc (c : Ctl) (o : BitVec 10) (n : BitVec 4) : (c.fields o n).opc = o := rfl
@[simp] theorem sop_eq (f : Fields) : f.sop = if f.immf = 1 then .imm f.imm else .reg (r32 f.ob) := rfl
@[simp] theorem sopo_eq (f : Fields) :
    f.sopo = if f.immf = 1 then some (.imm f.imm) else if f.ob = cNone then none else some (.reg (r32 f.ob)) := rfl
@[simp] theorem vop_eq (f : Fields) :
    f.vop = if f.immf = 1 then .imm f.imm else if f.ob.toNat < 0x20 then .reg (r32 f.ob) else .vec (r32 f.ob) := rfl
@[simp] theorem cNone_eq : cNone = 255#8 := rfl
@[simp] theorem cS_ne (r : Fin 32) : (cS r = 255#8) = False := by simpa [cNone] using cS_ne_none r

theorem FieldsRead.nop (c : Ctl) : FieldsRead.Statement (.nop c) := by
  rintro f ⟨⟩
  rw [instr_000 _ rfl]
  simp
theorem FieldsRead.add (c : Ctl) (ty : Ty) (sat : Bool) (d a : Fin 32) (b : SOp) : FieldsRead.Statement (.add c ty sat d a b) := by
  rintro f ⟨⟩
  cases b <;> rw [instr_001 _ rfl] <;> simp
theorem FieldsRead.sub (c : Ctl) (ty : Ty) (sat : Bool) (d a : Fin 32) (b : SOp) : FieldsRead.Statement (.sub c ty sat d a b) := by
  rintro f ⟨⟩
  cases b <;> rw [instr_002 _ rfl] <;> simp
theorem FieldsRead.mul (c : Ctl) (ty : Ty) (sel : MulSel) (d a : Fin 32) (b : SOp) : FieldsRead.Statement (.mul c ty sel d a b) := by
  rintro f ⟨⟩
  cases b <;> rw [instr_003 _ rfl] <;> simp
theorem FieldsRead.div (c : Ctl) (ty : Ty) (rem : Bool) (d a : Fin 32) (b : SOp) : FieldsRead.Statement (.div c ty rem d a b) := by
  rintro f ⟨⟩
  cases b <;> rw [instr_004 _ rfl] <;> simp
theorem FieldsRead.and (c : Ctl) (ty : Ty) (d a : Fin 32) (b : SOp) : FieldsRead.Statement (.and c ty d a b) := by
  rintro f ⟨⟩
  cases b <;> rw [instr_005 _ rfl] <;> simp
theorem FieldsRead.or (c : Ctl) (ty : Ty) (d a : Fin 32) (b : SOp) : FieldsRead.Statement (.or c ty d a b) := by
  rintro f ⟨⟩
  cases b <;> rw [instr_006 _ rfl] <;> simp
theorem FieldsRead.xor (c : Ctl) (ty : Ty) (d a : Fin 32) (b : SOp) : FieldsRead.Statement (.xor c ty d a b) := by
  rintro f ⟨⟩
  cases b <;> rw [instr_007 _ rfl] <;> simp
theorem FieldsRead.shl (c : Ctl) (ty : Ty) (d a : Fin 32) (b : SOp) : FieldsRead.Statement (.shl c ty d a b) := by
  rintro f ⟨⟩
  cases b <;> rw [instr_008 _ rfl] <;> simp
theorem FieldsRead.shr (c : Ctl) (ty : Ty) (arith : Bool) (d a : Fin 32) (b : SOp) : FieldsRead.Statement (.shr c ty arith d a b) := by
  rintro f ⟨⟩
  cases b <;> rw [instr_009 _ rfl] <;> simp
theorem FieldsRead.rol (c : Ctl) (ty : Ty) (d a : Fin 32) (b : SOp) : FieldsRead.Statement (.rol c ty d a b) := by
  rintro f ⟨⟩
  cases b <;> rw [instr_00A _ rfl] <;> simp
theorem FieldsRead.min (c : Ctl) (ty : Ty) (d a : Fin 32) (b : SOp) : FieldsRead.Statement (.min c ty d a b) := by
  rintro f ⟨⟩
  cases b <;> rw [instr_00B _ rfl] <;> simp
theorem FieldsRead.max (c : Ctl) (ty : Ty) (d a : Fin 32) (b : SOp) : FieldsRead.Statement (.max c ty d a b) := by
  rintro f ⟨⟩
  cases b <;> rw [instr_00C _ rfl] <;> simp
theorem FieldsRead.cmp (c : Ctl) (ty : Ty) (cond : Cond) (d : Fin 8) (a : Fin 32) (b : SOp) : FieldsRead.Statement (.cmp c ty cond d a b) := by
  rintro f ⟨⟩
  cases b <;> rw [instr_00D _ rfl] <;> simp
theorem FieldsRead.sel (c : Ctl) (ty : Ty) (d a : Fin 32) (b : SOp) (fc : Fin 8) : FieldsRead.Statement (.sel c ty d a b fc) := by
  rintro f ⟨⟩
  cases b <;> rw [instr_00E _ rfl] <;> simp
theorem FieldsRead.li (c : Ctl) (hi : Bool) (d : Fin 32) (imm : Word32) : FieldsRead.Statement (.li c hi d imm) := by
  rintro f ⟨⟩
  rw [instr_00F _ rfl]
  simp
theorem FieldsRead.mov (c : Ctl) (d a : SM) : FieldsRead.Statement (.mov c d a) := by
  rintro f ⟨⟩
  rw [instr_010 _ rfl]
  simp
theorem FieldsRead.clz (c : Ctl) (ty : Ty) (d a : Fin 32) : FieldsRead.Statement (.clz c ty d a) := by
  rintro f ⟨⟩
  rw [instr_011 _ rfl]
  simp
theorem FieldsRead.popc (c : Ctl) (ty : Ty) (d a : Fin 32) : FieldsRead.Statement (.popc c ty d a) := by
  rintro f ⟨⟩
  rw [instr_012 _ rfl]
  simp
theorem FieldsRead.bfx (c : Ctl) (ty : Ty) (d a : Fin 32) (b : SOp) : FieldsRead.Statement (.bfx c ty d a b) := by
  rintro f ⟨⟩
  cases b <;> rw [instr_013 _ rfl] <;> simp
theorem FieldsRead.bfi (c : Ctl) (ty : Ty) (d a : Fin 32) (b : SOp) : FieldsRead.Statement (.bfi c ty d a b) := by
  rintro f ⟨⟩
  cases b <;> rw [instr_014 _ rfl] <;> simp
theorem FieldsRead.br (c : Ctl) (off : Word32) : FieldsRead.Statement (.br c off) := by
  rintro f ⟨⟩
  rw [instr_040 _ rfl]
  simp
theorem FieldsRead.jmp (c : Ctl) (a : Fin 32) : FieldsRead.Statement (.jmp c a) := by
  rintro f ⟨⟩
  rw [instr_041 _ rfl]
  simp
theorem FieldsRead.call (c : Ctl) (d : Fin 32) (off : Word32) : FieldsRead.Statement (.call c d off) := by
  rintro f ⟨⟩
  rw [instr_042 _ rfl]
  simp
theorem FieldsRead.ret (c : Ctl) (a : Fin 32) : FieldsRead.Statement (.ret c a) := by
  rintro f ⟨⟩
  rw [instr_043 _ rfl]
  simp
theorem FieldsRead.loop (c : Ctl) (d : Fin 32) (off : Word32) : FieldsRead.Statement (.loop c d off) := by
  rintro f ⟨⟩
  rw [instr_044 _ rfl]
  simp
theorem FieldsRead.bqsend (c : Ctl) (a : Fin 8) : FieldsRead.Statement (.bqsend c a) := by
  rintro f ⟨⟩
  rw [instr_045 _ rfl]
  simp
theorem FieldsRead.bqbr (c : Ctl) (z : Bool) (off : Word32) : FieldsRead.Statement (.bqbr c z off) := by
  rintro f ⟨⟩
  rw [instr_046 _ rfl]
  simp
theorem FieldsRead.endSeq (c : Ctl) : FieldsRead.Statement (.endSeq c) := by
  rintro f ⟨⟩
  rw [instr_047 _ rfl]
  simp
theorem FieldsRead.tail (c : Ctl) : FieldsRead.Statement (.tail c) := by
  rintro f ⟨⟩
  rw [instr_048 _ rfl]
  simp
theorem FieldsRead.mark (c : Ctl) (k : Fin 4) (n : BitVec 8) (mask : BitVec 5) : FieldsRead.Statement (.mark c k n mask) := by
  rintro f ⟨⟩
  rw [instr_049 _ rfl]
  simp
  exact ⟨by (repeat first | rw [extract_low _ _ (by decide)] | rw [extract_high _ _ (by decide)]); exact extract_whole _,
    by (repeat first | rw [extract_low _ _ (by decide)] | rw [extract_high _ _ (by decide)]); exact extract_whole _⟩
theorem FieldsRead.waitmk (c : Ctl) (k : Fin 4) (n : BitVec 8) : FieldsRead.Statement (.waitmk c k n) := by
  rintro f ⟨⟩
  rw [instr_04A _ rfl]
  simp
  exact by (repeat first | rw [extract_low _ _ (by decide)] | rw [extract_high _ _ (by decide)]); exact extract_whole _
theorem FieldsRead.ld (c : Ctl) (ty : Ty) (acq : Bool) (ocl : BitVec 4) (scp : BitVec 3) (d a : Fin 32) (off : Word32) : FieldsRead.Statement (.ld c ty acq ocl scp d a off) := by
  rintro f ⟨⟩
  rw [instr_080 _ rfl]
  simp
theorem FieldsRead.st (c : Ctl) (ty : Ty) (rel : Bool) (ocl : BitVec 4) (scp : BitVec 3) (a : Fin 32) (off : Word32) (v : Fin 32) : FieldsRead.Statement (.st c ty rel ocl scp a off v) := by
  rintro f ⟨⟩
  rw [instr_081 _ rfl]
  simp
theorem FieldsRead.ldv (c : Ctl) (ty : Ty) (ocl : BitVec 4) (d a : Fin 32) (off : Word32) (n : BitVec 4) : FieldsRead.Statement (.ldv c ty ocl d a off n) := by
  rintro f ⟨⟩
  rw [instr_082 _ rfl]
  simp
theorem FieldsRead.stv (c : Ctl) (ty : Ty) (ocl : BitVec 4) (a : Fin 32) (off : Word32) (v : Fin 32) (n : BitVec 4) : FieldsRead.Statement (.stv c ty ocl a off v n) := by
  rintro f ⟨⟩
  rw [instr_083 _ rfl]
  simp
theorem FieldsRead.gather (c : Ctl) (d a p i : Fin 32) (bar : Option (Fin 32)) (b : Word32) : FieldsRead.Statement (.gather c d a p i bar b) := by
  rintro f ⟨⟩
  rw [instr_084 _ rfl]
  simp
theorem FieldsRead.scatter (c : Ctl) (d t p i : Fin 32) (bar : Option (Fin 32)) (b : Word32) : FieldsRead.Statement (.scatter c d t p i bar b) := by
  rintro f ⟨⟩
  rw [instr_085 _ rfl]
  simp
theorem FieldsRead.atom (c : Ctl) (ty : Ty) (op : AtomOp) (ord : AtomOrd) (ocl : BitVec 4) (scp : BitVec 3) (d a v : Fin 32) (cmp : Option (Fin 32)) : FieldsRead.Statement (.atom c ty op ord ocl scp d a v cmp) := by
  rintro f ⟨⟩
  rw [instr_086 _ rfl]
  simp
theorem FieldsRead.fence (c : Ctl) (scp : BitVec 3) (m1 m2 : BitVec 16) : FieldsRead.Statement (.fence c scp m1 m2) := by
  rintro f ⟨⟩
  rw [instr_087 _ rfl]
  simp
  exact ⟨by (repeat first | rw [extract_low _ _ (by decide)] | rw [extract_high _ _ (by decide)]); exact extract_whole _,
    by (repeat first | rw [extract_low _ _ (by decide)] | rw [extract_high _ _ (by decide)]); exact extract_whole _⟩
theorem FieldsRead.xfence (c : Ctl) (scp : BitVec 3) (pm : PathMasks) : FieldsRead.Statement (.xfence c scp pm) := by
  rintro f ⟨⟩
  obtain ⟨m1, m2⟩ := pm
  rw [instr_088 _ rfl]
  simp
  exact ⟨by (repeat first | rw [extract_low _ _ (by decide)] | rw [extract_high _ _ (by decide)]); exact extract_whole _,
    by (repeat first | rw [extract_low _ _ (by decide)] | rw [extract_high _ _ (by decide)]); exact extract_whole _⟩
theorem FieldsRead.pref (c : Ctl) (a : Fin 32) (len : Option (Fin 32)) (off : Word32) : FieldsRead.Statement (.pref c a len off) := by
  rintro f ⟨⟩
  rw [instr_089 _ rfl]
  simp
theorem FieldsRead.qpush (c : Ctl) (q : Fin 8) (a : Fin 32) : FieldsRead.Statement (.qpush c q a) := by
  rintro f ⟨⟩
  rw [instr_0C0 _ rfl]
  simp
theorem FieldsRead.qpop (c : Ctl) (d : Fin 32) (q : Fin 8) : FieldsRead.Statement (.qpop c d q) := by
  rintro f ⟨⟩
  rw [instr_0C1 _ rfl]
  simp
theorem FieldsRead.qcnt (c : Ctl) (d : Fin 32) (q : QB) : FieldsRead.Statement (.qcnt c d q) := by
  rintro f ⟨⟩
  rw [instr_0C2 _ rfl]
  simp
theorem FieldsRead.bar (c : Ctl) (lw lh : BitVec 3) : FieldsRead.Statement (.bar c lw lh) := by
  rintro f ⟨⟩
  rw [instr_0C3 _ rfl]
  simp
  exact ⟨by (repeat first | rw [extract_low _ _ (by decide)] | rw [extract_high _ _ (by decide)]); exact extract_whole _,
    by (repeat first | rw [extract_low _ _ (by decide)] | rw [extract_high _ _ (by decide)]); exact extract_whole _⟩
theorem FieldsRead.barAll (c : Ctl) : FieldsRead.Statement (.barAll c) := by
  rintro f ⟨⟩
  rw [instr_0C3 _ rfl]
  simp
theorem FieldsRead.xch (c : Ctl) : FieldsRead.Statement (.xch c) := by
  rintro f ⟨⟩
  rw [instr_0C4 _ rfl]
  simp
theorem FieldsRead.phase (c : Ctl) (tf tb : Fin 32) : FieldsRead.Statement (.phase c tf tb) := by
  rintro f ⟨⟩
  rw [instr_0C5 _ rfl]
  simp
theorem FieldsRead.vadd (c : Ctl) (ty : Ty) (sat : Bool) (d a : Fin 32) (b : VOp) : FieldsRead.Statement (.vadd c ty sat d a b) := by
  rintro f ⟨⟩
  cases b <;> rw [instr_100 _ rfl] <;> simp
theorem FieldsRead.vsub (c : Ctl) (ty : Ty) (sat : Bool) (d a : Fin 32) (b : VOp) : FieldsRead.Statement (.vsub c ty sat d a b) := by
  rintro f ⟨⟩
  cases b <;> rw [instr_101 _ rfl] <;> simp
theorem FieldsRead.vmul (c : Ctl) (ty : Ty) (sel : MulSel) (sat : Bool) (d a : Fin 32) (b : VOp) : FieldsRead.Statement (.vmul c ty sel sat d a b) := by
  rintro f ⟨⟩
  cases b <;> rw [instr_102 _ rfl] <;> simp
theorem FieldsRead.vmad (c : Ctl) (ty : Ty) (sat : Bool) (d a : Fin 32) (b : VOp) (e : Fin 32) : FieldsRead.Statement (.vmad c ty sat d a b e) := by
  rintro f ⟨⟩
  cases b <;> rw [instr_103 _ rfl] <;> simp
theorem FieldsRead.vand (c : Ctl) (ty : Ty) (d a : Fin 32) (b : VOp) : FieldsRead.Statement (.vand c ty d a b) := by
  rintro f ⟨⟩
  cases b <;> rw [instr_104 _ rfl] <;> simp
theorem FieldsRead.vor (c : Ctl) (ty : Ty) (d a : Fin 32) (b : VOp) : FieldsRead.Statement (.vor c ty d a b) := by
  rintro f ⟨⟩
  cases b <;> rw [instr_105 _ rfl] <;> simp
theorem FieldsRead.vxor (c : Ctl) (ty : Ty) (d a : Fin 32) (b : VOp) : FieldsRead.Statement (.vxor c ty d a b) := by
  rintro f ⟨⟩
  cases b <;> rw [instr_106 _ rfl] <;> simp
theorem FieldsRead.vshl (c : Ctl) (ty : Ty) (d a : Fin 32) (b : VOp) : FieldsRead.Statement (.vshl c ty d a b) := by
  rintro f ⟨⟩
  cases b <;> rw [instr_107 _ rfl] <;> simp
theorem FieldsRead.vshr (c : Ctl) (ty : Ty) (arith : Bool) (d a : Fin 32) (b : VOp) : FieldsRead.Statement (.vshr c ty arith d a b) := by
  rintro f ⟨⟩
  cases b <;> rw [instr_108 _ rfl] <;> simp
theorem FieldsRead.vmin (c : Ctl) (ty : Ty) (d a : Fin 32) (b : VOp) : FieldsRead.Statement (.vmin c ty d a b) := by
  rintro f ⟨⟩
  cases b <;> rw [instr_109 _ rfl] <;> simp
theorem FieldsRead.vmax (c : Ctl) (ty : Ty) (d a : Fin 32) (b : VOp) : FieldsRead.Statement (.vmax c ty d a b) := by
  rintro f ⟨⟩
  cases b <;> rw [instr_10A _ rfl] <;> simp
theorem FieldsRead.vcmp (c : Ctl) (ty : Ty) (cond : Cond) (d : Fin 16) (a : Fin 32) (b : VOp) : FieldsRead.Statement (.vcmp c ty cond d a b) := by
  rintro f ⟨⟩
  cases b <;> rw [instr_10B _ rfl] <;> simp
theorem FieldsRead.vsel (c : Ctl) (ty : Ty) (d a : Fin 32) (b : VOp) (p : Fin 16) : FieldsRead.Statement (.vsel c ty d a b p) := by
  rintro f ⟨⟩
  cases b <;> rw [instr_10C _ rfl] <;> simp
theorem FieldsRead.vmov (c : Ctl) (ty : Ty) (d : Fin 32) (b : VOp) : FieldsRead.Statement (.vmov c ty d b) := by
  rintro f ⟨⟩
  cases b <;> rw [instr_10D _ rfl] <;> simp
theorem FieldsRead.viota (c : Ctl) (ty : Ty) (d : Fin 32) : FieldsRead.Statement (.viota c ty d) := by
  rintro f ⟨⟩
  rw [instr_10E _ rfl]
  simp
theorem FieldsRead.vfadd (c : Ctl) (rnd : Rnd) (sat : Bool) (d a : Fin 32) (b : VOp) : FieldsRead.Statement (.vfadd c rnd sat d a b) := by
  rintro f ⟨⟩
  cases b <;> rw [instr_140 _ rfl] <;> simp
theorem FieldsRead.vfmul (c : Ctl) (rnd : Rnd) (sat : Bool) (d a : Fin 32) (b : VOp) : FieldsRead.Statement (.vfmul c rnd sat d a b) := by
  rintro f ⟨⟩
  cases b <;> rw [instr_141 _ rfl] <;> simp
theorem FieldsRead.vfma (c : Ctl) (rnd : Rnd) (sat : Bool) (d a : Fin 32) (b : VOp) (e : Fin 32) : FieldsRead.Statement (.vfma c rnd sat d a b e) := by
  rintro f ⟨⟩
  cases b <;> rw [instr_142 _ rfl] <;> simp
theorem FieldsRead.vfmin (c : Ctl) (rnd : Rnd) (sat : Bool) (d a : Fin 32) (b : VOp) : FieldsRead.Statement (.vfmin c rnd sat d a b) := by
  rintro f ⟨⟩
  cases b <;> rw [instr_143 _ rfl] <;> simp
theorem FieldsRead.vfmax (c : Ctl) (rnd : Rnd) (sat : Bool) (d a : Fin 32) (b : VOp) : FieldsRead.Statement (.vfmax c rnd sat d a b) := by
  rintro f ⟨⟩
  cases b <;> rw [instr_144 _ rfl] <;> simp
theorem FieldsRead.vfcmp (c : Ctl) (cond : Cond) (d : Fin 16) (a : Fin 32) (b : VOp) : FieldsRead.Statement (.vfcmp c cond d a b) := by
  rintro f ⟨⟩
  cases b <;> rw [instr_145 _ rfl] <;> simp
theorem FieldsRead.vfcvt (c : Ctl) (ty sty : Ty) (k : BitVec 3) (rnd : Rnd) (sat : Bool) (d a : Fin 32) : FieldsRead.Statement (.vfcvt c ty sty k rnd sat d a) := by
  rintro f ⟨⟩
  rw [instr_146 _ rfl]
  have h : (0#21 ++ k ++ 0#2 ++ sty.code).extractLsb' 0 6 = sty.code := by (repeat first | rw [extract_low _ _ (by decide)] | rw [extract_high _ _ (by decide)]); exact extract_whole _
  simp [h, -BitVec.extractLsb'_toNat]
  exact by (repeat first | rw [extract_low _ _ (by decide)] | rw [extract_high _ _ (by decide)]); exact extract_whole _
theorem FieldsRead.vpadd (c : Ctl) (ty : Ty) (rnd : Rnd) (sat : Bool) (d a : Fin 32) (b : VOp) : FieldsRead.Statement (.vpadd c ty rnd sat d a b) := by
  rintro f ⟨⟩
  cases b <;> rw [instr_147 _ rfl] <;> simp
theorem FieldsRead.vpmul (c : Ctl) (ty : Ty) (rnd : Rnd) (sat : Bool) (d a : Fin 32) (b : VOp) : FieldsRead.Statement (.vpmul c ty rnd sat d a b) := by
  rintro f ⟨⟩
  cases b <;> rw [instr_148 _ rfl] <;> simp
theorem FieldsRead.vpfma (c : Ctl) (ty : Ty) (rnd : Rnd) (sat : Bool) (d a : Fin 32) (b : VOp) (e : Fin 32) : FieldsRead.Statement (.vpfma c ty rnd sat d a b e) := by
  rintro f ⟨⟩
  cases b <;> rw [instr_149 _ rfl] <;> simp
theorem FieldsRead.vrotr (c : Ctl) (ty : Ty) (d a : Fin 32) (b : SOp) : FieldsRead.Statement (.vrotr c ty d a b) := by
  rintro f ⟨⟩
  cases b <;> rw [instr_180 _ rfl] <;> simp
theorem FieldsRead.vrotc (c : Ctl) (ty : Ty) (d a : Fin 32) (b : SOp) : FieldsRead.Statement (.vrotc c ty d a b) := by
  rintro f ⟨⟩
  cases b <;> rw [instr_181 _ rfl] <;> simp
theorem FieldsRead.vbcr (c : Ctl) (ty : Ty) (d a : Fin 32) (b : Option SOp) : FieldsRead.Statement (.vbcr c ty d a b) := by
  rintro f ⟨⟩
  rcases b with _ | (_ | _) <;> rw [instr_182 _ rfl] <;> simp
theorem FieldsRead.vbcc (c : Ctl) (ty : Ty) (d a : Fin 32) (b : Option SOp) : FieldsRead.Statement (.vbcc c ty d a b) := by
  rintro f ⟨⟩
  rcases b with _ | (_ | _) <;> rw [instr_183 _ rfl] <;> simp
theorem FieldsRead.vtrn (c : Ctl) (ty : Ty) (d a : Fin 32) : FieldsRead.Statement (.vtrn c ty d a) := by
  rintro f ⟨⟩
  rw [instr_186 _ rfl]
  simp
theorem FieldsRead.vredr (c : Ctl) (ty : Ty) (op : RedOp) (rnd : Rnd) (sat : Bool) (d a : Fin 32) : FieldsRead.Statement (.vredr c ty op rnd sat d a) := by
  rintro f ⟨⟩
  rw [instr_184 _ rfl]
  simp
theorem FieldsRead.vredc (c : Ctl) (ty : Ty) (op : RedOp) (rnd : Rnd) (sat : Bool) (d a : Fin 32) : FieldsRead.Statement (.vredc c ty op rnd sat d a) := by
  rintro f ⟨⟩
  rw [instr_185 _ rfl]
  simp
theorem FieldsRead.vexp2 (c : Ctl) (d a : Fin 32) : FieldsRead.Statement (.vexp2 c d a) := by
  rintro f ⟨⟩
  rw [instr_188 _ rfl]
  simp
theorem FieldsRead.vlog2 (c : Ctl) (d a : Fin 32) : FieldsRead.Statement (.vlog2 c d a) := by
  rintro f ⟨⟩
  rw [instr_189 _ rfl]
  simp
theorem FieldsRead.vrcp (c : Ctl) (d a : Fin 32) : FieldsRead.Statement (.vrcp c d a) := by
  rintro f ⟨⟩
  rw [instr_18A _ rfl]
  simp
theorem FieldsRead.vrsq (c : Ctl) (d a : Fin 32) : FieldsRead.Statement (.vrsq c d a) := by
  rintro f ⟨⟩
  rw [instr_18B _ rfl]
  simp
theorem FieldsRead.vqnt (c : Ctl) (ty : Ty) (rnd : Rnd) (b64 : Bool) (d e a : Fin 32) : FieldsRead.Statement (.vqnt c ty rnd b64 d e a) := by
  rintro f ⟨⟩
  rw [instr_18C _ rfl]
  simp
theorem FieldsRead.plog (c : Ctl) (op : PlogOp) (d a b : Fin 16) : FieldsRead.Statement (.plog c op d a b) := by
  rintro f ⟨⟩
  rw [instr_1C0 _ rfl]
  simp
theorem FieldsRead.pcnt (c : Ctl) (ffs : Bool) (d : Fin 32) (a : Fin 16) : FieldsRead.Statement (.pcnt c ffs d a) := by
  rintro f ⟨⟩
  rw [instr_1C1 _ rfl]
  simp
theorem FieldsRead.pset (c : Ctl) (pat : Bool) (d : Fin 16) (b : SOp) : FieldsRead.Statement (.pset c pat d b) := by
  rintro f ⟨⟩
  cases b <;> rw [instr_1C2 _ rfl] <;> simp
theorem FieldsRead.cspush (c : Ctl) (t a : Fin 32) : FieldsRead.Statement (.cspush c t a) := by
  rintro f ⟨⟩
  rw [instr_1C4 _ rfl]
  simp
theorem FieldsRead.cspop (c : Ctl) (d t : Fin 32) : FieldsRead.Statement (.cspop c d t) := by
  rintro f ⟨⟩
  rw [instr_1C5 _ rfl]
  simp
theorem FieldsRead.csbal (c : Ctl) (d : Fin 32) (p : Fin 16) (t : Fin 32) : FieldsRead.Statement (.csbal c d p t) := by
  rintro f ⟨⟩
  rw [instr_1C6 _ rfl]
  simp
theorem FieldsRead.mshape (c : Ctl) (ty : Ty) (sp : Bool) (d : Fin 32) (b : SOp) : FieldsRead.Statement (.mshape c ty sp d b) := by
  rintro f ⟨⟩
  cases b <;> rw [instr_200 _ rfl] <;> simp
theorem FieldsRead.mshapeGrp (c : Ctl) (ty : Ty) (sp : Bool) (d : Fin 32) (b : SOp) : FieldsRead.Statement (.mshapeGrp c ty sp d b) := by
  rintro f ⟨⟩
  cases b <;> rw [instr_200 _ rfl] <;> simp
theorem FieldsRead.mload (c : Ctl) (sp : Bool) (t : Fin 32) : FieldsRead.Statement (.mload c sp t) := by
  rintro f ⟨⟩
  rw [instr_201 _ rfl]
  simp
theorem FieldsRead.mswap (c : Ctl) : FieldsRead.Statement (.mswap c) := by
  rintro f ⟨⟩
  rw [instr_202 _ rfl]
  simp
theorem FieldsRead.mmul (c : Ctl) (str : BitVec 2) (last : Bool) (m : Fin 16) (t : Fin 32) : FieldsRead.Statement (.mmul c str last m t) := by
  rintro f ⟨⟩
  rw [instr_203 _ rfl]
  simp
theorem FieldsRead.mmuls (c : Ctl) (str : BitVec 2) (last : Bool) (m : Fin 16) (t : Fin 32) : FieldsRead.Statement (.mmuls c str last m t) := by
  rintro f ⟨⟩
  rw [instr_204 _ rfl]
  simp
theorem FieldsRead.mzero (c : Ctl) (str : BitVec 2) (m : Fin 16) : FieldsRead.Statement (.mzero c str m) := by
  rintro f ⟨⟩
  rw [instr_205 _ rfl]
  simp
theorem FieldsRead.mdrain (c : Ctl) (str : BitVec 2) (ty : Ty) (rnd : Rnd) (sat : Bool) (t : Fin 32) (m : Fin 16) : FieldsRead.Statement (.mdrain c str ty rnd sat t m) := by
  rintro f ⟨⟩
  rw [instr_206 _ rfl]
  simp
theorem FieldsRead.madpt (c : Ctl) (t : Option (Fin 32)) (b : Fin 32) : FieldsRead.Statement (.madpt c t b) := by
  rintro f ⟨⟩
  rw [instr_207 _ rfl]
  simp
theorem FieldsRead.axlt (c : Ctl) (a : Fin 32) (off : Word32) (h : Fin 32) : FieldsRead.Statement (.axlt c a off h) := by
  rintro f ⟨⟩
  rw [instr_240 _ rfl]
  simp
theorem FieldsRead.apref (c : Ctl) (h : Fin 32) : FieldsRead.Statement (.apref c h) := by
  rintro f ⟨⟩
  rw [instr_241 _ rfl]
  simp
theorem FieldsRead.apub (c : Ctl) (a : Fin 32) (off : Word32) (h : Fin 32) : FieldsRead.Statement (.apub c a off h) := by
  rintro f ⟨⟩
  rw [instr_242 _ rfl]
  simp
theorem FieldsRead.aunpin (c : Ctl) (b : Fin 32) : FieldsRead.Statement (.aunpin c b) := by
  rintro f ⟨⟩
  rw [instr_243 _ rfl]
  simp
theorem FieldsRead.cnest (c : Ctl) (lvl : Fin 6) (n : SOp) (ss ds : Fin 32) : FieldsRead.Statement (.cnest c lvl n ss ds) := by
  rintro f ⟨⟩
  have h := lvl.isLt
  cases n <;> (rw [instr_280 _ rfl]; simp; exact ⟨by omega, Fin.ext (Nat.mod_eq_of_lt (by omega))⟩)
theorem FieldsRead.cpy (c : Ctl) (dst src : TS) (b : SOp) (bar sh : Option (Fin 32)) : FieldsRead.Statement (.cpy c dst src b bar sh) := by
  rintro f ⟨⟩
  cases b <;> rw [instr_281 _ rfl] <;> simp
theorem FieldsRead.cpym (c : Ctl) (str : BitVec 2) (last : Bool) (d : Fin 32) (src : TS) (b : SOp) (bar : Option (Fin 32)) (m : Fin 16) : FieldsRead.Statement (.cpym c str last d src b bar m) := by
  rintro f ⟨⟩
  cases b <;> rw [instr_282 _ rfl] <;> simp
theorem FieldsRead.tbinit (c : Ctl) (a : Fin 32) (n : SOp) : FieldsRead.Statement (.tbinit c a n) := by
  rintro f ⟨⟩
  cases n <;> rw [instr_284 _ rfl] <;> simp
theorem FieldsRead.tbarv (c : Ctl) (a : Fin 32) (n : SOp) : FieldsRead.Statement (.tbarv c a n) := by
  rintro f ⟨⟩
  cases n <;> rw [instr_285 _ rfl] <;> simp
theorem FieldsRead.tbwait (c : Ctl) (chk : Bool) (a : Fin 32) (n : SOp) : FieldsRead.Statement (.tbwait c chk a n) := by
  rintro f ⟨⟩
  cases n <;> rw [instr_286 _ rfl] <;> simp
theorem FieldsRead.tset (c : Ctl) (t : Fin 32) (n : SOp) : FieldsRead.Statement (.tset c t n) := by
  rintro f ⟨⟩
  cases n <;> rw [instr_288 _ rfl] <;> simp
theorem FieldsRead.tsetDef (c : Ctl) (t a : Fin 32) : FieldsRead.Statement (.tsetDef c t a) := by
  rintro f ⟨⟩
  rw [instr_288 _ rfl]
  simp
theorem FieldsRead.sendm (c : Ctl) (ocl : BitVec 4) (h a : Fin 32) (off : Word32) (l : Fin 32) (bar : Option (Fin 32)) : FieldsRead.Statement (.sendm c ocl h a off l bar) := by
  rintro f ⟨⟩
  rw [instr_2C0 _ rfl]
  simp
theorem FieldsRead.rpost (c : Ctl) (d a : Fin 32) (off : Word32) : FieldsRead.Statement (.rpost c d a off) := by
  rintro f ⟨⟩
  rw [instr_2C1 _ rfl]
  simp
theorem FieldsRead.rcancel (c : Ctl) (d h : Fin 32) : FieldsRead.Statement (.rcancel c d h) := by
  rintro f ⟨⟩
  rw [instr_2C2 _ rfl]
  simp
theorem FieldsRead.rprobe (c : Ctl) (d a : Fin 32) (off : Word32) : FieldsRead.Statement (.rprobe c d a off) := by
  rintro f ⟨⟩
  rw [instr_2C3 _ rfl]
  simp
theorem FieldsRead.rld (c : Ctl) (ty : Ty) (acq : Bool) (ocl : BitVec 4) (scp : BitVec 3) (d n a : Fin 32) (off : Word32) : FieldsRead.Statement (.rld c ty acq ocl scp d n a off) := by
  rintro f ⟨⟩
  rw [instr_2C4 _ rfl]
  simp
theorem FieldsRead.rst (c : Ctl) (ty : Ty) (add rel : Bool) (ocl : BitVec 4) (scp : BitVec 3) (n a : Fin 32) (off : Word32) (v : Fin 32) (bar : Option (Fin 32)) : FieldsRead.Statement (.rst c ty add rel ocl scp n a off v bar) := by
  rintro f ⟨⟩
  rw [instr_2C5 _ rfl]
  simp
theorem FieldsRead.ratom (c : Ctl) (ty : Ty) (op : AtomOp) (ord : AtomOrd) (ocl : BitVec 4) (scp : BitVec 3) (d n a v : Fin 32) (cmp : Option (Fin 32)) : FieldsRead.Statement (.ratom c ty op ord ocl scp d n a v cmp) := by
  rintro f ⟨⟩
  rw [instr_2C6 _ rfl]
  simp
theorem FieldsRead.msop (c : Ctl) (op : BitVec 4) (ocl : BitVec 4) (n a : Fin 32) (off : Word32) (r bar : Fin 32) : FieldsRead.Statement (.msop c op ocl n a off r bar) := by
  rintro f ⟨⟩
  rw [instr_2C7 _ rfl]
  simp
theorem FieldsRead.cpost (c : Ctl) (a : Fin 32) (off : Word32) : FieldsRead.Statement (.cpost c a off) := by
  rintro f ⟨⟩
  rw [instr_2C8 _ rfl]
  simp
theorem FieldsRead.trap (c : Ctl) (code : Word32) (a : Option (Fin 32)) : FieldsRead.Statement (.trap c code a) := by
  rintro f ⟨⟩
  rw [instr_300 _ rfl]
  simp
theorem FieldsRead.eret (c : Ctl) : FieldsRead.Statement (.eret c) := by
  rintro f ⟨⟩
  rw [instr_301 _ rfl]
  simp
theorem FieldsRead.mfsr (c : Ctl) (d : Fin 32) (n : BitVec 12) (r : Option (Fin 32)) : FieldsRead.Statement (.mfsr c d n r) := by
  rintro f ⟨⟩
  rw [instr_302 _ rfl]
  simp
  exact by (repeat first | rw [extract_low _ _ (by decide)] | rw [extract_high _ _ (by decide)]); exact extract_whole _
theorem FieldsRead.mtsr (c : Ctl) (n : BitVec 12) (a : Fin 32) (r : Option (Fin 32)) : FieldsRead.Statement (.mtsr c n a r) := by
  rintro f ⟨⟩
  rw [instr_303 _ rfl]
  simp
  exact by (repeat first | rw [extract_low _ _ (by decide)] | rw [extract_high _ _ (by decide)]); exact extract_whole _
theorem FieldsRead.waiti (c : Ctl) (rel : Bool) (b : SOp) : FieldsRead.Statement (.waiti c rel b) := by
  rintro f ⟨⟩
  cases b <;> rw [instr_304 _ rfl] <;> simp
theorem FieldsRead.bkpt (c : Ctl) (frz : Bool) (code : BitVec 16) : FieldsRead.Statement (.bkpt c frz code) := by
  rintro f ⟨⟩
  rw [instr_305 _ rfl]
  simp
  exact by (repeat first | rw [extract_low _ _ (by decide)] | rw [extract_high _ _ (by decide)]); exact extract_whole _
theorem FieldsRead.wtclr (c : Ctl) (ocl : BitVec 4) (a : Fin 32) (off : Word32) (l : Fin 32) : FieldsRead.Statement (.wtclr c ocl a off l) := by
  rintro f ⟨⟩
  rw [instr_306 _ rfl]
  simp
theorem FieldsRead.wtclrRegs (c : Ctl) : FieldsRead.Statement (.wtclrRegs c) := by
  rintro f ⟨⟩
  rw [instr_306 _ rfl]
  simp
theorem FieldsRead.vainv (c : Ctl) (a : Fin 32) (l : SOp) : FieldsRead.Statement (.vainv c a l) := by
  rintro f ⟨⟩
  cases l <;> rw [instr_307 _ rfl] <;> simp
theorem FieldsRead.mstatFinFault : FieldsRead.Statement .mstatFinFault := fields_none _ rfl
theorem FieldsRead.mstatFinKill : FieldsRead.Statement .mstatFinKill := fields_none _ rfl
theorem FieldsRead.seedWrite (v : Word32) : FieldsRead.Statement (.seedWrite v) := fields_none _ rfl
theorem FieldsRead.vpreqWrite (tvp : BitVec 3) : FieldsRead.Statement (.vpreqWrite tvp) := fields_none _ rfl
theorem FieldsRead.rowmvGo (core : CoreId) (v : Word32) : FieldsRead.Statement (.rowmvGo core v) := fields_none _ rfl
theorem FieldsRead.eerrClear (core : CoreId) : FieldsRead.Statement (.eerrClear core) := fields_none _ rfl
theorem FieldsRead.ferrClear (core : CoreId) : FieldsRead.Statement (.ferrClear core) := fields_none _ rfl
theorem FieldsRead.registerWrite (blk : RegBlk) (off : BitVec 24) (v : Word) : FieldsRead.Statement (.registerWrite blk off v) := fields_none _ rfl
theorem FieldsRead.evacuationChunkCopy (core : CoreId) (bank : Fin 16) : FieldsRead.Statement (.evacuationChunkCopy core bank) := fields_none _ rfl
theorem FieldsRead.vpRailReached : FieldsRead.Statement .vpRailReached := fields_none _ rfl
theorem FieldsRead.launchPortWrite (f : FnId) (sup : Bool) (pcie : Fin 2) (r : Line) : FieldsRead.Statement (.launchPortWrite f sup pcie r) := fields_none _ rfl
theorem FieldsRead.kill (f : FnId) (cptr : Word) : FieldsRead.Statement (.kill f cptr) := fields_none _ rfl
theorem FieldsRead.recordAdmit (id : Nat) : FieldsRead.Statement (.recordAdmit id) := fields_none _ rfl
theorem FieldsRead.regionBalance : FieldsRead.Statement .regionBalance := fields_none _ rfl
theorem FieldsRead.launchPlace (leaf : Fin 2) : FieldsRead.Statement (.launchPlace leaf) := fields_none _ rfl
theorem FieldsRead.contextSave (core : CoreId) : FieldsRead.Statement (.contextSave core) := fields_none _ rfl
theorem FieldsRead.contextRestore (id : Nat) : FieldsRead.Statement (.contextRestore id) := fields_none _ rfl
theorem FieldsRead.preemptTimeout (core : CoreId) : FieldsRead.Statement (.preemptTimeout core) := fields_none _ rfl
theorem FieldsRead.sliceBoundary : FieldsRead.Statement .sliceBoundary := fields_none _ rfl
theorem FieldsRead.launchDrainComplete (id : Nat) : FieldsRead.Statement (.launchDrainComplete id) := fields_none _ rfl
theorem FieldsRead.trackerComplete (id : Nat) : FieldsRead.Statement (.trackerComplete id) := fields_none _ rfl
theorem FieldsRead.barrierComplete (core : CoreId) : FieldsRead.Statement (.barrierComplete core) := fields_none _ rfl
theorem FieldsRead.csbalComplete (core : CoreId) : FieldsRead.Statement (.csbalComplete core) := fields_none _ rfl
theorem FieldsRead.phaseBoundary (core : CoreId) : FieldsRead.Statement (.phaseBoundary core) := fields_none _ rfl
theorem FieldsRead.exchangeStepStart (id : Nat) : FieldsRead.Statement (.exchangeStepStart id) := fields_none _ rfl
theorem FieldsRead.exchangeBeat (core : CoreId) : FieldsRead.Statement (.exchangeBeat core) := fields_none _ rfl
theorem FieldsRead.exchangeStepEnd (id : Nat) : FieldsRead.Statement (.exchangeStepEnd id) := fields_none _ rfl
theorem FieldsRead.sfuResultLand (core : CoreId) : FieldsRead.Statement (.sfuResultLand core) := fields_none _ rfl
theorem FieldsRead.loadResult (core : CoreId) (q : SeqId) : FieldsRead.Statement (.loadResult core q) := fields_none _ rfl
theorem FieldsRead.remoteVaultAccess (n : Nat) : FieldsRead.Statement (.remoteVaultAccess n) := fields_none _ rfl
theorem FieldsRead.remoteVaultReply (n : Nat) : FieldsRead.Statement (.remoteVaultReply n) := fields_none _ rfl
theorem FieldsRead.landingRowRetire (core : CoreId) (bank : Fin 16) : FieldsRead.Statement (.landingRowRetire core bank) := fields_none _ rfl
theorem FieldsRead.vaultScrub (core : CoreId) (bank : Fin 16) : FieldsRead.Statement (.vaultScrub core bank) := fields_none _ rfl
theorem FieldsRead.mscScrub (leaf : Fin 2) : FieldsRead.Statement (.mscScrub leaf) := fields_none _ rfl
theorem FieldsRead.copyCommandStart (core : CoreId) : FieldsRead.Statement (.copyCommandStart core) := fields_none _ rfl
theorem FieldsRead.copyBlockMove (core : CoreId) : FieldsRead.Statement (.copyBlockMove core) := fields_none _ rfl
theorem FieldsRead.cpymFollowonEnqueue (core : CoreId) : FieldsRead.Statement (.cpymFollowonEnqueue core) := fields_none _ rfl
theorem FieldsRead.gatherRow (core : CoreId) : FieldsRead.Statement (.gatherRow core) := fields_none _ rfl
theorem FieldsRead.matrixCommandExecute (core : CoreId) (n : Nat) : FieldsRead.Statement (.matrixCommandExecute core n) := fields_none _ rfl
theorem FieldsRead.matrixPass (core : CoreId) (n : Nat) : FieldsRead.Statement (.matrixPass core n) := fields_none _ rfl
theorem FieldsRead.sidePathLast (core : CoreId) (n : Nat) : FieldsRead.Statement (.sidePathLast core n) := fields_none _ rfl
theorem FieldsRead.adapterPageArrive (h : BitVec 20) (ver : BitVec 16) (pageB : Bool) (o : PageOutcome) : FieldsRead.Statement (.adapterPageArrive h ver pageB o) := fields_none _ rfl
theorem FieldsRead.adapterPageTimeout (core : CoreId) (n : Nat) : FieldsRead.Statement (.adapterPageTimeout core n) := fields_none _ rfl
theorem FieldsRead.pinFree (core : CoreId) (pin : Fin 32) : FieldsRead.Statement (.pinFree core pin) := fields_none _ rfl
theorem FieldsRead.markerRetire (core : CoreId) (k : Fin 4) (e : Fin 5) : FieldsRead.Statement (.markerRetire core k e) := fields_none _ rfl
theorem FieldsRead.extentMissRetry (n : Nat) : FieldsRead.Statement (.extentMissRetry n) := fields_none _ rfl
theorem FieldsRead.extentMissAbort (n : Nat) : FieldsRead.Statement (.extentMissAbort n) := fields_none _ rfl
theorem FieldsRead.extentDescriptorWrite (vf : Fin 64) (i : Fin 64) (d : BitVec 256) : FieldsRead.Statement (.extentDescriptorWrite vf i d) := fields_none _ rfl
theorem FieldsRead.acwaysWrite (n : BitVec 4) : FieldsRead.Statement (.acwaysWrite n) := fields_none _ rfl
theorem FieldsRead.hbmRequestComplete : FieldsRead.Statement .hbmRequestComplete := fields_none _ rfl
theorem FieldsRead.cxlRelease (lo hi : BitVec 52) : FieldsRead.Statement (.cxlRelease lo hi) := fields_none _ rfl
theorem FieldsRead.cxlSurpriseRelease (lo hi : BitVec 52) : FieldsRead.Statement (.cxlSurpriseRelease lo hi) := fields_none _ rfl
theorem FieldsRead.remoteOpArrive (p : RemoteOp) : FieldsRead.Statement (.remoteOpArrive p) := fields_none _ rfl
theorem FieldsRead.remoteOpAck (a : RemoteAck) : FieldsRead.Statement (.remoteOpAck a) := fields_none _ rfl
theorem FieldsRead.remoteOpTimeout (n : Nat) : FieldsRead.Statement (.remoteOpTimeout n) := fields_none _ rfl
theorem FieldsRead.msopResult (n : Nat) : FieldsRead.Statement (.msopResult n) := fields_none _ rfl
theorem FieldsRead.rstAddCombine (i j : Nat) : FieldsRead.Statement (.rstAddCombine i j) := fields_none _ rfl
theorem FieldsRead.linkLaneFailure (l : Fin 6) : FieldsRead.Statement (.linkLaneFailure l) := fields_none _ rfl
theorem FieldsRead.linkRetrainComplete (l : Fin 6) : FieldsRead.Statement (.linkRetrainComplete l) := fields_none _ rfl
theorem FieldsRead.keyGenerationChange (l : Fin 6) : FieldsRead.Statement (.keyGenerationChange l) := fields_none _ rfl
theorem FieldsRead.messageArrive (m : Message) : FieldsRead.Statement (.messageArrive m) := fields_none _ rfl
theorem FieldsRead.messageRetry (n : Nat) : FieldsRead.Statement (.messageRetry n) := fields_none _ rfl
theorem FieldsRead.messageSendTimeout (n : Nat) : FieldsRead.Statement (.messageSendTimeout n) := fields_none _ rfl
theorem FieldsRead.messageLandingComplete (core : CoreId) : FieldsRead.Statement (.messageLandingComplete core) := fields_none _ rfl
theorem FieldsRead.eventHeldFlush (f : FnId) : FieldsRead.Statement (.eventHeldFlush f) := fields_none _ rfl
theorem FieldsRead.counterWrap (core : CoreId) (n : Fin 8) : FieldsRead.Statement (.counterWrap core n) := fields_none _ rfl
theorem FieldsRead.stop (vf : Fin 64) : FieldsRead.Statement (.stop vf) := fields_none _ rfl
theorem FieldsRead.resume (vf : Fin 64) : FieldsRead.Statement (.resume vf) := fields_none _ rfl
theorem FieldsRead.exportVf (vf : Fin 64) : FieldsRead.Statement (.exportVf vf) := fields_none _ rfl
theorem FieldsRead.discard (vf : Fin 64) : FieldsRead.Statement (.discard vf) := fields_none _ rfl
theorem FieldsRead.importVf (vf : Fin 64) : FieldsRead.Statement (.importVf vf) := fields_none _ rfl
theorem FieldsRead.release (vf : Fin 64) : FieldsRead.Statement (.release vf) := fields_none _ rfl
theorem FieldsRead.timingReplay (core : CoreId) : FieldsRead.Statement (.timingReplay core) := fields_none _ rfl
theorem FieldsRead.replayLimitEvent (core : CoreId) : FieldsRead.Statement (.replayLimitEvent core) := fields_none _ rfl
theorem FieldsRead.scanTestStart (core : CoreId) : FieldsRead.Statement (.scanTestStart core) := fields_none _ rfl
theorem FieldsRead.scanTestAbort (core : CoreId) : FieldsRead.Statement (.scanTestAbort core) := fields_none _ rfl
theorem FieldsRead.scanTestComplete (core : CoreId) (pass : Bool) (floors : List (Nat × Nat)) : FieldsRead.Statement (.scanTestComplete core pass floors) := fields_none _ rfl
theorem FieldsRead.logicalMapChange (leaf : Fin 2) : FieldsRead.Statement (.logicalMapChange leaf) := fields_none _ rfl
theorem FieldsRead.pairedCommit (id : Nat) : FieldsRead.Statement (.pairedCommit id) := fields_none _ rfl
theorem FieldsRead.freeze : FieldsRead.Statement .freeze := fields_none _ rfl
theorem FieldsRead.packageReset : FieldsRead.Statement .packageReset := fields_none _ rfl
theorem FieldsRead.thermalWarning (t : BitVec 64) : FieldsRead.Statement (.thermalWarning t) := fields_none _ rfl
theorem FieldsRead.thermtrip : FieldsRead.Statement .thermtrip := fields_none _ rfl
theorem FieldsRead.worldBitSet (u : WorldUnit) (b : Bool) : FieldsRead.Statement (.worldBitSet u b) := fields_none _ rfl
theorem FieldsRead.getVersion : FieldsRead.Statement .getVersion := fields_none _ rfl
theorem FieldsRead.getCapabilities : FieldsRead.Statement .getCapabilities := fields_none _ rfl
theorem FieldsRead.negotiateAlgorithms : FieldsRead.Statement .negotiateAlgorithms := fields_none _ rfl
theorem FieldsRead.getDigests : FieldsRead.Statement .getDigests := fields_none _ rfl
theorem FieldsRead.getCertificate : FieldsRead.Statement .getCertificate := fields_none _ rfl
theorem FieldsRead.challenge : FieldsRead.Statement .challenge := fields_none _ rfl
theorem FieldsRead.getMeasurements (vf : FnId) (cptr : Word) : FieldsRead.Statement (.getMeasurements vf cptr) := fields_none _ rfl
theorem FieldsRead.railsFall : FieldsRead.Statement .railsFall := fields_none _ rfl
theorem FieldsRead.flitReplay (l : Fin 6) : FieldsRead.Statement (.flitReplay l) := fields_none _ rfl
theorem FieldsRead.matrixCommandFinish (core : CoreId) (n : Nat) : FieldsRead.Statement (.matrixCommandFinish core n) := fields_none _ rfl
theorem FieldsRead.mulDivResult (core : CoreId) (q : SeqId) : FieldsRead.Statement (.mulDivResult core q) := fields_none _ rfl
theorem FieldsRead.waitiDeadline (core : CoreId) (q : SeqId) : FieldsRead.Statement (.waitiDeadline core q) := fields_none _ rfl
theorem FieldsRead.class0Preemption (leaf : Fin 2) : FieldsRead.Statement (.class0Preemption leaf) := fields_none _ rfl

end Sys2Proof.Laws
end

