-- ==== Sys2Proof/Laws/Retire.lean ====
section
/-! SUPPORT. What retiring an instruction changes, said once: `Retires`. -/

namespace Sys2Proof.Machine

/-! ## Changes of the acting core only -/

theorem OutsideSame.refl (s : State) : OutsideSame s s := ⟨rfl, fun _ _ => rfl⟩

theorem OutsideSame.trans {s t r : State} (a : OutsideSame s t) (b : OutsideSame t r) : OutsideSame s r := by
  refine ⟨?_, fun d h => ?_⟩
  · rw [b.device, a.device]
  · have e : t.cur = s.cur := by rw [a.device]
    rw [b.cores d (by rw [e]; exact h), a.cores d h]

theorem outside_modCC (s : State) (g : Core → Core) : OutsideSame s (s.modCC g) :=
  ⟨rfl, fun d h => State.core_modCC_ne s g d h⟩

theorem outside_modSq (s : State) (g : Seq → Seq) : OutsideSame s (s.modSq g) := outside_modCC s _

theorem OutsideSame.cur {s t : State} (a : OutsideSame s t) : t.cur = s.cur := by rw [a.device]

theorem OutsideSame.curSeq {s t : State} (a : OutsideSame s t) : t.curSeq = s.curSeq := by rw [a.device]

/-! ## The parts of retiring -/

/-- The core after retiring, from the core before. -/
theorem Core.countEv_eq (k : Core) (ev n : Nat) :
    k.countEv ev n = { k with cnt := (k.countEv ev n).cnt, cntcfg := (k.countEv ev n).cntcfg, wrapped := (k.countEv ev n).wrapped } := by
  unfold Core.countEv; split <;> rfl

@[simp] theorem Core.seq_countEv (k : Core) (ev n : Nat) (i : SeqId) : (k.countEv ev n).seq i = k.seq i := by
  rw [Core.countEv_eq]; cases i <;> rfl

@[simp] theorem Core.x_countEv (k : Core) (ev n : Nat) : (k.countEv ev n).x = k.x := by rw [Core.countEv_eq]

@[simp] theorem Core.m_countEv (k : Core) (ev n : Nat) : (k.countEv ev n).m = k.m := by rw [Core.countEv_eq]

theorem foldl_or_pass (n : Nat) (v : Flags) (l : List FlagPend) :
    (l.map fun e => { e with left := e.left - n }).foldl (fun v e => v ||| e.fl) v = l.foldl (fun v e => v ||| e.fl) v := by
  induction l generalizing v with
  | nil => rfl
  | cons e l ih => simpa using ih _

@[simp] theorem XUnit.settleAll_pass (n : Nat) (x : XUnit) : (x.pass n).settleAll.vstat = x.settleAll.vstat := by
  simp only [XUnit.pass, XUnit.settleAll, foldl_or_pass]

/-! ## What the parts leave as it was -/

@[simp] theorem Core.rest_modSeq (k : Core) (i : SeqId) (g : Seq → Seq) : (k.modSeq i g).rest = k.rest := by cases i <;> rfl
@[simp] theorem Core.rest_modX (k : Core) (g : XUnit → XUnit) : (k.modX g).rest = k.rest := rfl
@[simp] theorem Core.rest_countEv (k : Core) (ev n : Nat) : (k.countEv ev n).rest = k.rest := by rw [Core.countEv_eq]; rfl
@[simp] theorem Core.rest_setCount (k : Core) (n : Nat) : (k.setCount n).rest = k.rest := rfl

@[simp] theorem XUnit.rest_pass (x : XUnit) (n : Nat) : (x.pass n).rest = x.rest := rfl
@[simp] theorem XUnit.rest_wv (x : XUnit) (r : Fin 32) (v : VReg) : (x.wv r v).rest = x.rest := rfl
@[simp] theorem XUnit.rest_wp (x : XUnit) (r : Fin 16) (v : BitVec 1024) : (x.wp r v).rest = x.rest := by
  unfold XUnit.wp; split <;> rfl
@[simp] theorem Seq.rest_ws (q : Seq) (r : Fin 32) (v : Word) : (q.ws r v).rest = q.rest := by unfold Seq.ws; split <;> rfl
@[simp] theorem Seq.rest_wf (q : Seq) (r : Fin 8) (v : Bool) : (q.wf r v).rest = q.rest := by unfold Seq.wf; split <;> rfl

/-! ## Retiring -/

/-- The core of a state that differs in the acting core only. -/
theorem Retires.of_core {t r : State} {pc : Word} (o : OutsideSame t r)
    (rest : r.cc.rest = t.cc.rest) (sq : (r.cc.seq t.curSeq).rest = (t.cc.seq t.curSeq).rest) (x : r.cc.x.rest = t.cc.x.rest)
    (other : r.cc.seq (SeqId.other t.curSeq) = t.cc.seq (SeqId.other t.curSeq))
    (hs : (r.cc.seq t.curSeq).s = (t.cc.seq t.curSeq).s) (hf : (r.cc.seq t.curSeq).f = (t.cc.seq t.curSeq).f)
    (hv : r.cc.x.v = t.cc.x.v) (hp : r.cc.x.p = t.cc.x.p) (hm : r.cc.m = t.cc.m)
    (vs : r.cc.x.settleAll.vstat = t.cc.x.settleAll.vstat) (hg : r.cc.x.gen = t.cc.x.gen)
    (hr : (r.cc.seq t.curSeq).results = (t.cc.seq t.curSeq).results) (hw : (r.cc.seq t.curSeq).wait = none)
    (hpc : (r.cc.seq t.curSeq).pc = pc) : Retires pc t r := by
  have e : r.sq = r.cc.seq t.curSeq := by rw [State.sq, o.curSeq]
  refine ⟨o, rest, ?_, x, ⟨other, ?_, ?_, ?_, ?_, ?_⟩, vs, hg, ?_, ?_, ?_⟩
  · rw [e]; exact sq
  · intro n _; rw [State.rs, State.rs, e, Seq.rs, Seq.rs, hs]; rfl
  · intro n _; rw [State.rf, State.rf, e, Seq.rf, Seq.rf, hf]; rfl
  · intro n _; simp [State.rv, XUnit.rv, hv]
  · intro n _; simp [State.rp, XUnit.rp, hp]
  · intro n _; rw [hm]
  · rw [e]; exact hr
  · rw [e]; exact hw
  · rw [e]; exact hpc

/-- Counting an instruction: the issue slot, the counters, the pending flags. -/
def Core.counted (k : Core) (q : SeqId) (vec : Bool) : Core :=
  match q with
  | .as => k.countEv 1 1
  | .xs => let k := ((k.setCount (k.count + 1)).modX (XUnit.pass 1)).countEv 2 1; if vec then k.countEv 3 1 else k

theorem State.countIssue_eq (s : State) (vec : Bool) : s.countIssue vec = s.modCC fun k => k.counted s.curSeq vec := rfl

@[simp] theorem Core.rest_counted (k : Core) (q : SeqId) (vec : Bool) : (k.counted q vec).rest = k.rest := by
  cases q <;> cases vec <;> simp [Core.counted]

@[simp] theorem Core.seq_setCount (k : Core) (n : Nat) (i : SeqId) : (k.setCount n).seq i = k.seq i := by cases i <;> rfl

@[simp] theorem Core.seq_counted (k : Core) (q : SeqId) (vec : Bool) (i : SeqId) : (k.counted q vec).seq i = k.seq i := by
  cases q <;> cases vec <;> simp [Core.counted]

@[simp] theorem Core.m_counted (k : Core) (q : SeqId) (vec : Bool) : (k.counted q vec).m = k.m := by
  cases q <;> cases vec <;> simp [Core.counted, Core.setCount]

theorem Core.x_setCount (k : Core) (n : Nat) :
    (k.setCount n).x = if k.xs.inh then { k.x with hcount := n } else { k.x with count := n } := rfl

theorem Core.x_counted (k : Core) (q : SeqId) (vec : Bool) : (k.counted q vec).x.rest = k.x.rest ∧
    (k.counted q vec).x.v = k.x.v ∧ (k.counted q vec).x.p = k.x.p ∧
    (k.counted q vec).x.settleAll.vstat = k.x.settleAll.vstat ∧ (k.counted q vec).x.gen = k.x.gen := by
  cases q
  · simp [Core.counted]
  · cases vec <;> simp only [Core.counted, Core.x_countEv, Core.modX_x, XUnit.settleAll_pass, XUnit.rest_pass, Core.x_setCount,
      if_true, if_false, Bool.false_eq_true] <;> by_cases h : k.xs.inh <;> simp [h, XUnit.pass, XUnit.rest, XUnit.settleAll]

/-- Tagging the destinations, in the core. -/
def Core.tagged (k : Core) (q : SeqId) (u : RegUse) (c : Ctl) (sec : Bool) : Core :=
  let k := k.modSeq q fun q => { q with
    sSec := tagBits q.sSec u.sW (some 0) fun _ => sec
    fSec := tagBits q.fSec u.fW (some 7) fun _ => sec }
  { k with
    mSec := tagBits k.mSec u.mW none fun _ => sec
    tileSec := tagBits k.tileSec u.tW none fun _ => sec
    kSec := tagBits k.kSec u.kW none fun _ => sec
    x := { k.x with
      vSec := tagBits k.x.vSec u.vW none fun r => sec || (!c.noLanes && bt k.x.vSec r.val)
      pSec := tagBits k.x.pSec u.pW (some 15) fun r => sec || (!c.noLanes && bt k.x.pSec r.val) } }

theorem State.tagDests_eq (s : State) (u : RegUse) (c : Ctl) (sec : Bool) :
    s.tagDests u c sec = s.modCC fun k => k.tagged s.curSeq u c sec := rfl

theorem Core.rest_tagged (k : Core) (q : SeqId) (u : RegUse) (c : Ctl) (sec : Bool) : (k.tagged q u c sec).rest = k.rest := by
  cases q <;> rfl

theorem Core.x_tagged (k : Core) (q : SeqId) (u : RegUse) (c : Ctl) (sec : Bool) :
    (k.tagged q u c sec).x.rest = k.x.rest ∧ (k.tagged q u c sec).x.v = k.x.v ∧ (k.tagged q u c sec).x.p = k.x.p ∧
      (k.tagged q u c sec).x.settleAll.vstat = k.x.settleAll.vstat ∧ (k.tagged q u c sec).x.gen = k.x.gen ∧
      (k.tagged q u c sec).m = k.m := by
  cases q <;> exact ⟨rfl, rfl, rfl, rfl, rfl, rfl⟩

theorem Core.seq_tagged (k : Core) (q : SeqId) (u : RegUse) (c : Ctl) (sec : Bool) :
    ((k.tagged q u c sec).seq q).rest = (k.seq q).rest ∧ ((k.tagged q u c sec).seq q).s = (k.seq q).s ∧
      ((k.tagged q u c sec).seq q).f = (k.seq q).f ∧ ((k.tagged q u c sec).seq q).results = (k.seq q).results ∧
      (k.tagged q u c sec).seq (SeqId.other q) = k.seq (SeqId.other q) := by
  cases q <;> exact ⟨rfl, rfl, rfl, rfl, rfl⟩

/-- Clearing the poison of registers that are written in full. -/
theorem Core.clearPois_same (k : Core) (ms : List (Fin 16)) (ks : List (Fin 4)) (ps : List (Fin 16)) :
    (k.clearPois ms ks ps).rest = k.rest ∧ (k.clearPois ms ks ps).m = k.m ∧ (k.clearPois ms ks ps).x.rest = k.x.rest ∧
      (k.clearPois ms ks ps).x.v = k.x.v ∧ (k.clearPois ms ks ps).x.p = k.x.p ∧
      (k.clearPois ms ks ps).x.settleAll.vstat = k.x.settleAll.vstat ∧ (k.clearPois ms ks ps).x.gen = k.x.gen :=
  ⟨rfl, rfl, rfl, rfl, rfl, rfl, rfl⟩

theorem Core.seq_clearPois (k : Core) (ms : List (Fin 16)) (ks : List (Fin 4)) (ps : List (Fin 16)) (i : SeqId) :
    (k.clearPois ms ks ps).seq i = k.seq i := by
  cases i <;> rfl

theorem Seq.clearPois_same (q : Seq) (rs : List (Fin 32)) (fs : List (Fin 8)) :
    (q.clearPois rs fs).rest = q.rest ∧ (q.clearPois rs fs).s = q.s ∧ (q.clearPois rs fs).f = q.f ∧
      (q.clearPois rs fs).results = q.results := ⟨rfl, rfl, rfl, rfl⟩

/-- What an instruction that retires with its own effect comes to. -/
theorem retires_done (s1 t : State) (i : Instr) (c : Ctl) (u : RegUse) (sec : Bool) (pc : Word) :
    Retires pc t (((t.settleDests s1 c u sec).countIssue i.isVector).advance pc) := by
  have hx := fun k => Core.x_tagged k t.curSeq u c (s1.srcSec u c || sec)
  have hq := fun k => Core.seq_tagged k t.curSeq u c (s1.srcSec u c || sec)
  apply Retires.of_core
  · exact ((((outside_modCC _ _).trans (outside_modCC _ _)).trans (outside_modSq _ _)).trans (outside_modCC _ _)).trans (outside_modSq _ _)
  all_goals
    simp only [State.settleDests, State.countIssue_eq, State.advance, State.tagDests_eq, State.modSq, State.cc_modCC,
      State.modCC_curSeq, Core.rest_modSeq, Core.rest_counted, Core.seq_modSeq, Core.seq_counted, Core.seq_modSeq_other,
      Core.modSeq_x, Core.modSeq_m, Core.m_counted, Core.x_counted, Core.clearPois_same, Core.seq_clearPois, Seq.clearPois_same,
      Core.rest_tagged, hx, hq]
  · exact (hq t.cc).1

/-! ## Completion -/

/-- An instruction whose own effect is `.done` retires with it. -/
theorem gives_done {i : Instr} {c : Ctl} {s t : State} {sec : Bool} {body : State → Eff} (h : Issues i c s)
    (e : body (s.startIssue c) = .done t sec) : Gives (issue i body s) (Retires ((s.startIssue c).sq.pc + 16) t) := by
  refine ⟨_, issue_of_issues h body, ?_⟩
  rw [e]
  exact retires_done _ _ _ _ _ _ _

/-- As `gives_done` for a branch that is taken. -/
theorem gives_goto {i : Instr} {c : Ctl} {s t : State} {a : Word} {body : State → Eff} (h : Issues i c s)
    (hv : i.isVector = false) (e : body (s.startIssue c) = .goto t a) : Gives (issue i body s) (Retires a t) := by
  refine ⟨_, issue_of_issues h body, ?_⟩
  rw [e]
  have := retires_done (s.startIssue c) t i c i.regs false a
  rw [hv] at this
  exact this

theorem Gives.imp {o : Host.Outcome State Fault Refusal} {P Q : State → Prop} (h : Gives o P) (f : ∀ t, P t → Q t) : Gives o Q := by
  obtain ⟨t, e, p⟩ := h
  exact ⟨t, e, f t p⟩

end Sys2Proof.Machine
end

