-- ==== Sys2Proof/Laws/StartIssue.lean ====
section
/-! SUPPORT. What the STALL slots of an instruction change (`State.startIssue`), said once: on the AS nothing
but the wait, on the XS the issue count and the SFU results that become due. -/

namespace Sys2Proof.Machine

/-- The sequencer part of the STALL delay. -/
def Seq.started (q : Seq) : Seq :=
  { q with stall := some 0, wait := match q.wait with
    | some (.xfence t) => some (.xfence t)
    | some (.rows x) => some (.rows x)
    | _ => none }

theorem outside_startIssue (s : State) (c : Ctl) : OutsideSame s (s.startIssue c) := by
  unfold State.startIssue
  cases s.curSeq
  · exact outside_modSq _ _
  · exact (outside_modCC _ _).trans (outside_modSq _ _)

@[simp] theorem State.startIssue_cur (s : State) (c : Ctl) : (s.startIssue c).cur = s.cur := (outside_startIssue s c).cur
@[simp] theorem State.startIssue_curSeq (s : State) (c : Ctl) : (s.startIssue c).curSeq = s.curSeq := (outside_startIssue s c).curSeq
@[simp] theorem State.startIssue_mem (s : State) (c : Ctl) : (s.startIssue c).mem = s.mem := by
  rw [(outside_startIssue s c).device]

theorem Core.seq_landSfu (n : Nat) (k : Core) (r : SfuPend) (i : SeqId) : (k.landSfu n r).seq i = k.seq i := by cases i <;> rfl

theorem Core.seq_landDue (n : Nat) (k : Core) (i : SeqId) : (k.landDue n).seq i = k.seq i := by
  unfold Core.landDue
  have : ∀ (l : List SfuPend) (k : Core), (l.foldl (Core.landSfu n) k).seq i = k.seq i := by
    intro l
    induction l with
    | nil => intro k; rfl
    | cons r l ih => intro k; rw [List.foldl_cons, ih, Core.seq_landSfu]
  simp only [Core.setPipe, Core.seq_modX, this]

theorem Core.rest_landDue (n : Nat) (k : Core) : (k.landDue n).rest = k.rest := by
  unfold Core.landDue
  have : ∀ (l : List SfuPend) (k : Core), (l.foldl (Core.landSfu n) k).rest = k.rest := by
    intro l
    induction l with
    | nil => intro k; rfl
    | cons r l ih => intro k; rw [List.foldl_cons, ih]; rfl
  simp only [Core.setPipe, Core.rest_modX, this]

/-- The sequencer after the STALL slots. -/
theorem State.sq_startIssue (s : State) (c : Ctl) : (s.startIssue c).sq = s.sq.started := by
  unfold State.startIssue
  cases h : s.curSeq
  · simp only [State.sq_modSq]; rfl
  · simp only [State.sq_modSq]
    simp only [State.sq, State.cc_modCC, State.modCC_curSeq, Core.seq_landDue, Core.seq_modX, Core.seq_setCount]
    rfl

@[simp] theorem State.startIssue_rs (s : State) (c : Ctl) (r : Fin 32) : (s.startIssue c).rs r = s.rs r := by
  rw [State.rs, State.sq_startIssue]; rfl

@[simp] theorem State.startIssue_rf (s : State) (c : Ctl) (r : Fin 8) : (s.startIssue c).rf r = s.rf r := by
  rw [State.rf, State.sq_startIssue]; rfl

@[simp] theorem State.startIssue_pc (s : State) (c : Ctl) : (s.startIssue c).sq.pc = s.sq.pc := by
  rw [State.sq_startIssue]; rfl

@[simp] theorem State.startIssue_sop (s : State) (c : Ctl) (b : SOp) : (s.startIssue c).sop b = s.sop b := by
  cases b <;> simp [State.sop]

@[simp] theorem State.startIssue_addr (s : State) (c : Ctl) (a : Fin 32) (off : Word32) : (s.startIssue c).addr a off = s.addr a off := by
  simp [State.addr]

/-- The core keeps all but its vector unit and the wait. -/
theorem State.rest_startIssue (s : State) (c : Ctl) : (s.startIssue c).cc.rest = s.cc.rest := by
  unfold State.startIssue
  cases s.curSeq
  · simp only [State.modSq, State.cc_modCC, Core.rest_modSeq]
  · simp only [State.modSq, State.cc_modCC, Core.rest_modSeq, Core.rest_landDue, Core.rest_modX, Core.rest_setCount]

end Sys2Proof.Machine
end

