-- ==== Sys2Proof/Laws/Values.lean ====
section
/-! SUPPORT. The scalar values of the meanings, in the terms of `Safety`: R79, R297, R299. -/

namespace Sys2Proof.Machine

theorem intValue_eq {ty : Ty} (h : ty.scalar = true) (n : Nat) :
    ty.intValue n = if ty.signed then (BitVec.ofNat ty.width n).toInt else (BitVec.ofNat ty.width n).toNat := by
  cases ty <;> simp [Ty.scalar] at h <;> simp [Ty.intValue, Ty.signed, Ty.width, BitVec.toInt] <;> split <;> split <;> omega

theorem sval_eq {ty : Ty} (h : ty.scalar = true) (x : Word) : sval ty x = tyRead ty x := by
  simp only [sval, intValue_eq h, tyRead, tyLow, BitVec.ofNat_toNat]

theorem extend_eq {ty : Ty} (h : ty.scalar = true) (n : Nat) : extend ty n = tyExtend ty (BitVec.ofNat ty.width n) := by
  simp only [extend, intValue_eq h, tyExtend, wi]
  cases ty.signed
  · rw [if_neg (by simp), if_neg (by simp), BitVec.ofInt_natCast, BitVec.ofNat_toNat]
  · simp [BitVec.signExtend]

theorem ofNat_intPattern (ty : Ty) (x : Int) : BitVec.ofNat ty.width (ty.intPattern x) = BitVec.ofInt ty.width x := by
  apply BitVec.eq_of_toNat_eq
  simp only [Ty.intPattern, BitVec.toNat_ofNat, BitVec.toNat_ofInt]
  have h : (0 : Int) < 2 ^ ty.width := by positivity
  have h1 := Int.emod_nonneg x h.ne'
  have h2 := Int.emod_lt_of_pos x h
  rw [Nat.mod_eq_of_lt]
  · norm_cast
  · zify; rw [Int.toNat_of_nonneg h1]; exact_mod_cast h2

theorem wrapVal_eq {ty : Ty} (h : ty.scalar = true) (x : Int) : wrapVal ty x = tyWrap ty x := by
  rw [wrapVal, extend_eq h, ofNat_intPattern, tyWrap]

theorem clampInt_eq {ty : Ty} (h : ty.scalar = true) (x : Int) : (clampInt ty x).1 = tyClamp ty x := by
  have e : ty.range = (tyMin ty, tyMax ty) := by cases ty <;> simp [Ty.scalar] at h <;> rfl
  have le : tyMin ty ≤ tyMax ty := by cases ty <;> simp [Ty.scalar] at h <;> decide
  unfold clampInt tyClamp
  rw [e]
  dsimp only
  split
  · omega
  · split <;> omega

theorem sumVal_eq {ty : Ty} (h : ty.scalar = true) (sat : Bool) (x : Int) :
    sumVal ty sat x = tyWrap ty (if sat then tyClamp ty x else x) := by
  cases sat
  · simp only [sumVal, intResult, extend_eq h, Bool.false_eq_true, if_false, ofNat_intPattern, tyWrap]
  · simp only [sumVal, intResult, extend_eq h, ofNat_intPattern, tyWrap, clampInt_eq h, if_true]

end Sys2Proof.Machine
end

