-- ==== Sys2Proof/Laws/Writes.lean ====
section
/-! SUPPORT. Frames of the register writes, said once per operation: `Writes`. -/

namespace Sys2Proof.Machine

/-- Retiring after a write keeps the frame. -/
theorem Writes.retires {u : RegUse} {s t r : State} {pc : Word} (w : Writes u s t) (h : Retires pc t r) :
    Writes u s r ∧ r.sq.pc = pc := by
  have e := w.outside.curSeq
  refine ⟨⟨w.outside.trans h.outside, h.core.trans w.core, h.seq.trans w.seq, h.unit.trans w.unit, ?_,
    h.results.trans w.results⟩, h.pc⟩
  refine ⟨?_, fun r hr => (h.regs.sRegs r (by simp)).trans (w.regs.sRegs r hr),
    fun r hr => (h.regs.flags r (by simp)).trans (w.regs.flags r hr),
    fun r hr => (h.regs.vRegs r (by simp)).trans (w.regs.vRegs r hr),
    fun r hr => (h.regs.preds r (by simp)).trans (w.regs.preds r hr),
    fun r hr => (h.regs.mRegs r (by simp)).trans (w.regs.mRegs r hr)⟩
  have := h.regs.other
  rw [e] at this
  exact this.trans w.regs.other

theorem Writes.refl (u : RegUse) (s : State) : Writes u s s :=
  ⟨.refl s, rfl, rfl, rfl, ⟨rfl, fun _ _ => rfl, fun _ _ => rfl, fun _ _ => rfl, fun _ _ => rfl, fun _ _ => rfl⟩, rfl⟩

/-- A change of the acting sequencer that writes only some s registers and flags. -/
theorem Writes.of_modSq (u : RegUse) (s : State) (g : Seq → Seq) (hr : (g s.sq).rest = s.sq.rest)
    (hs : ∀ r, r ∉ u.sW → (g s.sq).rs r = s.sq.rs r) (hf : ∀ r, r ∉ u.fW → (g s.sq).rf r = s.sq.rf r)
    (hq : (g s.sq).results = s.sq.results) :
    Writes u s (s.modSq g) := by
  have hx : (s.modSq g).cc.x = s.cc.x := by simp [State.modSq]
  refine ⟨outside_modSq s g, by simp [State.modSq], ?_, by rw [hx], ⟨by simp [State.modSq], ?_, ?_, ?_, ?_, ?_⟩, ?_⟩
  · rw [State.sq_modSq, hr]
  · intro r h; rw [State.rs, State.sq_modSq]; exact hs r h
  · intro r h; rw [State.rf, State.sq_modSq]; exact hf r h
  · intro r _; rw [State.rv, hx]; rfl
  · intro r _; rw [State.rp, hx]; rfl
  · intro r _; simp [State.modSq]
  · rw [State.sq_modSq, hq]

/-- Writing an s register. -/
theorem writes_ws {u : RegUse} {d : Fin 32} (h : d ∈ u.sW) (s : State) (v : Word) : Writes u s (s.ws d v) := by
  apply Writes.of_modSq
  · exact Seq.rest_ws _ _ _
  · intro r hr; rw [Seq.rs_ws, if_neg (by rintro rfl; exact hr h)]
  · intro r _; simp [Seq.rf]
  · unfold Seq.ws; split <;> rfl

/-- Writing a flag. -/
theorem writes_wf {u : RegUse} {d : Fin 8} (h : d ∈ u.fW) (s : State) (v : Bool) : Writes u s (s.wf d v) := by
  apply Writes.of_modSq
  · exact Seq.rest_wf _ _ _
  · intro r _; simp [Seq.rs]
  · intro r hr; rw [Seq.rf_wf, if_neg (by rintro rfl; exact hr h)]
  · unfold Seq.wf; split <;> rfl

theorem holds_ws (s : State) (d : Fin 32) (v : Word) : (s.ws d v).rs d = if d = 0 then 0 else v := by
  rw [State.ws, State.rs, State.sq_modSq, Seq.rs_ws, if_pos rfl]

/-- A frame, the pc and a property of the next state, of an instruction that is done. -/
theorem gives_writes {i : Instr} {c : Ctl} {s t : State} {sec : Bool} {body : State → Eff} {P : State → Prop}
    (h : Issues i c s) (hb : body (s.startIssue c) = .done t sec) (w : Writes i.regs (s.startIssue c) t)
    (hp : ∀ r, Retires (s.sq.pc + 16) t r → P r) :
    Gives (issue i body s) fun r => Writes i.regs (s.startIssue c) r ∧ r.sq.pc = s.sq.pc + 16 ∧ P r :=
  (gives_done h hb).imp fun r x => by
    rw [State.startIssue_pc] at x
    exact ⟨(w.retires x).1, (w.retires x).2, hp r x⟩

/-- An instruction that writes one s register. -/
theorem gives_ws {i : Instr} {c : Ctl} {s : State} {d : Fin 32} {F : State → Word} (h : Issues i c s) (hd : d ∈ i.regs.sW) :
    Gives (issue i (fun s => .done (s.ws d (F s)) false) s) fun t =>
      Writes i.regs (s.startIssue c) t ∧ t.sq.pc = s.sq.pc + 16 ∧ Holds t d (F (s.startIssue c)) ∧ Silent (s.startIssue c) t := by
  refine gives_writes h rfl (writes_ws hd _ _) fun r x => ⟨?_, ?_, ?_⟩
  · rw [Holds, x.regs.sRegs d (by simp), holds_ws]
  · simp only [Raises, x.vstat]
    simp [State.ws, State.modSq]
  · rw [x.gen]
    simp [State.ws, State.modSq]

end Sys2Proof.Machine
end

