-- ==== Sys2Proof/Tests/Slice0.lean ====
section
/-! SUPPORT. The model's own tests: a small state for every statement that has hypotheses, which meets them together
(`witness_<statement>`), a word of every instruction written out from the encoding tables of the spec
(`test_decode_<group>`), ill-formed instructions and reserved words, and one step of some instructions, with values
that the spec's own examples give or that follow from its rules by hand. -/

set_option maxRecDepth 100000
set_option exponentiation.threshold 600

namespace Sys2Proof.Tests
open Sys2Proof Sys2Proof.Machine

/-! ## Small states -/

/-- The unguarded control fields (R13). -/
def cu : Ctl := ⟨false, 7, false, 15, 0, 0⟩

/-- A launch record: width, height, flags and footprint in KiB (Table 3.1). -/
def record (w h flags foot : Nat) : Line :=
  BitVec.ofNat 512 (w * 2 ^ 192 + h * 2 ^ 200 + flags * 2 ^ 208 + foot * 2 ^ 224 + 2 * 2 ^ 256)

/-- A running launch of the PF with flags P, H, X and S. -/
def job : Launch := { Launch.blank with fn := 64, record := record 1 1 29 2048, state := .running }

/-- A running sequencer in monitor mode. -/
def unit0 : Seq := { Seq.reset with run := .running, mode := 3 }

def core0 : Core := { Core.reset with launch := some 0, as := unit0, xs := unit0 }

/-- Core 0 runs `job`, changed as `f` says, with sequencer `q` acting. -/
def world (q : SeqId) (f : Core → Core) : State :=
  { State.reset with cores := vset State.reset.cores 0 (f core0), launches := [job], curSeq := q }

/-- As `world` with the package changed as well. -/
def worldIn (q : SeqId) (f : Core → Core) (g : State → State) : State := g (world q f)

/-- A core whose two sequencers hold these s registers. -/
def withS (l : List (Nat × Word)) (k : Core) : Core :=
  let put (q : Seq) : Seq := { q with s := l.foldl (fun v (e : Nat × Word) => vset v e.1 e.2) q.s }
  { k with as := put k.as, xs := put k.xs }

/-- A core whose vector registers hold one pattern in every lane. -/
def withV (l : List (Nat × Word32)) (k : Core) : Core :=
  { k with x := { k.x with v := l.foldl (fun v (e : Nat × Word32) => vset v e.1 (Vector.replicate 1024 e.2)) k.x.v } }

/-- An identity translation of the PF's first 4 KiB page: V, leaf, W, A, D. -/
def withPage (k : Core) : Core := { k with tlb := [⟨64, 0, 12, 0x1F, 0x3000, 4⟩] }

def withTile (r : Nat) (e : Tile) (k : Core) : Core := { k with tiles := vset k.tiles r e }

/-- The own vault and the own accumulator at offset 0. -/
def ownV : Word := 0x1FFF000000000000
def ownA : Word := 0x2FFF000000000000

/-- Whether a step goes on to a state that `p` accepts. -/
def leads (o : Host.Outcome State Fault Refusal) (p : State → Bool) : Bool :=
  match o with
  | .next t => p t
  | _ => false

/-- Whether an instruction issues with its own effect. -/
def issuesB (i : Instr) (s : State) : Bool :=
  match i.ctl with
  | none => false
  | some c =>
    let u := s.startIssue c
    !s.held && u.guard c && !u.guardBad c && u.reportFor i == none && !unlisted i && !u.wrongSeq i && !u.privFails i && !u.interlocked i.regs &&
      u.srcPoison i i.regs c == none

theorem issues_of {i : Instr} {s : State} {c : Ctl} (hc : i.ctl = some c) (h : issuesB i s = true) : Issues i c s := by
  simp only [issuesB, hc, Bool.and_eq_true, Bool.not_eq_true', beq_iff_eq] at h
  obtain ⟨⟨⟨⟨⟨⟨⟨⟨a, b⟩, b'⟩, d⟩, d'⟩, e⟩, f⟩, g⟩, k⟩ := h
  exact ⟨hc, a, b, b', d, d', e, f, g, k⟩

/-- Every instruction of a list issues and is well formed. -/
def AllIssue (l : List Instr) (s : State) : Prop := ∀ i ∈ l, Issues i cu s ∧ i.wf = true

theorem all_issue {l : List Instr} {s : State} (h : l.all (fun i => decide (i.ctl = some cu) && issuesB i s && i.wf) = true) :
    AllIssue l s := by
  intro i hi
  have := List.all_eq_true.1 h i hi
  simp only [Bool.and_eq_true, decide_eq_true_eq] at this
  exact ⟨issues_of this.1.1 this.1.2, this.2⟩

theorem of_none {α : Type} {o : Option α} {P : α → Prop} (h : o = none) : ∀ m, o = some m → P m := by simp [h]
theorem of_some {α : Type} {o : Option α} {P : α → Prop} {a : α} (h : o = some a) (p : P a) : ∀ m, o = some m → P m := by
  rintro m hm; rw [h] at hm; cases hm; exact p

/-- What an access to memory comes to. -/
theorem acc_ok {α : Type} {a : Acc α} (p : State → α → Bool)
    (h : (match a with
      | .ok v x => p v x
      | _ => false) = true) : ∃ v x, a = .ok v x ∧ p v x = true := by
  cases a with
  | ok v x => exact ⟨v, x, rfl, h⟩
  | trap _ => cases h
  | miss _ _ => cases h

/-! ## Words of every instruction -/

theorem test_decode_scalar_a :
    decode 0x00000000000000003DFFFFFFFFFFC000 = .ok (.nop cu) ∧
    decode 0x000000000080C0003DFFFFC14100C001 = .ok (.add cu .n64 true 3 4 (.reg 5)) ∧
    decode 0xFFFFFFFF00000000BDFFFFFFC1C18002 = .ok (.sub cu .i32 false 6 7 (.imm 0xFFFFFFFF)) ∧
    decode 0x00000000000040003DFFFFC0C0804803 = .ok (.mul cu .n32 .highU 1 2 (.reg 3)) ∧
    decode 0x000000000000C0003DFFFFC08040CC04 = .ok (.div cu .n64 true 3 1 (.reg 2)) ∧
    decode 0x00000000000080003DFFFFC282420005 = .ok (.and cu .i64 8 9 (.reg 10)) ∧
    decode 0x00000000000000003DFFFFC34302C006 = .ok (.or cu .i32 11 12 (.reg 13)) ∧
    decode 0x00000000000040003DFFFFC403C38007 = .ok (.xor cu .n32 14 15 (.reg 16)) ∧
    decode 0x0000000300008000BDFFFFFFC4844008 = .ok (.shl cu .i64 17 18 (.imm 3)) ∧
    decode 0x00000000000080003DFFFFC54504C409 = .ok (.shr cu .i64 true 19 20 (.reg 21)) ∧
    decode 0x000000000000C0003DFFFFC605C5800A = .ok (.rol cu .n64 22 23 (.reg 24)) := by
  decide

theorem test_decode_scalar_b :
    decode 0x00000000000000003DFFFFC6C686400B = .ok (.min cu .i32 25 26 (.reg 27)) ∧
    decode 0x00000000000040003DFFFFC78747000C = .ok (.max cu .n32 28 29 (.reg 30)) ∧
    decode 0x00000000000080003DFFFFC08058480D = .ok (.cmp cu .i64 .lt 1 1 (.reg 2)) ∧
    decode 0x00000000000080003DFFD900C080400E = .ok (.sel cu .i64 1 2 (.reg 3) 4) ∧
    decode 0x1FFF000000008000BDFFFFFFFFC2840F = .ok (.li cu true 10 0x1FFF0000) ∧
    decode 0x00000000000080003DFFFFFFC7F08010 = .ok (.mov cu (.m 2) (.s 31)) ∧
    decode 0x00000000000040003DFFFFFFC1814011 = .ok (.clz cu .n32 5 6) ∧
    decode 0x00000000000080003DFFFFFFC201C012 = .ok (.popc cu .i64 7 8) ∧
    decode 0x000000000000C0003DFFFFC2C2824013 = .ok (.bfx cu .n64 9 10 (.reg 11)) ∧
    decode 0x0000080500008000BDFFFFFFC3430014 = .ok (.bfi cu .i64 12 13 (.imm 0x805)) := by
  decide

theorem test_decode_control :
    decode 0xFFFFFFC0000000003C7FFFFFFFFFC040 = .ok (.br ⟨false, 1, false, 15, 0, 0⟩ 0xFFFFFFC0) ∧
    decode 0x00000000000000003DFFFFFFC27FC041 = .ok (.jmp cu 9) ∧
    decode 0x00000020000000003DFFFFFFFFC7C042 = .ok (.call cu 31 0x20) ∧
    decode 0x00000000000000003DFFFFFFC7FFC043 = .ok (.ret cu 31) ∧
    decode 0xFFFFFFF0000000003DFFFFFFFFC14044 = .ok (.loop cu 5 0xFFFFFFF0) ∧
    decode 0x00000000000000003DFFFFFFD8E20045 = .ok (.bqsend cu 3) ∧
    decode 0x00000030000000003DFFFFFFE23FC446 = .ok (.bqbr cu true 0x30) ∧
    decode 0x00000000000000003DFFFFFFFFFFC047 = .ok (.endSeq cu) ∧
    decode 0x00000000000000003DFFFFFFFFFFC048 = .ok (.tail cu) ∧
    decode 0x00000401000000003DFFFFFFFFF40049 = .ok (.mark cu 0 1 4) ∧
    decode 0x000000FE000000003DFFFFFFF4FFC04A = .ok (.waitmk cu 3 0xFE) := by
  decide

theorem test_decode_memory :
    decode 0x00000040000080193EBFFFFFC501C080 = .ok (.ld ⟨true, 2, false, 15, 1, 0⟩ .i64 false 3 0 7 20 0x40) ∧
    decode 0x00000040000001803DFFFFC0417FC481 = .ok (.st cu .i32 true 0 3 5 0x40 1) ∧
    decode 0x00000000000000003DFFFFFFC1084082 = .ok (.ldv cu .i32 0 1 4 0 0) ∧
    decode 0x00000100000540103DFFFFC9C1BFD483 = .ok (.stv cu .e2m1 2 6 0x100 7 5) ∧
    decode 0x00000080000000003DC16900C0A84084 = .ok (.gather cu 1 2 3 4 (some 5) 0x80) ∧
    decode 0x00000040000000003DFFEA4229C18085 = .ok (.scatter cu 6 7 8 9 none 0x40) ∧
    decode 0x000000030000C3283DC13FC0C0805C86 = .ok (.atom cu .n64 .cas .ar 5 6 1 2 3 (some 4)) ∧
    decode 0x00010008000001803DFFFFFFFFFFC087 = .ok (.fence cu 3 8 1) ∧
    decode 0x00020001000000003DFFFFFFFFFFC088 = .ok (.xfence cu 0 ⟨1, 2⟩) ∧
    decode 0x00020001000001803DFFFFFFFFFFC088 = .ok (.xfence cu 3 ⟨1, 2⟩) ∧
    decode 0x00000010000000003DFFFFC2423FC089 = .ok (.pref cu 8 (some 9) 0x10) := by
  decide

theorem test_decode_queues :
    decode 0x00000000000000003DFFFFFFC02180C0 = .ok (.qpush cu 6 0) ∧
    decode 0x00000000000000003DFFFFFFE04100C1 = .ok (.qpop cu 4 1) ∧
    decode 0x00000000000000003DFFFFFFE20140C2 = .ok (.qcnt cu 5 .bq) ∧
    decode 0x00000035000000003DFFFFFFFFFFC0C3 = .ok (.bar cu 5 3) ∧
    decode 0x00000000000000003DFFFFFFFFFFC4C3 = .ok (.barAll cu) ∧
    decode 0x00000000000000003DFFFFFFFFFFC0C4 = .ok (.xch cu) ∧
    decode 0x00000000000000003DFFFFE8E8BFC0C5 = .ok (.phase cu 2 3) := by
  decide

theorem test_decode_vector_integer :
    decode 0x000000050000000085FFFFFFC8484100 = .ok (.vadd ⟨false, 7, false, 1, 0, 0⟩ .i32 false 1 1 (.imm 5)) ∧
    decode 0x000000000082080045FFFFC908C88101 = .ok (.vsub ⟨false, 7, true, 1, 0, 2⟩ .i8 true 2 3 (.vec 4)) ∧
    decode 0x00000000000180003DFFFFC1C9894502 = .ok (.vmul cu .i16 .highS false 5 6 (.reg 7)) ∧
    decode 0x00000000008240003DFFCACA8A4A0103 = .ok (.vmad cu .n8 true 8 9 (.vec 10) 11) ∧
    decode 0x000000000000C0003DFFFFC989088104 = .ok (.vand cu .n64 2 4 (.vec 6)) ∧
    decode 0x00000000000180003DFFFFC8C8884105 = .ok (.vor cu .i16 1 2 (.vec 3)) ∧
    decode 0x00000000000000003DFFFFC189490106 = .ok (.vxor cu .i32 4 5 (.reg 6)) ∧
    decode 0x000000010001C000BDFFFFFFCA09C107 = .ok (.vshl cu .n16 7 8 (.imm 1)) ∧
    decode 0x00000000000200003DFFFFCACA8A4508 = .ok (.vshr cu .i8 true 9 10 (.vec 11)) ∧
    decode 0x00000000000040003DFFFFCB8B4B0109 = .ok (.vmin cu .n32 12 13 (.vec 14)) ∧
    decode 0x00000000000000003DFFFFCC4C0BC10A = .ok (.vmax cu .i32 15 16 (.vec 17)) ∧
    decode 0x0000002000000000BDFFFFFFCB50890B = .ok (.vcmp cu .i32 .lt 2 13 (.imm 32)) ∧
    decode 0x00000000000440003DFFD14D0CCC810C = .ok (.vsel cu .bf16 18 19 (.vec 20) 5) ∧
    decode 0x00000000000400003DFFFFCDBFCD410D = .ok (.vmov cu .f32 21 (.vec 22)) ∧
    decode 0x00000000000040003DFFFFFFFFCDC10E = .ok (.viota cu .n32 23) := by
  decide

theorem test_decode_vector_float :
    decode 0x0000000000041C003DFFFFC8C8890140 = .ok (.vfadd ⟨false, 7, false, 15, 0, 7⟩ .rne false 4 2 (.vec 3)) ∧
    decode 0x0000000000D400003DFFFFC0C8884141 = .ok (.vfmul cu .sr true 1 2 (.reg 3)) ∧
    decode 0x00000000000400003DFFC94A4D4D4142 = .ok (.vfma cu .rne false 21 21 (.vec 9) 5) ∧
    decode 0x00000000000400003DFFFFCA09C98143 = .ok (.vfmin cu .rne false 6 7 (.vec 8)) ∧
    decode 0x00000000000400003DFFFFCACA8A4144 = .ok (.vfmax cu .rne false 9 10 (.vec 11)) ∧
    decode 0x00000000000400003DFFFFCB4B10D945 = .ok (.vfcmp cu .un 3 12 (.vec 13)) ∧
    decode 0x000003100094C0003DFFFFFFCBCB8146 = .ok (.vfcvt cu .e4m3 .f32 3 .rtz true 14 15) ∧
    decode 0x00000000002440003DFFFFCC8C4C0147 = .ok (.vpadd cu .bf16 .rdn false 16 17 (.vec 18)) ∧
    decode 0x00000000003500003DFFFFCD4D0CC148 = .ok (.vpmul cu .e5m2 .rup false 19 20 (.vec 21)) ∧
    decode 0x000000000044C0003DFFCE4E0DCD8149 = .ok (.vpfma cu .e4m3 .rna false 22 23 (.vec 24) 25) := by
  decide

theorem test_decode_axis :
    decode 0x00000000000400003DFFFFC0C8884180 = .ok (.vrotr cu .f32 1 2 (.reg 3)) ∧
    decode 0x0000000700020000BDFFFFFFC9490181 = .ok (.vrotc cu .i8 4 5 (.imm 7)) ∧
    decode 0x00000000000000003DFFFFFFC9C98182 = .ok (.vbcr cu .i32 6 7 none) ∧
    decode 0x000000010001C000BDFFFFFFCA4A0183 = .ok (.vbcc cu .n16 8 9 (some (.imm 1))) ∧
    decode 0x00000000000400003DFFFFFFCACA8186 = .ok (.vtrn cu .f32 10 11) ∧
    decode 0x00000000000040003DFFFFFFCB4B0984 = .ok (.vredr cu .n32 .max .rne false 12 13) ∧
    decode 0x00000000006400003DFFFFFFCBCB8185 = .ok (.vredc cu .f32 .add .dyn false 14 15) ∧
    decode 0x00000000000400003DFFFFFFCC4C0188 = .ok (.vexp2 cu 16 17) ∧
    decode 0x00000000000400003DFFFFFFCCCC8189 = .ok (.vlog2 cu 18 19) ∧
    decode 0x00000000000400003DFFFFFFCD4D018A = .ok (.vrcp cu 20 21) ∧
    decode 0x00000000000400003DFFFFFFCDCD818B = .ok (.vrsq cu 22 23) ∧
    decode 0x00000000005540003DFFCE7FCE8E058C = .ok (.vqnt cu .e2m1 .sr true 24 25 26) := by
  decide

theorem test_decode_predicates :
    decode 0x000000000000080045FFFFD0D0904DC0 = .ok (.plog ⟨false, 7, true, 1, 0, 2⟩ .andn 1 2 3) ∧
    decode 0x00000000000000003DFFFFFFD14105C1 = .ok (.pcnt cu true 4 5) ∧
    decode 0xAAAAAAAA00000000BDFFFFFFFFD045C2 = .ok (.pset cu true 1 (.imm 0xAAAAAAAA)) ∧
    decode 0x00000000000000003DFFFFFFC9E981C4 = .ok (.cspush cu 6 7) ∧
    decode 0x00000000000000003DFFFFFFEA4A01C5 = .ok (.cspop cu 8 9) ∧
    decode 0x00000000000000003DFFFFD2EB0A81C6 = .ok (.csbal cu 10 11 12) := by
  decide

theorem test_decode_matrix :
    decode 0x00000000000440003DFFFFC0BFC04A00 = .ok (.mshape cu .bf16 true 1 (.reg 2)) ∧
    decode 0x0000007F00020000BDFFFFFFFFC0C600 = .ok (.mshapeGrp cu .i8 false 3 (.imm 0x7F)) ∧
    decode 0x00000000000000003DFFFFFFE93FC601 = .ok (.mload cu true 4) ∧
    decode 0x00000000000000003DFFFFFFFFFFC202 = .ok (.mswap cu) ∧
    decode 0x00000000000000003DFFFFFFE9705603 = .ok (.mmul cu 1 true 1 5) ∧
    decode 0x00000000000000003DFFFFFFE9B0CA04 = .ok (.mmuls cu 2 false 3 6) ∧
    decode 0x00000000000000003DFFFFFFFFF1CE05 = .ok (.mzero cu 3 7) ∧
    decode 0x00000000009440003DFFFFFFF26A0606 = .ok (.mdrain cu 1 .bf16 .rtz true 8 9) ∧
    decode 0x00000000000000003DFFFFC028FFC207 = .ok (.madpt cu (some 3) 0) := by
  decide

theorem test_decode_adapter :
    decode 0x00000004000000003DFFFFC102FFC240 = .ok (.axlt cu 11 4 4) ∧
    decode 0x00000000000000003DFFFFFFC33FC241 = .ok (.apref cu 12) ∧
    decode 0x00000040000000003DFFFFC3837FC242 = .ok (.apub cu 13 0x40 14) ∧
    decode 0x00000000000000003DFFFFFFC3FFC243 = .ok (.aunpin cu 15) := by
  decide

theorem test_decode_copy :
    decode 0x0000000400000000BDC100FFFFFFD680 = .ok (.cnest cu 5 (.imm 4) 3 4) ∧
    decode 0x0000004000000000BDFFC23FC1680281 = .ok (.cpy cu (.t 0) (.s 5) (.imm 64) (some 8) none) ∧
    decode 0x00000000000000003DF14100E8A85A82 = .ok (.cpym cu 2 true 1 (.t 2) (.reg 3) (some 4) 5) ∧
    decode 0x0000000200000000BDFFFFFFC1BFC284 = .ok (.tbinit cu 6 (.imm 2)) ∧
    decode 0x00000000000000003DFFFFC201FFC285 = .ok (.tbarv cu 7 (.reg 8)) ∧
    decode 0x0000000000000000BDFFFFFFC23FC686 = .ok (.tbwait cu true 8 (.imm 0)) ∧
    decode 0x0000000000000000BDFFFFFFFFE80288 = .ok (.tset cu 0 (.imm 0)) ∧
    decode 0x00000000000000003DFFFFFFC2AA4688 = .ok (.tsetDef cu 9 10) := by
  decide

theorem test_decode_messaging :
    decode 0x00000000000000003DFFC141808202C0 = .ok (.sendm cu 0 5 2 0 6 (some 8)) ∧
    decode 0x00000000000000003DFFFFFFC100C2C1 = .ok (.rpost cu 3 4 0) ∧
    decode 0x00000000000000003DFFFFFFC18142C2 = .ok (.rcancel cu 5 6) ∧
    decode 0x00000040000000003DFFFFFFC201C2C3 = .ok (.rprobe cu 7 8 0x40) ∧
    decode 0x00000008000083003DFFC2FFC28246C4 = .ok (.rld cu .i64 true 0 6 9 11 10 8) ∧
    decode 0x00000000000043003DFFC50645834AC5 = .ok (.rst cu .n32 false true 0 6 20 22 0 25 (some 13)) ∧
    decode 0x00000001000003003DFFC100C0805AC6 = .ok (.ratom cu .i32 .swap .acq 0 6 1 4 2 3 none) ∧
    decode 0x00000010000000083DFFC201C18166C7 = .ok (.msop cu 9 1 8 6 0x10 7 5) ∧
    decode 0x00000040000000003DFFFFFFC27FC2C8 = .ok (.cpost cu 9 0x40) := by
  decide

theorem test_decode_system :
    decode 0x12345678000000003DFFFFFFC0FFC300 = .ok (.trap cu 0x12345678 (some 3)) ∧
    decode 0x00000000000000003DFFFFFFFFFFC301 = .ok (.eret cu) ∧
    decode 0x0000004300000000BDFFC27FFFC34302 = .ok (.mfsr cu 13 0x43 (some 9)) ∧
    decode 0x0000004400000000BDFFC27FC3BFC303 = .ok (.mtsr cu 0x44 14 (some 9)) ∧
    decode 0x0000006400000000BDFFFFFFFFFFC704 = .ok (.waiti cu true (.imm 100)) ∧
    decode 0x0000BEEF000000003DFFFFFFFFFFC705 = .ok (.bkpt cu true 0xBEEF) ∧
    decode 0x00000000000000003DFFFFC1413FC306 = .ok (.wtclr cu 0 4 0 5) ∧
    decode 0x00000000000000003DFFFFFFFFFFC706 = .ok (.wtclrRegs cu) ∧
    decode 0x00000000000000003DFFFFC6C6BFC307 = .ok (.vainv cu 26 (.reg 27)) := by
  decide

/-! ## Witnesses -/

/-! ## Witnesses: states that meet the hypotheses of the statements -/

theorem witness_scalarArithmetic : AllIssue [.add cu .n64 true 3 4 (.imm 5), .sub cu .i32 false 3 3 (.reg 4), .and cu .i64 1 2 (.reg 3),
    .or cu .n32 1 2 (.imm 7), .xor cu .i32 0 2 (.reg 2), .shl cu .i64 1 2 (.imm 64), .shr cu .n32 true 1 2 (.reg 3),
    .rol cu .n64 1 2 (.imm 33)] (world .as id) ∧ Ty.n64.scalar = true ∧ Ty.i32.scalar = true ∧ Ty.i64.scalar = true ∧ Ty.n32.scalar = true :=
  ⟨all_issue (by decide), by decide⟩

theorem witness_scalarPickAndField : AllIssue [.cmp cu .i64 .lt 7 4 (.imm 5), .min cu .i32 3 3 (.reg 4), .max cu .n64 0 2 (.reg 3),
    .sel cu .n32 1 2 (.imm 7) 7, .clz cu .n32 1 2, .popc cu .i64 1 2, .bfx cu .i64 1 2 (.reg 3), .bfi cu .n64 1 2 (.imm 0x4000)]
    (world .xs id) ∧ Ty.i64.is64 = true ∧ Ty.n64.is64 = true :=
  ⟨all_issue (by decide), by decide⟩

theorem witness_loadsAndMoves : AllIssue [.nop cu, .li cu true 0 7, .mov cu (.s 1) (.s 2), .mov cu (.s 1) (.m 15), .mov cu (.m 15) (.s 1),
    .mov cu (.m 0) (.m 15), .qcnt cu 3 (.q 7), .qcnt cu 3 .bq] (world .as id) ∧ (world .as id).othersWrote = [] :=
  ⟨all_issue (by decide), rfl⟩

/-- The other sequencer wrote m4, which held 7, and XBASE, which held 0x40, in this slot. -/
theorem witness_loadsAndMoves_slot :
    let w (q : SeqId) : SlotWrite := ⟨0, q, .m 4, 7, false, false⟩
    let x (q : SeqId) : SlotWrite := ⟨0, q, .sr 0x030, 0x40, false, false⟩
    let s (q : SeqId) (w : SlotWrite) : State := { world q id with slotRegs := [w] }
    AllIssue [.mov cu (.s 1) (.m 4), .mov cu (.m 4) (.s 1)] ((s .as (w .xs)).putShared (w .xs)) ∧
      AllIssue [.mov cu (.s 1) (.m 4), .mov cu (.m 4) (.s 1)] ((s .xs (w .as)).putShared (w .as)) ∧
      AllIssue [.mfsr cu 1 0x030 none, .mtsr cu 0x030 1 none] ((s .as (x .xs)).putShared (x .xs)) ∧
      AllIssue [.mfsr cu 1 0x030 none, .mtsr cu 0x030 1 none] ((s .xs (x .as)).putShared (x .as)) ∧
      SeqId.other .as = .xs ∧ SeqId.other .xs = .as :=
  ⟨all_issue (by decide), all_issue (by decide), all_issue (by decide), all_issue (by decide), rfl, rfl⟩

theorem witness_vectorIntegerResult : AllIssue [.vadd cu .i8 true 1 2 (.vec 3), .vsub cu .i64 false 2 4 (.reg 3), .vmul cu .n16 .low true 1 2 (.imm 3),
    .vmul cu .i32 .highS false 1 2 (.vec 3), .vmul cu .n8 .highU false 1 2 (.vec 3), .vmad cu .i16 true 1 2 (.vec 1) 31,
    .vand cu .n64 0 30 (.vec 2), .vor cu .i32 1 2 (.reg 3), .vxor cu .i8 1 2 (.imm 3), .vshl cu .n16 1 2 (.vec 3),
    .vshr cu .i32 true 1 2 (.vec 3), .vmin cu .i64 2 4 (.vec 6), .vmax cu .n8 1 2 (.vec 3)] (world .xs id) := all_issue (by decide)

theorem witness_vectorPredicateResult : AllIssue [.vcmp cu .i64 .ge 15 2 (.imm 3), .vsel cu .bf16 1 2 (.vec 3) 4, .vmov cu .i64 2 (.reg 3),
    .viota cu .n32 1, .plog cu .orn 15 1 2, .pset cu false 1 (.imm 1024), .pset cu true 1 (.reg 2), .pcnt cu true 1 15,
    .pcnt cu false 1 2] (world .xs id) := all_issue (by decide)

theorem witness_vectorFloatResult : AllIssue [.vfadd cu .sr true 1 2 (.vec 3), .vfmul cu .dyn false 1 1 (.reg 3), .vfma cu .rup false 1 2 (.imm 0) 1,
    .vpadd cu .bf16 .rne false 1 2 (.vec 3), .vpmul cu .e4m3 .sr true 1 2 (.vec 3), .vpfma cu .e5m2 .rna false 1 2 (.vec 3) 4]
    (world .xs id) := all_issue (by decide)

theorem witness_vectorPickAndConvert : AllIssue [.vfmin cu .rne false 1 2 (.vec 3), .vfmax cu .rne true 1 2 (.reg 3), .vfcmp cu .un 15 2 (.vec 3),
    .vfcvt cu .e4m3 .f32 3 .sr true 1 2, .vfcvt cu .i32 .f32 0 .rtz false 1 2, .vfcvt cu .f32 .e2m1 7 .rne false 1 2] (world .xs id) :=
  all_issue (by decide)

theorem witness_axisMoveResult : AllIssue [.vrotr cu .f32 1 1 (.imm 64), .vrotc cu .i8 1 2 (.reg 3), .vbcr cu .i32 1 2 none,
    .vbcc cu .n16 1 2 (some (.imm 15)), .vtrn cu .f32 1 1] (world .xs id) := all_issue (by decide)

theorem witness_reductionResult : AllIssue [.vredr cu .f32 .add .sr false 1 2, .vredr cu .i32 .add .rne true 1 1, .vredc cu .n32 .xor .rne false 1 2,
    .vredc cu .f32 .max .rne false 1 2] (world .xs id) := all_issue (by decide)

theorem witness_quantiserResult : AllIssue [.vqnt cu .e2m1 .sr true 1 2 3, .vqnt cu .e4m3 .rne false 1 2 1] (world .xs id) :=
  all_issue (by decide)

/-- A `MUL` is pending to another register. -/
theorem witness_mulDivIssue :
    let s := world .xs fun k => { k with xs := { k.xs with results := [⟨9, 5, .mul, none, false⟩] } }
    AllIssue [.mul cu .n32 .highU 1 2 (.reg 3), .mul cu .i64 .low 1 1 (.imm 3), .div cu .i64 true 1 2 (.imm 0)] s ∧
      ∀ r ∈ s.sq.results, r.src ≠ .div := ⟨all_issue (by decide), by decide⟩

theorem witness_branchResult :
    let s := world .as (withS [(4, 0xFFFFFFFFFFFFFFF0), (5, 1), (6, 2)])
    AllIssue [.br cu 0x20, .jmp cu 4, .ret cu 4, .call cu 0 0xFFFFFFF0, .loop cu 5 3, .loop cu 6 0x10] s ∧
      (s.sq.pc + (0x20 : Word32).signExtend 64).toNat % 16 = 0 ∧ (s.rs 4).toNat % 16 = 0 ∧ s.rs 5 = 1 ∧
      (s.sq.pc + (0xFFFFFFF0 : Word32).signExtend 64).toNat % 16 = 0 := ⟨all_issue (by decide), by decide⟩

theorem witness_queueResult_in :
    let s := world .as fun k => { k with q := vset k.q 5 (List.replicate 31 ⟨3, false, none⟩), bqA := List.replicate 63 (true, false) }
    let t := world .xs id
    AllIssue [.qpush cu 5 0, .bqsend cu 7] s ∧ (s.cc.queue 5).length < 32 ∧ s.cc.bqA.length < 64 ∧ s.curSeq = .as ∧
      (s.startIssue cu).allPerformed = true ∧ AllIssue [.qpush cu 6 3, .bqsend cu 0] t ∧ ¬t.curSeq = .as ∧ (t.startIssue cu).allPerformed = true :=
  ⟨all_issue (by decide), by decide, by decide, rfl, by decide, all_issue (by decide), by decide, by decide⟩

theorem witness_queueResult_out :
    let s := world .as fun k => { k with q := vset k.q 7 [⟨3, true, some (0x0F, 8)⟩], bqX := [(true, false), (false, true)] }
    AllIssue [.qpop cu 1 7, .qpop cu 0 7, .bqbr cu true 3, .bqbr cu false 0x10] s ∧
      s.cc.queue 7 = [⟨3, true, some (0x0F, 8)⟩] ∧ s.cc.bqX = (true, false) :: [(false, true)] ∧
      (s.sq.pc + (0x10 : Word32).signExtend 64).toNat % 16 = 0 := ⟨all_issue (by decide), by decide, rfl, by decide⟩

theorem witness_orderingResult_markers :
    let s := world .as fun k => { k with k := vset (vset (vset k.k 1 (some ⟨7, 31, 0, 0⟩)) 2 (some ⟨7, 31, 1, 0⟩)) 3 (some ⟨7, 27, 0, 0⟩) }
    AllIssue [.mark cu 3 255 31, .waitmk cu 0 7, .waitmk cu 1 7, .waitmk cu 2 7, .waitmk cu 2 8, .waitmk cu 3 7] s ∧
      vget none s.cc.k 0 = none ∧ vget none s.cc.k 1 = some ⟨7, 31, 0, 0⟩ ∧ (31 : BitVec 5).getLsbD 2 = true ∧
      vget none s.cc.k 2 = some ⟨7, 31, 1, 0⟩ ∧ vget none s.cc.k 3 = some ⟨7, 27, 0, 0⟩ ∧ (27 : BitVec 5).getLsbD 2 = false :=
  ⟨all_issue (by decide), by decide⟩

theorem witness_orderingResult_fences :
    let s := world .as id
    let t := world .as fun k => { k with as := { k.as with wait := some (.xfence 0) } }
    AllIssue [.fence cu 3 0xFFFF 0xFFFF, .xfence cu 0 ⟨0, 127⟩, .xfence cu 6 ⟨127, 0⟩] s ∧ s.sq.wait = none ∧
      (s.startIssue cu).pathBusy 127 s.cc.ticket = false ∧
      AllIssue [.xfence cu 0 ⟨127, 0⟩] t ∧ t.sq.wait = some (.xfence 0) ∧ (t.startIssue cu).pathBusy 127 0 = false :=
  ⟨all_issue (by decide), rfl, by decide, all_issue (by decide), rfl, by decide⟩

theorem witness_endResult :
    let s := world .as fun k => { k with xs := { k.xs with run := .stopped } }
    AllIssue [.endSeq cu, .tail cu] s ∧ s.sq.results = [] ∧ s.lc.flagD = false ∧ (s.startIssue cu).tailReady = true ∧
      s.launch? s.lc.id = some s.lc ∧ s.lc.state = .running ∧ s.lc.allCores = [0] ∧ s.cc.xs.run = .stopped :=
  ⟨all_issue (by decide), by decide, by decide, by decide, by decide, by decide, by decide, rfl⟩

theorem witness_endResult_paired :
    let s := worldIn .as id fun s => { s with launches := [{ job with record := record 1 1 3 2048 }] }
    Issues (.tail cu) cu s ∧ s.lc.flagD = true ∧ s.sq.results = [] :=
  ⟨issues_of rfl (by decide), by decide, by decide⟩

/-- A pointer for each clause of `pointerPlaces`, in a launch of one core with a footprint of 2 MiB or 1 KiB. -/
theorem witness_pointerPlaces :
    let s := world .as id
    let t := worldIn .as id fun s => { s with launches := [{ job with record := record 1 1 0 1 }] }
    let space (p : Word) : Nat := p.toNat / 2 ^ 60
    let rank (p : Word) : Nat := p.toNat / 2 ^ 48 % 2 ^ 12
    let off (p : Word) : Nat := p.toNat % 2 ^ 48
    (space 0x01FFFFFFFFFFFFFF = 0 ∧ (0x01FFFFFFFFFFFFFF : Word).toNat < 2 ^ 57) ∧
    (space 0x0200000000000000 = 0 ∧ 2 ^ 57 ≤ (0x0200000000000000 : Word).toNat) ∧ 2 < space 0x3000000000000000 ∧
    (space 0x1001000000000000 = 1 ∧ rank 0x1001000000000000 ≠ 0xFFF ∧ ¬rank 0x1001000000000000 < s.lc.wid * s.lc.hgt) ∧
    (space 0x2001000000000000 = 2 ∧ rank 0x2001000000000000 ≠ 0xFFF ∧ ¬rank 0x2001000000000000 < s.lc.wid * s.lc.hgt) ∧
    (space 0x1FFF000000200000 = 1 ∧ rank 0x1FFF000000200000 = 0xFFF ∧ 2 ^ 21 ≤ off 0x1FFF000000200000) ∧
    (rank 0x1FFF0000000003FC = 0xFFF ∧ off 0x1FFF0000000003FC < 2 ^ 21 ∧ 1024 * t.lc.foot < off 0x1FFF0000000003FC + 8) ∧
    (rank 0x1FFF0000000003F8 = 0xFFF ∧ off 0x1FFF0000000003F8 + 8 ≤ 1024 * t.lc.foot) ∧
    (space 0x200000000001BFF8 = 2 ∧ rank 0x200000000001BFF8 < s.lc.wid * s.lc.hgt ∧ off 0x200000000001BFF8 + 8 ≤ 0x1C000) ∧
    (space 0x2FFF00000001BFFC = 2 ∧ 0x1C000 < off 0x2FFF00000001BFFC + 8) := by decide

/-- Own vault and own accumulator; a normal address for each. -/
theorem witness_loadResultPending_own :
    let s := world .as (withS [(4, ownV), (5, ownA)])
    let u := s.startIssue cu
    AllIssue [.ld cu .i64 true 3 6 7 4 8, .ld cu .n8 false 0 0 4 5 1, .ld cu .i64 false 3 0 7 4 252] s ∧ s.rowsDone = none ∧
      (s.rs 4 + (8 : Word32).signExtend 64).toNat % 8 = 0 ∧
      u.decodePtr s.cur.val (s.rs 4 + (252 : Word32).signExtend 64) 8 false = .at_ (.vault s.cur.val 252) ∧
      u.classHeld 3 hereTarget = false ∧ u.classHeld 0 hereTarget = false ∧ s.cc.matQ = [] ∧
      u.decodePtr s.cur.val (s.rs 4 + (8 : Word32).signExtend 64) 8 false = .at_ (.vault s.cur.val 8) ∧
      u.decodePtr s.cur.val (s.rs 5 + (1 : Word32).signExtend 64) 1 false = .at_ (.acc s.cur.val 1) :=
  ⟨all_issue (by decide), by decide⟩

/-- The first row of a load that crosses into a second one has performed. -/
def halfway : RowsDone := ⟨1, [1, 2, 3, 4], false, false, none⟩

theorem witness_loadResultPending_rows :
    let s := world .as fun k => withS [(4, ownV)] { k with as := { k.as with wait := some (.rows halfway) } }
    AllIssue [.ld cu .i64 false 3 0 7 4 252] s ∧ s.rowsDone = some halfway ∧ (252 + halfway.got.length) % 256 + (8 - halfway.got.length) ≤ 256 ∧
      (s.startIssue cu).decodePtr s.cur.val (s.rs 4 + (252 : Word32).signExtend 64) 8 false = .at_ (.vault s.cur.val 252) :=
  ⟨all_issue (by decide), by decide⟩

/-- Global memory through a translation. -/
theorem witness_loadResultPending_global :
    let s := world .as (withPage ∘ withS [(4, 0x100)])
    let u := s.startIssue cu
    AllIssue [.ld cu .i32 true 0 6 7 4 0] s ∧ u.decodePtr s.cur.val 0x100 4 false = .at_ .glob ∧ u.classHeld 0 hereTarget = false ∧
      u.ownRemote 0x100 4 = false ∧ s.lc.flagD = false ∧ ∃ v ps, u.translate (u.mcur cu).x false false 0x100 4 = .ok v ps ∧
        (u.scopeFor true true false 6 0x100 ps == none && ps.all (fun x => x.page.ca != 3 && v.poisonAt x.pa x.len == none) &&
          (v.mscOf 0).all (fun l => l.pois == 0) && (v.mscOf 1).all (fun l => l.pois == 0)) = true :=
  ⟨all_issue (by decide), by decide, by decide, by decide, by decide, acc_ok _ (by decide)⟩

/-- A launch of two cores, and the other core's vault and accumulator. -/
theorem witness_loadResultPending_remote :
    let s := worldIn .as (withS [(4, 0x1001000000000000), (5, 0x2001000000000000), (6, 7)]) fun s =>
      { s with launches := [{ job with record := record 2 1 29 2048 }] }
    let u := s.startIssue cu
    AllIssue [.ld cu .i64 false 0 0 7 4 8, .st cu .n8 true 0 0 5 8 6, .atom cu .i32 .add .none 0 0 7 4 6 none] s ∧
      u.classHeld 0 1 = false ∧ u.allPerformed = true ∧
      u.decodePtr s.cur.val (s.rs 4 + (8 : Word32).signExtend 64) 8 false = .at_ (.vault 1 8) ∧
      u.decodePtr s.cur.val (s.rs 5 + (8 : Word32).signExtend 64) 1 true = .at_ (.acc 1 8) ∧
      u.decodePtr s.cur.val (s.rs 4) 4 true = .at_ (.vault 1 0) :=
  ⟨all_issue (by decide), by decide⟩

theorem witness_storeResult_own :
    let s := world .xs (withS [(4, ownV), (5, ownA), (6, 0x1122334455667788)])
    let u := s.startIssue cu
    AllIssue [.st cu .i64 true 3 6 4 8 6, .st cu .n8 false 0 0 5 1 6, .st cu .i64 false 3 0 4 252 6] s ∧ s.rowsDone = none ∧
      (s.rs 4 + (8 : Word32).signExtend 64).toNat % 8 = 0 ∧
      u.decodePtr s.cur.val (s.rs 4 + (252 : Word32).signExtend 64) 8 true = .at_ (.vault s.cur.val 252) ∧
      u.allPerformed = true ∧ u.classHeld 3 hereTarget = false ∧ u.classHeld 0 hereTarget = false ∧ s.cc.matQ = [] ∧
      bt s.sq.sSec 6 = false ∧ u.decodePtr s.cur.val (s.rs 4 + (8 : Word32).signExtend 64) 8 true = .at_ (.vault s.cur.val 8) ∧
      u.decodePtr s.cur.val (s.rs 5 + (1 : Word32).signExtend 64) 1 true = .at_ (.acc s.cur.val 1) ∧ s.cc.vault.bytes.wf = true ∧
      s.cc.vault.remap = [] ∧ s.cc.vault.lost = [] ∧ s.cc.vault.evac = [] :=
  ⟨all_issue (by decide), by decide⟩

theorem witness_storeResult_global :
    let s := world .as (withPage ∘ withS [(4, 0xFF8), (6, 7)])
    let u := s.startIssue cu
    AllIssue [.st cu .i64 true 0 5 4 0 6] s ∧ u.decodePtr s.cur.val 0xFF8 8 true = .at_ .glob ∧ u.classHeld 0 hereTarget = false ∧
      (u.allPerformed && !u.ownRemote 0xFF8 8) = true ∧ s.lc.flagD = false ∧ ∃ v ps, u.checkStore (u.mcur cu) 0xFF8 8 false = .ok v ps ∧
        (u.scopeFor true false true 5 0xFF8 ps == none && ps.all (fun x => x.page.ca != 3)) = true :=
  ⟨all_issue (by decide), by decide, by decide, by decide, by decide, acc_ok _ (by decide)⟩

theorem witness_addressTraps_branches :
    let s := world .as (withS [(4, 8), (5, 2)])
    AllIssue [.br cu 4, .jmp cu 4, .ret cu 4, .call cu 31 0xFFFFFFFF, .loop cu 5 4] s ∧ (s.rs 4).toNat % 16 ≠ 0 ∧ s.rs 5 ≠ 1 ∧
      (s.sq.pc + (4 : Word32).signExtend 64).toNat % 16 ≠ 0 ∧ (s.sq.pc + (0xFFFFFFFF : Word32).signExtend 64).toNat % 16 ≠ 0 :=
  ⟨all_issue (by decide), by decide⟩

theorem witness_addressTraps_accesses :
    let s := world .as (withS [(4, 4), (5, 0x3000000000000000)])
    let u := s.startIssue cu
    AllIssue [.ld cu .i64 true 0 0 7 4 0, .st cu .i64 true 0 0 4 0 7, .ld cu .i64 false 0 0 7 5 0, .st cu .i64 false 0 0 5 0 7,
        .atom cu .i64 .add .none 0 0 7 4 6 none] s ∧ (s.rs 4).toNat % 8 ≠ 0 ∧
      u.decodePtr s.cur.val (s.rs 5 + (0 : Word32).signExtend 64) 8 false = .bad ⟨cXLATE, 0x3000000000000000, 0xB7⟩ ∧
      u.decodePtr s.cur.val (s.rs 5 + (0 : Word32).signExtend 64) 8 true = .bad ⟨cXLATE, 0x3000000000000000, 0xBF⟩ :=
  ⟨all_issue (by decide), by decide⟩

theorem witness_addressTraps_rows :
    let s := world .xs (withS [(4, 0x80), (5, 0x100), (6, 0x1001000000000000)])
    AllIssue [.ldv cu .i32 0 1 4 0 0, .ldv cu .i32 0 1 5 0 0, .ldv cu .i32 0 1 6 0 1, .stv cu .f32 0 4 0 1 1, .stv cu .f32 0 5 0 1 1,
        .stv cu .f32 0 6 0 1 1] s ∧ (s.rs 4).toNat % 256 ≠ 0 ∧ (s.rs 5).toNat % 256 = 0 ∧ (s.rs 5).toNat / 2 ^ 60 ≠ 1 ∧
      (s.rs 6).toNat % 256 = 0 ∧ (s.rs 6).toNat / 2 ^ 60 = 1 ∧ (s.rs 6).toNat / 2 ^ 48 % 4096 ≠ 0xFFF ∧
      (s.rs 6).toNat / 2 ^ 48 % 4096 ≠ s.cc.rank := ⟨all_issue (by decide), by decide⟩

/-- The last of 2 rows is left. -/
theorem witness_vectorRows_last :
    let s := world .xs fun k => withS [(4, ownV)] { k with xs := { k.xs with wait := some (.rows ⟨1, List.replicate 256 7, false, false, none⟩) } }
    AllIssue [.ldv cu .i32 0 1 4 0x100 2, .stv cu .f32 0 4 0x100 1 2] s ∧ s.rowsSoFar.n = 1 ∧ s.rowsSoFar.got.length = 256 ∧ s.rowsDone ≠ none ∧
      (s.startIssue cu).rowPtr (s.rs 4 + (0x100 : Word32).signExtend 64) 2 false = .inr 256 := ⟨all_issue (by decide), by decide⟩

theorem witness_vectorRows :
    let s := world .xs (withS [(4, ownV)] ∘ withV [(1, 7)])
    let u := s.startIssue cu
    AllIssue [.ldv cu .i32 0 1 4 0x100 1, .stv cu .f32 0 4 0x100 1 1, .ldv cu .i32 0 1 4 0x100 2, .stv cu .f32 0 4 0x100 1 2] s ∧ s.rowsSoFar.n = 0 ∧ u.rowPtr (s.rs 4 + (0x100 : Word32).signExtend 64) 1 false = .inr 256 ∧
      u.rowPtr (s.rs 4 + (0x100 : Word32).signExtend 64) 1 true = .inr 256 ∧ u.classHeld 0 hereTarget = false ∧
      bt u.cc.x.vSec 1 = false ∧ s.cc.rangeHeld s.cc.ticket [⟨256, 512, true⟩] = false ∧ s.cc.vault.pois = [] ∧ s.cc.vault.bytes.wf = true ∧
      s.cc.vault.remap = [] ∧ s.cc.vault.lost = [] ∧ s.cc.vault.evac = [] := ⟨all_issue (by decide), by decide⟩

theorem witness_atomicResult :
    let s := world .as (withS [(4, ownV), (6, 7)])
    let g := world .as (withPage ∘ withS [(4, 0x100), (6, 7)])
    let u := g.startIssue cu
    AllIssue [.atom cu .i64 .cas .ar 0 6 7 4 6 (some 6), .atom cu .n32 .max .rel 0 6 0 4 6 none] s ∧
      (s.startIssue cu).allPerformed = true ∧ (s.startIssue cu).classHeld 0 hereTarget = false ∧ s.cc.vault.bad 0 8 = false ∧
      (s.startIssue cu).decodePtr s.cur.val (s.rs 4) 8 true = .at_ (.vault s.cur.val 0) ∧
      AllIssue [.atom cu .n32 .swap .acq 0 6 7 4 6 none] g ∧
      (u.decodePtr g.cur.val 0x100 4 true = .at_ .glob ∧ u.ownRemote 0x100 4 = false ∧ g.lc.flagD = false) ∧ ∃ v ps, u.checkStore (u.mcur cu) 0x100 4 false = .ok v ps ∧
        (ps.length == 1 && u.scopeFor true true true 6 0x100 ps == none && ps.all (fun x => x.len == 4 && x.page.ca != 3 && v.poisonAt x.pa 4 == none)) = true :=
  ⟨all_issue (by decide), by decide, by decide, by decide, by decide, all_issue (by decide), by decide, acc_ok _ (by decide)⟩

/-- The table of the PF at 0x2000: handle 1 names a live entry of owner tag 0. -/
def withTable (s : State) : State :=
  { s with
    pf := [(0x21000, 0x2000), (0x21008, 2), (0x21010, 4)]
    launches := s.launches.map fun l => { l with cfg := { Launch.blank.cfg with attBase := 0x2000, attCnt := 2, acWays := 4 } }
    mem := (Memory.write [] 0x2040 (wordBytes 0x0001000000000001)).write 0x2048 (wordBytes 5) }

theorem witness_hintResult :
    let s := worldIn .as (withS [(4, 0x0200000000000000), (5, 1)]) withTable
    let u := s.startIssue cu
    AllIssue [.pref cu 4 none 0, .apref cu 5, .apref cu 4] s ∧ 2 ^ 57 ≤ (s.rs 4).toNat ∧ s.lc.fn < 65 ∧ u.acWays ≠ 0 ∧ (s.rs 5).toNat = 1 ∧
      ∃ e, u.attEntry s.lc.cfg 1 = some e ∧ entOk e = true ∧ entOwner e = (ownerTag s.lc.fn).toNat ∧
        u.pageFaults e false = false ∧ u.pageFaults e true = false :=
  ⟨all_issue (by decide), by decide, by decide, by decide, by decide, ⟨_, rfl, by decide⟩⟩

theorem witness_nestAndTileResult_nest :
    let s := world .as (withS [(4, 0x7FFFFFFF), (5, 0xFFFFFFFF80000000), (6, 0x80000000), (7, 0x10001)])
    AllIssue [.cnest cu 5 (.imm 0x10000) 4 5, .cnest cu 0 (.reg 7) 4 5, .cnest cu 0 (.imm 0) 4 5, .cnest cu 1 (.imm 1) 6 4, .cnest cu 2 (.imm 1) 4 6] s ∧
      (s.sop (.imm 0x10000)).toNat = 65536 ∧ (s.rs 4).toInt = 2 ^ 31 - 1 ∧ (s.rs 5).toInt = -2 ^ 31 ∧ ¬(s.rs 6).toInt < 2 ^ 31 ∧
      ¬(s.sop (.reg 7)).toNat ≤ 65536 := ⟨all_issue (by decide), by decide⟩

theorem witness_nestAndTileResult_tiles :
    let s := world .as (withS [(4, 0x8000000000000000 + 131072 * 2 ^ 21), (5, 1 * 2 ^ 21 + 131071)] ∘ withTile 1 ⟨.ready, 256, 0⟩ ∘ withTile 2 ⟨.filling, 256, 0⟩)
    let size (x : Word) : Nat := x.toNat / 2 ^ 21 % 2 ^ 18
    let off (x : Word) : Nat := x.toNat % 2 ^ 21
    AllIssue [.tset cu 1 (.imm 0), .tset cu 0 (.imm 2), .tset cu 2 (.imm 0), .tset cu 1 (.imm 1), .tsetDef cu 0 4, .tsetDef cu 0 5, .tsetDef cu 1 4] s ∧
      (s.cc.tile 0).state = .empty ∧ (s.cc.tile 1).state = .ready ∧ (s.cc.tile 2).state = .filling ∧
      (s.rs 4).toNat / 2 ^ 39 % 2 ^ 24 = 0 ∧ size (s.rs 4) = 131072 ∧ off (s.rs 4) / 131072 = (off (s.rs 4) + 131072 - 1) / 131072 ∧
      size (s.rs 5) = 1 ∧ off (s.rs 5) = 131071 ∧ off (s.rs 4) + size (s.rs 4) ≤ 1024 * s.lc.foot := ⟨all_issue (by decide), by decide⟩

theorem witness_copyQueued_copies :
    let s := world .as (withPage ∘ withS [(4, 0x100), (5, ownV + 0x1000), (8, ownV + 0x40)] ∘ withTile 1 ⟨.empty, 256, 0⟩ ∘ withTile 2 ⟨.ready, 256, 1024⟩)
    let u := s.startIssue cu
    AllIssue [.cpy cu (.t 1) (.s 4) (.imm 256) (some 8) none, .cpym cu 3 true 1 (.t 2) (.imm 16) none 0] s ∧
      u.copyChecks (u.copyOf cu (.t 1) (.s 4) (s.sop (.imm 256)) (some 8) none none) 0 = none ∧
      u.copyChecks (u.copyOf cu (.t 1) (.t 2) (s.sop (.imm 16)) none none (some ⟨vget 0 s.cc.m 0, 3, true⟩)) 0 = none ∧
      (∃ v x, u.readShape cu none = .ok v x ∧ (x == none) = true) ∧
      CopyReady u (.t 1) (.s 4) (s.sop (.imm 256)) (some 8) none ∧ CopyReady u (.t 1) (.t 2) (s.sop (.imm 16)) none none := by
  refine ⟨all_issue (by decide), by decide, by decide, acc_ok _ (by decide), ?_, ?_⟩
  · exact ⟨by rintro r ⟨⟩; exact ⟨by decide, by decide, by decide⟩, (by rintro r ⟨⟩), by decide, (by rintro r ⟨⟩; decide),
      (by rintro r ⟨⟩), by decide, by decide, by decide, by decide⟩
  · exact ⟨by rintro r ⟨⟩; exact ⟨by decide, by decide, by decide⟩, (by rintro r ⟨⟩; decide), by decide, (by rintro r ⟨⟩),
      (by rintro r ⟨⟩), by decide, by decide, by decide, by decide⟩

/-- A copy of 4,096 bytes with a shape record, into memory. -/
theorem witness_copyQueued_shape :
    let s := world .as (withPage ∘ withS [(4, 0x100), (5, ownV + 0x1000), (6, ownV + 0x80)])
    let u := s.startIssue cu
    AllIssue [.cpy cu (.s 4) (.s 5) (.imm 4096) none (some 6)] s ∧ CopyReady u (.s 4) (.s 5) (s.sop (.imm 4096)) none (some 6) ∧
      u.pathHeld (s.rs 6) 64 = false ∧
      ∃ v x, u.readShape cu (some 6) = .ok v x ∧
        (u.copyChecks (u.copyOf cu (.s 4) (.s 5) (s.sop (.imm 4096)) none x none) (s.rs 6) == none) = true := by
  refine ⟨all_issue (by decide), ?_, by decide, acc_ok _ (by decide)⟩
  exact ⟨(by rintro r ⟨⟩), (by rintro r ⟨⟩), by decide, (by rintro r ⟨⟩), (by rintro r ⟨⟩; decide), by decide, by decide, by decide, by decide⟩

theorem witness_copyQueued_gather :
    let s := world .as (withPage ∘ withS [(4, 0x100), (6, 64), (8, ownV + 0x40)] ∘ withTile 1 ⟨.empty, 256, 0⟩ ∘ withTile 2 ⟨.ready, 16, 1024⟩ ∘
      withTile 3 ⟨.ready, 256, 2048⟩)
    let u := s.startIssue cu
    let g (sc : Bool) (t0 : Fin 32) : GathCmd := ⟨0, sc, s.rs 4, t0, (s.cc.tile t0).off, 256, 2, 1024, 4, s.rs 6, 64, s.cc.nest, none, s.cc.bfmt, 0, none, none, false, 0⟩
    AllIssue [.gather cu 1 4 6 2 none 64, .scatter cu 4 3 6 2 none 64, .gather cu 1 4 6 2 (some 8) 64] s ∧ (s.cc.tile 1).state = .empty ∧ (s.cc.tile 3).state = .ready ∧
      (s.cc.tile 2).state = .ready ∧ s.cc.gathQ.length < 9 ∧ u.copyPtr false (.s 4) = none ∧ u.copyPtr true (.s 4) = none ∧
      u.barPtr none = none ∧ u.barPtr (some 8) = none ∧ (s.rs 8).toNat % 16 = 0 ∧ (g false 1).rows * (g false 1).bd ≤ 256 ∧ (g true 3).rows * (g true 3).b ≤ 256 ∧ (g false 1).whole = true ∧
      (g true 3).whole = true ∧ u.pairBarrier 1 none = false ∧ u.pairBarrier 1 (some 8) = false := ⟨all_issue (by decide), by decide⟩

/-- A vault whose bytes at an offset the PF's launch has written. -/
def withBytes (off : Nat) (bs : List Byte) (k : Core) : Core :=
  { k with vault := { k.vault with bytes := Memory.write k.vault.bytes off bs, owner := SMap.fill 0 k.vault.owner off bs.length (ownerTag 64) } }

/-- A barrier of 1 arrival and -3 sectors at offset 0x40, and at 0x50 one whose phase 0 has completed. -/
def withBarriers (k : Core) : Core :=
  withBytes 0x50 (Bar.toBytes ⟨1, 2, 0, 2, false⟩) (withBytes 0x40 (Bar.toBytes ⟨0, 1, -3, 1, false⟩) k)

theorem witness_barrierResult :
    let s := world .as (withS [(4, ownV + 0x40), (5, ownV + 0x50)] ∘ withBarriers)
    let u := s.startIssue cu
    AllIssue [.tbinit cu 4 (.imm 1048575), .tbarv cu 4 (.imm 3), .tbwait cu true 5 (.imm 0), .tbwait cu false 4 (.imm 0)] s ∧
      s.cc.vault.bytes.wf = true ∧ s.cc.vault.remap = [] ∧ s.cc.vault.lost = [] ∧ s.cc.vault.evac = [] ∧ u.classHeld 0 hereTarget = false ∧
      u.barSec (.tbinit cu 4 (.imm 1048575)) cu = false ∧ u.barSec (.tbarv cu 4 (.imm 3)) cu = false ∧ u.vaultBad 0x40 16 (s.rs 4) = none ∧
      u.barIssue (.tbinit cu 4 (.imm 1048575)) 4 (.imm 1048575) 1 1048575 true = .inr 0x40 ∧
      u.barIssue (.tbarv cu 4 (.imm 3)) 4 (.imm 3) 0 (2 ^ 31 - 1) true = .inr 0x40 ∧ u.bar s.cur.val 0x40 = ⟨0, 1, -3, 1, false⟩ ∧
      u.barIssue (.tbwait cu true 5 (.imm 0)) 5 (.imm 0) 0 15 false = .inr 0x50 ∧ u.bar s.cur.val 0x50 = ⟨1, 2, 0, 2, false⟩ ∧
      u.barIssue (.tbwait cu false 4 (.imm 0)) 4 (.imm 0) 0 15 false = .inr 0x40 :=
  ⟨all_issue (by decide), by decide⟩

theorem witness_barrierResult_fits : (⟨0, 1, -3, 1, false⟩ : Bar).Fits := by unfold Bar.Fits; decide

/-- A stream of capacity 1,024 that holds 1,024 elements, and an empty one. -/
theorem witness_streamResult :
    let s := world .xs (withBytes 0x4000 (leBytes 4 1024) ∘ withTile 1 ⟨.ready, 4160, 0x4000⟩ ∘ withTile 2 ⟨.ready, 4160, 0x8000⟩)
    let u := s.startIssue cu
    AllIssue [.cspush cu 2 4, .cspop cu 5 1, .csbal cu 6 1 1] s ∧ StreamReady u 1 ∧ StreamReady u 2 ∧
      (u.stream s.cur.val 1).fill = 1024 ∧ u.streamBad s.cur.val (u.stream s.cur.val 1) 0 1024 = none ∧
      (u.stream s.cur.val 2).fill + (List.range 1024).length ≤ (u.stream s.cur.val 2).cap ∧
      (bt u.cc.x.vSec 4 || bt u.cc.x.pSec 15) = false :=
  ⟨all_issue (by decide), ⟨by decide, by decide, ⟨1024, by decide, by decide⟩, by decide⟩,
    ⟨by decide, by decide, ⟨1024, by decide, by decide⟩, by decide⟩, by decide, by decide, by decide, by decide⟩

theorem witness_streamResult_lanes : (List.range 1024).Pairwise (· < ·) ∧
    ∀ l, l ∈ List.range 1024 ↔ l < 1024 ∧ ((world .xs id).startIssue cu).isOn cu l := by
  refine ⟨List.pairwise_lt_range, fun l => ⟨fun h => ⟨List.mem_range.1 h, ?_⟩, fun h => List.mem_range.2 h.1⟩⟩

  exact BitVec.getLsbD_allOnes.trans (decide_eq_true (List.mem_range.1 h))

/-- Four SFU results are pending, the oldest due at 5. -/
theorem witness_specialFunctionPends :
    let r (n : Nat) : SfuPend := ⟨3, n, .exp2, Vector.replicate 1024 0, 1, 0, false⟩
    let s := world .xs fun k => { k with x := { k.x with sfu := [r 5, r 6, r 7, r 8] } }
    AllIssue [.vexp2 cu 1 2, .vlog2 cu 1 1, .vrcp cu 31 2, .vrsq cu 0 2] s := all_issue (by decide)

/-- A torus of 4 x 4 x 4 packages, this one being node 0. -/
def withTorus (s : State) : State := { s with pf := [(0x21020, 0x333000)] }

theorem witness_remoteReadSent :
    let s := worldIn .as (withS [(4, 0x100), (5, 0x123), (6, 0x444), (7, 0x102)]) withTorus
    let u := s.startIssue cu
    AllIssue [.rld cu .i32 true 3 6 8 5 4 0, .ratom cu .n32 .cas .ar 0 6 8 5 4 4 (some 4), .rld cu .i32 false 0 0 8 6 4 0,
        .rld cu .i32 false 0 0 8 5 7 0, .ratom cu .n32 .add .none 0 0 8 5 7 4 none] s ∧ (s.rs 4).toNat % 4 = 0 ∧ (s.rs 4).toNat < 2 ^ 57 ∧
      (s.rs 5).toNat < 4096 ∧ (s.rs 6).toNat < 4096 ∧ s.lc.flagD = false ∧ u.remoteHeld 3 0x123 false = false ∧
      u.remoteHeld 0 0x123 true = false ∧ u.inTorus 0x123 = true ∧ u.inTorus 0x444 = false ∧ (s.rs 7).toNat % 4 ≠ 0 :=
  ⟨all_issue (by decide), by decide⟩

theorem witness_remoteWriteSent :
    let s := worldIn .as (withS [(4, 0x100), (5, 0x123), (6, ownV + 0x40), (7, ownV + 0x80)]) withTorus
    let u := s.startIssue cu
    AllIssue [.rst cu .f32 true true 0 6 5 4 0 9 (some 6), .rst cu .i64 false false 0 0 5 4 8 9 none, .msop cu 4 0 5 4 0 7 6] s ∧
      (s.rs 4).toNat % 8 = 0 ∧ (s.rs 4).toNat < 2 ^ 57 ∧ (s.rs 5).toNat < 4096 ∧ s.lc.flagD = false ∧ (s.rs 6).toNat % 16 = 0 ∧
      u.barPtr (some 6) = none ∧ u.barPtr none = none ∧ u.remoteHeld 0 0x123 true = false ∧ u.remoteHeld 0 0x123 false = false ∧
      u.classHeld 0 hereTarget = false ∧
      u.inTorus 0x123 = true ∧ (s.rs 7).toNat % 2 ^ 21 % 64 = 0 ∧ (s.rs 4).toNat % msopAlign 4 = 0 ∧ u.msopVault 7 64 = none ∧
      u.vaultBad ((s.rs 7).toNat % 2 ^ 21) 64 (s.rs 7) = none := ⟨all_issue (by decide), by decide⟩

theorem witness_messageSent :
    let s := worldIn .as (withS [(4, ownV), (5, 0x0000000700050123), (6, 64), (8, ownV + 0x40), (9, 0x1000)]) withTorus
    let u := s.startIssue cu
    AllIssue [.sendm cu 0 5 4 0 6 (some 8), .sendm cu 0 5 4 0 0 none, .sendm cu 0 9 4 0 6 (some 8)] s ∧ (s.rs 8).toNat % 16 = 0 ∧ s.lc.flagD = false ∧
      u.payloadPtr (s.rs 4) 64 = none ∧ u.payloadPtr (s.rs 4) 0 = none ∧ u.barPtr (some 8) = none ∧
      (s.rs 5).toNat / 2 ^ 12 % 16 = 0 ∧ (s.rs 5).toNat / 2 ^ 28 % 16 = 0 ∧ (s.rs 5).toNat / 2 ^ 56 = 0 ∧ (s.rs 6).toNat < 2 ^ 24 ∧
      (u.inTorus 0x123 = true ∧ (s.rs 9).toNat / 2 ^ 12 % 16 ≠ 0) ∧
      let x : Inflight := { u.inflightOf 0x123 0 4 0 (s.rs 4) .n8 with len := 64 }
      let w : State := { (u.opStart 0x123).2 with inflight := [x] }
      let e : Eng := ⟨s.cur.val, w.opLaunch x, (w.opLaunch x).rankOf s.cur.val, false⟩
      w.payloadReady x = true ∧ ∃ y got, w.engRead e (e.ctx w x.user x.hint) (s.rs 4) 64 = .ok y got ∧ true = true :=
  ⟨all_issue (by decide), by decide, by decide, by decide, by decide, by decide, by decide, by decide, by decide, by decide, by decide,
    by decide, acc_ok (fun _ _ => true) (by decide)⟩

/-- An earlier remote access has not acted, so that the payload must wait. -/
theorem witness_messageSent_waits :
    let s := worldIn .as (withS [(4, ownV), (5, 0x0000000700050123), (6, 64)]) fun s => withTorus
      { s with
        vreqs := [⟨0, 0, 0, .as, 0, 1, 0, false, .store, 0, 4, .n32, 0, false, 0, false, false, 0⟩]
        cores := vset s.cores 0 { s.cc with ticket := 1 } }
    let u := s.startIssue cu
    AllIssue [.sendm cu 0 5 4 0 6 none] s ∧
      (u.opStart 0x123).2.payloadReady { u.inflightOf 0x123 0 4 0 (s.rs 4) .n8 with len := 64 } = false :=
  ⟨all_issue (by decide), by decide⟩

/-- A receive descriptor of context 0, any source and any tag, landing 64 bytes at own-vault offset 0x400. -/
def descBytes : List Byte := leBytes 8 (0x1FFF000000000400 + 0) ++ leBytes 8 (64 * 2 ^ 32) ++ leBytes 48 0

theorem witness_receiveResult :
    let s := worldIn .as (withS [(4, ownV + 0x1000)] ∘ withBytes 0x1000 descBytes) fun s =>
      { s with launches := [{ job with cfg := { job.cfg with ctx := [(0x22000, 0x8040)] } }] }
    let u := s.startIssue cu
    AllIssue [.rpost cu 3 4 0, .rprobe cu 3 4 0] s ∧ ((s.rs 4).toNat % 64 = 0 ∧ u.descHeld (s.rs 4) = false) ∧ (∃ n < 65536, ∀ q ∈ s.posted, q.entry ≠ n) ∧
      u.queuedRolls (lineOf descBytes) = none ∧ ∃ v got, u.readDesc cu (s.rs 4) = .ok v got ∧
        (boundBy s.lc.cfg.ctx (descCtx (lineOf got.bytes)) s.lc.fn && !u.descFails (lineOf got.bytes) && (descTile (lineOf got.bytes)).isNone) = true :=
  ⟨all_issue (by decide), by decide, ⟨0, by decide, by decide⟩, by decide, acc_ok _ (by decide)⟩

/-- A message of 2 bytes waits in the overflow area, which lies at 1 MiB. -/
theorem witness_receiveResult_queued :
    let q : Unexp := ⟨⟨2, 0, 0, 5, 64, 9, [], false⟩, 64, 2, [(0, 2)]⟩
    let s := worldIn .as (withS [(4, ownV + 0x1000)] ∘ withBytes 0x1000 descBytes) fun s => { s with pf := [(0x22000, 0x8040)], unexpected := [q] }
    let v := s.startIssue cu
    s.findUnexpected s.lc.fn (lineOf descBytes) = some q ∧ (v.payloadOf q).2 = none := by decide

theorem witness_receiveResult_cancel :
    let s := worldIn .as (withS [(4, 0x00010000), (5, 0x00010001), (6, 2 ^ 32)]) fun s =>
      { s with retrGen := [(0, ⟨1, 64, false⟩), (1, ⟨1, 64, false⟩)], posted := [⟨1, 1, 64, 0, 0, false, ownV, 0⟩] }
    let u := s.startIssue cu
    let w : State := { u with posted := [], retrGen := SMap.insert s.retrGen 1 ⟨1, 64, true⟩ }
    AllIssue [.rcancel cu 3 4, .rcancel cu 3 5, .rcancel cu 3 6] s ∧ (s.rs 4).toNat < 2 ^ 32 ∧
      SMap.find? s.retrGen 0 = some ⟨1, 64, false⟩ ∧ (∀ q ∈ s.posted, q.entry ≠ 0) ∧ SMap.find? s.retrGen 1 = some ⟨1, 64, false⟩ ∧
      s.posted.find? (fun x => x.entry == 1) = some ⟨1, 1, 64, 0, 0, false, ownV, 0⟩ ∧ s.lc.fn = 64 ∧ ¬(s.rs 6).toNat < 2 ^ 32 ∧
      u.statusHeld (u.recvLaunch 0 64) 0 ownV = false ∧ ∃ v x, w.writeStatus (u.recvLaunch 0 64) 0 false ⟨(u.recvLaunch 0 64).id, 0, 5, 0, some (descBoff 0)⟩ ownV 0 = .ok v x ∧ true = true :=
  ⟨all_issue (by decide), by decide, by decide, by decide, by decide, by decide, by decide, by decide, by decide, acc_ok _ (by decide)⟩

theorem witness_trapEntry :
    let s := world .as fun k => { k with as := { k.as with tvec := 0x1000, mode := 0 } }
    let t := world .as fun k => { k with as := { k.as with tvec := 0x1000, inh := true } }
    (s.core 0).as.inh = false ∧ (s.core 0).as.tvec ≠ 0 ∧ (t.core 0).as.inh = true ∧ (s.core 0).xs.tvec = 0 ∧
      (t.core 0).launch = some job.id ∧ t.launch? job.id = some job ∧ job.state = .running ∧ job.allCores = [0] := by decide

theorem witness_softwareTrapsAndReturn_traps :
    let s := world .xs fun k => { k with xs := { k.xs with tvec := 0x1000, results := [⟨9, 5, .mul, none, false⟩] } }
    AllIssue [.trap cu 0xFFFFFFFF (some 31), .trap cu 0 none, .bkpt cu false 0xFFFF, .bkpt cu true 0] s ∧ s.sq.inh = false ∧
      s.sq.tvec ≠ 0 ∧ ∀ r ∈ s.sq.results, r.remote = false := ⟨all_issue (by decide), by decide, by decide, by decide⟩

/-- Returns from a handler: to user mode, from PMODE 2, to an odd address. -/
theorem witness_softwareTrapsAndReturn_eret :
    let s (q : SeqId) (p : BitVec 2) (e : Word) := world q fun k =>
      { k with as := { k.as with inh := true, pmode := p, epc := e }, xs := { k.xs with inh := true, pmode := p, epc := e } }
    AllIssue [.eret cu] (s .as 0 0x40) ∧ AllIssue [.eret cu] (s .xs 3 0x40) ∧ AllIssue [.eret cu] (s .xs 2 0x40) ∧
      AllIssue [.eret cu] (s .as 1 0x41) ∧ (s .xs 0 0x40).cc.pipe = [] :=
  ⟨all_issue (by decide), all_issue (by decide), all_issue (by decide), all_issue (by decide), by decide⟩

theorem witness_systemRegisters :
    let s := world .xs (withS [(4, 0x80000), (5, 383), (6, 384), (7, 0x8000000000000000), (8, 6)])
    AllIssue ([0x001, 0x008, 0x011, 0x012, 0x013, 0x014, 0x015, 0x016, 0x041, 0x044, 0x046, 0x048].map fun n => .mfsr cu 3 n none) s ∧
      AllIssue ([0x010, 0x011, 0x012, 0x013, 0x014, 0x015, 0x016, 0x021, 0x022, 0x030, 0x031, 0x042, 0x043, 0x070, 0x07F].map fun n => .mtsr cu n 4 none) s ∧
      AllIssue ([0x000, 0x001, 0x002, 0x003, 0x004, 0x005, 0x008, 0x009, 0x040, 0x045, 0x047].map fun n => .mtsr cu n 4 none) s ∧
      AllIssue [.mfsr cu 3 0x045 (some 5), .mfsr cu 3 0x043 (some 6), .mtsr cu 0x046 7 none, .mtsr cu 0x048 7 none, .mtsr cu 0x046 4 none] s ∧
      (s.held = false ∧ (s.startIssue cu).guard cu = true ∧ (s.startIssue cu).reportFor (.mtsr cu 0xFFF 4 none) = none) ∧
      (s.rs 5).toNat < 384 ∧ 384 ≤ (s.rs 6).toNat ∧ srListed 0xFFF = false ∧ srListed 0x045 = true ∧ bfmtOk (s.rs 4) = true ∧
      (s.rs 4).toNat / 64 % 4 = 0 ∧ (s.rs 4).toNat % 8 < 6 ∧ srRejects 0x70 (s.rs 4) = false ∧ srRejects 0x21 7 = true ∧ s.othersWrote = [] ∧ (s.startIssue cu).guardBad cu = false ∧
      (s.startIssue cu).reportFor (.mtsr cu 0x021 8 none) = none ∧ (s.startIssue cu).interlocked (Instr.regs (.mtsr cu 0x021 8 none)) = false ∧
      srListed 0x021 = true ∧ srRejects 0x021 (s.rs 8) = true :=
  ⟨all_issue (by decide), all_issue (by decide), all_issue (by decide), all_issue (by decide), by decide⟩

theorem witness_tagsAndTranslations :
    let s := world .as (withPage ∘ withS [(4, ownV + 0x1FFF00), (5, 256), (6, 0x200000000000000), (7, 0x1000)])
    let u := s.startIssue cu
    AllIssue [.wtclr cu 0 4 0 5, .wtclrRegs cu, .vainv cu 6 (.imm 1), .vainv cu 7 (.imm 0), .vainv cu 0 (.reg 7)] s ∧
      (s.rs 4).toNat % 256 = 0 ∧ (s.rs 5).toNat % 256 = 0 ∧ u.ownVault s.cur.val (s.rs 4) 256 true = .inr 0x1FFF00 ∧
      u.classHeld 0 s.cur.val = false ∧ s.cc.vault.remap = [] ∧ SMap.wf false s.cc.vault.sec = true ∧ 2 ^ 57 ≤ (s.rs 6).toNat ∧
      (s.rs 7).toNat < 2 ^ 57 ∧ 0 < (s.sop (.reg 7)).toNat := ⟨all_issue (by decide), by decide⟩

/-! Steps of the device. `queued` is a record that waits, `idle` a package with some launches and no core in use. -/

def packet : Launch := { Launch.blank with fn := 64, record := record 2 2 0 2048, state := .port }

def idle (ls : List Launch) : State := { State.reset with launches := ls }

theorem witness_recordPosted :
    let s := worldIn .as (withPage ∘ withS [(4, 0x100)]) fun s => { s with launches := [{ job with record := record 1 1 0 2048 }] }
    let u := s.startIssue cu
    AllIssue [.cpost cu 4 0] s ∧ (s.rs 4).toNat % 64 = 0 ∧ (s.rs 4).toNat < 2 ^ 57 ∧ u.allPerformed = true ∧ u.posterHeld = false ∧
      ∃ v got, u.pairedAfter (s.rs 4) (u.readGlobal (u.mcur cu) (s.rs 4) 64) = .ok v got ∧ (got.bad == none) = true :=
  ⟨all_issue (by decide), by decide, by decide, by decide, by decide, acc_ok _ (by decide)⟩

theorem witness_recordPosted_port : (State.reset.fnRegs 0).stopped = false ∧ State.reset.portUsed 0 < 64 ∧
    64 ≤ (idle (List.replicate 64 packet)).portUsed 64 ∧
    ∃ w ∈ ({ State.reset with portHeld := [⟨7, false, 0, 0⟩] } : State).portHeld, w.fn = 7 := by decide

theorem witness_recordPlaced_admission :
    let s := idle [packet]
    (s.launches.map Launch.id).Nodup ∧ s.launch? 0 = some packet ∧ s.admitTurn packet = true ∧ packet.formOk = true ∧
      (packet.permitted = true ∧ ¬(packet.cls ≤ 1 ∧ packet.dline = 0) ∧ s.fitting { packet with cfg := s.cfgOf 64 } ≠ [] ∧ packet.image = none ∧
        s.roomFrom 0 0 = some 0 ∧ packet.cls ≠ 0) ∧ ∃ v bs, s.argBlock { packet with cfg := s.cfgOf packet.fn } = .ok v bs ∧
        (bs == [] && v.roomFrom 0 0 == some 0) = true :=
  ⟨by decide, by decide, by decide, by decide, by decide, acc_ok _ (by decide)⟩

theorem witness_recordPlaced_place :
    let l : Launch := { packet with state := .queued }
    (idle [l]).launch? 0 = some l ∧ (l.at_ (0, 0)).allCores = [0, 1, 32, 33] ∧ (idle [l]).findHead 0 = some (.at_ l (0, 0)) ∧
      ∃ v mr, (idle [l]).measured l = .ok v mr ∧ true = true :=
  ⟨by decide, by decide, rfl, acc_ok (fun _ _ => true) (by decide)⟩

/-- A measured head of VF 3, whose entry code no extent maps. -/
theorem witness_recordPlaced_miss :
    let l : Launch := { packet with fn := 3, state := .queued, record := record 2 2 16 2048, cfg := { Launch.blank.cfg with part := 1 } }
    let s : State := { idle [l] with pf := [(0x24208, 1)], worldCores := BitVec.allOnes 384 }
    s.findHead 0 = some (.at_ l (0, 0)) ∧ l.flagS = true ∧ (match s.measured l with
      | .miss .. => true
      | _ => false) = true := ⟨rfl, by decide, by decide⟩

/-- A save area of VF 0, at 1 MiB. -/
def savePf : SMap Word := [(0x21700, 0x100000)]

/-- A late class-0 head of 32 x 8 that only the victim's core keeps from its place, and a queue of 32 records
beside an empty one. -/
theorem witness_recordPlaced_preempt :
    let l : Launch := { packet with id := 1, record := record 32 8 0 2048 ^^^ BitVec.ofNat 512 (2 * 2 ^ 256), state := .queued }
    let x : Launch := { job with fn := 0, record := record 1 1 0 2048 }
    let s := worldIn .as id fun s => { s with launches := [x, l], pf := savePf }
    (s.launches.map Launch.id).Nodup ∧ s.headOf 0 0 = some l ∧ (s.reserved.any fun y => y.2 == l.id) = false ∧ s.tooLate l = true ∧
      (s.tryHead l).isNone = true ∧ pickVictim (s.victims l) = some x ∧ s.nearest l (s.freedBy l x) = some (0, 0) ∧ x.allCores = [0] ∧
      (s.headOf 1 0).isNone = true := by decide

theorem witness_recordPlaced_balance : let s : State := { idle [{ packet with state := .queued }] with cycle := 3300 }
    ¬s.cycle < s.balanced + 3300 ∧ (idle []).cycle < (idle []).balanced + 3300 := by decide

/-- A launch that is being saved to slot 0, its one core stopped since slot 7. -/
def leaving (f : Core → Core) : State :=
  worldIn .as (fun k => f { k with ppre := some 7 }) fun s => { s with launches := [{ job with image := some 0 }], pf := savePf, cycle := 39607 }

theorem witness_launchMoves_save :
    let s := leaving id
    let l : Launch := { job with image := some 0 }
    (s.launches.map Launch.id).Nodup ∧ (s.core 0).launch = some l.id ∧ s.launch? l.id = some l ∧ l.state = .running ∧ (s.core 0).ppre ≠ none ∧
      s.saveReady l 0 = true ∧ l.step = none ∧ l.allCores = [0] ∧ (s.core 1).launch = none := by decide

theorem witness_launchMoves_restore :
    let l : Launch := { packet with record := record 1 1 0 2048, state := .saved 0, image := some 0, cfg := { Launch.blank.cfg with saveBase := 0x100000 } }
    let s (ls : List Launch) : State := { idle ls with mem := Memory.write [] 0x100000 (leBytes 4 0x56535843 ++ leBytes 2 1) }
    (s [l]).launch? 0 = some l ∧ (s [l]).findHead 0 = some (.at_ l (1, 1)) ∧
      (s [{ l with id := 1, front := false, arrival := 9 }, l]).launch? 1 = some { l with id := 1, arrival := 9 } ∧
      (s [{ l with id := 1, front := false, arrival := 9 }, l]).findHead 0 = some (.at_ l (1, 1)) := by decide

theorem witness_launchMoves_timeout :
    let s := leaving fun k => { k with xs := { k.xs with inh := true } }
    (s.core 0).launch = some 0 ∧ s.launch? 0 = some { job with image := some 0 } ∧ (s.core 0).ppre = some 7 ∧ (s.core 0).xs.inh = true ∧
      7 + 39600 ≤ s.cycle ∧ (s.core 1).ppre = none := by decide

theorem witness_launchMoves_slice :
    let s : State := { State.reset with pf := [(0x21900, 0x8000000000000000), (0x21C00, 1)], cycle := 3300 }
    ¬s.cycle < s.sliceStart + s.sliceLen * 3300 ∧ s.takesTurns 0 = true ∧ s.cycle - 1 < s.sliceStart + s.sliceLen * 3300 := by decide

/-- A running, a saved and a draining launch of the PF with different completion pointers. -/
def jobs : List Launch :=
  [job, { job with id := 1, state := .saved 3, record := record 1 1 0 0 ^^^ BitVec.ofNat 512 (16 * 2 ^ 448) },
    { job with id := 2, state := .draining, record := record 1 1 0 0 ^^^ BitVec.ofNat 512 (32 * 2 ^ 448) }]

theorem witness_launchMoves_kill :
    (jobs.map Launch.id).Nodup ∧ jobs.map Launch.cptr = [0, 16, 32] ∧ (∀ y ∈ jobs, y.fn = 64) ∧ jobs.map Launch.state = [.running, .saved 3, .draining] := by
  decide

theorem witness_launchFinishes_drain :
    let l : Launch := { job with state := .draining }
    let s := worldIn .as id fun s => { s with launches := [l] }
    let d := worldIn .as (fun k => { k with lands := [⟨0, 0, ⟨0, 0, 0, 0, 0, 0, [], false⟩, 0, 0, 0, none, false, false, false, 0⟩] }) fun s => { s with launches := [l] }
    s.launch? l.id = some l ∧ s.drained l = true ∧ ¬(l.flagD = true ∧ l.status = .ok) ∧ d.drained l = false ∧
      l.id < s.nextId := by decide

theorem witness_launchFinishes_tracker :
    let l : Launch := { job with state := .tracker }
    let s := worldIn .as id fun s => { s with launches := [l] }
    s.launch? l.id = some l ∧ l.leftC = [] ∧ l.leftG = [] ∧ s.acked l = true ∧ l.id < s.nextId := by decide

/-- A paired launch of one core a copy, whose copies' signatures differ in a written line. -/
theorem witness_launchFinishes_paired :
    let l : Launch := { job with state := .draining, record := record 1 1 2 2048 }
    let s := worldIn .as id fun s => { s with launches := [l], pf := [(0x24210, 4)], shadows := [⟨0, false, 0x1000, 0x1000, 0x9000, [0x9000]⟩] }
    s.launch? l.id = some l ∧ l.flagD = true ∧ l.status = .ok ∧ s.drained l = true ∧ (s.pfReg 0x24210).getLsbD 2 = true ∧
      l.id < s.nextId ∧ (∀ m ∈ s.misses, m.launch ≠ some l.id) ∧ (∀ p ∈ s.shadows, p.launch = l.id → p.copy1 = false → s.commitMiss l p = none) ∧
      ∃ m ∈ ({ s with misses := [⟨3, 64, 0, some 0, 0, none⟩] } : State).misses, m.launch = some l.id := by decide

theorem witness_launchFinishes_record :
    let l : Launch := { job with state := .draining, record := record 1 1 0 0 ^^^ BitVec.ofNat 512 (0x100 * 2 ^ 448) }
    let s : State := { idle [l] with tlb2 := vset State.reset.tlb2 0 [⟨64, 0, 12, 0x1F, 0x3000, 4⟩] }
    s.launch? l.id = some l ∧ l.cptrOk = true ∧ ∃ v ps, s.checkStore (s.launchMem l) l.cptr 16 false = .ok v ps ∧
      (ps.all (fun p => p.page.ca != 3 && v.poisonAt p.pa p.len == none) && (v.mscOf 0).isEmpty && (v.mscOf 1).isEmpty) = true :=
  ⟨by decide, by decide, acc_ok _ (by decide)⟩

/-! Collectives of one core and of two. -/

/-- Two cores of one launch. -/
def pair (f : Core → Core) (cycle : Nat) : State :=
  let k := f core0
  { State.reset with
    cores := vset (vset State.reset.cores 0 k) 1 { k with rank := 1 }
    launches := [{ job with record := record 2 1 31 2048 ^^^ BitVec.ofNat 512 (2 * 2 ^ 208) }]
    cycle := cycle }

def atWait (w : Wait) (k : Core) : Core := { k with as := { k.as with wait := some w }, xs := { k.xs with wait := some w } }

theorem witness_collectiveCompletes_barrier :
    let s := pair (atWait (.bar 1 0 100)) 146
    let t := pair (atWait (.bar 1 0 100)) 145
    (s.core 0).barShape = some (1, 0) ∧ s.groupCores 0 (2, 1) = [0, 1] ∧ (s.core 0).barArrival 1 0 = some 100 ∧ (s.core 1).barArrival 1 0 = some 100 ∧
      100 + 40 + 2 * (2 + 1) ≤ s.cycle ∧ ¬100 + 40 + 2 * (2 + 1) ≤ t.cycle ∧ s.coreQuiet 0 = true ∧ s.coreQuiet 1 = true ∧
      ((s.core 1).seq .xs).atBar = true := by decide

theorem witness_collectiveCompletes_deadline :
    let s := pair (atWait (.until 10)) 33
    ((s.core 0).seq .as).wait = some (.until 10) ∧ (10 : Word).toNat ≤ s.timebase.toNat ∧ (pair (atWait (.until 10)) 32).timebase.toNat < 10 := by decide

theorem witness_collectiveCompletes_phase :
    let s := world .as (atWait (.phase 1 2) ∘ withTile 2 ⟨.ready, 256, 0⟩)
    let t := world .as (atWait (.phase 1 2))
    (s.core 0).phaseArrived = some (1, 2) ∧ s.boundaryReady 0 1 2 = true ∧ (s.core 0).fullQueue = none ∧ (1 : Fin 32) ≠ 2 ∧
      ((s.core 0).seq .as).phaseAt ≠ none ∧ t.boundaryReady 0 1 2 = false ∧ (t.core 1).phaseArrived = none := by decide

/-- An exchange step of two cores with empty schedules of length 64, about to start and running. -/
theorem witness_collectiveCompletes_exchange :
    let s := pair (fun k => { atWait (.xch 100) k with xctl := 0x400000 }) 146
    let l : Launch := { job with record := record 2 1 31 2048 ^^^ BitVec.ofNat 512 (2 * 2 ^ 208) }
    let r : Launch := { l with step := some (100, 64) }
    let t : State := { s with launches := [r], cycle := 164 }
    s.launch? 0 = some l ∧ l.state = .running ∧ l.image = none ∧ l.step = none ∧ l.allCores = [0, 1] ∧ s.coreQuiet 0 = true ∧
      (s.core 0).xchAt = some 100 ∧ (s.core 1).xchAt = some 100 ∧ 100 + 40 + 2 * (l.wid + l.hgt) ≤ s.cycle ∧
      (s.core 1).stepLen = (s.core (l.coreOf false 0)).stepLen ∧ t.launch? 0 = some r ∧ 100 + 64 ≤ t.cycle ∧ (t.core 0).beats = [] ∧
      (t.core 0).beatLost = false := by decide

/-- A beat of 64 bytes from core 0 to core 1, due at slot 103. -/
theorem witness_collectiveCompletes_beat :
    let p : Parcel := ⟨List.replicate 64 7, false, []⟩
    let b (d : Option Parcel) : Beat := ⟨1, 3, 0, 1, 0x100, d⟩
    let s (d : Option Parcel) (at_ : Nat) : State := worldIn .as (fun k => { k with beats := [b d] }) fun s =>
      { s with launches := [{ job with step := some (100, 64) }], cycle := at_ }
    ((s none 101).launchOn 0).step = some (100, 64) ∧ nextBeat ((s none 101).core 0).beats = some (b none) ∧ ((s none 101).launchOn 0).allCores = [0] ∧
      nextBeat ((s (some p) 103).core 0).beats = some (b (some p)) ∧ 100 + (b none).next ≤ 101 ∧ 100 + (b (some p)).next ≤ 103 ∧ ¬100 + (b none).next ≤ 100 ∧
      (b none).dstCore < 384 ∧ ((s (some p) 103).vault 1).landing.length + (((s (some p) 103).vault 1).newRows 0x100 64).length ≤ 256 := by decide

theorem witness_collectiveCompletes_balance :
    let s := worldIn .xs (fun k => withBytes 0x4000 (leBytes 4 1024) (withTile 1 ⟨.ready, 4160, 0x4000⟩ { k with xs := { k.xs with wait := some (.csbal 2 3 1 100) } }))
      fun s => { s with cycle := 144 }
    s.groupCores 0 (s.xsShape 0) = [0] ∧ s.csbalAt 0 (s.xsShape 0) = some (2, 3, 1, 100) ∧
      100 + 40 + 2 * ((s.xsShape 0).1 + (s.xsShape 0).2) ≤ s.cycle ∧ (s.stream 0 1).fill = 1024 ∧
      (world .xs id).csbalAt 0 (s.xsShape 0) = none := by decide

/-- Two cores in `CSBAL`, whose shares have not been made, or have landed. -/
theorem witness_collectiveCompletes_shares :
    let w (h : Nat) : CsShare := ⟨0x4000, 1024, 0, List.replicate 2 5, false, 0, 1, h⟩
    let s (cs : Option CsShare) (cycle : Nat) : State := pair (fun k => withBytes 0x4000 (leBytes 4 1024 ++ leBytes 8 0) (withTile 1 ⟨.ready, 4160, 0x4000⟩
      { k with cs := cs, xs := { k.xs with wait := some (.csbal 2 3 1 100), barShape := some (1, 0) } })) cycle
    let sh := (s none 145).xsShape 0
    sh = (2, 1) ∧ (s none 145).groupCores 0 sh = [0, 1] ∧ [0, 1].Nodup ∧ (s none 145).csbalAt 0 sh = some (2, 3, 1, 100) ∧
      (s none 145).csbalAt 1 sh = some (2, 3, 1, 100) ∧ ((s none 145).core 0).cs = none ∧ (s none 145).cycle < 100 + 40 + 2 * (sh.1 + sh.2) ∧
      ((s (some (w 2)) 147).core 0).cs = some (w 2) ∧ ((s (some (w 2)) 147).core 1).cs = some (w 2) ∧ (w 2).vs.length ≤ (w 2).done ∧
      100 + 40 + 2 * (sh.1 + sh.2) + ((w 2).vs.length - ((w 2).hi - (w 2).lo) + 15) / 16 ≤ (s (some (w 2)) 147).cycle ∧
      ¬100 + 40 + 2 * (sh.1 + sh.2) + ((w 2).vs.length - ((w 2).hi - (w 2).lo) + 15) / 16 ≤ (s (some (w 2)) 146).cycle := by decide

theorem witness_resultsLand_results :
    let s := world .as fun k => { k with as := { k.as with results := [⟨9, 5, .mul, none, false⟩, ⟨0, 6, .load, some (0x0F, 8), false⟩] } }
    ((s.core 0).seq .as).results.find? (fun y => y.src == .load) = some ⟨0, 6, .load, some (0x0F, 8), false⟩ ∧
      ((s.core 0).seq .as).results.find? (fun y => y.src == .mul || y.src == .div) = some ⟨9, 5, .mul, none, false⟩ ∧
      ((s.core 0).seq .xs).results.find? (fun y => y.src == .load) = none := by decide

theorem witness_resultsLand_sfu :
    let r (n : Nat) : SfuPend := ⟨3, n, .exp2, Vector.replicate 1024 0, 1, 0, false⟩
    let s := world .xs fun k => { k with x := { k.x with sfu := [r 8, r 9], count := 8 } }
    (s.core 0).pipe = [r 8, r 9] ∧ (r 8).at_ ≤ (s.core 0).count ∧ (∀ y ∈ [r 9], (s.core 0).count < y.at_) ∧
      ∀ y ∈ ((world .xs id).core 0).pipe, ((world .xs id).core 0).count < y.at_ :=
  ⟨rfl, by decide, by decide, by decide⟩

/-- Requests of core 1 at core 0: a load, a store, an atomic, an accumulator load, and one whose reply is due. -/
def requests : List VReq :=
  let r : VReq := ⟨0, 0, 1, .as, 0, 0, 0, false, .load, 0x40, 8, .i64, 7, false, ownerTag 64, false, false, 0⟩
  [r, { r with id := 1, kind := .store, ticket := 1 }, { r with id := 2, kind := .atom .cas 9, ticket := 2 }, { r with id := 3, acc := true, ticket := 3 },
    { r with id := 4, acted := true, due := 20 }, { r with id := 5, acted := true, due := 20, kind := .atom .add 0 }, { r with id := 6, acted := true, due := 21 }]

theorem witness_resultsLand_requests :
    let s (l : List VReq) : State := { pair id 20 with vreqs := l }
    requests.map VReq.id = [0, 1, 2, 3, 4, 5, 6] ∧ requests.all (fun r => r.acted || (s [r]).vreqReady r) = true ∧
      requests.all (fun r => r.id == 0 || !(s requests).vreqReady r) = true ∧
      ((s []).vault 0).landing.length + (((s []).vault 0).newRows 0x40 8).length ≤ 256 ∧ ((s []).vault 0).bad 0x40 8 = false ∧
      ((s []).core 0).arrayIdle = true := by decide

theorem witness_resultsLand_replies :
    let k (s : State) : State := { s with cores := vset s.cores 1 { s.core 1 with
      as := { (s.core 1).as with results := [⟨3, 0, .vault 4, none, false⟩, ⟨5, 0, .vault 5, none, false⟩], wait := some (.vault 5) } } }
    let s : State := k { pair id 20 with vreqs := requests }
    (s.vreqs.find? fun y => y.id == 4).map VReq.acted = some true ∧ (s.vreqs.find? fun y => y.id == 4).map VReq.due = some 20 ∧
      ((s.core 1).seq .as).wait = some (.vault 5) ∧ (((s.core 1).seq .as).results.find? fun z => z.src == .vault 5) = some ⟨5, 0, .vault 5, none, false⟩ ∧
      (s.vreqs.find? fun y => y.id == 6).map VReq.due = some 21 ∧ s.cycle < 21 := by decide

theorem witness_memorySystemSteps_misses :
    let s := worldIn .as id fun s => { s with misses := [⟨3, 64, 0x1000, none, 0, none⟩, ⟨4, 64, 0x1000, some 0, 0, none⟩] }
    s.missPending 3 = true ∧ (∀ w ∈ s.remWaits, w.miss ≠ 3) ∧ (∀ x ∈ s.launches, x.state ≠ .recording 3) ∧ s.missPending 5 = false ∧
      s.misses.find? (fun x => x.id == 4) = some ⟨4, 64, 0x1000, some 0, 0, none⟩ ∧ s.launch? 0 = some job ∧ job.state = .running := by decide

/-- An extent of 64 KiB at host address 0, and one that would overlap it. -/
theorem witness_memorySystemSteps_extents :
    let d : BitVec 256 := BitVec.ofNat 256 (0x10000 + 2 ^ 64 + 0x10000 * 2 ^ 128 + 5 * 2 ^ 192)
    let s : State := { State.reset with pf := [(extOff 0 0, 0x10000), (extOff 0 0 + 8, 1), (extOff 0 0 + 24, 1), (0x21010, 8), (0x21018, 4)] }
    s.extentOk 0 1 (BitVec.ofNat 256 (0x20000 + 2 ^ 64 + 0x10000 * 2 ^ 128 + 5 * 2 ^ 192)) = true ∧ s.extentOk 0 1 d = false ∧ SMap.wf 0 s.pf = true ∧
      (s.ext 0 0).valid = true ∧ (s.ext 0 0).hbase < (0x1000 : BitVec 52).toNat ∧ (0 : BitVec 52).toNat < (s.ext 0 0).hbase + (s.ext 0 0).bytes ∧
      s.acWays ≤ 8 ∧ (8 : BitVec 4).toNat ≤ 8 ∧ 8 < (9 : BitVec 4).toNat := by decide

theorem witness_memorySystemSteps_requests :
    let r : HbmReq := ⟨3, 2, 0, 0, 64, 0⟩
    let s : State := { State.reset with hbm := [r, { r with arrival := 1 }], pf := [(0x21018, 4)], fns := vset State.reset.fns 0 { FnRegs.reset with tokens := 100000, tokenDepth := 256 } }
    s.hbm = r :: [{ r with arrival := 1 }] ∧ s.hasTokens r = true := by decide

theorem witness_tenantSteps :
    let l : Launch := { packet with fn := 5, state := .saved 0 }
    let s : State := { idle [l] with fns := vset State.reset.fns 5 { FnRegs.reset with stopped := true, held := [[1], [2]], evbase := 0x1000 } }
    let t : State := { idle [] with fns := vset State.reset.fns 5 { FnRegs.reset with held := [[1], [2]], evbase := 0x1000, evhead := 0, evtail := 1 } }
    (s.launches.map Launch.id).Nodup ∧ l ∈ s.launches ∧ l.fn = 5 ∧ l.isSaved = true ∧ (s.fnRegs 5).stopped = true ∧ (s.fnRegs 6).stopped = false ∧
      (s.fnRegs 5).held = [1] :: [[2]] ∧ (s.fnRegs 5).ringRoom = true ∧ (t.fnRegs 5).ringRoom = false ∧ (s.fnRegs 6).held = [] := by decide

/-- 65 records that a full port of VF 5 holds. -/
theorem witness_tenantSteps_resume :
    let s : State := { State.reset with portHeld := List.replicate 65 ⟨5, false, 0, 0⟩ }
    (∀ w ∈ State.reset.portHeld, w.fn ≠ 5) ∧ (∀ w ∈ s.portHeld, w.fn = 5) ∧ s.portHeld ≠ [] := by decide

theorem witness_tenantSteps_counters :
    let s := world .as fun k => { k with wrapped := 0x80, cntcfg := vset k.cntcfg 7 0x20000 }
    let k := (s.core 0).syncSlots s.cycle
    k.wrapped.getLsbD 7 = true ∧ (vget 0 k.cntcfg 7).getLsbD 17 = true ∧ (s.launchOn 0).fn < 65 := by decide

theorem witness_registerSteps :
    let s := world .as id
    let e : Evac := ⟨3, 9, 3 * 528 + 512, none, 6⟩
    let t := world .as fun k => { k with vault := { k.vault with evac := [e] } }
    s.cc.launch = some job.id ∧ s.launch? job.id = some job ∧ job.state = .running ∧ s.vpStat ≠ 2 ∧ s.vpCur.toNat ≤ (7 : BitVec 3).toNat ∧
      ({ s with vpStat := 2 } : State).vpStat = 2 ∧ t.cc.vault.evac.find? (fun y => y.bank == 3) = some e ∧ e.p < 7 ∧
      (∀ j, j < 4 → SMap.get false t.cc.vault.pois (32 * t.cc.vault.phys 3 9 + 4 * e.p + j) = false) ∧ t.cc.vault.bytes.wf = true ∧
      (∃ y ∈ t.cc.vault.evac, y.bank = (3 * 2 ^ 9 : Word32).toNat / 2 ^ 9 % 16) ∧ s.cc.vault.evac.find? (fun y => y.bank == 3) = none ∧
      pfValue 0x21000 0x2000 = some 0x2000 ∧ pfValue 0x21004 0 = none ∧ SMap.wf 0 s.pf = true := by decide

/-- The last chunk of row 9 of bank 3, which takes the place of row 11; the same with a poisoned word. -/
theorem witness_registerSteps_commit :
    let e : Evac := ⟨3, 9, 3 * 528 + 11, some 11, 7⟩
    let t (p : SMap Bool) := world .as fun k => { k with rowGo := some 3, rowEvac := some 3, vault := { k.vault with evac := [e], pois := p } }
    let bad : SMap Bool := [(32 * (3 * 528 + 9) + 28, true)]
    (t []).cc.vault.evac.find? (fun y => y.bank == 3) = some e ∧ e.p = 7 ∧
      (∀ j, j < 4 → SMap.get false (t []).cc.vault.pois (32 * (t []).cc.vault.phys 3 9 + 28 + j) = false) ∧ (t []).cc.rowGo = some 3 ∧
      (t []).cc.rowEvac = some 3 ∧ (t []).cc.vault.remap = [] ∧ (t []).cc.vault.lost = [] ∧ (t []).cc.vault.bytes.wf = true ∧
      ∃ j < 4, SMap.get false (t bad).cc.vault.pois (32 * (t bad).cc.vault.phys 3 9 + 4 * e.p + j) = true := by decide

/-- A vault some of whose rows hold their bits down to point 3 only; 512 to 527 are the spares of bank 0. -/
def worn (rows : List Nat) : Vault := { Vault.reset with floors := rows.map fun r => (r, 3) }

/-- Row 5 must be moved before point 2; row 511 has no place to go to. -/
theorem witness_registerSteps_moves : (worn [5]).dests 0 2 = [(5, 512, none)] ∧ (worn [5]).floorOf ((worn [5]).phys 0 5) ≤ 7 := by decide +kernel

theorem witness_registerSteps_loses :
    let v := worn ((List.range 17).map (511 + ·))
    let s := world .as fun k => { k with vault := v }
    v.dests 0 2 = [] ∧ (v.lostAt 0 2).any (fun r => !v.isLost 0 r && decide (256 * r < 2048 * 1024)) = true ∧ (s.vault 0).floors = v.floors ∧ s.footOn 0 = 2048 * 1024 ∧
      s.vpStat ≠ 2 ∧ (2 : BitVec 3).toNat < s.vpCur.toNat ∧ (s.vault 383).floors = [] := by decide +kernel

/-- GO for row 5 of bank 0 toward point 2. -/
theorem witness_registerSteps_go :
    let w : Word32 := 5 + 2 * 2 ^ 16
    (∀ y ∈ (worn [5]).evac, y.bank ≠ w.toNat / 2 ^ 9 % 16) ∧
      ((worn [5]).dests (w.toNat / 2 ^ 9 % 16) (w.toNat / 2 ^ 16 % 8)).find? (fun y => y.1 == w.toNat % 2 ^ 9) = some (5, 512, none) := by decide +kernel

/-- GO for row 0 of bank 15, whose spares are worn out: row 511 gives its place and is lost, within the footprint of
`job` and outside one of 1 KiB. -/
theorem witness_registerSteps_go_lost :
    let w : Word32 := 15 * 2 ^ 9 + 2 * 2 ^ 16
    let v := worn ((15 * 528) :: (List.range 16).map (15 * 528 + 512 + ·))
    (v.dests (w.toNat / 2 ^ 9 % 16) (w.toNat / 2 ^ 16 % 8)).find? (fun y => y.1 == w.toNat % 2 ^ 9) = some (0, 15 * 528 + 511, some 511) ∧
      131072 * 15 + 256 * 511 < (world .as id).footOn 0 ∧
      (worldIn .as id fun s => { s with launches := [{ job with record := record 1 1 29 1 }] }).footOn 0 ≤ 131072 * 15 + 256 * 511 := by decide +kernel

theorem witness_reliabilitySteps :
    let s : State := { State.reset with
      pf := [(0x21018, 4), (0x24200, 1), (0x24208, 1)], cycle := 3300000000, scan := [⟨5, 3300000000 - 660000⟩, ⟨6, 3300000000 - 659999⟩]
      retiring := vset State.reset.retiring 0 (some 3), launches := [{ job with fn := 7 }] }
    (s.pfReg 0x24200).toNat ≠ 0 ∧ (s.core 0).launch = none ∧ s.beingSaved 0 = false ∧ 0 ∉ s.failed ∧ ¬(∃ x ∈ s.scan, x.core = 0) ∧
      ¬s.cycle < SMap.get 0 s.idleSince 0 + (s.pfReg 0x24200).toNat * 3300000000 ∧
      s.scan.find? (fun x => x.core == 5) = some ⟨5, 3300000000 - 660000⟩ ∧ 3300000000 - 660000 + 660000 ≤ s.cycle ∧
      s.scan.find? (fun x => x.core == 6) = some ⟨6, 3300000000 - 659999⟩ ∧ s.cycle < 3300000000 - 659999 + 660000 ∧
      vget none s.retiring 0 = some 3 ∧ vget none s.retiring 1 = none ∧ s.class0Needs 5 = false ∧ (s.pfReg 0x24208).getLsbD 0 = true ∧
      s.launches.find? (fun x => x.fn == 7 && x.cptr == 0 && x.flagS) = some { job with fn := 7 } := by decide

theorem witness_reliabilitySteps_row :
    ∀ d < 384, coreX d / 16 = 0 ∧ 3 ≤ coreY d → (State.reset.core d).launch = none ∧ State.reset.beingSaved d = false := by decide

theorem witness_reliabilitySteps_limits :
    let s := world .as fun k => { k with replays := 51563 }
    51562 < (s.core 0).replays ∧ (s.core 1).replays ≤ 51562 ∧ (104 : Word).toNat < 105 ∧ 105 ≤ (105 : Word).toNat ∧ s.tempWarned = false ∧
      (∃ d < 384, coreX d / 16 = 0 ∧ 0 ≤ coreY d ∧ (s.core d).launch ≠ none) := by
  refine ⟨by decide, by decide, by decide, by decide, by decide, 0, by decide, by decide, by decide, by decide⟩

/-- A schedule entry that moves 64 bytes from offset 0x100 over link 0 to rank 1 at offset 0x200 in slot 0. -/
def entryBytes : List Byte := leBytes 16 (0x100 * 2 ^ 32 + 1 * 2 ^ 20 + 1 * 2 ^ 64 + 0x200 * 2 ^ 96)

theorem witness_collectiveArrives :
    let wide (f : Core → Core) : State := worldIn .xs f fun s => { s with launches := [{ job with record := record 2 1 29 2048 }] }
    let s := wide (withS [(4, 1000), (5, 128)] ∘ (fun k => { k with xbase := ownV + 0x40, xctl := 0x4000001 }) ∘ withBytes 0x40 entryBytes)
    let u := s.startIssue cu
    AllIssue [.bar cu 1 0, .bar cu 0 0, .barAll cu, .phase cu 1 2, .mshapeGrp cu .bf16 false 6 (.reg 5), .waiti cu true (.reg 4), .waiti cu false (.imm 7)] s ∧
      u.sq.travels = false ∧
      s.lc.wid = 2 ∧ s.lc.hgt = 1 ∧ Nat.log2 s.lc.wid = 1 ∧ s.lc.flagH = true ∧ s.lc.flagX = true ∧
      (s.cc.seq (SeqId.other s.curSeq)).wait = none ∧ (grpShape (s.rs 5)).1 = 2 ∧ (grpShape (s.rs 5)).2 = 1 ∧ s.cc.matQ = [] ∧
      s.lc.copyCores s.cc.copy1 = [0, 1] ∧ u.groupCores 0 (grpShape (s.rs 5)) = [0, 1] ∧ (s.core 0).grpAt = none ∧ (s.core 1).grpAt = none ∧
      s.cc.xbase.toNat % 16 = 0 ∧ u.ownVault s.cur.val s.cc.xbase (16 * s.cc.nent) false = .inr 0x40 ∧ s.cc.stepLen = 1024 ∧ s.cc.nent = 1 ∧
      s.cc.vault.bad 0x40 (16 * s.cc.nent) = false ∧ u.badEntry s.cur.val (u.schedule s.cur.val) = none :=
  ⟨all_issue (by decide), by decide⟩

theorem witness_collectiveArrives_as :
    let s := worldIn .as id fun s => { s with launches := [{ job with record := record 2 1 29 2048 }] }
    AllIssue [.xch cu, .bar cu 1 0] s ∧ (s.startIssue cu).sq.travels = false ∧ s.lc.flagX = true ∧ s.cc.nent = 0 := ⟨all_issue (by decide), by decide⟩

theorem witness_collectiveArrives_csbal :
    let s := world .xs (withBytes 0x4000 (leBytes 4 1024) ∘ withTile 1 ⟨.ready, 4160, 0x4000⟩)
    let u := s.startIssue cu
    let x := u.stream s.cur.val 1
    AllIssue [.csbal cu 6 1 1] s ∧ StreamReady u 1 ∧ u.streamBad s.cur.val x x.rd x.fill = none ∧ u.sq.travels = false :=
  ⟨all_issue (by decide), ⟨by decide, by decide, ⟨1024, by decide, by decide⟩, by decide⟩, by decide, by decide⟩

/-- Requests of 128 x 128 x 64 and of more than 27 bits, and one of `MSHAPE.grp` for one core. -/
theorem witness_shapeGranted :
    let s := world .xs (withS [(4, 0x3F7F7F), (5, 0x8000000), (6, 0x07E3F87F)])
    AllIssue [.mshape cu .bf16 false 7 (.reg 4), .mshape cu .e2m1 true 0 (.reg 5), .mshapeGrp cu .bf16 false 7 (.reg 6)] s ∧
      (s.rs 4).toNat < 2 ^ 27 ∧ s.cc.matQ = [] ∧ 2 ^ 27 ≤ (s.rs 5).toNat ∧ s.curSeq = .xs ∧ (s.rs 6).toNat % 2 ^ 11 + 1 ≤ 128 ∧
      (s.rs 6).toNat / 2 ^ 11 % 2 ^ 10 + 1 ≤ 128 ∧ 1 ≤ s.lc.wid ∧ 1 ≤ s.lc.hgt ∧ s.lc.coreOf s.cc.copy1 s.cc.rank = s.cur.val ∧
      s.cc.rank < s.lc.wid * s.lc.hgt ∧ (s.startIssue cu).sq.travels = false ∧ (∀ k < 384, (s.core k).grpAt = none) := ⟨all_issue (by decide), by decide⟩

/-- Core 0 arrives with a request of 256 x 128 x 32, and core 1 waits with `r`. -/
def grouped (r : Word) : State :=
  let k : Core := { core0 with xs := { core0.xs with tvec := 0x1000 } }
  { State.reset with
    cores := vset (vset State.reset.cores 0 (withS [(6, 255 + 127 * 2 ^ 11 + 31 * 2 ^ 21)] k)) 1
      { k with rank := 1, xs := { k.xs with wait := some (.shapeGrp r .bf16 false 9 false) } }
    launches := [{ job with record := record 2 1 29 2048 }], curSeq := .xs }

theorem witness_shapeGranted_group :
    let q : Word := 255 + 127 * 2 ^ 11 + 31 * 2 ^ 21
    let s := grouped q
    let t := grouped (q + 2 ^ 21)
    let u := s.startIssue cu
    AllIssue [.mshapeGrp cu .bf16 false 7 (.reg 6)] s ∧ AllIssue [.mshapeGrp cu .bf16 false 7 (.reg 6)] t ∧ (u.sq.travels = false ∧
      (256 + 127) / 128 ≤ 2 ^ 1 ∧ 2 ^ (1 - 1) < (256 + 127) / 128 ∧ (128 + 127) / 128 ≤ 2 ^ 0 ∧ s.lc.wid = 2 ∧ s.lc.hgt = 1 ∧
      u.groupCores 0 (2 ^ 1, 2 ^ 0) = [0, 1] ∧ u.groupCores 1 (2 ^ 1, 2 ^ 0) = [0, 1] ∧ [0, 1].Nodup ∧ s.lc.copyCores s.cc.copy1 = [0, 1]) ∧
      s.launchOn 1 = s.lc ∧ s.cc.matQ = [] ∧ (s.core 1).matQ = [] ∧ ((s.core 1).grpAt = some (s.sop (.reg 6), .bf16, false, 9, false) ∧
      (t.core 1).grpAt = some (q + 2 ^ 21, .bf16, false, 9, false) ∧ grpShape (q + 2 ^ 21) = (2 ^ 1, 2 ^ 0) ∧ q + 2 ^ 21 ≠ t.sop (.reg 6) ∧
      grpShape q = (2 ^ 1, 2 ^ 0) ∧ (t.core 1).xs.inh = false ∧ (t.core 1).xs.tvec ≠ 0) :=
  ⟨all_issue (by decide), all_issue (by decide), by decide, rfl, rfl, rfl, by decide⟩

/-- A grant of 8 x 16 x 16 in bf16, bf16 tiles of one weight plane and of one pass in bank 0, and a region of that shape. -/
def withGrant (k : Core) : Core :=
  { k with
    grant := some ⟨8, 16, 16, 1, .bf16, false⟩
    bfmt := vset k.bfmt 0 0x11
    m := vset k.m 3 (8 * 2 ^ 16 + 16 * 2 ^ 24)
    tiles := vset (vset k.tiles 1 ⟨.ready, 512, 0⟩) 2 ⟨.ready, 256, 512⟩ }

theorem witness_matrixQueued :
    let s := world .xs withGrant
    let t := world .xs (withGrant ∘ fun k => { k with active := some ⟨true, 0x11, [], [], false⟩ })
    let g : Grant := ⟨8, 16, 16, 1, .bf16, false⟩
    let z := g.region (vget 0 s.cc.m 3)
    AllIssue [.mload cu false 1, .mswap cu, .mmul cu 0 true 3 2, .mzero cu 3 0, .mdrain cu 0 .bf16 .dyn true 2 3] s ∧ AllIssue [.mmuls cu 3 false 3 2] t ∧
      s.cc.matFull = false ∧ t.cc.matFull = false ∧ s.cc.grant = some g ∧ t.cc.grant = some g ∧ (s.cc.tile 1).state = .ready ∧ (s.cc.tile 2).state = .ready ∧
      g.ty.weightFmt (fmtTy (s.cc.tileFmt 1)) = true ∧ blkOk (s.cc.tileFmt 1) 0 g.k = true ∧ g.k ≤ g.ty.maxK ∧
      planeBytes (fmtTy (s.cc.tileFmt 1)) g.n g.k false ≤ 512 ∧ s.cc.mulTrap false (vget 0 s.cc.m 3) 2 = none ∧
      t.cc.mulTrap true (vget 0 t.cc.m 3) 2 = none ∧ z.inside = true ∧ (g.region (vget 0 s.cc.m 0)).inside = true ∧
      Ty.ofCode ((s.cc.tileFmt 2).toNat % 256) = some .bf16 ∧ blkSize (s.cc.tileFmt 2) = 0 ∧ z.r * z.c * Ty.bf16.width ≤ 8 * (s.cc.tile 2).size :=
  ⟨all_issue (by decide), all_issue (by decide), by decide⟩

theorem witness_queueAndShapeTraps_queues :
    let e : QEnt := ⟨1, false, none⟩
    let s := world .as fun k => { k with q := vset (vset k.q 0 (List.replicate 32 e)) 5 [e], bqA := List.replicate 64 (true, false), bqX := List.replicate 64 (true, false) }
    let t := world .as id
    AllIssue [.qpush cu 6 1, .qpop cu 1 5, .qpush cu 0 1, .bqsend cu 3] s ∧ AllIssue [.qpop cu 1 6, .bqbr cu true 16] t ∧ s.curSeq = .as ∧
      32 ≤ (s.cc.queue 0).length ∧ t.cc.queue 6 = [] ∧ 64 ≤ (s.cc.bqIn (SeqId.other s.curSeq)).length ∧ t.cc.bqIn t.curSeq = [] :=
  ⟨all_issue (by decide), all_issue (by decide), by decide⟩

theorem witness_queueAndShapeTraps_shapes :
    let s := worldIn .as (fun k => { k with xs := { k.xs with wait := some (.bar 1 0 5) } }) fun s => { s with launches := [{ job with record := record 2 1 29 2048 }] }
    AllIssue [.bar cu 2 0, .bar cu 0 1, .bar cu 0 0] s ∧ s.lc.wid < 2 ^ (2 : BitVec 3).toNat ∧ s.lc.hgt < 2 ^ (1 : BitVec 3).toNat ∧
      (s.cc.seq (SeqId.other s.curSeq)).wait = some (.bar 1 0 5) := ⟨all_issue (by decide), by decide⟩

theorem witness_queueAndShapeTraps_matrix :
    let s := world .xs id
    let q := world .xs (withGrant ∘ fun k => { k with matQ := List.replicate 32 (matCmd .swap 0 0 0 ⟨.empty, 0, 0⟩ 0 [] 0) })
    let e := world .xs (withGrant ∘ fun k => { k with tiles := vset k.tiles 2 ⟨.filling, 256, 512⟩ })
    let f (k : Core) : Core := withTile 2 ⟨.filling, 256, 512⟩ (withGrant k)
    AllIssue [.mload cu false 1, .mswap cu, .mmul cu 0 true 3 2, .mmuls cu 0 true 3 2, .mzero cu 0 3, .mdrain cu 0 .bf16 .rne true 2 3,
        .madpt cu (some 1) 4, .madpt cu none 4] s ∧ s.cc.grant = none ∧
      AllIssue [.mmul cu 0 true 3 2] q ∧ q.cc.matFull = true ∧ q.cc.mulTrap false (vget 0 q.cc.m 3) 2 = none ∧
      AllIssue [.mmul cu 0 true 3 2] (world .xs f) ∧ ((world .xs f).cc.tile 2).state ≠ .ready ∧
      (world .xs f).cc.mulTrap false (vget 0 (world .xs f).cc.m 3) 2 = none ∧
      e.cc.grant = some ⟨8, 16, 16, 1, .bf16, false⟩ :=
  ⟨all_issue (by decide), by decide, all_issue (by decide), by decide, by decide, all_issue (by decide), by decide, by decide, by decide⟩

/-- A full queue, and tiles that are not READY, for commands that pass their checks. -/
theorem witness_queueAndShapeTraps_waits :
    let g : Grant := ⟨8, 16, 16, 1, .bf16, false⟩
    let is : List Instr := [.mload cu false 1, .mswap cu, .mzero cu 0 3, .mdrain cu 0 .bf16 .rne true 2 3, .madpt cu none 4, .madpt cu (some 2) 4]
    let q := world .xs (withGrant ∘ fun k => { k with matQ := List.replicate 32 (matCmd .swap 0 0 0 ⟨.empty, 0, 0⟩ 0 [] 0) })
    let e := world .xs (withTile 1 ⟨.filling, 512, 0⟩ ∘ withTile 2 ⟨.draining, 256, 512⟩ ∘ withGrant)
    AllIssue is q ∧ AllIssue is e ∧ q.cc.matFull = true ∧ q.cc.grant = some g ∧ e.cc.grant = some g ∧ (e.cc.tile 1).state ≠ .ready ∧
      (e.cc.tile 2).state ≠ .ready ∧ g.ty.weightFmt (fmtTy (e.cc.tileFmt 1)) = true ∧ blkOk (e.cc.tileFmt 1) 0 g.k = true ∧ g.k ≤ g.ty.maxK ∧
      planeBytes (fmtTy (e.cc.tileFmt 1)) g.n g.k false ≤ (e.cc.tile 1).size ∧ (g.region (vget 0 e.cc.m 3)).inside = true ∧
      Ty.ofCode ((e.cc.tileFmt 2).toNat % 256) = some .bf16 ∧ blkSize (e.cc.tileFmt 2) = 0 ∧
      (g.region (vget 0 e.cc.m 3)).r * (g.region (vget 0 e.cc.m 3)).c * Ty.bf16.width ≤ 8 * (e.cc.tile 2).size ∧ (e.rs 4).toNat = 0 ∧
      4 * ((g.m + g.g - 1) / g.g) ≤ (e.cc.tile 2).size := ⟨all_issue (by decide), all_issue (by decide), by decide⟩

/-- An entry with V set, of version 1, and a binding word that names its pin 0 with handle 1. -/
theorem witness_bindingResult_binds :
    let s := world .xs ((fun k => { k with pins := vset k.pins 0 (some ⟨1, 1, 1⟩), grant := some ⟨8, 16, 16, 8, .bf16, false⟩ }) ∘
      withBytes 0x800 (leBytes 4 0x80000001) ∘ withTile 3 ⟨.ready, 64, 0x800⟩ ∘ withS [(4, 32)])
    let u := s.startIssue cu
    let g : Grant := ⟨8, 16, 16, 8, .bf16, false⟩
    AllIssue [.madpt cu (some 3) 4, .madpt cu none 4] s ∧ s.cc.matFull = false ∧ s.cc.grant = some g ∧ (s.rs 4).toNat < 2 ^ 16 ∧ (s.rs 4).toNat % 16 = 0 ∧
      (g.m + g.g - 1) / g.g = 1 ∧ 4 ≤ (s.cc.tile 3).size ∧ (s.cc.tile 3).state = .ready ∧ u.classHeld 0 hereTarget = false ∧
      s.cc.vault.bad 0x800 4 = false ∧ leNat (u.readVault s.cur.val 0x800 4) = 0x80000001 ∧ s.cc.badBinding g 0x80000001 = false :=
  ⟨all_issue (by decide), by decide⟩

theorem witness_bindingResult_unpins :
    let s := world .as (withS [(4, 0x80000001), (5, 0x7FFFFFFF), (6, 0x80100001)] ∘ fun k => { k with pins := vset (vset k.pins 0 (some ⟨1, 1, 1⟩)) 1 (some ⟨1, 1, 2⟩) })
    AllIssue [.aunpin cu 4, .aunpin cu 5, .aunpin cu 6] s ∧ 2 ^ 31 ≤ (s.rs 4).toNat ∧ (s.rs 4).toNat < 2 ^ 32 ∧ (s.rs 5).toNat < 2 ^ 31 ∧
      vget none s.cc.pins ((s.rs 4).toNat / 2 ^ 20 % 32) = some ⟨1, 1, 1⟩ ∧ s.cc.pinInUse 0 = false ∧
      vget none s.cc.pins ((s.rs 6).toNat / 2 ^ 20 % 32) = some ⟨1, 1, 2⟩ := ⟨all_issue (by decide), by decide⟩

theorem witness_adapterTableResult_takes :
    let s := worldIn .as (withS [(4, ownV + 0x40), (5, 1)]) withTable
    let u := s.startIssue cu
    AllIssue [.axlt cu 4 0 5, .axlt cu 4 4 0] s ∧ (s.rs 4 + (4 : Word32).signExtend 64).toNat % 4 = 0 ∧
      u.ownVault s.cur.val (s.rs 4 + (0 : Word32).signExtend 64) 4 true = .inr 0x40 ∧ u.classHeld 0 hereTarget = false ∧ (s.rs 5).toNat = 1 ∧
      ∃ e, u.attEntry s.lc.cfg 1 = some e ∧ u.poisonAt (s.lc.cfg.attAddr 1) 64 = none ∧ entOk e = true ∧ entOwner e = s.lc.owner.toNat ∧ entQuota e ≠ 0 ∧
        (s.cc.takePin 1 e).map Prod.fst = some 0 :=
  ⟨all_issue (by decide), by decide, by decide, by decide, by decide, ⟨_, rfl, by decide⟩⟩

/-- The staged entry at 0x100 has the next version; core 0 is a background core (R196). -/
theorem witness_adapterTableResult_publishes :
    let s := worldIn .as (withPage ∘ withS [(4, 0x100), (5, 1)]) fun s => let t := withTable s; { t with mem := t.mem.write 0x100 (wordBytes 0x0002000000000001), launches := t.launches.map fun l => { l with cfg := { l.cfg with bg := [2 ^ 63] } } }
    let u := s.startIssue cu
    AllIssue [.apub cu 4 0 5] s ∧ (s.rs 4 + (0 : Word32).signExtend 64).toNat % 64 = 0 ∧ u.allPerformed = true ∧ s.lc.flagD = false ∧
      (s.rs 5).toNat = 1 ∧ (∃ v got, u.readGlobal (u.mcur cu) (s.rs 4 + (0 : Word32).signExtend 64) 64 = .ok v got ∧
        (match u.attEntry s.lc.cfg 1 with
          | some cur => got.bad == none && publishOk cur (lineOf got.bytes)
          | none => false) = true) :=
  ⟨all_issue (by decide), by decide, by decide, by decide, by decide, acc_ok _ (by decide)⟩

/-- A copy of 64 bytes within the own vault that has not started. -/
def copy0 : CopyCmd :=
  ⟨1, ownV + 0x1000, ownV + 0x2000, some 2, some 1, 64, Vector.replicate 6 ⟨1, 0, 0⟩, none, none, Vector.replicate 16 0x80000, none, false, 0, none,
    none, false, false, 0⟩

/-- A shape record of one level of size 1 with the origin at 2: its block lies outside; `dst` says that it is dropped. -/
def outer (dst : Bool) : Line := BitVec.ofNat 512 (1 + (if dst then 2 ^ 9 else 0) + 2 ^ 64 * (2 + 2 ^ 32))

def copying (x : CopyCmd) (f : Core → Core) : State := world .xs fun k => f { k with copyQ := [x] }

theorem witness_engineSteps_copy :
    let s := copying copy0 id
    let go : CopyCmd := { copy0 with started := true }
    let e := s.eng 0
    let held := copying copy0 fun k => { k with gathQ := [⟨0, false, ownV, 3, 0x2000, 64, 4, 0x3000, 1, 64, 64, Vector.replicate 6 ⟨1, 0, 0⟩, none, Vector.replicate 16 0x80000, 0, none, none, false, 0⟩] }
    s.copyHead 0 = some (e, copy0) ∧ e.tracked = false ∧ copy0.started = false ∧ s.cc.rangeHeld 1 copy0.ranges = false ∧ held.copyHead 0 = some (e, copy0) ∧
      held.cc.rangeHeld 1 copy0.ranges = true ∧ (world .xs id).copyHead 0 = none ∧
      (copying go id).copyHead 0 = some (e, go) ∧ go.landed = false ∧ s.stillMissed go.missed = false ∧ go.total = 1 ∧ go.follow = none ∧
      e.place (go.dstAt 0) (go.bd 0) true = .inr (some 0x2000) ∧ go.reads 0 = true ∧ converts go.fmts (go.srcAt 0) (go.dstAt 0) = false ∧ go.bd 0 = go.b ∧
      e.place (go.srcAt 0) go.b false = .inr (some 0x1000) ∧ s.cc.vault.bad 0x1000 64 = false ∧ s.cc.vault.secure 0x1000 64 = false ∧ go.part = none ∧ go.bar = none ∧
      0x1000 % 256 + go.b ≤ 256 ∧ 0x2000 % 256 + go.b ≤ 256 := by decide

/-- A block that crosses a bank row at its source, and one whose 64 bytes are still to be written across one. -/
theorem witness_engineSteps_pieces :
    let a : CopyCmd := { copy0 with started := true, src := ownV + 0x10E0 }
    let p : Part := ⟨ownV + 0x1000, ownV + 0x20E0, List.replicate 64 7, false, some (List.replicate 64 7), 0⟩
    let x : CopyCmd := { copy0 with started := true, dst := ownV + 0x20E0, part := some p }
    let e := (copying a id).eng 0
    (copying a id).copyHead 0 = some (e, a) ∧ a.reads 0 = true ∧ e.place (a.srcAt 0) a.b false = .inr (some 0x10E0) ∧ 256 < 0x10E0 % 256 + a.b ∧
      (copying a id).cc.vault.bad 0x10E0 (256 - 0x10E0 % 256) = false ∧ (copying x id).copyHead 0 = some (e, x) ∧ x.dropped 0 = false ∧
      e.place p.dst 64 true = .inr (some 0x20E0) ∧ p.sec = false ∧ 0 + min (64 - 0) (256 - (0x20E0 + 0) % 256) < 64 := by decide

theorem witness_engineSteps_filler :
    let k := (copying copy0 id).cc
    (∀ z ∈ k.copyQ, z.dstTile = some 1 → z.ticket = 1) ∧ (∀ z ∈ k.gathQ, z.tile = 1 → z.scatter = true ∨ z.ticket = 1) ∧
      copy0.dstTile = some 1 ∧ copy0.srcTile ≠ some 1 := by decide

theorem witness_engineSteps_shapes :
    let x (d : Bool) : CopyCmd := { copy0 with started := true, shape := some (outer d) }
    let y : CopyCmd := { x false with nest := vset copy0.nest 0 ⟨2, 0, 0⟩ }
    (x false).reads 0 = false ∧ (x false).dropped 0 = false ∧ (x true).reads 0 = false ∧ (x true).dropped 0 = true ∧ y.reads 0 = false ∧
      y.next + 1 < y.total ∧ (x false).total ≤ (x false).next + 1 := by decide

/-- A `CPYM` whose bytes have landed, and its multiply. -/
theorem witness_engineSteps_follow :
    let f : Follow := ⟨8 * 2 ^ 16 + 16 * 2 ^ 24, 0, true⟩
    let x : CopyCmd := { copy0 with srcTile := none, dstTile := some 2, started := true, landed := true, follow := some f }
    let s := copying x withGrant
    s.copyHead 0 = some (s.eng 0, x) ∧ (s.eng 0).tracked = false ∧ x.follow = some f ∧ s.cc.matFull = false ∧ x.bar = none ∧ x.dstTile = some 2 ∧
      s.cc.mulTrap false f.m 2 = none := by decide

theorem witness_engineSteps_gather :
    let x (rows : Nat) : GathCmd := ⟨1, false, ownV, 3, 0x2000, 256, 4, 0x3000, rows, 64, 64, Vector.replicate 6 ⟨1, 0, 0⟩, none, Vector.replicate 16 0x80000, 0, none, none, false, 0⟩
    let s (rows : Nat) : State := world .xs fun k => { k with gathQ := [x rows] }
    (s 2).gathHead 0 = some ((s 2).eng 0, x 2) ∧ ((s 2).eng 0).tracked = false ∧ (s 2).stillMissed none = false ∧
      (s 2).cc.rangeHeld 1 (x 2).ranges = false ∧ (x 2).row + 1 < (x 2).rows ∧ (s 0).gathHead 0 = some ((s 0).eng 0, x 0) ∧ (x 0).rows ≤ (x 0).row ∧
      (world .xs id).gathHead 0 = none ∧ (∃ v a, (s 2).gathDo ((s 2).eng 0) (x 2) = .ok v a ∧ (a == none) = true) ∧
      ∃ v a, (s 2).gathDo ((s 2).eng 0) { x 2 with off := 0x20E0 } = .ok v a ∧ (a != none) = true :=
  ⟨by decide, by decide, by decide, by decide, by decide, by decide, by decide, by decide, acc_ok (fun _ a => a == none) (by decide),
    acc_ok (fun _ a => a != none) (by decide)⟩

theorem witness_engineSteps_marker :
    let m : Marker := ⟨5, 0x1F, 0x1F, 7⟩
    let s := world .xs fun k => { k with k := vset k.k 1 (some m) }
    let t := copying copy0 fun k => { k with k := vset k.k 1 (some m) }
    vget none s.cc.k 1 = some m ∧ vget none s.cc.k 0 = none ∧ m.left.getLsbD 0 = true ∧ s.cc.ahead 0 m.ticket = false ∧ t.cc.ahead 0 m.ticket = true ∧
      vget none t.cc.k 1 = some m := by decide

/-- A matrix command with ticket 3 on a grant of 8 x 16 x 16, in a package of one million slots. -/
def matDo (x : MatCmd) (f : Core → Core) : State := { (world .xs fun k => f { withGrant k with matQ := [{ x with ticket := 3 }] }) with cycle := 1000000 }

def mul0 : MatCmd := { matCmd (.mul false false) 0 (8 * 2 ^ 16 + 16 * 2 ^ 24) 2 ⟨.ready, 256, 512⟩ 0x11 (elemTouch 0x11 512 128) 0 with started := true }

theorem witness_matrixSteps_start :
    let x := { mul0 with started := false, ticket := 3 }
    let a := { matCmd (.adpt 1) 0 0 0 ⟨.empty, 0, 0⟩ 0 [] 0 with ticket := 3 }
    (matDo x id).cc.matCmd? 3 = some x ∧ (matDo x id).cc.matReady x = true ∧ x.isAdpt = false ∧ (matDo a id).cc.matCmd? 3 = some a ∧
      (matDo a id).cc.matReady a = true ∧ a.isAdpt = true ∧ (matDo mul0 id).cc.matReady { mul0 with ticket := 3 } = false ∧ (matDo x id).cc.matCmd? 4 = none := by decide

theorem witness_matrixSteps_pass :
    let g : Grant := ⟨8, 16, 16, 1, .bf16, false⟩
    let x := { mul0 with ticket := 3 }
    let s := matDo mul0 id
    let z := g.region x.region
    s.cc.matCmd? 3 = some x ∧ s.cc.grant = some g ∧ x.isMul = true ∧ x.started = true ∧ z.r = 8 ∧ 8 * x.pass < z.r ∧
      x.since + 8 + 8 * (x.pass + 1) * ((z.c + 63) / 64) ≤ s.cycle ∧ (∀ r ∈ elemReads x.fmt x.off (8 * x.pass * g.k) (8 * g.k), s.cc.vault.bad r.1 r.2 = false) ∧ s.cc.bindOf x = none ∧
      s.cc.boundGroups x = [] := by decide

theorem witness_matrixSteps_finish :
    let g : Grant := ⟨8, 16, 16, 1, .bf16, false⟩
    let x (op : MatOp) : MatCmd := { mul0 with op := op }
    let y (op : MatOp) : MatCmd := { x op with ticket := 3 }
    let s (op : MatOp) : State := matDo (x op) id
    (s .swap).cc.matCmd? 3 = some (y .swap) ∧ (s .swap).cc.grant = some g ∧ (y .swap).since + (y .swap).time g ≤ (s .swap).cycle ∧
      (y .zero).since + (y .zero).time g ≤ (s .zero).cycle ∧ (s .zero).cc.matCmd? 3 = some (y .zero) ∧
      (s (.load false)).cc.matCmd? 3 = some (y (.load false)) ∧ (y (.load false)).since + (y (.load false)).time g ≤ 1000000 ∧
      (∀ r ∈ planeReads 0x11 512 g false, (s (.load false)).cc.vault.bad r.1 r.2 = false) ∧
      (s (.drain .bf16 .rne true)).cc.matCmd? 3 = some (y (.drain .bf16 .rne true)) ∧ (y (.drain .bf16 .rne true)).time g ≤ 1000000 ∧
      (s .swap).cc.accSec = 0 ∧ (y (.drain .bf16 .rne true)).out = none ∧ pieceOf (ownPtr 512) 0 256 = 256 ∧ pieceOf (ownPtr 0x2E0) 0 256 < 256 := by decide

/-- A multiply with one bound row group: handle 1, version 1, waiting in held group 0 since slot 0. -/
def sided (last : Bool) (page : Bool) : State :=
  let e : Line := BitVec.ofNat 512 (1 + 2 ^ 48)
  let w : HeldGroup := ⟨0, 1, 1, false, 0, page⟩
  let b : BindSet := ⟨2, 0, [0x80000001], [e], [], [], 0⟩
  matDo { mul0 with op := .mul false last, bind := 2, pass := 0, held := [w] } fun k => { k with binds := [b] }

theorem witness_matrixSteps_side :
    let s := sided false false
    let x : MatCmd := { mul0 with ticket := 3, bind := 2, held := [⟨0, 1, 1, false, 0, false⟩] }
    let b : BindSet := ⟨2, 0, [0x80000001], [BitVec.ofNat 512 (1 + 2 ^ 48)], [], [], 0⟩
    let big : State := worldIn .xs (fun k => { withGrant k with grant := some ⟨16, 16, 16, 16, .bf16, false⟩, binds := [b], matQ := [{ x with region := 16 * 2 ^ 16 + 16 * 2 ^ 24, pass := 1 }] }) id
    s.cc.matCmd? 3 = some x ∧ s.cc.boundGroups x = [0] ∧ s.cc.bindOf x = some b ∧ x.groupDone 0 = false ∧ s.cc.sideTurn x 0 = true ∧ 0 ∉ x.sideDone ∧
      s.pageHere (s.launchOn 0) x 0 1 1 false = false ∧ (sided false true).pageHere ((sided false true).launchOn 0) { x with held := [⟨0, 1, 1, false, 0, true⟩] } 0 1 1 false = true ∧ x.isLast = false ∧
      (∃ y, big.cc.matCmd? 3 = some y ∧ big.cc.boundGroups y = [0] ∧ 0 * 16 < 8 * y.pass ∧ 8 * y.pass < 16) ∧
      x.held = [⟨0, 1, 1, false, 0, false⟩] ∧ 0 + 165000 ≤ s.cycle ∧ s.cc.xs.pend = none := by
  refine ⟨by decide, by decide, by decide, by decide, by decide, by decide, by decide, by decide, by decide, ⟨_, rfl, by decide, by decide, by decide⟩,
    by decide, by decide, by decide⟩

theorem witness_matrixSteps_pages :
    let f : AFetch := ⟨1, 1, true, 0x5000, 64, none, 0, none, false⟩
    let s : State := { State.reset with afetch := [f], pf := [(0x21010, 4)] }
    s.afetch.find? (fun y => y.handle == 1 && y.ver == 1 && y.pageB == true) = some f ∧ s.poisonAt f.pa f.len = none ∧ s.acWays ≠ 0 ∧
      blocksOf f.pa f.len = [0x50] ∧ s.adapterWays (homeLeaf (256 * 0x50)) (mscSetOf (256 * 0x50)) ≠ 0 ∧ f.lost = false ∧
      (∀ d < 384, (s.core d).waitingFor 1 1 true = []) ∧ (s.afetch.find? fun y => y.handle == 2) = none ∧
      blocksOf f.pa f.len ≠ [] ∧ f.hint = none := by decide

theorem witness_matrixSteps_pins :
    let p : Pin := ⟨1, 1, 0⟩
    let s := world .xs fun k => { k with pins := vset k.pins 4 (some p) }
    vget none s.cc.pins 4 = some p ∧ p.count = 0 ∧ s.cc.pinInUse 4 = false ∧ vget none s.cc.pins 5 = none := by decide

/-- An operation of this node on its own memory through the identity page of the PF. -/
def op0 (kind : RemKind) : RemoteOp :=
  ⟨kind, 0, 0, 64, 5, 0x100, .i64, 0, .none, false, 77, 0, 0, 0, ⟨0, 0, .as, 0⟩, false, true, false, 0, [], []⟩

/-- A package at node 0 of a torus of 4 x 4 x 4 with operations and messages at its router, and an identity
translation of the first 4 KiB of the PF in the leaf. -/
def router (net : List RemoteOp) (ms : List Message) : State :=
  { State.reset with
    net := net, netMsgs := ms, pf := [(0x21020, 0x333000), (0x22000, 0x8040)], cycle := 4000000
    tlb2 := vset State.reset.tlb2 0 [⟨64, 0, 12, 0x1F, 0x3000, 4⟩] }

theorem witness_fabricSteps_arrive :
    let s := router [op0 .rst] []
    let m : Message := ⟨2, 0, 0, 5, 64, 9, [1, 2], false⟩
    let far : RemoteOp := { op0 .rst with dst := 0x001 }
    (op0 .rst).dst = s.nodeId ∧ s.opBehind (op0 .rst) = false ∧ s.freshSeq 0 5 = true ∧ (s.markSeq 0 5).freshSeq 0 5 = false ∧
      (s.markSeq 0 5).opBehind (op0 .rst) = false ∧ (router [{ op0 .rst with seq := 4 }, op0 .rst] []).opBehind (op0 .rst) = true ∧
      far.dst ≠ s.nodeId ∧ (router [far] []).net.contains far = true ∧ (router [far] []).opBehind far = false ∧
      (router [far] []).route far.src far.dst none = some 0 ∧ (router [far] []).leftBy far.src far.dst far.seq = none ∧
      (router [far] []).mayLeave far.src far.dst far.seq 0 = true ∧ m.dst = s.nodeId ∧
      (op0 .rst).more = [] ∧ (s.mscOf 0 = [] ∧ s.mscOf 1 = []) ∧
      ({ router [far] [] with links := Vector.replicate 6 ⟨6, true, false, 0, 0⟩ } : State).route far.src far.dst none = none := by decide

theorem witness_fabricSteps_serve :
    (∃ v ps, (router [] []).translate ((router [] []).remCtx (op0 .rld)).x false false 0x100 8 = .ok v ps ∧
      (ps.all (fun e => e.page.ca != 3 && (v.poisonAt e.pa e.len).isNone) && (v.mscOf 0).isEmpty && (v.mscOf 1).isEmpty) = true) ∧
    (∃ v ps, (router [] []).checkStore ((router [] []).remCtx (op0 .rst)) 0x100 8 false = .ok v ps ∧
      (ps.all (fun e => e.page.ca != 3 && (v.poisonAt e.pa e.len).isNone) && (v.mscOf 0).isEmpty && (v.mscOf 1).isEmpty) = true) :=
  ⟨acc_ok _ (by decide), acc_ok _ (by decide)⟩

theorem witness_fabricSteps_served :
    (match (router [op0 .rst] []).serve (op0 .rst) with
      | .done .. => true
      | _ => false) = true ∧
    (match (router [op0 .rst] []).serve { op0 .rst with addr := 0x1000000 } with
      | .done .. => false
      | _ => true) = true := by decide

/-- An `RLD` (kind 0), an `RST` (kind 1) and an `MSOP` (kind 3) of node 1 in flight. -/
def flight (kind : Nat) : Inflight :=
  ⟨1, 5, kind, 0, .as, 0, 0, 0, 0, some 7, none, none, 2, 0x100, 3, 0x400, .i64, none, 0, false, 0, none, none, none, 0, false⟩

theorem witness_fabricSteps_acks :
    let k : RemoteAck := ⟨0, 1, 5, true, 0, false, false, false, 77, false⟩
    let s (n : Nat) : State := worldIn .as (fun c => { c with as := { c.as with wait := some (.remote 1 5) } }) fun s =>
      { s with inflight := [flight n], cycle := 400000, acks := [k] }
    let done (b : Line) : Inflight := { flight 3 with result := some b, sent := none }
    let r : State := worldIn .as id fun s => { s with inflight := [done 9] }
    k.src = (s 0).nodeId ∧ (∀ n ∈ [0, 1, 3], (s n).inflight.find? (fun e => e.node == k.target && e.seq == k.seq && e.result.isNone) = some (flight n)) ∧
      (s 0).holds (flight 0) = true ∧ (flight 0).awaited (((s 0).core 0).seq .as) = true ∧ (flight 1).bar = none ∧
      (State.reset).inflight = [] ∧ (1 : BitVec 12) ≠ (s 0).nodeId ∧
      (s 1).inflight[0]? = some (flight 1) ∧ (s 1).inflight[1]? = none ∧ (flight 1).sent = some 7 ∧ (flight 1).result = none ∧
      7 + (s 1).ackLimit 1 ≤ (s 1).cycle ∧ (s 1).holds (flight 1) = true ∧ 200000 < 7 + (s 1).ackLimit 1 ∧
      r.inflight[0]? = some (done 9) ∧ r.imageOf (r.opLaunch (done 9)) 0 = none ∧ (done 9).resSec = false ∧ (9 : Line).toNat / 2 ^ 504 = 0 ∧
      (r.vault 0).landing.length + ((r.vault 0).newRows (done 9).block 64).length ≤ 256 := by decide

/-- Two additions to one place that wait at the router. -/
theorem witness_fabricSteps_combine :
    let a : RemoteOp := { op0 .rst with add := true }
    let b : RemoteOp := { a with src := 2, seq := 8, agent := ⟨2, 1, .as, 4⟩ }
    let s := router [a, b] []
    let old : RemoteOp := { b with gen := 5 }
    s.net[min 0 1]? = some a ∧ s.net[max 0 1]? = some b ∧ combinable a b = true ∧ combinable a (op0 .rst) = false ∧ s.opBehind a = false ∧ s.opBehind b = false ∧
      genOk (s.fnRegs a.fn.val).fabricGen a.gen = true ∧ genOk (s.fnRegs a.fn.val).fabricGen b.gen = true ∧
      genOk (s.fnRegs a.fn.val).fabricGen old.gen = false ∧ combinable a old = true := by decide

theorem witness_fabricSteps_messages :
    let m : Message := ⟨2, 0, 0, 5, 64, 9, [1, 2], false⟩
    let body : Line := lineOf (leBytes 8 (0x1FFF000000000400) ++ leBytes 8 (64 * 2 ^ 32) ++ leBytes 48 0)
    let y : Posted := ⟨4, 0, 64, 0, 0, false, ownV + 0x1000, body⟩
    let s := router [] [m]
    let p : State := { s with posted := [y] }
    let l : Landing := ⟨0, 64, m, ownV + 0x1000, body, 2, none, false, true, false, 3⟩
    let k := world .as fun c => { c with lands := [l] }
    s.msgBehind m = false ∧ (router [] [{ m with seq := 8 }, m]).msgBehind m = true ∧ m.dst = s.nodeId ∧ s.freshSeq m.src m.seq = true ∧
      (s.markSeq m.src m.seq).freshSeq m.src m.seq = false ∧ (s.markSeq m.src m.seq).msgBehind m = false ∧ s.ctxBound m = true ∧ s.ctxBound { m with fn := 3 } = false ∧
      (s.fnRegs 64).retrStopped = false ∧ s.queueRoom m = true ∧ p.posted.find? (fun e => e.fn == m.fn.val && descMatches e.body m) = some y ∧
      s.posted.find? (fun e => e.fn == m.fn.val && descMatches e.body m) = none ∧
      s.queueRoom { m with bytes := List.replicate 2 0 } = true ∧ (k.core 0).lands = l :: [] ∧ k.stillMissed l.missed = false ∧ l.need ≤ l.done ∧
      l.bad = false ∧ (k.core 1).lands = [] ∧ s.afterTurned m = false ∧
      ({ s with turned := [⟨2, 0, 4, 3999999⟩] } : State).afterTurned m = true ∧ (k.landTicket 0 { l with missed := none }).1.statusHeld (k.recvLaunch l.launch l.fn) 0 l.desc = false := by decide

theorem witness_fabricSteps_status :
    let l : Landing := ⟨0, 64, ⟨2, 0, 0, 5, 64, 9, [1, 2], false⟩, ownV + 0x1000, 0, 2, none, false, true, false, 3⟩
    let k := world .as fun c => { c with lands := [l] }
    ∃ v a, (k.landTicket 0 { l with missed := none }).1.writeStatus (k.recvLaunch l.launch l.fn) 0 l.user
      ((k.landTicket 0 { l with missed := none }).2.write (k.recvLaunch l.launch l.fn) 0) l.desc (msgStatus l.msg) = .ok v a ∧ true = true := acc_ok (fun _ _ => true) (by decide)

/-- No room: 16,384 unexpected messages are queued. -/
theorem witness_fabricSteps_full : ∀ l : List Unexp, l.length = 16384 → ∀ m, ({ State.reset with unexpected := l } : State).queueRoom m = false := by
  intro l h m; simp [State.queueRoom, h]

theorem witness_fabricSteps_retry :
    let m : Message := ⟨0, 1, 0, 5, 64, 9, [1, 2], false⟩
    let x (at_ : Option Nat) : Inflight := { flight 4 with msg := some m, sent := none, retryAt := at_ }
    let s (at_ : Option Nat) : State := { router [] [] with inflight := [x at_] }
    (s (some 4000000)).inflight[0]? = some (x (some 4000000)) ∧ (x (some 4000000)).msg = some m ∧ (x (some 4000000)).sent = none ∧
      4000000 ≤ (s none).cycle ∧ (s none).cycle < 4000001 ∧ (x (some 4000001)).retryAt = some 4000001 ∧
      (x (some 4000001)).kind = 4 ∧ (x (some 4000001)).issued + 3300000 ≤ (s none).cycle ∧ (x (some 4000001)).bar = none ∧
      ¬((x none).kind = 4 ∧ (x none).retryAt ≠ none ∧ (x none).issued + 3300000 ≤ (s none).cycle) := by decide

theorem witness_fabricSteps_links :
    let s := router [] []
    s.linkOf 0 = ⟨24, false, false, 0, 0⟩ ∧ (0x123 : BitVec 12) ≠ s.nodeId ∧ (s.route 0 0x123 none).isSome = true ∧
      ({ s with links := Vector.replicate 6 ⟨6, true, false, 0, 0⟩ } : State).route 0 0x123 none = none := by decide

/-- `LI.h s10, #0x1FFF0000` placed for the next step. -/
theorem witness_stepRunsDecoded :
    let s := State.reset.withFetchWord 128 0x1FFF000000008000BDFFFFFFFFC2840F
    let es : List Entry := []
    let e : Entry := ⟨0, .issue 0 .as⟩
    let v : State := ({ s with agenda := es } : State).tick e.slots
    let a : State := { v with cur := 0, curSeq := .as }
    s.agenda = e :: es ∧ s.forced (s.cycle + e.slots) = none ∧ v.clash e.act (v.actOf e.act) = false ∧ v.canIssue 0 .as = true ∧
      (a.sq.icache.find? (fun x => x.fn == a.lc.fn && x.va == a.sq.pc.toNat / 64 * 64)).isSome = true ∧
      (match a.fetch with
        | .word _ w => w == 0x1FFF000000008000BDFFFFFFFFC2840F
        | .other _ => false) = true ∧
      State.reset.canIssue 0 .as = false ∧ a.sq.pend = none := by decide

/-- The sequencer has already acted in this slot. -/
theorem witness_stepRunsDecoded_next :
    let s := { State.reset.withFetchWord 128 0x1FFF000000008000BDFFFFFFFFC2840F with slotLog := [(.issue 0 .as, some (.nop cu))] }
    let v : State := ({ s with agenda := [] } : State).tick 0
    v.clash (.issue 0 .as) (v.actOf (.issue 0 .as)) = true ∧ (v.tick 1).canIssue 0 .as = true := by decide

theorem test_step_li : leads (step (State.reset.withFetchWord 128 0x1FFF000000008000BDFFFFFFFFC2840F)) (fun t => t.rs 10 == 0x1FFF000000000000 && t.sq.pc == 16) = true := by decide

theorem witness_stepRunsDecoded_reserved :
    let s := State.reset.withFetchWord 128 0
    let a : State := { s with cur := 0, curSeq := .as }
    (decode 0).isOk = false ∧ (match a.fetch with
      | .word u w => w == 0 && u.sq.urgent.isNone
      | .other _ => false) = true := by decide

theorem witness_stepRunsDecoded_event :
    let s : State := { State.reset with agenda := [⟨3, .event .mstatFinKill⟩] }
    s.agenda.map Entry.act = [.event .mstatFinKill] ∧ Instr.isWord .mstatFinKill = false ∧ s.frozen = false ∧ s.powered = true ∧
      s.forced (s.cycle + s.headSlots) = none ∧ (s.tick 3).clash (.event .mstatFinKill) ((s.tick 3).actOf (.event .mstatFinKill)) = false := by decide

theorem next_of {o : Host.Outcome State Fault Refusal} (h : leads o (fun _ => true) = true) : ∃ t, o = .next t := by
  cases o <;> simp [leads] at h ⊢

theorem witness_frozenStays :
    let s : State := { State.reset with frozen := true, agenda := [⟨5, .event .freeze⟩] }
    s.frozen = true ∧ (∀ e ∈ s.agenda, e.act ≠ .event .packageReset ∧ e.act ≠ .event .railsFall) ∧ ∃ t, step s = .next t := ⟨rfl, by simp, next_of (by decide)⟩

theorem witness_memoryStaysCanonical : State.reset.mem.wf = true ∧ ∃ t, step { State.reset with agenda := [⟨5, .event .freeze⟩] } = .next t :=
  ⟨by decide, next_of (by decide)⟩

theorem witness_decodeEncode : (Instr.tbwait cu true 31 (.imm 0xFFFFFFFF)).wf = true ∧
    (encode (.tbwait cu true 31 (.imm 0xFFFFFFFF))).isSome = true := by decide

/-! ## Ill-formed instructions and words -/

/-- A lane guard where there are no lanes (R13). -/
def lanes : Ctl := { cu with lPred := 3 }

theorem test_wf_lanes : (Instr.nop lanes).wf = false ∧ (Instr.nop { cu with lNeg := true }).wf = false ∧ (Instr.ld lanes .i64 false 0 0 1 2 0).wf = false ∧
    (Instr.vqnt lanes .e2m1 .rne false 1 2 3).wf = false ∧ (Instr.vfadd lanes .rne false 1 2 (.vec 3)).wf = true := by decide

theorem test_wf_scalar : (Instr.add cu .i16 false 1 2 (.reg 3)).wf = false ∧ (Instr.mul cu .i32 .highU 1 2 (.reg 3)).wf = false ∧
    (Instr.cmp cu .i32 .un 1 2 (.reg 3)).wf = false ∧ (Instr.bfx cu .i32 1 2 (.reg 3)).wf = false ∧ (Instr.loop cu 0 16).wf = false := by decide

theorem test_wf_memory : (Instr.ld cu .f32 false 0 0 1 2 0).wf = false ∧ (Instr.ld cu .i64 false 0 6 1 2 0).wf = false ∧
    (Instr.ldv cu .i64 0 1 2 0 0).wf = false ∧ (Instr.atom cu .i64 .cas .none 0 0 1 2 3 none).wf = false ∧
    (Instr.atom cu .i64 .add .none 0 0 1 2 3 (some 4)).wf = false ∧ (Instr.atom cu .i64 .add .none 0 5 1 2 3 none).wf = false := by decide

theorem test_wf_shapes : (Instr.bar cu 6 0).wf = false ∧ (Instr.bar cu 0 4).wf = false ∧ (Instr.bar cu 5 3).wf = true ∧ (Instr.mshape cu .f32 false 1 (.reg 2)).wf = false := by decide

theorem test_wf_vectors : (Instr.vadd cu .i64 false 1 2 (.vec 4)).wf = false ∧ (Instr.vadd cu .n64 false 2 4 (.vec 7)).wf = false ∧
    (Instr.vmul cu .i32 .highS true 1 2 (.vec 3)).wf = false ∧ (Instr.vmad cu .i64 false 2 2 (.vec 4) 2).wf = false ∧
    (Instr.vcmp cu .i16 .eq 1 2 (.vec 3)).wf = false ∧ (Instr.viota cu .i16 1).wf = false ∧ (Instr.vsel cu .fa56 1 2 (.vec 3) 4).wf = false := by decide

theorem test_wf_formats : (Instr.vfcvt cu .f32 .f32 0 .rne false 1 2).wf = false ∧ (Instr.vfcvt cu .bf16 .f32 2 .rne false 1 2).wf = false ∧
    (Instr.vfcvt cu .bf16 .f16 1 .rne false 1 2).wf = false ∧ (Instr.vpadd cu .f16 .rne false 1 2 (.vec 3)).wf = false ∧
    (Instr.vtrn cu .i64 2 4).wf = false ∧ (Instr.vredr cu .f32 .xor .rne false 1 2).wf = false ∧ (Instr.vredr cu .i32 .max .rne true 1 2).wf = false ∧
    (Instr.vqnt cu .f32 .rne false 1 2 3).wf = false ∧ (Instr.vqnt cu .e2m1 .rne false 1 1 3).wf = false := by decide

theorem test_wf_remote : (Instr.rst cu .f32 false false 0 0 1 2 0 3 none).wf = false ∧ (Instr.rst cu .f32 true false 0 0 1 2 0 3 none).wf = true ∧
    (Instr.rld cu .i16 false 0 0 1 2 3 0).wf = false ∧ (Instr.ratom cu .i64 .cas .none 0 0 1 2 3 4 none).wf = false ∧
    (Instr.msop cu 5 0 1 2 0 3 4).wf = false ∧ (Instr.msop cu 7 0 1 2 0 3 4).wf = false ∧ (Instr.msop cu 8 0 1 2 0 3 4).wf = true ∧
    (Instr.mfsr cu 1 0x010 (some 2)).wf = false ∧ (Instr.mfsr cu 1 0x045 (some 2)).wf = true := by decide

/-- All zeros, all ones, and the words of `END` and `NOP` with a reserved bit set (R270). -/
theorem test_decode_reserved : (decode 0).isOk = false ∧ (decode (BitVec.allOnes 128)).isOk = false ∧
    (decode (0x00000000000000003DFFFFFFFFFFC047 ||| 1 <<< 88)).isOk = false ∧ (decode 0x00000000000000003DFFFFFFFFFFC047).isOk = true := by decide

theorem test_table_word : (decodeTableWord 128 0x00000000000000003DFFFFFFFFFFC047).isSome = true ∧ (decodeTableWord 64 0).isSome = false := by decide

/-! ## One step each; the values are the spec's own examples or follow from its rules by hand -/

/-- The value of an s register after an instruction, of which `s4` and `s5` are inputs. -/
def sAfter (i : Instr) (s4 s5 : Word) (d : Fin 32) (v : Word) : Bool :=
  leads (exec i (world .as (withS [(4, s4), (5, s5)]))) fun t => t.rs d == v && t.sq.pc == 16

/-- The product or quotient that an instruction leaves pending. -/
def pends (i : Instr) (s4 s5 v : Word) : Bool :=
  leads (exec i (world .as (withS [(4, s4), (5, s5)]))) fun t => t.sq.results.map Result.val == [v]

theorem test_add_sub : sAfter (.sub cu .n64 true 6 4 (.reg 5)) 3 5 6 0 = true ∧ sAfter (.sub cu .n64 false 6 4 (.reg 5)) 3 5 6 0xFFFFFFFFFFFFFFFE = true ∧
    sAfter (.add cu .i32 true 6 4 (.imm 1)) 0x7FFFFFFF 0 6 0x7FFFFFFF = true ∧ sAfter (.add cu .i32 false 6 4 (.imm 1)) 0x7FFFFFFF 0 6 0xFFFFFFFF80000000 = true := by decide

theorem test_logic : sAfter (.and cu .i32 6 4 (.imm 0xFFFFFFFF)) 0x80000000 0 6 0xFFFFFFFF80000000 = true ∧
    sAfter (.or cu .n32 6 4 (.reg 5)) 0x1200000001 0x80000000 6 0x80000001 = true ∧ sAfter (.xor cu .i64 6 4 (.imm 0xFFFFFFFF)) 5 0 6 0xFFFFFFFFFFFFFFFA = true := by decide

theorem test_shifts : sAfter (.rol cu .i32 6 4 (.imm 4)) 0x80000001 0 6 0x18 = true ∧ sAfter (.shr cu .i32 true 6 4 (.imm 40)) 0x80000000 0 6 0xFFFFFFFFFFFFFFFF = true ∧
    sAfter (.shr cu .i32 false 6 4 (.imm 4)) 0x80000000 0 6 0x08000000 = true ∧ sAfter (.shl cu .n64 6 4 (.reg 5)) 1 64 6 0 = true := by decide

theorem test_min_max : sAfter (.min cu .n32 6 4 (.imm 16)) 0x80000000 0 6 16 = true ∧ sAfter (.min cu .i32 6 4 (.imm 16)) 0x80000000 0 6 0xFFFFFFFF80000000 = true ∧
    sAfter (.max cu .i64 6 4 (.reg 5)) 0xFFFFFFFFFFFFFFFF 1 6 1 = true := by decide

theorem test_counts : sAfter (.clz cu .i32 6 4) 0x10000 0 6 15 = true ∧ sAfter (.clz cu .i64 6 4) 0x10000 0 6 47 = true ∧
    sAfter (.popc cu .i32 6 4) 0xFFFFFFFF000000FF 0 6 8 = true ∧ sAfter (.popc cu .n64 6 4) 0xFFFFFFFF000000FF 0 6 40 = true := by decide

theorem test_fields : sAfter (.bfx cu .i64 6 4 (.imm 0x0408)) 0xF00 0 6 0xFFFFFFFFFFFFFFFF = true ∧ sAfter (.bfx cu .n64 6 4 (.imm 0x0408)) 0xF00 0 6 0xF = true ∧
    sAfter (.bfx cu .n64 4 4 (.imm 0x2000)) 0xFFFFFFFFFFFF0000 0 4 0xFFFF0000 = true ∧ sAfter (.bfi cu .i64 5 4 (.imm 0x0804)) 0x5AB 0xF00F 5 0xFABF = true := by decide

theorem test_moves : sAfter (.li cu false 6 0xFFFF0000) 0 0 6 0xFFFFFFFFFFFF0000 = true ∧ sAfter (.mov cu (.s 0) (.s 4)) 7 0 0 0 = true ∧
    sAfter (.sel cu .i64 6 4 (.reg 5) 7) 1 2 6 1 = true ∧ sAfter (.sel cu .i64 6 4 (.reg 5) 3) 1 2 6 2 = true := by decide

theorem test_cmp : leads (exec (.cmp cu .n64 .lt 1 4 (.imm 0xFFFFFFFF)) (world .as (withS [(4, 5)]))) (fun t => t.rf 1) = true ∧
    leads (exec (.cmp cu .n64 .lt 1 4 (.imm 0xFFFFFFFF)) (world .as (withS [(4, 0xFFFFFFFFFFFFFFFF)]))) (fun t => !t.rf 1) = true := by decide

theorem test_mul : pends (.mul cu .i64 .highS 6 4 (.reg 5)) 0xFFFFFFFFFFFFFFFF 2 0xFFFFFFFFFFFFFFFF = true ∧
    pends (.mul cu .n64 .highU 6 4 (.reg 5)) 0xFFFFFFFFFFFFFFFF 2 1 = true := by decide

theorem test_div : pends (.div cu .i32 false 6 4 (.imm 2)) 0xFFFFFFF9 0 0xFFFFFFFFFFFFFFFD = true ∧ pends (.div cu .i32 true 6 4 (.imm 2)) 0xFFFFFFF9 0 0xFFFFFFFFFFFFFFFF = true ∧
    pends (.div cu .n64 false 6 4 (.reg 5)) 7 0 0xFFFFFFFFFFFFFFFF = true ∧ pends (.div cu .n64 true 6 4 (.reg 5)) 7 0 7 = true := by decide

theorem test_branches :
    let s := world .as (withS [(4, 0x40), (5, 1)])
    leads (exec (.call cu 31 0x20) s) (fun t => t.sq.pc == 0x20 && t.rs 31 == 16) = true ∧ leads (exec (.loop cu 5 0x20) s) (fun t => t.sq.pc == 16 && t.rs 5 == 0) = true ∧
      leads (exec (.loop cu 4 0x20) s) (fun t => t.sq.pc == 0x20 && t.rs 4 == 0x3F) = true ∧ leads (exec (.br { cu with gNeg := true } 0x20) s) (fun t => t.sq.pc == 16) = true ∧
      leads (exec (.jmp cu 4) s) (fun t => t.sq.pc == 0x40) = true ∧ leads (exec (.ret cu 4) s) (fun t => t.sq.pc == 0x40) = true := by decide

theorem test_queues :
    let s := world .as (withS [(4, 77)])
    leads (exec (.qpush cu 5 4) s) (fun t => (t.cc.queue 5).map QEnt.val == [77]) = true ∧
      leads (exec (.bqsend cu 7) s) (fun t => t.cc.bqA.map Prod.fst == [true]) = true := by decide

/-! The vector operations on one lane. -/

theorem test_vector_integer : (exactOp .i16 true (· + ·) 0x7FFF 1).1 = 0x7FFF ∧ (exactOp .i16 true (· + ·) 0x7FFF 1).2 ≠ 0 ∧ exactOp .i16 false (· + ·) 0x7FFF 1 = (0x8000, 0) ∧
    vshrOp .i8 true 0x90 9 = (0xFF, 0) ∧ vshlOp .i8 1 8 = (0, 0) ∧ exactOp .n32 false (· - ·) 3 5 = (0xFFFFFFFE, 0) ∧ vmulOp .i32 .low false 3 0xFFFFFFFF = (0xFFFFFFFD, 0) ∧
    vmulOp .n32 .highU false 0xFFFFFFFF 2 = (1, 0) ∧ pickOp .i8 false 0x80 1 = (0x80, 0) ∧ pickOp .n8 false 0x80 1 = (1, 0) := by decide

theorem test_vector_float : roundTo_ .f32 .rne false 0 (sum2 .rne (f32v 0x3F800000) (f32v 0x40000000)) = (0x40400000, 0) ∧
    roundTo_ .f32 .rne false 0 (Machine.Num.mul (f32v 0) (f32v 0xBF800000)) = (0x80000000, 0) ∧ roundTo_ .f32 .rne false 0 (sum2 .rne (f32v 0xFF800000) (f32v 0x80000000)) = (0xFF800000, 0) ∧
    roundTo_ .f32 .rne false 0 (Machine.Num.fma false (f32v 0x40000000) (f32v 0x40400000) (f32v 0x3F800000)) = (0x40E00000, 0) ∧
    f32p (floatPick false (f32v 0) (f32v 0x80000000)) = 0x80000000 ∧ floatCond .un (f32v 0x7FC00000) (f32v 0) = true ∧ floatCond .lt (f32v 0x7FC00000) (f32v 0) = false ∧
    floatCond .eq (f32v 0) (f32v 0x80000000) = true := by decide

theorem test_packed : roundTo_ .bf16 .rne false 0 (Machine.Num.mul (laneSub .bf16 0x3F803F80 1) (laneSub .bf16 0x40003F80 1)) = (0x4000, 0) ∧
    (roundTo_ .e4m3 .rne true 0 (Machine.Num.mul (laneSub .e4m3 0x7C 0) (laneSub .e4m3 0x3A 0))).1 = 0x7E ∧
    (roundTo_ .e4m3 .rne false 0 (Machine.Num.mul (laneSub .e4m3 0x7C 0) (laneSub .e4m3 0x3A 0))).1 = 0x7F := by decide

theorem test_convert : cvtLane .bf16 .f32 0 .rne false 0x3F800000 0xAAAABBBB (fun _ => 0) = (0xAAAA3F80, 0) ∧
    cvtLane .bf16 .f32 1 .rne false 0x3F800000 0xAAAABBBB (fun _ => 0) = (0x3F80BBBB, 0) ∧ cvtLane .f32 .bf16 1 .rne false 0x3F800000 0 (fun _ => 0) = (0x3F800000, 0) := by decide

theorem test_reduction : reduce .f32 .add .rne false 0 [0x4C000000, 0x3F800000, 0xCC000000] = (0x3F800000, 0) ∧ reduce .i32 .min .rne false 0 [5, 0xFFFFFFFF, 7] = (0xFFFFFFFF, 0) ∧
    reduce .n32 .min .rne false 0 [5, 0xFFFFFFFF, 7] = (5, 0) := by decide

/-- The block of R89: 5.0, 0.75 and thirty zeros. -/
theorem test_quantiser : ((qntBlock .e2m1 .rne ((f32v 0x40A00000, 0) :: (f32v 0x3F400000, 0) :: List.replicate 30 (f32v 0, 0))).1,
    (qntBlock .e2m1 .rne ((f32v 0x40A00000, 0) :: (f32v 0x3F400000, 0) :: List.replicate 30 (f32v 0, 0))).2.1) = (0x7F, 6 :: 2 :: List.replicate 30 0) := by decide +kernel

/-- An integer power of 2 is exact (R85). -/
theorem test_exp2 : (sfuApply .exp2 0x40400000).1 = 0x41000000 ∧ (sfuApply .exp2 0xFF800000).1 = 0 := by decide +kernel

theorem test_memory :
    let s := world .as (withBytes 8 [0x80, 0xFF] ∘ withS [(4, ownV), (5, 0x1122334455667788)])
    leads (exec (.ld cu .i8 false 0 0 6 4 8) s) (fun t => t.sq.results.map Result.val == [0xFFFFFFFFFFFFFF80]) = true ∧
      leads (exec (.ld cu .n16 false 0 0 6 4 8) s) (fun t => t.sq.results.map Result.val == [0xFF80]) = true ∧
      leads (exec (.st cu .i32 false 0 0 4 0 5) s) (fun t => t.cc.vault.read 0 0 5 == [0x88, 0x77, 0x66, 0x55, 0]) = true := by decide

theorem test_atom :
    let s := world .as (withBytes 0 [5] ∘ withS [(4, ownV), (5, 3)])
    leads (exec (.atom cu .i64 .add .none 0 0 6 4 5 none) s) (fun t => t.cc.vault.read 0 0 1 == [8] && t.rs 6 == 5) = true := by decide

/-- The test of phase 15 where PH is 12, and where it is 0. -/
theorem test_tbwait :
    let s (ph : Nat) : State := world .as (withBytes 0x40 (Bar.toBytes ⟨ph, 1, 0, 1, false⟩) ∘ withS [(4, ownV + 0x40)])
    leads (exec (.tbwait cu false 4 (.imm 15)) (s 12)) (fun t => t.sq.pc == 0) = true ∧ leads (exec (.tbwait cu false 4 (.imm 15)) (s 0)) (fun t => t.sq.pc == 16) = true := by decide

theorem test_system :
    let s := world .as (withS [(4, 0x1234)] ∘ fun k => { k with as := { k.as with tvec := 0x800 } })
    leads (exec (.trap cu 5 (some 4)) s) (fun t => t.sq.pc == 0x800 && t.sq.ecause == 0x16 && t.sq.einfo0 == 5 && t.sq.einfo1 == 0x1234 && t.sq.epc == 0) = true ∧
      leads (exec (.bkpt cu false 9) s) (fun t => t.sq.ecause == 0x17 && t.sq.einfo0 == 9) = true := by decide

end Sys2Proof.Tests
end

section
/-! What package reset leaves in a core (R4, R78). -/

namespace Sys2Proof.Machine

/-- A vector filled with the value that an index out of range reads as reads as that value everywhere. -/
theorem vget_replicate {α : Type} (d : α) (n i : Nat) : vget d (Vector.replicate n d) i = d := by
  by_cases h : i < n
  · rw [vget_eq d _ i h, Vector.getElem_replicate]
  · simp [vget, h]

theorem State.reset_core (c : Nat) : State.reset.core c = Core.reset := vget_replicate Core.reset 384 c

theorem Core.reset_tile (t : Fin 32) : Core.reset.tile t = ⟨.empty, 0, 0⟩ := vget_replicate _ 32 t.val

theorem Seq.reset_rs (r : Fin 32) : Seq.reset.rs r = 0 := by
  rw [Seq.rs, Seq.reset, vget_replicate, ite_self]

/-- Flag 7 alone reads true. -/
theorem Seq.reset_rf (r : Fin 8) : Seq.reset.rf r = decide (r = 7) := by
  rw [Seq.rf, Seq.reset, vget_replicate]
  split <;> simp_all

theorem XUnit.reset_gen (l : Nat) (h : l < 1024) : vget 0 XUnit.reset.gen l = genStart 0 l := vget_tab 0 1024 _ l h

/-- Settles O60: every core is `Core.reset`, whose registers are read off it. -/
theorem resetValues : Obligations.resetValues := by
  refine ⟨rfl, rfl, rfl, rfl, reset_mem_wf, rfl, rfl, rfl, fun c _ => ?_⟩
  rw [State.reset_core]
  exact ⟨rfl, rfl, rfl, rfl, Seq.reset_rs, Seq.reset_rs, Seq.reset_rf, XUnit.reset_gen, Core.reset_tile, rfl⟩

end Sys2Proof.Machine
end

section
/-! The state in each outcome of an access, of an effect, of a remote operation, of fetching and of choosing an act. -/

namespace Sys2Proof.Machine

/-- The state that an access leaves. -/
def Acc.state {α : Type} : Acc α → State
  | .ok s _ | .trap s _ | .miss s _ _ => s

/-- The state that the effect of an instruction leaves. -/
def Eff.state : Eff → State
  | .done s _ | .got s _ | .goto s _ | .trap s _ | .report s _ | .wait s | .hold s _ | .stop s | .ret s => s

@[simp] theorem Acc.state_ok {α : Type} (s : State) (a : α) : (Acc.ok s a).state = s := rfl
@[simp] theorem Acc.state_trap {α : Type} (s : State) (t : Trap) : (Acc.trap s t : Acc α).state = s := rfl
@[simp] theorem Acc.state_miss {α : Type} (s : State) (fn gpa : Nat) : (Acc.miss s fn gpa : Acc α).state = s := rfl
@[simp] theorem Eff.state_done (s : State) (sec : Bool) : (Eff.done s sec).state = s := rfl
@[simp] theorem Eff.state_got (s : State) (r : Result) : (Eff.got s r).state = s := rfl
@[simp] theorem Eff.state_goto (s : State) (t : Word) : (Eff.goto s t).state = s := rfl
@[simp] theorem Eff.state_trap (s : State) (t : Trap) : (Eff.trap s t).state = s := rfl
@[simp] theorem Eff.state_report (s : State) (t : Trap) : (Eff.report s t).state = s := rfl
@[simp] theorem Eff.state_wait (s : State) : (Eff.wait s).state = s := rfl
@[simp] theorem Eff.state_hold (s : State) (w : Wait) : (Eff.hold s w).state = s := rfl
@[simp] theorem Eff.state_stop (s : State) : (Eff.stop s).state = s := rfl
@[simp] theorem Eff.state_ret (s : State) : (Eff.ret s).state = s := rfl

/-- The state that serving a remote operation leaves. -/
def Served.state : Served → State
  | .done s _ _ _ | .refused s _ | .miss s _ _ => s

@[simp] theorem Served.state_done (s : State) (data : Line) (tc : BitVec 8) (sec : Bool) : (Served.done s data tc sec).state = s := rfl
@[simp] theorem Served.state_refused (s : State) (tc : BitVec 8) : (Served.refused s tc).state = s := rfl
@[simp] theorem Served.state_miss (s : State) (fn gpa : Nat) : (Served.miss s fn gpa).state = s := rfl

/-- The state that fetching leaves. -/
def Fetched.state : Fetched → State
  | .word s _ | .other s => s

@[simp] theorem Fetched.state_word (s : State) (w : Word128) : (Fetched.word s w).state = s := rfl
@[simp] theorem Fetched.state_other (s : State) : (Fetched.other s).state = s := rfl

/-- The state in which the next act acts. -/
def Todo.state : Todo → State
  | .run s _ | .done s => s

@[simp] theorem Todo.state_run (s : State) (i : Instr) : (Todo.run s i).state = s := rfl
@[simp] theorem Todo.state_done (s : State) : (Todo.done s).state = s := rfl

end Sys2Proof.Machine
end

section
/-! What leaves memory: one lemma per function of the model that writes no byte of it, by the files of the model. -/

namespace Sys2Proof.Machine

@[simp] theorem State.mem_ite (p : Prop) [Decidable p] (s t : State) : (if p then s else t).mem = if p then s.mem else t.mem :=
  apply_ite State.mem p s t

/-- A loop whose step leaves memory leaves it. -/
theorem foldl_mem {α : Type} {f : State → α → State} (h : ∀ s x, (f s x).mem = s.mem) (l : List α) (s : State) :
    (l.foldl f s).mem = s.mem := by
  induction l generalizing s with
  | nil => rfl
  | cons x l ih => rw [List.foldl_cons, ih, h]

/-- `foldl_mem` for `simp`, which closes the side condition where the step leaves memory by definition too. -/
@[simp] theorem foldl_mem' {α : Type} {f : State → α → State} (h : (∀ s x, (f s x).mem = s.mem) = True) (l : List α) (s : State) :
    (l.foldl f s).mem = s.mem := foldl_mem (of_eq_true h) l s

/-! ### Ops -/

@[simp] theorem State.ws_mem (s : State) (r : Fin 32) (v : Word) : (s.ws r v).mem = s.mem := rfl
@[simp] theorem State.wf_mem (s : State) (r : Fin 8) (v : Bool) : (s.wf r v).mem = s.mem := rfl
@[simp] theorem State.wp_mem (s : State) (r : Fin 16) (v : BitVec 1024) : (s.wp r v).mem = s.mem := rfl

@[simp] theorem State.orFlags_mem (s : State) (lat : Nat) (fl : Flags) : (s.orFlags lat fl).mem = s.mem := by
  unfold State.orFlags
  split <;> rfl

@[simp] theorem State.dropHint_mem (s : State) (fn : Nat) : (s.dropHint fn).mem = s.mem := rfl
@[simp] theorem State.takeFree_mem (s : State) : s.takeFree.2.mem = s.mem := rfl
@[simp] theorem State.takeId_mem (s : State) : s.takeId.2.mem = s.mem := rfl
@[simp] theorem State.modCores_mem (s : State) (cs : List Nat) (f : Core → Core) : (s.modCores cs f).mem = s.mem := by simp [State.modCores]

@[simp] theorem State.endLaunch_mem (s : State) (id : Nat) (st : Status) (detail : BitVec 8) (frank : Nat) :
    (s.endLaunch id st detail frank).mem = s.mem := by
  unfold State.endLaunch
  split <;> simp

@[simp] theorem State.trapOn_mem (s : State) (c : Nat) (i : SeqId) (t : Trap) : (s.trapOn c i t).mem = s.mem := by simp [State.trapOn]
@[simp] theorem State.takeTrap_mem (s : State) (t : Trap) : (s.takeTrap t).mem = s.mem := by simp [State.takeTrap]

/-! ### Translate -/

@[simp] theorem State.hbmRequest_mem (s : State) (pa bytes fn cls : Nat) (stamp : BitVec 16) :
    (s.hbmRequest pa bytes fn cls stamp).mem = s.mem := rfl

@[simp] theorem State.deviceRequest_mem (s : State) (pa fn : Nat) : (s.deviceRequest pa fn).mem = s.mem := by
  unfold State.deviceRequest
  split <;> rfl

@[simp] theorem State.install_mem (s : State) (x : XCtx) (t : TlbEnt) (both : Bool) : (s.install x t both).mem = s.mem := by
  unfold State.install
  split <;> simp

@[simp] theorem State.updateTlb_mem (s : State) (x : XCtx) (ea : Nat) (e : Word) : (s.updateTlb x ea e).mem = s.mem := by
  unfold State.updateTlb
  split <;> rfl

@[simp] theorem State.dropTlb_mem (s : State) (x : XCtx) (ea : Nat) : (s.dropTlb x ea).mem = s.mem := by
  unfold State.dropTlb
  split <;> rfl

@[simp] theorem State.charge_mem (s : State) (id pa n : Nat) : (s.charge id pa n).mem = s.mem := by
  unfold State.charge
  split <;> rfl

@[simp] theorem State.launchRequest_mem (s : State) (l : Launch) (fn pa bytes : Nat) : (s.launchRequest l fn pa bytes).mem = s.mem := by
  simp [State.launchRequest]

@[simp] theorem State.tableRequest_mem (s : State) (x : XCtx) (pa : Nat) : (s.tableRequest x pa).mem = s.mem := by
  unfold State.tableRequest
  (repeat' split) <;> simp

@[simp] theorem State.walkRequests_mem (s : State) (x : XCtx) (va : Nat) : (s.walkRequests x va).mem = s.mem := by simp [State.walkRequests]

@[simp] theorem State.triedPages_mem (s : State) (x : XCtx) (ps : List (Nat × Nat)) : (s.triedPages x ps).mem = s.mem := by
  induction ps generalizing s with
  | nil => rfl
  | cons p ps ih => unfold State.triedPages; dsimp only; (repeat' split) <;> simp [ih]

@[simp] theorem State.invalidate_mem (s : State) (fn lo hi : Nat) : (s.invalidate fn lo hi).mem = s.mem := rfl

/-! ### VaultOps -/

@[simp] theorem State.modVault_mem (s : State) (c : Nat) (f : Vault → Vault) : (s.modVault c f).mem = s.mem := rfl

@[simp] theorem State.writeVault_mem (s : State) (c off : Nat) (bs : List Byte) (sec : Bool) : (s.writeVault c off bs sec).mem = s.mem :=
  rfl

@[simp] theorem State.wake_mem (s : State) (c : Nat) : (s.wake c).mem = s.mem := rfl
@[simp] theorem State.wakeSeq_mem (s : State) (c : Nat) (q : SeqId) : (s.wakeSeq c q).mem = s.mem := rfl

@[simp] theorem State.updBarAs_mem (s : State) (owner : BitVec 8) (c off : Nat) (f : Bar → Bar × Bool) :
    (s.updBarAs owner c off f).mem = s.mem := by simp [State.updBarAs]

@[simp] theorem State.updBar_mem (s : State) (c off : Nat) (f : Bar → Bar × Bool) : (s.updBar c off f).mem = s.mem := by simp [State.updBar]

@[simp] theorem State.freezeOn_mem (s : State) (cause : BitVec 8) : (s.freezeOn cause).mem = s.mem := by
  unfold State.freezeOn
  split <;> rfl

@[simp] theorem State.updBarBy_mem (s : State) (owner : BitVec 8) (c path off : Nat) (f : Bar → Bar × Bool) :
    (s.updBarBy owner c path off f).mem = s.mem := by
  unfold State.updBarBy
  split <;> simp

@[simp] theorem State.countSectors_mem (s : State) (owner : BitVec 8) (c path : Nat) (bar : Option Nat) (n : Nat) :
    (s.countSectors owner c path bar n).mem = s.mem := by
  unfold State.countSectors
  split <;> simp

@[simp] theorem State.engineError_mem (s : State) (owner : BitVec 8) (c path : Nat) (cause : BitVec 8) (bar : Option Nat) (addr : Word) :
    (s.engineError owner c path cause bar addr).mem = s.mem := by
  unfold State.engineError
  split <;> simp

/-! ### Mem -/

@[simp] theorem State.dropMsc_mem (s : State) (leaf : Nat) (out : MscLine → Bool) (fn : Nat) (st : Nat × BitVec 16) :
    (s.dropMsc leaf out fn st).mem = s.mem := by simp [State.dropMsc]

@[simp] theorem State.makeRoom_mem (s : State) (leaf set fn : Nat) (st : Nat × BitVec 16) : (s.makeRoom leaf set fn st).1.mem = s.mem := by
  unfold State.makeRoom
  dsimp only
  (repeat' split) <;> simp

theorem State.fillBlock_mem {s t : State} {u : Use} {fn : Nat} {st : Nat × BitVec 16} {pa : Nat} (h : s.fillBlock u fn st pa = some t) :
    t.mem = s.mem := by
  simp only [State.fillBlock, Option.map_eq_some_iff] at h
  obtain ⟨w, -, rfl⟩ := h
  dsimp only
  split <;> simp

@[simp] theorem State.setScope_mem (s : State) (scp : BitVec 3) (ag : Agent) (grp : List Nat) (pa : Nat) :
    (s.setScope scp ag grp pa).mem = s.mem := rfl

@[simp] theorem State.freeBytes_mem (s : State) (n : Nat) : (s.freeBytes n).2.mem = s.mem := rfl
@[simp] theorem State.noteAtom_mem (s : State) (pa : Nat) : (s.noteAtom pa).mem = s.mem := rfl
@[simp] theorem State.noteAtoms_mem (s : State) (ps : List Piece) : (s.noteAtoms ps).mem = s.mem := by simp [State.noteAtoms]

/-! ### Operands -/

@[simp] theorem State.writeLanes_mem (s : State) (r : Fin 32) (m : BitVec 1024) (v : VReg) : (s.writeLanes r m v).mem = s.mem := rfl
@[simp] theorem State.writePred_mem (s : State) (r : Fin 16) (m v : BitVec 1024) : (s.writePred r m v).mem = s.mem := rfl
@[simp] theorem State.tagDests_mem (s : State) (u : RegUse) (c : Ctl) (sec : Bool) : (s.tagDests u c sec).mem = s.mem := rfl

/-! ### Issue -/

@[simp] theorem State.rollback_mem (s : State) (c : Nat) (ph : Phase) : (s.rollback c ph).mem = s.mem := rfl

@[simp] theorem State.consumeOn_mem (s : State) (c : Nat) (q : SeqId) (t : Trap) : (s.consumeOn c q t).mem = s.mem := by
  unfold State.consumeOn
  split <;> simp

@[simp] theorem State.phasePoison_mem (s : State) (c : Nat) (q : SeqId) (ptr : Word) : (s.phasePoison c q ptr).mem = s.mem := by
  unfold State.phasePoison
  split <;> rfl

@[simp] theorem State.consume_mem (s : State) (t : Trap) : (s.consume t).mem = s.mem := by simp [State.consume]
@[simp] theorem State.countIssue_mem (s : State) (vec : Bool) : (s.countIssue vec).mem = s.mem := rfl
@[simp] theorem State.advance_mem (s : State) (pc : Word) : (s.advance pc).mem = s.mem := rfl

@[simp] theorem State.trapWith_mem (s before after : State) (t : Trap) :
    (s.trapWith before after t).mem = if after.sq.travels then s.mem else after.mem := by
  unfold State.trapWith
  (repeat' split) <;> simp <;> split <;> simp

@[simp] theorem State.reportWith_mem (s after : State) (t : Trap) :
    (s.reportWith after t).mem = if after.sq.travels then s.mem else after.mem := by
  unfold State.reportWith
  split <;> simp

@[simp] theorem State.markInfo_mem (s : State) (t : Trap) (sec : Bool) : (s.markInfo t sec).mem = s.mem := by
  unfold State.markInfo
  split <;> rfl

@[simp] theorem State.settleDests_mem (t s1 : State) (c : Ctl) (u : RegUse) (sec : Bool) : (t.settleDests s1 c u sec).mem = t.mem := rfl
@[simp] theorem State.retireHeld_mem (s : State) (c : Nat) (q : SeqId) : (s.retireHeld c q).mem = s.mem := rfl

/-! ### Access -/

@[simp] theorem State.addFence_mem (s : State) (before after : BitVec 16) : (s.addFence before after).mem = s.mem := rfl
@[simp] theorem State.acquireFence_mem (s : State) (ocl : BitVec 4) : (s.acquireFence ocl).mem = s.mem := rfl
@[simp] theorem State.pauseRows_mem (s : State) (x : RowsDone) : (s.pauseRows x).mem = s.mem := rfl

@[simp] theorem State.sendVReq_mem (s : State) (target : Nat) (acc : Bool) (kind : VKind) (off n : Nat) (ty : Ty) (val : Word)
    (ocl : BitVec 4) (sec : Bool) : (s.sendVReq target acc kind off n ty val ocl sec).2.mem = s.mem := rfl

@[simp] theorem State.addResult_mem (s : State) (r : Result) : (s.addResult r).mem = s.mem := rfl

/-! ### Memory -/

@[simp] theorem State.recordFor_mem (s : State) (sync : Bool) (scp : BitVec 3) (p : Word) (ps : List Piece) :
    (s.recordFor sync scp p ps).mem = s.mem := by
  unfold State.recordFor
  (repeat' split) <;> simp

@[simp] theorem State.hintWalks_mem (s : State) (x : XCtx) (p n : Nat) : (s.hintWalks x p n).mem = s.mem := by simp [State.hintWalks]

/-! ### Copy -/

@[simp] theorem State.gatherIssue_mem (s : State) (c : Ctl) (scatter : Bool) (base t i p : Fin 32) (bar : Option (Fin 32)) (b : Word32) :
    (s.gatherIssue c scatter base t i p bar b).state.mem = s.mem := by
  unfold State.gatherIssue
  dsimp only
  (repeat' split) <;> simp

@[simp] theorem State.updBarTag_mem (s : State) (sec : Bool) (c off : Nat) (f : Bar → Bar × Bool) : (s.updBarTag sec c off f).mem = s.mem := by
  unfold State.updBarTag
  split <;> simp

/-! ### Array -/

@[simp] theorem State.passSums_mem (s : State) (c : Nat) (x : MatCmd) (g : Grant) (z : Region) : (s.passSums c x g z).mem = s.mem := rfl

/-! ### Matrix -/

@[simp] theorem State.reportTo_mem (s : State) (c : Nat) (q : SeqId) (r : Report) : (s.reportTo c q r).mem = s.mem := rfl

theorem State.granted_mem {s : State} {f : Grant → Eff} (h : ∀ g, (f g).state.mem = s.mem) : (s.granted f).state.mem = s.mem := by
  unfold State.granted
  split
  · exact h _
  · rfl

@[simp] theorem State.queueMat_mem (s : State) (t : Option (Fin 32)) (x : MatCmd) : (s.queueMat t x).state.mem = s.mem := by
  unfold State.queueMat
  dsimp only
  (repeat' split) <;> simp

@[simp] theorem State.grpGive_mem (s : State) (c : Nat) (r : Word) (ty : Ty) (sp : Bool) (d : Fin 32) (sec : Bool) :
    (s.grpGive c r ty sp d sec).mem = s.mem := rfl

theorem State.grpServe_mem {s t : State} {cs : List Nat} (h : s.grpServe cs = some t) : t.mem = s.mem := by
  unfold State.grpServe at h
  (repeat' split at h) <;> try contradiction
  dsimp only at h
  split at h
  · contradiction
  rw [← Option.some.inj h]
  refine foldl_mem (fun s k => ?_) _ _
  split
  · simp
  · rfl

@[simp] theorem State.grpLoop_mem (cs : List Nat) (n : Nat) (s : State) : (State.grpLoop cs n s).mem = s.mem := by
  induction n generalizing s with
  | zero => rfl
  | succ n ih =>
    unfold State.grpLoop
    split
    next t h => rw [ih, State.grpServe_mem h]
    · rfl

@[simp] theorem State.grpComplete_mem (s : State) (l : Launch) (copy1 : Bool) : (s.grpComplete l copy1).mem = s.mem := by
  simp [State.grpComplete]

@[simp] theorem State.mulIssue_mem (s : State) (sparse last : Bool) (str : BitVec 2) (m : Fin 16) (t : Fin 32) :
    (s.mulIssue sparse last str m t).state.mem = s.mem := by
  unfold State.mulIssue
  dsimp only
  split <;> simp

@[simp] theorem State.matExecute_mem (s : State) (c n : Nat) : (s.matExecute c n).mem = s.mem := by
  unfold State.matExecute
  split <;> simp

@[simp] theorem State.matError_mem (s : State) (c n : Nat) (cause : BitVec 8) (addr : Word) : (s.matError c n cause addr).mem = s.mem := by
  unfold State.matError
  split <;> simp

@[simp] theorem State.touchPage_mem (s : State) (h : BitVec 20) (v : BitVec 16) (pageB : Bool) : (s.touchPage h v pageB).mem = s.mem :=
  rfl

@[simp] theorem State.askPage_mem (s : State) (l : Launch) (h : BitVec 20) (e : Line) (pageB : Bool) (hint : Option Nat) :
    (s.askPage l h e pageB hint).mem = s.mem := by simp [State.askPage]

@[simp] theorem State.holdGroup_mem (s : State) (c n g : Nat) (h : BitVec 20) (e : Line) (pageB : Bool) :
    (s.holdGroup c n g h e pageB).mem = s.mem := by simp [State.holdGroup]

@[simp] theorem State.sidePass_mem (s : State) (c : Nat) (x : MatCmd) (g : Grant) (b : BindSet) (grp : Nat) :
    (s.sidePass c x g b grp).mem = s.mem := rfl

@[simp] theorem State.sideLast_mem (s : State) (c : Nat) (x : MatCmd) (g : Grant) (b : BindSet) (grp : Nat) :
    (s.sideLast c x g b grp).mem = s.mem := rfl

@[simp] theorem State.sideGroup_mem (s : State) (c n grp : Nat) : (s.sideGroup c n grp).mem = s.mem := by
  unfold State.sideGroup
  (repeat' split) <;> simp

@[simp] theorem State.mulRetire_mem (s : State) (c n : Nat) : (s.mulRetire c n).mem = s.mem := by
  unfold State.mulRetire
  split <;> simp

@[simp] theorem State.sideRun_mem (s : State) (c n : Nat) : (s.sideRun c n).mem = s.mem := by
  unfold State.sideRun
  split <;> simp

@[simp] theorem State.matPass_mem (s : State) (c n : Nat) : (s.matPass c n).mem = s.mem := by
  unfold State.matPass
  split <;> simp

@[simp] theorem State.loadEnd_mem (s : State) (c : Nat) (x : MatCmd) (g : Grant) (sp : Bool) : (s.loadEnd c x g sp).mem = s.mem := by
  simp [State.loadEnd]

@[simp] theorem State.drainRead_mem (s : State) (c : Nat) (x : MatCmd) (g : Grant) (ty : Ty) (rnd : Rnd) (sat : Bool) :
    (s.drainRead c x g ty rnd sat).mem = s.mem := by
  unfold State.drainRead
  split <;> simp

@[simp] theorem State.drainRow_mem (s : State) (c : Nat) (x : MatCmd) (w : Nat × List Byte × Bool) : (s.drainRow c x w).mem = s.mem := by
  simp [State.drainRow]

@[simp] theorem State.drainEnd_mem (s : State) (c : Nat) (x : MatCmd) (g : Grant) (ty : Ty) (rnd : Rnd) (sat : Bool) :
    (s.drainEnd c x g ty rnd sat).mem = s.mem := by
  unfold State.drainEnd
  dsimp only
  (repeat' split) <;> simp

@[simp] theorem State.matFinish_mem (s : State) (c n : Nat) : (s.matFinish c n).mem = s.mem := by
  unfold State.matFinish
  (repeat' split) <;> simp

/-! ### Adapter -/

@[simp] theorem State.prefAdapter_mem (s : State) (l : Launch) (w : Word) : (s.prefAdapter l w).mem = s.mem := by
  unfold State.prefAdapter
  (repeat' split) <;> simp

@[simp] theorem State.keyPages_mem (s : State) (h : BitVec 20) (e : Line) : (s.keyPages h e).mem = s.mem := by
  unfold State.keyPages
  split <;> rfl

@[simp] theorem State.pairedAfter_mem {α : Type} (s : State) (p : Word) (a : Acc α) : (s.pairedAfter p a).state.mem = a.state.mem := by
  cases a with
  | ok t x => unfold State.pairedAfter; dsimp only; split <;> rfl
  | trap t x => rfl
  | miss t f g => rfl

@[simp] theorem State.dropGroup_mem (s : State) (c n grp sub : Nat) : (s.dropGroup c n grp sub).mem = s.mem := by
  unfold State.dropGroup
  (repeat' split) <;> simp

@[simp] theorem State.pageTo_mem (s : State) (c : Nat) (h : BitVec 20) (v : BitVec 16) (pageB : Bool) :
    (s.pageTo c h v pageB).mem = s.mem := by simp [State.pageTo]

@[simp] theorem State.pageFails_mem (s : State) (c : Nat) (h : BitVec 20) (v : BitVec 16) (pageB : Bool) (cause : BitVec 8) :
    (s.pageFails c h v pageB cause).mem = s.mem := by
  unfold State.pageFails
  split <;> simp

@[simp] theorem State.keepPage_mem (s : State) (f : AFetch) : (s.keepPage f).mem = s.mem := by
  refine (foldl_mem (fun s b => ?_) _ _).trans rfl
  split <;> rfl

@[simp] theorem State.pageTimeout_mem (s : State) (c n : Nat) : (s.pageTimeout c n).mem = s.mem := by
  unfold State.pageTimeout
  split <;> simp

/-! ### Control -/

@[simp] theorem State.endSeq_mem (s : State) : s.endSeq.mem = s.mem := by
  unfold State.endSeq
  dsimp only
  (repeat' split) <;> simp

/-! ### Engines -/

@[simp] theorem State.markEng_mem (s : State) (m : MCtx) (w : EngineWrite) (dst : Word) (n : Nat) : (s.markEng m w dst n).mem = s.mem := by
  refine foldl_mem (fun s a => ?_) _ _
  split <;> rfl

@[simp] theorem Acc.genBack_mem {α : Type} (a : Acc α) (c : Nat) (gather : Bool) (g : Word32) :
    (a.genBack c gather g).state.mem = a.state.mem := by cases a <;> rfl

@[simp] theorem State.engFail_mem (s : State) (e : Eng) (path : Nat) (t : Trap) (bar : Option Nat) (sectors : Nat) :
    (s.engFail e path t bar sectors).mem = s.mem := by
  unfold State.engFail
  (repeat' split) <;> simp

@[simp] theorem State.setCopy_mem (s : State) (e : Eng) (x : CopyCmd) (new : Option CopyCmd) : (s.setCopy e x new).mem = s.mem := by
  unfold State.setCopy
  split <;> rfl

@[simp] theorem State.copyStart_mem (s : State) (c : Nat) : (s.copyStart c).mem = s.mem := by
  unfold State.copyStart
  split <;> simp

@[simp] theorem State.copyTiles_mem (s : State) (e : Eng) (x : CopyCmd) : (s.copyTiles e x).mem = s.mem := by
  unfold State.copyTiles
  split <;> rfl

@[simp] theorem State.followOn_mem (s : State) (c : Nat) (f : Follow) (t : Option (Fin 32)) (issued : Nat) :
    (s.followOn c f t issued).mem = s.mem := by
  unfold State.followOn
  dsimp only
  (repeat' split) <;> simp

@[simp] theorem State.copyEnd_mem (s : State) (e : Eng) (x : CopyCmd) (sectors : Nat) : (s.copyEnd e x sectors).mem = s.mem := by
  unfold State.copyEnd
  split <;> simp

@[simp] theorem State.followRoom_mem (s : State) (c : Nat) : (s.followRoom c).mem = s.mem := by
  unfold State.followRoom
  (repeat' split) <;> simp

@[simp] theorem State.setGath_mem (s : State) (e : Eng) (x : GathCmd) (new : Option GathCmd) : (s.setGath e x new).mem = s.mem := by
  unfold State.setGath
  split <;> rfl

@[simp] theorem State.gathEnd_mem (s : State) (e : Eng) (x : GathCmd) : (s.gathEnd e x).mem = s.mem := by
  unfold State.gathEnd
  split <;> simp

@[simp] theorem State.markRetire_mem (s : State) (c i e : Nat) : (s.markRetire c i e).mem = s.mem := by
  unfold State.markRetire
  split <;> simp

/-! ### SysOps -/

@[simp] theorem State.finFault_mem (s : State) : s.finFault.mem = s.mem := by simp [State.finFault]
@[simp] theorem State.finKill_mem (s : State) : s.finKill.mem = s.mem := by simp [State.finKill]
@[simp] theorem State.seedWrite_mem (s : State) (v : Word32) : (s.seedWrite v).mem = s.mem := rfl
@[simp] theorem State.vpreq_mem (s : State) (tvp : BitVec 3) : (s.vpreq tvp).mem = s.mem := by simp [State.vpreq]
@[simp] theorem State.mscStepDown_mem (s : State) (j leaf : Nat) : (s.mscStepDown j leaf).mem = s.mem := by simp [State.mscStepDown]
@[simp] theorem State.railReached_mem (s : State) : s.railReached.mem = s.mem := by simp [State.railReached]

@[simp] theorem State.rowmvWrite_mem (s : State) (c : Nat) (v : Word) : (s.rowmvWrite c v).mem = s.mem := by
  unfold State.rowmvWrite
  dsimp only
  (repeat' split) <;> simp

@[simp] theorem State.evacChunk_mem (s : State) (c bank : Nat) : (s.evacChunk c bank).mem = s.mem := by
  unfold State.evacChunk
  split <;> rfl

@[simp] theorem State.writeSR_mem (s : State) (c : Nat) (q : SeqId) (n : Nat) (v : Word) : (s.writeSR c q n v).mem = s.mem := by
  unfold State.writeSR
  split <;> simp

@[simp] theorem State.setSrSec_mem (s : State) (c : Nat) (q : SeqId) (n : Nat) (sec : Bool) : (s.setSrSec c q n sec).mem = s.mem := by
  simp [State.setSrSec]

@[simp] theorem State.putShared_mem (s : State) (w : SlotWrite) : (s.putShared w).mem = s.mem := by
  unfold State.putShared
  split <;> simp

@[simp] theorem State.noteShared_mem (s : State) (r : SharedReg) : (s.noteShared r).mem = s.mem := rfl

/-! ### Lateral -/

@[simp] theorem State.putParcel_mem (s : State) (owner : BitVec 8) (c off : Nat) (p : Parcel) : (s.putParcel owner c off p).mem = s.mem :=
  rfl

theorem State.land_mem {s t : State} {owner : BitVec 8} {c off : Nat} {p : Parcel} (h : s.land owner c off p = some t) : t.mem = s.mem := by
  unfold State.land at h
  dsimp only at h
  split at h <;> simp at h
  rw [← h]; simp

@[simp] theorem State.vreqActed_mem (s : State) (r : VReq) (val : Word) (sec bad : Bool) : (s.vreqActed r val sec bad).mem = s.mem := rfl

@[simp] theorem State.vreqPart_mem (s : State) (r : VReq) (m : Nat) (val : Word) (sec bad : Bool) :
    (s.vreqPart r m val sec bad).mem = s.mem := rfl

@[simp] theorem State.vreqAct_mem (s : State) (r : VReq) : (s.vreqAct r).mem = s.mem := by
  unfold State.vreqAct
  dsimp only
  split
  · split
    · rfl
    · split <;> simp
  · split
    · split <;> simp
    · split
      next t h => split <;> simp [State.land_mem h]
      · rfl
    · split
      · simp
      · split <;> simp

@[simp] theorem State.vreqReply_mem (s0 : State) (r : VReq) : (s0.vreqReply r).mem = s0.mem := by
  unfold State.vreqReply
  dsimp only
  (repeat' split) <;> simp

/-! ### Queue -/

@[simp] theorem State.arrive_mem (s : State) (imm : Nat) (lw lh : BitVec 3) : (s.arrive imm lw lh).state.mem = s.mem := by
  unfold State.arrive
  dsimp only
  (repeat' split) <;> simp

/-! ### Stream -/

@[simp] theorem State.setCounts_mem (s : State) (c : Nat) (x : Stream) (sec : Bool) : (s.setCounts c x sec).mem = s.mem := rfl

theorem State.withStream_mem {s : State} {t : Fin 32} {f : Stream → Eff} (h : ∀ x, (f x).state.mem = s.mem) :
    (s.withStream t f).state.mem = s.mem := by
  unfold State.withStream
  dsimp only
  split
  · rfl
  · split
    · rfl
    · split
      · rfl
      · split
        · rfl
        · exact h _

@[simp] theorem State.putElems_mem (s : State) (c : Nat) (x : Stream) (e : Nat) (sec : Bool) (vs : List Word32) :
    (s.putElems c x e sec vs).mem = s.mem := by
  induction vs generalizing s e with
  | nil => rfl
  | cons v vs ih => rw [State.putElems, ih]; simp

@[simp] theorem State.correctElems_mem (s : State) (c : Nat) (x : Stream) (e n : Nat) : (s.correctElems c x e n).mem = s.mem := rfl

@[simp] theorem State.csStart_mem (s : State) (g : List Nat) (ws : List (Fin 32 × Fin 16 × Fin 32 × Nat)) : (s.csStart g ws).mem = s.mem := by
  simp [State.csStart]

@[simp] theorem State.csLand_mem (s : State) (c : Nat) (x : CsShare) (i : Nat) (vs : List Word32) : (s.csLand c x i vs).1.mem = s.mem := by
  induction vs generalizing s i with
  | nil => rfl
  | cons v vs ih =>
    unfold State.csLand
    split
    · exact ih _ _
    · split
      next t h => rw [ih, State.land_mem h]
      · rfl

@[simp] theorem State.csLandCore_mem (s : State) (c : Nat) : (s.csLandCore c).mem = s.mem := by
  unfold State.csLandCore
  split <;> simp

@[simp] theorem State.csDeliver_mem (s : State) (c : Nat) : (s.csDeliver c).mem = s.mem := by
  unfold State.csDeliver
  split <;> simp

@[simp] theorem State.csbalComplete_mem (s : State) (c : Nat) : (s.csbalComplete c).mem = s.mem := by simp [State.csbalComplete]

/-! ### Superstep -/

@[simp] theorem State.barRetire_mem (s : State) (c : Nat) : (s.barRetire c).mem = s.mem := by simp [State.barRetire]

@[simp] theorem State.barrierComplete_mem (s : State) (c : Nat) : (s.barrierComplete c).mem = s.mem := by
  unfold State.barrierComplete
  split <;> simp

@[simp] theorem State.stepStart_mem (s : State) (id : Nat) : (s.stepStart id).mem = s.mem := by
  unfold State.stepStart
  split <;> simp

@[simp] theorem State.beatWrite_mem (s : State) (owner : BitVec 8) (b : Beat) (p : Parcel) : (s.beatWrite owner b p).mem = s.mem := by
  unfold State.beatWrite
  split
  next t h => exact State.land_mem h
  · rfl

@[simp] theorem State.exchangeBeat_mem (s : State) (c : Nat) : (s.exchangeBeat c).mem = s.mem := by
  unfold State.exchangeBeat
  dsimp only
  (repeat' split) <;> simp

@[simp] theorem State.xchRetire_mem (s : State) (c : Nat) : (s.xchRetire c).mem = s.mem := by simp [State.xchRetire]

@[simp] theorem State.stepEnd_mem (s : State) (id : Nat) : (s.stepEnd id).mem = s.mem := by
  unfold State.stepEnd
  (repeat' split) <;> simp

@[simp] theorem State.phaseTrap_mem (s : State) (c : Nat) (t : Trap) : (s.phaseTrap c t).mem = s.mem := by simp [State.phaseTrap]
@[simp] theorem State.phaseRetire_mem (s : State) (c : Nat) : (s.phaseRetire c).mem = s.mem := by simp [State.phaseRetire]

@[simp] theorem State.phaseBoundary_mem (s : State) (c : Nat) : (s.phaseBoundary c).mem = s.mem := by
  unfold State.phaseBoundary
  (repeat' split) <;> simp

/-! ### Fabric -/

@[simp] theorem State.modLink_mem (s : State) (l : Nat) (f : Link → Link) : (s.modLink l f).mem = s.mem := rfl
@[simp] theorem State.countPacket_mem (s : State) (l n : Nat) : (s.countPacket l n).mem = s.mem := rfl

@[simp] theorem State.countFabric_mem (s : State) (c n : Nat) : (s.countFabric c n).mem = s.mem := by
  unfold State.countFabric
  split <;> rfl

@[simp] theorem State.takeSeq_mem (s : State) (n : BitVec 12) : (s.takeSeq n).2.mem = s.mem := rfl
@[simp] theorem State.markSeq_mem (s : State) (src : BitVec 12) (q : BitVec 32) : (s.markSeq src q).mem = s.mem := rfl
@[simp] theorem State.dropInflight_mem (s : State) (x : Inflight) : (s.dropInflight x).mem = s.mem := rfl
@[simp] theorem State.modInflight_mem (s : State) (x : Inflight) (f : Inflight → Inflight) : (s.modInflight x f).mem = s.mem := rfl
@[simp] theorem State.unwait_mem (s : State) (x : Inflight) : (s.unwait x).mem = s.mem := rfl
@[simp] theorem State.sendOp_mem (s : State) (p : RemoteOp) (x : Inflight) : (s.sendOp p x).mem = s.mem := by simp [State.sendOp]

@[simp] theorem State.remoteRead_mem (s : State) (p : RemoteOp) (x : Inflight) : (s.remoteRead p x).state.mem = s.mem := by
  unfold State.remoteRead
  split <;> simp

@[simp] theorem State.opStart_mem (s : State) (node : BitVec 12) : (s.opStart node).2.mem = s.mem := rfl

@[simp] theorem State.recordRemote_mem (s : State) (p : RemoteOp) (ps : List Piece) : (s.recordRemote p ps).mem = s.mem := by
  unfold State.recordRemote
  split <;> rfl

@[simp] theorem State.resultBlock_mem (s : State) (bs : List Byte) (swapped : Option Bool) (status : Nat) :
    (s.resultBlock bs swapped status).2.mem = s.mem := rfl

@[simp] theorem State.msopFault_mem (s : State) (tc : BitVec 8) : (s.msopFault tc).state.mem = s.mem := rfl
@[simp] theorem State.sendAck_mem (s : State) (a : RemoteAck) : (s.sendAck a).mem = s.mem := rfl

@[simp] theorem State.ackOp_mem (s : State) (p : RemoteOp) (ok : Bool) (tc : BitVec 8) (key missed : Bool) (data : Line) (sec : Bool) :
    (s.ackOp p ok tc key missed data sec).mem = s.mem := by simp [State.ackOp]

@[simp] theorem State.noteLeave_mem (s : State) (src n : BitVec 12) (seq : BitVec 32) (l : Nat) : (s.noteLeave src n seq l).mem = s.mem := by
  unfold State.noteLeave
  split <;> rfl

@[simp] theorem State.takeResult_mem (s : State) (x : Inflight) (a : RemoteAck) : (s.takeResult x a).mem = s.mem := rfl

@[simp] theorem State.combine_mem (s : State) (i j : Nat) : (s.combine i j).mem = s.mem := by
  unfold State.combine
  split <;> simp

/-! ### Retriever -/

@[simp] theorem State.landTicket_mem (s : State) (c : Nat) (x : Landing) : (s.landTicket c x).1.mem = s.mem := by
  unfold State.landTicket
  split <;> rfl

@[simp] theorem State.beginLanding_mem (s : State) (p : Posted) (m : Message) (owed : Bool) : (s.beginLanding p m owed).mem = s.mem := rfl
@[simp] theorem State.overflowUse_mem (s : State) (fn a n : Nat) : (s.overflowUse fn a n).mem = s.mem := by simp [State.overflowUse]

@[simp] theorem State.ackMessage_mem (s : State) (m : Message) (ok : Bool) (tc : BitVec 8) (full : Bool) :
    (s.ackMessage m ok tc full).mem = s.mem := rfl

@[simp] theorem State.turnAway_mem (s : State) (m : Message) : (s.turnAway m).mem = s.mem := by
  unfold State.turnAway
  split <;> rfl

@[simp] theorem State.handled_mem (s : State) (m : Message) : (s.handled m).mem = s.mem := rfl
@[simp] theorem State.sendMsg_mem (s : State) (x : Inflight) (m : Message) : (s.sendMsg x m).mem = s.mem := by simp [State.sendMsg]

theorem State.takeEntry_mem {s t : State} {fn e : Nat} {g : BitVec 16} (h : s.takeEntry fn = some (e, g, t)) : t.mem = s.mem := by
  simp only [State.takeEntry, Option.map_eq_some_iff, Prod.mk.injEq] at h
  obtain ⟨_, -, -, -, rfl⟩ := h
  rfl

/-! ### Launch -/

@[simp] theorem State.requestPreempt_mem (s : State) (id : Nat) : (s.requestPreempt id).mem = s.mem := by
  unfold State.requestPreempt
  (repeat' split) <;> simp

@[simp] theorem State.enforce_mem (s : State) : s.enforce.mem = s.mem := by simp [State.enforce]
@[simp] theorem State.demote_mem (s : State) (fn gath : Nat) : (s.demote fn gath).mem = s.mem := rfl
@[simp] theorem State.addLaunch_mem (s : State) (l : Launch) : (s.addLaunch l).mem = s.mem := rfl
@[simp] theorem State.acceptWrite_mem (s : State) (w : PortWrite) : (s.acceptWrite w).mem = s.mem := rfl

@[simp] theorem State.letIn_mem (s : State) (fn : Nat) : (s.letIn fn).mem = s.mem := by
  unfold State.letIn
  split <;> simp

@[simp] theorem State.dropLaunch_mem (s : State) (l : Launch) : (s.dropLaunch l).mem = s.mem := by simp [State.dropLaunch]
@[simp] theorem State.countLate_mem (s : State) (fn : Nat) : (s.countLate fn).mem = s.mem := rfl

@[simp] theorem State.endSaved_mem (s : State) (id : Nat) (st : Status) (detail : BitVec 8) (frank : Nat) :
    (s.endSaved id st detail frank).mem = s.mem := rfl

@[simp] theorem State.portWrite_mem (s : State) (fn : Nat) (sup : Bool) (pcie : Nat) (r : Line) : (s.portWrite fn sup pcie r).mem = s.mem := by
  simp [State.portWrite]

@[simp] theorem State.postRecord_mem (s : State) (r : Line) : (s.postRecord r).mem = s.mem := rfl

@[simp] theorem State.affinity_mem (s : State) (l : Launch) : (s.affinity l).2.mem = s.mem := by
  unfold State.affinity
  (repeat' split) <;> simp

@[simp] theorem State.latchTokens_mem (s : State) (fn : Nat) : (s.latchTokens fn).mem = s.mem := by
  unfold State.latchTokens
  split <;> rfl

@[simp] theorem State.enqueue_mem (s : State) (l : Launch) : (s.enqueue l).mem = s.mem := by simp [State.enqueue]
@[simp] theorem State.balance_mem (s : State) : s.balance.mem = s.mem := by simp [State.balance]

@[simp] theorem State.blockPages_mem (s : State) (l : Launch) (as : List Nat) : (s.blockPages l as).state.mem = s.mem := by
  fun_induction State.blockPages s l as with
  | case1 => rfl
  | case2 s a as x t r u bs hr v cs hv ih =>
    have h : r.state.mem = s.mem := by dsimp only [r]; split <;> simp [t]
    rw [hr] at h
    rw [hv] at ih
    exact ih.trans h
  | case3 s a as x t r u bs hr _ ih =>
    have h : r.state.mem = s.mem := by dsimp only [r]; split <;> simp [t]
    rw [hr] at h
    exact ih.trans h
  | case4 s a as x t r hr => dsimp only [r]; split <;> simp [t]

@[simp] theorem State.blockAt_mem (s : State) (l : Launch) (p : Word) : (s.blockAt l p).state.mem = s.mem := by simp [State.blockAt]

@[simp] theorem State.measured_mem (s : State) (l : Launch) : (s.measured l).state.mem = s.mem := by
  unfold State.measured
  split
  · have ha := s.blockAt_mem l l.asEnt
    split
    next t _ e =>
      rw [e] at ha
      have hx := t.blockAt_mem l l.xsEnt
      split
      all_goals next e => rw [e] at hx; exact hx.trans ha
    all_goals next e => rwa [e] at ha
  · rfl

@[simp] theorem State.startOn_mem (s : State) (l : Launch) (o : Nat × Nat) (mr : Line) : (s.startOn l o mr).mem = s.mem := by
  simp [State.startOn]

@[simp] theorem State.imageUse_mem (s : State) (l : Launch) (slot : Nat) : (s.imageUse l slot).mem = s.mem := by simp [State.imageUse]

@[simp] theorem State.takePending_mem (s : State) (c : Nat) (q : SeqId) : (s.takePending c q).mem = s.mem := by
  unfold State.takePending
  dsimp only
  (repeat' split) <;> simp

@[simp] theorem State.moveRefs_mem (s : State) (l l' : Launch) : (s.moveRefs l l').mem = s.mem := by simp [State.moveRefs]
@[simp] theorem State.askHeld_mem (s : State) (c : Nat) : (s.askHeld c).mem = s.mem := by simp [State.askHeld]

@[simp] theorem State.restoreAt_mem (s : State) (l : Launch) (base : Nat) (o : Nat × Nat) : (s.restoreAt l base o).mem = s.mem := by
  simp [State.restoreAt]

@[simp] theorem State.restoreLaunch_mem (s : State) (id : Nat) : (s.restoreLaunch id).mem = s.mem := by
  unfold State.restoreLaunch
  (repeat' split) <;> simp

@[simp] theorem State.class0Preempt_mem (s : State) (leaf : Nat) : (s.class0Preempt leaf).mem = s.mem := by
  unfold State.class0Preempt
  (repeat' split) <;> simp

@[simp] theorem State.abandonStep_mem (s : State) (l : Launch) : (s.abandonStep l).mem = s.mem := by simp [State.abandonStep]

@[simp] theorem State.preemptLate_mem (s : State) (c : Nat) : (s.preemptLate c).mem = s.mem := by
  unfold State.preemptLate
  dsimp only
  (repeat' split) <;> simp

@[simp] theorem State.sliceTurn_mem (s : State) : s.sliceTurn.mem = s.mem := by
  unfold State.sliceTurn
  split <;> simp

@[simp] theorem State.returnShadows_mem (s : State) (l : Launch) : (s.returnShadows l).mem = s.mem := by simp [State.returnShadows]

@[simp] theorem State.consumed_mem (s : State) (l : Launch) : (s.consumed l).mem = s.mem := by
  unfold State.consumed
  split <;> rfl

/-! ### MemSys -/

@[simp] theorem State.closeMiss_mem (s : State) (id : Nat) : (s.closeMiss id).mem = s.mem := rfl
@[simp] theorem State.dropWaiters_mem (s : State) (id : Nat) : (s.dropWaiters id).mem = s.mem := by simp [State.dropWaiters]

@[simp] theorem State.extentWrite_mem (s : State) (vf i : Nat) (d : BitVec 256) : (s.extentWrite vf i d).mem = s.mem := by
  unfold State.extentWrite
  split <;> rfl

@[simp] theorem State.setWays_mem (s : State) (n : Nat) : (s.setWays n).mem = s.mem := by
  unfold State.setWays
  split <;> simp

@[simp] theorem State.hbmComplete_mem (s : State) : s.hbmComplete.mem = s.mem := by
  unfold State.hbmComplete
  dsimp only
  (repeat' split) <;> simp

@[simp] theorem State.revoke_mem (s : State) (lo hi : Nat) : (s.revoke lo hi).mem = s.mem := by simp [State.revoke]
@[simp] theorem State.dropLines_mem (s : State) (lo hi : Nat) : (s.dropLines lo hi).mem = s.mem := by simp [State.dropLines]
@[simp] theorem State.stopCopy_mem (s : State) (e : Eng) (x : CopyCmd) : (s.stopCopy e x).mem = s.mem := by simp [State.stopCopy]
@[simp] theorem State.stopGath_mem (s : State) (e : Eng) (x : GathCmd) : (s.stopGath e x).mem = s.mem := by simp [State.stopGath]

/-! ### VecOps -/

@[simp] theorem State.mapLanes_mem (s : State) (c : Ctl) (lat : Nat) (d : Fin 32) (f : Nat → Nat × Flags) :
    (s.mapLanes c lat d f).mem = s.mem := by simp [State.mapLanes]

@[simp] theorem State.mapPairs_mem (s : State) (c : Ctl) (d : Fin 32) (f : Nat → Nat × Flags) : (s.mapPairs c d f).mem = s.mem := by
  simp [State.mapPairs]

@[simp] theorem State.intOp_mem (s : State) (c : Ctl) (ty : Ty) (d a : Fin 32) (b : VOp) (f : Nat → Nat → Nat × Flags) :
    (s.intOp c ty d a b f).mem = s.mem := by
  unfold State.intOp
  split <;> simp

@[simp] theorem State.wholeOp_mem (s : State) (c : Ctl) (ty : Ty) (d : Fin 32) (f32 : Nat → Word32) (f64 : Nat → Word) :
    (s.wholeOp c ty d f32 f64).mem = s.mem := by
  unfold State.wholeOp
  split <;> simp

@[simp] theorem State.advanceGen_mem (s : State) (m : BitVec 1024) (n : Nat) : (s.advanceGen m n).mem = s.mem := rfl

@[simp] theorem State.roundLanes_mem (s : State) (c : Ctl) (mode : Rnd) (d : Fin 32) (n : Nat) (f : Nat → (Nat → Nat) → Nat × Flags) :
    (s.roundLanes c mode d n f).mem = s.mem := by
  unfold State.roundLanes
  split <;> simp

@[simp] theorem State.floatOp_mem (s : State) (c : Ctl) (ty : Ty) (rnd : Rnd) (sat : Bool) (d : Fin 32) (f : Rnd → Nat → Nat → Num × Bool) :
    (s.floatOp c ty rnd sat d f).mem = s.mem := by simp [State.floatOp]

/-! ### Tenants -/

@[simp] theorem State.stopVf_mem (s : State) (vf : Nat) : (s.stopVf vf).mem = s.mem := by simp [State.stopVf]
@[simp] theorem State.resumeVf_mem (s : State) (vf : Nat) : (s.resumeVf vf).mem = s.mem := by simp [State.resumeVf]
@[simp] theorem State.discardVf_mem (s : State) (vf : Nat) : (s.discardVf vf).mem = s.mem := by simp [State.discardVf]
@[simp] theorem State.releaseVf_mem (s : State) (vf : Nat) : (s.releaseVf vf).mem = s.mem := by simp [State.releaseVf]

@[simp] theorem State.importQueue_mem (s : State) (vf n : Nat) (fs : List Nat) : (s.importQueue vf n fs).mem = s.mem := by
  fun_induction State.importQueue s vf n fs with
  | case1 => simpa using ‹_›
  | case2 => rfl

@[simp] theorem State.importPosted_mem (s : State) (vf first n : Nat) (fs : List Nat) : (s.importPosted vf first n fs).1.mem = s.mem := by
  fun_induction State.importPosted s vf first n fs with
  | case1 => assumption
  | case2 => rfl

@[simp] theorem State.importLands_mem (s : State) (vf : Fin 64) (first n : Nat) (fs : List Nat) : (s.importLands vf first n fs).1.mem = s.mem := by
  fun_induction State.importLands s vf first n fs with
  | case1 => assumption
  | case2 => rfl

@[simp] theorem State.poolReset_mem (s : State) (vf : Nat) : (s.poolReset vf).mem = s.mem := rfl
@[simp] theorem State.hostRead_mem (s : State) (f : FnId) (off : Nat) : (s.hostRead f off).mem = s.mem := rfl

/-! ### Reliability -/

@[simp] theorem State.mapChange_mem (s : State) (leaf : Nat) : (s.mapChange leaf).mem = s.mem := by
  unfold State.mapChange
  split <;> simp

@[simp] theorem State.scanStart_mem (s : State) (c : Nat) : (s.scanStart c).mem = s.mem := by simp [State.scanStart]

@[simp] theorem State.scanAbort_mem (s : State) (c : Nat) : (s.scanAbort c).mem = s.mem := by
  unfold State.scanAbort
  split <;> rfl

@[simp] theorem State.guestPage_mem (s : State) (fn page : Nat) : (s.guestPage fn page).2.mem = s.mem := by
  unfold State.guestPage
  dsimp only
  (repeat' split) <;> simp

@[simp] theorem State.toPool_mem (s : State) (fn : Nat) (copy1 : Bool) (pages : List Nat) : (s.toPool fn copy1 pages).mem = s.mem := rfl

@[simp] theorem State.setWorld_mem (s : State) (u : WorldUnit) (b : Bool) : (s.setWorld u b).mem = s.mem := by
  unfold State.setWorld
  split <;> rfl

@[simp] theorem State.answer_mem (s : State) (req arg : Nat) (a : Line) : (s.answer req arg a).mem = s.mem := rfl
@[simp] theorem State.measurements_mem (s : State) (f : FnId) (cptr : Word) : (s.measurements f cptr).mem = s.mem := rfl

/-! ### Scalar -/

@[simp] theorem State.movDst_mem (s : State) (v : Word) (d : SM) : (s.movDst v d).mem = s.mem := by
  cases d <;> simp [State.movDst]

/-! ### System -/

@[simp] theorem State.freezeNow_mem (s : State) : s.freezeNow.mem = s.mem := rfl

/-! ### VecAxis -/

@[simp] theorem State.moveLanes_mem (s : State) (c : Ctl) (d : Fin 32) (f : Nat → Nat → Word32) : (s.moveLanes c d f).mem = s.mem := by
  simp [State.moveLanes]

@[simp] theorem State.reduceLanes_mem (s : State) (c : Ctl) (lat : Nat) (ty : Ty) (op : RedOp) (rnd : Rnd) (sat : Bool) (d : Fin 32)
    (into : Nat → Bool) (from_ : Nat → List Nat) : (s.reduceLanes c lat ty op rnd sat d into from_).mem = s.mem := by
  simp [State.reduceLanes]

@[simp] theorem State.sfuIssue_mem (s : State) (fn : SfuFn) (c : Ctl) (sec : Bool) (d a : Fin 32) : (s.sfuIssue fn c sec d a).mem = s.mem :=
  rfl

@[simp] theorem State.sfuBody_mem (s : State) (i : Instr) (fn : SfuFn) (c : Ctl) (d a : Fin 32) :
    (s.sfuBody i fn c d a).state.mem = s.mem := rfl

/-! ### VecFloat -/

@[simp] theorem State.pickLanes_mem (s : State) (c : Ctl) (wantMax : Bool) (d a : Fin 32) (b : VOp) :
    (s.pickLanes c wantMax d a b).mem = s.mem := by simp [State.pickLanes]

/-! ### Fetch -/

@[simp] theorem State.fetchTrap_mem (s : State) (t : Trap) : (s.fetchTrap t).mem = s.mem := by
  unfold State.fetchTrap
  split <;> simp

@[simp] theorem State.evictBlock_mem (s : State) (leaf : Nat) : (s.evictBlock leaf).mem = s.mem := by
  unfold State.evictBlock
  split <;> simp

@[simp] theorem State.mscStrike_mem (s : State) (a : Nat) : (s.mscStrike a).mem = s.mem := rfl

@[simp] theorem State.eventOf_mem (s : State) (i : Instr) : (s.eventOf i).state.mem = s.mem := by
  unfold State.eventOf
  split <;> rfl

@[simp] theorem State.stillAct_mem (s : State) (a : Act) : (s.stillAct a).state.mem = s.mem := by
  unfold State.stillAct
  split
  · split <;> rfl
  · simp
  · rfl

/-! ### Sched -/

@[simp] theorem State.tick_mem (s : State) (n : Nat) : (s.tick n).mem = s.mem := by
  unfold State.tick
  split <;> rfl

@[simp] theorem Todo.log_mem (a : Act) (t : Todo) : (t.log a).state.mem = t.state.mem := by cases t <;> rfl

end Sys2Proof.Machine
end

section
/-! What keeps memory canonical: one lemma per function of the model that may write bytes, by the files of the model. Every
write is a `Memory.write`, which keeps the form (`Memory.wf_write`). -/

namespace Sys2Proof.Machine

/-- A conditional keeps memory canonical where both branches do. -/
theorem State.ite_wf {p : Prop} [Decidable p] {s t : State} (hs : s.mem.wf = true) (ht : t.mem.wf = true) :
    (if p then s else t).mem.wf = true := by split <;> assumption

/-- A loop whose step keeps memory canonical keeps it so. -/
theorem foldl_wf {α : Type} {f : State → α → State} (hf : ∀ s x, s.mem.wf = true → (f s x).mem.wf = true) (l : List α) {s : State}
    (h : s.mem.wf = true) : (l.foldl f s).mem.wf = true := by
  induction l generalizing s with
  | nil => exact h
  | cons x l ih => exact ih (hf s x h)

/-- `foldl_wf` for `simp`, as `foldl_mem'`. -/
@[simp] theorem foldl_wf' {α : Type} {f : State → α → State} (hf : (∀ s x, s.mem.wf = true → (f s x).mem.wf = true) = True)
    (l : List α) {s : State} (h : s.mem.wf = true) : (l.foldl f s).mem.wf = true := foldl_wf (of_eq_true hf) l h

@[simp] theorem State.rawWrite_wf {s : State} (pa : Nat) (bs : List Byte) (h : s.mem.wf = true) : (s.rawWrite pa bs).mem.wf = true :=
  Memory.wf_write h _ _

@[simp] theorem State.writePhys_wf {s : State} (owner : BitVec 8) (a : Nat) (bs : List Byte) (sec : Bool) (h : s.mem.wf = true) :
    (s.writePhys owner a bs sec).mem.wf = true := Memory.wf_write h _ _

/-! ### Translate -/

@[simp] theorem State.setUnit_wf (s : State) (e : Ext) (u : Nat) (h : s.mem.wf = true) : (s.setUnit e u).mem.wf = true := by
  simp [State.setUnit, h]

@[simp] theorem State.setUnits_wf (s : State) (e : Ext) (a n : Nat) (h : s.mem.wf = true) : (s.setUnits e a n).mem.wf = true := by
  unfold State.setUnits
  dsimp only
  (repeat' split) <;> simp +contextual [h]

@[simp] theorem State.dirtied_wf (s : State) (a n : Nat) (h : s.mem.wf = true) : (s.dirtied a n).mem.wf = true := by
  simp +contextual [State.dirtied, h]

@[simp] theorem State.orLeaf_wf (s : State) (x : XCtx) (ea : Nat) (bits : Byte) (h : s.mem.wf = true) :
    (s.orLeaf x ea bits).mem.wf = true := by
  unfold State.orLeaf
  split <;> simp [h]

@[simp] theorem State.cachePage_wf (s : State) (x : XCtx) (va : Nat) (t : PageTry) (h : s.mem.wf = true) :
    (s.cachePage x va t).mem.wf = true := by
  unfold State.cachePage
  (repeat' split) <;> simp [h]

@[simp] theorem State.setD_wf (s : State) (x : XCtx) (t : PageTry) (h : s.mem.wf = true) : (s.setD x t).1.mem.wf = true := by
  unfold State.setD
  dsimp only
  (repeat' split) <;> simp [h]

@[simp] theorem State.commitPage_wf (s : State) (x : XCtx) (wr dirty : Bool) (va : Nat) (t : PageTry) (h : s.mem.wf = true) :
    (s.commitPage x wr dirty va t).1.mem.wf = true := by
  have hs : ((s.cachePage x va t).setD x t).1.mem.wf = true := by simp [h]
  unfold State.commitPage
  dsimp only
  split
  · exact State.ite_wf (State.dirtied_wf _ _ _ hs) hs
  · simp [h]

@[simp] theorem State.commitPages_wf (s : State) (x : XCtx) (wr dirty : Bool) (ps : List (Nat × Nat)) (ts : List PageTry) (h : s.mem.wf = true) :
    (s.commitPages x wr dirty ps ts).1.mem.wf = true := by
  fun_induction State.commitPages s x wr dirty ps ts with
  | case1 s a _ ps t ts r _ ih => exact ih (by simp [r, h])
  | case2 s a _ ps t ts r _ => simp [r, h]
  | case3 => exact h

@[simp] theorem State.translateOnce_wf (s : State) (x : XCtx) (wr fetch : Bool) (ptr : Word) (n : Nat) (h : s.mem.wf = true) :
    (s.translateOnce x wr fetch ptr n).state.mem.wf = true := by
  unfold State.translateOnce
  dsimp only
  (repeat' split) <;> simp [h]

@[simp] theorem State.translateN_wf (x : XCtx) (wr fetch : Bool) (ptr : Word) (n k : Nat) (s : State) (h : s.mem.wf = true) :
    (State.translateN x wr fetch ptr n k s).state.mem.wf = true := by
  induction k generalizing s with
  | zero => exact s.translateOnce_wf x wr fetch ptr n h
  | succ k ih =>
    have ha := s.translateOnce_wf x wr fetch ptr n h
    unfold State.translateN
    split
    next e => rw [e] at ha; exact ih _ ha
    · exact ha

@[simp] theorem State.translate_wf (s : State) (x : XCtx) (wr fetch : Bool) (ptr : Word) (n : Nat) (h : s.mem.wf = true) :
    (s.translate x wr fetch ptr n).state.mem.wf = true := by simp [State.translate, h]

/-! ### Mem -/

@[simp] theorem State.writeDirect_wf (s : State) (owner : BitVec 8) (a : Nat) (bs : List Byte) (h : s.mem.wf = true) :
    (s.writeDirect owner a bs).mem.wf = true := by simp [State.writeDirect, h]

@[simp] theorem State.ringWrite_wf (s : State) (fn : Nat) (bs : List Byte) (h : s.mem.wf = true) : (s.ringWrite fn bs).mem.wf = true := by
  simp [State.ringWrite, h]

@[simp] theorem State.postEvent_wf (s : State) (fn : Nat) (addr cptr : Word) (rank detail vf ty : Nat) (h : s.mem.wf = true) :
    (s.postEvent fn addr cptr rank detail vf ty).mem.wf = true := by
  unfold State.postEvent
  dsimp only
  (repeat' split) <;> simp [h]

@[simp] theorem State.flushHeld_wf (s : State) (fn : Nat) (h : s.mem.wf = true) : (s.flushHeld fn).mem.wf = true := by
  unfold State.flushHeld
  (repeat' split) <;> simp [h]

@[simp] theorem State.reportMiss_wf (s : State) (fn gpa : Nat) (launch : Option Nat) (rank : Nat) (remote : Option (BitVec 12 × BitVec 32))
    (h : s.mem.wf = true) : (s.reportMiss fn gpa launch rank remote).2.mem.wf = true := by
  unfold State.reportMiss
  split <;> simp [h]

@[simp] theorem State.raiseWrap_wf (s : State) (c n : Nat) (h : s.mem.wf = true) : (s.raiseWrap c n).mem.wf = true := by
  unfold State.raiseWrap
  dsimp only
  (repeat' split) <;> simp [h]

@[simp] theorem State.raiseWraps_wf (s : State) (c : Nat) (h : s.mem.wf = true) : (s.raiseWraps c).mem.wf = true := by
  simp +contextual [State.raiseWraps, h]

@[simp] theorem State.reportPoison_wf (s : State) (fn : Nat) (l : Launch) (c : Option Nat) (b : Nat) (h : s.mem.wf = true) :
    (s.reportPoison fn l c b).mem.wf = true := by
  unfold State.reportPoison
  dsimp only
  (repeat' split) <;> simp [h]

@[simp] theorem State.readBlock_wf (s : State) (fn : Nat) (l : Launch) (c : Option Nat) (b : Nat) (h : s.mem.wf = true) :
    (s.readBlock fn l c b).mem.wf = true := by
  unfold State.readBlock
  split <;> simp [h]

@[simp] theorem State.useLine_wf (s : State) (u : Use) (fn : Nat) (l : Launch) (c : Option Nat) (wr : Bool) (pa : Nat)
    (h : s.mem.wf = true) : (s.useLine u fn l c wr pa).mem.wf = true := by
  unfold State.useLine
  extract_lets line leaf ls st mine count reads one
  have hc : ∀ (t : State) b ev n, (count t b ev n).mem = t.mem := by
    intro t b ev n
    dsimp only [count]
    split
    · split <;> rfl
    · rfl
  have ho : ∀ t : State, t.mem.wf = true → (one t).mem.wf = true := by
    intro t ht
    dsimp only [one]
    split <;> simp [hc, ht]
  split
  · exact h
  · split
    · exact ho _ (by simpa using h)
    · split
      · rwa [hc]
      · split
        · exact ho _ (by rwa [hc])
        · split
          · exact ho _ (by rwa [hc])
          next e =>
            have ht := (congrArg Memory.wf ((State.fillBlock_mem e).trans (hc _ _ _ _))).trans h
            simp [hc, ht]

@[simp] theorem State.useLines_wf (s : State) (u : Use) (fn : Nat) (l : Launch) (c : Option Nat) (wr : Bool) (a n : Nat)
    (h : s.mem.wf = true) : (s.useLines u fn l c wr a n).mem.wf = true := by simp +contextual [State.useLines, h]

@[simp] theorem State.copyPage_wf (s : State) (owner : BitVec 8) (src dst : Nat) (h : s.mem.wf = true) :
    (s.copyPage owner src dst).mem.wf = true := by simp [State.copyPage, h]

theorem State.takeShadow_wf {s t : State} {l : Launch} {copy1 : Bool} {va pa n : Nat} (e : s.takeShadow l copy1 va pa n = some t)
    (h : s.mem.wf = true) : t.mem.wf = true := by
  unfold State.takeShadow at e
  dsimp only at e
  split at e
  · rw [← Option.some.inj e]; exact h
  · split at e
    · contradiction
    · rw [← Option.some.inj e]; simp [h]

@[simp] theorem State.readPieces_wf (s : State) (m : MCtx) (va : Nat) (ptr : Word) (ps : List Piece) (h : s.mem.wf = true) :
    (s.readPieces m va ptr ps).1.mem.wf = true := by
  induction ps generalizing s va ptr with
  | nil => exact h
  | cons p ps ih =>
    unfold State.readPieces
    refine ih _ _ _ ?_
    split <;> simp [h]

@[simp] theorem State.readGlobal_wf (s : State) (m : MCtx) (ptr : Word) (n : Nat) (h : s.mem.wf = true) :
    (s.readGlobal m ptr n).state.mem.wf = true := by
  have ha := s.translate_wf m.x false false ptr n h
  unfold State.readGlobal
  split <;> simp_all

theorem State.writePieces_wf {s t : State} {m : MCtx} {va : Nat} {sec : Bool} {ps : List Piece} {bs : List Byte}
    (e : s.writePieces m va sec ps bs = some t) (h : s.mem.wf = true) : t.mem.wf = true := by
  induction ps generalizing s va bs with
  | nil => rwa [← Option.some.inj e]
  | cons p ps ih =>
    unfold State.writePieces at e
    dsimp only at e
    split at e
    · exact ih e h
    · split at e
      · contradiction
      next u hu =>
        have hs : u.mem.wf = true := by
          split at hu
          · exact State.takeShadow_wf hu h
          · rwa [← Option.some.inj hu]
        refine ih e (State.writePhys_wf _ _ _ _ (State.useLines_wf _ _ _ _ _ _ _ _ ?_))
        split <;> simp [hs]

@[simp] theorem State.checkStore_wf (s : State) (m : MCtx) (ptr : Word) (n : Nat) (sec : Bool) (h : s.mem.wf = true) :
    (s.checkStore m ptr n sec).state.mem.wf = true := by
  have ha := s.translate_wf m.x true false ptr n h
  unfold State.checkStore
  split
  next e => rwa [e] at ha
  next e => rwa [e] at ha
  next e => rw [e] at ha; (repeat' split) <;> assumption

@[simp] theorem State.writeGlobal_wf (s : State) (m : MCtx) (ptr : Word) (bs : List Byte) (sec : Bool) (h : s.mem.wf = true) :
    (s.writeGlobal m ptr bs sec).state.mem.wf = true := by
  have ha := s.checkStore_wf m ptr bs.length sec h
  unfold State.writeGlobal
  split
  next e => rwa [e] at ha
  next e => rwa [e] at ha
  next e =>
    rw [e] at ha
    split
    next e => exact State.writePieces_wf e ha
    · simpa using ha

theorem State.atomGlobal_wf {s : State} {m : MCtx} {ty : Ty} {op : AtomOp} {va : Nat} {ptr : Word} {ps : List Piece} {v cmp : Word} {sec : Bool}
    {r : State × Got} (e : s.atomGlobal m ty op va ptr ps v cmp sec = some r) (h : s.mem.wf = true) : r.1.mem.wf = true := by
  have hr : ((s.noteAtoms ps).readPieces m va ptr ps).1.mem.wf = true := by simp [h]
  unfold State.atomGlobal at e
  dsimp only at e
  split at e
  · rwa [← Option.some.inj e]
  · split at e
    · rwa [← Option.some.inj e]
    · obtain ⟨t, ht, rfl⟩ := Option.map_eq_some_iff.1 e
      exact State.writePieces_wf ht hr

/-! ### Issue -/

theorem State.finish_wf {s s1 : State} {i : Instr} {c : Ctl} {u : RegUse} {e : Eff} (h : s1.mem.wf = true) (he : e.state.mem.wf = true) :
    (s.finish s1 i c u e).mem.wf = true := by
  cases e <;> dsimp only [Eff.state] at he <;> simp only [State.finish]
  case hold => split <;> simp [h, he]
  case trap => simp only [State.trapWith_mem]; split <;> simp [h, he]
  case report => simp only [State.reportWith_mem]; split <;> simp [h, he]
  all_goals simp [he]

theorem Acc.eff_wf {α : Type} {a : Acc α} {s : State} {k : State → α → Eff} (ha : a.state.mem.wf = true)
    (hk : ∀ t x, t.mem.wf = true → (k t x).state.mem.wf = true) : (a.eff s k).state.mem.wf = true := by
  cases a with
  | ok t x => exact hk t x ha
  | trap t tr => exact ha
  | miss t f g => exact State.reportMiss_wf t f g _ _ _ ha

/-! ### Memory -/

theorem State.load_wf {s : State} (c : Ctl) (u : RegUse) (ty : Ty) (acq : Bool) (ocl : BitVec 4) (scp : BitVec 3) (d : Fin 32) (p : Word)
    (h : s.mem.wf = true) : (s.load c u ty acq ocl scp d p).state.mem.wf = true := by
  unfold State.load
  dsimp only
  split
  · exact h
  · split
    · exact h
    · split
      · exact h
      · refine Acc.eff_wf (by simp [h]) fun t ps ht => ?_
        split <;> simp [h, ht]
    all_goals (repeat' split) <;> simp [h]

@[simp] theorem State.putPieces_wf (s : State) (m : MCtx) (p : Word) (sec : Bool) (ps : List Piece) (bs : List Byte) (h : s.mem.wf = true) :
    (s.putPieces m p sec ps bs).mem.wf = true := by
  unfold State.putPieces
  cases e : s.writePieces m (bf p 56 0) sec ps bs with
  | none => simpa using h
  | some t => exact State.writePieces_wf e h

theorem State.store_wf {s : State} (c : Ctl) (ty : Ty) (rel : Bool) (ocl : BitVec 4) (scp : BitVec 3) (p : Word) (v : Fin 32)
    (h : s.mem.wf = true) : (s.store c ty rel ocl scp p v).state.mem.wf = true := by
  unfold State.store
  dsimp only
  split
  · exact h
  · split
    · exact h
    · split
      · exact h
      · refine Acc.eff_wf (by simp [h]) fun t ps ht => ?_
        split <;> simp [h, ht]
    all_goals (repeat' split) <;> simp [h]

@[simp] theorem State.prefetch_wf (s : State) (m : MCtx) (p : Word) (len : Nat) (h : s.mem.wf = true) : (s.prefetch m p len).mem.wf = true := by
  unfold State.prefetch
  dsimp only
  split
  · exact h
  · split
    · simpa using h
    · split
      · simpa using h
      · refine foldl_wf (fun s x hs => ?_) _ (by simpa using h)
        (repeat' split) <;> simp [hs]

/-! ### Copy -/

@[simp] theorem State.readShape_wf (s : State) (c : Ctl) (sh : Option (Fin 32)) (h : s.mem.wf = true) : (s.readShape c sh).state.mem.wf = true := by
  unfold State.readShape
  split
  · exact h
  next r =>
    have ha := s.readGlobal_wf (s.mcur c) (s.rs r) 64 h
    dsimp only
    split
    · split
      · exact h
      · split
        next e => rwa [e] at ha
        next e => rwa [e] at ha
        next e => rw [e] at ha; split <;> exact ha
    · (repeat' split) <;> simp [h]

theorem State.copyIssue_wf {s : State} (c : Ctl) (dst src : TS) (b : SOp) (bar sh : Option (Fin 32)) (follow : Option Follow)
    (h : s.mem.wf = true) : (s.copyIssue c dst src b bar sh follow).state.mem.wf = true := by
  have ha := s.readShape_wf c sh h
  unfold State.copyIssue
  extract_lets k same n
  split
  · exact h
  · split
    · exact h
    · split
      · exact h
      · refine Acc.eff_wf ?_ fun t shape ht => ?_
        · split <;> simp_all
        · split
          · exact ht
          · split
            · exact ht
            · extract_lets x
              (repeat' split) <;> simp [ht]

/-! ### Adapter -/

@[simp] theorem State.attUse_wf (s : State) (wr : Bool) (a : Nat) (h : s.mem.wf = true) : (s.attUse wr a).mem.wf = true := by
  simp [State.attUse, h]

@[simp] theorem State.attWrite_wf (s : State) (a : Nat) (bs : List Byte) (h : s.mem.wf = true) : (s.attWrite a bs).mem.wf = true := by
  simp [State.attWrite, h]

@[simp] theorem State.spendQuota_wf (s : State) (n : Nat) (e : Line) (h : s.mem.wf = true) : (s.spendQuota n e).mem.wf = true := by
  unfold State.spendQuota
  split <;> simp [h]

@[simp] theorem State.poisonPage_wf (s : State) (f : AFetch) (o : PageOutcome) (h : s.mem.wf = true) : (s.poisonPage f o).mem.wf = true := by
  unfold State.poisonPage
  dsimp only
  (repeat' split) <;> simp [h]

@[simp] theorem State.pageArrive_wf (s : State) (n : BitVec 20) (v : BitVec 16) (pageB : Bool) (o : PageOutcome) (h : s.mem.wf = true) :
    (s.pageArrive n v pageB o).mem.wf = true := by
  unfold State.pageArrive
  split
  · exact h
  next f _ =>
    dsimp only
    split
    · simp [h]
    · simp only [foldl_mem', State.pageFails_mem, implies_true]
      (repeat' split) <;> simp [h]

/-! ### Control -/

@[simp] theorem State.tailLaunch_wf (s : State) (h : s.mem.wf = true) : s.tailLaunch.mem.wf = true := by
  simp +contextual [State.tailLaunch, h]

/-! ### Engines -/

@[simp] theorem State.engReadAt_wf (s : State) (e : Eng) (m : MCtx) (p : Word) (n i k : Nat) (h : s.mem.wf = true) :
    (s.engReadAt e m p n i k).state.mem.wf = true := by
  have ha := s.readGlobal_wf m (p + wd i) k h
  unfold State.engReadAt
  split
  · exact h
  · split
    next e => rwa [e] at ha
    next e => rwa [e] at ha
    next e => rw [e] at ha; split <;> exact ha
  · dsimp only
    split <;> simp [h]

@[simp] theorem State.engRead_wf (s : State) (e : Eng) (m : MCtx) (p : Word) (n : Nat) (h : s.mem.wf = true) :
    (s.engRead e m p n).state.mem.wf = true := s.engReadAt_wf e m p n 0 n h

@[simp] theorem State.engWriteAt_wf (s : State) (e : Eng) (m : MCtx) (w : EngineWrite) (p : Word) (n i : Nat) (bs : List Byte) (sec : Bool)
    (h : s.mem.wf = true) : (s.engWriteAt e m w p n i bs sec).state.mem.wf = true := by
  have ha := s.writeGlobal_wf m (p + wd i) bs sec h
  unfold State.engWriteAt
  split
  · exact h
  · split
    next e => rw [e] at ha; simpa using ha
    · exact ha
  · split <;> simp [h]

@[simp] theorem State.partWrite_wf (s : State) (e : Eng) (m : MCtx) (w : EngineWrite) (x : Part) (bs : List Byte) (h : s.mem.wf = true) :
    (s.partWrite e m w x bs).state.mem.wf = true := by
  have ha := s.engWriteAt_wf e m w x.dst bs.length x.done ((bs.drop x.done).take (pieceOf x.dst x.done bs.length)) x.sec h
  unfold State.partWrite
  dsimp only
  split <;> simp_all

@[simp] theorem State.movePart_wf (s : State) (e : Eng) (m : MCtx) (w : EngineWrite) (gather : Bool) (fmts : Vector Word 16) (b : Nat) (x : Part)
    (h : s.mem.wf = true) : (s.movePart e m w gather fmts b x).state.mem.wf = true := by
  have ha := s.engReadAt_wf e m x.src b x.got.length (pieceOf x.src x.got.length b) h
  unfold State.movePart
  split
  · simp [h]
  · dsimp only
    split
    next e => rwa [e] at ha
    next e => rwa [e] at ha
    next e => rw [e] at ha; split <;> simp_all

@[simp] theorem State.copyDo_wf (s : State) (e : Eng) (x : CopyCmd) (h : s.mem.wf = true) : (s.copyDo e x).state.mem.wf = true := by
  unfold State.copyDo
  dsimp only
  (repeat' split) <;> simp [h]

@[simp] theorem State.copyBlock_wf (s : State) (c : Nat) (h : s.mem.wf = true) : (s.copyBlock c).mem.wf = true := by
  unfold State.copyBlock
  split
  · exact h
  next e x _ =>
    have ha := s.copyDo_wf e x h
    split
    · exact h
    · split
      all_goals next e => rw [e] at ha; (repeat' split) <;> simp_all

@[simp] theorem State.gathDo_wf (s : State) (e : Eng) (x : GathCmd) (h : s.mem.wf = true) : (s.gathDo e x).state.mem.wf = true := by
  have ha := s.engRead_wf e (e.ctx s x.user x.hint) (ownPtr (x.idxOff + 4 * x.row)) 4 h
  unfold State.gathDo
  dsimp only
  split
  · simp [h]
  · split
    next e => rwa [e] at ha
    next e => rwa [e] at ha
    next e => rw [e] at ha; split <;> simp_all

@[simp] theorem State.gathRow_wf (s : State) (c : Nat) (h : s.mem.wf = true) : (s.gathRow c).mem.wf = true := by
  unfold State.gathRow
  split
  · exact h
  next e x _ =>
    have ha := s.gathDo_wf e x h
    split
    · exact h
    · split
      · simp [h]
      · split
        all_goals next e => rw [e] at ha; (repeat' split) <;> simp_all

/-! ### Save -/

@[simp] theorem State.putImage_wf (s : State) (base c slot : Nat) (h : s.mem.wf = true) : (s.putImage base c slot).mem.wf = true := by
  unfold State.putImage
  dsimp only
  refine State.writeDirect_wf _ _ _ _ (State.writeDirect_wf _ _ _ _ ?_)
  refine foldl_wf (fun s x hs => by simp [hs]) _ (foldl_wf (fun s x hs => by simp [hs]) _ (foldl_wf (fun s x hs => by simp [hs]) _ ?_))
  simp [h]

@[simp] theorem State.imageError_wf (s : State) (a path : Nat) (cause : BitVec 8) (boff : Nat) (addr : Word) (h : s.mem.wf = true) :
    (s.imageError a path cause boff addr).mem.wf = true := by
  unfold State.imageError
  split <;> simp [h]

@[simp] theorem State.updBarOf_wf (s : State) (l : Launch) (c path off : Nat) (f : Bar → Bar × Bool) (h : s.mem.wf = true) :
    (s.updBarOf l c path off f).mem.wf = true := by
  unfold State.updBarOf
  (repeat' split) <;> simp [h]

@[simp] theorem State.countOf_wf (s : State) (l : Launch) (c path : Nat) (bar : Option Nat) (n : Nat) (h : s.mem.wf = true) :
    (s.countOf l c path bar n).mem.wf = true := by
  unfold State.countOf
  split <;> simp [h]

@[simp] theorem State.errorOf_wf (s : State) (l : Launch) (c path : Nat) (cause : BitVec 8) (bar : Option Nat) (addr : Word)
    (h : s.mem.wf = true) : (s.errorOf l c path cause bar addr).mem.wf = true := by
  unfold State.errorOf
  (repeat' split) <;> simp [h]

/-! ### Fabric -/

@[simp] theorem State.recordFerr_wf (s : State) (x : Inflight) (w : Word) (h : s.mem.wf = true) : (s.recordFerr x w).mem.wf = true := by
  unfold State.recordFerr
  (repeat' split) <;> simp [h]

@[simp] theorem State.failRead_wf (s : State) (x : Inflight) (w : Word) (h : s.mem.wf = true) : (s.failRead x w).mem.wf = true := by
  unfold State.failRead
  (repeat' split) <;> simp [h]

@[simp] theorem State.settleBar_wf (s : State) (x : Inflight) (failed : Option (BitVec 8)) (sectors : Nat) (h : s.mem.wf = true) :
    (s.settleBar x failed sectors).mem.wf = true := by
  unfold State.settleBar
  dsimp only
  (repeat' split) <;> simp [h]

@[simp] theorem State.failOp_wf (s : State) (x : Inflight) (out : Bool) (tc cause : BitVec 8) (h : s.mem.wf = true) :
    (s.failOp x out tc cause).mem.wf = true := by
  unfold State.failOp
  split <;> simp [h]

@[simp] theorem State.giveValue_wf (s : State) (x : Inflight) (v : Word) (sec : Bool) (h : s.mem.wf = true) :
    (s.giveValue x v sec).mem.wf = true := by
  unfold State.giveValue
  split
  · split <;> simp [h]
  · split
    next a _ =>
      extract_lets u word t unit w z
      have ht : t.mem.wf = true := State.ite_wf h (by simp [h])
      have hw : w.mem.wf = true := State.ite_wf (by simp [ht]) ht
      simp [z, hw]
    · exact h

theorem State.serveOn_wf {s : State} {p : RemoteOp} {wr : Bool} {k : State → List Piece → Served} (h : s.mem.wf = true)
    (hk : ∀ t ps, t.mem.wf = true → (k t ps).state.mem.wf = true) : (s.serveOn p wr k).state.mem.wf = true := by
  unfold State.serveOn
  extract_lets n go
  have hgo : ∀ a : Acc (List Piece), a.state.mem.wf = true → (go a).state.mem.wf = true := by
    intro a ha
    cases a with
    | trap t tr => exact ha
    | miss t f g => exact ha
    | ok t ps =>
      dsimp only [go]
      split
      · exact ha
      · exact hk t ps ha
  split
  · exact hgo _ (s.checkStore_wf _ _ _ _ h)
  · exact hgo _ (s.translate_wf _ _ _ _ _ h)

@[simp] theorem State.putRemote_wf (s : State) (p : RemoteOp) (ps : List Piece) (bs : List Byte) (h : s.mem.wf = true) :
    (s.putRemote p ps bs).mem.wf = true := by
  unfold State.putRemote
  cases e : s.writePieces (s.remCtx p) (bf p.addr 56 0) p.sec ps bs with
  | none => exact h
  | some t => exact State.writePieces_wf e h

@[simp] theorem State.serveRld_wf (s : State) (p : RemoteOp) (h : s.mem.wf = true) : (s.serveRld p).state.mem.wf = true := by
  refine State.serveOn_wf h fun t ps ht => ?_
  dsimp only
  split <;> simp [ht]

@[simp] theorem State.serveRst_wf (s : State) (p : RemoteOp) (h : s.mem.wf = true) : (s.serveRst p).state.mem.wf = true := by
  refine State.serveOn_wf h fun t ps ht => ?_
  dsimp only
  split
  · split <;> simp [ht]
  · simp [ht]

@[simp] theorem State.serveRatom_wf (s : State) (p : RemoteOp) (h : s.mem.wf = true) : (s.serveRatom p).state.mem.wf = true := by
  refine State.serveOn_wf h fun t ps ht => ?_
  split
  · exact ht
  next e =>
    have hr := State.atomGlobal_wf e ht
    split <;> simp [hr]

theorem State.msopStore_wf {s : State} {p : RemoteOp} {a : Word} {n : Nat} {k : State → List Piece → Served} (h : s.mem.wf = true)
    (hk : ∀ t ps, t.mem.wf = true → (k t ps).state.mem.wf = true) : (s.msopStore p a n k).state.mem.wf = true := by
  have ha := s.checkStore_wf (s.remCtx p) a n p.sec h
  unfold State.msopStore
  split
  next e => rw [e] at ha; simpa using ha
  next e => rwa [e] at ha
  next e => rw [e] at ha; exact hk _ _ ha

theorem State.msopRead_wf {s : State} {p : RemoteOp} {a : Word} {n : Nat} {wr : Bool} {k : State → List Piece → Got → Served}
    (h : s.mem.wf = true) (hk : ∀ t ps got, t.mem.wf = true → (k t ps got).state.mem.wf = true) :
    (s.msopRead p a n wr k).state.mem.wf = true := by
  have ha := s.translate_wf (s.remCtx p).x false false a n h
  unfold State.msopRead
  extract_lets go
  have hgo : ∀ (t : State) (ps : List Piece), t.mem.wf = true → (go t ps).state.mem.wf = true := by
    intro t ps ht
    dsimp only [go]
    split
    · simp [ht]
    · exact hk _ _ _ (by simp [ht])
  split
  · exact State.msopStore_wf h fun t ps ht => hgo _ _ (by simp [ht])
  · split
    next e => rw [e] at ha; simpa using ha
    next e => rwa [e] at ha
    next e => rw [e] at ha; exact hgo _ _ ha

@[simp] theorem State.msopPut_wf (s : State) (p : RemoteOp) (a : Word) (ps : List Piece) (bs : List Byte) (h : s.mem.wf = true) :
    (s.msopPut p a ps bs).mem.wf = true := by
  unfold State.msopPut
  cases e : s.writePieces (s.remCtx p) (bf a 56 0) p.sec ps bs with
  | none => exact h
  | some t => exact State.writePieces_wf e h

@[simp] theorem State.msopGlobal_wf (s : State) (a : Word) (k : Served) (h : s.mem.wf = true) (hk : k.state.mem.wf = true) :
    (s.msopGlobal a k).state.mem.wf = true := by
  unfold State.msopGlobal
  split
  · simp [h]
  · exact hk

@[simp] theorem State.msopCas_wf (s : State) (p : RemoteOp) (n : Nat) (h : s.mem.wf = true) : (s.msopCas p n).state.mem.wf = true := by
  unfold State.msopCas
  refine State.msopRead_wf h fun t ps got ht => ?_
  dsimp only
  split <;> simp [ht]

@[simp] theorem State.msopEnqueue_wf (s : State) (p : RemoteOp) (h : s.mem.wf = true) : (s.msopEnqueue p).state.mem.wf = true := by
  refine State.msopStore_wf h fun s hp hs => State.msopRead_wf hs fun t tp got ht => ?_
  refine State.msopGlobal_wf _ _ _ ht (State.msopStore_wf ht fun t np ht => ?_)
  dsimp only
  split
  · simp [ht]
  · refine State.msopGlobal_wf _ _ _ ht (State.msopStore_wf ht fun t op ht => ?_)
    rw [Served.state_done, State.resultBlock_mem]
    exact State.msopPut_wf _ _ _ _ _ (State.msopPut_wf _ _ _ _ _ (State.msopPut_wf _ _ _ _ _ ht))

@[simp] theorem State.msopChase_wf (s : State) (p : RemoteOp) (o n : Nat) (a : Word) (out : List Byte) (sec : Bool) (h : s.mem.wf = true) :
    (s.msopChase p o n a out sec).state.mem.wf = true := by
  induction n using Nat.strongRecOn generalizing s a out sec with
  | _ n ih =>
    cases n with
    | zero => simp [State.msopChase, h]
    | succ n =>
      unfold State.msopChase
      refine State.msopGlobal_wf _ _ _ h (State.msopRead_wf h fun t _ got ht => ?_)
      dsimp only
      split
      · exact ih 0 (by omega) t _ _ _ ht
      · exact ih n (by omega) t _ _ _ ht

@[simp] theorem State.msopAdd_wf (s : State) (p : RemoteOp) (h : s.mem.wf = true) : (s.msopAdd p).state.mem.wf = true :=
  State.msopRead_wf h fun t ps got ht => by simp [ht]

@[simp] theorem State.msopMicro_wf (s : State) (p : RemoteOp) (h : s.mem.wf = true) : (s.msopMicro p).state.mem.wf = true := by
  unfold State.msopMicro
  dsimp only
  split
  · simp [h]
  · split
    · simp [h]
    · exact State.msopRead_wf (by simp [h]) fun t ps got ht => by simp [ht]

@[simp] theorem State.serveMsop_wf (s : State) (p : RemoteOp) (h : s.mem.wf = true) : (s.serveMsop p).state.mem.wf = true := by
  unfold State.serveMsop
  split <;> simp [h]

@[simp] theorem State.serve_wf (s : State) (p : RemoteOp) (h : s.mem.wf = true) : (s.serve p).state.mem.wf = true := by
  unfold State.serve
  split <;> simp [h]

@[simp] theorem State.performOp_wf (s : State) (p : RemoteOp) (missed : Bool) (h : s.mem.wf = true) :
    (s.performOp p missed).mem.wf = true := by
  have ha := s.serve_wf p h
  unfold State.performOp
  split
  all_goals next e => rw [e] at ha; simp_all

@[simp] theorem State.opArrive_wf (s : State) (p : RemoteOp) (h : s.mem.wf = true) : (s.opArrive p).mem.wf = true := by
  unfold State.opArrive
  dsimp only
  (repeat' split) <;> simp [h]

@[simp] theorem State.ackTo_wf (s : State) (x : Inflight) (a : RemoteAck) (h : s.mem.wf = true) : (s.ackTo x a).mem.wf = true := by
  unfold State.ackTo
  (repeat' split) <;> simp [h]

@[simp] theorem State.ackMsg_wf (s : State) (x : Inflight) (a : RemoteAck) (h : s.mem.wf = true) : (s.ackMsg x a).mem.wf = true := by
  unfold State.ackMsg
  (repeat' split) <;> simp [h]

@[simp] theorem State.ackArrive_wf (s : State) (a : RemoteAck) (h : s.mem.wf = true) : (s.ackArrive a).mem.wf = true := by
  unfold State.ackArrive
  dsimp only
  (repeat' split) <;> simp [h]

@[simp] theorem State.opTimeout_wf (s : State) (n : Nat) (h : s.mem.wf = true) : (s.opTimeout n).mem.wf = true := by
  unfold State.opTimeout
  (repeat' split) <;> simp [h]

@[simp] theorem State.msopDone_wf (s : State) (n : Nat) (h : s.mem.wf = true) : (s.msopDone n).mem.wf = true := by
  unfold State.msopDone
  split
  · exact h
  next x _ =>
    split
    · exact h
    · extract_lets la bs status t
      have ht : t.mem.wf = true := by simp [t, h]
      split
      · simp [ht]
      · split
        · exact h
        next u e =>
          have hu : u.mem.wf = true := by
            split at e
            · rw [← Option.some.inj e]; simp [ht]
            · rwa [State.land_mem e]
          split <;> simp [hu]

/-! ### Retriever -/

@[simp] theorem State.tileOn_wf (s : State) (l : Launch) (c : Nat) (t : Fin 32) (st : TileState) (h : s.mem.wf = true) :
    (s.tileOn l c t st).mem.wf = true := by
  unfold State.tileOn
  split <;> simp [h]

@[simp] theorem State.putIn_wf (s : State) (l : Launch) (c off : Nat) (bs : List Byte) (sec : Bool) (h : s.mem.wf = true) :
    (s.putIn l c off bs sec).mem.wf = true := by
  unfold State.putIn
  dsimp only
  (repeat' split) <;> simp +contextual [h]

@[simp] theorem State.writeStatus_wf (s : State) (l : Launch) (c : Nat) (user : Bool) (w : EngineWrite) (desc v : Word) (h : s.mem.wf = true) :
    (s.writeStatus l c user w desc v).state.mem.wf = true := by
  have ha := s.writeGlobal_wf (s.recvCtx l c user) (desc + 32) (wordBytes v) false h
  unfold State.writeStatus
  dsimp only
  split
  · split
    next e => rw [e] at ha; simpa using ha
    · exact ha
  · split
    · simp [h]
    · cases e : s.land l.owner c (bf desc 20 0 + 32) ⟨wordBytes v, false, []⟩ with
      | none => exact h
      | some t => simpa [State.land_mem e] using h

@[simp] theorem State.recvDone_wf (s : State) (l : Launch) (c : Nat) (body : Line) (h : s.mem.wf = true) :
    (s.recvDone l c body).mem.wf = true := by
  unfold State.recvDone
  split <;> simp [h]

@[simp] theorem State.landFail_wf (s : State) (l : Launch) (c : Nat) (x : Landing) (t : Trap) (h : s.mem.wf = true) :
    (s.landFail l c x t).1.mem.wf = true := by simp [State.landFail, h]

@[simp] theorem State.landPart_wf (s : State) (l : Launch) (c : Nat) (x : Landing) (h : s.mem.wf = true) : (s.landPart l c x).1.mem.wf = true := by
  unfold State.landPart
  extract_lets rest
  split
  · extract_lets n bs
    split
    · simp [h]
    · split
      · simp [h]
      · split
        next e => simpa [State.land_mem e] using h
        · exact h
  · have ha := fun p bs => s.writeGlobal_wf (s.recvCtx l c x.user) p bs x.msg.sec h
    split
    all_goals next e =>
      have ht := congrArg Acc.state e ▸ ha _ _
      dsimp only [Acc.state] at ht
      simp [ht]

@[simp] theorem State.landParts_wf (s : State) (l : Launch) (c n : Nat) (x : Landing) (h : s.mem.wf = true) :
    (s.landParts l c n x).1.mem.wf = true := by
  induction n generalizing s x with
  | zero => exact h
  | succ n ih =>
    have hp := s.landPart_wf l c x h
    unfold State.landParts
    split
    · exact h
    · dsimp only
      split
      · exact hp
      · exact ih _ _ hp

@[simp] theorem State.landEnd_wf (s : State) (l : Launch) (c : Nat) (x : Landing) (h : s.mem.wf = true) :
    (s.landEnd l c x).1.mem.wf = true := by
  have ha := s.writeStatus_wf l c x.user (x.write l c) x.desc (msgStatus x.msg) h
  unfold State.landEnd
  extract_lets long
  split
  · exact h
  · split
    next e => rw [e] at ha; simp_all
    next a _ =>
      extract_lets u v w
      have hu : u.mem.wf = true := by
        dsimp only [u]
        split
        all_goals next e => rw [e] at ha; simp_all
      have hv : v.mem.wf = true := by
        dsimp only [v]
        split <;> simp [hu]
      split <;> simp [w, hv]

@[simp] theorem State.landRun_wf (s : State) (c : Nat) (h : s.mem.wf = true) : (s.landRun c).mem.wf = true := by
  unfold State.landRun
  split
  · exact h
  next x _ _ =>
    split
    · exact h
    · extract_lets l b r e
      have hr : r.1.mem.wf = true := State.landParts_wf _ _ _ _ _ (by simp [b, h])
      have he : e.1.mem.wf = true := by
        dsimp only [e]
        split
        · exact State.landEnd_wf _ _ _ _ hr
        · exact hr
      rwa [State.modCore_mem]

@[simp] theorem State.putPayload_wf (s : State) (fn : Nat) (ps : List (Nat × Nat)) (bs : List Byte) (h : s.mem.wf = true) :
    (s.putPayload fn ps bs).mem.wf = true := by
  induction ps generalizing s bs with
  | nil => exact h
  | cons p ps ih => exact ih _ _ (by simp [h])

@[simp] theorem State.queueMessage_wf (s : State) (m : Message) (fn : Nat) (h : s.mem.wf = true) : (s.queueMessage m fn).mem.wf = true := by
  simp [State.queueMessage, h]

@[simp] theorem State.payloadUse_wf (s : State) (u : Unexp) (h : s.mem.wf = true) : (s.payloadUse u).mem.wf = true :=
  foldl_wf (fun s p hs => foldl_wf (fun s b hs => by simp [hs]) _ (by simp [hs])) _ h

@[simp] theorem State.landQueued_wf (s : State) (p : Posted) (u : Unexp) (h : s.mem.wf = true) : (s.landQueued p u).mem.wf = true := by
  unfold State.landQueued
  dsimp only
  split <;> simp [h]

@[simp] theorem State.retrArrive_wf (s : State) (m : Message) (h : s.mem.wf = true) : (s.retrArrive m).mem.wf = true := by
  unfold State.retrArrive
  (repeat' split) <;> simp [h]

@[simp] theorem State.msgArrive_wf (s : State) (m : Message) (h : s.mem.wf = true) : (s.msgArrive m).mem.wf = true := by
  unfold State.msgArrive
  (repeat' split) <;> simp [h]

@[simp] theorem State.payload_wf (s : State) (x : Inflight) (h : s.mem.wf = true) : (s.payload x).state.mem.wf = true := by
  unfold State.payload
  split <;> simp [h]

@[simp] theorem State.readPayload_wf (s : State) (x : Inflight) (m : Message) (h : s.mem.wf = true) : (s.readPayload x m).mem.wf = true := by
  have ha := s.payload_wf x h
  unfold State.readPayload
  dsimp only
  split
  next e => rw [e] at ha; simp_all
  next e =>
    rw [e] at ha
    dsimp only [Acc.state] at ha
    split
    · simp [ha]
    · split <;> simp [ha]
  next e => rw [e] at ha; simp_all

theorem State.payloadRolls_wf {s : State} {x : Inflight} {r : State × Trap} (e : s.payloadRolls x = some r) (h : s.mem.wf = true) :
    r.1.mem.wf = true := by
  have ha := s.payload_wf x h
  unfold State.payloadRolls at e
  split at e
  next e' =>
    rw [e'] at ha
    split at e
    · obtain ⟨ph, -, rfl⟩ := Option.map_eq_some_iff.1 e
      exact ha
    · contradiction
  · contradiction

@[simp] theorem State.trySend_wf (s : State) (x : Inflight) (h : s.mem.wf = true) : (s.trySend x).mem.wf = true := by
  unfold State.trySend
  (repeat' split) <;> simp [h]

@[simp] theorem State.msgTimeout_wf (s : State) (n : Nat) (h : s.mem.wf = true) : (s.msgTimeout n).mem.wf = true := by
  unfold State.msgTimeout
  (repeat' split) <;> simp [h]

@[simp] theorem State.readDesc_wf (s : State) (c : Ctl) (p : Word) (h : s.mem.wf = true) : (s.readDesc c p).state.mem.wf = true := by
  unfold State.readDesc
  extract_lets chk
  have hchk : ∀ a : Acc Got, a.state.mem.wf = true → (chk a).state.mem.wf = true := by
    intro a ha
    cases a with
    | ok t got => dsimp only [chk]; split <;> exact ha
    | trap t tr => exact ha
    | miss t f g => exact ha
  split
  · split
    · exact h
    · exact hchk _ (s.readGlobal_wf _ _ _ h)
  · split
    · exact h
    · exact hchk (.ok _ _) (by simpa using h)

@[simp] theorem State.queuedUse_wf (s : State) (l : Line) (h : s.mem.wf = true) : (s.queuedUse l).mem.wf = true := by
  unfold State.queuedUse
  split <;> simp [h]

@[simp] theorem State.postReceive_wf (s : State) (p : Word) (l : Line) (e : Nat) (g : BitVec 16) (h : s.mem.wf = true) :
    (s.postReceive p l e g).mem.wf = true := by
  unfold State.postReceive
  extract_lets fn r u
  have hu : u.mem.wf = true := by
    dsimp only [u]
    split <;> simp [h]
  split <;> simp [hu]

/-! ### Launch -/

@[simp] theorem State.recordEvent_wf (s : State) (l : Launch) (h : s.mem.wf = true) : (s.recordEvent l).mem.wf = true := by
  simp [State.recordEvent, h]

@[simp] theorem State.writeRecord_wf (s : State) (l : Launch) (h : s.mem.wf = true) : (s.writeRecord l).mem.wf = true := by
  have ha := s.checkStore_wf (s.launchMem l) l.cptr 16 false h
  unfold State.writeRecord
  split
  · simp [h]
  · split
    next e => rw [e] at ha; simp_all
    next e => rw [e] at ha; simp_all
    next t ps e =>
      rw [e] at ha
      split
      · simp [h]
      · cases ew : t.writePieces (s.launchMem l) (bf l.cptr 56 0) false ps (t.completion l) with
        | none => simpa using ha
        | some u => simpa using State.writePieces_wf ew ha

@[simp] theorem State.finishLaunch_wf (s : State) (id : Nat) (h : s.mem.wf = true) : (s.finishLaunch id).mem.wf = true := by
  unfold State.finishLaunch
  split
  · exact h
  · extract_lets late t u l
    have ht : t.mem.wf = true := by
      dsimp only [t]
      split <;> simp [h]
    have hu : u.mem.wf = true := by
      dsimp only [u]
      split <;> simp [ht]
    simp [hu]

@[simp] theorem State.complete_wf (s : State) (id : Nat) (st : Status) (detail : BitVec 8) (h : s.mem.wf = true) :
    (s.complete id st detail).mem.wf = true := by simp [State.complete, h]

@[simp] theorem State.endAny_wf (s : State) (l : Launch) (st : Status) (detail : BitVec 8) (frank : Nat) (h : s.mem.wf = true) :
    (s.endAny l st detail frank).mem.wf = true := by
  unfold State.endAny
  split <;> simp [h]

@[simp] theorem State.killLaunch_wf (s : State) (fn : Nat) (cptr : Word) (h : s.mem.wf = true) : (s.killLaunch fn cptr).mem.wf = true := by
  unfold State.killLaunch
  dsimp only
  split <;> simp [h]

@[simp] theorem State.argBlock_wf (s : State) (l : Launch) (h : s.mem.wf = true) : (s.argBlock l).state.mem.wf = true := by
  have ha := s.readGlobal_wf (s.launchMem l) l.argp (8 * l.ntile + 4 * l.apcnt) h
  unfold State.argBlock
  dsimp only
  split
  · exact h
  · split
    · exact h
    · split
      next e => rwa [e] at ha
      next e => rwa [e] at ha
      next e => rw [e] at ha; split <;> exact ha

@[simp] theorem State.checkRecord_wf (s : State) (l : Launch) (h : s.mem.wf = true) : (s.checkRecord l).mem.wf = true := by
  unfold State.checkRecord
  dsimp only
  (repeat' split) <;> simp [h]

@[simp] theorem State.admitRecord_wf (s : State) (id : Nat) (h : s.mem.wf = true) : (s.admitRecord id).mem.wf = true := by
  unfold State.admitRecord
  split
  · exact h
  · extract_lets l
    have ha := s.argBlock_wf l h
    split
    · exact h
    · split
      · simp [h]
      · split
        next e => rw [e] at ha; simp_all
        next e => rw [e] at ha; simp_all
        next e =>
          rw [e] at ha
          dsimp only [Acc.state] at ha
          dsimp only
          split <;> simp [ha]

@[simp] theorem State.startAt_wf (s : State) (l : Launch) (o : Nat × Nat) (h : s.mem.wf = true) : (s.startAt l o).mem.wf = true := by
  have ha : (s.measured l).state.mem.wf = true := by simp [h]
  unfold State.startAt
  split
  all_goals next e => rw [e] at ha; simp_all

@[simp] theorem State.takePlace_wf (s : State) (l : Launch) (o : Nat × Nat) (h : s.mem.wf = true) : (s.takePlace l o).mem.wf = true := by
  unfold State.takePlace
  split <;> simp [h]

@[simp] theorem State.place_wf (s : State) (leaf : Nat) (h : s.mem.wf = true) : (s.place leaf).mem.wf = true := by
  unfold State.place
  (repeat' split) <;> simp [h]

@[simp] theorem State.releaseCores_wf (s : State) (l : Launch) (h : s.mem.wf = true) : (s.releaseCores l).mem.wf = true := by
  simp +contextual [State.releaseCores, h]

@[simp] theorem State.saveCore_wf (s : State) (c : Nat) (h : s.mem.wf = true) : (s.saveCore c).mem.wf = true := by
  unfold State.saveCore
  dsimp only
  (repeat' split) <;> simp [h]

@[simp] theorem State.drainDone_wf (s : State) (id : Nat) (h : s.mem.wf = true) : (s.drainDone id).mem.wf = true := by
  unfold State.drainDone
  (repeat' split) <;> simp [h]

@[simp] theorem State.trackerDone_wf (s : State) (id : Nat) (h : s.mem.wf = true) : (s.trackerDone id).mem.wf = true := by
  unfold State.trackerDone
  (repeat' split) <;> simp [h]

/-! ### MemSys -/

@[simp] theorem State.missRetry_wf (s : State) (id : Nat) (h : s.mem.wf = true) : (s.missRetry id).mem.wf = true := by
  unfold State.missRetry
  dsimp only
  split
  · exact h
  · exact foldl_wf (fun s l hs => by simp [hs]) _ (foldl_wf (fun s w hs => by simp [hs]) _ (by simp [h]))

@[simp] theorem State.abortLaunch_wf (s : State) (l : Launch) (id rank : Nat) (h : s.mem.wf = true) :
    (s.abortLaunch l id rank).mem.wf = true := by
  unfold State.abortLaunch
  (repeat' split) <;> simp [h]

@[simp] theorem State.missAbort_wf (s : State) (id : Nat) (h : s.mem.wf = true) : (s.missAbort id).mem.wf = true := by
  unfold State.missAbort
  split
  · exact h
  · dsimp only
    (repeat' split) <;> simp [h]

@[simp] theorem State.fetchesDone_wf (s : State) (lo hi : Nat) (h : s.mem.wf = true) : (s.fetchesDone lo hi).mem.wf = true := by
  simp +contextual [State.fetchesDone, h]

@[simp] theorem State.cxlRelease_wf (s : State) (lo hi : Nat) (h : s.mem.wf = true) : (s.cxlRelease lo hi).mem.wf = true := by
  simp [State.cxlRelease, h]

@[simp] theorem State.loseLine_wf (s : State) (l : MscLine) (h : s.mem.wf = true) : (s.loseLine l).mem.wf = true := by
  unfold State.loseLine
  split <;> simp [h]

@[simp] theorem State.stopSaved_wf (s : State) (l : Launch) (w : EngineWrite) (h : s.mem.wf = true) : (s.stopSaved l w).mem.wf = true := by
  simp [State.stopSaved, h]

@[simp] theorem State.stopLanding_wf (s : State) (l : Launch) (w : EngineWrite) (h : s.mem.wf = true) : (s.stopLanding l w).mem.wf = true := by
  simp [State.stopLanding, h]

@[simp] theorem State.stopWrite_wf (s : State) (w : EngineWrite) (h : s.mem.wf = true) : (s.stopWrite w).mem.wf = true := by
  unfold State.stopWrite
  dsimp only
  (repeat' split) <;> simp [h]

@[simp] theorem State.surprise_wf (s : State) (lo hi : Nat) (h : s.mem.wf = true) : (s.surprise lo hi).mem.wf = true := by
  unfold State.surprise
  extract_lets lost t u v
  have ht : t.mem.wf = true := foldl_wf (f := State.loseLine) (fun s l hs => s.loseLine_wf l hs) lost h
  have hv : v.mem.wf = true := by simpa [v, u] using ht
  rw [State.revoke_mem]
  exact foldl_wf (f := State.stopWrite) (fun s w hs => s.stopWrite_wf w hs) _ hv

/-! ### Tenants -/

@[simp] theorem State.migrated_wf (s : State) (vf detail : Nat) (h : s.mem.wf = true) : (s.migrated vf detail).mem.wf = true := by
  simp [State.migrated, h]

@[simp] theorem State.exportState_wf (s : State) (vf : Nat) (h : s.mem.wf = true) : (s.exportState vf).mem.wf = true := by
  unfold State.exportState
  extract_lets count bs buf t
  have ht : t.mem.wf = true := by rwa [State.modFn_mem]
  clear_value t buf bs
  split <;> simp [ht]

@[simp] theorem State.importImages_wf (s : State) (vf n : Nat) (bs : List (List Byte)) (h : s.mem.wf = true) :
    (s.importImages vf n bs).1.mem.wf = true := by
  induction n generalizing s bs with
  | zero => exact h
  | succ n ih =>
    cases bs with
    | nil => exact h
    | cons b bs =>
      unfold State.importImages
      dsimp only
      split
      · exact h
      · refine ih _ _ ?_
        rw [State.addLaunch_mem]
        exact foldl_wf (fun s x hs => by simp [hs]) _ h

@[simp] theorem State.importUnexpected_wf (s : State) (vf : Fin 64) (n : Nat) (fs : List Nat) (h : s.mem.wf = true) :
    (s.importUnexpected vf n fs).mem.wf = true := by
  fun_induction State.importUnexpected s vf n fs with
  | case1 s n src dst ctx tag q sec len x fs ih => exact ih (by simp [h])
  | case2 => exact h

@[simp] theorem State.importState_wf (s : State) (vf : Fin 64) (h : s.mem.wf = true) : (s.importState vf).mem.wf = true := by
  unfold State.importState
  extract_lets buf packed opened first
  clear_value opened
  split
  · split
    · extract_lets bs t fq fr u p x
      exact State.migrated_wf _ _ _ (State.importUnexpected_wf _ _ _ _ (by simp [x, p, u, t, h]))
    · simp [h]
  · simp [h]

@[simp] theorem State.fnWrite_wf (s : State) (fn off : Nat) (v : Word) (h : s.mem.wf = true) : (s.fnWrite fn off v).mem.wf = true := by
  unfold State.fnWrite
  split <;> simp [h]

@[simp] theorem State.vfctl_wf (s : State) (vf : Fin 64) (v : Word) (h : s.mem.wf = true) : (s.vfctl vf v).mem.wf = true := by
  unfold State.vfctl
  extract_lets a b c d e
  have ha : a.mem.wf = true := State.ite_wf (by simp [h]) h
  have hb : b.mem.wf = true := State.ite_wf (by simp [ha]) ha
  have hc : c.mem.wf = true := State.ite_wf (by simp [hb]) hb
  have hd : d.mem.wf = true := State.ite_wf (by simp [hc]) hc
  have he : e.mem.wf = true := State.ite_wf (by simp [hd]) hd
  exact State.ite_wf (by simp [he]) he

@[simp] theorem State.pfWrite_wf (s : State) (off : Nat) (v : Word) (h : s.mem.wf = true) : (s.pfWrite off v).mem.wf = true := by
  unfold State.pfWrite
  dsimp only
  (repeat' split) <;> simp [h]

/-! ### Reliability -/

@[simp] theorem State.coreEvent_wf (s : State) (c detail : Nat) (h : s.mem.wf = true) : (s.coreEvent c detail).mem.wf = true := by
  simp [State.coreEvent, h]

@[simp] theorem State.replayReport_wf (s : State) (c : Nat) (h : s.mem.wf = true) : (s.replayReport c).mem.wf = true := by
  unfold State.replayReport
  split <;> simp [h]

@[simp] theorem State.failCore_wf (s : State) (c : Nat) (h : s.mem.wf = true) : (s.failCore c).mem.wf = true := by simp [State.failCore, h]

@[simp] theorem State.scanEnd_wf (s : State) (c : Nat) (pass : Bool) (fs : List (Nat × Nat)) (h : s.mem.wf = true) :
    (s.scanEnd c pass fs).mem.wf = true := by
  unfold State.scanEnd
  dsimp only
  (repeat' split) <;> simp [h]

@[simp] theorem State.commitShadow_wf (s : State) (l : Launch) (p : ShadowPage) (h : s.mem.wf = true) :
    (s.commitShadow l p).mem.wf = true := by
  unfold State.commitShadow
  (repeat' split) <;> simp [h]

@[simp] theorem State.pairedDone_wf (s : State) (id : Nat) (h : s.mem.wf = true) : (s.pairedDone id).mem.wf = true := by
  unfold State.pairedDone
  split
  · exact h
  next l _ =>
    have ht : ((s.consumed l).releaseCores l).mem.wf = true := by simp [h]
    dsimp only
    split
    · exact h
    · split
      · simp [h]
      · split
        · refine State.finishLaunch_wf _ _ ?_
          rw [State.toPool_mem, State.toPool_mem]
          exact foldl_wf (fun s p hs => by simp [hs]) _ ht
        · split <;> simp [ht]

theorem State.afterReset_wf (s : State) : s.afterReset.mem.wf = true :=
  Memory.wf_nil

@[simp] theorem State.thermal_wf (s : State) (t : Word) (h : s.mem.wf = true) : (s.thermal t).mem.wf = true := by
  unfold State.thermal
  dsimp only
  (repeat' split) <;> simp [h]

/-! ### Fetch -/

@[simp] theorem State.fetchMiss_wf (s : State) (pc : Word) (h : s.mem.wf = true) : (s.fetchMiss pc).state.mem.wf = true := by
  unfold State.fetchMiss
  extract_lets m
  have ha := s.translate_wf m.x false true pc 16 h
  split
  · simp [h]
  · split
    next e => rw [e] at ha; simp_all
    next e => rw [e] at ha; simp_all
    next e =>
      rw [e] at ha
      dsimp only [Acc.state] at ha
      dsimp only
      split <;> simp [ha]

@[simp] theorem State.fetch_wf (s : State) (h : s.mem.wf = true) : s.fetch.state.mem.wf = true := by
  unfold State.fetch
  dsimp only
  (repeat' split) <;> simp [h]

@[simp] theorem State.turnOf_wf (s : State) (c : CoreId) (q : SeqId) (h : s.mem.wf = true) : (s.turnOf c q).state.mem.wf = true := by
  unfold State.turnOf
  have ha := State.fetch_wf { s with cur := c, curSeq := q } h
  split
  · split
    next e => rwa [e] at ha
    next e =>
      rw [e] at ha
      dsimp only [Fetched.state] at ha
      split
      · exact ha
      · dsimp only
        split <;> simp [ha]
  · exact h

@[simp] theorem State.liveAct_wf (s : State) (a : Act) (h : s.mem.wf = true) : (s.liveAct a).state.mem.wf = true := by
  unfold State.liveAct
  split <;> simp [h]

@[simp] theorem State.actOf_wf (s : State) (a : Act) (h : s.mem.wf = true) : (s.actOf a).state.mem.wf = true := by
  unfold State.actOf
  split <;> simp [h]

/-! ### Sched -/

@[simp] theorem State.actNow_wf (s : State) (a : Act) (h : s.mem.wf = true) : (s.actNow a).state.mem.wf = true := by
  unfold State.actNow
  dsimp only
  rw [Todo.log_mem]
  split <;> simp [h]

@[simp] theorem State.byDefault_wf (s : State) (h : s.mem.wf = true) : s.byDefault.state.mem.wf = true := by
  unfold State.byDefault
  dsimp only
  split <;> simp [h]

theorem State.choose_wf (s : State) (h : s.mem.wf = true) : s.choose.state.mem.wf = true := by
  unfold State.choose
  dsimp only
  (repeat' split) <;> simp [h]

end Sys2Proof.Machine
end

section
/-! Instructions and device steps keep memory canonical (log 5), and so does a step. -/

namespace Sys2Proof.Machine

/-- The memory that an outcome leaves, where there is a next state, is canonical. -/
def WfNext (o : Host.Outcome State Fault Refusal) : Prop := ∀ t, o = .next t → t.mem.wf = true

@[simp] theorem WfNext.next {s : State} : WfNext (.next s) ↔ s.mem.wf = true :=
  ⟨fun h => h s rfl, fun h t e => by cases e; exact h⟩

/-- A trap leaves what was before the instruction, or what the instruction left. -/
theorem State.trapWith_wf {s before after : State} (t : Trap) (hs : s.mem.wf = true) (ha : after.mem.wf = true) :
    (s.trapWith before after t).mem.wf = true := by
  rw [State.trapWith_mem]
  split <;> assumption

/-- An instruction keeps memory canonical where its effect does: what else issuing changes leaves memory, and a trap leaves
the memory from before it or that of the effect. -/
theorem WfNext.issue {i : Instr} {body : State → Eff} {s : State} (hs : s.mem.wf = true)
    (hb : ∀ u, u.mem.wf = true → (body u).state.mem.wf = true) : WfNext (issue i body s) := by
  unfold Sys2Proof.Machine.issue
  split
  · exact WfNext.next.2 hs
  next c _ =>
    have h1 : (s.startIssue c).mem.wf = true := by simp [hs]
    have hb1 := hb _ h1
    dsimp only
    split
    · exact WfNext.next.2 hs
    · split
      · simp [hs]
      · split
        · simp [hs]
        · split
          · simp [hs]
          · split
            · exact WfNext.next.2 (State.finish_wf h1 hb1)
            · split
              · simp [hs]
              · split
                · simp [hs]
                · split
                  · simp [hs]
                  · split
                    · simp [hs]
                    · split
                      · simp [hs]
                      · split
                        · split
                          next e => rw [e] at hb1; exact WfNext.next.2 (State.trapWith_wf _ h1 hb1)
                          · simp [hs]
                        · exact WfNext.next.2 (State.finish_wf h1 hb1)

/-- So it does where it reads and writes shared registers by their values before the slot (R28). -/
theorem WfNext.inSlot {f : State → Host.Outcome State Fault Refusal} {s : State} (hs : s.mem.wf = true)
    (hf : ∀ u, u.mem.wf = true → WfNext (f u)) : WfNext (inSlot f s) := by
  unfold Sys2Proof.Machine.inSlot
  split
  · exact hf s hs
  · have hb : (s.othersWrote.foldl State.putShared s).mem.wf = true := by simp [hs]
    split
    next t e =>
      have ht := hf _ hb t e
      refine WfNext.next.2 (foldl_wf (fun u w hu => ?_) _ ht)
      split <;> simp [hu]
    · exact hf _ hb

theorem State.branch_wf {s t : State} (a : Word) (hs : s.mem.wf = true) (ht : t.mem.wf = true) : (s.branch t a).state.mem.wf = true := by
  unfold State.branch
  split <;> assumption

/-- A matrix instruction whose effect under a grant leaves memory. -/
theorem WfNext.granted {i : Instr} {f : State → Grant → Eff} {s : State} (hs : s.mem.wf = true)
    (hf : ∀ u g, (f u g).state.mem = u.mem) : WfNext (Sys2Proof.Machine.issue i (fun u => u.granted (f u)) s) :=
  WfNext.issue hs fun u hu => by rwa [State.granted_mem (hf u)]

/-- A stream instruction whose effect on its stream leaves memory. -/
theorem WfNext.withStream {i : Instr} {t : Fin 32} {f : State → Stream → Eff} {s : State} (hs : s.mem.wf = true)
    (hf : ∀ u x, (f u x).state.mem = u.mem) : WfNext (Sys2Proof.Machine.issue i (fun u => u.withStream t (f u)) s) :=
  WfNext.issue hs fun u hu => by rwa [State.withStream_mem (hf u)]

theorem execLd_wf (c : Ctl) (ty : Ty) (acq : Bool) (ocl : BitVec 4) (scp : BitVec 3) (d a : Fin 32) (off : Word32) (s : State)
    (hs : s.mem.wf = true) : WfNext (execLd c ty acq ocl scp d a off s) := by
  unfold execLd
  exact WfNext.issue hs fun _ hu => State.load_wf c _ ty acq ocl scp d _ hu

theorem execSt_wf (c : Ctl) (ty : Ty) (rel : Bool) (ocl : BitVec 4) (scp : BitVec 3) (a : Fin 32) (off : Word32) (v : Fin 32) (s : State)
    (hs : s.mem.wf = true) : WfNext (execSt c ty rel ocl scp a off v s) :=
  WfNext.issue hs fun _ hu => State.store_wf c ty rel ocl scp _ v hu

theorem execAtom_wf (c : Ctl) (ty : Ty) (op : AtomOp) (ord : AtomOrd) (ocl : BitVec 4) (scp : BitVec 3) (d a v : Fin 32)
    (cmp : Option (Fin 32)) (s : State) (hs : s.mem.wf = true) : WfNext (execAtom c ty op ord ocl scp d a v cmp s) := by
  unfold execAtom
  refine WfNext.issue hs fun u hu => ?_
  dsimp only
  split
  · exact hu
  · split
    · exact hu
    · exact hu
    · split
      · exact hu
      · refine Acc.eff_wf (State.checkStore_wf _ _ _ _ _ hu) fun t ps ht => ?_
        split
        · exact hu
        · split
          · simp [ht]
          next e =>
            have hr := State.atomGlobal_wf e ht
            split <;> simp [hr]
    · (repeat' split) <;> simp [hu]

theorem execMshapeGrp_wf (c : Ctl) (ty : Ty) (sp : Bool) (d : Fin 32) (b : SOp) (s : State) (hs : s.mem.wf = true) :
    WfNext (execMshapeGrp c ty sp d b s) := by
  unfold execMshapeGrp
  extract_lets i r
  have hr : WfNext r := WfNext.issue hs fun u hu => by dsimp only; (repeat' split) <;> exact hu
  clear_value r
  split
  next t =>
    rw [WfNext.next] at hr ⊢
    split <;> simp [hr]
  · exact hr

theorem execApub_wf (c : Ctl) (a : Fin 32) (off : Word32) (h : Fin 32) (s : State) (hs : s.mem.wf = true) :
    WfNext (execApub c a off h s) :=
  WfNext.issue hs fun u hu => by
    dsimp only
    split
    · exact hu
    · split
      · exact hu
      · split
        · exact hu
        · refine Acc.eff_wf (by simp [hu]) fun t got ht => ?_
          (repeat' split) <;> simp [ht]

theorem execCpost_wf (c : Ctl) (a : Fin 32) (off : Word32) (s : State) (hs : s.mem.wf = true) : WfNext (execCpost c a off s) :=
  WfNext.issue hs fun u hu => by
    dsimp only
    split
    · exact hu
    · split
      · exact hu
      · split
        · exact hu
        · refine Acc.eff_wf (by simp [hu]) fun t got ht => ?_
          split <;> simp [ht]

theorem execLoop_wf (c : Ctl) (d : Fin 32) (off : Word32) (s : State) (hs : s.mem.wf = true) : WfNext (execLoop c d off s) :=
  WfNext.issue hs fun u hu => by
    dsimp only
    split
    · exact hu
    · exact State.branch_wf _ hu hu

theorem execBqbr_wf (c : Ctl) (z : Bool) (off : Word32) (s : State) (hs : s.mem.wf = true) : WfNext (execBqbr c z off s) :=
  WfNext.issue hs fun u hu => by
    split
    · exact hu
    · dsimp only
      split
      · exact State.branch_wf _ hu (by simpa using hu)
      · simpa using hu

theorem execSendm_wf (c : Ctl) (ocl : BitVec 4) (h a : Fin 32) (off : Word32) (l : Fin 32) (bar : Option (Fin 32)) (s : State)
    (hs : s.mem.wf = true) : WfNext (execSendm c ocl h a off l bar s) := by
  unfold execSendm
  refine WfNext.issue hs fun u hu => ?_
  dsimp only
  split
  · exact hu
  · split
    · exact hu
    · split
      · split <;> exact hu
      · split
        · split
          next e => exact State.payloadRolls_wf e (by simp [hu])
          · simp [hu]
        · simp [hu]

theorem execRpost_wf (c : Ctl) (d a : Fin 32) (off : Word32) (s : State) (hs : s.mem.wf = true) : WfNext (execRpost c d a off s) :=
  WfNext.issue hs fun u hu => by
    dsimp only
    split
    · exact hu
    · split
      · exact hu
      · refine Acc.eff_wf (State.readDesc_wf _ _ _ hu) fun t got ht => ?_
        split
        · exact ht
        · split
          · exact ht
          · split
            · exact ht
            next e =>
              have hv := State.takeEntry_mem e
              (repeat' split) <;> simp [hu, hv, ht]

theorem execRprobe_wf (c : Ctl) (d a : Fin 32) (off : Word32) (s : State) (hs : s.mem.wf = true) : WfNext (execRprobe c d a off s) :=
  WfNext.issue hs fun u hu => by
    dsimp only
    split
    · exact hu
    · split
      · exact hu
      · refine Acc.eff_wf (State.readDesc_wf _ _ _ hu) fun t got ht => ?_
        split <;> simp [ht]

theorem execRcancel_wf (c : Ctl) (d h : Fin 32) (s : State) (hs : s.mem.wf = true) : WfNext (execRcancel c d h s) := by
  unfold execRcancel
  refine WfNext.issue hs fun u hu => ?_
  extract_lets sh e current
  split
  · exact hu
  · split
    · exact hu
    next p _ =>
      extract_lets l t
      have ha := State.writeStatus_wf t l p.core p.user ⟨l.id, p.core, 5, 0, some (descBoff p.body)⟩ p.desc 0 hu
      split
      · exact hu
      · split
        all_goals next e => rw [e] at ha; simp_all

/-- Every instruction and every device step keeps memory canonical. The cases are those of one argument each: steps that are a
state function, instructions whose effect is one expression, those whose effect branches, and those with a lemma of their own. -/
theorem exec_wf (i : Instr) (s : State) (hs : s.mem.wf = true) : WfNext (exec i s) := by
  cases i <;> dsimp only [exec]
  case pinFree | landingRowRetire | vaultScrub | mscScrub | loadResult | mulDivResult | sfuResultLand | linkLaneFailure |
      linkRetrainComplete | keyGenerationChange | flitReplay | timingReplay | freeze | thermtrip | getVersion | getCapabilities |
      negotiateAlgorithms | getDigests | getCertificate | challenge | getMeasurements | seedWrite | eerrClear | ferrClear |
      matrixCommandExecute | sidePathLast | matrixPass | matrixCommandFinish | adapterPageTimeout | copyCommandStart | copyBlockMove |
      cpymFollowonEnqueue | gatherRow | markerRetire | waitiDeadline | csbalComplete | barrierComplete | exchangeStepStart |
      exchangeBeat | exchangeStepEnd | phaseBoundary | remoteOpArrive | remoteOpAck | remoteOpTimeout | msopResult | rstAddCombine |
      messageLandingComplete | messageArrive | messageSendTimeout | launchPortWrite | kill | recordAdmit | regionBalance | launchPlace |
      contextRestore | class0Preemption | contextSave | preemptTimeout | sliceBoundary | launchDrainComplete | trackerComplete |
      extentMissRetry | extentMissAbort | extentDescriptorWrite | acwaysWrite | hbmRequestComplete | cxlRelease | cxlSurpriseRelease |
      stop | resume | discard | release | exportVf | importVf | eventHeldFlush | counterWrap | replayLimitEvent | logicalMapChange |
      scanTestStart | scanTestAbort | scanTestComplete | pairedCommit | thermalWarning | worldBitSet | mstatFinFault | mstatFinKill |
      vpreqWrite | rowmvGo | evacuationChunkCopy | vpRailReached =>
    exact WfNext.next.2 (by simp [hs])
  case fence | gather | scatter | mmul | mmuls | mark | qcnt | bar | barAll | plog | pcnt | pset | nop | add | sub | and | or | xor | shl
      | shr | rol | min | max | cmp | sel | li | clz | popc | bfx | bfi | trap | waiti | wtclrRegs | vrotr | vrotc | vbcr | vbcc | vtrn
      | apref | vredr | vredc | vexp2 | vlog2 | vrcp | vrsq | vqnt | vfadd | vfmul | vfma | vfmin | vfmax | vfcmp | vfcvt | vpadd | vpmul |
      vpfma | vadd | vsub | vmul | vmad | vand | vor | vxor | vshl | vshr | vmin | vmax | vcmp | vsel | vmov | viota =>
    exact WfNext.issue hs fun u hu => by simpa using hu
  case tset | endSeq | waitmk | phase | bkpt | qpop | pref | tail =>
    exact WfNext.issue hs fun u hu => by (repeat' split) <;> simp [hu]
  case ldv | stv | xfence | cnest | tbinit | tbarv | tbwait | tsetDef | mshape | aunpin | xch | rst | msop | eret | wtclr | vainv | axlt =>
    exact WfNext.issue hs fun u hu => by dsimp only; (repeat' split) <;> simp [hu]
  case mul | div | bqsend | qpush | rld | ratom =>
    simp only [execMul, execDiv, execBqsend, execQpush, execRld, execRatom]
    exact WfNext.issue hs fun u hu => by (repeat' split) <;> simp [hu]
  case mov | mfsr | mtsr => exact WfNext.inSlot hs fun t ht => WfNext.issue ht fun u hu => by (repeat' split) <;> simp [hu]
  case mload | mzero | mdrain | madpt => exact WfNext.granted hs fun _ _ => by dsimp only; (repeat' split) <;> simp
  case mswap => exact WfNext.granted hs fun _ _ => by simp
  case cspush => exact WfNext.withStream hs fun _ _ => by dsimp only; (repeat' split) <;> simp
  case cspop | csbal => exact WfNext.withStream hs fun _ _ => by (repeat' split) <;> simp
  case remoteVaultAccess | remoteVaultReply | messageRetry | registerWrite =>
    simp only [execRemoteVaultAccess, execRemoteVaultReply, execMessageRetry, execRegisterWrite]
    split <;> simp [hs]
  case adapterPageArrive h v b o => exact WfNext.next.2 (s.pageArrive_wf h v b o hs)
  case br | jmp | ret => exact WfNext.issue hs fun _ hu => State.branch_wf _ hu hu
  case call => exact WfNext.issue hs fun _ hu => State.branch_wf _ hu (by simpa using hu)
  case cpy | cpym => exact WfNext.issue hs fun _ hu => State.copyIssue_wf _ _ _ _ _ _ _ hu
  case packageReset | railsFall => exact WfNext.next.2 s.afterReset_wf
  case loop => exact execLoop_wf _ _ _ _ hs
  case bqbr => exact execBqbr_wf _ _ _ _ hs
  case ld => exact execLd_wf _ _ _ _ _ _ _ _ _ hs
  case st => exact execSt_wf _ _ _ _ _ _ _ _ _ hs
  case atom => exact execAtom_wf _ _ _ _ _ _ _ _ _ _ _ hs
  case mshapeGrp => exact execMshapeGrp_wf _ _ _ _ _ _ hs
  case apub => exact execApub_wf _ _ _ _ _ hs
  case sendm => exact execSendm_wf _ _ _ _ _ _ _ _ hs
  case rpost => exact execRpost_wf _ _ _ _ _ hs
  case rcancel => exact execRcancel_wf _ _ _ _ hs
  case rprobe => exact execRprobe_wf _ _ _ _ _ hs
  case cpost => exact execCpost_wf _ _ _ _ hs

/-- Settles O59: what is chosen to act next keeps memory canonical, and so does its execution. -/
theorem memoryStaysCanonical : Obligations.memoryStaysCanonical := by
  intro s t hs ht
  have hc := s.choose_wf hs
  unfold step at ht
  split at ht
  next i e => rw [e] at hc; exact exec_wf i _ hc t ht
  next e => rw [e] at hc; exact WfNext.next.2 hc t ht

end Sys2Proof.Machine
end

section
/-! `MFSR` and `MTSR`: what they do once they issue, what a write leaves, and two accesses of one slot. -/

namespace Sys2Proof.Machine

/-! ### Instructions that reach registers which both sequencers share (R28) -/

/-- What an `MFSR` does once it issues. -/
def mfsrBody (d : Fin 32) (n : BitVec 12) (r : Option (Fin 32)) (s : State) : Eff :=
  match s.srCore r with
  | none => .trap s (s.srBounds r)
  | some k => .done (s.ws d (s.readSR k s.curSeq n.toNat)) (s.srSec k s.curSeq n.toNat)

/-- What an `MTSR` does once it issues. -/
def mtsrBody (c : Ctl) (n : BitVec 12) (a : Fin 32) (r : Option (Fin 32)) (s : State) : Eff :=
  if srRejects n.toNat (s.rs a) then .trap s (wordTrap cRI (.mtsr c n a r))
  else match s.srCore r with
    | none => .trap s (s.srBounds r)
    | some k =>
      let s := if r.isNone && plainSr n.toNat then s.noteShared (.sr n.toNat) else s
      .done ((s.writeSR k s.curSeq n.toNat (s.rs a)).setSrSec k s.curSeq n.toNat (s.srcSec (Instr.mtsr c n a r).regs c)) false

theorem exec_mfsr_alone {s : State} (h : s.othersWrote = []) (c : Ctl) (d : Fin 32) (n : BitVec 12) (r : Option (Fin 32)) :
    exec (.mfsr c d n r) s = issue (.mfsr c d n r) (mfsrBody d n r) s := if_pos h

theorem exec_mtsr_alone {s : State} (h : s.othersWrote = []) (c : Ctl) (n : BitVec 12) (a : Fin 32) (r : Option (Fin 32)) :
    exec (.mtsr c n a r) s = issue (.mtsr c n a r) (mtsrBody c n a r) s := if_pos h

theorem srCore_known {s : State} {r : Option (Fin 32)} (h : ∀ x, r = some x → (s.rs x).toNat < 384) :
    s.srCore r = some (match (generalizing := false) r with
      | some x => (s.rs x).toNat
      | none => s.cur.val) := by
  cases r with
  | none => rfl
  | some x => exact if_pos (h x rfl)

theorem srCore_beyond {s : State} {x : Fin 32} (h : 384 ≤ (s.rs x).toNat) : s.srCore (some x) = none := if_neg (by omega)

@[simp] theorem State.startIssue_srCore (s : State) (c : Ctl) (r : Option (Fin 32)) : (s.startIssue c).srCore r = s.srCore r := by
  cases r <;> simp [State.srCore]

/-- An instruction that issues and whose own effect is a trap takes it. -/
theorem issue_traps {i : Instr} {c : Ctl} {s : State} {body : State → Eff} {t : Trap} (h : Issues i c s)
    (hb : body (s.startIssue c) = .trap (s.startIssue c) t) : issue i body s = .next (s.trapped i c t) := by
  rw [issue_of_issues h, hb]
  rfl

theorem mfsr_ctl (c : Ctl) (d : Fin 32) (n : BitVec 12) (r : Option (Fin 32)) : (Instr.mfsr c d n r).ctl = some c := by
  cases r <;> simp [Instr.ctl, Instr.fields]

theorem mtsr_ctl (c : Ctl) (n : BitVec 12) (a : Fin 32) (r : Option (Fin 32)) : (Instr.mtsr c n a r).ctl = some c := by
  cases r <;> simp [Instr.ctl, Instr.fields]

/-- RI of a register that Table 18.4 does not list comes before every other cause (R277, R340). -/
theorem issue_unlisted {i : Instr} {c : Ctl} {s : State} (body : State → Eff) (hc : i.ctl = some c) (hu : unlisted i = true)
    (hf : s.held = false) (hg : (s.startIssue c).guard c = true) (hr : (s.startIssue c).reportFor i = none) :
    issue i body s = .next ((s.startIssue c).trapWith s (s.startIssue c) (wordTrap cRI i)) := by
  simp [issue, hc, hu, hf, hg, hr]

/-- RI of a rejected value comes before the causes of the sequencer and of the mode (R340). -/
theorem issue_rejects {i : Instr} {c : Ctl} {s : State} {body : State → Eff} {t : Trap}
    (hc : i.ctl = some c) (hu : unlisted i = false) (hf : s.held = false)
    (hg : (s.startIssue c).guard c = true) (hb : (s.startIssue c).guardBad c = false)
    (hr : (s.startIssue c).reportFor i = none) (hi : (s.startIssue c).interlocked i.regs = false)
    (hj : (s.startIssue c).rejects i = true) (ht : body (s.startIssue c) = .trap (s.startIssue c) t) :
    issue i body s = .next (s.trapped i c t) := by
  simp [issue, hc, hu, hf, hg, hb, hr, hi, hj, ht, State.finish, State.trapped]

section
variable {c : Ctl} {d a : Fin 32} {n : BitVec 12} {r : Option (Fin 32)} {s : State}

/-! ### `MFSR` (R339) -/

/-- `MFSR` of a core that exists writes its destination with the register's value, and nothing else. -/
theorem mfsr_reads (h : Issues (.mfsr c d n r) c s) {k : Nat} (hk : (s.startIssue c).srCore r = some k) :
    Gives (issue (.mfsr c d n r) (mfsrBody d n r) s) fun t => Writes (Instr.mfsr c d n r).regs (s.startIssue c) t ∧
      t.sq.pc = s.sq.pc + 16 ∧ Holds t d ((s.startIssue c).readSR k s.curSeq n.toNat) ∧ Silent (s.startIssue c) t := by
  have hb : mfsrBody d n r (s.startIssue c) = .done ((s.startIssue c).ws d ((s.startIssue c).readSR k s.curSeq n.toNat))
      ((s.startIssue c).srSec k s.curSeq n.toNat) := by
    rw [mfsrBody, hk, State.startIssue_curSeq]
  refine gives_writes h hb (writes_ws (by simp [Instr.regs]) _ _) fun t x => ⟨?_, ?_, ?_⟩
  · rw [Holds, x.regs.sRegs d (by simp), holds_ws]
  · rw [Raises, x.vstat]
    simp [State.ws, State.modSq]
  · rw [x.gen]
    simp [State.ws, State.modSq]

theorem mfsr_bounds {x : Fin 32} (h : Issues (.mfsr c d n (some x)) c s) (hx : 384 ≤ (s.rs x).toNat) :
    issue (.mfsr c d n (some x)) (mfsrBody d n (some x)) s =
      .next (s.trapped (.mfsr c d n (some x)) c ⟨cBOUNDS, s.rs x, 0⟩) := by
  refine issue_traps h ?_
  rw [mfsrBody, srCore_beyond (by simpa using hx)]
  simp [State.srBounds]

/-! ### `MTSR` (R339) -/

/-- A state that notes the write of a system register that both sequencers share (R28). -/
def State.notedSr (s : State) (n : Nat) : State := if plainSr n then s.noteShared (.sr n) else s

/-- What `MTSR` of the own core leaves before it retires: the register written, with the tag `sec`. -/
def State.wroteSr (s : State) (n : Nat) (v : Word) (sec : Bool) : State :=
  ((s.notedSr n).writeSR s.cur.val s.curSeq n v).setSrSec s.cur.val s.curSeq n sec

theorem State.notedSr_eq (s : State) (n : Nat) :
    s.notedSr n = { s with slotRegs := s.slotRegs ++ if plainSr n then [s.sharedNow (.sr n)] else [] } := by
  unfold State.notedSr
  split
  · rfl
  · simp

@[simp] theorem State.notedSr_cc (s : State) (n : Nat) : (s.notedSr n).cc = s.cc := by rw [State.notedSr_eq]; rfl
@[simp] theorem State.notedSr_cur (s : State) (n : Nat) : (s.notedSr n).cur = s.cur := by rw [State.notedSr_eq]
@[simp] theorem State.notedSr_curSeq (s : State) (n : Nat) : (s.notedSr n).curSeq = s.curSeq := by rw [State.notedSr_eq]

theorem mtsr_own {u : State} (hr : srRejects n.toNat (u.rs a) = false) :
    mtsrBody c n a none u = .done (u.wroteSr n.toNat (u.rs a) (u.srcSec (Instr.mtsr c n a none).regs c)) false := by
  simp only [mtsrBody, hr, State.srCore, State.wroteSr, State.notedSr, Option.isNone_none, Bool.true_and, Bool.false_eq_true,
    if_false]
  split <;> rfl

/-- What `MTSR` leaves of the acting core: the slot's writes, the frame, the pc, and the rest of the sequencer, of the core
and of the vector unit. -/
def Keeps (u : State) (n : Nat) (pc : Word) (q : Seq) (k : Core) (x : XUnit) (t : State) : Prop :=
  t.slotRegs = u.slotRegs ++ (if plainSr n then [u.sharedNow (.sr n)] else []) ∧
  OutsideSame u { t with slotRegs := u.slotRegs } ∧ RegsSame {} u t ∧ t.sq.pc = pc ∧
  t.sq.rest = q ∧ t.cc.rest = k ∧ t.cc.x.rest = x

/-- A change of a core that leaves the registers of its sequencers and of its vector unit, and its m registers. -/
structure RegsKept (q : SeqId) (k l : Core) : Prop where
  other : l.seq (SeqId.other q) = k.seq (SeqId.other q)
  s : (l.seq q).s = (k.seq q).s
  f : (l.seq q).f = (k.seq q).f
  v : l.x.v = k.x.v
  p : l.x.p = k.x.p
  m : l.m = k.m

/-- Retiring after such a change of the acting core. -/
theorem Keeps.of_modCC {u t : State} {pc : Word} {g : Core → Core} (hg : RegsKept u.curSeq u.cc (g u.cc))
    (h : Retires pc ((u.notedSr n.toNat).modCC g) t) :
    Keeps u n.toNat pc ((g u.cc).seq u.curSeq).rest (g u.cc).rest (g u.cc).x.rest t := by
  have hcc : ((u.notedSr n.toNat).modCC g).cc = g u.cc := by simp
  have hsq : ((u.notedSr n.toNat).modCC g).sq = (g u.cc).seq u.curSeq := by rw [State.sq, hcc]; simp
  refine ⟨?_, ⟨?_, fun d hd => ?_⟩, ⟨?_, fun r _ => ?_, fun r _ => ?_, fun r _ => ?_, fun r _ => ?_, fun r _ => ?_⟩, h.pc,
    ?_, ?_, ?_⟩
  · rw [h.outside.device, State.notedSr_eq]; rfl
  · rw [h.outside.device, State.notedSr_eq]; rfl
  · refine (h.outside.cores d (by simpa using hd)).trans ((State.core_modCC_ne _ _ _ (by simpa using hd)).trans ?_)
    rw [State.notedSr_eq]; rfl
  · have ho := h.regs.other
    rw [hcc, State.modCC_curSeq, State.notedSr_curSeq] at ho
    exact ho.trans hg.other
  · rw [h.regs.sRegs r (by simp), State.rs, hsq, Seq.rs, hg.s]; rfl
  · rw [h.regs.flags r (by simp), State.rf, hsq, Seq.rf, hg.f]; rfl
  · rw [h.regs.vRegs r (by simp), State.rv, hcc, XUnit.rv, hg.v]; rfl
  · rw [h.regs.preds r (by simp), State.rp, hcc, XUnit.rp, hg.p]; rfl
  · rw [h.regs.mRegs r (by simp), hcc, hg.m]
  · rw [h.seq, hsq]
  · rw [h.core, hcc]
  · rw [h.unit, hcc]

/-- What `MTSR` of the own core leaves, once it issues: the rest of the sequencer, of the core and of the vector unit. -/
def MtsrLeaves (c : Ctl) (n : BitVec 12) (a : Fin 32) (s : State) (q : Seq) (k : Core) (x : XUnit) : Prop :=
  Gives (issue (.mtsr c n a none) (mtsrBody c n a none) s) (Keeps (s.startIssue c) n.toNat (s.sq.pc + 16) q k x)

/-- `MTSR` of the own core that changes it by `g`. -/
theorem mtsr_keeps (h : Issues (.mtsr c n a none) c s) (hr : srRejects n.toNat (s.rs a) = false)
    {g : Core → Core} (e : (s.startIssue c).wroteSr n.toNat (s.rs a) ((s.startIssue c).srcSec (Instr.mtsr c n a none).regs c) =
      ((s.startIssue c).notedSr n.toNat).modCC g)
    (hg : RegsKept s.curSeq (s.startIssue c).cc (g (s.startIssue c).cc)) :
    MtsrLeaves c n a s ((g (s.startIssue c).cc).seq s.curSeq).rest (g (s.startIssue c).cc).rest (g (s.startIssue c).cc).x.rest := by
  have hb := mtsr_own (c := c) (n := n) (a := a) (u := s.startIssue c) (by simpa using hr)
  rw [State.startIssue_rs, e] at hb
  refine (gives_done h hb).imp fun t ht => ?_
  rw [State.startIssue_pc] at ht
  have hk := Keeps.of_modCC (u := s.startIssue c) (by simpa using hg) ht
  rwa [State.startIssue_curSeq] at hk

/-! ### What a write leaves, register by register (R11, R257, R339) -/

theorem State.setSrSec_seq (u : State) {k : Nat} (hk : 0x10 ≤ k ∧ k ≤ 0x16) (sec : Bool) :
    u.setSrSec u.cur.val u.curSeq k sec = u.modSq fun q => { q with sysSec := setBit q.sysSec (k - 0x10) sec } := by
  obtain ⟨lo, hi⟩ := hk
  interval_cases k <;> simp [State.setSrSec, srReadOnly, State.modSq, State.modCC]

theorem State.setSrSec_core (u : State) {k : Nat} (hk : 0x17 ≤ k) (ho : srReadOnly k = false)
    (hw : (k == 0x20 || k == 0x46 || k == 0x48) = false) (sec : Bool) :
    u.setSrSec u.cur.val u.curSeq k sec = u.modCC fun l => { l with sysSec := setBit l.sysSec k sec } := by
  simp only [State.setSrSec, ho, hw, Bool.false_and, Bool.or_false, Bool.false_eq_true, if_false]
  rw [if_neg (by omega)]
  rfl

theorem State.setSrSec_clears (u : State) {k : Nat} (hk : k = 0x46 ∨ k = 0x48) (sec : Bool) :
    u.setSrSec u.cur.val u.curSeq k sec = u.modCC fun l => { l with sysSec := setBit l.sysSec k (sec || bt l.sysSec k) } := by
  obtain rfl | rfl := hk <;> rfl

theorem State.setSrSec_readOnly (u : State) (c : Nat) (q : SeqId) {k : Nat} (hk : srReadOnly k = true) (sec : Bool) :
    u.setSrSec c q k sec = u := by
  rw [State.setSrSec, if_pos hk]

theorem srReadOnly_cases {k : Nat} (h : srReadOnly k = true) : k ≤ 0x09 ∨ k = 0x40 ∨ k = 0x45 ∨ k = 0x47 := by
  simpa [srReadOnly, or_assoc] using h

theorem srRejects_readOnly {k : Nat} (h : srReadOnly k = true) (v : Word) : srRejects k v = false := by
  have hk := srReadOnly_cases h
  have hm : k ≠ 0x21 := by omega
  have hb : ¬0x70 ≤ k := by omega
  simp [srRejects, hm, hb]

theorem State.writeSR_readOnly (u : State) (c : Nat) (q : SeqId) {k : Nat} (hk : srReadOnly k = true) (v : Word) :
    u.writeSR c q k v = u := by
  obtain hk | rfl | rfl | rfl := srReadOnly_cases hk
  · interval_cases k <;> rfl
  all_goals rfl

theorem State.writeSR_bfmt (u : State) (c : Nat) (q : SeqId) {k : Nat} (hk : k < 16) (v : Word) :
    u.writeSR c q (0x70 + k) v = u.modCore c fun l => { l with bfmt := vset l.bfmt k (bfmtKeep v) } := by
  interval_cases k <;> rfl

theorem State.wroteSr_seq (u : State) {k : Nat} {v : Word} {f : Seq → Seq} (hk : 0x10 ≤ k ∧ k ≤ 0x16)
    (hw : ∀ t : State, t.writeSR t.cur.val t.curSeq k v = t.modSq f) (sec : Bool) :
    u.wroteSr k v sec = (u.notedSr k).modCC fun l =>
      l.modSeq u.curSeq fun q => { f q with sysSec := setBit (f q).sysSec (k - 0x10) sec } := by
  have hf := hw (u.notedSr k)
  have ht := State.setSrSec_seq ((u.notedSr k).modSq f) hk sec
  simp only [State.modSq_cur, State.modSq_curSeq, State.notedSr_cur, State.notedSr_curSeq] at hf ht
  rw [State.wroteSr, hf, ht, State.modSq_modSq]
  simp [State.modSq]

theorem State.wroteSr_core (u : State) {k : Nat} {v : Word} {f : Core → Core} {g : Bool → Core → Core}
    (hw : ∀ t : State, t.writeSR t.cur.val t.curSeq k v = t.modCC f)
    (ht : ∀ t : State, ∀ sec, t.setSrSec t.cur.val t.curSeq k sec = t.modCC (g sec)) (sec : Bool) :
    u.wroteSr k v sec = (u.notedSr k).modCC fun l => g sec (f l) := by
  have hf := hw (u.notedSr k)
  have hg := ht ((u.notedSr k).modCC f) sec
  simp only [State.modCC_cur, State.modCC_curSeq, State.notedSr_cur, State.notedSr_curSeq] at hf hg
  rw [State.wroteSr, hf, hg, State.modCC_modCC]

theorem State.wroteSr_readOnly (u : State) {k : Nat} (hk : srReadOnly k = true) (v : Word) (sec : Bool) :
    u.wroteSr k v sec = (u.notedSr k).modCC id := by
  rw [State.wroteSr, State.writeSR_readOnly _ _ _ hk, State.setSrSec_readOnly _ _ _ hk]
  exact (State.setCore_core _ _).symm

theorem RegsKept.of_seq {q : SeqId} {k l : Core} (hs : ∀ i, l.seq i = k.seq i) (hv : l.x.v = k.x.v) (hp : l.x.p = k.x.p)
    (hm : l.m = k.m) : RegsKept q k l :=
  ⟨hs _, by rw [hs], by rw [hs], hv, hp, hm⟩

theorem State.startIssue_seq (s : State) (c : Ctl) : (s.startIssue c).sq = (s.startIssue c).cc.seq s.curSeq := by
  rw [State.sq, State.startIssue_curSeq]

/-- A write of registers of a sequencer that leaves its registers s and f and its tags. -/
structure SeqWrite (f : Seq → Seq) : Prop where
  sRegs : ∀ q, (f q).s = q.s := by intro; rfl
  flags : ∀ q, (f q).f = q.f := by intro; rfl
  tags : ∀ q, (f q).sysSec = q.sysSec := by intro; rfl

/-- A register of the sequencer, which `f` writes. -/
theorem mtsr_seq (h : Issues (.mtsr c n a none) c s) {k : Nat} (hn : n.toNat = k) (hk : 0x10 ≤ k ∧ k ≤ 0x16)
    {f : Seq → Seq} (hf : SeqWrite f) (hw : ∀ t : State, t.writeSR t.cur.val t.curSeq k (s.rs a) = t.modSq f) :
    MtsrLeaves c n a s
      { (f (s.startIssue c).sq).rest with
        sysSec := setBit (s.startIssue c).sq.sysSec (k - 0x10) ((s.startIssue c).srcSec (Instr.mtsr c n a none).regs c) }
      s.cc.rest (s.startIssue c).cc.x.rest := by
  have hr : srRejects n.toNat (s.rs a) = false := by
    rw [hn]
    obtain ⟨lo, hi⟩ := hk
    interval_cases k <;> rfl
  have e := (s.startIssue c).wroteSr_seq hk hw ((s.startIssue c).srcSec (Instr.mtsr c n a none).regs c)
  rw [← hn] at e
  have hg := mtsr_keeps h hr e ⟨by simp, by simp [hf.sRegs], by simp [hf.flags], by simp, by simp, by simp⟩
  simp only [State.startIssue_curSeq, Core.seq_modSeq, Core.rest_modSeq, Core.modSeq_x, State.rest_startIssue, hf.tags] at hg
  rwa [hn, ← State.startIssue_seq] at hg

/-- A register of the core, which `f` writes, and whose tag `g` writes. -/
theorem mtsr_core (h : Issues (.mtsr c n a none) c s) {k : Nat} (hn : n.toNat = k)
    (hr : srRejects k (s.rs a) = false) {f : Core → Core} {g : Bool → Core → Core}
    (hw : ∀ t : State, t.writeSR t.cur.val t.curSeq k (s.rs a) = t.modCC f)
    (ht : ∀ t : State, ∀ sec, t.setSrSec t.cur.val t.curSeq k sec = t.modCC (g sec))
    (hs : ∀ l sec i, (g sec (f l)).seq i = l.seq i) (hv : ∀ l sec, (g sec (f l)).x.v = l.x.v)
    (hp : ∀ l sec, (g sec (f l)).x.p = l.x.p) (hm : ∀ l sec, (g sec (f l)).m = l.m) {e : Core} {x : XUnit}
    (he : (g ((s.startIssue c).srcSec (Instr.mtsr c n a none).regs c) (f (s.startIssue c).cc)).rest = e)
    (hx : (g ((s.startIssue c).srcSec (Instr.mtsr c n a none).regs c) (f (s.startIssue c).cc)).x.rest = x) :
    MtsrLeaves c n a s (s.startIssue c).sq.rest e x := by
  subst hn
  have hk := mtsr_keeps h hr ((s.startIssue c).wroteSr_core hw ht _)
    (RegsKept.of_seq (hs _ _) (hv _ _) (hp _ _) (hm _ _))
  rwa [hs, he, hx, ← State.startIssue_seq] at hk

/-- A write of registers of the core that leaves its sequencers, its vector unit, its m registers and its tags. -/
structure PlainWrite (f : Core → Core) : Prop where
  as : ∀ l, (f l).as = l.as := by intro; rfl
  xs : ∀ l, (f l).xs = l.xs := by intro; rfl
  unit : ∀ l, (f l).x = l.x := by intro; rfl
  mRegs : ∀ l, (f l).m = l.m := by intro; rfl
  tags : ∀ l, (f l).sysSec = l.sysSec := by intro; rfl
  rest : ∀ l, (f l).rest = f l.rest := by intro; rfl

theorem PlainWrite.seq {f : Core → Core} (h : PlainWrite f) (l : Core) : ∀ i, (f l).seq i = l.seq i
  | .as => h.as l
  | .xs => h.xs l

/-- `MTSR` that writes registers of the core by `f` and their tag by `b`. -/
theorem mtsr_plain (h : Issues (.mtsr c n a none) c s) {k : Nat} (hn : n.toNat = k) (hr : srRejects k (s.rs a) = false)
    {f : Core → Core} (hf : PlainWrite f) {b : Bool → BitVec 128 → Bool}
    (hw : ∀ t : State, t.writeSR t.cur.val t.curSeq k (s.rs a) = t.modCC f)
    (ht : ∀ t : State, ∀ sec, t.setSrSec t.cur.val t.curSeq k sec =
      t.modCC fun l => { l with sysSec := setBit l.sysSec k (b sec l.sysSec) }) :
    MtsrLeaves c n a s (s.startIssue c).sq.rest
      { f s.cc.rest with sysSec := setBit s.cc.sysSec k (b ((s.startIssue c).srcSec (Instr.mtsr c n a none).regs c) s.cc.sysSec) }
      (s.startIssue c).cc.x.rest := by
  have hc := State.rest_startIssue s c
  have hs : (s.startIssue c).cc.sysSec = s.cc.sysSec := (congrArg Core.sysSec hc :)
  refine mtsr_core h hn hr hw ht (fun l sec i => ?_) (fun l _ => by rw [hf.unit]) (fun l _ => by rw [hf.unit])
    (fun l _ => hf.mRegs l) ?_ (by rw [hf.unit])
  · rw [← hf.seq l i]
    cases i <;> rfl
  · rw [hf.tags, hs, ← hc, ← hf.rest]
    rfl

/-- A register that `MTSR` writes, and that takes the tag of the source. -/
theorem mtsr_sets (h : Issues (.mtsr c n a none) c s) {k : Nat} (hn : n.toNat = k) (hr : srRejects k (s.rs a) = false)
    (hk : 0x17 ≤ k ∧ srReadOnly k = false ∧ (k == 0x20 || k == 0x46 || k == 0x48) = false)
    {f : Core → Core} (hf : PlainWrite f) (hw : ∀ t : State, t.writeSR t.cur.val t.curSeq k (s.rs a) = t.modCC f) :
    MtsrLeaves c n a s (s.startIssue c).sq.rest
      { f s.cc.rest with sysSec := setBit s.cc.sysSec k ((s.startIssue c).srcSec (Instr.mtsr c n a none).regs c) }
      (s.startIssue c).cc.x.rest := by
  obtain ⟨lo, ro, clr⟩ := hk
  exact mtsr_plain h hn hr hf (b := fun sec _ => sec) hw fun t sec => t.setSrSec_core lo ro clr sec

/-- A register whose bit 63 is W1C, and that keeps a tag (R257). -/
theorem mtsr_clears (h : Issues (.mtsr c n a none) c s) {k : Nat} (hn : n.toNat = k) (hk : k = 0x46 ∨ k = 0x48)
    {f : Core → Core} (hf : PlainWrite f)
    (hw : ∀ t : State, t.writeSR t.cur.val t.curSeq k (s.rs a) = if bt (s.rs a) 63 then t.modCC f else t) :
    MtsrLeaves c n a s (s.startIssue c).sq.rest
      { (if (s.rs a).getLsbD 63 then f s.cc.rest else s.cc.rest) with
        sysSec := setBit s.cc.sysSec k ((s.startIssue c).srcSec (Instr.mtsr c n a none).regs c || s.cc.sysSec.getLsbD k) }
      (s.startIssue c).cc.x.rest := by
  have hr : srRejects k (s.rs a) = false := by obtain rfl | rfl := hk <;> rfl
  have hp : PlainWrite (fun l => if (s.rs a).getLsbD 63 then f l else l) := by
    cases (s.rs a).getLsbD 63 with
    | false => exact {}
    | true => exact hf
  refine mtsr_plain h hn hr hp (b := fun sec w => sec || bt w k) (fun t => ?_) fun t sec => t.setSrSec_clears hk sec
  rw [hw, bt]
  cases (s.rs a).getLsbD 63 with
  | false => exact (State.setCore_core _ _).symm
  | true => rfl

/-- A register that `MTSR` leaves. -/
theorem mtsr_readOnly (h : Issues (.mtsr c n a none) c s) (hk : srReadOnly n.toNat = true) :
    MtsrLeaves c n a s (s.startIssue c).sq.rest s.cc.rest (s.startIssue c).cc.x.rest := by
  have hg := mtsr_keeps h (srRejects_readOnly hk _) ((s.startIssue c).wroteSr_readOnly hk _ _)
    (RegsKept.of_seq (fun _ => rfl) rfl rfl rfl)
  rwa [id, State.rest_startIssue, ← State.startIssue_seq] at hg

/-- RMODE, whose value below 6 no rule rejects (R81). -/
theorem mtsr_rmode (h : Issues (.mtsr c 0x021 a none) c s) (hv : (s.rs a).toNat % 8 < 6) :
    MtsrLeaves c 0x021 a s (s.startIssue c).sq.rest
      { s.cc.rest with sysSec := setBit s.cc.sysSec 0x021 ((s.startIssue c).srcSec (Instr.mtsr c 0x021 a none).regs c) }
      { (s.startIssue c).cc.x.rest with rmode := (s.rs a).setWidth 3 } := by
  have hr : srRejects 0x21 (s.rs a) = false := by
    have hlt : bf (s.rs a) 2 0 < 6 := by simpa [bf, bitsOf] using hv
    simp [srRejects, hlt]
  have he := congrArg
    (fun l : Core => { l with sysSec := setBit l.sysSec 0x021 ((s.startIssue c).srcSec (Instr.mtsr c 0x021 a none).regs c) })
    (State.rest_startIssue s c)
  exact mtsr_core h rfl hr (f := fun l => l.modX fun x => { x with rmode := (s.rs a).setWidth 3 }) (fun _ => rfl)
    (fun t sec => t.setSrSec_core (by decide) rfl rfl sec) (fun _ _ i => by cases i <;> rfl) (fun _ _ => rfl)
    (fun _ _ => rfl) (fun _ _ => rfl) he rfl

/-- SEED: every generator of the core starts anew (R78). -/
theorem mtsr_seed (h : Issues (.mtsr c 0x022 a none) c s) :
    Gives (issue (.mtsr c 0x022 a none) (mtsrBody c 0x022 a none) s) fun t =>
      OutsideSame (s.startIssue c) t ∧ t.sq.pc = s.sq.pc + 16 ∧
      t.cc.x.seed = (s.rs a).setWidth 32 ∧ ∀ l, l < 1024 → vget 0 t.cc.x.gen l = genStart ((s.rs a).setWidth 32) l := by
  have hb := mtsr_own (c := c) (n := 0x022) (a := a) (u := s.startIssue c) rfl
  have e := (s.startIssue c).wroteSr_core (k := 0x022) (v := s.rs a) (f := fun l => l.reseed ((s.rs a).setWidth 32))
    (fun _ => rfl) (fun t sec => t.setSrSec_core (by decide) rfl rfl sec)
  rw [State.startIssue_rs] at hb
  rw [show (BitVec.toNat (0x022 : BitVec 12)) = 0x22 from rfl, e] at hb
  refine (gives_done h hb).imp fun t ht => ⟨(outside_modCC _ _).trans ht.outside, by simpa using ht.pc, ?_, fun l hl => ?_⟩
  · have hx := congrArg XUnit.seed ht.unit
    simp only [State.cc_modCC] at hx
    exact hx
  · rw [ht.gen, State.cc_modCC]
    exact vget_tab 0 1024 _ l hl

/-! ### XBASE in one slot (R28) -/

theorem inSlot_one {f : State → Host.Outcome State Fault Refusal} {w : SlotWrite} (hw : s.othersWrote = [w]) {t : State}
    (e : f (s.putShared w) = .next t) :
    inSlot f s = .next (if t.otherStands (s.sharedNow w.reg) then t.putShared (s.sharedNow w.reg) else t) := by
  simp [inSlot, hw, e]

theorem othersWrote_one {w : SlotWrite} (hs : s.slotRegs = [w]) (hc : w.core = s.cur.val) (hq : w.seq = SeqId.other s.curSeq) :
    s.othersWrote = [w] := by
  have hne : (SeqId.other s.curSeq != s.curSeq) = true := by cases s.curSeq <;> rfl
  simp [State.othersWrote, hs, hc, hq, hne]

theorem putShared_xbase {w : SlotWrite} (hc : w.core = s.cur.val) (hr : w.reg = .sr 0x030) :
    s.putShared w = s.modCC fun k => { k with xbase := w.val, sysSec := setBit k.sysSec 0x030 w.sec } := by
  rw [State.putShared, hr, hc]
  exact State.modCC_modCC s _ _

/-- What the slot's earlier write of XBASE leaves as it was. -/
theorem putShared_xbase_same {w : SlotWrite} (hc : w.core = s.cur.val) (hr : w.reg = .sr 0x030) :
    (s.putShared w).cc.xbase = w.val ∧ (s.putShared w).sq = s.sq ∧ (s.putShared w).cur = s.cur ∧
      (s.putShared w).curSeq = s.curSeq ∧ (s.putShared w).slotRegs = s.slotRegs := by
  rw [putShared_xbase hc hr]
  refine ⟨by simp, ?_, rfl, rfl, rfl⟩
  rw [State.sq, State.cc_modCC]
  cases h : s.curSeq <;> simp [h, State.sq, Core.seq]

theorem startIssue_xbase (s : State) (c : Ctl) : (s.startIssue c).cc.xbase = s.cc.xbase := by
  show (s.startIssue c).cc.rest.xbase = _
  rw [State.rest_startIssue]
  rfl

/-- `MFSR` of XBASE gives what it held before the slot, and leaves it as the other sequencer wrote it. -/
theorem mfsr_xbase {w : SlotWrite} (hs : s.slotRegs = [w]) (hc : w.core = s.cur.val) (hq : w.seq = SeqId.other s.curSeq)
    (hr : w.reg = .sr 0x030) (h : Issues (.mfsr c d 0x030 none) c (s.putShared w)) :
    Gives (exec (.mfsr c d 0x030 none) s) fun t => Holds t d w.val ∧ t.cc.xbase = s.cc.xbase ∧ t.sq.pc = s.sq.pc + 16 := by
  obtain ⟨hx, hsq, hcur, hcs, hsl⟩ := putShared_xbase_same hc hr
  obtain ⟨t, e, hw, hpc, hd, -⟩ := mfsr_reads h rfl
  have hout := (outside_startIssue (s.putShared w) c).trans hw.outside
  have ht : t.otherStands (s.sharedNow w.reg) = true := by
    have hsr : t.slotRegs = [w] := by rw [hout.device, ← hs, ← hsl]
    rw [State.otherStands, hout.curSeq, hcs, hsr]
    cases hsc : s.curSeq <;> simp [hq, hsc, SeqId.other]
  refine ⟨_, inSlot_one (othersWrote_one hs hc hq) e, ?_⟩
  have hcore : (s.sharedNow w.reg).core = t.cur.val := by rw [hout.cur, hcur, hr]; rfl
  obtain ⟨hx', hsq', -⟩ := putShared_xbase_same (s := t) hcore (by rw [hr]; rfl)
  rw [if_pos ht]
  refine ⟨?_, ?_, ?_⟩
  · rw [Holds, State.rs, hsq']
    rw [← hx, ← startIssue_xbase _ c]
    exact hd
  · rw [hx', hr]; rfl
  · rw [hsq', hpc, hsq]

/-- Of two writes of XBASE that of the XS stands. -/
theorem mtsr_xbase {w : SlotWrite} (hs : s.slotRegs = [w]) (hc : w.core = s.cur.val) (hq : w.seq = SeqId.other s.curSeq)
    (hr : w.reg = .sr 0x030) (h : Issues (.mtsr c 0x030 a none) c (s.putShared w)) :
    Gives (exec (.mtsr c 0x030 a none) s) fun t => t.sq.pc = s.sq.pc + 16 ∧
      t.cc.xbase = match s.curSeq with
        | .as => s.cc.xbase
        | .xs => s.rs a := by
  obtain ⟨hx, hsq, hcur, hcs, hsl⟩ := putShared_xbase_same hc hr
  obtain ⟨t, e, hw, hout, -, hpc, -, hk, -⟩ := mtsr_sets h rfl rfl (by decide)
    (f := fun l => { l with xbase := (s.putShared w).rs a }) {} fun _ => rfl
  have hxt : t.cc.xbase = s.rs a := by
    refine (congrArg Core.xbase hk).trans ?_
    show (s.putShared w).rs a = s.rs a
    rw [State.rs, hsq]; rfl
  have hcur' : t.cur = s.cur := (hout.cur.trans (State.startIssue_cur _ c)).trans hcur
  have hcs' : t.curSeq = s.curSeq := (hout.curSeq.trans (State.startIssue_curSeq _ c)).trans hcs
  refine ⟨_, inSlot_one (othersWrote_one hs hc hq) e, ?_⟩
  cases hsc : s.curSeq with
  | as =>
    have hcore : (s.sharedNow w.reg).core = t.cur.val := by rw [hcur', hr]; rfl
    obtain ⟨hx', hsq', -⟩ := putShared_xbase_same (s := t) hcore (by rw [hr]; rfl)
    rw [if_pos (by rw [State.otherStands, hcs', hsc]; rfl), hx', hsq', hpc, hsq, hr]
    exact ⟨rfl, rfl⟩
  | xs =>
    have hn : t.otherStands (s.sharedNow w.reg) = false := by
      rw [State.otherStands, hcs', hsc, hw, hr]
      simp [State.sharedNow, plainSr, hcur, hcs, hsc]
    rw [if_neg (by rw [hn]; decide)]
    exact ⟨by rw [hpc, hsq], hxt⟩

end

/-- Settles O40: the two slots of XBASE, then `MFSR` and `MTSR` register by register through the lemmas above. -/
theorem systemRegisters : Obligations.systemRegisters := by
  intro c d a n r s u rd wr v known reads keeps sec writes tagged sets clears
  refine ⟨?_, ?_, ?_, ?_, ?_⟩
  · rintro w hs hc hq hr rfl rfl
    exact ⟨mfsr_xbase hs hc hq hr, mtsr_xbase hs hc hq hr⟩
  · intro ho h
    have he : exec rd s = issue rd (mfsrBody d n r) s := exec_mfsr_alone ho c d n r
    have hrd : ∀ k w, k < 4096 → u.readSR u.cur.val u.curSeq k = w → reads k w := by
      rintro k w hk hw rfl rfl
      unfold WritesRegs GoesTo
      rw [he]
      have hm := mfsr_reads h rfl
      rwa [BitVec.toNat_ofNat, Nat.mod_eq_of_lt hk, ← State.startIssue_curSeq s c, hw] at hm
    have hcore := State.rest_startIssue s c
    have hseq := State.sq_startIssue s c
    refine ⟨fun hk => ?_, hrd 0x001 _ (by decide) (congrArg (fun k : Core => wd k.rank) hcore :),
      hrd 0x008 _ (by decide) (congrArg (fun t : State => wd t.cycle) (outside_startIssue s c).device :),
      hrd 0x011 _ (by decide) (congrArg Seq.epc hseq :),
      hrd 0x012 _ (by decide) (congrArg (fun q : Seq => q.ecause.setWidth 64) hseq :),
      hrd 0x013 _ (by decide) (congrArg Seq.einfo0 hseq :),
      hrd 0x014 _ (by decide) (congrArg Seq.einfo1 hseq :), hrd 0x015 _ (by decide) (congrArg Seq.tvec hseq :),
      hrd 0x016 _ (by decide) (congrArg Seq.esave hseq :), hrd 0x041 _ (by decide) rfl,
      hrd 0x044 _ (by decide) (congrArg (fun k : Core => k.rowmv.setWidth 64) hcore :),
      hrd 0x046 _ (by decide) (congrArg Core.eerr0 hcore :), hrd 0x048 _ (by decide) (congrArg Core.ferr hcore :), ?_⟩
    · unfold WritesRegs GoesTo
      rw [he]
      refine (mfsr_reads h ((State.startIssue_srCore s c r).trans (srCore_known hk.2))).imp
        fun t ⟨hw, hpc, hd, hq⟩ => ⟨hw, hpc, hq, ?_⟩
      cases r <;> exact hd
    · rintro x rfl hx
      exact he.trans (mfsr_bounds h hx)
  · intro i hi ho hl hf hg hq
    simp only [List.mem_cons, List.not_mem_nil, or_false] at hi
    obtain rfl | rfl := hi
    · exact (exec_mfsr_alone ho c d n r).trans (issue_unlisted _ (mfsr_ctl c d n r) (by simp [unlisted, hl]) hf hg hq)
    · exact (exec_mtsr_alone ho c n a r).trans (issue_unlisted _ (mtsr_ctl c n a r) (by simp [unlisted, hl]) hf hg hq)
  · intro ho hl hf hg hb hq hi hj
    have hb' : mtsrBody c n a r u = .trap u (wordTrap cRI wr) := by rw [mtsrBody, if_pos (by simpa [u] using hj)]
    exact (exec_mtsr_alone ho c n a r).trans
      (issue_rejects (mtsr_ctl c n a r) (by simp [unlisted, hl]) hf hg hb hq hi (by simpa [State.rejects, u] using hj) hb')
  · intro ho h
    have he : exec wr s = issue wr (mtsrBody c n a r) s := exec_mtsr_alone ho c n a r
    have hseq : ∀ k (f : Seq → Seq), k < 4096 → 0x10 ≤ k ∧ k ≤ 0x16 → SeqWrite f →
        (∀ t : State, t.writeSR t.cur.val t.curSeq k v = t.modSq f) → writes k (f u.sq).rest := by
      rintro k f hk hr hf hw rfl rfl
      have hm := mtsr_seq h (Nat.mod_eq_of_lt hk) hr hf hw
      rwa [MtsrLeaves, ← he] at hm
    have hset : ∀ k (f : Core → Core), k < 4096 → srRejects k v = false →
        0x17 ≤ k ∧ srReadOnly k = false ∧ (k == 0x20 || k == 0x46 || k == 0x48) = false → PlainWrite f →
        (∀ t : State, t.writeSR t.cur.val t.curSeq k v = t.modCC f) → sets k (f s.cc.rest) := by
      rintro k f hk hr hs hf hw rfl rfl
      have hm := mtsr_sets h (Nat.mod_eq_of_lt hk) hr hs hf hw
      rwa [MtsrLeaves, ← he] at hm
    have hclear : ∀ k (f : Core → Core), k < 4096 → k = 0x46 ∨ k = 0x48 → PlainWrite f →
        (∀ t : State, t.writeSR t.cur.val t.curSeq k v = if bt v 63 then t.modCC f else t) →
        clears k (if v.getLsbD 63 then f s.cc.rest else s.cc.rest) := by
      rintro k f hk hs hf hw rfl rfl
      have hm := mtsr_clears h (Nat.mod_eq_of_lt hk) hs hf hw
      rwa [MtsrLeaves, ← he] at hm
    refine ⟨?_, hseq 0x011 (fun q => { q with epc := v }) (by decide) (by decide) {} fun _ => rfl,
      hseq 0x012 (fun q => { q with ecause := v.setWidth 8 }) (by decide) (by decide) {} fun _ => rfl,
      hseq 0x013 (fun q => { q with einfo0 := v }) (by decide) (by decide) {} fun _ => rfl,
      hseq 0x014 (fun q => { q with einfo1 := v }) (by decide) (by decide) {} fun _ => rfl,
      hseq 0x015 (fun q => { q with tvec := v &&& ~~~0xF }) (by decide) (by decide) {} fun _ => rfl,
      hseq 0x016 (fun q => { q with esave := v }) (by decide) (by decide) {} fun _ => rfl, ?_, ?_, ?_,
      hset 0x030 (fun l => { l with xbase := v }) (by decide) rfl (by decide) {} fun _ => rfl,
      hset 0x031 (fun l => { l with xctl := v &&& 0xFFFF0FFF }) (by decide) rfl (by decide) {} fun _ => rfl,
      hset 0x042 (fun l => { l with vcapSel := v.setWidth 3 }) (by decide) rfl (by decide) {} fun _ => rfl,
      hset 0x043 (fun l => { l with vhealth := v.setWidth 16 }) (by decide) rfl (by decide) {} fun _ => rfl,
      hclear 0x046 Core.eerrClear (by decide) (by decide) {} fun _ => rfl,
      hclear 0x048 Core.ferrClear (by decide) (by decide) {} fun _ => rfl, ?_, ?_⟩
    · intro hk hr
      rw [he]
      exact issue_next _ _ _
    · intro hv
      refine hseq 0x010 (fun q => { q with pmode := v.extractLsb' 2 2 }) (by decide) (by decide) {} fun t => ?_
      have hfin : bf v 7 6 = 0 := hv
      simp [State.writeSR, hfin, State.modSq, State.modCC]
    · rintro hv rfl rfl
      have hm := mtsr_rmode h hv
      rwa [MtsrLeaves, ← he] at hm
    · rintro rfl rfl
      rw [he]
      exact mtsr_seed h
    · intro k hk hb
      have hr : srRejects (0x070 + k) v = false := by
        have hm : 0x070 + k ≠ 0x21 := by omega
        simp [srRejects, hb, hm]
      refine hset (0x070 + k) (fun l => { l with bfmt := vset l.bfmt k (bfmtKeep v) }) (by omega) hr ?_ {}
        fun t => t.writeSR_bfmt _ _ hk v
      interval_cases k <;> decide
    · rintro k hk rfl rfl
      have hro : srReadOnly (BitVec.ofNat 12 k).toNat = true :=
        (by decide : ∀ k ∈ _, srReadOnly (BitVec.ofNat 12 k).toNat = true) k hk
      have hm := mtsr_readOnly h hro
      rwa [MtsrLeaves, ← he] at hm

end Sys2Proof.Machine
end

section
/-! Every step goes on, and what the head of the agenda comes to (R21, R60, R226, R270). -/

namespace Sys2Proof.Machine

/-! ### No outcome stops the machine -/

/-- The machine goes on. -/
def GoesOn (o : Host.Outcome State Fault Refusal) : Prop := ∃ t, o = .next t

theorem GoesOn.inSlot {f : State → Host.Outcome State Fault Refusal} (hf : ∀ u, GoesOn (f u)) (s : State) : GoesOn (inSlot f s) := by
  unfold Sys2Proof.Machine.inSlot
  split
  · exact hf s
  · obtain ⟨t, e⟩ := hf (s.othersWrote.foldl State.putShared s)
    rw [e]
    exact ⟨_, rfl⟩

theorem execMshapeGrp_goesOn (c : Ctl) (ty : Ty) (sp : Bool) (d : Fin 32) (b : SOp) (s : State) : GoesOn (execMshapeGrp c ty sp d b s) := by
  unfold execMshapeGrp
  extract_lets i r
  obtain ⟨t, e⟩ : GoesOn r := issue_next _ _ _
  rw [e]
  exact ⟨_, rfl⟩

/-- Every instruction and every step of the device goes on: instructions by `issue_next`, and of a step of the device the meaning
is a next state. -/
theorem exec_goesOn (i : Instr) (s : State) : GoesOn (exec i s) := by
  cases i <;> dsimp only [exec]
  case mov | mfsr | mtsr => exact GoesOn.inSlot (fun _ => issue_next _ _ _) s
  case mshapeGrp => exact execMshapeGrp_goesOn _ _ _ _ _ s
  case remoteVaultAccess =>
    unfold execRemoteVaultAccess
    split <;> exact ⟨_, rfl⟩
  case remoteVaultReply =>
    unfold execRemoteVaultReply
    split <;> exact ⟨_, rfl⟩
  case mstatFinFault | mstatFinKill | seedWrite | vpreqWrite | rowmvGo | eerrClear | ferrClear | registerWrite | evacuationChunkCopy |
      vpRailReached | launchPortWrite | kill | recordAdmit | regionBalance | launchPlace | contextSave | contextRestore |
      preemptTimeout | sliceBoundary | launchDrainComplete | trackerComplete | barrierComplete | csbalComplete | phaseBoundary |
      exchangeStepStart | exchangeBeat | exchangeStepEnd | sfuResultLand | loadResult | landingRowRetire | vaultScrub | mscScrub |
      copyCommandStart | copyBlockMove | cpymFollowonEnqueue | gatherRow | matrixCommandExecute | matrixPass | sidePathLast |
      adapterPageArrive | adapterPageTimeout | pinFree | markerRetire | extentMissRetry | extentMissAbort | extentDescriptorWrite |
      acwaysWrite | hbmRequestComplete | cxlRelease | cxlSurpriseRelease | remoteOpArrive | remoteOpAck | remoteOpTimeout |
      msopResult | rstAddCombine | linkLaneFailure | linkRetrainComplete | keyGenerationChange | messageArrive | messageRetry |
      messageSendTimeout | messageLandingComplete | eventHeldFlush | counterWrap | stop | resume | exportVf | discard | importVf |
      release | timingReplay | replayLimitEvent | scanTestStart | scanTestAbort | scanTestComplete | logicalMapChange |
      pairedCommit | freeze | packageReset | thermalWarning | thermtrip | worldBitSet | getVersion | getCapabilities |
      negotiateAlgorithms | getDigests | getCertificate | challenge | getMeasurements | railsFall | flitReplay |
      matrixCommandFinish | mulDivResult | waitiDeadline | class0Preemption => exact ⟨_, rfl⟩
  case mul | div | bqsend | qpush | ld | atom | sendm | rld | ratom =>
    simp only [execMul, execDiv, execBqsend, execQpush, execLd, execAtom, execSendm, execRld, execRatom]
    exact issue_next _ _ _
  all_goals exact issue_next _ _ _

theorem step_goesOn (s : State) : GoesOn (step s) := by
  unfold step
  cases s.choose with
  | run t i => exact exec_goesOn i t
  | done t => exact ⟨t, rfl⟩

/-! ### Time -/

@[simp] theorem State.tick_frozen (s : State) (n : Nat) : (s.tick n).frozen = s.frozen := by unfold State.tick; split <;> rfl
@[simp] theorem State.tick_powered (s : State) (n : Nat) : (s.tick n).powered = s.powered := by unfold State.tick; split <;> rfl

/-- With a slot that begins nothing has acted in it. -/
theorem State.tick_slot {s : State} {n : Nat} (hf : s.frozen = false) (hp : s.powered = true) (hn : n ≠ 0) :
    (s.tick n).slotLog = [] ∧ (s.tick n).slotAtoms = [] := by
  simp [State.tick, hf, hp, hn]

/-- In a slot in which nothing has acted no act waits for the next. -/
theorem State.clash_fresh {s : State} (hl : s.slotLog = []) (ha : s.slotAtoms = []) (a : Act) (x : Todo) : s.clash a x = false := by
  have line (bs : List (Nat × Nat)) : s.lineTaken bs = false := by simp [State.lineTaken, ha]
  have op (p : RemoteOp) : s.opTaken p = false := by cases h : p.kind <;> simp [State.opTaken, h, line, ha]
  have atom : s.atomTaken a x.runs = false := by
    unfold State.atomTaken
    split <;> simp [line, op]
  unfold State.clash
  rw [atom, hl]
  cases a <;> rfl

/-! ### Acts while the clocks run -/

theorem State.actOf_live {s : State} (hf : s.frozen = false) (hp : s.powered = true) (a : Act) : s.actOf a = s.liveAct a := by
  simp [State.actOf, hf, hp]

theorem State.canIssue_live {s : State} {c : Nat} {q : SeqId} (h : s.canIssue c q = true) : s.frozen = false ∧ s.powered = true := by
  simp only [State.canIssue, Bool.and_eq_true, Bool.not_eq_true'] at h
  obtain ⟨⟨⟨⟨hf, hp⟩, -⟩, -⟩, -⟩ := h
  exact ⟨hf, hp⟩

/-- A sequencer whose turn it is runs the instruction that the fetched word decodes to. -/
theorem State.actOf_issue_word {s u : State} {c : CoreId} {q : SeqId} {w : Word128} {i : Instr} (h : s.canIssue c.val q = true)
    (hw : ({ s with cur := c, curSeq := q } : State).fetch = .word u w) (hd : decode w = .ok i) :
    s.actOf (.issue c q) = .run u i := by
  obtain ⟨hf, hp⟩ := State.canIssue_live h
  rw [State.actOf_live hf hp]
  simp [State.liveAct, State.turnOf, h, hw, hd]

/-- A word that does not decode traps RI with its two halves, where no report comes first. -/
theorem State.actOf_issue_reserved {s u : State} {c : CoreId} {q : SeqId} {w : Word128} (h : s.canIssue c.val q = true)
    (hw : ({ s with cur := c, curSeq := q } : State).fetch = .word u w) (hd : ∀ j, decode w ≠ .ok j)
    (hr : u.guard (Fields.unpack w).ctl = false ∨ u.sq.urgent = none) :
    s.actOf (.issue c q) = .done (u.trapWith u u ⟨cRI, w.extractLsb' 0 64, w.extractLsb' 64 64⟩) := by
  obtain ⟨hf, hp⟩ := State.canIssue_live h
  rw [State.actOf_live hf hp]
  cases hw' : decode w with
  | ok j => exact absurd hw' (hd j)
  | error x =>
    simp only [State.liveAct, State.turnOf, h, hw, hw', if_true]
    obtain hg | hu := hr
    · rw [if_neg (by rw [hg]; decide)]
    · rw [State.fetchTrap, hu, ite_self]

/-- A sequencer that may not issue does nothing. -/
theorem State.actOf_issue_idle {s : State} {c : CoreId} {q : SeqId} (h : s.canIssue c.val q = false) :
    s.actOf (.issue c q) = .done s := by
  unfold State.actOf
  split
  · rfl
  · simp [State.liveAct, State.turnOf, h]

theorem State.actOf_event {s : State} {i : Instr} (hf : s.frozen = false) (hp : s.powered = true) (hi : i.isWord = false) :
    s.actOf (.event i) = .run s i := by
  rw [State.actOf_live hf hp]
  simp [State.liveAct, State.eventOf, hi]

/-! ### What a step does -/

/-- What executing what an act comes to gives. -/
def Todo.outcome : Todo → Host.Outcome State Fault Refusal
  | .run t i => exec i t
  | .done t => .next t

theorem step_eq (s : State) : step s = s.choose.outcome := by unfold step Todo.outcome; rfl

section
variable {s : State} {e : Entry} {es : List Entry}

/-- A step whose turn it is does what the agenda's head comes to. -/
theorem step_head (hs : s.agenda = e :: es) (hf : s.forced (s.cycle + e.slots) = none) :
    step s = ((({ s with agenda := es } : State).tick e.slots).actNow e.act).outcome := by
  have hh : s.headSlots = e.slots := by simp [State.headSlots, hs]
  rw [step_eq, State.choose, hh, hf, hs]

/-- The head acts in the present slot, where nothing forbids it. -/
theorem step_now (hs : s.agenda = e :: es) (hf : s.forced (s.cycle + e.slots) = none) {v : State}
    (hv : ({ s with agenda := es } : State).tick e.slots = v) (hc : v.clash e.act (v.actOf e.act) = false) :
    step s = ((v.actOf e.act).log e.act).outcome := by
  rw [step_head hs hf, hv, State.actNow]
  simp [hc]

/-- Otherwise it acts in the next. -/
theorem step_later (hs : s.agenda = e :: es) (hf : s.forced (s.cycle + e.slots) = none) {v : State}
    (hv : ({ s with agenda := es } : State).tick e.slots = v) (hc : v.clash e.act (v.actOf e.act) = true) :
    step s = (((v.tick 1).actOf e.act).log e.act).outcome := by
  rw [step_head hs hf, hv, State.actNow]
  simp [hc]

end

/-! ### Moves of exchange steps (R60) -/

/-- What an exchange step does next is a beat or its end, a step of the device. -/
theorem State.stepNext_event {s : State} {l : Launch} {x : Nat × Instr} (h : s.stepNext l = some x) : x.2.isWord = false := by
  simp only [State.stepNext, Option.map_eq_some_iff] at h
  obtain ⟨st, -, rfl⟩ := h
  refine List.foldlRecOn (motive := fun o : Nat × Instr => o.2.isWord = false) _ _ rfl fun o ho c _ => ?_
  split
  · split
    · rfl
    · exact ho
  · exact ho

/-- A move that comes before the agenda is a step of the device, and the clocks run. -/
theorem State.forced_event {s : State} {n : Nat} {x : Nat × Instr} (h : s.forced n = some x) :
    s.frozen = false ∧ s.powered = true ∧ x.2.isWord = false := by
  unfold State.forced at h
  split at h
  · cases h
  next hp =>
    simp only [Bool.or_eq_true, Bool.not_eq_true', not_or, Bool.not_eq_true, Bool.not_eq_false] at hp
    refine ⟨hp.1, hp.2, ?_⟩
    refine List.foldlRecOn (motive := fun o : Option (Nat × Instr) => ∀ y, o = some y → y.2.isWord = false) _ _
      (by simp) (fun o ho a ha y hy => ?_) x h
    obtain ⟨l, -, hl⟩ := List.mem_filterMap.1 ha
    have hw := State.stepNext_event hl
    cases o with
    | none =>
      dsimp only at hy
      split at hy
      · cases hy; exact hw
      · cases hy
    | some z =>
      dsimp only at hy
      split at hy
      · cases hy; exact hw
      · exact ho y hy

/-- A step with such a move makes it. -/
theorem step_forced {s : State} {x : Nat × Instr} (h : s.forced (s.cycle + s.headSlots) = some x) :
    ∃ ds : List Entry, ds.map Entry.act = s.agenda.map Entry.act ∧
      step s = exec x.2 (({ s with agenda := ds } : State).tick (x.1 - s.cycle)) := by
  obtain ⟨hf, hp, hx⟩ := State.forced_event h
  have hc : ∀ ds, s.choose = (({ s with agenda := ds } : State).tick (x.1 - s.cycle)).actOf (.event x.2) →
      step s = exec x.2 (({ s with agenda := ds } : State).tick (x.1 - s.cycle)) := fun ds e => by
    rw [step_eq, e, State.actOf_event (by simpa using hf) (by simpa using hp) hx]
    rfl
  cases ha : s.agenda with
  | nil => exact ⟨[], rfl, hc _ (by rw [State.choose, h, ha])⟩
  | cons e es => exact ⟨{ e with slots := e.slots - (x.1 - s.cycle) } :: es, rfl, hc _ (by rw [State.choose, h, ha])⟩

/-- Settles O57: the head of the agenda by what its act comes to, then a move of an exchange step; and every step goes on. -/
theorem stepRunsDecoded : Obligations.stepRunsDecoded := by
  intro s u e es c q w i l v at_ noted runs head
  refine ⟨?_, ?_, ?_, ?_, fun x => step_forced, step_goesOn s⟩
  · rintro ⟨hs, hf⟩ ha
    refine ⟨fun hc h hw hd => ?_, fun hc h hw hd => ?_, fun hc h hw hd hr => ?_, fun hc h => ?_⟩
    · rw [step_now hs hf rfl hc, ha, State.actOf_issue_word h hw hd, Todo.log, Todo.outcome, ← ha]
    · rw [step_later hs hf rfl hc, ha, State.actOf_issue_word h hw hd, Todo.log, Todo.outcome, ← ha]
    · rw [step_now hs hf rfl hc, ha, State.actOf_issue_reserved h hw hd hr, Todo.log, Todo.outcome, ← ha]
    · rw [step_now hs hf rfl hc, ha, State.actOf_issue_idle h, Todo.log, Todo.outcome, ← ha]
  · intro h
    rw [State.fetch, h]
    rfl
  · rintro ⟨hs, hf⟩ ha hi hz hp hc
    have hr : v.actOf e.act = .run v i := by rw [ha]; exact State.actOf_event (by simpa [v] using hz) (by simpa [v] using hp) hi
    rw [step_now hs hf rfl (by rw [hr]; exact hc), hr, Todo.log, Todo.outcome]
  · intro hz hp hn a x
    obtain ⟨hl, ht⟩ := State.tick_slot (s := { s with agenda := es }) hz hp hn
    exact State.clash_fresh hl ht a x

end Sys2Proof.Machine
end

section
/-! Branches (R22, R298, R334): an aligned target is gone to, and the registers are written on the way. -/

namespace Sys2Proof.Machine

theorem State.branch_aligned (s t : State) {a : Word} (h : a.toNat % 16 = 0) : s.branch t a = .goto t a := by
  have hb : bf a 3 0 = 0 := by simpa [bf, bitsOf] using h
  rw [State.branch, if_neg (by simp [hb])]

theorem State.startIssue_target (s : State) (c : Ctl) (off : Word32) : (s.startIssue c).target off = s.sq.pc + off.signExtend 64 := by
  rw [State.target, State.startIssue_pc]

/-- Retiring raises no flag that the instruction has not, and advances no generator. -/
theorem Retires.silent {pc : Word} {u t r : State} (h : Retires pc t r) (hx : t.cc.x = u.cc.x) : Silent u r := by
  refine ⟨?_, ?_⟩
  · rw [Raises, h.vstat, hx]; simp
  · rw [h.gen, hx]

theorem State.ws_x (s : State) (d : Fin 32) (v : Word) : (s.ws d v).cc.x = s.cc.x := by simp [State.ws, State.modSq]

theorem Retires.holds {pc : Word} {t r : State} {d : Fin 32} {v : Word} (h : Retires pc (t.ws d v) r) : Holds r d v := by
  rw [Holds, h.regs.sRegs d (by simp), holds_ws]

/-- A scalar instruction whose own effect is to go to `a` does so, with what it has written. -/
theorem goesTo_goto {i : Instr} {c : Ctl} {s t : State} {a : Word} {body : State → Eff} {P : State → Prop} (h : Issues i c s)
    (hv : i.isVector = false) (he : exec i s = issue i body s) (hb : body (s.startIssue c) = .goto t a)
    (w : Writes i.regs (s.startIssue c) t) (hp : ∀ r, Retires a t r → P r) : GoesTo i c s a P := by
  rw [GoesTo, he]
  exact (gives_goto h hv hb).imp fun r x => ⟨(w.retires x).1, (w.retires x).2, hp r x⟩

section
variable {c : Ctl} {s : State}

/-- An instruction that only branches. -/
theorem goesTo_branch {i : Instr} {F : State → Word} (h : Issues i c s) (hv : i.isVector = false)
    (he : exec i s = issue i (fun s => s.branch s (F s)) s) (ha : (F (s.startIssue c)).toNat % 16 = 0) :
    GoesTo i c s (F (s.startIssue c)) fun t => Silent (s.startIssue c) t :=
  goesTo_goto h hv he (State.branch_aligned _ _ ha) (Writes.refl _ _) fun _ x => x.silent rfl

/-- An instruction that writes one register and branches. -/
theorem goesTo_ws {i : Instr} {d : Fin 32} {v a : Word} {body : State → Eff} (h : Issues i c s) (hv : i.isVector = false)
    (he : exec i s = issue i body s) (hd : d ∈ i.regs.sW)
    (hb : body (s.startIssue c) = (s.startIssue c).branch ((s.startIssue c).ws d v) a) (ha : a.toNat % 16 = 0) :
    GoesTo i c s a fun t => Holds t d v ∧ Silent (s.startIssue c) t :=
  goesTo_goto h hv he (hb.trans (State.branch_aligned _ _ ha)) (writes_ws hd _ _) fun _ x => ⟨x.holds, x.silent (State.ws_x _ _ _)⟩

variable {d : Fin 32} {off : Word32}

/-- `LOOP` whose counter reaches 0 falls through. -/
theorem loop_falls (h : Issues (.loop c d off) c s) (hd : s.rs d = 1) :
    GoesTo (.loop c d off) c s (s.sq.pc + 16) fun t => Holds t d (s.rs d - 1) ∧ Silent (s.startIssue c) t := by
  rw [GoesTo, exec_loop, execLoop]
  refine gives_writes h (t := (s.startIssue c).ws d (s.rs d - 1)) (sec := false) ?_ (writes_ws (by simp [Instr.regs]) _ _)
    fun _ x => ⟨x.holds, x.silent (State.ws_x _ _ _)⟩
  simp [hd]

/-- `LOOP` whose counter does not reach 0 branches. -/
theorem loop_branches (h : Issues (.loop c d off) c s) (hd : s.rs d ≠ 1) (ha : (s.sq.pc + off.signExtend 64).toNat % 16 = 0) :
    GoesTo (.loop c d off) c s (s.sq.pc + off.signExtend 64) fun t => Holds t d (s.rs d - 1) ∧ Silent (s.startIssue c) t := by
  refine goesTo_ws h rfl (exec_loop c d off s) (by simp [Instr.regs]) ?_ ha
  have hne : s.rs d - 1 ≠ 0 := fun e => hd (BitVec.sub_eq_iff_eq_add.1 e |>.trans (by simp))
  simp only [State.startIssue_rs, State.startIssue_target, if_neg hne]

end

/-- Settles O12: each branch by the effect that its arm names, `LOOP` by whether its counter reaches 0. -/
theorem branchResult : Obligations.branchResult := by
  intro c off d a s rel aligned
  refine ⟨fun h ha => ?_, fun h ha => ?_, fun h ha => ?_, fun h ha => ?_, fun h ha => ?_⟩
  · have hg := goesTo_branch (F := fun s => s.target off) h rfl (exec_br c off s) (by rwa [State.startIssue_target])
    rwa [State.startIssue_target] at hg
  · have hg := goesTo_branch (F := fun s => s.rs a) h rfl (exec_jmp c a s) (by rwa [State.startIssue_rs])
    rwa [State.startIssue_rs] at hg
  · have hg := goesTo_branch (F := fun s => s.rs a) h rfl (exec_ret c a s) (by rwa [State.startIssue_rs])
    rwa [State.startIssue_rs] at hg
  · exact goesTo_ws h rfl (exec_call c d off s) (by simp [Instr.regs]) (by rw [State.startIssue_target, State.startIssue_pc]) ha
  · by_cases hd : s.rs d = 1
    · rw [if_pos hd]
      exact loop_falls h hd
    · rw [if_neg hd]
      exact loop_branches h hd (ha.resolve_right hd)

end Sys2Proof.Machine
end

section
/-! The places that a pointer names (R39, R40). -/

namespace Sys2Proof.Machine

section
variable (p : Word)

/-! ### The fields of a pointer, as quotients and remainders -/

theorem bf_space : bf p 63 60 = p.toNat / 2 ^ 60 := by
  have := p.isLt
  simp only [bf, bitsOf]; omega

theorem bf_rank : bf p 59 48 = p.toNat / 2 ^ 48 % 2 ^ 12 := rfl

theorem bf_globalFormat (h : p.toNat / 2 ^ 60 = 0) : bf p 59 57 = 0 ↔ p.toNat < 2 ^ 57 := by
  simp only [bf, bitsOf]; omega

theorem bf_vaultFormat : bf p 47 21 = 0 ↔ p.toNat % 2 ^ 48 < 2 ^ 21 := by
  simp only [bf, bitsOf]; omega

theorem bf_vaultOff (h : p.toNat % 2 ^ 48 < 2 ^ 21) : bf p 20 0 = p.toNat % 2 ^ 48 := by
  simp only [bf, bitsOf]; omega

theorem bf_accFormat : bf p 47 17 = 0 ↔ p.toNat % 2 ^ 48 < 2 ^ 17 := by
  simp only [bf, bitsOf]; omega

theorem bf_accOff (h : p.toNat % 2 ^ 48 < 2 ^ 17) : bf p 16 0 = p.toNat % 2 ^ 48 := by
  simp only [bf, bitsOf]; omega

end

/-! ### Ranks and decoding -/

section
variable {s : State} {c : Nat} {p : Word} {n : Nat} {wr : Bool}

theorem State.coreOfRank_named {r : Nat} (h : r = 0xFFF ∨ r < (s.launchOn c).wid * (s.launchOn c).hgt) :
    s.coreOfRank c r = some (if r = 0xFFF then c else (s.launchOn c).coreOf (s.core c).copy1 r) := by
  unfold State.coreOfRank
  by_cases hr : r = 0xFFF
  · simp [hr]
  · simp [hr, h.resolve_left hr]

theorem State.coreOfRank_unnamed {r : Nat} (h : ¬(r = 0xFFF ∨ r < (s.launchOn c).wid * (s.launchOn c).hgt)) :
    s.coreOfRank c r = none := by
  obtain ⟨hr, hl⟩ := not_or.1 h
  simp [State.coreOfRank, hr, Nat.le_of_not_lt hl]

theorem State.decodePtr_global (h : p.toNat / 2 ^ 60 = 0) :
    s.decodePtr c p n wr = if p.toNat < 2 ^ 57 then .at_ .glob else .bad (trapForm p wr) := by
  simp only [State.decodePtr, bf_space, h, if_true, bf_globalFormat p h]

theorem State.decodePtr_beyond (h : 2 < p.toNat / 2 ^ 60) : s.decodePtr c p n wr = .bad (trapForm p wr) := by
  have h0 : p.toNat / 2 ^ 60 ≠ 0 := by omega
  simp only [State.decodePtr, bf_space, h0, h, if_true, if_false]

theorem State.decodePtr_unnamed (h : p.toNat / 2 ^ 60 = 1 ∨ p.toNat / 2 ^ 60 = 2) (hr : s.coreOfRank c (p.toNat / 2 ^ 48 % 2 ^ 12) = none) :
    s.decodePtr c p n wr = .bad (trapForm p wr) := by
  have h0 : p.toNat / 2 ^ 60 ≠ 0 := by omega
  have h2 : ¬2 < p.toNat / 2 ^ 60 := by omega
  simp only [State.decodePtr, bf_space, bf_rank, h0, h2, hr, if_false]

theorem State.decodePtr_vault {k : Nat} (h : p.toNat / 2 ^ 60 = 1) (hr : s.coreOfRank c (p.toNat / 2 ^ 48 % 2 ^ 12) = some k) :
    s.decodePtr c p n wr = if p.toNat % 2 ^ 48 < 2 ^ 21 then
        if (s.launchOn c).footBytes < p.toNat % 2 ^ 48 + n then .bad (trapFoot p wr) else .at_ (.vault k (p.toNat % 2 ^ 48))
      else .bad (trapForm p wr) := by
  simp only [State.decodePtr, bf_space, bf_rank, h, hr]
  by_cases ho : p.toNat % 2 ^ 48 < 2 ^ 21
  · rw [if_pos ho]
    simp [(bf_vaultFormat p).2 ho, bf_vaultOff p ho]
  · rw [if_neg ho]
    simp [(bf_vaultFormat p).not.2 ho]

theorem State.decodePtr_acc {k : Nat} (h : p.toNat / 2 ^ 60 = 2) (hr : s.coreOfRank c (p.toNat / 2 ^ 48 % 2 ^ 12) = some k) :
    s.decodePtr c p n wr = if p.toNat % 2 ^ 48 < 2 ^ 17 ∧ p.toNat % 2 ^ 48 + n ≤ accBytes then .at_ (.acc k (p.toNat % 2 ^ 48))
      else .bad (trapForm p wr) := by
  simp only [State.decodePtr, bf_space, bf_rank, h, hr]
  by_cases ha : p.toNat % 2 ^ 48 < 2 ^ 17 ∧ p.toNat % 2 ^ 48 + n ≤ accBytes
  · rw [if_pos ha]
    simpa [(bf_accFormat p).2 ha.1, bf_accOff p ha.1] using ha.2
  · rw [if_neg ha]
    by_cases ho : p.toNat % 2 ^ 48 < 2 ^ 17
    · have hn : accBytes < p.toNat % 2 ^ 48 + n := by omega
      simpa [(bf_accFormat p).2 ho, bf_accOff p ho] using hn
    · simp [(bf_accFormat p).not.2 ho]

end

/-- Settles O16: one clause for each format of `State.decodePtr`. -/
theorem pointerPlaces : Obligations.pointerPlaces := by
  intro s c p n wr space rank off l form foot core named
  have hform : trapForm p wr = form := by cases wr <;> rfl
  have hfoot : trapFoot p wr = foot := by cases wr <;> rfl
  have hfb : l.footBytes = 1024 * l.foot := rfl
  rw [← hform, ← hfoot]
  refine ⟨fun h hp => ?_, fun h hp => ?_, State.decodePtr_beyond, fun h hn => ?_, fun h hn ho => ?_, fun h hn ho hf => ?_,
    fun h hn ho hf => ?_, fun h hn ho hf => ?_, fun h hn ho => ?_⟩
  · rw [State.decodePtr_global h, if_pos hp]
  · rw [State.decodePtr_global h, if_neg (Nat.not_lt.2 hp)]
  · exact State.decodePtr_unnamed h (State.coreOfRank_unnamed hn)
  · rw [State.decodePtr_vault h (State.coreOfRank_named hn), if_neg (Nat.not_lt.2 ho)]
  · rw [State.decodePtr_vault h (State.coreOfRank_named hn), if_pos ho, if_pos (hfb ▸ hf)]
  · rw [State.decodePtr_vault h (State.coreOfRank_named hn), if_pos ho, if_neg (Nat.not_lt.2 (hfb ▸ hf))]
  · rw [State.decodePtr_acc h (State.coreOfRank_named hn), if_pos ⟨hf, ho⟩]
  · rw [State.decodePtr_acc h (State.coreOfRank_named hn), if_neg]
    have ha : accBytes = 0x1C000 := rfl
    omega

end Sys2Proof.Machine
end

section
/-! Replies of the lateral network (R40, R247, R331): that of a poisoned atomic waits for the sequencer's other results. -/

namespace Sys2Proof.Machine

/-- The reply of a poisoned atomic finds another result of its sequencer still on the way: its trap waits (R331), and with it
the reply, which stays listed. -/
theorem State.vreqReply_waits {s : State} {r : VReq} {op : AtomOp} {cmp : Word} {x : Result} (hk : r.kind = .atom op cmp)
    (hc : r.core < 384) (hb : r.bad = true) (hw : ((s.core r.core).seq r.seq).wait = some (.vault r.id))
    (hx : ((s.core r.core).seq r.seq).results.find? (fun y => y.src == .vault r.id) = some x)
    (ht : (((s.core r.core).seq r.seq).results.filter fun y => y.src != .vault r.id).any Result.remote = true) :
    s.vreqReply r = s := by
  have hcore (l : List VReq) (g : Core → Core) : (({ s with vreqs := l } : State).modCore r.core g).core r.core = g (s.core r.core) := by
    simp only [State.modCore, State.core_setCore _ _ _ _ hc, if_true]
    rfl
  have hsame (l : List VReq) : ({ s with vreqs := l } : State).core r.core = s.core r.core := rfl
  simp only [State.vreqReply, hk, hb, hsame, hw, hx, hcore, Core.seq_modSeq, Seq.travels, ht, if_true]

theorem remoteVaultReply_waits {s : State} {r : VReq} {n : Nat} (hr : s.vreqs.find? (fun y => y.id == n) = some r)
    (hs : s.vreqReply r = s) : exec (.remoteVaultReply n) s = .next s := by
  rw [exec_remoteVaultReply, execRemoteVaultReply, hr]
  simp [hs]

/-- Refutes O47: a reply that is due does not always leave the list of requests. Core 0 waits for a poisoned atomic, whose reply
has come, and for a load of another vault, whose reply has not: the trap of the atomic waits for the load (R331), so that the
step changes nothing and the request is still listed. -/
theorem not_resultsLand : ¬Obligations.resultsLand := by
  intro h
  let atomic : VReq := ⟨0, 0, 0, .as, 0, 0, 1, false, .atom .add 0, 0x40, 8, .i64, 7, false, 0, true, true, 0⟩
  let own : Result := ⟨5, 0, .vault 0, none, false⟩
  let other : Result := ⟨3, 0, .vault 1, none, false⟩
  let issuer : Core := { Core.reset with as := { Seq.reset with results := [own, other], wait := some (.vault 0) } }
  let s : State := { State.reset.setCore 0 issuer with vreqs := [atomic] }
  have hc : s.core atomic.core = issuer := State.core_setCore_same State.reset 0 issuer
  have hs : exec (.remoteVaultReply 0) s = .next s :=
    remoteVaultReply_waits rfl (State.vreqReply_waits (x := own) rfl (by decide) rfl (by rw [hc]; rfl) (by rw [hc]; rfl) (by rw [hc]; rfl))
  obtain ⟨-, -, -, -, ⟨t, ht, hp⟩, -⟩ := h 0 .as 0 0 own ⟨0, 0, .exp2, Vector.replicate 1024 0, 0, 0, false⟩ [] atomic 0 s
  obtain rfl : s = t := Host.Outcome.next.inj (hs.symm.trans ht)
  obtain ⟨-, hdue⟩ := hp rfl
  obtain ⟨hgone, -⟩ := hdue rfl (Nat.zero_le _) (by decide)
  exact hgone atomic List.mem_cons_self rfl

end Sys2Proof.Machine
end

section
/-! The special-function unit (R34, R35, R378): what its instructions leave pending, and the issue count. -/

namespace Sys2Proof.Machine

/-! ### Vectors and flags -/

@[simp] theorem vget_vmapi {α β : Type} {n : Nat} (d : β) (e : α) (v : Vector α n) (f : Nat → α → β) (i : Nat) (h : i < n) :
    vget d (vmapi v f) i = f i (vget e v i) := by
  simp [vget, vmapi, h]

theorem toList_tab {α : Type} (n : Nat) (f : Nat → α) : (tab n f).toList = (List.range n).map f := rfl

theorem getLsbD_foldl_or (fs : List Flags) (x : Flags) (j : Nat) :
    (fs.foldl (fun a b => a ||| b) x).getLsbD j = true ↔ x.getLsbD j = true ∨ ∃ f ∈ fs, f.getLsbD j = true := by
  induction fs generalizing x with
  | nil => simp
  | cons f fs ih => rw [List.foldl_cons, ih]; simp [or_assoc]

/-- A flag is among the flags of all where it is among those of one. -/
theorem getLsbD_orAll (fs : List Flags) (j : Nat) : (orAll fs).getLsbD j = true ↔ ∃ f ∈ fs, f.getLsbD j = true := by
  simp [orAll, getLsbD_foldl_or]

/-- The lanes that the lane guard selects, bit by bit. -/
theorem State.lanes_isOn (u : State) (c : Ctl) {l : Nat} (hl : l < 1024) : bt (u.lanes c) l = true ↔ u.isOn c l := by
  unfold bt State.lanes State.isOn
  cases c.lNeg <;> simp [hl]

/-! ### Who issues -/

/-- An instruction that the AS may not run issues on the XS (R275). -/
theorem Issues.onXs {i : Instr} {c : Ctl} {s : State} (h : Issues i c s) (hi : i.runsOn .as = false) : s.curSeq = .xs := by
  have hr := h.runs
  cases hs : s.curSeq with
  | as => simp [State.wrongSeq, hs, hi] at hr
  | xs => rfl

/-- The STALL slots leave INH. -/
theorem State.startIssue_inh {s : State} {c : Ctl} (hx : s.curSeq = .xs) : (s.startIssue c).cc.xs.inh = s.cc.xs.inh := by
  have hq := State.sq_startIssue s c
  simp only [State.sq, State.startIssue_curSeq, hx, Core.seq] at hq
  rw [hq]
  rfl

/-! ### The issue count (R33) -/

@[simp] theorem Core.count_modSeq (k : Core) (i : SeqId) {g : Seq → Seq} (h : ∀ q, (g q).inh = q.inh) : (k.modSeq i g).count = k.count := by
  cases i
  · rfl
  · simp only [Core.count, Core.modSeq_x]
    rw [show (k.modSeq .xs g).xs = g k.xs from rfl, h]

@[simp] theorem Core.count_countEv (k : Core) (ev n : Nat) : (k.countEv ev n).count = k.count := by rw [Core.countEv_eq]; rfl

@[simp] theorem Core.count_tagged (k : Core) (q : SeqId) (u : RegUse) (c : Ctl) (sec : Bool) : (k.tagged q u c sec).count = k.count := by
  cases q <;> rfl

@[simp] theorem Core.count_clearPois (k : Core) (ms : List (Fin 16)) (ks : List (Fin 4)) (ps : List (Fin 16)) :
    (k.clearPois ms ks ps).count = k.count := rfl

@[simp] theorem Core.count_setCount (k : Core) (n : Nat) : (k.setCount n).count = n := by
  simp only [Core.count, Core.setCount, Core.modX_x, Core.modX_xs]
  split <;> rfl

@[simp] theorem Core.count_pass (k : Core) (n : Nat) : (k.modX (XUnit.pass n)).count = k.count := rfl

@[simp] theorem Core.count_setPipe (k : Core) (l : List SfuPend) : (k.setPipe l).count = k.count := by
  simp only [Core.count, Core.setPipe, Core.modX_x, Core.modX_xs]
  split <;> rfl

/-- An instruction of the XS takes one issue slot. -/
theorem Core.count_counted_xs (k : Core) (vec : Bool) : (k.counted .xs vec).count = k.count + 1 := by
  cases vec <;> simp [Core.counted]

/-- Retiring on the XS advances the issue count by one. -/
theorem count_done {t : State} (hx : t.curSeq = .xs) (s1 : State) (vec : Bool) (c : Ctl) (u : RegUse) (sec : Bool) (pc : Word) :
    (((t.settleDests s1 c u sec).countIssue vec).advance pc).cc.count = t.cc.count + 1 := by
  simp only [State.advance, State.countIssue_eq, State.settleDests, State.tagDests_eq, State.modSq, State.cc_modCC,
    State.modCC_curSeq, hx]
  rw [Core.count_modSeq, Core.count_counted_xs, Core.count_modSeq, Core.count_clearPois, Core.count_tagged]
  all_goals exact fun _ => rfl

/-! ### What waiting for a place in the pipe leaves (R35) -/

@[simp] theorem Core.seq_setPipe (k : Core) (l : List SfuPend) (i : SeqId) : (k.setPipe l).seq i = k.seq i := Core.seq_modX _ _ _
@[simp] theorem Core.rest_setPipe (k : Core) (l : List SfuPend) : (k.setPipe l).rest = k.rest := rfl

theorem Core.x_setPipe (k : Core) (l : List SfuPend) :
    (k.setPipe l).x = if k.xs.inh then { k.x with sfuH := l } else { k.x with sfu := l } := rfl

/-- A change of the pipe leaves the registers, the flags and the generators. -/
theorem Core.setPipe_same (k : Core) (l : List SfuPend) : (k.setPipe l).x.v = k.x.v ∧ (k.setPipe l).x.p = k.x.p ∧
    (k.setPipe l).x.settleAll.vstat = k.x.settleAll.vstat ∧ (k.setPipe l).x.gen = k.x.gen := by
  rw [Core.x_setPipe]
  split <;> exact ⟨rfl, rfl, rfl, rfl⟩

theorem RegsKept.setPipe (q : SeqId) (k : Core) (l : List SfuPend) : RegsKept q k (k.setPipe l) :=
  have ⟨hv, hp, _, _⟩ := k.setPipe_same l
  .of_seq (fun _ => Core.seq_setPipe _ _ _) hv hp rfl

@[simp] theorem Core.seq_makeRoom (n : Nat) (k : Core) (i : SeqId) : (Core.makeRoom n k).seq i = k.seq i := by
  unfold Core.makeRoom
  split
  · split
    · rw [Core.seq_landDue, Core.seq_setCount]
    · rfl
  · rfl

@[simp] theorem Core.rest_makeRoom (n : Nat) (k : Core) : (Core.makeRoom n k).rest = k.rest := by
  unfold Core.makeRoom
  split
  · split
    · rw [Core.rest_landDue, Core.rest_setCount]
    · rfl
  · rfl

/-- Retiring after a change of the acting core that leaves every register. -/
theorem Retires.regsSame {pc : Word} {u t : State} {g : Core → Core} (h : Retires pc (u.modCC g) t)
    (hg : RegsKept u.curSeq u.cc (g u.cc)) : RegsSame {} u t := by
  have hcc : (u.modCC g).cc = g u.cc := State.cc_modCC u g
  have hsq : (u.modCC g).sq = (g u.cc).seq u.curSeq := by rw [State.sq, hcc, State.modCC_curSeq]
  refine ⟨?_, fun r _ => ?_, fun r _ => ?_, fun r _ => ?_, fun r _ => ?_, fun r _ => ?_⟩
  · have ho := h.regs.other
    rw [hcc, State.modCC_curSeq] at ho
    exact ho.trans hg.other
  · rw [h.regs.sRegs r (by simp), State.rs, hsq, Seq.rs, hg.s]; rfl
  · rw [h.regs.flags r (by simp), State.rf, hsq, Seq.rf, hg.f]; rfl
  · rw [h.regs.vRegs r (by simp), State.rv, hcc, XUnit.rv, hg.v]; rfl
  · rw [h.regs.preds r (by simp), State.rp, hcc, XUnit.rp, hg.p]; rfl
  · rw [h.regs.mRegs r (by simp), hcc, hg.m]

/-! ### The pending result -/

/-- What a special function gives in a lane: a pattern and flags, of a selected lane. -/
def State.sfuLane (u : State) (fn : SfuFn) (c : Ctl) (a : Fin 32) (l : Nat) : Nat × Flags :=
  if bt (u.lanes c) l then sfuApply fn (lane (u.rv a) l).toNat else (0, 0)

/-- The result that a special function leaves pending in a state with room for it. -/
def State.sfuPend (u : State) (fn : SfuFn) (c : Ctl) (sec : Bool) (d a : Fin 32) : SfuPend :=
  ⟨d, u.cc.count + 8, fn, vmapi (tab 1024 (u.sfuLane fn c a)) fun _ r => BitVec.ofNat 32 r.1, u.lanes c,
    orAll ((tab 1024 (u.sfuLane fn c a)).toList.map Prod.snd), sec⟩

theorem State.sfuIssue_eq (s : State) (fn : SfuFn) (c : Ctl) (sec : Bool) (d a : Fin 32) :
    s.sfuIssue fn c sec d a = (s.modCC (Core.makeRoom s.cycle)).modCC fun k =>
      k.setPipe ((s.modCC (Core.makeRoom s.cycle)).cc.pipe ++ [(s.modCC (Core.makeRoom s.cycle)).sfuPend fn c sec d a]) := rfl

section
variable (u : State) (fn : SfuFn) (c : Ctl) (sec : Bool) (d a : Fin 32)

/-- A selected lane holds the function of the source's lane. -/
theorem State.sfuPend_lane {l : Nat} (hl : l < 1024) (ho : u.isOn c l) :
    lane (u.sfuPend fn c sec d a).val l = BitVec.ofNat 32 (sfuApply fn (lane (u.rv a) l).toNat).1 := by
  have hs : u.sfuLane fn c a l = sfuApply fn (lane (u.rv a) l).toNat := if_pos ((u.lanes_isOn c hl).2 ho)
  rw [← hs, lane, State.sfuPend, vget_vmapi 0 ((0, 0) : Nat × Flags) _ _ l hl, vget_tab _ _ _ l hl]

/-- Its flags are those of the selected lanes. -/
theorem State.sfuPend_fl (j : Nat) : (u.sfuPend fn c sec d a).fl.getLsbD j = true ↔
    ∃ l, l < 1024 ∧ u.isOn c l ∧ (sfuApply fn (lane (u.rv a) l).toNat).2.getLsbD j = true := by
  have hlane : ∀ l : Nat, l < 1024 → ((u.sfuLane fn c a l).2.getLsbD j = true ↔
      u.isOn c l ∧ (sfuApply fn (lane (u.rv a) l).toNat).2.getLsbD j = true) := fun l hl => by
    rw [← u.lanes_isOn c hl, State.sfuLane]
    cases bt (u.lanes c) l <;> simp
  simp only [State.sfuPend, toList_tab, getLsbD_orAll, List.mem_map, List.mem_range, exists_exists_and_eq_and]
  exact exists_congr fun l => and_congr_right fun hl => hlane l hl

end

/-! ### Issuing -/

/-- The state in which a special function reads its source: after the STALL slots, with a place in the pipe. -/
def State.sfuRoom (s : State) (c : Ctl) : State := (s.startIssue c).modCC (Core.makeRoom s.cycle)

section
variable (s : State) (c : Ctl)

theorem State.sfuRoom_cc : (s.sfuRoom c).cc = Core.makeRoom s.cycle (s.startIssue c).cc := State.cc_modCC _ _

theorem State.sfuRoom_rest : (s.sfuRoom c).cc.rest = s.cc.rest := by
  rw [State.sfuRoom_cc, Core.rest_makeRoom, State.rest_startIssue]

theorem State.sfuRoom_sq : (s.sfuRoom c).sq = s.sq.started := by
  rw [State.sq, State.sfuRoom_cc, Core.seq_makeRoom, ← State.sq_startIssue s c]
  rfl

theorem State.sfuRoom_inh (hx : s.curSeq = .xs) : (s.sfuRoom c).cc.xs.inh = s.cc.xs.inh := by
  have hseq := Core.seq_makeRoom s.cycle (s.startIssue c).cc .xs
  rw [State.sfuRoom_cc, ← State.startIssue_inh (c := c) hx]
  exact congrArg Seq.inh hseq

/-- The body of an SFU instruction adds its result to the pipe. -/
theorem State.sfuBody_eq (i : Instr) (fn : SfuFn) (d a : Fin 32) : (s.startIssue c).sfuBody i fn c d a =
    .done ((s.sfuRoom c).modCC fun k =>
      k.setPipe ((s.sfuRoom c).cc.pipe ++ [(s.sfuRoom c).sfuPend fn c ((s.sfuRoom c).srcSec i.regs c) d a])) false := by
  have hcyc : (s.startIssue c).cycle = s.cycle := by rw [(outside_startIssue s c).device]
  rw [State.sfuBody, State.sfuIssue_eq, hcyc]
  rfl

end

/-- An instruction of the XS that issues and sets the pipe completes with nothing else changed. -/
theorem gives_setPipe {i : Instr} {c : Ctl} {s : State} {body : State → Eff} {l : List SfuPend} (hx : s.curSeq = .xs)
    (h : Issues i c s) (hb : body (s.startIssue c) = .done ((s.sfuRoom c).modCC fun k => k.setPipe l) false) :
    Gives (issue i body s) fun t =>
      OutsideSame (s.sfuRoom c) t ∧ t.cc.rest = s.cc.rest ∧ t.sq.rest = (s.sfuRoom c).sq.rest ∧ RegsSame {} (s.sfuRoom c) t ∧
      t.sq.pc = s.sq.pc + 16 ∧ t.sq.results = s.sq.results ∧ Silent (s.sfuRoom c) t ∧
      t.cc.count = (s.sfuRoom c).cc.count + 1 ∧ t.cc.x.rest =
        (if s.cc.xs.inh then { (s.sfuRoom c).cc.x.rest with sfuH := l } else { (s.sfuRoom c).cc.x.rest with sfu := l }) := by
  have hcc : ((s.sfuRoom c).modCC fun k => k.setPipe l).cc = (s.sfuRoom c).cc.setPipe l := State.cc_modCC _ _
  have hsq : ((s.sfuRoom c).modCC fun k => k.setPipe l).sq = (s.sfuRoom c).sq := by rw [State.sq, hcc, Core.seq_setPipe]; rfl
  have hcur : ((s.sfuRoom c).modCC fun k => k.setPipe l).curSeq = .xs := (State.startIssue_curSeq s c).trans hx
  obtain ⟨-, -, hflags, hgen⟩ := (s.sfuRoom c).cc.setPipe_same l
  have hr := retires_done (s.startIssue c) ((s.sfuRoom c).modCC fun k => k.setPipe l) i c i.regs false ((s.startIssue c).sq.pc + 16)
  refine ⟨_, (issue_of_issues h _).trans (by rw [hb]; rfl), (outside_modCC _ _).trans hr.outside, ?_, ?_,
    hr.regsSame (.setPipe _ _ l), ?_, ?_, ⟨?_, ?_⟩, ?_, ?_⟩
  · rw [hr.core, hcc, Core.rest_setPipe, State.sfuRoom_rest]
  · rw [hr.seq, hsq]
  · rw [hr.pc, State.startIssue_pc]
  · rw [hr.results, hsq, State.sfuRoom_sq]; rfl
  · rw [Raises, hr.vstat, hcc, hflags]; simp
  · rw [hr.gen, hcc, hgen]
  · rw [count_done hcur, hcc, Core.count_setPipe]
  · rw [hr.unit, hcc, Core.x_setPipe, State.sfuRoom_inh s c hx]
    split <;> rfl

/-- Settles O33: the four functions by `gives_setPipe`, and what the result holds by the lemmas about it. -/
theorem specialFunctionPends : Obligations.specialFunctionPends := by
  intro c d a s u pends
  have key : ∀ (i : Instr) (fn : SfuFn), i.runsOn .as = false →
      exec i s = issue i (fun s => s.sfuBody i fn c d a) s → pends i fn := by
    intro i fn hi he h
    rw [he]
    refine (gives_setPipe (h.onXs hi) h (s.sfuBody_eq c i fn d a)).imp
      fun t ⟨hout, hcore, hseq, hregs, hpc, hres, hq, hcount, hunit⟩ => ⟨hout, hcore, hseq, hregs, hpc, hres, hq, hcount,
        u.sfuPend fn c (u.srcSec i.regs c) d a, rfl, rfl, rfl, rfl, hunit, fun l hl ho => ?_, fun j => ?_⟩
    · exact u.sfuPend_lane fn c _ d a hl ho
    · exact u.sfuPend_fl fn c _ d a j
  exact ⟨key _ .exp2 rfl rfl, key _ .log2 rfl rfl, key _ .rcp rfl rfl, key _ .rsq rfl rfl⟩

end Sys2Proof.Machine
end

section
/-! Replays, scan tests, the map of rows, freeze, reset, heat and attestation (R17 to R19, R249 to R264). -/

namespace Sys2Proof.Machine

/-! ### What posting an event leaves (R242) -/

/-- Two states that differ in memory, in what caches and channels hold of it and in registers of functions only. -/
def MemoryOnly (s t : State) : Prop :=
  t = { s with mem := t.mem, lineOwner := t.lineOwner, memPois := t.memPois, memSec := t.memSec, msc := t.msc, hbm := t.hbm,
               nextArr := t.nextArr, fns := t.fns }

theorem MemoryOnly.refl (s : State) : MemoryOnly s s := rfl

theorem MemoryOnly.trans {s t u : State} (a : MemoryOnly s t) (b : MemoryOnly t u) : MemoryOnly s u := by
  unfold MemoryOnly at a b ⊢
  rw [b, a]

theorem MemoryOnly.foldl {α : Type} {f : State → α → State} (h : ∀ s x, MemoryOnly s (f s x)) (l : List α) (s : State) :
    MemoryOnly s (l.foldl f s) := by
  induction l generalizing s with
  | nil => exact .refl s
  | cons x l ih => exact (h s x).trans (ih _)

theorem State.deviceRequest_memoryOnly (s : State) (pa fn : Nat) : MemoryOnly s (s.deviceRequest pa fn) := by
  unfold State.deviceRequest
  split <;> rfl

theorem State.setUnit_memoryOnly (s : State) (e : Ext) (u : Nat) : MemoryOnly s (s.setUnit e u) :=
  (s.deviceRequest_memoryOnly _ _).trans rfl

theorem State.dirtied_memoryOnly (s : State) (a n : Nat) : MemoryOnly s (s.dirtied a n) := by
  refine MemoryOnly.foldl (fun s e => ?_) _ s
  unfold State.setUnits
  dsimp only
  split
  · exact MemoryOnly.foldl (fun s i => s.setUnit_memoryOnly e _) _ s
  · exact .refl s

theorem State.ringWrite_memoryOnly (s : State) (fn : Nat) (bs : List Byte) : MemoryOnly s (s.ringWrite fn bs) :=
  ((s.deviceRequest_memoryOnly _ fn).trans (State.dirtied_memoryOnly _ _ _)).trans rfl

theorem State.postEvent_memoryOnly (s : State) (fn : Nat) (addr cptr : Word) (rank detail vf ty : Nat) :
    MemoryOnly s (s.postEvent fn addr cptr rank detail vf ty) := by
  unfold State.postEvent
  dsimp only
  split
  · exact s.ringWrite_memoryOnly _ _
  · split <;> rfl

theorem State.coreEvent_memoryOnly (s : State) (c detail : Nat) : MemoryOnly s (s.coreEvent c detail) := s.postEvent_memoryOnly _ _ _ _ _ _ _

/-! ### One core -/

@[simp] theorem State.core_modCore_same (s : State) (c : CoreId) (g : Core → Core) : (s.modCore c.val g).core c.val = g (s.core c.val) :=
  State.core_setCore_same s c _

theorem State.core_modCore_ne (s : State) {c d : Nat} (g : Core → Core) (h : d ≠ c) : (s.modCore c g).core d = s.core d :=
  State.core_setCore_ne s c d _ h.symm

/-! ### Timing replays (R249, R250) -/

/-- A replay changes no register, and counts two slots in the window of 1 ms. -/
theorem Core.replay_keeps (k : Core) (n : Nat) : (k.replay n).as = k.as ∧ (k.replay n).xs = k.xs ∧ (k.replay n).x = k.x ∧
    (k.replay n).replays = (if k.replaySince + 3300000 ≤ n then 0 else k.replays) + 2 := by
  have hw : replayWindow = 3300000 := rfl
  unfold Core.replay
  rw [hw]
  split <;> (dsimp only; rw [Core.countEv_eq]; exact ⟨rfl, rfl, rfl, rfl⟩)

/-- A core within the limit is not reported; one above it begins a new window. -/
theorem State.replayReport_below {s : State} {c : Nat} (h : (s.core c).replays ≤ 51562) : s.replayReport c = s :=
  if_neg (Nat.not_lt.2 h)

theorem State.replayReport_above {s : State} {c : CoreId} (h : 51562 < (s.core c.val).replays) :
    ((s.replayReport c.val).core c.val).replays = 0 ∧ ((s.replayReport c.val).core c.val).replaySince = s.cycle := by
  have hl : replayLimit = 51562 := rfl
  rw [State.replayReport, hl, if_pos h, State.core_modCore_same]
  exact ⟨rfl, rfl⟩

/-! ### Scan tests (R254) -/

/-- What keeps a core from a scan test: no interval, a launch, a context being saved, a failure, a test, or too short a rest. -/
theorem State.scanStart_eq (s : State) (c : Nat) : s.scanStart c =
    if (s.pfReg 0x24200).toNat = 0 ∨ (s.core c).launch ≠ none ∨ s.beingSaved c = true ∨ c ∈ s.failed ∨ (∃ x ∈ s.scan, x.core = c) ∨
        s.cycle < SMap.get 0 s.idleSince c + (s.pfReg 0x24200).toNat * 3300000000 then s
    else { s with scan := s.scan ++ [⟨c, s.cycle⟩] } := by
  have hs : slotsPerSecond = 3300000000 := rfl
  have hl : (s.core c).launch.isSome = true ↔ (s.core c).launch ≠ none := by cases (s.core c).launch <;> simp
  have hx : (s.scan.any fun x => x.core == c) = true ↔ ∃ x ∈ s.scan, x.core = c := by simp
  simp only [State.scanStart, hs, hl, hx, List.contains_iff_mem]

/-- The core after a test: no longer in the list, idle from now on, its floors raised. -/
def State.scanReleased (s : State) (c : Nat) (fs : List (Nat × Nat)) : State :=
  ({ s with scan := s.scan.filter (fun x => x.core != c), idleSince := SMap.insert s.idleSince c s.cycle } : State).modVault c
    fun v => v.raiseFloors fs

theorem State.mem_scanReleased (s : State) (c : Nat) (fs : List (Nat × Nat)) (x : Scan) :
    x ∈ (s.scanReleased c fs).scan ↔ x ∈ s.scan ∧ x.core ≠ c := by
  simp [State.scanReleased, State.modVault, State.modCore]

/-- A test that is over releases its core, which has failed with a wrong signature, and not with a right one and no floor
raised. -/
theorem State.scanEnd_due {s : State} {c : Nat} {z : Scan} {pass : Bool} {fs : List (Nat × Nat)}
    (hz : s.scan.find? (fun x => x.core == c) = some z) (ht : z.since + 660000 ≤ s.cycle) :
    ∃ ok : Bool, s.scanEnd c pass fs = (if ok then s.scanReleased c fs else (s.scanReleased c fs).failCore c) ∧
      (pass = true → fs = [] → ok = true) ∧ (pass = false → ok = false) := by
  have hw : 200 * slotsPerUs = 660000 := rfl
  refine ⟨pass && !(fs.any fun f => decide (f.1 < 8448) && decide ((s.vault c).floorOf f.1 < f.2) && decide (s.vpCur.toNat < f.2)),
    ?_, ?_, ?_⟩
  · simp only [State.scanEnd, hz, hw, if_neg (Nat.not_lt.2 ht)]
    rfl
  · rintro rfl rfl; rfl
  · rintro rfl; rfl

/-- A core that has failed is listed, or its row waits to be retired. -/
theorem State.failCore_listed (s : State) (c : Nat) :
    c ∈ (s.failCore c).failed ∨ vget none (s.failCore c).retiring (leafOf c) = some (coreY c) := by
  have hl : leafOf c < 2 := by simp only [leafOf, coreX]; omega
  unfold State.failCore
  dsimp only
  split
  · exact .inr (vget_vset_same _ _ _ _ hl)
  · exact .inl (by simp)

theorem State.failCore_scan (s : State) (c : Nat) : (s.failCore c).scan = s.scan := by
  have he : (s.coreEvent c 2).scan = s.scan := (congrArg State.scan (s.coreEvent_memoryOnly c 2) :)
  unfold State.failCore
  dsimp only
  split <;> exact he

/-! ### The map of rows (R17 to R19, R255) -/

theorem inRows_iff {leaf y c : Nat} : inRows leaf y c = true ↔ coreX c / 16 = leaf ∧ y ≤ coreY c := by
  simp [inRows, leafOf]

/-- Whether a launch occupies a core of the rows that move. -/
theorem State.rowsBusy_iff {s : State} {leaf y : Nat} :
    ((List.range 384).any fun c => inRows leaf y c && ((s.core c).launch.isSome || s.beingSaved c)) = true ↔
      ∃ d < 384, (coreX d / 16 = leaf ∧ y ≤ coreY d) ∧ ((s.core d).launch ≠ none ∨ s.beingSaved d = true) := by
  simp only [List.any_eq_true, List.mem_range, Bool.and_eq_true, Bool.or_eq_true, inRows_iff, Option.isSome_iff_ne_none]

theorem State.mapChange_none {s : State} {leaf : Nat} (h : vget none s.retiring leaf = none) : s.mapChange leaf = s := by
  rw [State.mapChange, h]

theorem State.mapChange_busy {s : State} {leaf y : Nat} (h : vget none s.retiring leaf = some y)
    (hb : ∃ d < 384, (coreX d / 16 = leaf ∧ y ≤ coreY d) ∧ ((s.core d).launch ≠ none ∨ s.beingSaved d = true)) : s.mapChange leaf = s := by
  rw [State.mapChange, h]
  exact if_pos (State.rowsBusy_iff.2 hb)

/-- With no launch in them the rows move: the retired row is noted, and each core is that of the next row. -/
theorem State.mapChange_moves {s : State} {leaf y : Nat} (hl : leaf < 2) (h : vget none s.retiring leaf = some y)
    (hb : ¬∃ d < 384, (coreX d / 16 = leaf ∧ y ≤ coreY d) ∧ ((s.core d).launch ≠ none ∨ s.beingSaved d = true)) :
    vget none (s.mapChange leaf).retired leaf = some (s.physRow leaf y) ∧ vget none (s.mapChange leaf).retiring leaf = none ∧
    (s.mapChange leaf).mem = s.mem ∧ ∀ d, d < 384 → (s.mapChange leaf).core d =
      if coreX d / 16 = leaf ∧ y ≤ coreY d then (if coreY d = 11 then { Core.reset with slotSeen := s.cycle } else s.core (d + 32))
      else s.core d := by
  simp only [State.mapChange, h, if_neg (mt State.rowsBusy_iff.1 hb)]
  refine ⟨vget_vset_same _ _ _ _ hl, vget_vset_same _ _ _ _ hl, trivial, fun d hd => ?_⟩
  simp only [State.core, vget_vmapi Core.reset Core.reset _ _ d hd, inRows_iff]

/-! ### Reset, heat and attestation (R260 to R264) -/

theorem State.afterReset_core (s : State) {d : Nat} (hd : d < 384) :
    s.afterReset.core d = { Core.reset with vault := { Vault.reset with floors := (s.core d).vault.floors } } :=
  vget_vmapi Core.reset Core.reset _ _ d hd

/-- The junction reaches 105 °C: it is noted, and the package freezes where FRZCFG says so. -/
theorem State.thermal_warns {s : State} {temp : Word} (h : 105 ≤ temp.toNat) (hw : s.tempWarned = false) :
    (s.thermal temp).tempWarned = true ∧ (s.thermal temp).frozen = (s.frozen || (s.pfReg 0x24210).getLsbD 3) := by
  have hp := State.postEvent_memoryOnly { s with tempWarned := true } pfFn temp 0 0 3 0xFF 7
  have hwarn := congrArg State.tempWarned hp
  have hfrozen := congrArg State.frozen hp
  have hreg := congrArg (fun t : State => bt (t.pfReg 0x24210) 3) hp
  simp only [State.thermal, if_neg (Nat.not_lt.2 h), hw, Bool.false_eq_true, if_false]
  split
  next hb =>
    have hbit : (s.pfReg 0x24210).getLsbD 3 = true := hreg.symm.trans hb
    exact ⟨hwarn, by rw [hbit, Bool.or_true]⟩
  next hb =>
    have hbit : (s.pfReg 0x24210).getLsbD 3 = false := hreg.symm.trans (Bool.eq_false_iff.2 hb)
    exact ⟨hwarn, by rw [hbit, Bool.or_false]; exact hfrozen⟩

theorem State.measurements_config {s : State} {f : FnId} (cptr : Word) (hm : (s.pfReg 0x24208).getLsbD 0 = false) (hf : f.val < 64) :
    s.measurements f cptr = s.answer 6 f.val (Config.vfMeasurement (s.vfConfig f.val)) := by
  have hne : f.val ≠ pfFn := by simp only [pfFn]; omega
  simp only [State.measurements, bt, hm, hne, if_false, Bool.false_eq_true]

theorem State.measurements_launch {s : State} {f : FnId} {cptr : Word} {l : Launch} (hm : (s.pfReg 0x24208).getLsbD 0 = true)
    (hl : s.launches.find? (fun x => x.fn == f.val && x.cptr == cptr && x.flagS) = some l) :
    s.measurements f cptr = s.answer 6 f.val l.measure := by
  simp only [State.measurements, bt, hm, hl, if_true, Option.map_some, Option.getD_some]

/-- Settles O51: one clause for each step of the reliability logic, by the lemmas above. -/
theorem reliabilitySteps : Obligations.reliabilitySteps := by
  intro c leaf pass fs y temp vf cptr z l s k answers rowOf
  refine ⟨⟨_, exec_timingReplay c s, rfl, fun d hd => State.core_modCore_ne s _ hd, ?_⟩,
    ⟨_, exec_replayLimitEvent c s, State.replayReport_below, State.replayReport_above⟩,
    ⟨_, exec_scanTestStart c s, ?_⟩, ⟨_, exec_scanTestAbort c s, ?_⟩, ⟨_, exec_scanTestComplete c pass fs s, ?_, ?_, ?_⟩,
    ⟨_, exec_logicalMapChange leaf s, State.mapChange_none, State.mapChange_busy, fun hy hb => ?_⟩, rfl,
    ⟨_, exec_packageReset s, rfl, rfl, rfl, rfl, rfl, rfl, rfl, fun d hd => s.afterReset_core hd⟩,
    ⟨_, exec_railsFall s, rfl, rfl, rfl⟩, ⟨_, exec_thermalWarning temp s, ?_, ?_, State.thermal_warns⟩, rfl, rfl, rfl, rfl, rfl, rfl, rfl,
    fun hm hf => ?_, fun hm hl => ?_⟩
  · rw [State.core_modCore_same]
    exact k.replay_keeps s.cycle
  · rw [State.scanStart_eq]
    dsimp only
    split <;> rfl
  · refine ⟨?_, fun h => if_neg (by rw [h]; decide), fun h x => ?_⟩
    · unfold State.scanAbort
      split <;> rfl
    · rw [State.scanAbort, if_pos h]
      simp
  · intro h
    rw [State.scanEnd, h]
  · intro h ht
    have hw : 200 * slotsPerUs = 660000 := rfl
    rw [State.scanEnd, h]
    dsimp only
    rw [hw, if_pos ht]
  · intro hz ht
    obtain ⟨ok, he, hok, hbad⟩ := State.scanEnd_due (pass := pass) (fs := fs) hz ht
    rw [he]
    refine ⟨fun x => ?_, fun hp hf => ?_, fun hp => ?_⟩
    · rw [← s.mem_scanReleased c.val fs]
      split
      · rfl
      · rw [State.failCore_scan]
    · rw [hok hp hf]
      exact ⟨rfl, rfl⟩
    · rw [hbad hp]
      exact State.failCore_listed _ _
  · obtain ⟨hret, hnone, hmem, hcore⟩ := State.mapChange_moves leaf.isLt hy (fun ⟨d, hd, hr, hx⟩ => by
      obtain ⟨hl, hs⟩ := hb d hd hr
      exact hx.elim (fun e => e hl) (fun e => by rw [hs] at e; cases e))
    refine ⟨hret, hnone, hmem, fun d hd => ⟨fun hr => ?_, fun hr h11 => ?_⟩⟩
    · rw [hcore d hd, if_neg hr]
    · rw [hcore d hd, if_pos hr, if_neg (Nat.ne_of_lt h11)]
  · exact fun h => if_pos h
  · intro h hw
    rw [State.thermal, if_neg (Nat.not_lt.2 h), if_pos hw]
  · exact (congrArg Host.Outcome.next (State.measurements_config cptr hm hf) :)
  · exact (congrArg Host.Outcome.next (State.measurements_launch hm hl) :)

end Sys2Proof.Machine
end
section
/-! Instructions that change their core beside its registers; markers and fences (R61, R82, R146, R327, R337). -/

namespace Sys2Proof.Machine

/-- Registers that no list names keep their values whatever a list names. -/
theorem RegsSame.weaken {s t : State} (h : RegsSame {} s t) (u : RegUse) : RegsSame u s t :=
  ⟨h.other, fun r _ => h.sRegs r (by simp), fun r _ => h.flags r (by simp), fun r _ => h.vRegs r (by simp),
    fun r _ => h.preds r (by simp), fun r _ => h.mRegs r (by simp)⟩

/-- What retiring leaves of a change `g` of the acting core: the core's parts are those that `g` gives. -/
structure RetiresWith (u : State) (g : Core → Core) (pc : Word) (t : State) : Prop where
  outside : OutsideSame u t
  core : t.cc.rest = (g u.cc).rest
  seq : t.sq.rest = ((g u.cc).seq u.curSeq).rest
  results : t.sq.results = ((g u.cc).seq u.curSeq).results
  unit : t.cc.x.rest = (g u.cc).x.rest
  vstat : t.cc.x.settleAll.vstat = (g u.cc).x.settleAll.vstat
  gen : t.cc.x.gen = (g u.cc).x.gen
  pc : t.sq.pc = pc

/-- An instruction that issues and changes its own core beside the registers retires with that change. -/
theorem gives_modCC {i : Instr} {c : Ctl} {s : State} {sec : Bool} {body : State → Eff} {g : Core → Core} (h : Issues i c s)
    (hb : body (s.startIssue c) = .done ((s.startIssue c).modCC g) sec)
    (hg : RegsKept (s.startIssue c).curSeq (s.startIssue c).cc (g (s.startIssue c).cc)) :
    Gives (issue i body s) fun t =>
      RetiresWith (s.startIssue c) g (s.sq.pc + 16) t ∧ RegsSame {} (s.startIssue c) t :=
  (gives_done h hb).imp fun t hr => by
    have hcc := State.cc_modCC (s.startIssue c) g
    have hsq : ((s.startIssue c).modCC g).sq = (g (s.startIssue c).cc).seq (s.startIssue c).curSeq := by
      rw [State.sq, hcc, State.modCC_curSeq]
    refine ⟨⟨(outside_modCC _ _).trans hr.outside, ?_, ?_, ?_, ?_, ?_, ?_, ?_⟩, hr.regsSame hg⟩
    · rw [hr.core, hcc]
    · rw [hr.seq, hsq]
    · rw [hr.results, hsq]
    · rw [hr.unit, hcc]
    · rw [hr.vstat, hcc]
    · rw [hr.gen, hcc]
    · rw [hr.pc, State.startIssue_pc]

/-- A change that leaves the vector unit raises no flag. -/
theorem RetiresWith.silent {u t : State} {g : Core → Core} {pc : Word} (h : RetiresWith u g pc t) (hx : (g u.cc).x = u.cc.x) :
    Silent u t :=
  ⟨by rw [Raises, h.vstat, hx]; simp, by rw [h.gen, hx]⟩

/-- An instruction that issues and only retires. -/
theorem gives_unchanged {i : Instr} {c : Ctl} {s : State} {sec : Bool} {body : State → Eff} (h : Issues i c s)
    (hb : body (s.startIssue c) = .done (s.startIssue c) sec) :
    Gives (issue i body s) fun t =>
      Writes i.regs (s.startIssue c) t ∧ t.sq.pc = s.sq.pc + 16 ∧ Silent (s.startIssue c) t :=
  gives_writes h hb (.refl _ _) fun _ hr => hr.silent rfl

/-- An instruction that waits has not issued. -/
theorem issue_wait {i : Instr} {c : Ctl} {s t : State} {body : State → Eff} (h : Issues i c s)
    (hb : body (s.startIssue c) = .wait t) : issue i body s = .next t := by
  rw [issue_of_issues h, hb]
  rfl

/-! ### What the STALL slots leave -/

theorem State.startIssue_results (s : State) (c : Ctl) : (s.startIssue c).sq.results = s.sq.results := by
  rw [State.sq_startIssue]; rfl

theorem State.startIssue_sqRest (s : State) (c : Ctl) : (s.startIssue c).sq.rest = s.sq.rest := by
  rw [State.sq_startIssue]; rfl

theorem State.startIssue_fences (s : State) (c : Ctl) : (s.startIssue c).sq.fences = s.sq.fences := by
  rw [State.sq_startIssue]; rfl

theorem State.startIssue_ticket (s : State) (c : Ctl) : (s.startIssue c).cc.ticket = s.cc.ticket :=
  (congrArg Core.ticket (State.rest_startIssue s c) :)

theorem State.startIssue_markers (s : State) (c : Ctl) : (s.startIssue c).cc.k = s.cc.k :=
  (congrArg Core.k (State.rest_startIssue s c) :)

/-- A wait of a fence outlasts the STALL slots; no other wait becomes one. -/
theorem State.startIssue_xfence (s : State) (c : Ctl) (n : Nat) :
    (s.startIssue c).sq.wait = some (.xfence n) ↔ s.sq.wait = some (.xfence n) := by
  rw [State.sq_startIssue, Seq.started]
  cases s.sq.wait with
  | none => simp
  | some w => cases w <;> simp

/-! ### Markers (R61, R337) -/

/-- `MARK` changes the markers and takes a number. -/
theorem Core.mark_eq (k : Core) (i : Fin 4) (n : BitVec 8) (mask : BitVec 5) :
    k.mark i n mask = { k with k := vset k.k i.val (some ⟨n, mask, mask, k.ticket⟩), ticket := k.ticket + 1 } := rfl

theorem Core.seq_mark (k : Core) (i : Fin 4) (n : BitVec 8) (mask : BitVec 5) (q : SeqId) : (k.mark i n mask).seq q = k.seq q := by
  cases q <;> rfl

theorem RegsKept.mark (q : SeqId) (k : Core) (i : Fin 4) (n : BitVec 8) (mask : BitVec 5) : RegsKept q k (k.mark i n mask) :=
  .of_seq (k.seq_mark i n mask) rfl rfl rfl

theorem mark_acts {c : Ctl} {k : Fin 4} {n : BitVec 8} {mask : BitVec 5} {s : State} (h : Issues (.mark c k n mask) c s) :
    Acts (.mark c k n mask) c s (s.sq.pc + 16) fun t => t.sq.results = s.sq.results ∧ Silent (s.startIssue c) t ∧
      t.cc.rest = { s.cc.rest with k := vset s.cc.k k.val (some ⟨n, mask, mask, s.cc.ticket⟩), ticket := s.cc.ticket + 1 } := by
  have hseq := (s.startIssue c).cc.seq_mark k n mask
  have hx : ((s.startIssue c).cc.mark k n mask).x = (s.startIssue c).cc.x := rfl
  rw [Acts, ActsFrom, exec_mark, execMark]
  refine (gives_modCC (sec := false) (g := fun q => q.mark k n mask) h rfl (.mark _ _ k n mask)).imp
    fun t ⟨hr, hregs⟩ => ⟨hr.outside, ?_, by rw [hr.unit, hx], hregs.weaken _, hr.pc, ?_, hr.silent hx, ?_⟩
  · rw [hr.seq, hseq]; rfl
  · rw [hr.results, hseq]; exact s.startIssue_results c
  · rw [hr.core, Core.mark_eq, State.startIssue_markers, State.startIssue_ticket, ← State.rest_startIssue s c]; rfl

/-- What of a marker lets `WAITMK` complete. -/
theorem Core.markDone_iff (k : Core) (i : Fin 4) (n : BitVec 8) :
    k.markDone i n = true ↔ ∀ m, vget none k.k i.val = some m → m.n ≠ n ∨ m.left = 0 := by
  unfold Core.markDone
  cases vget none k.k i.val <;> simp

/-- A marker of another number, or one that the array has not been given, hides no flags. -/
theorem Core.revealDrains_id {k : Core} {i : Fin 4} {n : BitVec 8}
    (h : ∀ m, vget none k.k i.val = some m → m.n ≠ n ∨ m.mask.getLsbD 2 = false) : k.revealDrains i n = k := by
  unfold Core.revealDrains
  cases hm : vget none k.k i.val with
  | none => rfl
  | some m =>
    refine if_neg ?_
    rcases h m hm with hn | hb
    · simp [hn]
    · simp only [bt, hb, Bool.and_false]; decide

theorem Core.revealDrains_of {k : Core} {i : Fin 4} {m : Marker} (h : vget none k.k i.val = some m)
    (hb : m.mask.getLsbD 2 = true) : k.revealDrains i m.n = k.modX (XUnit.reveal m.ticket) := by
  unfold Core.revealDrains
  rw [h]
  exact if_pos (by simp [bt, hb])

/-- A fold that puts in the flags of some entries. -/
theorem getLsbD_foldl_orIf {α : Type} (p : α → Prop) [DecidablePred p] (f : α → Flags) (l : List α) (v : Flags) (j : Nat) :
    (l.foldl (fun v e => if p e then v ||| f e else v) v).getLsbD j = true ↔
      v.getLsbD j = true ∨ ∃ e ∈ l, p e ∧ (f e).getLsbD j = true := by
  induction l generalizing v with
  | nil => simp
  | cons a l ih =>
    rw [List.foldl_cons, ih]
    by_cases ha : p a <;> simp [ha, or_assoc]

/-- The flags of drains that reads of VSTAT see after a marker of the array. -/
theorem XUnit.reveal_vstat (x : XUnit) (n j : Nat) : (x.reveal n).settleAll.vstat.getLsbD j = true ↔
    x.settleAll.vstat.getLsbD j = true ∨ ∃ e ∈ x.drained, e.ticket < n ∧ e.fl.getLsbD j = true := by
  have hall (v : Flags) : (x.vflags.foldl (fun v e => v ||| e.fl) v).getLsbD j = true ↔
      v.getLsbD j = true ∨ ∃ e ∈ x.vflags, e.fl.getLsbD j = true := by
    simpa using getLsbD_foldl_orIf (fun _ : FlagPend => True) FlagPend.fl x.vflags v j
  simp only [XUnit.settleAll, XUnit.reveal, hall, getLsbD_foldl_orIf (fun e : DrainFlags => e.ticket < n) DrainFlags.fl]
  rw [or_right_comm]

section
variable {c : Ctl} {k : Fin 4} {n : BitVec 8} {s : State}

theorem waitmk_passes (h : Issues (.waitmk c k n) c s)
    (hm : ∀ m, vget none s.cc.k k.val = some m → m.n ≠ n ∨ m.left = 0 ∧ m.mask.getLsbD 2 = false) :
    WritesRegs (.waitmk c k n) c s fun t => Silent (s.startIssue c) t := by
  rw [← State.startIssue_markers s c] at hm
  have hdone : (s.startIssue c).cc.markDone k n = true :=
    (Core.markDone_iff _ _ _).2 fun m hk => (hm m hk).imp id And.left
  have hcore : (s.startIssue c).modCC (fun q => q.revealDrains k n) = s.startIssue c := by
    have hid := Core.revealDrains_id fun m hk => (hm m hk).imp id And.right
    rw [State.modCC, State.modCore, show (s.startIssue c).core (s.startIssue c).cur = (s.startIssue c).cc from rfl, hid]
    exact State.setCore_core _ _
  rw [WritesRegs, GoesTo, exec_waitmk, execWaitmk]
  refine gives_unchanged (sec := false) h ?_
  simp only [hdone, if_true, hcore]

theorem waitmk_reveals {m : Marker} (h : Issues (.waitmk c k m.n) c s) (hk : vget none s.cc.k k.val = some m) (hl : m.left = 0)
    (hb : m.mask.getLsbD 2 = true) :
    Gives (exec (.waitmk c k m.n) s) fun t => OutsideSame (s.startIssue c) t ∧ RegsSame {} (s.startIssue c) t ∧
      t.sq.pc = s.sq.pc + 16 ∧ t.cc.rest = s.cc.rest ∧ t.sq.rest = s.sq.rest ∧ t.sq.results = s.sq.results ∧
      (∀ j, t.cc.x.settleAll.vstat.getLsbD j = true ↔ (s.startIssue c).cc.x.settleAll.vstat.getLsbD j = true ∨
        ∃ e ∈ (s.startIssue c).cc.x.drained, e.ticket < m.ticket ∧ e.fl.getLsbD j = true) := by
  rw [← State.startIssue_markers s c] at hk
  have hdone : (s.startIssue c).cc.markDone k m.n = true :=
    (Core.markDone_iff _ _ _).2 fun x hx => .inr (by rw [hk] at hx; cases hx; exact hl)
  have hg : (s.startIssue c).cc.revealDrains k m.n = (s.startIssue c).cc.modX (XUnit.reveal m.ticket) :=
    Core.revealDrains_of hk hb
  have hseq (q : SeqId) : ((s.startIssue c).cc.revealDrains k m.n).seq q = (s.startIssue c).cc.seq q := by
    rw [hg, Core.seq_modX]
  rw [exec_waitmk, execWaitmk]
  refine (gives_modCC (sec := false) (g := fun q => q.revealDrains k m.n) h (by simp only [hdone, if_true])
    (.of_seq hseq (by rw [hg]; rfl) (by rw [hg]; rfl) (by rw [hg]; rfl))).imp
    fun t ⟨hr, hregs⟩ => ⟨hr.outside, hregs, hr.pc, ?_, ?_, ?_, fun j => ?_⟩
  · rw [hr.core, hg, Core.rest_modX, State.rest_startIssue]
  · rw [hr.seq, hseq]; exact s.startIssue_sqRest c
  · rw [hr.results, hseq]; exact s.startIssue_results c
  · rw [hr.vstat, hg]; exact XUnit.reveal_vstat _ _ _

theorem waitmk_waits {m : Marker} (h : Issues (.waitmk c k m.n) c s) (hk : vget none s.cc.k k.val = some m) (hl : m.left ≠ 0) :
    exec (.waitmk c k m.n) s = .next (s.startIssue c) := by
  rw [← State.startIssue_markers s c] at hk
  have hdone : (s.startIssue c).cc.markDone k m.n = false := by
    rw [Bool.eq_false_iff, Ne, Core.markDone_iff]
    exact fun hall => (hall m hk).elim (· rfl) hl
  rw [exec_waitmk, execWaitmk]
  refine issue_wait h ?_
  simp only [hdone, if_neg Bool.false_ne_true]

end

/-! ### Fences (R146, R153, R327, R388) -/

/-- The fences in force after `FENCE`: those that still hold something back, and the new one. -/
def State.fenced (u : State) (b e : BitVec 16) (k : Core) : Core :=
  { k with ticket := k.ticket + 1 }.modSeq u.curSeq
    fun q => { q with fences := u.liveFences ++ [(⟨b, e, u.cc.ticket + 1⟩ : Fence)] }

theorem State.addFence_eq (u : State) (b e : BitVec 16) : u.addFence b e = u.modCC (u.fenced b e) := by
  rw [State.addFence, State.modSq]
  simp only [State.cc_modCC, State.modCC_curSeq]
  exact State.modCC_modCC u _ _

/-- A fence stays in force while an access that it holds back for is pending. -/
theorem State.mem_liveFences (u : State) (f : Fence) : f ∈ u.liveFences ↔
    f ∈ u.sq.fences ∧ ∃ x ∈ u.pendingAccesses, f.before.getLsbD x.1 = true ∧ x.2.1 < f.ticket := by
  simp [State.liveFences]

theorem fence_acts {c : Ctl} {scp : BitVec 3} {b e : BitVec 16} {s : State} (h : Issues (.fence c scp b e) c s) :
    Gives (exec (.fence c scp b e) s) fun t =>
      OutsideSame (s.startIssue c) t ∧ RegsSame {} (s.startIssue c) t ∧ t.sq.pc = s.sq.pc + 16 ∧
      Silent (s.startIssue c) t ∧ t.sq.results = s.sq.results ∧
      t.cc.rest = { s.cc.rest with ticket := s.cc.ticket + 1 } ∧
      ∃ live, t.sq.fences = live ++ [⟨b, e, s.cc.ticket + 1⟩] ∧ t.sq.rest = { s.sq.rest with fences := t.sq.fences } ∧
        ∀ f, f ∈ live ↔ f ∈ s.sq.fences ∧
          ∃ x ∈ (s.startIssue c).pendingAccesses, f.before.getLsbD x.1 = true ∧ x.2.1 < f.ticket := by
  have hseq : ((s.startIssue c).fenced b e (s.startIssue c).cc).seq (s.startIssue c).curSeq =
      { (s.startIssue c).sq with fences := (s.startIssue c).liveFences ++ [(⟨b, e, s.cc.ticket + 1⟩ : Fence)] } := by
    rw [State.fenced, Core.seq_modSeq, State.startIssue_ticket]
    rfl
  have hx : ((s.startIssue c).fenced b e (s.startIssue c).cc).x = (s.startIssue c).cc.x := Core.modSeq_x _ _ _
  rw [exec_fence, execFence]
  refine (gives_modCC (sec := false) (g := (s.startIssue c).fenced b e) h (by rw [State.addFence_eq]) ?_).imp
    fun t ⟨hr, hregs⟩ => ⟨hr.outside, hregs, hr.pc, hr.silent hx, ?_, ?_, (s.startIssue c).liveFences, ?_, ?_, fun f => ?_⟩
  · refine ⟨?_, ?_, ?_, by rw [hx], by rw [hx], ?_⟩
    · rw [State.fenced, Core.seq_modSeq_other]; rfl
    · rw [hseq]; rfl
    · rw [hseq]; rfl
    · rw [State.fenced, Core.modSeq_m]
  · rw [hr.results, hseq]; exact s.startIssue_results c
  · rw [hr.core, State.fenced, Core.rest_modSeq, State.startIssue_ticket, ← State.rest_startIssue s c]; rfl
  · have := congrArg Seq.fences hr.seq
    rw [hseq] at this
    exact this
  · have hf := congrArg Seq.fences hr.seq
    rw [hr.seq, ← State.startIssue_sqRest s c]
    rw [hseq] at hf ⊢
    rw [show t.sq.fences = _ from hf]
    rfl
  · rw [State.mem_liveFences, State.startIssue_fences]

section
variable {c : Ctl} {scp : BitVec 3} {m1 m2 : BitVec 7} {s : State} (h : Issues (.xfence c scp ⟨m1, m2⟩) c s)
include h

theorem xfence_ends {n : Nat} (hw : s.sq.wait = some (.xfence n)) (hp : (s.startIssue c).pathBusy m1 n = false) :
    WritesRegs (.xfence c scp ⟨m1, m2⟩) c s fun t => Silent (s.startIssue c) t := by
  rw [WritesRegs, GoesTo, exec_xfence, execXfence]
  refine gives_unchanged (sec := false) h ?_
  simp only [(s.startIssue_xfence c n).2 hw, hp, if_neg Bool.false_ne_true]

theorem xfence_passes (hw : ∀ n, s.sq.wait ≠ some (.xfence n)) (hp : m1 = 0 ∨ (s.startIssue c).pathBusy m1 s.cc.ticket = false) :
    WritesRegs (.xfence c scp ⟨m1, m2⟩) c s fun t => Silent (s.startIssue c) t := by
  rw [WritesRegs, GoesTo, exec_xfence, execXfence]
  refine gives_unchanged (sec := false) h ?_
  split
  next n hn => exact absurd ((s.startIssue_xfence c n).1 hn) (hw n)
  next =>
    refine if_neg ?_
    rw [State.startIssue_ticket]
    rcases hp with rfl | hp <;> simp [*]

end

/-- Settles O14: one lemma for each way in which `MARK`, `WAITMK`, `FENCE` and `XFENCE` complete or wait. -/
theorem orderingResult : Obligations.orderingResult := by
  refine ⟨fun c k n mask s => ⟨mark_acts, waitmk_passes, ?_, ?_⟩, fun c scp b e m1 m2 s => ⟨fence_acts, fun h => ⟨?_, ?_⟩⟩⟩
  · rintro m h hk rfl hl hb
    exact waitmk_reveals h hk hl hb
  · rintro m h hk rfl hl
    exact waitmk_waits h hk hl
  · exact fun n => xfence_ends h
  · exact xfence_passes h

end Sys2Proof.Machine
end
section
/-! What accesses to global memory leave as it was, whatever they come to: translation, the memory-side caches and
requests to channels change no register, no vault and nothing of a launch but what it has consumed. -/

namespace Sys2Proof.Machine

/-! ### Launches by their numbers -/

theorem find?_modFirst {α : Type} {p : α → Bool} {f : α → α} (hf : ∀ x, p (f x) = p x) (l : List α) :
    (modFirst p f l).find? p = (l.find? p).map f := by
  induction l with
  | nil => rfl
  | cons x xs ih => cases hx : p x <;> simp [modFirst, hx, hf, ih]

theorem find?_modFirst_ne {α : Type} {p q : α → Bool} {f : α → α} (hf : ∀ x, p x = true → q x = false ∧ q (f x) = false)
    (l : List α) : (modFirst p f l).find? q = l.find? q := by
  induction l with
  | nil => rfl
  | cons x xs ih => cases hx : p x <;> cases hq : q x <;> simp_all [modFirst]

theorem map_modFirst {α β : Type} {p : α → Bool} {f : α → α} {g : α → β} (hf : ∀ x, g (f x) = g x) (l : List α) :
    (modFirst p f l).map g = l.map g := by
  induction l with
  | nil => rfl
  | cons x xs ih => cases hx : p x <;> simp [modFirst, hx, hf, ih]

theorem State.launch?_id {s : State} {id : Nat} {l : Launch} (h : s.launch? id = some l) : l.id = id := by
  simpa using List.find?_some h

theorem State.launch?_mem {s : State} {id : Nat} {l : Launch} (h : s.launch? id = some l) : l ∈ s.launches :=
  List.mem_of_find?_eq_some h

theorem State.launch?_congr {s t : State} (h : t.launches = s.launches) (id : Nat) : t.launch? id = s.launch? id := by
  rw [State.launch?, h]; rfl

theorem State.launch?_modLaunch (s : State) (id : Nat) {f : Launch → Launch} (hf : ∀ l, (f l).id = l.id) :
    (s.modLaunch id f).launch? id = (s.launch? id).map f :=
  find?_modFirst (fun x => by rw [hf]) s.launches

theorem State.launch?_modLaunch_ne (s : State) {id j : Nat} {f : Launch → Launch} (h : j ≠ id) (hf : ∀ l, l.id = id → (f l).id = id) :
    (s.modLaunch id f).launch? j = s.launch? j := by
  refine find?_modFirst_ne (fun x hx => ?_) s.launches
  have hid : x.id = id := by simpa using hx
  simp [hid, hf x hid, Ne.symm h]

/-- A launch that is replaced by one of the same number. -/
theorem State.launch?_replace {s : State} {id : Nat} {l y : Launch} (h : s.launch? id = some l) (hy : y.id = id) :
    (s.modLaunch id fun _ => y).launch? id = some y := by
  have key (ls : List Launch) (h : ls.find? (fun l => l.id == id) = some l) :
      (modFirst (fun l => l.id == id) (fun _ => y) ls).find? (fun l => l.id == id) = some y := by
    induction ls with
    | nil => cases h
    | cons x xs ih => cases hx : x.id == id <;> simp_all [modFirst]
  exact key s.launches h

/-! ### Several cores -/

theorem State.core_beyond (s : State) {c : Nat} (h : 384 ≤ c) : s.core c = Core.reset := by
  simp [State.core, vget, h]

theorem State.core_modCore (s : State) (c d : Nat) (f : Core → Core) (h : c < 384) :
    (s.modCore c f).core d = if d = c then f (s.core d) else s.core d := by
  rw [State.modCore, State.core_setCore s c d _ h]
  split
  · next e => rw [e]
  · rfl

/-- What of a core a change leaves, a change of any core leaves of every core. -/
theorem State.core_modCore_keeps {α : Type} (P : Core → α) (s : State) (c : Nat) {f : Core → Core}
    (hf : P (f (s.core c)) = P (s.core c)) (d : Nat) : P ((s.modCore c f).core d) = P (s.core d) := by
  by_cases hc : c < 384
  · rw [State.core_modCore s c d f hc]
    split
    · next e => rw [e]; exact hf
    · rfl
  · by_cases hd : d = c
    · rw [hd, State.core_beyond _ (by omega), State.core_beyond _ (by omega)]
    · rw [State.core_modCore_ne s f hd]

theorem State.modCores_device (s : State) (cs : List Nat) (f : Core → Core) :
    s.modCores cs f = { s with cores := (s.modCores cs f).cores } := by
  unfold State.modCores
  induction cs generalizing s with
  | nil => rfl
  | cons c cs ih => rw [List.foldl_cons, ih]; rfl

@[simp] theorem State.modCores_launches (s : State) (cs : List Nat) (f : Core → Core) : (s.modCores cs f).launches = s.launches := by
  rw [State.modCores_device]

@[simp] theorem State.modCores_cur (s : State) (cs : List Nat) (f : Core → Core) : (s.modCores cs f).cur = s.cur := by
  rw [State.modCores_device]

@[simp] theorem State.modCores_curSeq (s : State) (cs : List Nat) (f : Core → Core) : (s.modCores cs f).curSeq = s.curSeq := by
  rw [State.modCores_device]

theorem State.core_modCores_keeps {α : Type} (P : Core → α) {f : Core → Core} (hf : ∀ k, P (f k) = P k) (s : State) (cs : List Nat)
    (d : Nat) : P ((s.modCores cs f).core d) = P (s.core d) := by
  unfold State.modCores
  induction cs generalizing s with
  | nil => rfl
  | cons c cs ih => rw [List.foldl_cons, ih, State.core_modCore_keeps P s c (hf _)]

/-- What a change gives every core, the cores of a list have after it. -/
theorem State.core_modCores_all {P : Core → Prop} {f : Core → Core} (hf : ∀ k, P (f k)) (s : State) (cs : List Nat) {d : Nat}
    (hd : d < 384) (h : d ∈ cs ∨ P (s.core d)) : P ((s.modCores cs f).core d) := by
  unfold State.modCores
  induction cs generalizing s with
  | nil => exact h.resolve_left (by simp)
  | cons c cs ih =>
    rw [List.foldl_cons]
    refine ih _ ?_
    by_cases hc : d = c
    · subst hc
      rw [State.core_modCore s d d f hd, if_pos rfl]
      exact .inr (hf _)
    · rw [State.core_modCore_ne s f hc]
      exact h.imp (fun hm => (List.mem_cons.1 hm).resolve_left hc) id

theorem State.core_modCores_ne (s : State) {cs : List Nat} {f : Core → Core} {d : Nat} (h : d ∉ cs) :
    (s.modCores cs f).core d = s.core d := by
  unfold State.modCores
  induction cs generalizing s with
  | nil => rfl
  | cons c cs ih =>
    rw [List.foldl_cons, ih _ fun hm => h (by simp [hm]), State.core_modCore_ne s f fun e => h (by simp [e])]

/-! ### What accesses leave -/

/-- A core without its translations and its performance counters. -/
def Core.apart (k : Core) : Core :=
  { k with tlb := [], cnt := Vector.replicate 8 0, cntcfg := Vector.replicate 8 0, wrapped := 0, slotSeen := 0 }

/-- A launch without the bytes that it has consumed and whether a miss excuses it. -/
def Launch.apart (l : Launch) : Launch := { l with usedB := 0, excused := false }

/-- A state without what accesses to global memory change. -/
def State.apart (s : State) : State :=
  { s with
    cores := s.cores.map Core.apart, launches := s.launches.map Launch.apart
    mem := [], lineOwner := [], memPois := [], memSec := [], msc := Vector.replicate 2 [], hbm := [], afetch := []
    fns := Vector.replicate 65 FnRegs.reset, tlb2 := Vector.replicate 2 [], walk := Vector.replicate 2 []
    fresh := 0, nextArr := 0, misses := [], nextId := 0 }

/-- An access to global memory by a core, or by the device itself, leaves `t`. -/
structure Accesses (c : Option Nat) (s t : State) : Prop where
  apart : t.apart = s.apart
  newer : s.nextId ≤ t.nextId
  others : ∀ d, c ≠ some d → t.core d = s.core d

namespace Accesses
variable {c : Option Nat} {s t u : State}

theorem refl (c : Option Nat) (s : State) : Accesses c s s := ⟨rfl, Nat.le_refl _, fun _ _ => rfl⟩

theorem trans (a : Accesses c s t) (b : Accesses c t u) : Accesses c s u :=
  ⟨b.apart.trans a.apart, a.newer.trans b.newer, fun d hd => (b.others d hd).trans (a.others d hd)⟩

theorem foldl {α : Type} {f : State → α → State} (h : ∀ s x, Accesses c s (f s x)) (l : List α) (s : State) :
    Accesses c s (l.foldl f s) := by
  induction l generalizing s with
  | nil => exact .refl c s
  | cons x l ih => exact (h s x).trans (ih _)

theorem of_none (a : Accesses none s t) : Accesses c s t := ⟨a.apart, a.newer, fun d _ => a.others d (by simp)⟩

theorem of_memoryOnly (h : MemoryOnly s t) : Accesses c s t := by
  have hcore (d : Nat) : t.core d = s.core d := by rw [h]; rfl
  exact ⟨by rw [h]; rfl, by rw [h], fun d _ => hcore d⟩

/-- A change of what such an access of the core may change. -/
theorem of_modCore (s : State) (n : Nat) {f : Core → Core} (hf : ∀ k, (f k).apart = k.apart) : Accesses (some n) s (s.modCore n f) := by
  refine ⟨?_, Nat.le_refl _, fun d hd => State.core_modCore_ne s f fun e => hd (by rw [e])⟩
  have hcores : (s.modCore n f).cores.map Core.apart = s.cores.map Core.apart := by
    ext i hi
    have := State.core_modCore_keeps Core.apart s n (hf _) i
    simpa [State.core, vget_eq, hi] using this
  have hs : (s.modCore n f).apart = { s.apart with cores := (s.modCore n f).cores.map Core.apart } := rfl
  rw [hs, hcores]
  rfl

theorem of_modLaunch (s : State) (id : Nat) {f : Launch → Launch} (hf : ∀ l, (f l).apart = l.apart) :
    Accesses c s (s.modLaunch id f) := by
  refine ⟨?_, Nat.le_refl _, fun _ _ => rfl⟩
  have hs : (s.modLaunch id f).apart =
      { s.apart with launches := (modFirst (fun l => l.id == id) f s.launches).map Launch.apart } := rfl
  rw [hs, map_modFirst hf]
  rfl

theorem core (a : Accesses c s t) (d : Nat) : (t.core d).apart = (s.core d).apart := by
  by_cases hd : d < 384
  · have := congrArg (fun u : State => vget Core.reset u.cores d) a.apart
    simpa [State.apart, State.core, vget_eq, hd] using this
  · rw [State.core_beyond _ (by omega), State.core_beyond _ (by omega)]

theorem launches (a : Accesses c s t) : t.launches.map Launch.apart = s.launches.map Launch.apart := congrArg State.launches a.apart

theorem launch? (a : Accesses c s t) (id : Nat) : (t.launch? id).map Launch.apart = (s.launch? id).map Launch.apart := by
  have key (l : List Launch) : (l.find? fun x => x.id == id).map Launch.apart = (l.map Launch.apart).find? fun x => x.id == id := by
    rw [List.find?_map]; rfl
  rw [State.launch?, State.launch?, key, key, a.launches]

theorem ids (a : Accesses c s t) : t.launches.map Launch.id = s.launches.map Launch.id := by
  have key (l : List Launch) : (l.map Launch.apart).map Launch.id = l.map Launch.id := by
    rw [List.map_map]; rfl
  rw [← key, a.launches, key]

/-- A launch that is found before an access is found after it, with nothing changed but what it has consumed. -/
theorem found (a : Accesses c s t) {id : Nat} {l : Launch} (h : s.launch? id = some l) :
    ∃ x, t.launch? id = some x ∧ x.apart = l.apart := by
  have := a.launch? id
  rw [h] at this
  exact Option.map_eq_some_iff.1 this

theorem cycle (a : Accesses c s t) : t.cycle = s.cycle := (congrArg State.cycle a.apart :)
theorem cur (a : Accesses c s t) : t.cur = s.cur := (congrArg State.cur a.apart :)
theorem curSeq (a : Accesses c s t) : t.curSeq = s.curSeq := (congrArg State.curSeq a.apart :)
theorem pf (a : Accesses c s t) : t.pf = s.pf := (congrArg State.pf a.apart :)
theorem frozen (a : Accesses c s t) : t.frozen = s.frozen := (congrArg State.frozen a.apart :)
theorem shadows (a : Accesses c s t) : t.shadows = s.shadows := (congrArg State.shadows a.apart :)
theorem portHeld (a : Accesses c s t) : t.portHeld = s.portHeld := (congrArg State.portHeld a.apart :)

end Accesses

/-! ### Each function -/

theorem State.hbmRequest_accesses (c : Option Nat) (s : State) (pa bytes fn cls : Nat) (stamp : BitVec 16) :
    Accesses c s (s.hbmRequest pa bytes fn cls stamp) := .of_memoryOnly rfl

theorem State.dirtied_accesses (c : Option Nat) (s : State) (a n : Nat) : Accesses c s (s.dirtied a n) :=
  .of_memoryOnly (s.dirtied_memoryOnly a n)

theorem State.writePhys_accesses (c : Option Nat) (s : State) (owner : BitVec 8) (a : Nat) (bs : List Byte) (sec : Bool) :
    Accesses c s (s.writePhys owner a bs sec) := .of_memoryOnly rfl

theorem State.rawWrite_accesses (c : Option Nat) (s : State) (a : Nat) (bs : List Byte) : Accesses c s (s.rawWrite a bs) :=
  .of_memoryOnly rfl

theorem State.postEvent_accesses (c : Option Nat) (s : State) (fn : Nat) (addr cptr : Word) (rank detail vf ty : Nat) :
    Accesses c s (s.postEvent fn addr cptr rank detail vf ty) := .of_memoryOnly (s.postEvent_memoryOnly _ _ _ _ _ _ _)

theorem State.modFn_accesses (c : Option Nat) (s : State) (fn : Nat) (f : FnRegs → FnRegs) : Accesses c s (s.modFn fn f) :=
  .of_memoryOnly rfl

theorem State.charge_accesses (c : Option Nat) (s : State) (id pa n : Nat) : Accesses c s (s.charge id pa n) := by
  unfold State.charge
  split
  · exact .of_modLaunch s id fun _ => rfl
  · exact .refl c s

theorem State.launchRequest_accesses (c : Option Nat) (s : State) (l : Launch) (fn pa n : Nat) :
    Accesses c s (s.launchRequest l fn pa n) := (s.hbmRequest_accesses c _ _ _ _ _).trans (State.charge_accesses _ _ _ _ _)

theorem State.tableRequest_accesses (c : Option Nat) (s : State) (x : XCtx) (pa : Nat) : Accesses c s (s.tableRequest x pa) := by
  unfold State.tableRequest
  split
  · exact .refl c s
  · have hreq := s.hbmRequest_accesses c pa 64 x.fn x.cls x.stamp
    cases x.launch with
    | none => exact hreq
    | some id => exact hreq.trans (State.charge_accesses _ _ _ _ _)

theorem State.walkRequests_accesses (c : Option Nat) (s : State) (x : XCtx) (va : Nat) : Accesses c s (s.walkRequests x va) :=
  .foldl (fun s pa => s.tableRequest_accesses c x pa) _ s

theorem State.orLeaf_accesses (c : Option Nat) (s : State) (x : XCtx) (ea : Nat) (bits : Byte) : Accesses c s (s.orLeaf x ea bits) := by
  unfold State.orLeaf
  split
  · exact ((s.tableRequest_accesses c x _).trans (State.dirtied_accesses _ _ _ _)).trans (State.rawWrite_accesses _ _ _ _)
  · exact .refl c s

section
variable (s : State) (x : XCtx)

/-- A change of the translations that a context uses. -/
theorem Accesses.of_tlb {s t : State} {x : Option Nat} (f : List TlbEnt → List TlbEnt) (hn : x = none → t = s)
    (hs : ∀ c, x = some c → t = s.modCore c fun k => { k with tlb := f k.tlb }) : Accesses x s t := by
  cases x with
  | none => rw [hn rfl]; exact .refl _ s
  | some c => rw [hs c rfl]; exact .of_modCore s c fun _ => rfl

theorem State.install_accesses (t : TlbEnt) (both : Bool) : Accesses x.core s (s.install x t both) := by
  unfold State.install
  extract_lets u
  have hu : Accesses x.core s u :=
    .of_tlb (fun l => fifo 512 l t) (fun h => by simp only [u, h]) fun c h => by simp only [u, h]
  split
  · exact hu.trans ⟨rfl, Nat.le_refl _, fun _ _ => rfl⟩
  · exact hu

theorem State.updateTlb_accesses (ea : Nat) (e : Word) : Accesses x.core s (s.updateTlb x ea e) := by
  unfold State.updateTlb
  extract_lets f u
  have hu : Accesses x.core s u := .of_tlb (List.map f) (fun h => by simp only [u, h]) fun c h => by simp only [u, h]
  exact hu.trans ⟨rfl, Nat.le_refl _, fun _ _ => rfl⟩

theorem State.dropTlb_accesses (ea : Nat) : Accesses x.core s (s.dropTlb x ea) := by
  unfold State.dropTlb
  extract_lets keep u
  have hu : Accesses x.core s u := .of_tlb (List.filter keep) (fun h => by simp only [u, h]) fun c h => by simp only [u, h]
  exact hu.trans ⟨rfl, Nat.le_refl _, fun _ _ => rfl⟩

theorem State.cachePage_accesses (va : Nat) (t : PageTry) : Accesses x.core s (s.cachePage x va t) := by
  unfold State.cachePage
  extract_lets u ent v w
  have hu : Accesses x.core s u := by
    simp only [u]
    split
    · exact s.walkRequests_accesses _ x va
    · exact .refl _ s
  refine hu.trans ?_
  split
  · have hv : Accesses x.core u v := ⟨rfl, Nat.le_refl _, fun _ _ => rfl⟩
    have hw : Accesses x.core v w := by
      simp only [w]
      split
      · exact .refl _ v
      · exact v.orLeaf_accesses _ x _ _
    exact (hv.trans hw).trans (w.install_accesses x _ _)
  · split
    · exact u.install_accesses x _ _
    · exact .refl _ u

theorem State.setD_accesses (t : PageTry) : Accesses x.core s (s.setD x t).1 := by
  unfold State.setD
  split
  · exact .refl _ s
  · split
    · exact State.dropTlb_accesses s x _
    · dsimp only
      split
      · exact (State.orLeaf_accesses _ s x _ _).trans (State.updateTlb_accesses _ x _ _)
      · exact State.dropTlb_accesses s x _

theorem State.commitPage_accesses (wr dirty : Bool) (va : Nat) (t : PageTry) : Accesses x.core s (s.commitPage x wr dirty va t).1 := by
  have hc := s.cachePage_accesses x va t
  unfold State.commitPage
  extract_lets u r
  cases wr
  · exact hc
  · have hd : Accesses x.core s r.1 := hc.trans (State.setD_accesses _ x t)
    simp only [if_true]
    split
    · exact hd.trans (State.dirtied_accesses _ _ _ _)
    · exact hd

theorem State.commitPages_accesses (wr dirty : Bool) (ps : List (Nat × Nat)) (ts : List PageTry) :
    Accesses x.core s (s.commitPages x wr dirty ps ts).1 := by
  induction ps generalizing s ts with
  | nil => exact .refl _ s
  | cons p ps ih =>
    cases ts with
    | nil => exact .refl _ s
    | cons t ts =>
      have hp := s.commitPage_accesses x wr dirty (p.1 % 2 ^ 57) t
      simp only [State.commitPages]
      split
      · exact hp.trans (ih _ ts)
      · exact hp

theorem State.triedPages_accesses (c : Option Nat) (ps : List (Nat × Nat)) : Accesses c s (s.triedPages x ps) := by
  induction ps generalizing s with
  | nil => exact .refl c s
  | cons p ps ih =>
    simp only [State.triedPages]
    split
    · next w _ =>
      have hw := s.walkRequests_accesses c x (p.1 % 2 ^ 57)
      cases w with
      | leaf l seen => exact hw.trans (ih _)
      | bad cause lvl => exact hw
      | miss g => exact hw
    · exact ih s

theorem State.translateOnce_accesses (wr fetch : Bool) (ptr : Word) (n : Nat) :
    Accesses x.core s (s.translateOnce x wr fetch ptr n).state := by
  have htried := s.triedPages_accesses x x.core (splitPages (bf ptr 56 0) n)
  unfold State.translateOnce
  dsimp only
  split
  · exact htried
  · exact htried
  · split
    · exact htried
    · split
      · exact htried
      · split
        · exact htried
        · have hcommit (ts : List PageTry) := s.commitPages_accesses x wr (!s.toShadow x) (splitPages (bf ptr 56 0) n) ts
          split <;> exact hcommit _

theorem State.translateN_accesses (wr fetch : Bool) (ptr : Word) (n k : Nat) :
    Accesses x.core s (State.translateN x wr fetch ptr n k s).state := by
  induction k generalizing s with
  | zero => exact s.translateOnce_accesses x wr fetch ptr n
  | succ k ih =>
    have hone := s.translateOnce_accesses x wr fetch ptr n
    rw [State.translateN]
    split
    · next h =>
      rw [h] at hone
      exact hone.trans (ih _)
    · exact hone

theorem State.translate_accesses (wr fetch : Bool) (ptr : Word) (n : Nat) : Accesses x.core s (s.translate x wr fetch ptr n).state :=
  s.translateN_accesses x wr fetch ptr n 8

end

theorem State.dropMsc_accesses (c : Option Nat) (s : State) (leaf : Nat) (out : MscLine → Bool) (fn : Nat) (st : Nat × BitVec 16) :
    Accesses c s (s.dropMsc leaf out fn st) := by
  unfold State.dropMsc
  extract_lets ls blks clean u
  exact Accesses.trans (t := u) (.of_memoryOnly rfl) (.foldl (fun s b => s.hbmRequest_accesses c _ _ _ _ _) blks u)

theorem State.makeRoom_accesses (c : Option Nat) (s : State) (leaf set fn : Nat) (st : Nat × BitVec 16) :
    Accesses c s (s.makeRoom leaf set fn st).1 := by
  unfold State.makeRoom
  dsimp only
  split
  · exact .refl c s
  · split
    · exact .refl c s
    · split
      · exact .refl c s
      · exact s.dropMsc_accesses c _ _ _ _

theorem State.fillBlock_accesses {c : Option Nat} {s t : State} {u : Use} {fn : Nat} {st : Nat × BitVec 16} {pa : Nat}
    (h : s.fillBlock u fn st pa = some t) : Accesses c s t := by
  unfold State.fillBlock at h
  dsimp only at h
  obtain ⟨w, -, rfl⟩ := Option.map_eq_some_iff.1 h
  refine Accesses.trans (t := _) ?_ (.of_memoryOnly rfl)
  split
  · exact .refl c s
  · exact s.makeRoom_accesses c _ _ _ _

theorem State.reportPoison_accesses (c : Option Nat) (s : State) (fn : Nat) (l : Launch) (k : Option Nat) (b : Nat) :
    Accesses c s (s.reportPoison fn l k b) := by
  unfold State.reportPoison
  dsimp only
  refine Accesses.trans (t := _) ?_ (State.postEvent_accesses _ _ _ _ _ _ _ _ _)
  split
  · exact .refl c s
  · exact ⟨rfl, Nat.le_refl _, fun _ _ => rfl⟩

theorem State.readBlock_accesses (c : Option Nat) (s : State) (fn : Nat) (l : Launch) (k : Option Nat) (b : Nat) :
    Accesses c s (s.readBlock fn l k b) := by
  unfold State.readBlock
  split
  · exact s.reportPoison_accesses c fn l k b
  · exact .refl c s

theorem Core.apart_countEv (k : Core) (ev n : Nat) : (k.countEv ev n).apart = k.apart := by rw [Core.countEv_eq]; rfl

theorem State.useLine_accesses (c : Option Nat) (s : State) (u : Use) (fn : Nat) (l : Launch) (wr : Bool) (pa : Nat) :
    Accesses c s (s.useLine u fn l c wr pa) := by
  unfold State.useLine
  extract_lets line leaf ls st mine count reads one
  have hcount (t : State) (b : Bool) (ev n : Nat) : Accesses c t (count t b ev n) := by
    cases c with
    | none => exact .refl _ t
    | some c =>
      simp only [count]
      split
      · exact .of_modCore t c fun k => k.apart_countEv ev n
      · exact .refl _ t
  have hone (t : State) : Accesses c t (one t) := by
    have hr := t.launchRequest_accesses c l fn pa 64
    simp only [one]
    split
    · exact hr
    · exact (hr.trans (hcount _ _ _ _)).trans (State.readBlock_accesses _ _ _ _ _ _)
  split
  · exact .refl c s
  · split
    · exact (s.dropMsc_accesses c _ _ _ _).trans (hone _)
    · split
      · refine Accesses.trans (t := _) ?_ (hcount _ _ _ _)
        exact .of_memoryOnly rfl
      · refine (hcount s mine 6 1).trans ?_
        split
        · exact hone _
        · split
          · exact hone _
          · next hfill =>
            exact (((State.fillBlock_accesses hfill).trans (State.launchRequest_accesses _ _ _ _ _ _)).trans
              (hcount _ _ _ _)).trans (State.readBlock_accesses _ _ _ _ _ _)

theorem State.useLines_accesses (c : Option Nat) (s : State) (u : Use) (fn : Nat) (l : Launch) (wr : Bool) (a n : Nat) :
    Accesses c s (s.useLines u fn l c wr a n) := .foldl (fun s _ => s.useLine_accesses c u fn l wr _) _ s

theorem State.freeBytes_accesses (c : Option Nat) (s : State) (n : Nat) : Accesses c s (s.freeBytes n).2 :=
  ⟨rfl, Nat.le_refl _, fun _ _ => rfl⟩

section
variable (s : State) (m : MCtx)

theorem State.readPieces_accesses (va : Nat) (ptr : Word) (ps : List Piece) : Accesses m.x.core s (s.readPieces m va ptr ps).1 := by
  induction ps generalizing s va ptr with
  | nil => exact .refl _ s
  | cons p ps ih =>
    simp only [State.readPieces]
    refine Accesses.trans (t := _) ?_ (ih _ _ _)
    split
    · exact s.freeBytes_accesses _ _
    · exact s.useLines_accesses _ _ _ _ _ _ _

theorem State.readGlobal_accesses (ptr : Word) (n : Nat) : Accesses m.x.core s (s.readGlobal m ptr n).state := by
  have ht := s.translate_accesses m.x false false ptr n
  unfold State.readGlobal
  split <;> rename_i h <;> rw [h] at ht
  · exact ht
  · exact ht
  · exact ht.trans (State.readPieces_accesses _ m _ _ _)

theorem State.checkStore_accesses (ptr : Word) (n : Nat) (sec : Bool) : Accesses m.x.core s (s.checkStore m ptr n sec).state := by
  have ht := s.translate_accesses m.x true false ptr n
  unfold State.checkStore
  split <;> rename_i h <;> rw [h] at ht
  · exact ht
  · exact ht
  · split
    · exact .refl _ s
    · split
      · exact .refl _ s
      · exact ht

/-- Writes of a launch that is not a paired one. -/
theorem State.writePieces_accesses {s t : State} {m : MCtx} (hd : m.launch.flagD = false) {va : Nat} {sec : Bool} {ps : List Piece}
    {bs : List Byte} (h : s.writePieces m va sec ps bs = some t) : Accesses m.x.core s t := by
  induction ps generalizing s va bs with
  | nil => cases h; exact .refl _ _
  | cons p ps ih =>
    simp only [State.writePieces] at h
    split at h
    · exact ih h
    · simp only [hd, Bool.false_eq_true, if_false] at h
      exact ((State.useLines_accesses _ _ _ _ _ _ _ _).trans (State.writePhys_accesses _ _ _ _ _ _)).trans (ih h)

end

theorem State.reportMiss_accesses (c : Option Nat) (s : State) (fn gpa : Nat) (id : Option Nat) (rank : Nat)
    (remote : Option (BitVec 12 × BitVec 32)) : Accesses c s (s.reportMiss fn gpa id rank remote).2 := by
  unfold State.reportMiss
  extract_lets cptr r u v
  have hr : Accesses c s r.2 := ⟨rfl, Nat.le_succ _, fun _ _ => rfl⟩
  have hv : Accesses c u v := by
    cases id with
    | none => exact .refl _ u
    | some id => exact .of_modLaunch u id fun _ => rfl
  exact ((hr.trans (State.postEvent_accesses _ _ _ _ _ _ _ _ _)).trans hv).trans ⟨rfl, Nat.le_refl _, fun _ _ => rfl⟩

theorem Core.apart_syncSlots (k : Core) (n : Nat) : (k.syncSlots n).apart = k.apart :=
  Eq.trans (b := (k.countEv 0 (n - k.slotSeen)).apart) rfl (k.apart_countEv _ _)

theorem State.raiseWraps_accesses (s : State) (c : Nat) : Accesses (some c) s (s.raiseWraps c) := by
  refine .foldl (fun s n => ?_) _ s
  have hsync := Accesses.of_modCore s c (f := fun k => k.syncSlots s.cycle) fun k => k.apart_syncSlots s.cycle
  unfold State.raiseWrap
  dsimp only
  split
  · refine hsync.trans ((Accesses.of_modCore _ c (f := fun k => { k with wrapped := setBit k.wrapped n false }) fun k => rfl).trans ?_)
    split
    · exact (State.postEvent_accesses _ _ _ _ _ _ _ _ _).trans (State.modFn_accesses _ _ _ _)
    · exact .refl _ _
  · exact hsync

end Sys2Proof.Machine
end
section
/-! `END` and `TAIL` (R63, R64, R325, R363). -/

namespace Sys2Proof.Machine

theorem exec_endSeq_eq (c : Ctl) (s : State) : exec (.endSeq c) s =
    issue (.endSeq c) (fun s => if s.sq.results.isEmpty then .stop s.endSeq else .wait s) s := rfl

/-- The launch of a core is looked up by its number. -/
theorem State.launchOn_congr {s t : State} {c d : Nat} (hl : t.launches = s.launches) (hc : (t.core d).launch = (s.core c).launch) :
    t.launchOn d = s.launchOn c := by
  rw [State.launchOn, State.launchOn, hc]
  exact congrArg (fun f => ((s.core c).launch.bind f).getD Launch.blank) (funext fun id => State.launch?_congr hl id)

theorem OutsideSame.launches {s t : State} (h : OutsideSame s t) : t.launches = s.launches := by rw [h.device]

theorem OutsideSame.mem {s t : State} (h : OutsideSame s t) : t.mem = s.mem := by rw [h.device]

/-- An instruction on its core alone leaves the launch of that core. -/
theorem OutsideSame.lc {s t : State} (h : OutsideSame s t) (hr : t.cc.rest = s.cc.rest) : t.lc = s.lc := by
  refine State.launchOn_congr h.launches ?_
  have hl : t.cc.rest.launch = s.cc.rest.launch := congrArg Core.launch hr
  exact hl

theorem State.startIssue_lc (s : State) (c : Ctl) : (s.startIssue c).lc = s.lc :=
  (outside_startIssue s c).lc (s.rest_startIssue c)

theorem State.startIssue_core (s : State) (c : Ctl) : (s.startIssue c).core s.cur.val = (s.startIssue c).cc := by
  rw [State.cc, State.startIssue_cur]

theorem State.startIssue_other (s : State) (c : Ctl) :
    ((s.startIssue c).core s.cur.val).seq (SeqId.other s.curSeq) = s.cc.seq (SeqId.other s.curSeq) := by
  rw [State.startIssue_core]
  unfold State.startIssue
  cases hq : s.curSeq
  · simp only [State.modSq, State.cc_modCC, hq, Core.seq_modSeq_other]
  · simp only [State.modSq, State.cc_modCC, State.modCC_curSeq, hq, Core.seq_modSeq_other, Core.seq_landDue, Core.seq_modX,
      Core.seq_setCount]

/-! ### The state in which a sequencer has stopped -/

/-- The acting sequencer has stopped, and the other one's barrier counts its arrival from now. -/
def State.stopped (u : State) : State :=
  (u.modSq fun q => { q with run := .stopped }).modCC fun k => k.modSeq (SeqId.other u.curSeq) fun q => q.restamp u.cycle

theorem State.endSeq_eq (u : State) : u.endSeq =
    if u.stopped.allStopped u.stopped.lc then u.stopped.endLaunch u.stopped.lc.id .ok 0 0 else u.stopped := rfl

theorem State.outside_stopped (u : State) : OutsideSame u u.stopped := (outside_modSq _ _).trans (outside_modCC _ _)

theorem Seq.run_restamp (q : Seq) (n : Nat) : (q.restamp n).run = q.run := by
  unfold Seq.restamp; split <;> rfl

theorem State.stopped_lc (u : State) : u.stopped.lc = u.lc :=
  u.outside_stopped.lc (by simp [State.stopped, State.modSq])

/-- In it the acting sequencer has stopped, and every other one runs or has stopped as before. -/
theorem State.run_stopped (u : State) (k : Nat) (q : SeqId) : ((u.stopped.core k).seq q).run =
    if k = u.cur.val ∧ q = u.curSeq then .stopped else ((u.core k).seq q).run := by
  by_cases hk : k = u.cur.val
  · subst hk
    have hcc : u.stopped.core u.cur.val = ((u.cc.modSeq u.curSeq fun q => { q with run := .stopped }).modSeq
        (SeqId.other u.curSeq) fun q => q.restamp u.cycle) :=
      (State.cc_modCC (u.modSq _) _).trans (by rw [State.modSq, State.cc_modCC])
    rw [hcc, ← show u.cc = u.core u.cur.val from rfl]
    cases u.curSeq <;> cases q <;>
      simp [Core.modSeq, Core.setSeq, Core.seq, SeqId.other, Seq.run_restamp]
  · rw [if_neg (by tauto), u.outside_stopped.cores k hk]

/-- Every sequencer of a launch has stopped. -/
theorem State.allStopped_iff (s : State) (l : Launch) :
    s.allStopped l = true ↔ ∀ k ∈ l.allCores, ∀ q, ((s.core k).seq q).run = .stopped := by
  simp only [State.allStopped, List.all_eq_true, Bool.and_eq_true, beq_iff_eq]
  refine forall₂_congr fun k _ => ⟨fun ⟨ha, hx⟩ q => ?_, fun h => ⟨h .as, h .xs⟩⟩
  cases q
  · exact ha
  · exact hx

/-! ### A launch that ends -/

theorem State.endLaunch_mem' (s : State) (id : Nat) (st : Status) (detail : BitVec 8) (frank : Nat) :
    (s.endLaunch id st detail frank).mem = s.mem := by simp

/-- A running launch that ends drains. -/
theorem State.launch?_endLaunch {s : State} {id : Nat} {l : Launch} (h : s.launch? id = some l) (hr : l.state = .running)
    (st : Status) (detail : BitVec 8) (frank : Nat) : (s.endLaunch id st detail frank).launch? id =
      some { l with state := .draining, status := st, detail := detail, frank := frank, step := none } := by
  rw [State.endLaunch, h]
  simp only [hr, if_true]
  rw [State.launch?_congr (State.modCores_launches _ _ _)]
  refine (State.launch?_modLaunch s id ?_).trans (by rw [h]; rfl)
  exact fun _ => rfl

/-- A sequencer that has stopped stays so where its launch ends. -/
theorem State.run_endLaunch {s : State} {k : Nat} {q : SeqId} (h : ((s.core k).seq q).run = .stopped) (id : Nat) (st : Status)
    (detail : BitVec 8) (frank : Nat) : (((s.endLaunch id st detail frank).core k).seq q).run = .stopped := by
  unfold State.endLaunch
  split
  · exact h
  · split
    · by_cases hk : k < 384
      · exact State.core_modCores_all (P := fun k => (k.seq q).run = .stopped) (fun k => by cases q <;> rfl) _ _ hk (.inr h)
      · rw [State.core_beyond _ (by omega)] at h ⊢
        exact h
    · exact h

theorem State.endLaunch_cur (s : State) (id : Nat) (st : Status) (detail : BitVec 8) (frank : Nat) :
    (s.endLaunch id st detail frank).cur = s.cur ∧ (s.endLaunch id st detail frank).curSeq = s.curSeq := by
  unfold State.endLaunch
  split
  · exact ⟨rfl, rfl⟩
  · split
    · exact ⟨State.modCores_cur _ _ _, State.modCores_curSeq _ _ _⟩
    · exact ⟨rfl, rfl⟩

/-- Counting a slot leaves the sequencers. -/
theorem State.seq_countIssue (s : State) (vec : Bool) (k : Nat) (q : SeqId) :
    ((s.countIssue vec).core k).seq q = (s.core k).seq q := by
  rw [State.countIssue_eq]
  exact State.core_modCore_keeps (fun k => k.seq q) s _ (Core.seq_counted _ _ _ _) k

theorem State.outside_countIssue (s : State) (vec : Bool) : OutsideSame s (s.countIssue vec) := by
  rw [State.countIssue_eq]
  exact outside_modCC _ _

/-- An instruction that stops its sequencer. -/
theorem issue_stop {i : Instr} {c : Ctl} {s t : State} {body : State → Eff} (h : Issues i c s)
    (hb : body (s.startIssue c) = .stop t) : issue i body s = .next (t.countIssue false) := by
  rw [issue_of_issues h, hb]
  rfl

/-- A sequencer that stops without a pending result: the launch drains with it where it was the last to run. -/
theorem ends_gives {i : Instr} {c : Ctl} {s : State} {body : State → Eff} (h : Issues i c s)
    (hb : body (s.startIssue c) = .stop (s.startIssue c).endSeq) :
    let last : Prop := ∀ k ∈ s.lc.allCores, ∀ q, (k = s.cur.val ∧ q = s.curSeq) ∨ ((s.core k).seq q).run = .stopped
    Gives (issue i body s) fun t =>
      t.sq.run = .stopped ∧ t.mem = s.mem ∧ (¬last → t.launches = s.launches ∧ OutsideSame (s.startIssue c) t) ∧
      (last → ∀ l, s.launch? s.lc.id = some l → l.state = .running →
        t.launch? l.id = some { l with state := .draining, status := .ok, detail := 0, frank := 0, step := none }) := by
  intro last
  have hout := (outside_startIssue s c)
  have hsq : (((s.startIssue c).core s.cur.val).seq s.curSeq).run = s.sq.run := by
    have h := congrArg Seq.run (s.sq_startIssue c)
    rwa [State.sq, State.cc, State.startIssue_cur, State.startIssue_curSeq] at h
  have hruns (k : Nat) (q : SeqId) : (((s.startIssue c).core k).seq q).run = ((s.core k).seq q).run := by
    by_cases hk : k = s.cur.val
    · subst hk
      by_cases hq : q = s.curSeq
      · subst hq
        exact hsq
      · have ho : q = SeqId.other s.curSeq := by cases q <;> cases hs : s.curSeq <;> simp_all [SeqId.other]
        rw [ho]
        exact congrArg Seq.run (s.startIssue_other c)
    · rw [hout.cores k hk]
  have hlast : (s.startIssue c).stopped.allStopped (s.startIssue c).stopped.lc = true ↔ last := by
    rw [State.allStopped_iff, State.stopped_lc, State.startIssue_lc]
    refine forall₂_congr fun k _ => forall_congr' fun q => ?_
    rw [State.run_stopped, hruns, State.startIssue_cur, State.startIssue_curSeq]
    by_cases hk : k = s.cur.val ∧ q = s.curSeq <;> simp [hk]
  have hrun : (((s.startIssue c).stopped.core s.cur.val).seq s.curSeq).run = .stopped := by
    rw [State.run_stopped]; simp
  have hst := (s.startIssue c).outside_stopped
  refine ⟨_, issue_stop h hb, ?_⟩
  rw [State.endSeq_eq]
  by_cases hl : last
  · rw [if_pos (hlast.2 hl), State.stopped_lc, State.startIssue_lc]
    have hcount := State.outside_countIssue ((s.startIssue c).stopped.endLaunch s.lc.id .ok 0 0) false
    obtain ⟨hcur, hseq⟩ := State.endLaunch_cur (s.startIssue c).stopped s.lc.id .ok 0 0
    refine ⟨?_, ?_, fun hn => absurd hl hn, fun _ l hs hr => ?_⟩
    · rw [State.sq, State.cc, hcount.cur, hcount.curSeq, hcur, hseq, hst.cur, hst.curSeq, hout.cur, hout.curSeq,
        State.seq_countIssue]
      exact State.run_endLaunch hrun _ _ _ _
    · rw [hcount.mem, State.endLaunch_mem', hst.mem, hout.mem]
    · have hid : l.id = s.lc.id := State.launch?_id hs
      refine (congrArg _ hid).trans ?_
      rw [State.launch?_congr hcount.launches]
      refine State.launch?_endLaunch ?_ hr _ _ _
      rw [State.launch?_congr (hst.launches.trans hout.launches), hs]
  · rw [if_neg fun h => hl (hlast.1 h)]
    have hcount := State.outside_countIssue (s.startIssue c).stopped false
    refine ⟨?_, ?_, fun _ => ⟨?_, hst.trans hcount⟩, fun hn => absurd hn hl⟩
    · rw [State.sq, State.cc, hcount.cur, hcount.curSeq, hst.cur, hst.curSeq, hout.cur, hout.curSeq, State.seq_countIssue]
      exact hrun
    · rw [hcount.mem, hst.mem, hout.mem]
    · rw [hcount.launches, hst.launches, hout.launches]

/-! ### `TAIL` hands its launch to the tracker -/

/-- The state before the cores of a launch are freed: the launch is in the tracker, and counters have wrapped. -/
def State.tailed (u : State) : State :=
  u.lc.allCores.foldl State.raiseWraps (u.modLaunch u.lc.id fun l =>
    { l with state := .tracker, status := .ok, image := none
             leftC := u.lc.allCores.flatMap fun c => (u.core c).copyQ.map fun x =>
               (c, { x with srcTile := none, dstTile := none, follow := none })
             leftG := u.lc.allCores.flatMap fun c => (u.core c).gathQ.map fun x => (c, x)
             step := none, usedC := l.usedC + l.spent u.cycle })

theorem State.tailLaunch_eq (u : State) : ∃ idle, u.tailLaunch =
    { u.tailed.modCores u.lc.allCores Core.freed with idleSince := idle } := ⟨_, rfl⟩

/-- Counters that wrap change no vault, and nothing of a launch but what it has consumed. -/
theorem State.raiseWraps_core (s : State) (cs : List Nat) (d : Nat) :
    ((cs.foldl State.raiseWraps s).core d).apart = (s.core d).apart := by
  induction cs generalizing s with
  | nil => rfl
  | cons c cs ih => rw [List.foldl_cons, ih]; exact (s.raiseWraps_accesses c).core d

theorem State.raiseWraps_launch? (s : State) (cs : List Nat) (id : Nat) :
    ((cs.foldl State.raiseWraps s).launch? id).map Launch.apart = (s.launch? id).map Launch.apart := by
  induction cs generalizing s with
  | nil => rfl
  | cons c cs ih => rw [List.foldl_cons, ih]; exact (s.raiseWraps_accesses c).launch? id

theorem State.tailed_vault (u : State) (k : Nat) : (u.tailed.core k).vault = (u.core k).vault :=
  (congrArg Core.vault (State.raiseWraps_core _ _ k) :)

theorem tail_gives {c : Ctl} {s : State} (h : Issues (.tail c) c s) (hd : s.lc.flagD = false)
    (hr : (s.startIssue c).tailReady = true) (hl : s.launch? s.lc.id = some s.lc) :
    Gives (exec (.tail c) s) fun t =>
      (∃ l, t.launch? s.lc.id = some l ∧ l.state = .tracker ∧ l.status = .ok ∧ l.record = s.lc.record) ∧
      ∀ k ∈ s.lc.allCores, k < 384 →
        (t.core k).launch = none ∧ (t.core k).as.run = .stopped ∧ (t.core k).xs.run = .stopped ∧
        (t.core k).vault = (s.core k).vault := by
  obtain ⟨idle, htail⟩ := (s.startIssue c).tailLaunch_eq
  rw [exec_tail, execTail]
  refine ⟨_, issue_stop h (t := (s.startIssue c).tailLaunch) ?_, ?_⟩
  · simp only [State.startIssue_lc, hd, hr, Bool.false_eq_true, if_false, if_true]
  have hcount := State.outside_countIssue (s.startIssue c).tailLaunch false
  constructor
  · rw [State.launch?_congr hcount.launches, htail]
    have hfound : ((s.startIssue c).tailed.launch? s.lc.id).map Launch.apart = _ := State.raiseWraps_launch? _ _ _
    rw [State.startIssue_lc, State.launch?_modLaunch _ _ (by exact fun _ => rfl),
      State.launch?_congr (outside_startIssue s c).launches, hl] at hfound
    obtain ⟨x, hx, he⟩ := Option.map_eq_some_iff.1 hfound
    refine ⟨x, (State.launch?_congr (State.modCores_launches _ _ _) _).trans hx, ?_, ?_, ?_⟩
    · exact (congrArg Launch.state he :)
    · exact (congrArg Launch.status he :)
    · exact (congrArg Launch.record he :)
  · intro k hk hlt
    have hcore : ((s.startIssue c).tailLaunch).core k = ((s.startIssue c).tailed.modCores s.lc.allCores Core.freed).core k := by
      rw [htail, State.startIssue_lc]; rfl
    have hfreed := State.core_modCores_all (P := fun k => k.launch = none ∧ k.as.run = .stopped ∧ k.xs.run = .stopped)
      (f := Core.freed) (fun k => ⟨rfl, rfl, rfl⟩) (s.startIssue c).tailed s.lc.allCores hlt (.inl hk)
    rw [← hcore] at hfreed
    obtain ⟨hnone, has, hxs⟩ := hfreed
    have keeps {α : Type} (P : Core → α) (hP : ∀ k v, P (k.counted (s.startIssue c).tailLaunch.curSeq v) = P k) :
        P (((s.startIssue c).tailLaunch.countIssue false).core k) = P ((s.startIssue c).tailLaunch.core k) := by
      rw [State.countIssue_eq]
      exact State.core_modCore_keeps P _ _ (hP _ _) k
    have hrest (j : Core) (q : SeqId) (v : Bool) : (j.counted q v).rest = j.rest := Core.rest_counted _ _ _
    refine ⟨?_, ?_, ?_, ?_⟩
    · rw [keeps Core.launch fun j v => (congrArg Core.launch (hrest j _ v) :), hnone]
    · exact (congrArg Seq.run (State.seq_countIssue _ false k .as)).trans has
    · exact (congrArg Seq.run (State.seq_countIssue _ false k .xs)).trans hxs
    · rw [keeps Core.vault fun j v => (congrArg Core.vault (hrest j _ v) :), hcore,
        State.core_modCores_keeps Core.vault (f := Core.freed) (fun _ => rfl)]
      rw [State.tailed_vault]
      by_cases hc : k = s.cur.val
      · subst hc
        rw [State.startIssue_core]
        exact (congrArg Core.vault (s.rest_startIssue c) :)
      · exact congrArg Core.vault ((outside_startIssue s c).cores k hc)

/-- Settles O15: both instructions through the state in which their sequencer has stopped, and `TAIL` through the one
in which its cores are free. -/
theorem endResult : Obligations.endResult := by
  refine ⟨fun c s => ⟨fun h he => ?_, fun h hd he => ?_⟩, fun c s => tail_gives⟩
  · rw [exec_endSeq_eq]
    refine ends_gives h ?_
    simp only [State.startIssue_results, he, List.isEmpty_nil, if_true]
  · rw [exec_tail, execTail]
    refine ends_gives h ?_
    simp only [State.startIssue_lc, hd, State.startIssue_results, he, List.isEmpty_nil, if_true]

end Sys2Proof.Machine
end
section
/-! The collectives and `WAITI` are taken up and wait (R57, R60, R173, R177, R303, R321, R348, R385). -/

namespace Sys2Proof.Machine

/-! ### Being taken up -/

/-- The core after an instruction that another step completes is taken up: its sequencer waits, with the shape of a barrier
where it was one. -/
def Core.takenUp (k : Core) (i : SeqId) (w : Wait) (f : Seq → Option (BitVec 3 × BitVec 3)) : Core :=
  let j := k.modSeq i fun q => { q with barShape := f q }
  (if w.issued then j.counted i false else j).modSeq i fun q => { q with wait := some w }

section
variable (k : Core) (i : SeqId) (w : Wait) (f : Seq → Option (BitVec 3 × BitVec 3))

theorem Core.seq_takenUp : (k.takenUp i w f).seq i = { k.seq i with barShape := f (k.seq i), wait := some w } := by
  simp only [Core.takenUp, Core.seq_modSeq]
  split <;> simp

theorem Core.seq_takenUp_other : (k.takenUp i w f).seq (SeqId.other i) = k.seq (SeqId.other i) := by
  simp only [Core.takenUp, Core.seq_modSeq_other]
  split <;> simp

theorem Core.rest_takenUp : (k.takenUp i w f).rest = k.rest := by
  simp only [Core.takenUp, Core.rest_modSeq]
  split <;> simp

/-- The vector unit after it is that of a core that has counted a slot, or as before. -/
theorem Core.x_takenUp : (k.takenUp i w f).x = k.x ∨
    (k.takenUp i w f).x = ((k.modSeq i fun q => { q with barShape := f q }).counted i false).x := by
  simp only [Core.takenUp, Core.modSeq_x]
  split
  · exact .inr rfl
  · exact .inl (Core.modSeq_x _ _ _)

theorem RegsKept.takenUp : RegsKept i k (k.takenUp i w f) := by
  obtain ⟨-, hv, hp, -⟩ := Core.x_counted (k.modSeq i fun q => { q with barShape := f q }) i false
  rw [Core.modSeq_x] at hv hp
  refine ⟨k.seq_takenUp_other i w f, by rw [Core.seq_takenUp], by rw [Core.seq_takenUp], ?_, ?_, ?_⟩
  · rcases k.x_takenUp i w f with h | h <;> rw [h]
    exact hv
  · rcases k.x_takenUp i w f with h | h <;> rw [h]
    exact hp
  · simp only [Core.takenUp, Core.modSeq_m]
    split <;> simp

theorem Core.xRest_takenUp : (k.takenUp i w f).x.rest = k.x.rest := by
  obtain ⟨hr, -⟩ := Core.x_counted (k.modSeq i fun q => { q with barShape := f q }) i false
  rw [Core.modSeq_x] at hr
  rcases k.x_takenUp i w f with h | h <;> rw [h]
  exact hr

end

/-- A change of the acting core that leaves its registers. -/
theorem RegsKept.same {u : State} {g : Core → Core} (hg : RegsKept u.curSeq u.cc (g u.cc)) : RegsSame {} u (u.modCC g) := by
  have hcc : (u.modCC g).cc = g u.cc := State.cc_modCC u g
  have hsq : (u.modCC g).sq = (g u.cc).seq u.curSeq := by rw [State.sq, hcc, State.modCC_curSeq]
  refine ⟨?_, fun r _ => ?_, fun r _ => ?_, fun r _ => ?_, fun r _ => ?_, fun r _ => ?_⟩
  · rw [hcc]; exact hg.other
  · rw [State.rs, hsq, Seq.rs, hg.s]; rfl
  · rw [State.rf, hsq, Seq.rf, hg.f]; rfl
  · rw [State.rv, hcc, XUnit.rv, hg.v]; rfl
  · rw [State.rp, hcc, XUnit.rp, hg.p]; rfl
  · rw [hcc, hg.m]

/-- An instruction that issues and waits for another step is taken up: its sequencer waits as `w` says. -/
theorem arrives_hold {i : Instr} {c : Ctl} {s v : State} {w : Wait} {body : State → Eff} {P : State → Prop}
    {f : Seq → Option (BitVec 3 × BitVec 3)} (h : Issues i c s) (hb : body (s.startIssue c) = .hold v w)
    (hv : v = (s.startIssue c).modSq fun q => { q with barShape := f q })
    (hw : (w.needsResults && (s.startIssue c).sq.travels) = false)
    (hp : ∀ t, t.sq = { (s.startIssue c).sq with barShape := f (s.startIssue c).sq, wait := some w } → P t) :
    Gives (issue i body s) fun t => OutsideSame (s.startIssue c) t ∧ t.cc.rest = s.cc.rest ∧ RegsSame {} (s.startIssue c) t ∧
      t.cc.x.rest = (s.startIssue c).cc.x.rest ∧ t.sq.pc = s.sq.pc ∧ t.sq.results = s.sq.results ∧ t.sq.wait = some w ∧ P t := by
  have he : issue i body s = .next ((s.startIssue c).modCC fun k => k.takenUp (s.startIssue c).curSeq w f) := by
    rw [issue_of_issues h, hb, hv]
    simp only [State.finish, hw, Bool.false_eq_true, if_false]
    cases hi : w.issued
    · simp [State.modSq, Core.takenUp, hi]
    · simp [State.modSq, State.countIssue_eq, Core.takenUp, hi]
  have hcc := State.cc_modCC (s.startIssue c) fun k => k.takenUp (s.startIssue c).curSeq w f
  have hsq : ((s.startIssue c).modCC fun k => k.takenUp (s.startIssue c).curSeq w f).sq =
      { (s.startIssue c).sq with barShape := f (s.startIssue c).sq, wait := some w } := by
    rw [State.sq, hcc, State.modCC_curSeq]
    exact Core.seq_takenUp _ _ _ _
  refine ⟨_, he, outside_modCC _ _, ?_, (RegsKept.takenUp _ _ _ _).same, ?_, ?_, ?_, ?_, hp _ hsq⟩
  · rw [hcc, Core.rest_takenUp, State.rest_startIssue]
  · rw [hcc, Core.xRest_takenUp]
  · rw [hsq]; exact s.startIssue_pc c
  · rw [hsq]; exact s.startIssue_results c
  · rw [hsq]

/-! ### The waits of each -/

section
variable {c : Ctl} {s : State}

theorem State.startIssue_otherSeq (s : State) (c : Ctl) :
    (s.startIssue c).cc.seq (SeqId.other (s.startIssue c).curSeq) = s.cc.seq (SeqId.other s.curSeq) := by
  rw [State.startIssue_curSeq, ← State.startIssue_core, State.startIssue_other]

theorem State.startIssue_cycle (s : State) (c : Ctl) : (s.startIssue c).cycle = s.cycle := by
  rw [(outside_startIssue s c).device]

/-- The core's parts beside its registers are as before the STALL slots. -/
theorem State.startIssue_part {α : Type} (P : Core → α) (hP : ∀ k, P k.rest = P k) (s : State) (c : Ctl) :
    P (s.startIssue c).cc = P s.cc := by
  rw [← hP, State.rest_startIssue, hP]

/-- As `arrives_hold` for an instruction that leaves the shape of the group. -/
theorem arrives_wait {i : Instr} {w : Wait} {body : State → Eff} (h : Issues i c s)
    (hb : body (s.startIssue c) = .hold (s.startIssue c) w) (hw : (w.needsResults && (s.startIssue c).sq.travels) = false) :
    Gives (issue i body s) fun t => OutsideSame (s.startIssue c) t ∧ t.cc.rest = s.cc.rest ∧ RegsSame {} (s.startIssue c) t ∧
      t.cc.x.rest = (s.startIssue c).cc.x.rest ∧ t.sq.pc = s.sq.pc ∧ t.sq.results = s.sq.results ∧ t.sq.wait = some w ∧
      t.sq.rest = s.sq.rest := by
  have hid : s.startIssue c = (s.startIssue c).modSq fun q => { q with barShape := q.barShape } := by
    have hk : (s.startIssue c).cc.modSeq (s.startIssue c).curSeq (fun q => { q with barShape := q.barShape }) = (s.startIssue c).cc := by
      cases (s.startIssue c).curSeq <;> rfl
    rw [State.modSq, State.modCC, State.modCore, show (s.startIssue c).core (s.startIssue c).cur = (s.startIssue c).cc from rfl, hk]
    exact (State.setCore_core _ _).symm
  refine arrives_hold (f := Seq.barShape) h hb hid hw fun t ht => ?_
  rw [ht]
  exact s.startIssue_sqRest c

/-- A barrier of a shape that the launch has and that the core's other sequencer does not contradict. -/
theorem arrive_arrives {i : Instr} {imm : Nat} {lw lh : BitVec 3} (h : Issues i c s) (ht : (s.startIssue c).sq.travels = false)
    (hwid : 2 ^ lw.toNat ≤ s.lc.wid) (hhgt : 2 ^ lh.toNat ≤ s.lc.hgt)
    (ho : ∀ w h t, (s.cc.seq (SeqId.other s.curSeq)).wait = some (.bar w h t) → w = lw ∧ h = lh) {body : State → Eff}
    (hb : body (s.startIssue c) = (s.startIssue c).arrive imm lw lh) :
    Gives (issue i body s) fun t => OutsideSame (s.startIssue c) t ∧ t.cc.rest = s.cc.rest ∧ RegsSame {} (s.startIssue c) t ∧
      t.cc.x.rest = (s.startIssue c).cc.x.rest ∧ t.sq.pc = s.sq.pc ∧ t.sq.results = s.sq.results ∧
      t.sq.wait = some (.bar lw lh s.cycle) ∧ t.sq.barShape = some (lw, lh) := by
  refine arrives_hold (v := _) (f := fun _ => some (lw, lh)) h ?_ rfl (by simp [ht]) fun t ht => by rw [ht]
  rw [hb]
  simp only [State.arrive, State.startIssue_lc, State.startIssue_otherSeq, State.startIssue_cycle]
  refine if_neg ?_
  have hlt : ¬(s.lc.wid < 2 ^ lw.toNat) ∧ ¬(s.lc.hgt < 2 ^ lh.toNat) := ⟨by omega, by omega⟩
  split
  · next w h t hq =>
    obtain ⟨rfl, rfl⟩ := ho w h t hq
    simp [hlt]
  · simp [hlt]

theorem xch_arrives {o : Nat} (h : Issues (.xch c) c s) (ht : (s.startIssue c).sq.travels = false)
    (ha : s.cc.xbase.toNat % 16 = 0) (hv : (s.startIssue c).ownVault s.cur.val s.cc.xbase (16 * s.cc.nent) false = .inr o)
    (hx : s.lc.flagX = true) (hl : s.cc.stepLen ≠ 0) (hbad : s.cc.vault.bad o (16 * s.cc.nent) = false)
    (he : (s.startIssue c).badEntry s.cur.val ((s.startIssue c).schedule s.cur.val) = none) :
    Arrives (.xch c) c s (.xch s.cycle) fun t => t.sq.rest = s.sq.rest := by
  have hbase := s.startIssue_part Core.xbase (fun _ => rfl) c
  have hnent := s.startIssue_part Core.nent (fun _ => rfl) c
  have hstep := s.startIssue_part Core.stepLen (fun _ => rfl) c
  have hvault : (s.startIssue c).vault s.cur.val = s.cc.vault := by
    rw [State.vault, State.startIssue_core]
    exact s.startIssue_part Core.vault (fun _ => rfl) c
  have h3 : ¬(bf s.cc.xbase 3 0 ≠ 0) := by simpa [bf, bitsOf] using ha
  rw [Arrives, exec_xch, execXch]
  refine arrives_wait h ?_ (by simp [ht])
  simp only [State.startIssue_cur, State.startIssue_lc, State.startIssue_cycle, hbase, hnent, hstep, hvault, if_neg h3, hv, hx, hl,
    hbad, he, Bool.not_true, Bool.false_eq_true, if_false]

theorem phase_arrives {tf tb : Fin 32} (h : Issues (.phase c tf tb) c s) (ht : (s.startIssue c).sq.travels = false)
    (hf : s.lc.flagH = true) (ho : ∀ x y, (s.cc.seq (SeqId.other s.curSeq)).wait = some (.phase x y) → x = tf ∧ y = tb) :
    Arrives (.phase c tf tb) c s (.phase tf tb) fun t => t.sq.rest = s.sq.rest := by
  have hpair : (s.cc.seq (SeqId.other s.curSeq)).otherPair tf tb = false := by
    unfold Seq.otherPair
    split
    · next x y hq =>
      obtain ⟨rfl, rfl⟩ := ho x y hq
      simp
    · rfl
  rw [Arrives, exec_phase, execPhase]
  refine arrives_wait h ?_ (by simp [ht])
  simp only [State.startIssue_lc, State.startIssue_otherSeq, hf, hpair, Bool.not_true, Bool.or_self, Bool.false_eq_true, if_false]

/-- A stream instruction on a tile that it may act on. -/
theorem State.withStream_of {u : State} {r : Fin 32} (h : StreamReady u r) (f : Stream → Eff) :
    u.withStream r f = f (u.stream u.cur.val r) := by
  obtain ⟨hready, hclass, ⟨cap, hcap, hfill⟩, hbad⟩ := h
  simp only [State.withStream, hready, hclass, hcap, hbad]
  rw [if_neg (by simp), if_neg (by omega)]

theorem csbal_arrives {d r : Fin 32} {p : Fin 16} (h : Issues (.csbal c d p r) c s) (ht : (s.startIssue c).sq.travels = false)
    (hr : StreamReady (s.startIssue c) r)
    (hb : (s.startIssue c).streamBad s.cur.val ((s.startIssue c).stream s.cur.val r) ((s.startIssue c).stream s.cur.val r).rd
      ((s.startIssue c).stream s.cur.val r).fill = none) :
    Arrives (.csbal c d p r) c s (.csbal d p r s.cycle) fun t => t.sq.rest = s.sq.rest := by
  rw [Arrives, exec_csbal, execCsbal]
  refine arrives_wait h ?_ (by simp [ht])
  rw [State.withStream_of hr]
  simp only [State.startIssue_cur, State.startIssue_cycle, hb]

theorem waiti_arrives {rel : Bool} {b : SOp} (h : Issues (.waiti c rel b) c s) :
    Arrives (.waiti c rel b) c s (.until (if rel then s.timebase + s.sop b else s.sop b)) fun t => t.sq.rest = s.sq.rest := by
  rw [Arrives, exec_waiti, execWaiti]
  refine arrives_wait h ?_ rfl
  simp only [State.startIssue_sop, State.timebase, State.startIssue_cycle]

end

/-! ### `MSHAPE.grp` -/

/-- The group of a core depends on its launch, its rank and its copy alone. -/
theorem State.groupCores_congr {s t : State} {k : Nat} (hl : t.launches = s.launches) (hc : (t.core k).rest = (s.core k).rest)
    (sh : Nat × Nat) : t.groupCores k sh = s.groupCores k sh := by
  have hlaunch : (t.core k).launch = (s.core k).launch := (congrArg Core.launch hc :)
  have hrank : (t.core k).rank = (s.core k).rank := (congrArg Core.rank hc :)
  have hcopy : (t.core k).copy1 = (s.core k).copy1 := (congrArg Core.copy1 hc :)
  simp only [State.groupCores, State.launchOn_congr hl hlaunch, hrank, hcopy]

/-- No group is served while in each group that is asked for some core has not arrived. -/
theorem State.grpComplete_idle {t : State} {l : Launch} {copy1 : Bool}
    (h : ∀ k ∈ l.copyCores copy1, ∀ x, (t.core k).grpAt = some x → ∃ j ∈ t.groupCores k (grpShape x.1), (t.core j).grpAt = none) :
    t.grpComplete l copy1 = t := by
  have hserve : t.grpServe (l.copyCores copy1) = none := by
    unfold State.grpServe
    split
    · rfl
    · next k hk =>
      split
      · rfl
      · next x hx =>
        obtain ⟨j, hj, hn⟩ := h k (List.mem_of_find?_eq_some hk) x hx
        refine if_pos ?_
        have hall : (t.groupCores k (grpShape x.1)).all (fun k => (t.core k).grpAt.isSome) = false :=
          List.all_eq_false.2 ⟨j, hj, by simp [hn]⟩
        rw [hall]
        rfl
  rw [State.grpComplete]
  cases (l.copyCores copy1).length with
  | zero => rfl
  | succ n => rw [State.grpLoop, hserve]

section
variable {c : Ctl} {s t : State} {r : Word} {ty : Ty} {sp sec : Bool} {d : Fin 32}

/-- A core that has come to `MSHAPE.grp` completes no group while in each group asked for another core has not come. -/
theorem grpComplete_arrived (hq : s.curSeq = .xs) (hout : OutsideSame (s.startIssue c) t) (hrest : t.cc.rest = s.cc.rest)
    (hwait : t.sq.wait = some (.shapeGrp r ty sp d sec))
    (hg : ∀ k ∈ s.lc.copyCores s.cc.copy1, ∀ y, (k = s.cur.val ∧ y = r ∨ ∃ x, (s.core k).grpAt = some x ∧ x.1 = y) →
      ∃ j ∈ (s.startIssue c).groupCores k (grpShape y), j ≠ s.cur.val ∧ (s.core j).grpAt = none) :
    t.grpComplete t.lc t.cc.copy1 = t := by
  have hall := outside_startIssue s c
  have hcur : t.cur = s.cur := hout.cur.trans (State.startIssue_cur s c)
  have hseq : t.curSeq = .xs := hout.curSeq.trans ((State.startIssue_curSeq s c).trans hq)
  have hat : (t.core s.cur.val).grpAt = some (r, ty, sp, d, sec) := by
    rw [State.sq, State.cc, hcur, hseq] at hwait
    rw [Core.grpAt, show (t.core s.cur.val).xs = (t.core s.cur.val).seq .xs from rfl, hwait]
  have hother (k : Nat) (hk : k ≠ s.cur.val) : t.core k = s.core k :=
    (hout.cores k (by rw [State.startIssue_cur]; exact hk)).trans (hall.cores k hk)
  have hgroup (k : Nat) (sh : Nat × Nat) : t.groupCores k sh = (s.startIssue c).groupCores k sh := by
    refine State.groupCores_congr hout.launches ?_ sh
    by_cases hk : k = s.cur.val
    · subst hk
      rw [State.startIssue_core, State.rest_startIssue, ← hrest, State.cc, hcur]
    · rw [hother k hk, hall.cores k hk]
  have hlc : t.lc = s.lc := (hout.lc (hrest.trans (s.rest_startIssue c).symm)).trans (s.startIssue_lc c)
  have hcopy : t.cc.copy1 = s.cc.copy1 := (congrArg Core.copy1 hrest :)
  rw [hlc, hcopy]
  refine State.grpComplete_idle fun k hk x hx => ?_
  have hasked : k = s.cur.val ∧ x.1 = r ∨ ∃ y, (s.core k).grpAt = some y ∧ y.1 = x.1 := by
    by_cases hc : k = s.cur.val
    · subst hc
      rw [hat] at hx
      exact .inl ⟨rfl, by cases hx; rfl⟩
    · exact .inr ⟨x, by rw [← hother k hc, hx], rfl⟩
  obtain ⟨j, hj, hne, hn⟩ := hg k hk x.1 hasked
  exact ⟨j, by rw [hgroup]; exact hj, by rw [hother j hne]; exact hn⟩

theorem mshapeGrp_arrives {b : SOp} (h : Issues (.mshapeGrp c ty sp d b) c s) (ht : (s.startIssue c).sq.travels = false)
    (hq : s.curSeq = .xs) (hw : (grpShape (s.sop b)).1 ≤ s.lc.wid) (hh : (grpShape (s.sop b)).2 ≤ s.lc.hgt) (hm : s.cc.matQ = [])
    (hg : ∀ k ∈ s.lc.copyCores s.cc.copy1, ∀ y, (k = s.cur.val ∧ y = s.sop b ∨ ∃ x, (s.core k).grpAt = some x ∧ x.1 = y) →
      ∃ j ∈ (s.startIssue c).groupCores k (grpShape y), j ≠ s.cur.val ∧ (s.core j).grpAt = none) :
    Arrives (.mshapeGrp c ty sp d b) c s
      (.shapeGrp (s.sop b) ty sp d ((s.startIssue c).srcSec (Instr.mshapeGrp c ty sp d b).regs c)) fun t => t.sq.rest = s.sq.rest := by
  have hidle : (s.startIssue c).cc.arrayIdle = true := by
    rw [Core.arrayIdle, s.startIssue_part Core.matQ (fun _ => rfl) c, hm]
    rfl
  obtain ⟨t, he, hend⟩ := arrives_wait (w := .shapeGrp (s.sop b) ty sp d ((s.startIssue c).srcSec (Instr.mshapeGrp c ty sp d b).regs c))
    (body := fun s =>
      if s.lc.wid < (grpShape (s.sop b)).1 ∨ s.lc.hgt < (grpShape (s.sop b)).2 then .trap s (trapShape (s.sop b))
      else if !s.cc.arrayIdle then .wait s
      else .hold s (.shapeGrp (s.sop b) ty sp d (s.srcSec (Instr.mshapeGrp c ty sp d b).regs c))) h
    (by simp only [State.startIssue_sop, State.startIssue_lc, hidle]
        rw [if_neg (by omega), if_neg (by decide)])
    (by simp [ht])
  have hparts := hend
  obtain ⟨hout, hrest, -, -, -, -, hwait, -⟩ := hparts
  have hdone := grpComplete_arrived hq hout hrest hwait hg
  refine ⟨t, ?_, hend⟩
  rw [exec_mshapeGrp, execMshapeGrp]
  dsimp only
  rw [he]
  dsimp only
  rw [hdone, ite_self]

end

/-- Settles O27: one lemma for each, by `arrives_hold`. -/
theorem collectiveArrives : Obligations.collectiveArrives := by
  intro c lw lh tf tb d r p ty sp rel b s u other still fits aw ah
  refine ⟨?_, ?_, fun o h ht ha hv hx hl hb he => xch_arrives h ht ha hv hx hl hb he, fun h ht hf ho => phase_arrives h ht hf ho,
    fun h ht hr hb => csbal_arrives h ht hr hb, fun h ht hq hw hh hm hg => mshapeGrp_arrives h ht hq hw hh hm hg, waiti_arrives⟩
  · intro h ht ⟨hw, hh, ho⟩
    rw [Arrives, exec_bar, execBar]
    exact arrive_arrives h ht hw hh ho rfl
  · intro h ht ⟨hw, hh, ho⟩
    rw [Arrives, exec_barAll, execBarAll]
    refine arrive_arrives h ht hw hh ho (imm := 0) ?_
    simp only [State.startIssue_lc]
    rfl

end Sys2Proof.Machine
end
section
/-! Writes of a plain vault, byte by byte (R95). -/

namespace Sys2Proof.Machine

/-- Two vaults that read alike: they differ in tags, poison and correctable errors only. -/
structure Vault.Alike (v w : Vault) : Prop where
  bytes : w.bytes = v.bytes
  owner : w.owner = v.owner
  remap : w.remap = v.remap
  lost : w.lost = v.lost
  evac : w.evac = v.evac

namespace Vault.Alike
variable {u v w : Vault}

theorem refl (v : Vault) : v.Alike v := ⟨rfl, rfl, rfl, rfl, rfl⟩

theorem trans (a : u.Alike v) (b : v.Alike w) : u.Alike w :=
  ⟨b.bytes.trans a.bytes, b.owner.trans a.owner, b.remap.trans a.remap, b.lost.trans a.lost, b.evac.trans a.evac⟩

theorem place (h : v.Alike w) (a : Nat) : w.place a = v.place a := by
  simp only [Vault.place, Vault.phys, Vault.rows, RowMap.phys, h.remap]

theorem offLost (h : v.Alike w) (a : Nat) : w.offLost a = v.offLost a := by
  simp only [Vault.offLost, Vault.isLost, Vault.rows, RowMap.isLost, h.lost]

theorem byte (h : v.Alike w) (o : BitVec 8) (a : Nat) : w.byte o a = v.byte o a := by
  simp only [Vault.byte, h.place, h.offLost, h.owner, h.bytes]

theorem read (h : v.Alike w) (o : BitVec 8) (a n : Nat) : w.read o a n = v.read o a n := by
  simp only [Vault.read, h.byte]

theorem plain (h : v.Alike w) (hp : v.Plain) : w.Plain :=
  ⟨by rw [h.bytes, hp.bytes], by rw [h.remap, hp.remap], by rw [h.lost, hp.lost], by rw [h.evac, hp.evac]⟩

end Vault.Alike

theorem Vault.alike_correct (v : Vault) (off n : Nat) : v.Alike (v.correct off n) := ⟨rfl, rfl, rfl, rfl, rfl⟩

theorem Vault.alike_setSec (v : Vault) (off n : Nat) : v.Alike (v.setSec off n) := ⟨rfl, rfl, rfl, rfl, rfl⟩

namespace Vault.Plain
variable {v : Vault} (h : v.Plain)
include h

theorem place_eq (a : Nat) : v.place a = (528 * (a / 131072) + a / 256 % 512) * 256 + a % 256 := by
  simp [Vault.place, Vault.phys, Vault.rows, RowMap.phys, h.remap, SMap.get, SMap.find?]

/-- Bytes of a plain vault lie at different places. -/
theorem place_inj {a b : Nat} (e : v.place a = v.place b) : a = b := by
  rw [h.place_eq, h.place_eq] at e
  omega

theorem not_lost (a : Nat) : v.offLost a = false := by
  simp [Vault.offLost, Vault.isLost, Vault.rows, RowMap.isLost, h.lost, SMap.get, SMap.find?]

theorem places_eq (a : Nat) : v.places a = [v.place a] := by
  simp [Vault.places, h.not_lost, Vault.mirror, h.evac]

theorem writeByte (o : BitVec 8) (a : Nat) (x : Byte) : (v.writeByte o a x).Plain := by
  rw [Vault.writeByte, h.places_eq]
  exact ⟨Memory.wf_setByte h.bytes _ _, h.remap, h.lost, h.evac⟩

/-- A byte written is read back by its owner, and no other byte changes. -/
theorem byte_writeByte (o : BitVec 8) (a b : Nat) (x : Byte) :
    (v.writeByte o a x).byte o b = if b = a then x else v.byte o b := by
  have hw := h.writeByte o a x
  have hsame : (v.writeByte o a x).place b = v.place b := by rw [hw.place_eq, h.place_eq]
  simp only [Vault.byte, hw.not_lost, h.not_lost, hsame, Bool.false_eq_true, if_false]
  have hplaces : v.writeByte o a x = v.putByte o (v.place a) x := by rw [Vault.writeByte, h.places_eq]; rfl
  rw [hplaces, Vault.putByte]
  dsimp only
  rw [Memory.byte_setByte h.bytes]
  simp only [SMap.get, SMap.find?_insert]
  by_cases hb : b = a
  · subst hb; simp
  · have hne : v.place b ≠ v.place a := fun e => hb (h.place_inj e)
    rw [if_neg hne, if_neg (Ne.symm hne), if_neg hb]
    rfl

end Vault.Plain

/-- Bytes written are read back by their owner, and no other byte changes. -/
theorem Vault.writeBytes_writes (o : BitVec 8) (off : Nat) (bs : List Byte) (v : Vault) : VaultWrites o off bs v (v.writeBytes o off bs) := by
  intro h a
  induction bs generalizing v off with
  | nil => exact (if_neg (by simp)).symm
  | cons b bs ih =>
    rw [Vault.writeBytes, ih _ _ (h.writeByte o off b), h.byte_writeByte]
    by_cases ha : a = off
    · subst ha
      simp
    · simp only [ha, if_false, List.length_cons]
      by_cases hin : off + 1 ≤ a ∧ a < off + 1 + bs.length
      · rw [if_pos hin, if_pos (by omega), show a - off = a - (off + 1) + 1 by omega, List.getD_cons_succ]
      · rw [if_neg hin, if_neg (by omega)]

namespace VaultWrites
variable {o : BitVec 8} {off : Nat} {bs : List Byte} {v w x : Vault}

theorem alike_right (h : VaultWrites o off bs v w) (e : w.Alike x) : VaultWrites o off bs v x := fun hp a => by
  rw [e.byte, h hp a]

theorem alike_left (h : VaultWrites o off bs w x) (e : v.Alike w) : VaultWrites o off bs v x := fun hp a => by
  rw [h (e.plain hp) a, e.byte]

/-- Nothing is written where the vault reads alike. -/
theorem of_alike (e : v.Alike w) : VaultWrites o off [] v w := fun _ a => by
  rw [e.byte, if_neg (by simp)]

end VaultWrites

/-- What a write does to the bytes of a plain vault. -/
theorem Vault.write_writes (o : BitVec 8) (off : Nat) (bs : List Byte) (sec : Bool) (v : Vault) :
    VaultWrites o off bs v (v.write o off bs sec) := by
  have hb := Vault.writeBytes_writes o off bs v
  unfold Vault.write
  extract_lets n u w
  have hw : u.Alike w := ⟨rfl, rfl, rfl, rfl, rfl⟩
  refine hb.alike_right (hw.trans ?_)
  refine Vault.Alike.trans ?_ (Vault.alike_correct _ _ _)
  split
  · exact w.alike_setSec _ _
  · exact .refl w

end Sys2Proof.Machine
end
section
/-! The copy engine, the gather unit and markers at work, a bank row at a time (R61, R99, R104, R163, R169, R337). -/

namespace Sys2Proof.Machine

/-! ### Lists of commands -/

theorem modFirst_cons_self {α : Type} {p : α → Bool} {f : α → α} {x : α} {l : List α} (h : p x = true) :
    modFirst p f (x :: l) = f x :: l := by
  rw [modFirst, if_pos h]

/-! ### The command that an engine works on -/

/-- A command that no tracker holds is the head of its core's queue. -/
theorem State.copyHead_own {s : State} {c : Nat} {e : Eng} {x : CopyCmd} (h : s.copyHead c = some (e, x)) (he : e.tracked = false) :
    e = s.eng c ∧ ∃ l, (s.core c).copyQ = x :: l := by
  unfold State.copyHead at h
  split at h
  · next y hy =>
    cases h
    obtain ⟨l, -, hl⟩ := List.exists_of_findSome?_eq_some hy
    split at hl
    · obtain ⟨z, -, hz⟩ := Option.map_eq_some_iff.1 hl
      cases hz
      cases he
    · cases hl
  · obtain ⟨z, hz, he'⟩ := Option.map_eq_some_iff.1 h
    cases he'
    exact ⟨rfl, List.head?_eq_some_iff.1 hz⟩

theorem State.gathHead_own {s : State} {c : Nat} {e : Eng} {x : GathCmd} (h : s.gathHead c = some (e, x)) (he : e.tracked = false) :
    e = s.eng c ∧ ∃ l, (s.core c).gathQ = x :: l := by
  unfold State.gathHead at h
  split at h
  · next y hy =>
    cases h
    obtain ⟨l, -, hl⟩ := List.exists_of_findSome?_eq_some hy
    split at hl
    · obtain ⟨z, -, hz⟩ := Option.map_eq_some_iff.1 hl
      cases hz
      cases he
    · cases hl
  · obtain ⟨z, hz, he'⟩ := Option.map_eq_some_iff.1 h
    cases he'
    exact ⟨rfl, List.head?_eq_some_iff.1 hz⟩

/-! ### Places and pieces -/

/-- A place in the own vault is named by a vault pointer. -/
theorem Eng.place_vault {e : Eng} {p : Word} {n o : Nat} {wr : Bool} (h : e.place p n wr = .inr (some o)) :
    isVaultPtr p = true ∧ o = bf p 20 0 := by
  unfold Eng.place at h
  split at h
  · split at h <;> cases h
  · split at h
    · cases h
    · next hs =>
      split at h
      · cases h
      · split at h
        · cases h
        · cases h
          exact ⟨by simpa [isVaultPtr] using (not_or.1 hs).1, rfl⟩

/-- Bytes of a vault that perform together: those of the bank row of the first. -/
theorem pieceOf_vault {p : Word} (h : isVaultPtr p = true) (i n : Nat) :
    pieceOf p i n = min (n - i) (256 - (bf p 20 0 + i) % 256) := by
  rw [pieceOf, if_pos h]

theorem Vault.length_read (v : Vault) (o : BitVec 8) (off n : Nat) : (v.read o off n).length = n := by simp [Vault.read]

section
variable {s : State} {e : Eng} {m : MCtx} {w : EngineWrite}

/-- An engine reads sound bytes of its vault. -/
theorem State.engReadAt_vault {p : Word} {n i k o : Nat} (hp : e.place p n false = .inr (some o))
    (hb : (s.vault e.core).bad (o + i) k = false) : s.engReadAt e m p n i k =
      .ok (s.modVault e.core fun v => v.correct (o + i) k)
        ⟨(s.vault e.core).read e.launch.owner (o + i) k, (s.vault e.core).secure (o + i) k, none⟩ := by
  simp only [State.engReadAt, hp, hb, Bool.false_eq_true, if_false]

/-- An engine writes bytes of its vault that its launch may hold. -/
theorem State.engWriteAt_vault {p : Word} {n i o : Nat} {bs : List Byte} {sec : Bool} (hp : e.place p n true = .inr (some o))
    (hs : sec = true → e.launch.flagS = true) : s.engWriteAt e m w p n i bs sec =
      .ok (s.modVault e.core fun v => v.write e.launch.owner (o + i) bs sec) () := by
  have hok : (sec && !e.launch.flagS) = false := by cases sec <;> simp_all
  simp only [State.engWriteAt, hp, hok, Bool.false_eq_true, if_false]

/-- The next piece of what is to be delivered to the vault. -/
theorem State.partWrite_vault {x : Part} {bs : List Byte} {o : Nat} (hp : e.place x.dst bs.length true = .inr (some o))
    (hs : x.sec = true → e.launch.flagS = true) : s.partWrite e m w x bs =
      let k := min (bs.length - x.done) (256 - (o + x.done) % 256)
      .ok (s.modVault e.core fun v => v.write e.launch.owner (o + x.done) ((bs.drop x.done).take k) x.sec)
        (if x.done + k < bs.length then some { x with out := some bs, done := x.done + k } else none) := by
  obtain ⟨hv, ho⟩ := Eng.place_vault hp
  simp only [State.partWrite, pieceOf_vault hv, ← ho, State.engWriteAt_vault hp hs]

end

/-! ### What an end leaves -/

theorem Core.vault_setTileState (k : Core) (r : Fin 32) (st : TileState) : (k.setTileState r st).vault = k.vault := rfl

theorem Core.vault_turnTile (k : Core) (r : Option (Fin 32)) (st : TileState) : (k.turnTile r st).vault = k.vault := by
  cases r <;> rfl

theorem Core.filled_eq (k : Core) (r : Option (Fin 32)) (n : Nat) : k.filled r n = { k with tiles := (k.filled r n).tiles } := by
  unfold Core.filled
  split
  · rfl
  · split <;> rfl

theorem Core.turnTile_eq (k : Core) (r : Option (Fin 32)) (st : TileState) : k.turnTile r st = { k with tiles := (k.turnTile r st).tiles } := by
  cases r <;> rfl

theorem State.vault_setCopy (s : State) (e : Eng) (x : CopyCmd) (new : Option CopyCmd) (c : Nat) :
    (s.setCopy e x new).vault c = s.vault c := by
  unfold State.setCopy
  split
  · rfl
  · exact State.core_modCore_keeps Core.vault s e.core rfl c

theorem State.vault_copyTiles (s : State) (e : Eng) (x : CopyCmd) (c : Nat) : (s.copyTiles e x).vault c = s.vault c := by
  unfold State.copyTiles
  split
  · rfl
  · refine State.core_modCore_keeps Core.vault s e.core ?_ c
    rw [Core.vault_turnTile, Core.filled_eq]

theorem State.vault_followOn (s : State) (d : Nat) (f : Follow) (r : Option (Fin 32)) (n c : Nat) :
    (s.followOn d f r n).vault c = s.vault c := by
  unfold State.followOn
  split
  · rfl
  · dsimp only
    split
    · refine State.core_modCore_keeps Core.vault s d ?_ c
      rfl
    · exact State.core_modCore_keeps Core.vault s d rfl c

theorem State.countSectors_none (s : State) (o : BitVec 8) (c path n : Nat) : s.countSectors o c path none n = s := rfl

theorem State.vault_copyEnd (s : State) (e : Eng) (x : CopyCmd) (n c : Nat) (hb : x.bar = none) :
    (s.copyEnd e x n).vault c = s.vault c := by
  unfold State.copyEnd
  simp only [hb, State.countSectors_none]
  split
  · rw [State.vault_setCopy, State.vault_copyTiles]
  · split
    · rw [State.vault_setCopy, State.vault_copyTiles]
    · rw [State.vault_setCopy, State.vault_followOn, State.vault_copyTiles]

/-! ### What a block does next (R163) -/

section
variable {s : State} {e : Eng} {x : CopyCmd}

theorem CopyCmd.not_dropped (h : x.reads x.next = true) : x.dropped x.next = false := by
  have hn : x.outside x.next = none := by simpa [CopyCmd.reads] using h
  simp [CopyCmd.dropped, hn]

theorem State.copyDo_dropped (h : x.dropped x.next = true) : s.copyDo e x = .ok s none := by
  simp only [State.copyDo, h, if_true]

/-- A block that is neither read nor dropped is filled with zeros, a bank row at a time. -/
theorem State.copyDo_zeros {o : Nat} (hd : x.dropped x.next = false) (hr : x.reads x.next = false) (hp : x.part = none)
    (h2 : e.place (x.dstAt x.next) (x.bd x.next) true = .inr (some o)) : ∃ p, s.copyDo e x =
      .ok (s.modVault e.core fun v => v.write e.launch.owner o (List.replicate (min (x.bd x.next) (256 - o % 256)) 0) false)
        (if min (x.bd x.next) (256 - o % 256) < x.bd x.next then some p else none) := by
  have hw := State.partWrite_vault (s := s) (m := e.ctx s x.user x.hint) (w := ⟨e.launch.id, e.core, 1, x.ticket, x.bar⟩)
    (x := Part.zeros (x.dstAt x.next) (x.bd x.next)) (bs := List.replicate (x.bd x.next) 0) (o := o)
    (by rw [List.length_replicate]; exact h2) (fun h => by cases h)
  simp only [Part.zeros, List.length_replicate, Nat.sub_zero, Nat.add_zero, Nat.zero_add, List.drop_zero, List.take_replicate,
    Nat.min_eq_left (Nat.min_le_left _ _)] at hw
  refine ⟨{ Part.zeros (x.dstAt x.next) (x.bd x.next) with done := min (x.bd x.next) (256 - o % 256) }, ?_⟩
  simp only [State.copyDo, hd, hr, hp, Bool.false_eq_true, if_false, Option.getD_none, State.movePart, Part.zeros]
  exact hw

/-- The first bank row of a block that lies in two is read. -/
theorem State.copyDo_first {o : Nat} (hr : x.reads x.next = true) (hp : x.part = none)
    (h1 : e.place (x.srcAt x.next) x.b false = .inr (some o)) (hlong : 256 < o % 256 + x.b)
    (hb : (s.vault e.core).bad o (256 - o % 256) = false) : ∃ p : Part, p.out = none ∧
      p.got = (s.vault e.core).read e.launch.owner o (256 - o % 256) ∧
      s.copyDo e x = .ok (s.modVault e.core fun v => v.correct o (256 - o % 256)) (some p) := by
  obtain ⟨hv, ho⟩ := Eng.place_vault h1
  have hk : pieceOf (x.srcAt x.next) 0 x.b = 256 - o % 256 := by
    rw [pieceOf_vault hv, ← ho, Nat.add_zero, Nat.sub_zero]
    omega
  have hread := State.engReadAt_vault (s := s) (m := e.ctx s x.user x.hint) (i := 0) (k := 256 - o % 256) h1 hb
  simp only [Nat.add_zero] at hread
  have hlt : 256 - o % 256 < x.b := by omega
  refine ⟨{ Part.start (x.srcAt x.next) (x.dstAt x.next) with
    got := (s.vault e.core).read e.launch.owner o (256 - o % 256), sec := (s.vault e.core).secure o (256 - o % 256) }, rfl, rfl, ?_⟩
  simp only [State.copyDo, CopyCmd.not_dropped hr, hr, hp, Bool.false_eq_true, if_false, if_true, Option.getD_none,
    State.movePart, Part.start, List.length_nil, hk, hread, Nat.zero_add, hlt, List.nil_append, Bool.false_or]

/-- The state after a block of the vault has moved unconverted: its bytes are read, the generator stands, and they are written. -/
def State.blockMoved (s : State) (e : Eng) (b o1 o2 : Nat) : State :=
  let t := s.modVault e.core fun v => v.correct o1 b
  (t.modCore e.core fun k => k.setEngGen false ((t.core e.core).engGen false)).modVault e.core fun v =>
    v.write e.launch.owner o2 ((s.vault e.core).read e.launch.owner o1 b) ((s.vault e.core).secure o1 b)

/-- A block that lies in one bank row on both sides, and keeps its format, moves at once. -/
theorem State.copyDo_whole {o1 o2 : Nat} (hr : x.reads x.next = true) (hp : x.part = none)
    (hc : converts x.fmts (x.srcAt x.next) (x.dstAt x.next) = false) (hbd : x.bd x.next = x.b)
    (h1 : e.place (x.srcAt x.next) x.b false = .inr (some o1)) (h2 : e.place (x.dstAt x.next) (x.bd x.next) true = .inr (some o2))
    (hs1 : o1 % 256 + x.b ≤ 256) (hs2 : o2 % 256 + x.b ≤ 256) (hb : (s.vault e.core).bad o1 x.b = false)
    (hsec : (s.vault e.core).secure o1 x.b = true → e.launch.flagS = true) :
    s.copyDo e x = .ok (s.blockMoved e x.b o1 o2) none := by
  obtain ⟨hv, ho⟩ := Eng.place_vault h1
  have hk : pieceOf (x.srcAt x.next) 0 x.b = x.b := by
    rw [pieceOf_vault hv, ← ho, Nat.add_zero, Nat.sub_zero]
    omega
  have hread := State.engReadAt_vault (s := s) (m := e.ctx s x.user x.hint) (i := 0) (k := x.b) h1 hb
  simp only [Nat.add_zero] at hread
  have hconv (g : Word32) (bs : List Byte) : convBytes x.fmts (x.srcAt x.next) (x.dstAt x.next) g bs = (bs, g) := by
    simp only [convBytes, hc, Bool.false_eq_true, if_false]
  have hlen : ((s.vault e.core).read e.launch.owner o1 x.b).length = x.b := Vault.length_read _ _ _ _
  have hwrite (u : State) := State.partWrite_vault (s := u) (e := e) (m := e.ctx s x.user x.hint)
    (w := ⟨e.launch.id, e.core, 1, x.ticket, x.bar⟩)
    (x := { Part.start (x.srcAt x.next) (x.dstAt x.next) with
      got := [] ++ (s.vault e.core).read e.launch.owner o1 x.b, sec := false || (s.vault e.core).secure o1 x.b })
    (bs := (s.vault e.core).read e.launch.owner o1 x.b) (o := o2) (by rw [hlen, ← hbd]; exact h2) hsec
  have hmin : min x.b (256 - o2 % 256) = x.b := by omega
  simp only [Part.start, Nat.sub_zero, Nat.add_zero, Nat.zero_add, List.drop_zero, hlen, hmin, Nat.lt_irrefl, if_false,
    List.take_of_length_le (Nat.le_of_eq hlen), List.nil_append, Bool.false_or] at hwrite
  simp only [State.copyDo, CopyCmd.not_dropped hr, hr, hp, Bool.false_eq_true, if_false, if_true, Option.getD_none,
    State.movePart, Part.start, List.length_nil, hk, hread, Nat.zero_add, Nat.lt_irrefl, hconv, List.nil_append, Bool.false_or,
    hwrite, Acc.genBack]
  rfl

/-- The next bank row of what a block delivers is written. -/
theorem State.copyDo_next {o : Nat} {p : Part} {bs : List Byte} (hd : x.dropped x.next = false) (hp : x.part = some p)
    (hout : p.out = some bs) (h2 : e.place p.dst bs.length true = .inr (some o)) (hsec : p.sec = true → e.launch.flagS = true) :
    s.copyDo e x =
      let k := min (bs.length - p.done) (256 - (o + p.done) % 256)
      .ok (s.modVault e.core fun v => v.write e.launch.owner (o + p.done) ((bs.drop p.done).take k) p.sec)
        (if p.done + k < bs.length then some { p with done := p.done + k } else none) := by
  have hw := State.partWrite_vault (s := s) (m := e.ctx s x.user x.hint) (w := ⟨e.launch.id, e.core, 1, x.ticket, x.bar⟩) h2 hsec
  simp only [State.copyDo, hd, hp, Bool.false_eq_true, if_false, Option.getD_some, State.movePart, hout, hw]

end

/-! ### The steps of a core's own copy -/

/-- A command after its queue's head has been changed. -/
theorem State.setCopy_own (s : State) {e : Eng} (he : e.tracked = false) (x : CopyCmd) (new : Option CopyCmd) :
    s.setCopy e x new = s.modCore e.core fun k => { k with copyQ := match new with
      | some y => modFirst (fun z => z.ticket == x.ticket) (fun _ => y) k.copyQ
      | none => k.copyQ.filter fun z => z.ticket != x.ticket } := by
  rw [State.setCopy, he]
  rfl

/-- Changes of one core alone. -/
theorem State.modCore_only (s : State) (c : Nat) (f : Core → Core) :
    s.modCore c f = { s with cores := (s.modCore c f).cores } ∧ ∀ d : Nat, d ≠ c → (s.modCore c f).core d = s.core d :=
  ⟨rfl, fun _ hd => State.core_modCore_ne s f hd⟩

section
variable {c : CoreId} {s t : State} {e : Eng} {x : CopyCmd}

theorem State.mem_setCopy (hc : e.core = c.val) (he : e.tracked = false) (hq : ∃ l, (t.core c.val).copyQ = x :: l) (y : CopyCmd) :
    y ∈ ((t.setCopy e x (some y)).core c.val).copyQ := by
  obtain ⟨l, hl⟩ := hq
  rw [State.setCopy_own t he, hc, State.core_modCore_same]
  simp [hl, modFirst]

theorem copyStart_gives (hw : s.copyHead c.val = some (e, x) ∧ e.tracked = false) (hs : x.started = false)
    (hr : (s.core c.val).rangeHeld x.ticket x.ranges = false) :
    (s.copyStart c.val = { s with cores := (s.copyStart c.val).cores } ∧
      ∀ d : Nat, d ≠ c.val → (s.copyStart c.val).core d = s.core d) ∧
    (s.copyStart c.val).core c.val = { s.core c.val with
      copyQ := modFirst (fun z => z.ticket == x.ticket) (fun _ => { x with started := true }) (s.core c.val).copyQ } := by
  obtain ⟨hh, he⟩ := hw
  obtain ⟨heq, -⟩ := State.copyHead_own hh he
  have hc : e.core = c.val := by rw [heq]; rfl
  have hstart : s.copyStart c.val = s.modCore c.val fun k => { k with
      copyQ := modFirst (fun z => z.ticket == x.ticket) (fun _ => { x with started := true }) k.copyQ } := by
    rw [State.copyStart, hh]
    simp only [hs, he, hr, Bool.not_false, Bool.and_false, Bool.or_self, Bool.false_eq_true, if_false]
    rw [State.setCopy_own s he, hc]
  rw [hstart, State.core_modCore_same]
  exact ⟨State.modCore_only _ _ _, rfl⟩

theorem copyStart_held (hw : s.copyHead c.val = some (e, x) ∧ e.tracked = false)
    (h : x.started = true ∨ (s.core c.val).rangeHeld x.ticket x.ranges = true) : s.copyStart c.val = s := by
  rw [State.copyStart, hw.1]
  exact if_pos (by rcases h with h | h <;> simp [h, hw.2])

theorem copyBlock_waits (hh : s.copyHead c.val = some (e, x))
    (h : x.started = false ∨ x.landed = true ∨ s.stillMissed x.missed = true) : s.copyBlock c.val = s := by
  rw [State.copyBlock, hh]
  exact if_pos (by rcases h with h | h | h <;> simp [h])

section
variable (hh : s.copyHead c.val = some (e, x)) (hs : x.started = true) (hl : x.landed = false)
  (hm : s.stillMissed x.missed = false) (hb : x.bar = none)
include hh hs hl hm

/-- A piece of a block has moved and others are to come. -/
theorem copyBlock_more {p : Part} (hd : s.copyDo e x = .ok t (some p)) :
    s.copyBlock c.val = t.setCopy e x (some { x with part := some p, missed := none }) := by
  rw [State.copyBlock, hh]
  simp only [hs, hl, hm, hd, Bool.not_true, Bool.or_self, Bool.false_eq_true, if_false]

include hb

/-- A block is done. -/
theorem copyBlock_done (hd : s.copyDo e x = .ok t none) : s.copyBlock c.val =
    if x.next + 1 < x.total then t.setCopy e x (some { x with next := x.next + 1, part := none, missed := none })
    else t.copyEnd e x (x.sectors x.next) := by
  rw [State.copyBlock, hh]
  simp only [hs, hl, hm, hd, hb, State.countSectors_none, Bool.not_true, Bool.or_self, Bool.false_eq_true, if_false]

/-- What a block does leaves memory and the vault as the move of its piece leaves them. -/
theorem copyBlock_leaves {o : Option Part} (hd : s.copyDo e x = .ok t o) :
    (s.copyBlock c.val).mem = t.mem ∧ (s.copyBlock c.val).vault c.val = t.vault c.val := by
  cases o with
  | some p =>
    rw [copyBlock_more hh hs hl hm hd]
    exact ⟨State.setCopy_mem _ _ _ _, State.vault_setCopy _ _ _ _ _⟩
  | none =>
    rw [copyBlock_done hh hs hl hm hb hd]
    split
    · exact ⟨State.setCopy_mem _ _ _ _, State.vault_setCopy _ _ _ _ _⟩
    · exact ⟨State.copyEnd_mem _ _ _ _, State.vault_copyEnd _ _ _ _ _ hb⟩

end

/-- The vault of a core after one change of it. -/
theorem State.vault_modVault (s : State) (c : CoreId) (f : Vault → Vault) : (s.modVault c.val f).vault c.val = f (s.vault c.val) := by
  rw [State.vault, State.modVault, State.core_modCore_same]
  rfl

theorem State.copyQ_modVault (s : State) (n : Nat) (f : Vault → Vault) (d : Nat) :
    ((s.modVault n f).core d).copyQ = (s.core d).copyQ := State.core_modCore_keeps Core.copyQ s n rfl d

/-- A block of zeros, and one dropped, leaves the core but for its vault. -/
theorem copyEnd_own (hc : e.core = c.val) (he : e.tracked = false) (hb : x.bar = none) (hf : x.follow = none) (t : State) (n : Nat) :
    (t.copyEnd e x n).core c.val = { ((t.core c.val).filled x.dstTile x.ticket).turnTile x.srcTile .empty with
      copyQ := (t.core c.val).copyQ.filter fun z => z.ticket != x.ticket } := by
  have htiles : t.copyTiles e x = t.modCore c.val fun k => (k.filled x.dstTile x.ticket).turnTile x.srcTile .empty := by
    rw [State.copyTiles, he, hc]
    rfl
  have hq : (((t.core c.val).filled x.dstTile x.ticket).turnTile x.srcTile .empty).copyQ = (t.core c.val).copyQ := by
    rw [Core.turnTile_eq, Core.filled_eq]
  simp only [State.copyEnd, hf, hb, State.countSectors_none]
  rw [State.setCopy_own _ he, htiles, hc, State.core_modCore_same, State.core_modCore_same]
  dsimp only
  rw [hq]

/-- The tile that a command has filled alone. -/
theorem Core.tile_filled {k : Core} {r : Fin 32} {n : Nat} (hC : ∀ z ∈ k.copyQ, z.dstTile = some r → z.ticket = n)
    (hG : ∀ z ∈ k.gathQ, z.tile = r → z.scatter = true ∨ z.ticket = n) : ((k.filled (some r) n).tile r).state = .ready := by
  have hnone : (k.copyQ.any (fun z => z.dstTile == some r && z.ticket != n) ||
      k.gathQ.any (fun z => !z.scatter && z.tile == r && z.ticket != n)) = false := by
    rw [Bool.or_eq_false_iff, List.any_eq_false, List.any_eq_false]
    refine ⟨fun z hz h => ?_, fun z hz h => ?_⟩
    · simp only [Bool.and_eq_true, beq_iff_eq, bne_iff_ne] at h
      exact h.2 (hC z hz h.1)
    · simp only [Bool.and_eq_true, Bool.not_eq_true', beq_iff_eq, bne_iff_ne] at h
      obtain ⟨⟨hs, ht⟩, hn⟩ := h
      rcases hG z hz ht with h | h
      · rw [h] at hs; cases hs
      · exact hn h
  rw [Core.filled, hnone]
  simp [Core.tile, Core.setTileState, Core.setTile]

theorem Core.tile_setTileState (k : Core) (r q : Fin 32) (st : TileState) :
    ((k.setTileState r st).tile q).state = if q = r then st else (k.tile q).state := by
  by_cases hq : q = r
  · subst hq; simp [Core.tile, Core.setTileState, Core.setTile]
  · have hne : r.val ≠ q.val := fun h => hq (Fin.ext h.symm)
    simp [Core.tile, Core.setTileState, Core.setTile, hq, hne]

end

/-! ### What a gather leaves of its unit's queue -/

/-- The queues of the gather units are as before. -/
def KeepsGathers (s t : State) : Prop := ∀ d, (t.core d).gathQ = (s.core d).gathQ

namespace KeepsGathers
variable {s t u : State}

theorem refl (s : State) : KeepsGathers s s := fun _ => rfl

theorem trans (a : KeepsGathers s t) (b : KeepsGathers t u) : KeepsGathers s u := fun d => (b d).trans (a d)

theorem of_cores (h : t.cores = s.cores) : KeepsGathers s t := fun d => by rw [State.core, h]; rfl

theorem of_accesses {c : Option Nat} (h : Accesses c s t) : KeepsGathers s t := fun d => (congrArg Core.gathQ (h.core d) :)

theorem of_modCore (s : State) (n : Nat) {f : Core → Core} (hf : ∀ k, (f k).gathQ = k.gathQ) : KeepsGathers s (s.modCore n f) :=
  State.core_modCore_keeps Core.gathQ s n (hf _)

theorem of_modVault (s : State) (n : Nat) (f : Vault → Vault) : KeepsGathers s (s.modVault n f) :=
  .of_modCore s n (f := fun k => { k with vault := f k.vault }) fun _ => rfl

end KeepsGathers

theorem State.copyPage_cores (s : State) (owner : BitVec 8) (src dst : Nat) : (s.copyPage owner src dst).cores = s.cores := by
  simp only [State.copyPage, State.writePhys]

theorem State.takeShadow_keepsGathers {s t : State} {l : Launch} {copy1 : Bool} {va pa n : Nat}
    (h : s.takeShadow l copy1 va pa n = some t) : KeepsGathers s t := by
  unfold State.takeShadow at h
  extract_lets page lines note at h
  split at h
  · cases h; exact .of_cores rfl
  · split at h
    · cases h
    · next p ps _ =>
      cases h
      have h1 (u : State) := KeepsGathers.of_accesses (u.launchRequest_accesses none l l.fn pa 4096)
      have h2 (u : State) := KeepsGathers.of_accesses (u.launchRequest_accesses none l l.fn (4096 * p) 4096)
      have h3 (u : State) := KeepsGathers.of_accesses (u.dirtied_accesses none (4096 * p) 4096)
      have h4 (u : State) : KeepsGathers u (u.copyPage l.owner (pa / 4096) p) := .of_cores (u.copyPage_cores _ _ _)
      have hpool : KeepsGathers s { s with shPool := SMap.insert s.shPool (2 * l.fn + b2n copy1) ps } := .of_cores rfl
      have h5 (u : State) (z : List ShadowPage) : KeepsGathers u { u with shadows := z } := .of_cores rfl
      have h6 (u : State) : KeepsGathers u (note u) := .of_cores rfl
      exact ((((hpool.trans (h1 _)).trans (h2 _)).trans (h3 _)).trans (h4 _)).trans ((h5 _ _).trans (h6 _))

theorem State.writePieces_keepsGathers {s t : State} {m : MCtx} {va : Nat} {sec : Bool} {ps : List Piece} {bs : List Byte}
    (h : s.writePieces m va sec ps bs = some t) : KeepsGathers s t := by
  induction ps generalizing s va bs with
  | nil => cases h; exact .refl _
  | cons p ps ih =>
    simp only [State.writePieces] at h
    split at h
    · exact ih h
    · split at h
      · cases h
      · next u hu =>
        have hs : KeepsGathers s u := by
          split at hu
          · exact State.takeShadow_keepsGathers hu
          · cases hu; exact .refl _
        refine hs.trans (KeepsGathers.trans (t := _) ?_ (ih h))
        refine KeepsGathers.trans (t := _) ?_ (.of_accesses (State.writePhys_accesses none _ _ _ _ _))
        refine KeepsGathers.trans (t := _) ?_ (.of_accesses (State.useLines_accesses _ _ _ _ _ _ _ _))
        split
        · exact .of_accesses (State.dirtied_accesses none _ _ _)
        · exact .refl _

theorem State.endLaunch_keepsGathers (s : State) (id : Nat) (st : Status) (detail : BitVec 8) (frank : Nat) :
    KeepsGathers s (s.endLaunch id st detail frank) := by
  unfold State.endLaunch
  split
  · exact .refl s
  · split
    · exact fun d => State.core_modCores_keeps Core.gathQ (f := Core.drain) (fun _ => rfl) _ _ d
    · exact .refl s

theorem State.writeGlobal_keepsGathers (s : State) (m : MCtx) (ptr : Word) (bs : List Byte) (sec : Bool) :
    KeepsGathers s (s.writeGlobal m ptr bs sec).state := by
  have hc := KeepsGathers.of_accesses (s.checkStore_accesses m ptr bs.length sec)
  unfold State.writeGlobal
  split <;> rename_i h <;> rw [h] at hc
  · exact hc
  · exact hc
  · split
    · next hw => exact hc.trans (State.writePieces_keepsGathers hw)
    · exact hc.trans (State.endLaunch_keepsGathers _ _ _ _ _)

theorem State.markEng_keepsGathers (s : State) (m : MCtx) (w : EngineWrite) (dst : Word) (n : Nat) :
    KeepsGathers s (s.markEng m w dst n) := by
  unfold State.markEng
  induction splitPages (bf dst 56 0) n generalizing s with
  | nil => exact .refl s
  | cons a as ih =>
    rw [List.foldl_cons]
    refine KeepsGathers.trans (t := _) ?_ (ih _)
    split
    · exact .of_cores rfl
    · exact .refl s

theorem State.engReadAt_keepsGathers (s : State) (e : Eng) (m : MCtx) (p : Word) (n i k : Nat) :
    KeepsGathers s (s.engReadAt e m p n i k).state := by
  unfold State.engReadAt
  split
  · exact .refl s
  · have hr := KeepsGathers.of_accesses (s.readGlobal_accesses m (p + wd i) k)
    split <;> rename_i h <;> rw [h] at hr
    · exact hr
    · exact hr
    · split <;> exact hr
  · dsimp only
    split
    · exact .refl s
    · dsimp only [Acc.state]
      exact .of_modVault s _ _

theorem State.engWriteAt_keepsGathers (s : State) (e : Eng) (m : MCtx) (w : EngineWrite) (p : Word) (n i : Nat) (bs : List Byte)
    (sec : Bool) : KeepsGathers s (s.engWriteAt e m w p n i bs sec).state := by
  unfold State.engWriteAt
  split
  · exact .refl s
  · have hw := s.writeGlobal_keepsGathers m (p + wd i) bs sec
    split
    · next h =>
      rw [h] at hw
      exact hw.trans (State.markEng_keepsGathers _ _ _ _ _)
    · exact hw
  · split
    · exact .refl s
    · dsimp only [Acc.state]
      exact .of_modVault s _ _

theorem State.partWrite_keepsGathers (s : State) (e : Eng) (m : MCtx) (w : EngineWrite) (x : Part) (bs : List Byte) :
    KeepsGathers s (s.partWrite e m w x bs).state := by
  have hw := s.engWriteAt_keepsGathers e m w x.dst bs.length x.done ((bs.drop x.done).take (pieceOf x.dst x.done bs.length)) x.sec
  unfold State.partWrite
  dsimp only
  split <;> rename_i h <;> rw [h] at hw <;> exact hw

theorem Acc.genBack_keepsGathers {α : Type} {s : State} {a : Acc α} (h : KeepsGathers s a.state) (c : Nat) (g : Bool) (w : Word32) :
    KeepsGathers s (a.genBack c g w).state := by
  have hset (t : State) : KeepsGathers t (t.modCore c fun k => k.setEngGen g w) := .of_modCore t c fun k => by cases g <;> rfl
  cases a with
  | ok t x => exact h
  | trap t tr => exact h.trans (hset t)
  | miss t f y => exact h.trans (hset t)

theorem State.movePart_keepsGathers (s : State) (e : Eng) (m : MCtx) (w : EngineWrite) (g : Bool) (fmts : Vector Word 16) (b : Nat)
    (x : Part) : KeepsGathers s (s.movePart e m w g fmts b x).state := by
  unfold State.movePart
  split
  · exact s.partWrite_keepsGathers e m w x _
  · have hr := s.engReadAt_keepsGathers e m x.src b x.got.length (pieceOf x.src x.got.length b)
    dsimp only
    split <;> rename_i h <;> rw [h] at hr
    · exact hr
    · exact hr
    · split
      · exact hr
      · refine Acc.genBack_keepsGathers (hr.trans ?_) _ _ _
        refine KeepsGathers.trans (t := _) ?_ (State.partWrite_keepsGathers _ e m w _ _)
        exact .of_modCore _ _ fun k => by cases g <;> rfl

/-- What a row does leaves the queues of the gather units. -/
theorem State.gathDo_keepsGathers (s : State) (e : Eng) (x : GathCmd) : KeepsGathers s (s.gathDo e x).state := by
  unfold State.gathDo
  dsimp only
  split
  · exact State.movePart_keepsGathers _ _ _ _ _ _ _ _
  · have hr := s.engReadAt_keepsGathers e (e.ctx s x.user x.hint) (ownPtr (x.idxOff + 4 * x.row)) 4 0 4
    rw [← State.engRead] at hr
    split <;> rename_i h <;> rw [h] at hr
    · exact hr
    · exact hr
    · split
      · exact hr
      · exact hr.trans (State.movePart_keepsGathers _ _ _ _ _ _ _ _)

/-! ### The steps of the gather unit and of markers -/

section
variable {c : CoreId} {s t : State} {e : Eng} {y : GathCmd}

theorem State.setGath_own (s : State) (he : e.tracked = false) (y : GathCmd) (new : Option GathCmd) :
    s.setGath e y new = s.modCore e.core fun k => { k with gathQ := match new with
      | some z => modFirst (fun x => x.ticket == y.ticket) (fun _ => z) k.gathQ
      | none => k.gathQ.filter fun x => x.ticket != y.ticket } := by
  rw [State.setGath, he]
  rfl

theorem State.mem_setGath (hc : e.core = c.val) (he : e.tracked = false) (hq : ∃ l, (t.core c.val).gathQ = y :: l) (z : GathCmd) :
    z ∈ ((t.setGath e y (some z)).core c.val).gathQ := by
  obtain ⟨l, hl⟩ := hq
  rw [State.setGath_own t he, hc, State.core_modCore_same]
  simp [hl, modFirst]

/-- No overlapping command holds a row back. -/
theorem gathRow_free (hr : y.row = 0 → y.part = none → (s.core c.val).rangeHeld y.ticket y.ranges = false) :
    (y.row == 0 && y.part.isNone && (s.core c.val).rangeHeld y.ticket y.ranges) = false := by
  by_cases h0 : y.row = 0 ∧ y.part = none
  · simp [hr h0.1 h0.2]
  · cases h1 : y.row == 0 <;> cases h2 : y.part.isNone <;> simp_all

section
variable (hh : s.gathHead c.val = some (e, y)) (he : e.tracked = false) (hm : s.stillMissed y.missed = false)
  (hr : y.row = 0 → y.part = none → (s.core c.val).rangeHeld y.ticket y.ranges = false)
include hh he hm hr

theorem gathRow_end (hdone : y.rows ≤ y.row) : s.gathRow c.val = s.gathEnd e y := by
  rw [State.gathRow, hh]
  simp only [he, hm, gathRow_free hr, Bool.not_false, Bool.true_and, Bool.or_self, Bool.false_eq_true, if_false, hdone, if_true]

theorem gathRow_more (hrow : y.row < y.rows) {p : Part} (hd : s.gathDo e y = .ok t (some p)) :
    s.gathRow c.val = t.setGath e y (some { y with part := some p, missed := none }) := by
  rw [State.gathRow, hh]
  simp only [he, hm, gathRow_free hr, Bool.not_false, Bool.true_and, Bool.or_self, Bool.false_eq_true, if_false, hd,
    Nat.not_le.2 hrow]

theorem gathRow_next (hrow : y.row + 1 < y.rows) (hb : y.bar = none) (hd : s.gathDo e y = .ok t none) :
    s.gathRow c.val = t.setGath e y (some { y with row := y.row + 1, part := none, missed := none }) := by
  rw [State.gathRow, hh]
  simp only [he, hm, gathRow_free hr, Bool.not_false, Bool.true_and, Bool.or_self, Bool.false_eq_true, if_false, hd, hb,
    State.countSectors_none, Nat.not_le.2 (Nat.lt_of_succ_lt hrow), hrow, if_true]

end

/-- A gather or a scatter that has done its rows ends. -/
theorem gathEnd_own (hc : e.core = c.val) (he : e.tracked = false) (s : State) :
    s.gathEnd e y = s.modCore c.val fun k =>
      { (if y.scatter then k.setTileState y.tile .empty else k.filled (some y.tile) y.ticket) with
        gathQ := k.gathQ.filter fun x => x.ticket != y.ticket } := by
  have hq (k : Core) : (if y.scatter then k.setTileState y.tile .empty else k.filled (some y.tile) y.ticket).gathQ = k.gathQ := by
    split
    · rfl
    · rw [Core.filled_eq]
  rw [State.gathEnd, he]
  simp only [Bool.false_eq_true, if_false]
  rw [State.setGath_own _ he, hc, State.modCore, State.core_modCore_same]
  dsimp only
  rw [hq]
  exact State.setCore_setCore _ _ _ _

theorem markRetire_done {m : Marker} {i n : Nat} (hi : i < 4) (hk : vget none (s.core c.val).k i = some m)
    (hl : m.left.getLsbD n = true) (ha : (s.core c.val).ahead n m.ticket = false) :
    vget none ((s.markRetire c.val i n).core c.val).k i = some { m with left := setBit m.left n false } ∧
    (s.markRetire c.val i n).mem = s.mem := by
  have hgo : (bt m.left n && !(s.core c.val).ahead n m.ticket) = true := by rw [bt, hl, ha]; rfl
  rw [State.markRetire, hk]
  simp only [hgo, if_true]
  refine ⟨?_, rfl⟩
  rw [State.wake, State.core_modCore_same, State.core_modCore_same]
  exact vget_vset_same _ _ _ _ hi

theorem markRetire_waits {m : Marker} {i n : Nat} (hk : vget none (s.core c.val).k i = some m)
    (h : m.left.getLsbD n = false ∨ (s.core c.val).ahead n m.ticket = true) : s.markRetire c.val i n = s := by
  rw [State.markRetire, hk]
  exact if_neg (by rcases h with h | h <;> simp [bt, h])

end

/-! ### The follow-on of a copy -/

theorem followRoom_places {c : CoreId} {s : State} {e : Eng} {x : CopyCmd} {f : Follow} {r : Fin 32}
    (hw : s.copyHead c.val = some (e, x) ∧ e.tracked = false) (hf : x.follow = some f) (hl : x.landed = true)
    (hfull : (s.core c.val).matFull = false) (hb : x.bar = none) (hd : x.dstTile = some r)
    (ht : (s.core c.val).mulTrap false f.m r = none) :
    ((s.followRoom c.val).core c.val).matQ = (s.core c.val).matQ ++
      [{ (s.core c.val).mulCmd false f.last f.str f.m r with ticket := (s.core c.val).ticket, issued := x.ticket }] ∧
    ((s.followRoom c.val).core c.val).copyQ = (s.core c.val).copyQ.filter fun z => z.ticket != x.ticket := by
  obtain ⟨hh, he⟩ := hw
  have hc : e.core = c.val := by rw [(State.copyHead_own hh he).1]; rfl
  have hroom : s.followRoom c.val = (s.modCore c.val fun k =>
      k.enqueueFor (k.mulCmd false f.last f.str f.m r) x.ticket).setCopy e x none := by
    rw [State.followRoom, hh]
    simp only [hf, hl, hfull, hd, hb, State.countSectors_none, State.followOn, ht, Bool.not_false, Bool.and_self, if_true]
  rw [hroom, State.setCopy_own _ he, hc, State.core_modCore_same, State.core_modCore_same]
  exact ⟨rfl, rfl⟩

theorem followRoom_waits {c : CoreId} {s : State} {e : Eng} {x : CopyCmd} (hh : s.copyHead c.val = some (e, x))
    (h : x.follow = none ∨ x.landed = false ∨ (s.core c.val).matFull = true) : s.followRoom c.val = s := by
  rw [State.followRoom, hh]
  dsimp only
  cases hf : x.follow with
  | none => rfl
  | some f => exact if_neg (by rcases h with h | h | h <;> simp_all)

/-! ### The clauses -/

section
variable {c : CoreId} {s : State} {e : Eng} {x : CopyCmd} (hh : s.copyHead c.val = some (e, x)) (he : e.tracked = false)
  (hs : x.started = true) (hl : x.landed = false) (hm : s.stillMissed x.missed = false) (hb : x.bar = none)
include hh he

theorem copyHead_core : e.core = c.val := by
  rw [(State.copyHead_own hh he).1]; rfl

theorem copyHead_vault : s.vault e.core = (s.core c.val).vault := by
  rw [copyHead_core hh he]; rfl

include hs hl hm hb

theorem copyBlock_whole {o1 o2 : Nat} (hp : x.part = none) (h2 : e.place (x.dstAt x.next) (x.bd x.next) true = .inr (some o2))
    (hr : x.reads x.next = true) (hc : converts x.fmts (x.srcAt x.next) (x.dstAt x.next) = false) (hbd : x.bd x.next = x.b)
    (h1 : e.place (x.srcAt x.next) x.b false = .inr (some o1)) (hs1 : o1 % 256 + x.b ≤ 256) (hs2 : o2 % 256 + x.b ≤ 256)
    (hbad : (s.core c.val).vault.bad o1 x.b = false) (hsec : (s.core c.val).vault.secure o1 x.b = true → e.launch.flagS = true) :
    (s.copyBlock c.val).mem = s.mem ∧ VaultWrites e.launch.owner o2 ((s.core c.val).vault.read e.launch.owner o1 x.b)
      (s.core c.val).vault ((s.copyBlock c.val).vault c.val) := by
  rw [← copyHead_vault hh he] at hbad hsec
  obtain ⟨hmem, hv⟩ := copyBlock_leaves hh hs hl hm hb (State.copyDo_whole hr hp hc hbd h1 h2 hs1 hs2 hbad hsec)
  refine ⟨hmem, ?_⟩
  rw [hv, State.blockMoved, copyHead_core hh he, State.vault_modVault]
  have hgen (t : State) (g : Word32) : (t.modCore c.val fun k => k.setEngGen false g).vault c.val = t.vault c.val :=
    State.core_modCore_keeps Core.vault t c.val rfl c.val
  rw [hgen, State.vault_modVault]
  exact (Vault.write_writes _ _ _ _ _).alike_left (Vault.alike_correct _ _ _)

theorem copyBlock_first {o : Nat} (hp : x.part = none) (hr : x.reads x.next = true)
    (h1 : e.place (x.srcAt x.next) x.b false = .inr (some o)) (hlong : 256 < o % 256 + x.b)
    (hbad : (s.core c.val).vault.bad o (256 - o % 256) = false) :
    (s.copyBlock c.val).mem = s.mem ∧ VaultWrites e.launch.owner 0 [] (s.core c.val).vault ((s.copyBlock c.val).vault c.val) ∧
      ∃ p : Part, p.out = none ∧ p.got = (s.core c.val).vault.read e.launch.owner o (256 - o % 256) ∧
        { x with part := some p, missed := none } ∈ ((s.copyBlock c.val).core c.val).copyQ := by
  rw [← copyHead_vault hh he] at hbad
  obtain ⟨p, hout, hgot, hd⟩ := State.copyDo_first hr hp h1 hlong hbad
  obtain ⟨hmem, hv⟩ := copyBlock_leaves hh hs hl hm hb hd
  rw [copyHead_vault hh he] at hgot
  refine ⟨hmem, ?_, p, hout, hgot, ?_⟩
  · rw [hv, copyHead_core hh he, State.vault_modVault]
    exact .of_alike (Vault.alike_correct _ _ _)
  · rw [copyBlock_more hh hs hl hm hd]
    refine State.mem_setCopy (copyHead_core hh he) he ?_ _
    rw [State.copyQ_modVault]
    exact (State.copyHead_own hh he).2

theorem copyBlock_next {o : Nat} {p : Part} {bs : List Byte} (hd : x.dropped x.next = false) (hp : x.part = some p)
    (hout : p.out = some bs) (h2 : e.place p.dst bs.length true = .inr (some o)) (hsec : p.sec = true → e.launch.flagS = true) :
    let m := min (bs.length - p.done) (256 - (o + p.done) % 256)
    (s.copyBlock c.val).mem = s.mem ∧ VaultWrites e.launch.owner (o + p.done) ((bs.drop p.done).take m) (s.core c.val).vault
      ((s.copyBlock c.val).vault c.val) ∧
    (p.done + m < bs.length →
      { x with part := some { p with done := p.done + m }, missed := none } ∈ ((s.copyBlock c.val).core c.val).copyQ) := by
  intro m
  have hdo := State.copyDo_next (s := s) hd hp hout h2 hsec
  obtain ⟨hmem, hv⟩ := copyBlock_leaves hh hs hl hm hb hdo
  refine ⟨hmem, ?_, fun hlt => ?_⟩
  · rw [hv, copyHead_core hh he, State.vault_modVault]
    exact Vault.write_writes _ _ _ _ _
  · dsimp only at hdo
    rw [if_pos hlt] at hdo
    rw [copyBlock_more hh hs hl hm hdo]
    refine State.mem_setCopy (copyHead_core hh he) he ?_ _
    rw [State.copyQ_modVault]
    exact (State.copyHead_own hh he).2

/-- What a block that is not read leaves, when its last piece is written or it is dropped. -/
theorem copyBlock_ends {t : State} {f : Vault → Vault} (hp : x.part = none) (ht : t = s ∨ t = s.modVault c.val f)
    (hd : s.copyDo e x = .ok t none) :
    (x.next + 1 < x.total → { x with next := x.next + 1, missed := none } ∈ ((s.copyBlock c.val).core c.val).copyQ) ∧
    (x.total ≤ x.next + 1 → x.follow = none →
      (((s.copyBlock c.val).core c.val).copyQ = (s.core c.val).copyQ.filter fun z => z.ticket != x.ticket) ∧
      (∀ r, x.dstTile = some r → x.srcTile ≠ some r →
        ((∀ z ∈ (s.core c.val).copyQ, z.dstTile = some r → z.ticket = x.ticket) ∧
          ∀ z ∈ (s.core c.val).gathQ, z.tile = r → z.scatter = true ∨ z.ticket = x.ticket) →
        (((s.copyBlock c.val).core c.val).tile r).state = .ready) ∧
      ∀ r, x.srcTile = some r → (((s.copyBlock c.val).core c.val).tile r).state = .empty) := by
  have hc := copyHead_core hh he
  have hcopy : (t.core c.val).copyQ = (s.core c.val).copyQ := by
    rcases ht with rfl | rfl
    · rfl
    · exact State.copyQ_modVault _ _ _ _
  have hgath : (t.core c.val).gathQ = (s.core c.val).gathQ := by
    rcases ht with rfl | rfl
    · rfl
    · exact KeepsGathers.of_modVault _ _ _ _
  have hblock := copyBlock_done hh hs hl hm hb hd
  refine ⟨fun hn => ?_, fun hn hf => ?_⟩
  · rw [hblock, if_pos hn]
    have hpart : { x with next := x.next + 1, part := none, missed := none } = { x with next := x.next + 1, missed := none } := by
      rw [hp]
    rw [hpart]
    refine State.mem_setCopy hc he ?_ _
    rw [hcopy]
    exact (State.copyHead_own hh he).2
  · rw [hblock, if_neg (by omega), copyEnd_own hc he hb hf, hcopy]
    refine ⟨rfl, fun r hr hne ⟨hC, hG⟩ => ?_, fun r hr => ?_⟩
    · have hready := Core.tile_filled (k := t.core c.val) (r := r) (n := x.ticket) (by rw [hcopy]; exact hC) (by rw [hgath]; exact hG)
      rw [hr]
      cases hq : x.srcTile with
      | none => exact hready
      | some q =>
        have hqr : r ≠ q := fun h => hne (by rw [hq, h])
        refine (Core.tile_setTileState _ q r .empty).trans ?_
        rw [if_neg hqr, hready]
    · rw [hr]
      exact (Core.tile_setTileState _ r r .empty).trans (if_pos rfl)

theorem copyBlock_unread {o : Nat} (hp : x.part = none) (h2 : e.place (x.dstAt x.next) (x.bd x.next) true = .inr (some o))
    (hr : x.reads x.next = false) :
    (s.copyBlock c.val).mem = s.mem ∧ (x.dropped x.next = true → (s.copyBlock c.val).vault c.val = (s.core c.val).vault) ∧
    (x.dropped x.next = false → VaultWrites e.launch.owner o (List.replicate (min (x.bd x.next) (256 - o % 256)) 0)
      (s.core c.val).vault ((s.copyBlock c.val).vault c.val)) ∧
    (x.dropped x.next = true ∨ o % 256 + x.bd x.next ≤ 256 →
      (x.next + 1 < x.total → { x with next := x.next + 1, missed := none } ∈ ((s.copyBlock c.val).core c.val).copyQ) ∧
      (x.total ≤ x.next + 1 → x.follow = none →
        (((s.copyBlock c.val).core c.val).copyQ = (s.core c.val).copyQ.filter fun z => z.ticket != x.ticket) ∧
        (∀ r, x.dstTile = some r → x.srcTile ≠ some r →
          ((∀ z ∈ (s.core c.val).copyQ, z.dstTile = some r → z.ticket = x.ticket) ∧
            ∀ z ∈ (s.core c.val).gathQ, z.tile = r → z.scatter = true ∨ z.ticket = x.ticket) →
          (((s.copyBlock c.val).core c.val).tile r).state = .ready) ∧
        ∀ r, x.srcTile = some r → (((s.copyBlock c.val).core c.val).tile r).state = .empty)) := by
  cases hd : x.dropped x.next with
  | true =>
    have hdo := State.copyDo_dropped (s := s) (e := e) hd
    obtain ⟨hmem, hv⟩ := copyBlock_leaves hh hs hl hm hb hdo
    exact ⟨hmem, fun _ => hv, fun h => by simp at h, fun _ => copyBlock_ends (f := id) hh he hs hl hm hb hp (.inl rfl) hdo⟩
  | false =>
    obtain ⟨p, hdo⟩ := State.copyDo_zeros (s := s) hd hr hp h2
    obtain ⟨hmem, hv⟩ := copyBlock_leaves hh hs hl hm hb hdo
    refine ⟨hmem, fun h => by simp at h, fun _ => ?_, fun h => ?_⟩
    · rw [hv, copyHead_core hh he, State.vault_modVault]
      exact Vault.write_writes _ _ _ _ _
    · have hshort : o % 256 + x.bd x.next ≤ 256 := h.resolve_left (by simp)
      rw [if_neg (by omega)] at hdo
      exact copyBlock_ends hh he hs hl hm hb hp (.inr (by rw [copyHead_core hh he])) hdo

end

section
variable {c : CoreId} {s : State} {e : Eng} {y : GathCmd} (hh : s.gathHead c.val = some (e, y)) (he : e.tracked = false)
  (hm : s.stillMissed y.missed = false)
  (hr : y.row = 0 → y.part = none → (s.core c.val).rangeHeld y.ticket y.ranges = false)
include hh he

theorem gathHead_core : e.core = c.val := by
  rw [(State.gathHead_own hh he).1]; rfl

include hm hr

theorem gathRow_ends (hdone : y.rows ≤ y.row) :
    (s.gathRow c.val = { s with cores := (s.gathRow c.val).cores } ∧
      ∀ d : Nat, d ≠ c.val → (s.gathRow c.val).core d = s.core d) ∧
    (((s.gathRow c.val).core c.val).gathQ = (s.core c.val).gathQ.filter fun z => z.ticket != y.ticket) ∧
    ((y.scatter = true ∨ (∀ z ∈ (s.core c.val).copyQ, z.dstTile = some y.tile → z.ticket = y.ticket) ∧
        ∀ z ∈ (s.core c.val).gathQ, z.tile = y.tile → z.scatter = true ∨ z.ticket = y.ticket) →
      (((s.gathRow c.val).core c.val).tile y.tile).state = if y.scatter then .empty else .ready) := by
  rw [gathRow_end hh he hm hr hdone, gathEnd_own (gathHead_core hh he) he, State.core_modCore_same]
  refine ⟨State.modCore_only _ _ _, rfl, fun h => ?_⟩
  cases hs : y.scatter with
  | true => exact (Core.tile_setTileState _ y.tile y.tile .empty).trans (if_pos rfl)
  | false =>
    obtain ⟨hC, hG⟩ := h.resolve_left (by simp [hs])
    exact Core.tile_filled hC hG

theorem gathRow_moves {v : State} {p : Part} (hrow : y.row < y.rows) (hd : s.gathDo e y = .ok v (some p)) :
    (s.gathRow c.val).mem = v.mem ∧ { y with part := some p, missed := none } ∈ ((s.gathRow c.val).core c.val).gathQ := by
  have hkeep : KeepsGathers s v := by
    have h := s.gathDo_keepsGathers e y
    rwa [hd] at h
  rw [gathRow_more hh he hm hr hrow hd]
  exact ⟨State.setGath_mem _ _ _ _,
    State.mem_setGath (gathHead_core hh he) he (by rw [hkeep c.val]; exact (State.gathHead_own hh he).2) _⟩

theorem gathRow_goesOn {v : State} (hrow : y.row + 1 < y.rows) (hb : y.bar = none) (hd : s.gathDo e y = .ok v none) :
    (s.gathRow c.val).mem = v.mem ∧
      { y with row := y.row + 1, part := none, missed := none } ∈ ((s.gathRow c.val).core c.val).gathQ := by
  have hkeep : KeepsGathers s v := by
    have h := s.gathDo_keepsGathers e y
    rwa [hd] at h
  rw [gathRow_next hh he hm hr hrow hb hd]
  exact ⟨State.setGath_mem _ _ _ _,
    State.mem_setGath (gathHead_core hh he) he (by rw [hkeep c.val]; exact (State.gathHead_own hh he).2) _⟩

end

/-- Settles O52: one lemma for each way in which a block, a row, a follow-on and a marker go on. -/
theorem engineSteps : Obligations.engineSteps := by
  intro c i n e x y f r m p bs o1 o2 s v k only filler work runs moves
  refine ⟨⟨_, exec_copyCommandStart c s, ?_, copyStart_held, copyStart_gives⟩,
    ⟨_, exec_copyBlockMove c s, ?_, fun hw => copyBlock_waits hw.1, ?_, ?_, ?_, ?_⟩,
    ⟨_, exec_cpymFollowonEnqueue c s, ?_, fun hw => followRoom_waits hw.1, followRoom_places⟩,
    ⟨_, exec_gatherRow c s, ?_, fun hh he hm hr => ⟨gathRow_ends hh he hm hr, gathRow_moves hh he hm hr, gathRow_goesOn hh he hm hr⟩⟩,
    ⟨_, exec_markerRetire c i n s, ?_, markRetire_done i.isLt, markRetire_waits⟩⟩
  · intro hn
    rw [State.copyStart, hn]
  · intro hn
    rw [State.copyBlock, hn]
  · rintro ⟨⟨⟨hh, he⟩, hs, hl, hm, hb⟩, hp, h2⟩ hr hc hbd h1 hs1 hs2 hbad hsec
    exact copyBlock_whole hh he hs hl hm hb hp h2 hr hc hbd h1 hs1 hs2 hbad hsec
  · rintro ⟨⟨hh, he⟩, hs, hl, hm, hb⟩ hp hr h1 hlong hbad
    exact copyBlock_first hh he hs hl hm hb hp hr h1 hlong hbad
  · rintro ⟨⟨hh, he⟩, hs, hl, hm, hb⟩ hd hp hout h2 hsec
    exact copyBlock_next hh he hs hl hm hb hd hp hout h2 hsec
  · rintro ⟨⟨⟨hh, he⟩, hs, hl, hm, hb⟩, hp, h2⟩ hr
    exact copyBlock_unread hh he hs hl hm hb hp h2 hr
  · intro hn
    rw [State.followRoom, hn]
  · intro hn
    rw [State.gathRow, hn]
  · intro hn
    rw [State.markRetire, hn]

end Sys2Proof.Machine
end
section
/-! Records that are posted (R56, R223, R240, R241, R245). -/

namespace Sys2Proof.Machine

/-! ### What an access leaves of the acting core -/

theorem RegsSame.trans {s t r : State} (a : RegsSame {} s t) (hs : t.curSeq = s.curSeq) (b : RegsSame {} t r) : RegsSame {} s r := by
  refine ⟨?_, fun i h => (b.sRegs i h).trans (a.sRegs i h), fun i h => (b.flags i h).trans (a.flags i h),
    fun i h => (b.vRegs i h).trans (a.vRegs i h), fun i h => (b.preds i h).trans (a.preds i h),
    fun i h => (b.mRegs i h).trans (a.mRegs i h)⟩
  have h := b.other
  rw [hs] at h
  exact h.trans a.other

namespace Accesses
variable {c : Option Nat} {s t : State}

theorem cc (a : Accesses c s t) : t.cc.apart = s.cc.apart := by
  rw [State.cc, a.cur]
  exact a.core _

/-- Of the acting core a part that accesses leave. -/
theorem part {α : Type} (P : Core → α) (hP : ∀ k, P k.apart = P k) (a : Accesses c s t) : P t.cc = P s.cc := by
  rw [← hP, a.cc, hP]

theorem seq (a : Accesses c s t) (i : SeqId) : t.cc.seq i = s.cc.seq i := a.part (fun k => k.seq i) fun _ => by cases i <;> rfl

theorem sq (a : Accesses c s t) : t.sq = s.sq := by
  rw [State.sq, a.seq, a.curSeq]
  rfl

theorem x (a : Accesses c s t) : t.cc.x = s.cc.x := a.part Core.x fun _ => rfl

theorem regs (a : Accesses c s t) : RegsSame {} s t := by
  refine ⟨a.seq _, fun r _ => ?_, fun r _ => ?_, fun r _ => ?_, fun r _ => ?_, fun r _ => ?_⟩
  · rw [State.rs, a.sq]; rfl
  · rw [State.rf, a.sq]; rfl
  · rw [State.rv, a.x]; rfl
  · rw [State.rp, a.x]; rfl
  · rw [a.part Core.m fun _ => rfl]

/-- The launch of a core is as before but for what it has consumed. -/
theorem launchOn (a : Accesses c s t) (d : Nat) : (t.launchOn d).apart = (s.launchOn d).apart := by
  have hl : (t.core d).launch = (s.core d).launch := (congrArg Core.launch (a.core d) :)
  have key (o : Option Launch) : (o.getD Launch.blank).apart = (o.map Launch.apart).getD Launch.blank := by cases o <;> rfl
  rw [State.launchOn, State.launchOn, key, key, hl]
  cases (s.core d).launch with
  | none => rfl
  | some id => exact congrArg (Option.getD · Launch.blank) (a.launch? id)

theorem lc (a : Accesses c s t) : t.lc.apart = s.lc.apart := by
  rw [State.lc, a.cur]
  exact a.launchOn _

end Accesses

/-- What a paired launch may not do, it has not done. -/
theorem State.pairedAfter_ok {α : Type} {s v : State} {p : Word} {a : Acc α} {x : α} (h : s.pairedAfter p a = .ok v x) :
    a = .ok v x := by
  unfold State.pairedAfter at h
  split at h
  · cases h
  · cases h
  · split at h
    · cases h
    · cases h; rfl

/-! ### Records -/

/-- A record that enters the device takes the next number. -/
theorem State.addLaunch_eq (s : State) (l : Launch) : s.addLaunch l =
    { s with nextId := s.nextId + 1, launches := s.launches ++ [{ l with id := s.nextId, cfg := s.cfgOf l.fn }] } := rfl

theorem portWrite_gives (s : State) (fn : Nat) (sup : Bool) (pcie : Nat) (r : Line) :
    if (s.fnRegs fn).stopped = true then s.portWrite fn sup pcie r = s
    else if 64 ≤ s.portUsed fn ∨ ∃ w ∈ s.portHeld, w.fn = fn then
      s.portWrite fn sup pcie r = { s with portHeld := s.portHeld ++ [⟨fn, sup, pcie, r⟩] }
    else s.portWrite fn sup pcie r = { s with nextId := s.nextId + 1, launches := (s.portWrite fn sup pcie r).launches } ∧
      ∃ l : Launch, (s.portWrite fn sup pcie r).launches = s.launches ++ [l] ∧
        l.id = s.nextId ∧ l.record = r ∧ l.fn = fn ∧ l.sup = sup ∧ l.leaf = pcie ∧ l.state = .port ∧ l.poster = none := by
  have hfull : (decide (portPlaces ≤ s.portUsed fn) || s.portHeld.any fun x => x.fn == fn) = true ↔
      64 ≤ s.portUsed fn ∨ ∃ w ∈ s.portHeld, w.fn = fn := by
    rw [Bool.or_eq_true]
    exact or_congr decide_eq_true_iff (by simp)
  unfold State.portWrite
  dsimp only
  split
  · rfl
  · by_cases h : 64 ≤ s.portUsed fn ∨ ∃ w ∈ s.portHeld, w.fn = fn
    · rw [if_pos h, if_pos (hfull.2 h)]
    · rw [if_neg h, if_neg fun hf => h (hfull.1 hf)]
      exact ⟨rfl, _, rfl, rfl, rfl, rfl, rfl, rfl, rfl, rfl⟩

theorem bf_low_six {p : Word} (h : p.toNat % 64 = 0) : bf p 5 0 = 0 := by
  simpa [bf, bitsOf] using h

theorem bf_high_seven {p : Word} (h : p.toNat < 2 ^ 57) : bf p 63 57 = 0 := by
  simp [bf, bitsOf]
  omega

theorem cpost_posts {c : Ctl} {a : Fin 32} {off : Word32} {s v : State} {got : Got} (h : Issues (.cpost c a off) c s)
    (h64 : (s.rs a + off.signExtend 64).toNat % 64 = 0) (hform : (s.rs a + off.signExtend 64).toNat < 2 ^ 57)
    (hperf : (s.startIssue c).allPerformed = true) (hheld : (s.startIssue c).posterHeld = false)
    (hread : (s.startIssue c).pairedAfter (s.rs a + off.signExtend 64)
      ((s.startIssue c).readGlobal ((s.startIssue c).mcur c) (s.rs a + off.signExtend 64) 64) = .ok v got) (hgot : got.bad = none) :
    ActsWide (s.startIssue c) (.cpost c a off) s (s.sq.pc + 16) fun t =>
      t.mem = v.mem ∧ t.sq.results = s.sq.results ∧ Silent (s.startIssue c) t ∧
      ∃ l : Launch, t.launches = v.launches ++ [l] ∧ l.record = lineOf got.bytes ∧ l.fn = s.lc.fn ∧ l.state = .port ∧
        l.poster = some (s.lc.id, s.cur.val) := by
  have hacc : Accesses (some (s.startIssue c).cur.val) (s.startIssue c) v := by
    have h := (s.startIssue c).readGlobal_accesses ((s.startIssue c).mcur c) (s.rs a + off.signExtend 64) 64
    rwa [State.pairedAfter_ok hread] at h
  have haddr : (s.startIssue c).addr a off = s.rs a + off.signExtend 64 := by rw [State.startIssue_addr]; rfl
  have h5 : ¬(bf (s.rs a + off.signExtend 64) 5 0 ≠ 0) := not_not.2 (bf_low_six h64)
  have h57 : ¬(bf (s.rs a + off.signExtend 64) 63 57 ≠ 0) := not_not.2 (bf_high_seven hform)
  rw [ActsWide, exec_cpost, execCpost]
  refine (gives_done (t := v.postRecord (lineOf got.bytes)) (sec := false) h ?_).imp fun t hr => ?_
  · simp only [haddr, if_neg h5, if_neg h57, hperf, hheld, Bool.not_true, Bool.or_self, Bool.false_eq_true, if_false, hread,
      Acc.eff, hgot]
  have hcores (d : Nat) : (v.postRecord (lineOf got.bytes)).core d = v.core d := rfl
  have hregs : RegsSame {} v t := ⟨hr.regs.other, hr.regs.sRegs, hr.regs.flags, hr.regs.vRegs, hr.regs.preds, hr.regs.mRegs⟩
  have hlc : v.lc.apart = s.lc.apart := hacc.lc.trans (by rw [State.startIssue_lc])
  have hpc := hr.pc
  rw [State.startIssue_pc] at hpc
  refine ⟨hr.outside.cur.trans hacc.cur, hr.outside.curSeq.trans hacc.curSeq, fun d hd => ?_, ?_, ?_,
    (hacc.regs.trans hacc.curSeq hregs).weaken _, hpc, ?_, ?_, ⟨?_, ?_⟩, ?_⟩
  · rw [hr.outside.cores d (by rw [show (v.postRecord (lineOf got.bytes)).cur = v.cur from rfl, hacc.cur]; exact hd), hcores]
    exact hacc.others d fun h => hd (Option.some.inj h).symm
  · exact hr.seq.trans (congrArg Seq.rest hacc.sq)
  · exact hr.unit.trans (congrArg XUnit.rest hacc.x)
  · rw [hr.outside.mem]; rfl
  · exact hr.results.trans ((congrArg Seq.results hacc.sq).trans (s.startIssue_results c))
  · rw [Raises, hr.vstat]
    exact (congrArg (fun x => x.settleAll.vstat) hacc.x).trans (BitVec.or_zero).symm
  · exact hr.gen.trans (congrArg XUnit.gen hacc.x)
  · refine ⟨_, hr.outside.launches, rfl, ?_, rfl, ?_⟩
    · exact (congrArg Launch.fn hlc :)
    · have hid : v.lc.id = s.lc.id := (congrArg Launch.id hlc :)
      have hcur : v.cur = s.cur := hacc.cur.trans (State.startIssue_cur s c)
      exact congrArg some (Prod.ext hid (congrArg Fin.val hcur))

/-- Settles O42: the port by whether it has a place, `CPOST` through what its read of the record leaves. -/
theorem recordPosted : Obligations.recordPosted := by
  intro f sup pcie r c a off s v got u p
  exact ⟨⟨_, exec_launchPortWrite f sup pcie r s, portWrite_gives s f.val sup pcie.val r⟩,
    fun h h64 hform hperf hheld hread hgot => cpost_posts h h64 hform hperf hheld hread hgot⟩

end Sys2Proof.Machine
end
section
/-! Steps that act on several cores in turn, what completes on a core, and lateral writes (R57, R60, R99, R100, R385). -/

namespace Sys2Proof.Machine

/-! ### Cores changed in turn -/

theorem State.modCore_modCore (s : State) (c : Nat) (f g : Core → Core) :
    (s.modCore c f).modCore c g = s.modCore c fun k => g (f k) := by
  by_cases hc : c < 384
  · have hcore := State.core_modCore s c c f hc
    rw [if_pos rfl] at hcore
    simp only [State.modCore, State.setCore, State.core] at hcore ⊢
    rw [hcore, vset_vset]
  · have hout (k : Core) (v : Vector Core 384) : vset v c k = v := by
      refine Vector.toArray_inj.1 ?_
      simp only [vset, ← Array.toList_inj]
      exact List.set_eq_of_length_le (by simpa using hc)
    simp only [State.modCore, State.setCore, hout]

theorem State.modCore_of_eq {s t : State} {c : Nat} {f : Core → Core} (h : t = s.modCore c f) (g : Core → Core) :
    t.modCore c g = s.modCore c fun k => g (f k) := by
  rw [h, State.modCore_modCore]

theorem State.modCore_self {s : State} {c : Nat} {f : Core → Core} (h : f (s.core c) = s.core c) : s.modCore c f = s := by
  rw [State.modCore, h]
  simp only [State.setCore, State.core, vset_vget]

theorem State.modCore_if (s : State) (c : Nat) (p : Core → Bool) (f : Core → Core) :
    (if p (s.core c) = true then s.modCore c f else s) = s.modCore c fun k => if p k = true then f k else k := by
  by_cases h : p (s.core c) = true
  · rw [if_pos h]
    exact congrArg (s.setCore c) (if_pos h).symm
  · rw [if_neg h]
    exact (State.modCore_self (if_neg h)).symm

section
variable {α : Type} {f : State → α → State} {key : α → Nat}

/-- A step that acts on its own core alone leaves the cores that no step of a list names. -/
theorem State.core_foldl_ne (hf : ∀ t a d, d ≠ key a → (f t a).core d = t.core d) {l : List α} {d : Nat} (hd : d ∉ l.map key) (s : State) :
    (l.foldl f s).core d = s.core d := by
  induction l generalizing s with
  | nil => rfl
  | cons a l ih =>
    rw [List.map_cons, List.mem_cons, not_or] at hd
    rw [List.foldl_cons, ih hd.2, hf _ _ _ hd.1]

/-- Steps that act each on its own core do to every core what they do to it alone. -/
theorem State.core_foldl_each (hf : ∀ t a d, d ≠ key a → (f t a).core d = t.core d) {R : α → Core → Core → Prop} {l : List α}
    (hR : ∀ t, ∀ a ∈ l, R a (t.core (key a)) ((f t a).core (key a))) (hn : (l.map key).Nodup) (s : State) :
    ∀ a ∈ l, R a (s.core (key a)) ((l.foldl f s).core (key a)) := by
  induction l generalizing s with
  | nil => simp
  | cons a l ih =>
    rw [List.map_cons, List.nodup_cons] at hn
    intro b hb
    rw [List.foldl_cons]
    rcases List.mem_cons.1 hb with rfl | hb
    · rw [State.core_foldl_ne hf hn.1]
      exact hR s _ (List.mem_cons_self ..)
    · have hne : key b ≠ key a := fun e => hn.1 (e ▸ List.mem_map_of_mem hb)
      rw [← hf s a (key b) hne]
      exact ih (fun t x hx => hR t x (List.mem_cons_of_mem _ hx)) hn.2 _ b hb

/-- What every step leaves of the device, the steps of a list leave. -/
theorem State.foldl_keeps {β : Type} (P : State → β) (hf : ∀ t a, P (f t a) = P t) (l : List α) (s : State) : P (l.foldl f s) = P s := by
  induction l generalizing s with
  | nil => rfl
  | cons a l ih => rw [List.foldl_cons, ih, hf]

end

/-- Steps that change each core of a list as one function of the core does, as far as the cores meet a condition. -/
theorem State.foldl_eq_modCores {f : State → Nat → State} {F : Core → Core} {ok : Core → Prop}
    (hf : ∀ t c, ok (t.core c) → f t c = t.modCore c F) (hF : ∀ k, ok k → ok (F k)) (l : List Nat) {s : State} (h : ∀ c ∈ l, ok (s.core c)) :
    l.foldl f s = s.modCores l F := by
  unfold State.modCores
  induction l generalizing s with
  | nil => rfl
  | cons a l ih =>
    rw [List.foldl_cons, List.foldl_cons, hf s a (h a (List.mem_cons_self ..))]
    refine ih fun c hc => ?_
    by_cases hca : c = a
    · subst hca
      by_cases h384 : c < 384
      · rw [State.core_modCore _ _ _ _ h384, if_pos rfl]
        exact hF _ (h c (List.mem_cons_self ..))
      · have hs := h c (List.mem_cons_self ..)
        rw [State.core_beyond _ (Nat.le_of_not_lt h384)] at hs ⊢
        exact hs
    · rw [State.core_modCore_ne _ _ hca]
      exact h c (List.mem_cons_of_mem _ hc)

/-- A change that done twice is done once reaches every core of a list once. -/
theorem State.core_modCores_once {f : Core → Core} (hf : ∀ k, f (f k) = f k) (s : State) {l : List Nat} {d : Nat} (hl : d ∈ l) (hd : d < 384) :
    (s.modCores l f).core d = f (s.core d) := by
  have key : ∀ (l : List Nat) (s : State), (s.modCores l f).core d = f (s.core d) ∨ d ∉ l := by
    intro l
    unfold State.modCores
    induction l with
    | nil => exact fun s => .inr (by simp)
    | cons a l ih =>
      intro s
      rw [List.foldl_cons]
      have hcore := State.core_modCore_ne s (c := a) (d := d) f
      by_cases hda : d = a
      · subst hda
        left
        rcases ih (s.modCore d f) with h | h
        · rw [h, State.core_modCore _ _ _ _ hd, if_pos rfl, hf]
        · have := State.core_modCores_ne (s.modCore d f) (f := f) h
          rw [State.modCores] at this
          rw [this, State.core_modCore _ _ _ _ hd, if_pos rfl]
      · rcases ih (s.modCore a f) with h | h
        · left
          rw [h, hcore hda]
        · exact .inr (by simp [hda, h])
  exact (key l s).resolve_right (not_not.2 hl)

/-! ### A collective retires on a sequencer -/

/-- The sequencer's own step when an instruction that another step completes retires. -/
def Seq.retired (q : Seq) : Seq := { q with wait := none, stall := none, resumed := false, pc := q.pc + 16 }

/-- What `State.retireHeld` does to its core. -/
def Core.retireHeld (q : SeqId) (k : Core) : Core :=
  let issued := ((k.seq q).wait.map Wait.issued).getD true
  let k := if issued then k else
    match q with
    | .as => k.countEv 1 1
    | .xs => ((k.setCount (k.count + 1)).modX (XUnit.pass 1)).countEv 2 1
  k.modSeq q Seq.retired

theorem State.retireHeld_eq (s : State) (c : Nat) (q : SeqId) : s.retireHeld c q = s.modCore c (Core.retireHeld q) := rfl

section
variable (q : SeqId) (k : Core)

/-- The core before the sequencer's own step: events are counted and an issue slot goes by. -/
def Core.countedFor : Core :=
  if ((k.seq q).wait.map Wait.issued).getD true then k
  else match q with
    | .as => k.countEv 1 1
    | .xs => ((k.setCount (k.count + 1)).modX (XUnit.pass 1)).countEv 2 1

theorem Core.retireHeld_countedFor : k.retireHeld q = (k.countedFor q).modSeq q Seq.retired := rfl

@[simp] theorem Core.seq_countedFor (i : SeqId) : (k.countedFor q).seq i = k.seq i := by
  unfold Core.countedFor
  split
  · rfl
  · cases q
    · exact Core.seq_countEv ..
    · exact (Core.seq_countEv ..).trans (by cases i <;> rfl)

@[simp] theorem Core.rest_countedFor : (k.countedFor q).rest = k.rest := by
  unfold Core.countedFor
  split
  · rfl
  · cases q
    · exact Core.rest_countEv ..
    · exact (Core.rest_countEv ..).trans rfl

theorem Core.regs_countedFor : (k.countedFor q).x.v = k.x.v ∧ (k.countedFor q).x.p = k.x.p := by
  unfold Core.countedFor
  split
  · exact ⟨rfl, rfl⟩
  · cases q
    · simp
    · simp only [Core.x_countEv, Core.setCount, Core.modX]
      split <;> exact ⟨rfl, rfl⟩

theorem Core.seq_retireHeld : (k.retireHeld q).seq q = (k.seq q).retired := by
  rw [Core.retireHeld_countedFor, Core.seq_modSeq, Core.seq_countedFor]

theorem Core.seq_retireHeld_other : (k.retireHeld q).seq (SeqId.other q) = k.seq (SeqId.other q) := by
  rw [Core.retireHeld_countedFor, Core.seq_modSeq_other, Core.seq_countedFor]

@[simp] theorem Core.rest_retireHeld : (k.retireHeld q).rest = k.rest := by
  rw [Core.retireHeld_countedFor, Core.rest_modSeq, Core.rest_countedFor]

theorem Core.rv_retireHeld (r : Fin 32) : (k.retireHeld q).x.rv r = k.x.rv r := by
  rw [Core.retireHeld_countedFor, Core.modSeq_x, XUnit.rv, (Core.regs_countedFor q k).1, XUnit.rv]

theorem Core.rp_retireHeld (r : Fin 16) : (k.retireHeld q).x.rp r = k.x.rp r := by
  rw [Core.retireHeld_countedFor, Core.modSeq_x, XUnit.rp, (Core.regs_countedFor q k).2, XUnit.rp]

end

/-! ### Lateral writes -/

/-- A core whose vault a parcel has entered, with the rows that it adds to the landing buffer: it wakes. -/
def Core.landed (owner : BitVec 8) (off : Nat) (p : Parcel) (rows : List LandRow) (k : Core) : Core :=
  let v := (k.vault.write owner off p.bytes p.sec).poisonBy off p.bad
  { k with vault := { v with landing := v.landing ++ rows }, as := k.as.wake, xs := k.xs.wake }

/-- A lateral write enters the landing buffer where it finds room. -/
theorem State.land_eq (s : State) (owner : BitVec 8) (c off : Nat) (p : Parcel) : s.land owner c off p =
    if (s.vault c).landing.length + ((s.vault c).newRows off p.bytes.length).length ≤ 256 then
      some (s.modCore c (Core.landed owner off p ((s.vault c).newRows off p.bytes.length)))
    else none := by
  simp only [State.land, landingRows, State.putParcel, State.modVault, State.wake, State.modCore_modCore, ← Nat.not_le, ite_not]
  rfl

theorem Vault.alike_poison (v : Vault) (off n : Nat) : v.Alike (v.poison off n) := ⟨rfl, rfl, rfl, rfl, rfl⟩

theorem Vault.alike_poisonBy (v : Vault) (off : Nat) (bs : List Bool) : v.Alike (v.poisonBy off bs) := by
  induction bs generalizing v off with
  | nil => exact .refl v
  | cons b bs ih =>
    rw [Vault.poisonBy]
    split
    · exact (v.alike_poison off 1).trans (ih _ _)
    · exact ih _ _

theorem Core.landed_writes (owner : BitVec 8) (off : Nat) (p : Parcel) (rows : List LandRow) (k : Core) :
    VaultWrites owner off p.bytes k.vault (k.landed owner off p rows).vault :=
  ((Vault.write_writes owner off p.bytes p.sec k.vault).alike_right (Vault.alike_poisonBy _ off p.bad)).alike_right ⟨rfl, rfl, rfl, rfl, rfl⟩

theorem Seq.wake_of_not_until {q : Seq} (h : ∀ d, q.wait ≠ some (.until d)) : q.wake = q := by
  unfold Seq.wake
  split
  · next d hd => exact absurd hd (h d)
  · rfl

end Sys2Proof.Machine
end
section
/-! Barriers, `WAITI`, phases and exchange steps as they complete (R57, R60, R173, R385, R387). -/

namespace Sys2Proof.Machine

/-! ### Delays counted from the last arrival -/

theorem foldl_max_le_iff {l : List Nat} {b m : Nat} : l.foldl max b ≤ m ↔ b ≤ m ∧ ∀ x ∈ l, x ≤ m := by
  induction l generalizing b with
  | nil => simp
  | cons a l ih => simp [ih, and_assoc]

/-- A delay after the last of some arrivals has passed when it has passed after each. -/
theorem delay_passed_iff {α : Type} {l : List α} {f : α → Nat} {x : α} (hx : x ∈ l) (d m : Nat) :
    (l.map f).foldl max 0 + d ≤ m ↔ ∀ y ∈ l, f y + d ≤ m := by
  constructor
  · intro h y hy
    have := (foldl_max_le_iff (m := m - d)).1 (by omega : (l.map f).foldl max 0 ≤ m - d) |>.2 (f y) (List.mem_map_of_mem hy)
    omega
  · intro h
    have hd : d ≤ m := by have := h x hx; omega
    have : (l.map f).foldl max 0 ≤ m - d := foldl_max_le_iff.2 ⟨Nat.zero_le _, fun y hy => by
      obtain ⟨z, hz, rfl⟩ := List.mem_map.1 hy
      have := h z hz
      omega⟩
    omega

/-! ### Barriers -/

/-- A core's barrier instructions retire. -/
def Core.barRetired (k : Core) : Core :=
  let k := if k.as.atBar then k.retireHeld .as else k
  if k.xs.atBar then k.retireHeld .xs else k

theorem State.barRetire_eq (s : State) (c : Nat) : s.barRetire c = s.modCore c Core.barRetired := by
  have h1 := State.modCore_if s c (fun k => k.as.atBar) (Core.retireHeld .as)
  have h2 (t : State) := State.modCore_if t c (fun k => k.xs.atBar) (Core.retireHeld .xs)
  exact (h2 _).trans (State.modCore_of_eq h1 _)

theorem Seq.atBar_of_wait {q : Seq} (h : q.wait = none) : q.atBar = false := by rw [Seq.atBar, h]

theorem Core.seq_barRetired (k : Core) (r : SeqId) : k.barRetired.seq r =
    if (k.seq r).atBar = true then (k.seq r).retired else k.seq r := by
  have hx (k : Core) : (k.retireHeld .as).xs = k.xs := Core.seq_retireHeld_other .as k
  have ha (k : Core) : (k.retireHeld .xs).as = k.as := Core.seq_retireHeld_other .xs k
  have hx' (k : Core) : (k.retireHeld .xs).xs = k.xs.retired := Core.seq_retireHeld .xs k
  have ha' (k : Core) : (k.retireHeld .as).as = k.as.retired := Core.seq_retireHeld .as k
  unfold Core.barRetired
  cases r
  · change Core.as _ = if k.as.atBar = true then k.as.retired else k.as
    simp only [apply_ite Core.as, apply_ite Core.xs, ha, hx, ha', ite_self]
  · change Core.xs _ = if k.xs.atBar = true then k.xs.retired else k.xs
    simp only [apply_ite Core.xs, hx, hx', ite_self]

theorem Core.barRetired_barRetired (k : Core) : k.barRetired.barRetired = k.barRetired := by
  have h (r : SeqId) : (k.barRetired.seq r).atBar = false := by
    rw [Core.seq_barRetired]
    split
    · exact Seq.atBar_of_wait rfl
    · next h => simpa using h
  have ha : k.barRetired.as.atBar = false := h .as
  have hx : k.barRetired.xs.atBar = false := h .xs
  conv_lhs => rw [Core.barRetired]
  simp only [ha, hx, Bool.false_eq_true, if_false]

theorem State.barReady_iff {s : State} {g : List Nat} {c : Nat} (hc : c ∈ g) (w h : BitVec 3) : s.barReady g w h = true ↔
    ∀ e ∈ g, (∃ a, (s.core e).barArrival w h = some a ∧ a + 40 + 2 * (2 ^ w.toNat + 2 ^ h.toNat) ≤ s.cycle) ∧ s.coreQuiet e = true := by
  simp only [State.barReady, Bool.and_eq_true, List.all_eq_true, decide_eq_true_eq, List.map_map, Nat.add_assoc]
  rw [delay_passed_iff hc]
  constructor
  · rintro ⟨⟨ha, hq⟩, hd⟩ e he
    obtain ⟨a, hea⟩ := Option.isSome_iff_exists.1 (ha _ (List.mem_map_of_mem he))
    refine ⟨⟨a, hea, ?_⟩, hq e he⟩
    simpa [hea] using hd e he
  · intro hall
    refine ⟨⟨fun x hx => ?_, fun e he => (hall e he).2⟩, fun e he => ?_⟩
    · obtain ⟨e, he, rfl⟩ := List.mem_map.1 hx
      obtain ⟨⟨a, hea, -⟩, -⟩ := hall e he
      exact Option.isSome_iff_exists.2 ⟨a, hea⟩
    · obtain ⟨⟨a, hea, hd⟩, -⟩ := hall e he
      simpa [hea] using hd

theorem barrierComplete_gives {s : State} {c : Nat} {w h : BitVec 3} (hw : (s.core c).barShape = some (w, h))
    (hc : c ∈ s.groupCores c (2 ^ w.toNat, 2 ^ h.toNat)) :
    let g := s.groupCores c (2 ^ w.toNat, 2 ^ h.toNat)
    let arrived (e : Nat) : Prop := ∃ a, (s.core e).barArrival w h = some a ∧ a + 40 + 2 * (2 ^ w.toNat + 2 ^ h.toNat) ≤ s.cycle
    ((∀ e ∈ g, arrived e ∧ s.coreQuiet e = true) → (s.barrierComplete c).mem = s.mem ∧ ∀ e ∈ g, e < 384 → ∀ r,
      ((s.core e).seq r).atBar = true → (((s.barrierComplete c).core e).seq r).pc = ((s.core e).seq r).pc + 16 ∧
        (((s.barrierComplete c).core e).seq r).wait = none) ∧
    ((∃ e ∈ g, ¬(arrived e ∧ s.coreQuiet e = true)) → s.barrierComplete c = s) := by
  intro g arrived
  have heq : s.barrierComplete c = if s.barReady g w h then g.foldl State.barRetire s else s := by
    rw [State.barrierComplete, hw]
  constructor
  · intro hall
    rw [heq, if_pos ((State.barReady_iff hc w h).2 hall),
      State.foldl_eq_modCores (ok := fun _ => True) (fun t c _ => t.barRetire_eq c) (fun _ _ => trivial) g (fun _ _ => trivial)]
    refine ⟨State.modCores_mem .., fun e he h384 r hr => ?_⟩
    rw [State.core_modCores_once Core.barRetired_barRetired s he h384, Core.seq_barRetired, if_pos hr]
    exact ⟨rfl, rfl⟩
  · rintro ⟨e, he, hne⟩
    rw [heq, if_neg fun hr => hne ((State.barReady_iff hc w h).1 hr e he)]

/-! ### `WAITI` -/

theorem waitiDeadline_gives {s : State} {c : CoreId} {q : SeqId} {d : Word} (hw : ((s.core c.val).seq q).wait = some (.until d)) :
    Gives (exec (.waitiDeadline c q) s) fun t =>
      (d.toNat ≤ s.timebase.toNat → ((t.core c.val).seq q).pc = ((s.core c.val).seq q).pc + 16 ∧ ((t.core c.val).seq q).wait = none) ∧
      (s.timebase.toNat < d.toNat → t = s) := by
  have hdue : s.waitiDue c.val q = decide (d.toNat ≤ s.timebase.toNat) := by rw [State.waitiDue, hw]
  refine ⟨_, exec_waitiDeadline c q s, fun hd => ?_, fun hd => ?_⟩
  · rw [hdue, if_pos (by simpa using hd), State.retireHeld_eq, State.core_modCore_same, Core.seq_retireHeld]
    exact ⟨rfl, rfl⟩
  · rw [hdue, if_neg (by simpa using hd)]

/-! ### Phases -/

/-- A waiting `PHASE` retires, once the results of both sequencers are in. -/
def Core.phaseRetired (k : Core) : Core :=
  let k := { k with as := k.as.flush, xs := k.xs.flush }
  let k := if k.as.phaseAt.isSome then k.retireHeld .as else k
  if k.xs.phaseAt.isSome then k.retireHeld .xs else k

theorem State.phaseRetire_eq (s : State) (c : Nat) : s.phaseRetire c = s.modCore c Core.phaseRetired := by
  have h1 (t : State) := State.modCore_if t c (fun k => k.as.phaseAt.isSome) (Core.retireHeld .as)
  have h2 (t : State) := State.modCore_if t c (fun k => k.xs.phaseAt.isSome) (Core.retireHeld .xs)
  exact (h2 _).trans (State.modCore_of_eq ((h1 _).trans (State.modCore_modCore ..)) _)

theorem Seq.landResult_keeps (q : Seq) (r : Result) : (q.landResult r).pc = q.pc ∧ (q.landResult r).wait = q.wait := by
  unfold Seq.landResult
  split
  · exact ⟨rfl, rfl⟩
  · dsimp only
    unfold Seq.ws
    split <;> exact ⟨rfl, rfl⟩

theorem Seq.flush_keeps (q : Seq) : q.flush.pc = q.pc ∧ q.flush.wait = q.wait := by
  have h (rs : List Result) (q : Seq) : (rs.foldl Seq.landResult q).pc = q.pc ∧ (rs.foldl Seq.landResult q).wait = q.wait := by
    induction rs generalizing q with
    | nil => exact ⟨rfl, rfl⟩
    | cons r rs ih =>
      rw [List.foldl_cons, (ih _).1, (ih _).2]
      exact Seq.landResult_keeps q r
  exact h q.results q

theorem Core.seq_phaseRetired (k : Core) (r : SeqId) (h : (k.seq r).phaseAt ≠ none) : k.phaseRetired.seq r = (k.seq r).flush.retired := by
  have hx (k : Core) : (k.retireHeld .as).xs = k.xs := Core.seq_retireHeld_other .as k
  have ha (k : Core) : (k.retireHeld .xs).as = k.as := Core.seq_retireHeld_other .xs k
  have hx' (k : Core) : (k.retireHeld .xs).xs = k.xs.retired := Core.seq_retireHeld .xs k
  have ha' (k : Core) : (k.retireHeld .as).as = k.as.retired := Core.seq_retireHeld .as k
  have hf (q : Seq) : q.flush.phaseAt = q.phaseAt := by rw [Seq.phaseAt, q.flush_keeps.2, Seq.phaseAt]
  rw [← Option.isSome_iff_ne_none] at h
  unfold Core.phaseRetired
  cases r
  · replace h : k.as.phaseAt.isSome = true := h
    change Core.as _ = k.as.flush.retired
    simp only [apply_ite Core.as, ha, ha', ite_self, hf, h, if_true]
  · replace h : k.xs.phaseAt.isSome = true := h
    change Core.xs _ = k.xs.flush.retired
    simp only [apply_ite Core.xs, hx, hx', ite_self, hf, h, if_true]

theorem Core.rest_phaseRetired (k : Core) : k.phaseRetired.rest = k.rest := by
  unfold Core.phaseRetired
  simp only [apply_ite Core.rest, Core.rest_retireHeld, ite_self]
  rfl

theorem Core.tile_swapPair (k : Core) {tf tb : Fin 32} (h : tf ≠ tb) :
    (k.swapPair tf tb).tile tf = ⟨.ready, (k.tile tb).size, (k.tile tb).off⟩ ∧
    (k.swapPair tf tb).tile tb = ⟨.empty, (k.tile tf).size, (k.tile tf).off⟩ := by
  have hne : tb.val ≠ tf.val := fun e => h (Fin.ext e.symm)
  exact ⟨(vget_vset_ne _ _ _ _ _ hne).trans (vget_vset_same _ _ _ _ tf.isLt), vget_vset_same _ _ _ _ tb.isLt⟩

/-- What a phase boundary leaves of its core once the `PHASE`s have retired: the pair is swapped and the phase begins. -/
def Core.phaseBegun (tf tb : Fin 32) (k : Core) : Core :=
  let inC := (SMap.find? k.filledC tb.val).getD []
  let inG := (SMap.find? k.filledG tb.val).getD []
  let k := k.swapPair tf tb
  { k with
    phase := some ⟨tf, tb, SeqCheck.of k.as, SeqCheck.of k.xs, k.x.p, k.x.pSec, inC, inG, 0, k.ticket⟩
    filledC := SMap.insert (SMap.erase k.filledC tb.val) tf.val inC
    filledG := SMap.insert (SMap.erase k.filledG tb.val) tf.val inG }

theorem Core.phaseBegun_parts (tf tb : Fin 32) (k : Core) : (k.phaseBegun tf tb).tiles = (k.swapPair tf tb).tiles ∧
    (∀ r, (k.phaseBegun tf tb).seq r = k.seq r) ∧ ∃ x : Phase, (k.phaseBegun tf tb).phase = some x ∧ x.tf = tf ∧ x.tb = tb := by
  refine ⟨rfl, fun r => ?_, _, rfl, rfl, rfl⟩
  cases r <;> rfl

theorem State.phaseBoundary_eq {s : State} {c : Nat} {tf tb : Fin 32} (h : (s.core c).phaseArrived = some (tf, tb))
    (hr : s.boundaryReady c tf tb = true) (hq : (s.core c).fullQueue = none) :
    s.phaseBoundary c = (s.phaseRetire c).modCore c (Core.phaseBegun tf tb) := by
  simp only [State.phaseBoundary, h, hr, hq, Bool.not_true, Bool.false_eq_true, if_false]
  rfl

theorem phaseBoundary_gives {s : State} {c : CoreId} {tf tb : Fin 32} :
    let t := s.phaseBoundary c.val
    let k := s.core c.val
    (k.phaseArrived = none → t = s) ∧
    (k.phaseArrived = some (tf, tb) → s.boundaryReady c.val tf tb = false → t = s) ∧
    (k.phaseArrived = some (tf, tb) → s.boundaryReady c.val tf tb = true → k.fullQueue = none → tf ≠ tb →
      (t.core c.val).tile tf = ⟨.ready, (k.tile tb).size, (k.tile tb).off⟩ ∧
      (t.core c.val).tile tb = ⟨.empty, (k.tile tf).size, (k.tile tf).off⟩ ∧
      (∀ r, (k.seq r).phaseAt ≠ none → ((t.core c.val).seq r).pc = (k.seq r).pc + 16 ∧ ((t.core c.val).seq r).wait = none) ∧
      ∃ x : Phase, (t.core c.val).phase = some x ∧ x.tf = tf ∧ x.tb = tb) := by
  intro t k
  refine ⟨fun h => ?_, fun h hr => ?_, fun h hr hq hne => ?_⟩
  · simp only [t, State.phaseBoundary, show (s.core c.val).phaseArrived = none from h]
  · simp only [t, State.phaseBoundary, show (s.core c.val).phaseArrived = some (tf, tb) from h, hr, Bool.not_false, if_true]
  · have ht (r : Fin 32) : k.phaseRetired.tile r = k.tile r := by
      have htiles : k.phaseRetired.tiles = k.tiles := (congrArg Core.tiles k.rest_phaseRetired :)
      rw [Core.tile, htiles, Core.tile]
    have hcore : t.core c.val = k.phaseRetired.phaseBegun tf tb := by
      simp only [t, State.phaseBoundary_eq h hr hq, State.phaseRetire_eq, State.core_modCore_same, k]
    obtain ⟨htiles, hseq, hphase⟩ := Core.phaseBegun_parts tf tb k.phaseRetired
    rw [hcore]
    obtain ⟨h1, h2⟩ := Core.tile_swapPair k.phaseRetired hne
    rw [ht] at h1 h2
    refine ⟨?_, ?_, fun r hr => ?_, hphase⟩
    · rw [← h1, Core.tile, htiles, Core.tile]
    · rw [← h2, Core.tile, htiles, Core.tile]
    · rw [hseq, Core.seq_phaseRetired k r hr]
      exact ⟨congrArg (· + 16) (Seq.flush_keeps _).1, rfl⟩

/-! ### Exchange steps -/

/-- A core that an exchange step starts on: its beats are those of its schedule, which has been read. -/
def Core.stepped (bs : List Beat) (k : Core) : Core :=
  { k with beats := bs, beatLost := false, vault := k.vault.correct (bf k.xbase 20 0) (16 * k.nent) }

section
variable {s : State} {id : Nat} {l : Launch} {c : Nat}

theorem exchangeStepStart_gives (hl : s.launch? id = some l) (hrun : l.state = .running) (hi : l.image = none) (hst : l.step = none)
    (hall : ∀ e ∈ l.allCores, s.coreQuiet e = true ∧ ∃ a, (s.core e).xchAt = some a ∧ a + 40 + 2 * (l.wid + l.hgt) ≤ s.cycle)
    (hne : l.allCores ≠ []) (hlen : ∀ e ∈ l.allCores, (s.core e).stepLen = (s.core (l.coreOf false 0)).stepLen) :
    (s.stepStart id).launch? id = some { l with step := some (s.cycle, (s.core (l.coreOf false 0)).stepLen) } ∧
      ∀ e ∈ l.allCores, e < 384 → ((s.stepStart id).core e).beats = s.beatsOf e := by
  obtain ⟨x, hx⟩ := List.exists_mem_of_ne_nil _ hne
  have hsome : ((l.allCores.map fun c => (s.core c).xchAt).all Option.isSome) = true := by
    simp only [List.all_map, List.all_eq_true]
    intro e he
    obtain ⟨-, a, ha, -⟩ := hall e he
    exact Option.isSome_iff_exists.2 ⟨a, ha⟩
  have hquiet : l.allCores.all s.coreQuiet = true := List.all_eq_true.2 fun e he => (hall e he).1
  have hdelay : ((l.allCores.map fun c => (s.core c).xchAt).map fun a => a.getD 0).foldl max 0 + 40 + 2 * (l.wid + l.hgt) ≤ s.cycle := by
    rw [List.map_map, Nat.add_assoc]
    refine (delay_passed_iff hx _ _).2 fun e he => ?_
    obtain ⟨-, a, ha, hd⟩ := hall e he
    simpa [ha, Nat.add_assoc] using hd
  have hsame : (l.allCores.any fun c => (s.core c).stepLen != (s.core (l.coreOf false 0)).stepLen) = false := by
    simpa using hlen
  have heq : s.stepStart id = (l.allCores.foldl (fun t c => t.modCore c (Core.stepped (s.beatsOf c))) s).modLaunch id fun y =>
        { y with step := some (s.cycle, (s.core (l.coreOf false 0)).stepLen) } := by
    unfold State.stepStart
    rw [hl]
    dsimp only
    rw [if_neg ?_, if_neg ?_]
    · rfl
    · rw [hsame]
      exact Bool.false_ne_true
    · simp only [hrun, hi, hst, hsome, hquiet, Nat.not_lt.2 hdelay, decide_false, Option.isSome_none, Bool.not_true, Bool.or_false, beq_self_eq_true,
        Bool.false_eq_true, not_false_eq_true]
  have hfold : ∀ (cs : List Nat) (t : State), (∀ e, e < 384 → (e ∈ cs ∨ (t.core e).beats = s.beatsOf e) →
      ((cs.foldl (fun t c => t.modCore c (Core.stepped (s.beatsOf c))) t).core e).beats = s.beatsOf e) := by
    intro cs
    induction cs with
    | nil => exact fun t e _ h => h.resolve_left (by simp)
    | cons c cs ih =>
      intro t e h384 h
      refine ih _ e h384 ?_
      by_cases hec : e = c
      · subst hec
        right
        rw [State.core_modCore _ _ _ _ h384, if_pos rfl]
        rfl
      · rw [State.core_modCore_ne _ _ hec]
        exact h.imp (fun hm => (List.mem_cons.1 hm).resolve_left hec) fun h => h
  have hlaunches := State.foldl_keeps State.launches (f := fun t c => t.modCore c (Core.stepped (s.beatsOf c))) (fun _ _ => rfl) l.allCores s
  constructor
  · rw [heq, State.launch?_modLaunch _ _ (by exact fun _ => rfl), State.launch?_congr hlaunches, hl]
    rfl
  · intro e he h384
    rw [heq]
    exact hfold l.allCores s e h384 (.inl he)

/-! ### Beats -/

theorem exchangeBeat_idle (h : (s.launchOn c).step = none ∨ (s.core c).beats = []) : s.exchangeBeat c = s := by
  unfold State.exchangeBeat
  dsimp only
  rcases h with h | h
  · rw [h]
  · have hb : nextBeat (s.core c).beats = none := by rw [h]; rfl
    rw [hb]
    split
    · next h => cases h
    · rfl

/-- A beat is written where the landing buffer has room; a full buffer loses it. -/
theorem beatWrite_gives (u : State) (o : BitVec 8) {b : Beat} (p : Parcel) (h : b.dstCore < 384) :
    if (u.vault b.dstCore).landing.length + ((u.vault b.dstCore).newRows b.dst p.bytes.length).length ≤ 256 then
      VaultWrites o b.dst p.bytes (u.vault b.dstCore) ((u.beatWrite o b p).vault b.dstCore)
    else ((u.beatWrite o b p).core b.dstCore).beatLost = true ∧ (u.beatWrite o b p).vault b.dstCore = u.vault b.dstCore := by
  rw [State.beatWrite, State.land_eq]
  split
  · dsimp only [State.vault]
    rw [State.core_modCore _ _ _ _ h, if_pos rfl]
    exact Core.landed_writes _ _ _ _ _
  · dsimp only [State.vault]
    rw [State.core_modCore _ _ _ _ h, if_pos rfl]
    exact ⟨rfl, rfl⟩

theorem exchangeBeat_gives {c : CoreId} {st : Nat × Nat} {b : Beat} {p : Parcel} (hs : (s.launchOn c.val).step = some st)
    (hb : nextBeat (s.core c.val).beats = some b) :
    let t := s.exchangeBeat c.val
    let l := s.launchOn c.val
    let k := s.core c.val
    let first : Prop := ∀ e ∈ l.allCores, ∀ y ∈ (s.core e).beats, b.next ≤ y.next
    (s.cycle < st.1 + b.next ∨ ¬first → t = s) ∧
    (st.1 + b.next ≤ s.cycle → first →
      (b.data = none → t.mem = s.mem ∧ (t.core c.val).vault = k.vault.correct b.src 64 ∧
        (t.core c.val).beats = modFirst (fun x => x == b) (fun _ => { b with data := some (s.parcel l.owner c.val b.src 64) }) k.beats) ∧
      (b.data = some p → b.dstCore < 384 →
        if (s.vault b.dstCore).landing.length + ((s.vault b.dstCore).newRows b.dst p.bytes.length).length ≤ 256 then
          VaultWrites l.owner b.dst p.bytes (s.vault b.dstCore) (t.vault b.dstCore)
        else (t.core b.dstCore).beatLost = true ∧ (t.vault b.dstCore) = s.vault b.dstCore)) := by
  intro t l k first
  have hgo : (s.cycle < st.1 + b.next || l.allCores.any fun k => (s.core k).beats.any fun x => decide (x.next < b.next)) = false ↔
      st.1 + b.next ≤ s.cycle ∧ first := by
    simp only [Bool.or_eq_false_iff, decide_eq_false_iff_not, Nat.not_lt, List.any_eq_false, Bool.not_eq_true, first]
  have heq : t = if (s.cycle < st.1 + b.next || l.allCores.any fun k => (s.core k).beats.any fun x => decide (x.next < b.next)) = true then s
      else match b.data with
        | none => (s.modVault c.val fun v => v.correct b.src 64).modCore c.val fun k => { k with
            beats := modFirst (fun x => x == b) (fun _ => { b with data := some (s.parcel l.owner c.val b.src 64) }) k.beats }
        | some p => (s.modCore c.val fun k => { k with beats := dropFirst (fun x => x == b) k.beats }).beatWrite l.owner b p := by
    simp only [t, State.exchangeBeat, hs, hb]
    rfl
  refine ⟨fun h => ?_, fun hd hf => ?_⟩
  · rw [heq, if_pos]
    by_contra hno
    obtain ⟨hd, hf⟩ := hgo.1 (by simpa using hno)
    exact h.elim (fun h => absurd hd (by omega)) (absurd hf)
  · rw [hgo.2 ⟨hd, hf⟩, if_neg Bool.false_ne_true] at heq
    refine ⟨fun hn => ?_, fun hp h384 => ?_⟩
    · simp only [hn, State.modVault, State.modCore_modCore] at heq
      rw [heq, State.core_modCore_same]
      exact ⟨rfl, rfl, rfl⟩
    · have hv : (s.modCore c.val fun k => { k with beats := dropFirst (fun x => x == b) k.beats }).vault b.dstCore = s.vault b.dstCore :=
        State.core_modCore_keeps Core.vault s c.val rfl b.dstCore
      have hw := beatWrite_gives (s.modCore c.val fun k => { k with beats := dropFirst (fun x => x == b) k.beats }) l.owner p h384
      rw [hp] at heq
      dsimp only at heq
      rw [hv, ← heq] at hw
      exact hw

/-! ### The end of an exchange step -/

/-- `XCH` retires on a core that waits at it. -/
def Core.xchRetired (k : Core) : Core := if k.xchAt.isSome = true then k.retireHeld .as else k

theorem State.xchRetire_eq (t : State) (c : Nat) (h : (t.core c).beatLost = false) : t.xchRetire c = t.modCore c Core.xchRetired := by
  refine Eq.trans ?_ (State.modCore_if t c (fun k => k.xchAt.isSome) (Core.retireHeld .as))
  unfold State.xchRetire
  rw [h]
  cases hx : (t.core c).xchAt <;> simp [State.retireHeld_eq]

theorem Core.beatLost_xchRetired (k : Core) : k.xchRetired.beatLost = k.beatLost := by
  unfold Core.xchRetired
  split
  · exact (congrArg Core.beatLost (Core.rest_retireHeld .as k) :)
  · rfl

theorem Core.as_xchRetired (k : Core) : k.xchRetired.as = if k.xchAt.isSome = true then k.as.retired else k.as := by
  unfold Core.xchRetired
  rw [apply_ite Core.as]
  exact if_congr Iff.rfl (Core.seq_retireHeld .as k) rfl

theorem Core.xchRetired_xchRetired (k : Core) : k.xchRetired.xchRetired = k.xchRetired := by
  have h : k.xchRetired.xchAt = none := by
    by_cases h : k.xchAt.isSome = true
    · rw [Core.xchAt, Core.as_xchRetired, if_pos h]
      rfl
    · rw [Core.xchRetired, if_neg h]
      exact Option.not_isSome_iff_eq_none.1 h
  conv_lhs => rw [Core.xchRetired, h]
  rfl

theorem exchangeStepEnd_gives {st : Nat × Nat} (hl : s.launch? id = some l) (hs : l.step = some st) :
    (s.cycle < st.1 + st.2 → s.stepEnd id = s) ∧
    (l.image = none → st.1 + st.2 ≤ s.cycle → (∀ e ∈ l.allCores, (s.core e).beats = [] ∧ (s.core e).beatLost = false) →
      (s.stepEnd id).launch? id = some { l with step := none } ∧ ∀ e ∈ l.allCores, e < 384 → (s.core e).xchAt ≠ none →
        (((s.stepEnd id).core e).seq .as).pc = ((s.core e).seq .as).pc + 16 ∧ (((s.stepEnd id).core e).seq .as).wait = none) := by
  refine ⟨fun h => ?_, fun hi hd hall => ?_⟩
  · simp only [State.stepEnd, hl, hs, h, decide_true, Bool.or_true, Bool.true_or, if_true]
  · have hbeats : (l.allCores.all fun c => (s.core c).beats.isEmpty) = true := by
      simp only [List.all_eq_true, List.isEmpty_iff]
      exact fun e he => (hall e he).1
    have heq : s.stepEnd id = (s.modLaunch id fun y => { y with step := none }).modCores l.allCores Core.xchRetired := by
      have hfold := State.foldl_eq_modCores (ok := fun k => k.beatLost = false) (f := State.xchRetire) State.xchRetire_eq
        (fun k hk => (Core.beatLost_xchRetired k).trans hk) l.allCores (s := s.modLaunch id fun y => { y with step := none })
        (fun e he => (hall e he).2)
      rw [← hfold]
      simp only [State.stepEnd, hl, hs, hi, Nat.not_lt.2 hd, hbeats, decide_false, Option.isSome_none, Bool.not_true, Bool.or_self,
        Bool.false_eq_true, if_false]
    rw [heq]
    refine ⟨?_, fun e he h384 hx => ?_⟩
    · rw [State.launch?_congr (State.modCores_launches ..), State.launch?_modLaunch _ _ (by exact fun _ => rfl), hl]
      rfl
    · rw [State.core_modCores_once Core.xchRetired_xchRetired _ he h384]
      have has : ((s.core e).xchRetired.seq .as) = (s.core e).as.retired :=
        (Core.as_xchRetired _).trans (if_pos (Option.isSome_iff_ne_none.2 hx))
      exact ⟨congrArg Seq.pc has, congrArg Seq.wait has⟩

end

end Sys2Proof.Machine
end
section
/-! `CSBAL` on a group: shares start, land and are delivered (R100, R321). -/

namespace Sys2Proof.Machine

/-! ### A predicate from a test of each lane -/

/-- The bits of a number that are chosen below a bound. -/
theorem testBit_chosen (f : Nat → Bool) (n : Nat) : ((List.range n).filter f).foldl (fun a l => a + 2 ^ l) 0 < 2 ^ n ∧
    ∀ i, (((List.range n).filter f).foldl (fun a l => a + 2 ^ l) 0).testBit i = (decide (i < n) && f i) := by
  induction n with
  | zero => simp
  | succ n ih =>
    rw [List.range_succ, List.filter_append, List.foldl_append]
    generalize hN : ((List.range n).filter f).foldl (fun a l => a + 2 ^ l) 0 = N at ih ⊢
    obtain ⟨hlt, hbit⟩ := ih
    by_cases hf : f n = true
    · rw [List.filter_cons_of_pos hf, List.filter_nil, List.foldl_cons, List.foldl_nil, Nat.add_comm N]
      refine ⟨by rw [Nat.pow_succ]; omega, fun i => ?_⟩
      rcases Nat.lt_trichotomy i n with h | h | h
      · rw [Nat.testBit_two_pow_add_gt h, hbit, decide_eq_true h, decide_eq_true (by omega)]
      · subst h
        rw [Nat.testBit_two_pow_add_eq, hbit]
        simp [hf]
      · rw [Nat.testBit_lt_two_pow, decide_eq_false (by omega), Bool.false_and]
        calc 2 ^ n + N < 2 ^ n + 2 ^ n := by omega
          _ = 2 ^ (n + 1) := by rw [Nat.pow_succ]; omega
          _ ≤ 2 ^ i := Nat.pow_le_pow_right (by decide) h
    · rw [List.filter_cons_of_neg hf, List.filter_nil, List.foldl_nil]
      refine ⟨by rw [Nat.pow_succ]; omega, fun i => ?_⟩
      rw [hbit]
      by_cases h : i = n
      · subst h; simp [hf]
      · rw [show decide (i < n) = decide (i < n + 1) from decide_eq_decide.2 (by omega)]

theorem getLsbD_predOf (f : Nat → Bool) {i : Nat} (h : i < 1024) : (predOf f).getLsbD i = f i := by
  rw [predOf, BitVec.getLsbD_ofNat, (testBit_chosen f 1024).2, decide_eq_true h, Bool.true_and, Bool.true_and]

/-! ### Changes of a vault alone -/

/-- A state in which no more than one core's vault differs. -/
def VaultOnly (c : Nat) (s t : State) : Prop := ∃ v : Vault, t = s.modCore c fun k => { k with vault := v }

section
variable {c : Nat} {s t u : State}

theorem VaultOnly.of_modVault (s : State) (c : Nat) (f : Vault → Vault) : VaultOnly c s (s.modVault c f) := ⟨f (s.vault c), rfl⟩

theorem VaultOnly.refl (c : Nat) (s : State) : VaultOnly c s s :=
  ⟨s.vault c, (State.modCore_self rfl).symm⟩

theorem VaultOnly.trans (a : VaultOnly c s t) (b : VaultOnly c t u) : VaultOnly c s u := by
  obtain ⟨v, rfl⟩ := a
  obtain ⟨w, rfl⟩ := b
  exact ⟨w, State.modCore_modCore ..⟩

theorem State.putElems_vaultOnly (s : State) (c : Nat) (x : Stream) (e : Nat) (sec : Bool) (vs : List Word32) :
    VaultOnly c s (s.putElems c x e sec vs) := by
  induction vs generalizing s e with
  | nil => exact .refl c s
  | cons v vs ih => exact (VaultOnly.of_modVault s c _).trans (ih _ _)

end

/-! ### The shares start -/

/-- The streams of a group, in group-rank order. -/
def State.streams (s : State) (g : List Nat) (W : Nat → Fin 32 × Fin 16 × Fin 32 × Nat) : List (List Word32) :=
  g.map fun e => s.getElems e (s.stream e (W e).2.2.1) (s.stream e (W e).2.2.1).rd (s.stream e (W e).2.2.1).fill

/-- A core with a share of the streams. -/
def Core.shared (x : CsShare) (v : Vault) (k : Core) : Core := { k with vault := v, cs := some x }

/-- The share of `all` that group rank `j` of `n` takes, `m` of whose elements from `b` on are its own. -/
structure CsShare.Of (all : List Word32) (n j b m : Nat) (x : CsShare) : Prop where
  vs : x.vs = (all.drop (csRun all.length n j).1).take (csRun all.length n j).2
  lo : x.lo = max (csRun all.length n j).1 b - (csRun all.length n j).1
  hi : x.hi = min ((csRun all.length n j).1 + (csRun all.length n j).2) (b + m) - (csRun all.length n j).1
  done : x.done = 0

/-- The share of a group of one core is its own stream. -/
theorem CsShare.Of.alone {all : List Word32} {x : CsShare} (h : x.Of all 1 0 0 all.length) :
    x.vs = all ∧ x.lo = 0 ∧ x.hi = all.length := by
  have hrun : csRun all.length 1 0 = (0, all.length) := by simp [csRun, b2n, Nat.mod_one]
  obtain ⟨hvs, hlo, hhi, -⟩ := h
  rw [hrun] at hvs hlo hhi
  exact ⟨hvs.trans (by simp), hlo.trans (by simp), hhi.trans (by simp)⟩

theorem State.csStart_core (s : State) {g : List Nat} (W : Nat → Fin 32 × Fin 16 × Fin 32 × Nat) (hn : g.Nodup) (hg : ∀ e ∈ g, e < 384)
    {j e : Nat} (hj : g[j]? = some e) : ∃ x v, (s.csStart g (g.map W)).core e = (s.core e).shared x v ∧
      x.Of (s.streams g W).flatten g.length j ((g.take j).map fun e => (s.stream e (W e).2.2.1).fill).sum (s.stream e (W e).2.2.1).fill := by
  unfold State.csStart
  extract_lets xs all sec
  have hxs : xs = g.map fun e => (e, s.stream e (W e).2.2.1) := by
    simp only [xs, ← List.map_prod_left_eq_zip, List.map_map]
    rfl
  have hall : all = (s.streams g W).flatten := by
    simp only [all, hxs, List.flatMap_map]
    rfl
  have hkeys : (xs.zipIdx.map fun e => e.1.1) = g := by
    have hfst : (xs.zipIdx.map fun e => e.1.1) = (xs.zipIdx.map Prod.fst).map Prod.fst := by rw [List.map_map]; rfl
    rw [hfst, List.zipIdx_map_fst, hxs, List.map_map]
    exact List.map_id g
  have hmem : ((e, s.stream e (W e).2.2.1), j) ∈ xs.zipIdx := by
    rw [List.mk_mem_zipIdx_iff_getElem?, hxs, List.getElem?_map, hj]
    rfl
  have hfill : ((xs.take j).map fun y => y.2.fill).sum = ((g.take j).map fun e => (s.stream e (W e).2.2.1).fill).sum := by
    rw [hxs, ← List.map_take, List.map_map]
    rfl
  have hlt (a : (Nat × Stream) × Nat) (ha : a ∈ xs.zipIdx) : a.1.1 < 384 :=
    hg _ (by rw [← hkeys]; exact List.mem_map_of_mem ha)
  have hstep := State.core_foldl_each (key := fun a : (Nat × Stream) × Nat => a.1.1)
    (f := fun t e =>
      let r := csRun all.length g.length e.2
      let b := ((xs.take e.2).map fun y => y.2.fill).sum
      let f := t.takeFree
      (f.2.correctElems e.1.1 e.1.2 e.1.2.rd e.1.2.fill).modCore e.1.1 fun k => { k with
        cs := some ⟨e.1.2.off, e.1.2.cap, bf f.1 31 0, (all.drop r.1).take r.2, sec, max r.1 b - r.1,
          min (r.1 + r.2) (b + e.1.2.fill) - r.1, 0⟩ })
    (R := fun a k k' => ∃ x v, k' = k.shared x v ∧ x.Of all g.length a.2 ((xs.take a.2).map fun y => y.2.fill).sum a.1.2.fill)
    (l := xs.zipIdx) ?_ ?_ (by rw [hkeys]; exact hn) s _ hmem
  · rw [← hall, ← hfill]
    exact hstep
  · intro t a d hd
    simp only [State.correctElems, State.modVault, State.modCore_modCore]
    exact State.core_modCore_ne _ _ hd
  · intro t a ha
    simp only [State.correctElems, State.modVault, State.modCore_modCore]
    rw [State.core_modCore _ _ _ _ (hlt a ha), if_pos rfl]
    exact ⟨_, _, rfl, rfl, rfl, rfl, rfl⟩

theorem State.csStart_cycle (s : State) (g : List Nat) (ws : List (Fin 32 × Fin 16 × Fin 32 × Nat)) : (s.csStart g ws).cycle = s.cycle := by
  unfold State.csStart
  extract_lets xs all sec
  refine State.foldl_keeps State.cycle ?_ _ s
  exact fun _ _ => rfl

/-! ### The shares land -/

/-- What the landing of elements leaves of a core whose XS waits at `CSBAL`. -/
structure Core.LandsTo (k k' : Core) : Prop where
  x : k'.x = k.x
  cs : k'.cs = k.cs
  xs : (∀ d, k.xs.wait ≠ some (.until d)) → k'.xs = k.xs

theorem Core.LandsTo.refl (k : Core) : k.LandsTo k := ⟨rfl, rfl, fun _ => rfl⟩

theorem Core.LandsTo.trans {k k' k'' : Core} (a : k.LandsTo k') (b : k'.LandsTo k'') : k.LandsTo k'' :=
  ⟨b.x.trans a.x, b.cs.trans a.cs, fun h => (b.xs fun d => by rw [a.xs h]; exact h d).trans (a.xs h)⟩

theorem Core.landsTo_landed (o : BitVec 8) (off : Nat) (p : Parcel) (rows : List LandRow) (k : Core) : k.LandsTo (k.landed o off p rows) :=
  ⟨rfl, rfl, Seq.wake_of_not_until⟩

theorem State.csLand_leaves (s : State) {c : Nat} (x : CsShare) (i : Nat) (vs : List Word32) :
    (s.csLand c x i vs).1.cycle = s.cycle ∧ (∀ d, d ≠ c → (s.csLand c x i vs).1.core d = s.core d) ∧
    (s.core c).LandsTo ((s.csLand c x i vs).1.core c) := by
  induction vs generalizing s i with
  | nil => exact ⟨rfl, fun _ _ => rfl, .refl _⟩
  | cons v vs ih =>
    rw [State.csLand]
    split
    · exact ih s (i + 1)
    · split
      · next t ht =>
        rw [State.land_eq] at ht
        split at ht
        · cases ht
          obtain ⟨hcycle, hne, hto⟩ := ih (s.modCore c _) (i + 1)
          refine ⟨hcycle, fun d hd => (hne d hd).trans (State.core_modCore_ne _ _ hd), Core.LandsTo.trans ?_ hto⟩
          by_cases hc : c < 384
          · rw [State.core_modCore _ _ _ _ hc, if_pos rfl]
            exact Core.landsTo_landed ..
          · rw [State.core_beyond _ (Nat.le_of_not_lt hc), State.core_beyond _ (Nat.le_of_not_lt hc)]
            exact .refl _
        · cases ht
      · exact ⟨rfl, fun _ _ => rfl, .refl _⟩

/-- Elements that are a core's own do not travel. -/
theorem State.csLand_own (s : State) (c : Nat) (x : CsShare) (i : Nat) (vs : List Word32)
    (h : ∀ j, i ≤ j → j < i + vs.length → x.isOwn j = true) : s.csLand c x i vs = (s, i + vs.length) := by
  induction vs generalizing i with
  | nil => rfl
  | cons v vs ih =>
    rw [State.csLand, if_pos (h i (Nat.le_refl _) (by rw [List.length_cons]; omega)),
      ih (i + 1) fun j hj hl => h j (by omega) (by rw [List.length_cons]; omega), List.length_cons]
    congr 1
    omega

/-- A core's share after landing as far as there is room. -/
structure Core.LandedTo (k k' : Core) : Prop where
  x : k'.x = k.x
  xs : (∀ d, k.xs.wait ≠ some (.until d)) → k'.xs = k.xs
  none_ : k.cs = none → k'.cs = none
  some_ : ∀ x, k.cs = some x → ∃ n, k'.cs = some { x with done := n } ∧ (x.vs.length ≤ x.done → n = x.done) ∧
    (x.done = 0 → (∀ i < x.vs.length, x.isOwn i = true) → n = x.vs.length)

theorem State.csLandCore_ne (s : State) (c : Nat) {d : Nat} (hd : d ≠ c) : (s.csLandCore c).core d = s.core d := by
  unfold State.csLandCore
  split
  · rfl
  · exact (State.core_modCore_ne _ _ hd).trans ((s.csLand_leaves _ _ _).2.1 d hd)

theorem State.csLandCore_cycle (s : State) (c : Nat) : (s.csLandCore c).cycle = s.cycle := by
  unfold State.csLandCore
  split
  · rfl
  · exact (s.csLand_leaves (c := c) _ _ _).1

theorem State.csLandCore_core (s : State) {c : Nat} (hc : c < 384) : (s.core c).LandedTo ((s.csLandCore c).core c) := by
  unfold State.csLandCore
  split
  · next h => exact ⟨rfl, fun _ => rfl, fun _ => h, fun x hx => by rw [h] at hx; cases hx⟩
  · next x hx =>
    obtain ⟨-, -, hto⟩ := s.csLand_leaves (c := c) x x.done (x.vs.drop x.done)
    dsimp only
    rw [State.core_modCore _ _ _ _ hc, if_pos rfl]
    refine ⟨hto.x, hto.xs, fun h => absurd (h.symm.trans hx) (by simp), fun y hy => ?_⟩
    obtain rfl := Option.some.inj (hx.symm.trans hy)
    refine ⟨_, rfl, fun hlen => ?_, fun h0 hown => ?_⟩
    · rw [List.drop_eq_nil_of_le hlen]
      rfl
    · rw [h0, List.drop_zero, State.csLand_own s c x 0 x.vs fun j _ hj => hown j (by omega), Nat.zero_add]

/-! ### The slot of `CSBAL` -/

/-- Elements that a core still has to get from others, in its share. -/
def Core.foreign (k : Core) : Nat := (k.cs.map CsShare.foreign).getD 0

theorem State.csDue_iff {s : State} {sh : Nat × Nat} {g : List Nat} {W : Nat → Fin 32 × Fin 16 × Fin 32 × Nat} {c : Nat} (hc : c ∈ g) :
    s.csDue sh g (g.map W) = true ↔ (∀ e ∈ g, (s.core e).csLanded = true) ∧
      ∀ e ∈ g, ∀ e' ∈ g, (W e).2.2.2 + 40 + 2 * (sh.1 + sh.2) + ((s.core e').foreign + 15) / 16 ≤ s.cycle := by
  have hm (k : Nat) : cdiv ((g.map fun e => (s.core e).foreign).foldl max 0) 16 ≤ k ↔ ∀ e ∈ g, ((s.core e).foreign + 15) / 16 ≤ k := by
    have hle : (g.map fun e => (s.core e).foreign).foldl max 0 ≤ 16 * k ↔ ∀ e ∈ g, (s.core e).foreign ≤ 16 * k := by
      rw [foldl_max_le_iff]
      simp
    have hdiv (a : Nat) : (a + 15) / 16 ≤ k ↔ a ≤ 16 * k := by omega
    rw [cdiv, show ∀ a : Nat, a + 16 - 1 = a + 15 from fun _ => rfl, hdiv, hle]
    simp only [hdiv]
  unfold State.csDue
  simp only [Bool.and_eq_true, List.all_eq_true, decide_eq_true_eq, List.map_map]
  refine and_congr Iff.rfl ?_
  change (g.map fun e => (W e).2.2.2).foldl max 0 + 40 + 2 * (sh.1 + sh.2) + cdiv ((g.map fun e => (s.core e).foreign).foldl max 0) 16 ≤ s.cycle ↔ _
  rw [Nat.add_assoc, Nat.add_assoc, delay_passed_iff hc]
  refine forall₂_congr fun e he => ?_
  constructor
  · intro h e' he'
    have := (hm _).1 (Nat.le_refl _) e' he'
    omega
  · intro h
    have hpos := h c hc
    have := (hm (s.cycle - ((W e).2.2.2 + 40 + 2 * (sh.1 + sh.2)))).2 fun e' he' => by have := h e' he'; omega
    omega

/-! ### The shares are delivered -/

/-- What `CSBAL` leaves of a core: its elements in the register, and the instruction retired. -/
def Core.Delivered (k k' : Core) : Prop := ∀ x d p t a, k.cs = some x → k.xs.wait = some (.csbal d p t a) →
  k'.xs = k.xs.retired ∧ k'.cs = none ∧ ∀ j, j < 1024 →
    (k'.x.rp p).getLsbD j = (decide (p = 15) || decide (j < x.vs.length)) ∧ lane (k'.x.rv d) j = x.vs.getD j 0

theorem XUnit.rv_writeLanes_all (x : XUnit) (d : Fin 32) (f : Nat → Word32) {j : Nat} (h : j < 1024) :
    lane ((x.writeLanes d (BitVec.allOnes 1024) (tab 1024 f)).rv d) j = f j := by
  have hbit : bt (BitVec.allOnes 1024) j = true := by rw [bt, BitVec.getLsbD_allOnes, decide_eq_true h]
  rw [XUnit.rv, XUnit.writeLanes, XUnit.wv, lane, vget_vset_same _ _ _ _ d.isLt, vget_tab _ _ _ _ h, if_pos hbit, lane, vget_tab _ _ _ _ h]

theorem XUnit.v_wp (x : XUnit) (p : Fin 16) (v : BitVec 1024) : (x.wp p v).v = x.v := by
  unfold XUnit.wp
  split <;> rfl

/-- The vector unit with a share's elements in a register and their mask in a predicate. -/
def XUnit.given (x : CsShare) (d : Fin 32) (p : Fin 16) (y : XUnit) : XUnit :=
  let k := min x.vs.length 1024
  let y := (y.writeLanes d (BitVec.allOnes 1024) (tab 1024 fun l => if l < k then x.vs.getD l 0 else 0)).wp p (predOf fun l => decide (l < k))
  { y with vSec := setBit y.vSec d.val x.sec, pSec := if p.val = 15 then y.pSec else setBit y.pSec p.val x.sec }

theorem XUnit.given_lanes (x : CsShare) (d : Fin 32) (p : Fin 16) (y : XUnit) {j : Nat} (hj : j < 1024) :
    ((y.given x d p).rp p).getLsbD j = (decide (p = 15) || decide (j < x.vs.length)) ∧ lane ((y.given x d p).rv d) j = x.vs.getD j 0 := by
  constructor
  · change (XUnit.rp (XUnit.wp _ p _) p).getLsbD j = _
    rw [XUnit.rp_wp, if_pos rfl]
    split
    · next h => rw [BitVec.getLsbD_allOnes, decide_eq_true h, Bool.true_or, decide_eq_true hj]
    · next h =>
      rw [getLsbD_predOf _ hj, decide_eq_false h, Bool.false_or]
      exact decide_eq_decide.2 (by omega)
  · change lane (vget _ (XUnit.wp _ p _).v d.val) j = _
    rw [XUnit.v_wp]
    refine (XUnit.rv_writeLanes_all y d _ hj).trans ?_
    split
    · rfl
    · next h => rw [List.getD_eq_default _ _ (by omega)]

theorem State.setCounts_vaultOnly (s : State) (c : Nat) (x : Stream) (sec : Bool) : VaultOnly c s (s.setCounts c x sec) := by
  rw [State.setCounts, State.writeVault]
  exact VaultOnly.of_modVault s c _

theorem State.csDeliver_eq (s : State) {c : Nat} {x : CsShare} {d : Fin 32} {p : Fin 16} {t : Fin 32} {a : Nat} (hx : (s.core c).cs = some x)
    (hw : (s.core c).xs.wait = some (.csbal d p t a)) :
    ∃ v, s.csDeliver c = s.modCore c fun k => Core.retireHeld .xs ({ k with vault := v, cs := none }.modX (XUnit.given x d p)) := by
  unfold State.csDeliver
  rw [hx, hw]
  dsimp only
  generalize hu : s.putElems c (x.stream 0) (x.rd + x.lo) x.sec ((x.vs.drop x.lo).take (x.hi - x.lo)) = u
  obtain ⟨v, hv⟩ : VaultOnly c s (u.setCounts c (x.stream (min x.vs.length 1024)) false) := by
    rw [← hu]
    exact (State.putElems_vaultOnly _ _ _ _ _ _).trans (State.setCounts_vaultOnly _ _ _ _)
  refine ⟨v, ?_⟩
  rw [hv, State.retireHeld_eq, State.modCore_modCore, State.modCore_modCore]
  rfl

theorem State.csDeliver_ne (s : State) (c : Nat) {d : Nat} (hd : d ≠ c) : (s.csDeliver c).core d = s.core d := by
  by_cases h : ∃ x d p t a, (s.core c).cs = some x ∧ (s.core c).xs.wait = some (.csbal d p t a)
  · obtain ⟨x, _, _, _, _, hx, hw⟩ := h
    obtain ⟨v, hv⟩ := s.csDeliver_eq hx hw
    rw [hv, State.core_modCore_ne _ _ hd]
  · unfold State.csDeliver
    split
    · next hx hw => exact absurd ⟨_, _, _, _, _, hx, hw⟩ h
    · rfl

theorem State.csDeliver_core (s : State) {c : Nat} (hc : c < 384) : (s.core c).Delivered ((s.csDeliver c).core c) := by
  intro x d p t a hx hw
  obtain ⟨v, hv⟩ := s.csDeliver_eq hx hw
  rw [hv, State.core_modCore _ _ _ _ hc, if_pos rfl]
  have hrest := Core.rest_retireHeld .xs ({ s.core c with vault := v, cs := none }.modX (XUnit.given x d p))
  refine ⟨Core.seq_retireHeld .xs _, (congrArg Core.cs hrest :), fun j hj => ?_⟩
  rw [Core.rv_retireHeld, Core.rp_retireHeld]
  exact XUnit.given_lanes x d p (s.core c).x hj

/-! ### The step -/

/-- What a core of a group gives of its waiting `CSBAL`. -/
def State.csWait (s : State) (sh : Nat × Nat) (e : Nat) : Fin 32 × Fin 16 × Fin 32 × Nat := (s.csbalAt e sh).getD (0, 0, 0, 0)

theorem State.csbalAt_wait {s : State} {sh : Nat × Nat} {e : Nat} {x : Fin 32} {y : Fin 16} {z : Fin 32} {a : Nat}
    (h : s.csbalAt e sh = some (x, y, z, a)) : (s.core e).xs.wait = some (.csbal x y z a) ∧ s.csWait sh e = (x, y, z, a) := by
  refine ⟨?_, by rw [State.csWait, h]; rfl⟩
  unfold State.csbalAt at h
  split at h
  · next hw =>
    split at h
    · cases h
      exact hw
    · cases h
  · cases h

/-- A group whose cores have all arrived at `CSBAL`. -/
structure State.CsHere (s : State) (sh : Nat × Nat) (g : List Nat) : Prop where
  nodup : g.Nodup
  lt : ∀ e ∈ g, e < 384
  arrived : ∀ e ∈ g, ∃ x y z a, s.csbalAt e sh = some (x, y, z, a)

/-- The state once the shares of a group have started and landed as far as there is room. -/
def State.csMoved (s : State) (sh : Nat × Nat) (g : List Nat) : State :=
  g.foldl State.csLandCore (if (g.any fun k => (s.core k).cs.isNone) = true then s.csStart g (g.map (s.csWait sh)) else s)

section
variable {s : State} {sh : Nat × Nat} {g : List Nat}

theorem State.CsHere.waits (h : s.CsHere sh g) {e : Nat} (he : e ∈ g) (d : Word) : (s.core e).xs.wait ≠ some (.until d) := by
  obtain ⟨x, y, z, a, ha⟩ := h.arrived e he
  rw [(State.csbalAt_wait ha).1]
  simp

theorem State.CsHere.collected (h : s.CsHere sh g) : (g.filterMap fun k => s.csbalAt k sh) = g.map (s.csWait sh) := by
  refine List.filterMap_eq_map_iff_forall_eq_some.2 fun e he => ?_
  obtain ⟨x, y, z, a, ha⟩ := h.arrived e he
  rw [(State.csbalAt_wait ha).2, ha]

theorem State.csbalComplete_eq {c : Nat} (hc : c ∈ s.groupCores c (s.xsShape c)) (h : s.CsHere (s.xsShape c) (s.groupCores c (s.xsShape c))) :
    let sh := s.xsShape c
    let g := s.groupCores c sh
    s.csbalComplete c = if (s.csMoved sh g).csDue sh g (g.map (s.csWait sh)) = true then g.foldl State.csDeliver (s.csMoved sh g)
      else s.csMoved sh g := by
  unfold State.csbalComplete
  dsimp only
  rw [h.collected, if_neg]
  · rfl
  · simp [hc]

theorem State.csMoved_cycle (s : State) (sh : Nat × Nat) (g : List Nat) : (s.csMoved sh g).cycle = s.cycle := by
  rw [State.csMoved, State.foldl_keeps State.cycle State.csLandCore_cycle]
  split
  · exact s.csStart_cycle _ _
  · rfl

theorem State.csMoved_landed (h : s.CsHere sh g) (hs : ∀ e ∈ g, (s.core e).cs ≠ none) {e : Nat} (he : e ∈ g) :
    (s.core e).LandedTo ((s.csMoved sh g).core e) := by
  have hno : ¬(g.any fun k => (s.core k).cs.isNone) = true := by simpa using hs
  rw [State.csMoved, if_neg hno]
  exact State.core_foldl_each (key := fun e => e) (R := fun _ k k' => k.LandedTo k') (fun t a d hd => t.csLandCore_ne a hd)
    (fun t a ha => t.csLandCore_core (h.lt a ha)) (by rw [List.map_id']; exact h.nodup) s e he

theorem State.csMoved_started (h : s.CsHere sh g) (hs : ∃ e ∈ g, (s.core e).cs = none) {j e : Nat} (hj : g[j]? = some e) :
    ∃ x v, ((s.core e).shared x v).LandedTo ((s.csMoved sh g).core e) ∧
      x.Of (s.streams g (s.csWait sh)).flatten g.length j ((g.take j).map fun e => (s.stream e (s.csWait sh e).2.2.1).fill).sum
        (s.stream e (s.csWait sh e).2.2.1).fill := by
  have hyes : (g.any fun k => (s.core k).cs.isNone) = true := by simpa using hs
  obtain ⟨x, v, hx, hof⟩ := s.csStart_core (s.csWait sh) h.nodup h.lt hj
  refine ⟨x, v, ?_, hof⟩
  rw [← hx, State.csMoved, if_pos hyes]
  exact State.core_foldl_each (key := fun e => e) (R := fun _ k k' => k.LandedTo k') (fun t a d hd => t.csLandCore_ne a hd)
    (fun t a ha => t.csLandCore_core (h.lt a ha)) (by rw [List.map_id']; exact h.nodup) _ e (List.mem_of_getElem? hj)

theorem State.csDelivered_core (h : s.CsHere sh g) (u : State) {e : Nat} (he : e ∈ g) : (u.core e).Delivered ((g.foldl State.csDeliver u).core e) :=
  State.core_foldl_each (key := fun e => e) (R := fun _ k k' => k.Delivered k') (fun t a d hd => t.csDeliver_ne a hd)
    (fun t a ha => t.csDeliver_core (h.lt a ha)) (by rw [List.map_id']; exact h.nodup) u e he

end

/-! ### The clauses -/

section
variable {s : State} {c : Nat}

theorem csbalComplete_awaits (h : ∃ e ∈ s.groupCores c (s.xsShape c), s.csbalAt e (s.xsShape c) = none) : s.csbalComplete c = s := by
  have hlen : ((s.groupCores c (s.xsShape c)).filterMap fun k => s.csbalAt k (s.xsShape c)).length ≠ (s.groupCores c (s.xsShape c)).length := by
    obtain ⟨e, he, hn⟩ := h
    exact Nat.ne_of_lt (List.length_filterMap_lt_length_iff_exists.2 ⟨e, he, hn⟩)
  unfold State.csbalComplete
  dsimp only
  rw [if_pos (by simp [hlen])]

variable (hc : c ∈ s.groupCores c (s.xsShape c)) (h : s.CsHere (s.xsShape c) (s.groupCores c (s.xsShape c)))
include hc h

/-- Every core waits where the slot of `CSBAL` has not come. -/
theorem csbalComplete_early {e e' : Nat} (he : e ∈ s.groupCores c (s.xsShape c)) (he' : e' ∈ s.groupCores c (s.xsShape c))
    {x : Fin 32} {y : Fin 16} {z : Fin 32} {a : Nat} (ha : s.csbalAt e (s.xsShape c) = some (x, y, z, a))
    (hd : s.cycle < a + 40 + 2 * ((s.xsShape c).1 + (s.xsShape c).2) +
      (((s.csMoved (s.xsShape c) (s.groupCores c (s.xsShape c))).core e').foreign + 15) / 16) :
    s.csbalComplete c = s.csMoved (s.xsShape c) (s.groupCores c (s.xsShape c)) := by
  rw [State.csbalComplete_eq hc h, if_neg]
  rw [State.csDue_iff hc, State.csMoved_cycle]
  rintro ⟨-, hall⟩
  have := hall e he e' he'
  rw [(State.csbalAt_wait ha).2] at this
  dsimp only at this
  omega

theorem csbalComplete_started (hs : ∃ e ∈ s.groupCores c (s.xsShape c), (s.core e).cs = none)
    (hd : ∃ e ∈ s.groupCores c (s.xsShape c), ∃ x y z a, s.csbalAt e (s.xsShape c) = some (x, y, z, a) ∧
      s.cycle < a + 40 + 2 * ((s.xsShape c).1 + (s.xsShape c).2))
    {xs : List (List Word32)} (hlen : xs.length = (s.groupCores c (s.xsShape c)).length)
    (hxs : ∀ j e : Nat, (s.groupCores c (s.xsShape c))[j]? = some e → ∀ x y z a, s.csbalAt e (s.xsShape c) = some (x, y, z, a) →
      xs[j]? = some (s.getElems e (s.stream e z) (s.stream e z).rd (s.stream e z).fill))
    {j e : Nat} (hj : (s.groupCores c (s.xsShape c))[j]? = some e) :
    let f := xs.flatten.length
    let n := (s.groupCores c (s.xsShape c)).length
    ((s.csbalComplete c).core e).xs = (s.core e).xs ∧ ∃ w, ((s.csbalComplete c).core e).cs = some w ∧
      w.vs = (xs.flatten.drop (j * (f / n) + min j (f % n))).take (f / n + if j < f % n then 1 else 0) := by
  intro f n
  obtain ⟨e0, he0, x0, y0, z0, a0, ha0, hd0⟩ := hd
  have hstreams : s.streams (s.groupCores c (s.xsShape c)) (s.csWait (s.xsShape c)) = xs := by
    refine List.ext_getElem? fun i => ?_
    rw [State.streams, List.getElem?_map]
    cases hi : (s.groupCores c (s.xsShape c))[i]? with
    | none =>
      rw [List.getElem?_eq_none_iff] at hi
      exact (List.getElem?_eq_none (by omega)).symm
    | some k =>
      obtain ⟨x, y, z, a, ha⟩ := h.arrived k (List.mem_of_getElem? hi)
      rw [hxs i k hi x y z a ha, Option.map_some, (State.csbalAt_wait ha).2]
  have he := List.mem_of_getElem? hj
  obtain ⟨x, v, hto, hof⟩ := State.csMoved_started h hs hj
  obtain ⟨m, hm, -⟩ := hto.some_ x rfl
  rw [csbalComplete_early hc h he0 he0 ha0 (by omega)]
  refine ⟨hto.xs (h.waits he), _, hm, ?_⟩
  have hvs : x.vs = _ := hof.vs
  rw [hstreams] at hvs
  exact hvs.trans (by simp only [csRun, b2n, decide_eq_true_eq, f, n])

theorem csbalComplete_moving (hs : ∀ e ∈ s.groupCores c (s.xsShape c), (s.core e).cs ≠ none)
    (hd : ¬∀ e ∈ s.groupCores c (s.xsShape c), ∀ x y z a, s.csbalAt e (s.xsShape c) = some (x, y, z, a) →
      ∀ e' ∈ s.groupCores c (s.xsShape c), ∀ w, (s.core e').cs = some w →
        a + 40 + 2 * ((s.xsShape c).1 + (s.xsShape c).2) + (w.vs.length - (w.hi - w.lo) + 15) / 16 ≤ s.cycle)
    {e : Nat} (he : e ∈ s.groupCores c (s.xsShape c)) : ((s.csbalComplete c).core e).xs = (s.core e).xs := by
  push Not at hd
  obtain ⟨e0, he0, x, y, z, a, ha, e1, he1, w, hw, hlt⟩ := hd
  obtain ⟨m, hm, -⟩ := (State.csMoved_landed h hs he1).some_ w hw
  have hf : ((s.csMoved (s.xsShape c) (s.groupCores c (s.xsShape c))).core e1).foreign = w.vs.length - (w.hi - w.lo) := by
    rw [Core.foreign, hm]
    rfl
  rw [csbalComplete_early hc h he0 he1 ha (by rw [hf]; exact hlt)]
  exact (State.csMoved_landed h hs he).xs (h.waits he)

/-- A core of a group whose `CSBAL` is due takes its share, as it stands after landing. -/
theorem csbalComplete_delivers
    (hl : ∀ e ∈ s.groupCores c (s.xsShape c), ((s.csMoved (s.xsShape c) (s.groupCores c (s.xsShape c))).core e).csLanded = true)
    (hd : ∀ e ∈ s.groupCores c (s.xsShape c), ∀ e' ∈ s.groupCores c (s.xsShape c), (s.csWait (s.xsShape c) e).2.2.2 + 40 +
      2 * ((s.xsShape c).1 + (s.xsShape c).2) +
      (((s.csMoved (s.xsShape c) (s.groupCores c (s.xsShape c))).core e').foreign + 15) / 16 ≤ s.cycle)
    {e : Nat} (he : e ∈ s.groupCores c (s.xsShape c)) :
    ((s.csMoved (s.xsShape c) (s.groupCores c (s.xsShape c))).core e).Delivered ((s.csbalComplete c).core e) := by
  rw [State.csbalComplete_eq hc h, if_pos]
  · exact State.csDelivered_core h _ he
  · rw [State.csDue_iff hc, State.csMoved_cycle]
    exact ⟨hl, hd⟩

theorem csbalComplete_due (hd : ∀ e ∈ s.groupCores c (s.xsShape c), ∀ x y z a, s.csbalAt e (s.xsShape c) = some (x, y, z, a) →
      ∀ e' ∈ s.groupCores c (s.xsShape c), ∀ w, (s.core e').cs = some w →
        a + 40 + 2 * ((s.xsShape c).1 + (s.xsShape c).2) + (w.vs.length - (w.hi - w.lo) + 15) / 16 ≤ s.cycle)
    (ht : ∀ e ∈ s.groupCores c (s.xsShape c), ∃ w, (s.core e).cs = some w ∧ w.vs.length ≤ w.done)
    {e : Nat} (he : e ∈ s.groupCores c (s.xsShape c)) {x : Fin 32} {y : Fin 16} {z : Fin 32} {a : Nat}
    (ha : s.csbalAt e (s.xsShape c) = some (x, y, z, a)) {w : CsShare} (hw : (s.core e).cs = some w) :
    ((s.csbalComplete c).core e).xs = (s.core e).xs.retired ∧ ((s.csbalComplete c).core e).cs = none ∧ ∀ j, j < 1024 →
      (((s.csbalComplete c).core e).x.rp y).getLsbD j = (decide (y = 15) || decide (j < w.vs.length)) ∧
      lane (((s.csbalComplete c).core e).x.rv x) j = w.vs.getD j 0 := by
  have hs : ∀ e ∈ s.groupCores c (s.xsShape c), (s.core e).cs ≠ none := fun e he => by
    obtain ⟨w, hw, -⟩ := ht e he
    simp [hw]
  have hcs (e : Nat) (he : e ∈ s.groupCores c (s.xsShape c)) :
      ((s.csMoved (s.xsShape c) (s.groupCores c (s.xsShape c))).core e).cs = (s.core e).cs := by
    obtain ⟨w, hw, hle⟩ := ht e he
    obtain ⟨m, hm, hdone, -⟩ := (State.csMoved_landed h hs he).some_ w hw
    rw [hm, hdone hle, hw]
  have hxs : ((s.csMoved (s.xsShape c) (s.groupCores c (s.xsShape c))).core e).xs = (s.core e).xs :=
    (State.csMoved_landed h hs he).xs (h.waits he)
  have hdel := csbalComplete_delivers hc h
    (fun e he => by
      obtain ⟨w, hw, hle⟩ := ht e he
      rw [Core.csLanded, hcs e he, hw]
      exact decide_eq_true hle)
    (fun e he e' he' => by
      obtain ⟨x, y, z, a, ha⟩ := h.arrived e he
      obtain ⟨w, hw, -⟩ := ht e' he'
      rw [(State.csbalAt_wait ha).2, Core.foreign, hcs e' he', hw]
      exact hd e he x y z a ha e' he' w hw)
    he
  have := hdel w x y z a ((hcs e he).trans hw) (by rw [hxs]; exact (State.csbalAt_wait ha).1)
  rwa [hxs] at this

omit hc in
theorem csbalComplete_alone (hg : s.groupCores c (s.xsShape c) = [c]) (hs : (s.core c).cs = none) {x : Fin 32} {y : Fin 16} {z : Fin 32}
    {a : Nat} (ha : s.csbalAt c (s.xsShape c) = some (x, y, z, a)) (hd : a + 40 + 2 * ((s.xsShape c).1 + (s.xsShape c).2) ≤ s.cycle) :
    ((s.csbalComplete c).core c).xs = (s.core c).xs.retired ∧ ∀ j, j < 1024 →
      (((s.csbalComplete c).core c).x.rp y).getLsbD j = (decide (y = 15) || decide (j < (s.stream c z).fill)) ∧
      lane (((s.csbalComplete c).core c).x.rv x) j =
        (s.getElems c (s.stream c z) (s.stream c z).rd (s.stream c z).fill).getD j 0 := by
  have hc : c ∈ s.groupCores c (s.xsShape c) := by rw [hg]; exact List.mem_singleton_self c
  obtain ⟨hwait, hW⟩ := State.csbalAt_wait ha
  obtain ⟨w, v, hto, hof⟩ := State.csMoved_started h ⟨c, hc, hs⟩ (j := 0) (e := c) (by rw [hg]; rfl)
  generalize hall : s.getElems c (s.stream c z) (s.stream c z).rd (s.stream c z).fill = all
  have hfill : (s.stream c z).fill = all.length := by rw [← hall]; simp [State.getElems]
  have hone : w.Of all 1 0 0 all.length := by
    have hst : (s.streams [c] (s.csWait (s.xsShape c))).flatten = all := by
      rw [State.streams, List.map_singleton, List.flatten_singleton, hW, hall]
    rw [hg, hst, hW] at hof
    dsimp only at hof
    rwa [hfill] at hof
  obtain ⟨hvs, hlo, hhi⟩ := hone.alone
  obtain ⟨m, hm, -, hown⟩ := hto.some_ w rfl
  have hm' : m = w.vs.length := hown hone.done fun i hi => by
    rw [CsShare.isOwn, hlo, hhi, ← hvs]
    simp [hi]
  have hxs : ((s.csMoved (s.xsShape c) (s.groupCores c (s.xsShape c))).core c).xs = (s.core c).xs := hto.xs (h.waits hc)
  have hdel := csbalComplete_delivers hc h
    (fun e he => by
      rw [hg, List.mem_singleton] at he
      rw [he, Core.csLanded, hm, hm']
      exact decide_eq_true (Nat.le_refl _))
    (fun e he e' he' => by
      rw [hg, List.mem_singleton] at he he'
      have hf : ((s.csMoved (s.xsShape c) (s.groupCores c (s.xsShape c))).core c).foreign = 0 := by
        rw [Core.foreign, hm]
        change w.vs.length - (w.hi - w.lo) = 0
        rw [hlo, hhi, hvs]
        omega
      rw [he, he', hW, hf]
      exact hd)
    hc
  obtain ⟨hret, -, hlanes⟩ := hdel _ x y z a hm (by rw [hxs]; exact hwait)
  rw [hxs] at hret
  refine ⟨hret, fun j hj => ?_⟩
  rw [hfill, ← hvs]
  exact hlanes j hj

end

end Sys2Proof.Machine
end
section
/-! Each collective completes once its conditions hold, and not before. -/

namespace Sys2Proof.Machine

/-- Settles O46: each collective by the lemmas about its step, a group's cores one by one. -/
theorem collectiveCompletes : Obligations.collectiveCompletes := by
  intro c q w h tf tb id l st b p d s k sh g arrived retired
  refine ⟨⟨_, exec_barrierComplete c s, fun hw hc => barrierComplete_gives hw hc⟩, ?_, ⟨_, exec_phaseBoundary c s, phaseBoundary_gives⟩,
    ⟨_, exec_exchangeStepStart id s, fun hl => ?_, fun hl hrun hi hst hall hne hlen => ?_⟩,
    ⟨_, exec_exchangeBeat c s, exchangeBeat_idle, fun hs hb => exchangeBeat_gives hs hb⟩,
    ⟨_, exec_exchangeStepEnd id s, fun hl hs => exchangeStepEnd_gives hl hs⟩, ⟨_, exec_csbalComplete c s, ?_⟩⟩
  · by_cases hw : (k.seq q).wait = some (.until d)
    · exact (waitiDeadline_gives hw).imp fun t ht _ => ht
    · exact ⟨_, exec_waitiDeadline c q s, fun hw' => absurd hw' hw⟩
  · rw [State.stepStart, hl]
  · exact exchangeStepStart_gives hl hrun hi hst hall hne hlen
  beta_reduce
  intro sh2 g2 at_ here took due
  have hhere : here → s.CsHere (s.xsShape c.val) (s.groupCores c.val (s.xsShape c.val)) := fun ⟨_, hn, hall⟩ =>
    ⟨hn, fun e he => (hall e he).1, fun e he => (hall e he).2⟩
  refine ⟨csbalComplete_awaits, fun xs hh hs hd hlen hxs => ?_, fun hh hs hd e he => ?_, fun hh hd ht e he x y z a w ha hw => ?_,
    fun x y z a hg hs ha => ?_⟩
  · intro f n j e hj
    exact csbalComplete_started hh.1 (hhere hh) hs hd hlen hxs hj
  · exact csbalComplete_moving hh.1 (hhere hh) hs hd he
  · obtain ⟨hret, hcs, hlanes⟩ := csbalComplete_due hh.1 (hhere hh) hd ht he ha hw
    exact ⟨⟨congrArg Seq.pc hret, congrArg Seq.wait hret⟩, hcs, hlanes⟩
  · intro n hd
    have hh : s.CsHere (s.xsShape c.val) (s.groupCores c.val (s.xsShape c.val)) := by
      rw [show s.groupCores c.val (s.xsShape c.val) = [c.val] from hg]
      exact ⟨List.nodup_singleton _, by simp, by simpa using ⟨x, y, z, a, ha⟩⟩
    obtain ⟨hret, hlanes⟩ := csbalComplete_alone hh hg hs ha hd
    refine ⟨⟨congrArg Seq.pc hret, congrArg Seq.wait hret⟩, fun j hj => ⟨(hlanes j hj).1, (hlanes j hj).2.trans ?_⟩⟩
    split
    · rfl
    · next hn => exact List.getD_eq_default _ _ (by simpa [State.getElems] using hn)

end Sys2Proof.Machine
end
section
/-! Records from their admission to their place (R47 to R55, R123). -/

namespace Sys2Proof.Machine

/-! ### Launches by their numbers -/

theorem State.launch?_of_mem {s : State} (hn : (s.launches.map Launch.id).Nodup) {x : Launch} (hx : x ∈ s.launches) : s.launch? x.id = some x := by
  have h : ∀ l : List Launch, (l.map Launch.id).Nodup → x ∈ l → (l.find? fun y => y.id == x.id) = some x := by
    intro l hn hx
    induction l with
    | nil => cases hx
    | cons y l ih =>
      rw [List.map_cons, List.nodup_cons] at hn
      rcases List.mem_cons.1 hx with rfl | hx
      · exact List.find?_cons_of_pos (by simp)
      · have hne : y.id ≠ x.id := fun e => hn.1 (e ▸ List.mem_map_of_mem hx)
        rw [List.find?_cons_of_neg (by simpa using hne)]
        exact ih hn.2 hx
  exact h s.launches hn hx

theorem mem_modFirst {α : Type} {p : α → Bool} {f : α → α} {y : α} {l : List α} (h : y ∈ modFirst p f l) :
    y ∈ l ∨ ∃ x ∈ l, p x = true ∧ y = f x := by
  induction l with
  | nil => cases h
  | cons a l ih =>
    rw [modFirst] at h
    split at h
    · next hp =>
      rcases List.mem_cons.1 h with rfl | h
      · exact .inr ⟨a, List.mem_cons_self .., hp, rfl⟩
      · exact .inl (List.mem_cons_of_mem _ h)
    · rcases List.mem_cons.1 h with rfl | h
      · exact .inl (List.mem_cons_self ..)
      · exact (ih h).imp (List.mem_cons_of_mem _) fun ⟨x, hx, hp⟩ => ⟨x, List.mem_cons_of_mem _ hx, hp⟩

@[simp] theorem length_modFirst {α : Type} (p : α → Bool) (f : α → α) (l : List α) : (modFirst p f l).length = l.length := by
  induction l with
  | nil => rfl
  | cons a l ih =>
    rw [modFirst]
    split
    · rfl
    · rw [List.length_cons, ih, List.length_cons]

/-! ### Admission -/

theorem State.argBlock_accesses {s v : State} {l : Launch} {bs : List Byte} (h : s.argBlock l = .ok v bs) :
    Accesses (s.launchMem l).x.core s v := by
  have hr := s.readGlobal_accesses (s.launchMem l) l.argp (8 * l.ntile + 4 * l.apcnt)
  unfold State.argBlock at h
  dsimp only at h
  split at h
  · cases h
    exact .refl _ _
  · split at h
    · cases h
    · split at h
      · cases h
      · cases h
      · next t got hok =>
        rw [hok] at hr
        split at h
        · cases h
        · cases h
          exact hr

theorem State.dropHint_accesses (c : Option Nat) (s : State) (fn : Nat) : Accesses c s (s.dropHint fn) := s.modFn_accesses c fn _

theorem State.latchTokens_launches (s : State) (fn : Nat) : (s.latchTokens fn).launches = s.launches := by
  unfold State.latchTokens
  dsimp only
  split <;> rfl

theorem State.askPage_accesses (c : Option Nat) (s : State) (l : Launch) (h : BitVec 20) (e : Line) (pageB : Bool) (hint : Option Nat) :
    Accesses c s (s.askPage l h e pageB hint) := by
  unfold State.askPage
  dsimp only
  split
  · exact .refl c s
  · refine Accesses.trans ?_ (.foldl (fun s (a : Nat × Nat) => s.launchRequest_accesses c l l.fn a.1 a.2) _ _)
    exact ⟨rfl, Nat.le_refl _, fun _ _ => rfl⟩

theorem State.prefAdapter_accesses (c : Option Nat) (s : State) (l : Launch) (w : Word) : Accesses c s (s.prefAdapter l w) := by
  unfold State.prefAdapter
  split
  · exact s.dropHint_accesses c _
  · split
    · exact .refl c s
    · split
      · exact s.dropHint_accesses c _
      · split
        · exact s.dropHint_accesses c _
        · dsimp only
          have hask (b : Bool) (p : Prop) [Decidable p] (u : State) (h : BitVec 20) (e : Line) :
              Accesses c u (if p then u else u.askPage l h e b (some l.fn)) := by
            split
            · exact .refl c u
            · exact u.askPage_accesses c l h e b _
          exact (hask false _ s _ _).trans (hask true _ _ _ _)

/-- A port lets in no record, or one that takes the next number. -/
theorem State.letIn_cases (s : State) (fn : Nat) : s.letIn fn = s ∨ ∃ l : Launch, l.id = s.nextId ∧ s.letIn fn =
    { s with portHeld := dropFirst (fun x => x.fn == fn) s.portHeld, nextId := s.nextId + 1, launches := s.launches ++ [l] } := by
  unfold State.letIn
  split
  · exact .inl rfl
  · split
    · exact .inl rfl
    · rw [State.acceptWrite, State.addLaunch_eq]
      exact .inr ⟨_, rfl, rfl⟩

/-- A record that a port lets in changes no other. -/
theorem State.launch?_letIn {s : State} {fn id : Nat} {l : Launch} (h : s.launch? id = some l) : (s.letIn fn).launch? id = some l := by
  rcases s.letIn_cases fn with e | ⟨y, -, e⟩
  · rw [e, h]
  · rw [e]
    exact List.find?_append.trans (by rw [show s.launches.find? (fun l => l.id == id) = some l from h]; rfl)

/-- A record that enters its region queue. -/
theorem State.enqueue_queues {s : State} {l x : Launch} (hx : s.launch? l.id = some x) (hi : l.image = none) :
    ∃ q : Launch, (s.enqueue l).launch? l.id = some q ∧ q.state = .queued ∧ q.region = l.region ∧ q.leaf = l.leaf ∧
      q.deadline = l.deadline ∧ q.record = l.record := by
  unfold State.enqueue
  extract_lets y u t
  have hstate : y.state = .queued := by simp only [y, hi]
  have ht : t.launch? l.id = some y := by
    refine State.launch?_letIn ?_
    rw [State.launch?_congr (State.latchTokens_launches ..)]
    exact State.launch?_replace hx rfl
  obtain ⟨q, hq, hap⟩ := (Accesses.foldl (fun s h => s.prefAdapter_accesses none y (h.setWidth 64)) y.handles t).found ht
  refine ⟨q, hq, (congrArg Launch.state hap :).trans hstate, (congrArg Launch.region hap :), (congrArg Launch.leaf hap :),
    (congrArg Launch.deadline hap :), (congrArg Launch.record hap :)⟩

theorem State.affinity_launches (s : State) (l : Launch) : (s.affinity l).2.launches = s.launches := by
  unfold State.affinity
  dsimp only
  repeat' split
  all_goals rfl

theorem not_not_of_true {b : Bool} (h : b = true) : ¬(!b) = true := by simp [h]

/-- A record that passes its checks enters the region queue that its affinity chooses. -/
theorem recordAdmit_queues {s v : State} {id r : Nat} {l : Launch} {bs : List Byte} (hl : s.launch? id = some l) (ht : s.admitTurn l = true)
    (hf : l.formOk = true) (ha : s.argBlock { l with cfg := s.cfgOf l.fn } = .ok v bs) :
    let y : Launch := { (v.launch? id).getD { l with cfg := s.cfgOf l.fn } with
      tiles := (wordsOf 8 l.ntile bs).map wd, handles := (wordsOf 4 l.apcnt (bs.drop (8 * l.ntile))).map (BitVec.ofNat 32)
      state := .port, cfg := s.cfgOf l.fn }
    let w := v.modLaunch id fun _ => y
    let z : Launch := { y with leaf := (w.affinity y).1.1, region := r, admitted := w.cycle, deadline := w.cycle + y.dline * 3300 }
    y.tiles.all y.tileOk = true → y.permitted = true → ¬(y.cls ≤ 1 ∧ y.dline = 0) → w.fitting y ≠ [] → y.image = none →
    w.roomFrom (w.affinity y).1.1 (w.affinity y).1.2 = some r → (y.cls = 0 → w.admits z = true) →
    ∃ q : Launch, (s.admitRecord id).launch? id = some q ∧ q.state = .queued ∧ q.region = r ∧ q.leaf = z.leaf ∧ q.deadline = z.deadline ∧
      q.record = y.record := by
  intro y w z htiles hperm hdl hfit himg hroom hadm
  obtain ⟨x, hx, -⟩ := (State.argBlock_accesses ha).found hl
  have hid : y.id = id := by
    simp only [y, hx, Option.getD_some]
    exact State.launch?_id hx
  have hw : w.launch? y.id = some y := by
    rw [hid]
    exact State.launch?_replace hx hid
  have hcheck : s.admitRecord id = w.checkRecord y := by
    unfold State.admitRecord
    rw [hl]
    dsimp only
    refine (if_neg (not_not_of_true ht)).trans ((if_neg (not_not_of_true hf)).trans ?_)
    rw [ha]
    exact if_pos htiles
  have henq : w.checkRecord y = (w.affinity y).2.enqueue z := by
    unfold State.checkRecord
    rw [if_neg (by simp [hperm]), if_neg hdl, if_neg (by simpa using hfit)]
    dsimp only
    rw [hroom]
    exact if_neg fun h => not_not_of_true (hadm h.1) h.2
  have hz : (w.affinity y).2.launch? z.id = some y := by
    rw [State.launch?_congr (State.affinity_launches w y)]
    exact hw
  obtain ⟨q, hq, hrest⟩ := State.enqueue_queues hz himg
  refine ⟨q, ?_, hrest⟩
  rw [hcheck, henq, ← hid]
  exact hq

/-! ### Balancing -/

/-- What an excess names is a grid neighbour. -/
theorem excess_neighbour {depth : Nat → Nat} {r : Nat} (h : 0 < (excess depth r).1) : (excess depth r).2 ∈ gridNeighbours r := by
  have key : ∀ (ns : List Nat) (b : Nat × Nat), (0 < b.1 → b.2 ∈ gridNeighbours r) → (∀ n ∈ ns, n ∈ gridNeighbours r) →
      0 < (ns.foldl (fun b n => let d := depth r - depth n; if b.1 < d then (d, n) else b) b).1 →
      (ns.foldl (fun b n => let d := depth r - depth n; if b.1 < d then (d, n) else b) b).2 ∈ gridNeighbours r := by
    intro ns
    induction ns with
    | nil => exact fun b hb _ => hb
    | cons n ns ih =>
      intro b hb hns
      refine ih _ ?_ fun m hm => hns m (List.mem_cons_of_mem _ hm)
      dsimp only
      split
      · exact fun _ => hns n (List.mem_cons_self ..)
      · exact hb
  exact key _ _ (fun h => absurd h (Nat.lt_irrefl 0)) (fun _ h => h) h

/-- What a list offers, picked one against another, is of the list. -/
theorem mem_of_foldl_pick {α : Type} {f : Option α → α → Option α} (hf : ∀ b x, f b x = some x ∨ f b x = b) {l : List α} {a : α}
    (h : l.foldl f none = some a) : a ∈ l := by
  have key : ∀ (l : List α) (b : Option α), l.foldl f b = some a → a ∈ l ∨ b = some a := by
    intro l
    induction l with
    | nil => exact fun b h => .inr h
    | cons x l ih =>
      intro b h
      rcases ih _ h with h | h
      · exact .inl (List.mem_cons_of_mem _ h)
      · rcases hf b x with e | e
        · rw [e] at h
          exact .inl (by simp [Option.some.inj h])
        · exact .inr (e ▸ h)
  exact (key l none h).resolve_right (by simp)

theorem mem_of_mem_youngest {n : Nat} {ls : List Launch} {l : Launch} (h : l ∈ youngest n ls) : l ∈ ls := by
  induction n generalizing ls with
  | zero => cases h
  | succ n ih =>
    rw [youngest] at h
    split at h
    · cases h
    · next y hy =>
      rcases List.mem_cons.1 h with rfl | h
      · refine mem_of_foldl_pick (fun b x => ?_) hy
        cases b with
        | none => exact .inl rfl
        | some z =>
          dsimp only
          split
          · exact .inl rfl
          · exact .inr rfl
      · exact List.mem_of_mem_filter (ih h)

/-- Balancing has moved records of `s` to grid neighbours of their regions. -/
structure Balances (s t : State) : Prop where
  only : t = { s with launches := t.launches }
  length : t.launches.length = s.launches.length
  moved : ∀ y ∈ t.launches, ∃ y0 ∈ s.launches, y = { y0 with region := y.region } ∧
    (y.region = y0.region ∨ y0.inQueue = true ∧ (y0.cls = 1 ∨ y0.cls = 2) ∧ y.region ∈ gridNeighbours y0.region)

theorem Balances.refl (s : State) : Balances s s := ⟨rfl, rfl, fun y hy => ⟨y, hy, rfl, .inl rfl⟩⟩

/-- A queued record moves to a neighbour of its region. -/
theorem Balances.move {s t : State} (h : Balances s t) (hn : (s.launches.map Launch.id).Nodup) {l : Launch} {e : Nat} (hl : l ∈ s.launches)
    (hq : l.inQueue = true) (hc : l.cls = 1 ∨ l.cls = 2) (he : e ∈ gridNeighbours l.region) :
    Balances s (t.modLaunch l.id fun x => { x with region := e }) := by
  refine ⟨?_, ?_, fun y hy => ?_⟩
  · rw [h.only]
    rfl
  · exact (length_modFirst _ _ _).trans h.length
  · rcases mem_modFirst hy with hy | ⟨x, hx, hid, rfl⟩
    · exact h.moved y hy
    · obtain ⟨y0, hy0, hx0, -⟩ := h.moved x hx
      have hid0 : y0.id = l.id := by
        have : x.id = y0.id := by rw [hx0]
        rw [← this]
        simpa using hid
      have heq : y0 = l := List.inj_on_of_nodup_map hn hy0 hl hid0
      subst heq
      refine ⟨y0, hl, ?_, .inr ⟨hq, hc, he⟩⟩
      rw [hx0]

theorem Balances.foldl {α : Type} {s : State} {f : State → α → State} {l : List α} (hf : ∀ t, ∀ a ∈ l, Balances s t → Balances s (f t a)) {t : State}
    (h : Balances s t) : Balances s (l.foldl f t) := by
  induction l generalizing t with
  | nil => exact h
  | cons a l ih => exact ih (fun t x hx => hf t x (List.mem_cons_of_mem _ hx)) (hf t a (List.mem_cons_self ..) h)

theorem regionBalance_gives {s : State} (hn : (s.launches.map Launch.id).Nodup) :
    if s.cycle < s.balanced + 3300 then s.balance = s
    else s.balance = { s with balanced := s.cycle, launches := s.balance.launches } ∧ s.balance.launches.length = s.launches.length ∧
      ∀ y ∈ s.balance.launches, ∃ y0 ∈ s.launches, y = { y0 with region := y.region } ∧
        (y.region = y0.region ∨ y0.inQueue = true ∧ (y0.cls = 1 ∨ y0.cls = 2) ∧ y.region ∈ gridNeighbours y0.region) := by
  split
  · next h => exact if_pos h
  · next h =>
    obtain ⟨u, hu, hrun⟩ : ∃ u, Balances s u ∧ s.balance = { u with balanced := s.cycle } := by
      refine ⟨_, ?_, if_neg h⟩
      refine Balances.foldl (fun t leaf _ ht => Balances.foldl (fun t r _ ht => Balances.foldl (fun t l hl ht => ?_) ht) ht) (.refl s)
      obtain ⟨hq, hc⟩ := List.mem_filter.1 (mem_of_mem_youngest hl)
      obtain ⟨hmem, hqueue⟩ := List.mem_filter.1 hq
      simp only [Bool.and_eq_true, Bool.or_eq_true, beq_iff_eq, decide_eq_true_eq] at hc hqueue
      obtain ⟨hcls, hdeep⟩ := hc
      obtain ⟨⟨hin, -⟩, hreg⟩ := hqueue
      refine ht.move hn hmem hin hcls ?_
      rw [hreg]
      exact excess_neighbour (Nat.lt_of_le_of_lt (Nat.zero_le _) hdeep)
    obtain ⟨honly, hlen, hmoved⟩ := hu
    rw [hrun]
    refine ⟨?_, hlen, hmoved⟩
    rw [honly]

/-! ### Measuring and starting -/

theorem State.blockPages_accesses (s : State) (l : Launch) (as : List Nat) : Accesses none s (s.blockPages l as).state := by
  induction as generalizing s with
  | nil => exact .refl _ s
  | cons a as ih =>
    unfold State.blockPages
    extract_lets x t f r
    have ht : Accesses none s t := s.triedPages_accesses x none _
    have hr : Accesses none s r.state := by
      simp only [r]
      split
      · exact ht
      · exact ht.trans (t.launchRequest_accesses none l _ _ _)
      · exact ht.trans (t.freeBytes_accesses none _)
    clear_value r
    cases r with
    | trap u tr => exact hr
    | miss u f g => exact hr
    | ok u bs =>
      have hu := hr.trans (ih u)
      dsimp only
      split <;> rename_i h
      · rw [h] at hu
        exact hu
      · exact hu

theorem State.measured_accesses (s : State) (l : Launch) : Accesses none s (s.measured l).state := by
  have hb (u : State) (p : Word) : Accesses none u (u.blockAt l p).state := u.blockPages_accesses l _
  unfold State.measured
  split
  · have h1 := hb s l.asEnt
    split <;> rename_i e1 <;> rw [e1] at h1
    · next t a =>
      have h2 := h1.trans (hb t l.xsEnt)
      split <;> rename_i e2 <;> rw [e2] at h2
      · exact h2
      · exact h2
      · exact h2
    · exact h1
    · exact h1
  · exact .refl none s

/-- What a step does to its own core whatever it was, the cores of a list have after it. -/
theorem State.core_foldl_reached {f : State → Nat → State} (hf : ∀ t c d, d ≠ c → (f t c).core d = t.core d) {P : Core → Prop}
    {l : List Nat} (hP : ∀ t, ∀ c < 384, P ((f t c).core c)) {c : Nat} (hc : c < 384) {s : State} (h : c ∈ l ∨ P (s.core c)) :
    P ((l.foldl f s).core c) := by
  induction l generalizing s with
  | nil => exact h.resolve_left (by simp)
  | cons a l ih =>
    refine ih ?_
    by_cases hca : c = a
    · subst hca
      exact .inr (hP s c hc)
    · rw [hf s a c hca]
      exact h.imp (fun hm => (List.mem_cons.1 hm).resolve_left hca) fun h => h

/-- A core at the start of a launch (R27). -/
structure Core.Begun (l : Launch) (k : Core) : Prop where
  launch : k.launch = some l.id
  asPc : k.as.pc = l.asEnt
  xsPc : k.xs.pc = l.xsEnt
  asRun : k.as.run = .running
  xsRun : k.xs.run = .running
  regs : k.as.s = Vector.replicate 32 0
  mode : k.as.mode = if l.sup then 1 else 0

theorem Core.begun_begin (k : Core) (l : Launch) (r : FnRegs) (rank : Nat) (copy1 : Bool) (cycle : Nat) :
    (k.begin_ l r rank copy1 cycle).Begun l := ⟨rfl, rfl, rfl, rfl, rfl, rfl, rfl⟩

theorem launchPlace_starts {s w : State} {leaf : Nat} {l : Launch} {o : Nat × Nat} {mr : Line} (hh : s.findHead leaf = some (.at_ l o))
    (hq : l.state = .queued) (hl : s.launch? l.id = some l) (hm : s.measured l = .ok w mr) :
    (∃ q : Launch, (s.place leaf).launch? l.id = some q ∧ q.state = .running ∧ q.x0 = o.1 ∧ q.y0 = o.2 ∧ q.placedAt = s.cycle) ∧
    ∀ c ∈ (l.at_ o).allCores, c < 384 → ((s.place leaf).core c).Begun l ∧
      ((s.place leaf).core c).vault = (s.core c).vault := by
  have hacc := s.measured_accesses l
  rw [hm] at hacc
  have heq : s.place leaf = w.startOn l o mr := by
    unfold State.place
    rw [hh]
    dsimp only
    unfold State.takePlace
    rw [hq]
    dsimp only
    rw [State.startAt, hm]
  rw [heq]
  unfold State.startOn
  extract_lets y r u v
  obtain ⟨x, hx, -⟩ := hacc.found hl
  refine ⟨⟨y, ?_, rfl, rfl, rfl, hacc.cycle⟩, fun c hc h384 => ⟨?_, ?_⟩⟩
  · have hlaunches : (y.allCores.foldl (fun s c => s.modCore c fun k =>
        k.begin_ y r (y.rankOf c) (y.flagD && decide (y.x0 + 16 ≤ coreX c)) s.cycle) v).launches = v.launches := by
      refine State.foldl_keeps State.launches ?_ _ _
      exact fun _ _ => rfl
    rw [State.launch?_congr hlaunches]
    exact State.launch?_replace hx rfl
  · have hb : ((y.allCores.foldl (fun s c => s.modCore c fun k =>
        k.begin_ y r (y.rankOf c) (y.flagD && decide (y.x0 + 16 ≤ coreX c)) s.cycle) v).core c).Begun y := by
      refine State.core_foldl_reached (P := fun k => k.Begun y) (fun t c d hd => State.core_modCore_ne _ _ hd) (fun t c hc => ?_) h384 (.inl hc)
      rw [State.core_modCore _ _ _ _ hc, if_pos rfl]
      exact Core.begun_begin _ y _ _ _ _
    exact ⟨hb.launch, hb.asPc, hb.xsPc, hb.asRun, hb.xsRun, hb.regs, hb.mode⟩
  · have hvault := State.foldl_keeps (f := fun s c => s.modCore c fun k =>
        k.begin_ y r (y.rankOf c) (y.flagD && decide (y.x0 + 16 ≤ coreX c)) s.cycle) (fun t => (t.core c).vault)
      (fun t a => State.core_modCore_keeps Core.vault t a rfl c) y.allCores v
    refine hvault.trans ?_
    exact congrArg Core.vault (hacc.others c (by simp))

/-! ### Pre-emption for a class-0 record -/

theorem pickVictim_mem {vs : List Launch} {x : Launch} (h : pickVictim vs = some x) : x ∈ vs := by
  refine mem_of_foldl_pick (fun b y => ?_) h
  cases b with
  | none => exact .inl rfl
  | some z =>
    dsimp only
    split
    · exact .inl rfl
    · exact .inr rfl

theorem class0Preemption_takes {s : State} {leaf : Nat} {l x : Launch} {o : Nat × Nat} (hn : (s.launches.map Launch.id).Nodup)
    (hh : s.headOf leaf 0 = some l) (hr : (s.reserved.any fun y => y.2 == l.id) = false) (hl : s.tooLate l = true) (ht : s.tryHead l = none)
    (hv : pickVictim (s.victims l) = some x) (ho : s.nearest l (s.freedBy l x) = some o) :
    (∃ q : Launch, (s.class0Preempt leaf).launch? x.id = some q ∧ q.state = .running ∧ q.image ≠ none) ∧
    (s.class0Preempt leaf).reserved = (l.at_ o).allCores.foldl (fun m c => SMap.insert m c l.id) s.reserved ∧
    ∀ c ∈ x.allCores, c < 384 → ((s.class0Preempt leaf).core c).ppre = some s.cycle := by
  obtain ⟨hmem, hok⟩ := List.mem_filter.1 (pickVictim_mem hv)
  simp only [Bool.and_eq_true, beq_iff_eq] at hok
  obtain ⟨⟨⟨⟨⟨hrun, himg⟩, -⟩, -⟩, hfree⟩, -⟩ := hok
  obtain ⟨b, hb⟩ := Option.isSome_iff_exists.1 hfree
  have hx : s.launch? x.id = some x := State.launch?_of_mem hn hmem
  have hno : ¬(x.state ≠ .running ∨ x.image.isSome = true) := by
    rw [Option.isNone_iff_eq_none] at himg
    simp [hrun, himg]
  have hreq : s.requestPreempt x.id = (s.modLaunch x.id fun y => { y with image := some b, cores := List.replicate y.nCores Core.reset }).modCores
      x.allCores fun k => { k with ppre := some s.cycle, as := k.as.wake, xs := k.xs.wake } := by
    unfold State.requestPreempt
    rw [hx]
    dsimp only
    rw [if_neg hno, hb]
  have heq : s.class0Preempt leaf = { s.requestPreempt x.id with
      reserved := (l.at_ o).allCores.foldl (fun m c => SMap.insert m c l.id) (s.requestPreempt x.id).reserved } := by
    unfold State.class0Preempt
    rw [hh]
    dsimp only
    rw [hr, hl, ht, hv]
    dsimp only
    rw [ho]
    rfl
  rw [heq, hreq]
  refine ⟨⟨{ x with image := some b, cores := List.replicate x.nCores Core.reset }, ?_, hrun, by simp⟩, ?_, fun c hc h384 => ?_⟩
  · refine (State.launch?_congr (State.modCores_launches _ _ _) _).trans ?_
    rw [State.launch?_modLaunch _ _ (by exact fun _ => rfl), hx]
    rfl
  · dsimp only
    rw [State.modCores_device]
    rfl
  · exact State.core_modCores_all (P := fun k => k.ppre = some s.cycle) (fun _ => rfl) _ _ h384 (.inl hc)

/-- Settles O43: admission through what reading the argument block leaves, balancing by an invariant of its moves, placing and
pre-emption by what they do to the launch and its cores. -/
theorem recordPlaced : Obligations.recordPlaced := by
  intro s v id r leaf l x bs o hn
  refine ⟨⟨_, rfl, fun h => ?_, fun h ht => ?_, fun hl ht hf ha => recordAdmit_queues hl ht hf ha⟩, ⟨_, rfl, regionBalance_gives hn⟩,
    ⟨_, rfl, fun h => ?_, fun w g n hh hq hm => ?_, fun w mr hh hq hl hm => ?_⟩, ⟨_, rfl, fun h => ?_, fun hh hr hl ht hv ho =>
      class0Preemption_takes hn hh hr hl ht hv ho⟩⟩
  · rw [State.admitRecord, h]
  · rw [State.admitRecord, h]
    exact if_pos (by rw [Bool.not_eq_true']; exact ht)
  · rw [State.place, h]
  · rw [State.place, hh]
    dsimp only
    rw [State.takePlace, hq]
    dsimp only
    rw [State.startAt, hm]
  · obtain ⟨hlaunch, hcores⟩ := launchPlace_starts hh hq hl hm
    refine ⟨hlaunch, fun c hc h384 => ?_⟩
    obtain ⟨hb, hvault⟩ := hcores c hc h384
    exact ⟨hb.launch, hb.asPc, hb.xsPc, hb.asRun, hb.xsRun, hvault, hb.regs, hb.mode⟩
  · rw [State.class0Preempt, h]

end Sys2Proof.Machine
end
section
/-! Launches as they finish: the completion record, the cores given up, and what stays (R46, R63, R64, R229). -/

namespace Sys2Proof.Machine

/-! ### What the end of a launch leaves of the device -/

/-- A launch winds up: the PF's registers and the shadow pages stay, numbers only grow, and a core keeps its launch or is free. -/
structure Winds (s t : State) : Prop where
  pf : t.pf = s.pf
  shadows : t.shadows = s.shadows
  newer : s.nextId ≤ t.nextId
  freed : ∀ c, (t.core c).launch = (s.core c).launch ∨ (t.core c).launch = none

namespace Winds
variable {s t u : State}

theorem refl (s : State) : Winds s s := ⟨rfl, rfl, Nat.le_refl _, fun _ => .inl rfl⟩

theorem trans (a : Winds s t) (b : Winds t u) : Winds s u :=
  ⟨b.pf.trans a.pf, b.shadows.trans a.shadows, a.newer.trans b.newer, fun c => by
    rcases b.freed c with h | h
    · rw [h]; exact a.freed c
    · exact .inr h⟩

theorem of_accesses {c : Option Nat} (a : Accesses c s t) : Winds s t :=
  ⟨a.pf, a.shadows, a.newer, fun d => .inl (congrArg Core.launch (a.core d) :)⟩

theorem foldl {α : Type} {f : State → α → State} (h : ∀ s x, Winds s (f s x)) (l : List α) (s : State) : Winds s (l.foldl f s) := by
  induction l generalizing s with
  | nil => exact .refl s
  | cons x l ih => exact (h s x).trans (ih _)

theorem of_modCores {cs : List Nat} {f : Core → Core} (hf : ∀ k, (f k).launch = k.launch) : Winds s (s.modCores cs f) := by
  refine ⟨?_, ?_, ?_, fun c => .inl (State.core_modCores_keeps Core.launch hf s cs c)⟩
  · rw [State.modCores_device]
  · rw [State.modCores_device]
  · rw [State.modCores_device]

end Winds

theorem State.launch?_none_iff (s : State) (id : Nat) : s.launch? id = none ↔ id ∉ s.launches.map Launch.id := by
  simp [State.launch?]

theorem State.modLaunch_ids (s : State) (id : Nat) {f : Launch → Launch} (hf : ∀ l, (f l).id = l.id) :
    (s.modLaunch id f).launches.map Launch.id = s.launches.map Launch.id := map_modFirst hf s.launches

theorem State.modLaunch_winds (s : State) (id : Nat) (f : Launch → Launch) : Winds s (s.modLaunch id f) :=
  ⟨rfl, rfl, Nat.le_refl _, fun _ => .inl rfl⟩

/-- A pre-emption request changes no number of a launch. -/
theorem State.requestPreempt_winds (s : State) (id : Nat) : Winds s (s.requestPreempt id) ∧
    (s.requestPreempt id).launches.map Launch.id = s.launches.map Launch.id := by
  unfold State.requestPreempt
  split
  · exact ⟨.refl s, rfl⟩
  · split
    · exact ⟨.refl s, rfl⟩
    · split
      · exact ⟨.refl s, rfl⟩
      · refine ⟨(s.modLaunch_winds _ _).trans (.of_modCores fun _ => rfl), ?_⟩
        rw [State.modCores_launches]
        exact s.modLaunch_ids id fun _ => rfl

theorem State.enforce_winds (s : State) : Winds s s.enforce ∧ s.enforce.launches.map Launch.id = s.launches.map Launch.id := by
  unfold State.enforce
  extract_lets t
  have ht : Winds s t := .foldl (fun s (l : Launch) => (s.requestPreempt_winds l.id).1) _ s
  have hids : t.launches.map Launch.id = s.launches.map Launch.id :=
    State.foldl_keeps (f := fun s (l : Launch) => s.requestPreempt l.id) (fun s => s.launches.map Launch.id)
      (fun s l => (s.requestPreempt_winds l.id).2) _ s
  exact ⟨⟨ht.pf, ht.shadows, ht.newer, ht.freed⟩, hids⟩

theorem State.letIn_winds (s : State) (fn : Nat) : Winds s (s.letIn fn) := by
  rcases s.letIn_cases fn with e | ⟨l, -, e⟩
  · rw [e]
    exact .refl s
  · rw [e]
    exact ⟨rfl, rfl, Nat.le_succ _, fun _ => .inl rfl⟩

/-- A launch that is dropped is gone: what a port lets in has a number of its own. -/
theorem State.dropLaunch_gone {s : State} {l : Launch} (h : l.id < s.nextId) : Winds s (s.dropLaunch l) ∧ (s.dropLaunch l).launch? l.id = none := by
  unfold State.dropLaunch
  extract_lets t u
  have ht : Winds s t := ⟨rfl, rfl, Nat.le_refl _, fun _ => .inl rfl⟩
  have hgone : l.id ∉ t.launches.map Launch.id := by simp [t]
  have hu : Winds t u ∧ u.launches = t.launches ∧ u.nextId = t.nextId := by
    simp only [u]
    split
    · exact ⟨.refl t, rfl, rfl⟩
    · exact ⟨⟨rfl, rfl, Nat.le_refl _, fun _ => .inl rfl⟩, rfl, rfl⟩
  obtain ⟨hwu, hlu, hnu⟩ := hu
  have hlet : l.id ∉ (u.letIn l.fn).launches.map Launch.id := by
    rcases u.letIn_cases l.fn with e | ⟨y, hy, e⟩
    · rw [e, hlu]
      exact hgone
    · rw [e]
      dsimp only
      rw [hlu, List.map_append, List.mem_append, List.map_singleton, List.mem_singleton, hy, hnu]
      exact not_or.2 ⟨hgone, Nat.ne_of_lt h⟩
  obtain ⟨hwe, hide⟩ := (u.letIn l.fn).enforce_winds
  refine ⟨((ht.trans hwu).trans (u.letIn_winds l.fn)).trans hwe, ?_⟩
  rw [State.launch?_none_iff, hide]
  exact hlet

/-! ### The completion record -/

/-- A launch has left the device, or its completion record waits for an extent miss. -/
def State.Closed (s : State) (id : Nat) : Prop := s.launch? id = none ∨ ∃ m q, s.launch? id = some q ∧ q.state = .recording m

theorem State.recordEvent_accesses (c : Option Nat) (s : State) (l : Launch) : Accesses c s (s.recordEvent l) :=
  State.postEvent_accesses _ _ _ _ _ _ _ _ _

theorem State.dropLaunch_after {c : Option Nat} {s t : State} {l : Launch} (h : l.id < s.nextId) (ha : Accesses c s t) :
    Winds s (t.dropLaunch l) ∧ (t.dropLaunch l).launch? l.id = none :=
  have hd := State.dropLaunch_gone (Nat.lt_of_lt_of_le h ha.newer)
  ⟨(Winds.of_accesses ha).trans hd.1, hd.2⟩

theorem Launch.flagD_device (l : Launch) : l.device.flagD = false := by
  simp [Launch.device, Launch.flagD, bt, lineWord, setBit]

/-- The record's bytes are written for the launch. -/
theorem State.writeRecord_store {s t : State} {l : Launch} {ps : List Piece} {bs : List Byte} :
    Accesses (s.launchMem l).x.core t ((t.writePieces (s.launchMem l) (bf l.cptr 56 0) false ps bs).getD t) := by
  cases h : t.writePieces (s.launchMem l) (bf l.cptr 56 0) false ps bs with
  | none => exact .refl _ t
  | some u => exact State.writePieces_accesses l.flagD_device h

theorem State.writeRecord_closes {s : State} {l x : Launch} (h : l.id < s.nextId) (hx : s.launch? l.id = some x) :
    Winds s (s.writeRecord l) ∧ (s.writeRecord l).Closed l.id := by
  have hc := s.checkStore_accesses (s.launchMem l) l.cptr 16 false
  have hdrop {t : State} (ha : Accesses (s.launchMem l).x.core s t) : Winds s (t.dropLaunch l) ∧ (t.dropLaunch l).Closed l.id :=
    have hd := State.dropLaunch_after h ha
    ⟨hd.1, .inl hd.2⟩
  unfold State.writeRecord
  split
  · exact hdrop (s.recordEvent_accesses _ l)
  · split <;> rename_i e <;> rw [e] at hc
    · exact hdrop (hc.trans (State.recordEvent_accesses _ _ l))
    · next t f g =>
      have hm := hc.trans (t.reportMiss_accesses _ f g (some l.id) 0 none)
      obtain ⟨y, hy, -⟩ := hm.found hx
      have hq := State.launch?_modLaunch (t.reportMiss f g (some l.id) 0 none).2 l.id
        (f := fun x => { x with state := .recording (t.reportMiss f g (some l.id) 0 none).1, excused := l.excused }) (fun _ => rfl)
      rw [hy, Option.map_some] at hq
      exact ⟨(Winds.of_accesses hm).trans (State.modLaunch_winds _ _ _), .inr ⟨_, _, hq, rfl⟩⟩
    · split
      · exact hdrop (s.recordEvent_accesses _ l)
      · exact hdrop (hc.trans State.writeRecord_store)

theorem State.finishLaunch_closes {s : State} {id : Nat} (h : id < s.nextId) : Winds s (s.finishLaunch id) ∧ (s.finishLaunch id).Closed id := by
  unfold State.finishLaunch
  split
  · next hn => exact ⟨.refl s, .inl hn⟩
  · next l hl =>
    have hid : l.id = id := State.launch?_id hl
    extract_lets late t u y
    have ht : Accesses none s t := by
      simp only [t]
      split
      · exact s.modFn_accesses none _ _
      · exact .refl none s
    have hu : Accesses none s u := by
      refine ht.trans ?_
      simp only [u]
      split
      · exact State.postEvent_accesses _ _ _ _ _ _ _ _ _
      · exact .refl none t
    obtain ⟨x, hx, -⟩ := hu.found hl
    have hyid : y.id = id := hid
    have hy : (u.modLaunch id fun _ => y).launch? id = some y := State.launch?_replace hx hid
    have hnext : id < (u.modLaunch id fun _ => y).nextId := Nat.lt_of_lt_of_le h hu.newer
    rw [← hyid] at hy hnext
    obtain ⟨hw, hcl⟩ := State.writeRecord_closes hnext hy
    rw [hyid] at hw hcl
    exact ⟨(Winds.of_accesses hu).trans ((u.modLaunch_winds _ _).trans hw), hcl⟩

/-! ### Cores given up -/

theorem State.raiseWraps_winds (s : State) (c : Nat) : Winds s (s.raiseWraps c) := .of_accesses (s.raiseWraps_accesses c)

theorem State.modCore_freed_winds (s : State) (c : Nat) : Winds s (s.modCore c Core.freed) := by
  refine ⟨rfl, rfl, Nat.le_refl _, fun d => ?_⟩
  by_cases hd : d = c
  · subst hd
    by_cases h384 : d < 384
    · rw [State.core_modCore _ _ _ _ h384, if_pos rfl]
      exact .inr rfl
    · rw [State.core_beyond _ (Nat.le_of_not_lt h384), State.core_beyond _ (Nat.le_of_not_lt h384)]
      exact .inl rfl
  · rw [State.core_modCore_ne _ _ hd]
    exact .inl rfl

/-- One core of a launch is given up. -/
def State.releaseCore (s : State) (c : Nat) : State :=
  let s := s.raiseWraps c
  let s := s.modCore c Core.freed
  { s with idleSince := SMap.insert s.idleSince c s.cycle }

theorem State.releaseCore_winds (s : State) (c : Nat) : Winds s (s.releaseCore c) :=
  (s.raiseWraps_winds c).trans (((s.raiseWraps c).modCore_freed_winds c).trans ⟨rfl, rfl, Nat.le_refl _, fun _ => .inl rfl⟩)

theorem State.releaseCore_ne (s : State) (c d : Nat) (hd : d ≠ c) : (s.releaseCore c).core d = s.core d :=
  (State.core_modCore_ne (s.raiseWraps c) Core.freed hd).trans ((s.raiseWraps_accesses c).others d fun e => hd (Option.some.inj e).symm)

/-- The cores of a launch are free once they are released, and no number of a launch changes. -/
theorem State.releaseCores_frees (s : State) (l : Launch) : Winds s (s.releaseCores l) ∧
    ∀ c ∈ l.allCores, c < 384 → ((s.releaseCores l).core c).launch ≠ some l.id := by
  have heq : s.releaseCores l = (l.allCores.filter fun c => (s.core c).launch == some l.id).foldl State.releaseCore s := rfl
  rw [heq]
  refine ⟨.foldl State.releaseCore_winds _ s, fun c hc h384 => ?_⟩
  by_cases hl : (s.core c).launch = some l.id
  · have hnone := State.core_foldl_reached (f := State.releaseCore) State.releaseCore_ne (P := fun k => k.launch = none)
      (l := l.allCores.filter fun c => (s.core c).launch == some l.id) (fun t c hc => by
        rw [State.releaseCore]
        exact congrArg Core.launch ((State.core_modCore (t.raiseWraps c) c c Core.freed hc).trans (if_pos rfl)))
      h384 (s := s) (.inl (List.mem_filter.2 ⟨hc, by simp [hl]⟩))
    rw [hnone]
    simp
  · rw [State.core_foldl_ne (f := State.releaseCore) (key := fun c => c) (fun t a d hd => t.releaseCore_ne a d hd)]
    · exact hl
    · rw [List.map_id']
      exact fun hm => hl (by simpa using (List.mem_filter.1 hm).2)

theorem State.consumed_winds (s : State) (l : Launch) : Winds s (s.consumed l) := by
  unfold State.consumed
  split
  · exact s.modLaunch_winds _ _
  · exact .refl s

/-- A core of a launch that has wound up. -/
theorem Winds.still_freed {s t : State} (h : Winds s t) {c id : Nat} (hc : (s.core c).launch ≠ some id) : (t.core c).launch ≠ some id := by
  rcases h.freed c with e | e
  · rw [e]; exact hc
  · rw [e]; simp

/-! ### A launch that has drained, or that the tracker holds -/

/-- Shadow pages go back to their pools, and nothing else of what winds up changes. -/
theorem State.returnShadows_eq (s : State) (l : Launch) : s.returnShadows l =
    { s with shadows := s.shadows.filter fun p => p.launch != l.id, shPool := (s.returnShadows l).shPool } := by
  have h (ps : List ShadowPage) (t : State) : ps.foldl (fun (s : State) p => { s with
      shPool := SMap.insert s.shPool (2 * l.fn + b2n p.copy1) (s.poolOf l.fn p.copy1 ++ [p.new]) }) t =
        { t with shPool := (ps.foldl (fun (s : State) p => { s with
          shPool := SMap.insert s.shPool (2 * l.fn + b2n p.copy1) (s.poolOf l.fn p.copy1 ++ [p.new]) }) t).shPool } := by
    induction ps generalizing t with
    | nil => rfl
    | cons p ps ih =>
      rw [List.foldl_cons, ih]
  exact h _ _

section
variable {s : State} {l : Launch} (hl : s.launch? l.id = some l) (hid : l.id < s.nextId)
include hl hid

theorem drainDone_closes (hst : l.state = .draining) (hd : s.drained l = true) (hp : ¬(l.flagD = true ∧ l.status = .ok)) :
    (∀ c ∈ l.allCores, c < 384 → ((s.drainDone l.id).core c).launch ≠ some l.id) ∧ (s.drainDone l.id).Closed l.id := by
  have heq : s.drainDone l.id = (((s.consumed l).releaseCores l).returnShadows l).finishLaunch l.id := by
    unfold State.drainDone
    rw [hl]
    dsimp only
    rw [hst]
    refine if_neg fun h => hp ?_
    simpa [hd] using h
  obtain ⟨hw, hfree⟩ := (s.consumed l).releaseCores_frees l
  have hnext : l.id < (((s.consumed l).releaseCores l).returnShadows l).nextId := by
    rw [State.returnShadows_eq]
    exact Nat.lt_of_lt_of_le hid ((s.consumed_winds l).trans hw).newer
  obtain ⟨hfin, hcl⟩ := State.finishLaunch_closes hnext
  rw [heq]
  refine ⟨fun c hc h384 => hfin.still_freed ?_, hcl⟩
  rw [State.returnShadows_eq]
  exact hfree c hc h384

omit hid in
theorem drainDone_waits (hst : l.state = .draining) (hd : s.drained l = false) : s.drainDone l.id = s := by
  unfold State.drainDone
  rw [hl]
  dsimp only
  rw [hst]
  exact if_pos (by simp [hd])

theorem trackerDone_closes (hst : l.state = .tracker) (hc : l.leftC = []) (hg : l.leftG = []) (ha : s.acked l = true) :
    (s.trackerDone l.id).Closed l.id := by
  have heq : s.trackerDone l.id = s.finishLaunch l.id := by
    unfold State.trackerDone
    rw [hl]
    exact if_pos ⟨hst, by simp [hc], by simp [hg], ha⟩
  rw [heq]
  exact (State.finishLaunch_closes hid).2

omit hid in
theorem trackerDone_waits (h : l.leftC ≠ [] ∨ l.leftG ≠ [] ∨ s.acked l = false) : s.trackerDone l.id = s := by
  unfold State.trackerDone
  rw [hl]
  refine if_neg ?_
  rintro ⟨-, hc, hg, ha⟩
  rcases h with h | h | h
  · exact h (by simpa using hc)
  · exact h (by simpa using hg)
  · rw [h] at ha
    cases ha

end

/-! ### Paired launches -/

theorem State.guestPage_winds (s : State) (fn page : Nat) : Winds s (s.guestPage fn page).2 := by
  unfold State.guestPage
  split
  · exact .refl s
  · dsimp only
    split
    · exact .refl s
    · exact ⟨rfl, rfl, Nat.le_refl _, fun _ => .inl rfl⟩

theorem State.invalidate_winds (s : State) (fn lo hi : Nat) : Winds s (s.invalidate fn lo hi) := by
  refine ⟨rfl, rfl, Nat.le_refl _, fun c => .inl ?_⟩
  by_cases h : c < 384
  · unfold State.invalidate State.mapCores State.core
    dsimp only
    rw [vget_vmapi _ Core.reset _ _ _ h]
  · rw [State.core_beyond _ (Nat.le_of_not_lt h), State.core_beyond _ (Nat.le_of_not_lt h)]

theorem State.commitShadow_winds (s : State) (l : Launch) (p : ShadowPage) : Winds s (s.commitShadow l p) := by
  unfold State.commitShadow
  dsimp only
  split
  · split
    · refine Winds.trans ?_ (State.invalidate_winds _ _ _ _)
      have hw : Winds s (s.walkRequests (s.launchCtx l) (4096 * p.va)) := .of_accesses (State.walkRequests_accesses none _ _ _)
      refine (hw.trans (State.guestPage_winds _ l.fn p.new)).trans ?_
      exact .of_accesses (((State.tableRequest_accesses none _ _ _).trans (State.dirtied_accesses none _ _ _)).trans
        (State.rawWrite_accesses none _ _ _))
    · exact .refl s
  · exact .refl s

section
variable {s : State} {l : Launch} (hl : s.launch? l.id = some l)
include hl

theorem pairedDone_waits (h : l.state ≠ .draining ∨ l.flagD = false ∨ l.status ≠ .ok ∨ s.drained l = false ∨ (∃ m ∈ s.misses, m.launch = some l.id)) :
    s.pairedDone l.id = s := by
  unfold State.pairedDone
  rw [hl]
  refine if_pos ?_
  simp only [Bool.or_eq_true, decide_eq_true_eq, Bool.not_eq_true', bne_iff_ne, List.any_eq_true, beq_iff_eq]
  tauto

theorem pairedDone_eq (hst : l.state = .draining) (hf : l.flagD = true) (hok : l.status = .ok) (hd : s.drained l = true)
    (hm : ∀ m ∈ s.misses, m.launch ≠ some l.id) (hc : ∀ p ∈ s.shadows, p.launch = l.id → p.copy1 = false → s.commitMiss l p = none) :
    let u := (s.consumed l).releaseCores l
    let p0 := u.shadows.filter fun p => p.launch == l.id && !p.copy1
    let p1 := u.shadows.filter fun p => p.launch == l.id && p.copy1
    let v := p0.foldl (fun s p => s.commitShadow l p) u
    let w := ((u.returnShadows l).modLaunch l.id fun l => { l with status := .mismatch }).finishLaunch l.id
    s.pairedDone l.id =
      if (s.signature l.id false == s.signature l.id true) = true then
        ((({ v with shadows := v.shadows.filter fun p => p.launch != l.id } : State).toPool l.fn false (p0.map ShadowPage.old)).toPool l.fn true
          (p1.map ShadowPage.new)).finishLaunch l.id
      else if bt (w.pfReg 0x24210) 2 = true then { w with frozen := true } else w := by
  have hgo : ¬(decide (l.state ≠ .draining) || !l.flagD || l.status != .ok || !s.drained l || s.misses.any fun m => m.launch == some l.id) = true := by
    simpa [hst, hf, hok, hd] using hm
  have hnone : (if (s.signature l.id false == s.signature l.id true) = true then
      (s.shadows.filter fun p => p.launch == l.id && !p.copy1).findSome? (s.commitMiss l) else none) = none := by
    split
    · rw [List.findSome?_eq_none_iff]
      intro p hp
      obtain ⟨hmem, hp⟩ := List.mem_filter.1 hp
      simp only [Bool.and_eq_true, beq_iff_eq, Bool.not_eq_true'] at hp
      exact hc p hmem hp.1 hp.2
    · rfl
  intro u p0 p1 v w
  unfold State.pairedDone
  rw [hl]
  dsimp only
  rw [if_neg hgo, hnone]

omit hl in
/-- A launch whose shadow pages have gone back finishes, and its cores stay free. -/
theorem finishLaunch_settles {u : State} (hid : l.id < u.nextId) (hsh : u.shadows = s.shadows.filter fun p => p.launch != l.id)
    (hpf : u.pf = s.pf) (hfree : ∀ c ∈ l.allCores, c < 384 → (u.core c).launch ≠ some l.id) :
    (∀ c ∈ l.allCores, c < 384 → ((u.finishLaunch l.id).core c).launch ≠ some l.id) ∧ (u.finishLaunch l.id).Closed l.id ∧
    (u.finishLaunch l.id).shadows = (s.shadows.filter fun p => p.launch != l.id) ∧ (u.finishLaunch l.id).pf = s.pf := by
  obtain ⟨hw, hcl⟩ := State.finishLaunch_closes hid
  exact ⟨fun c hc h384 => hw.still_freed (hfree c hc h384), hcl, hw.shadows.trans hsh, hw.pf.trans hpf⟩

theorem pairedDone_closes (hid : l.id < s.nextId) (hst : l.state = .draining) (hf : l.flagD = true) (hok : l.status = .ok) (hd : s.drained l = true)
    (hm : ∀ m ∈ s.misses, m.launch ≠ some l.id) (hc : ∀ p ∈ s.shadows, p.launch = l.id → p.copy1 = false → s.commitMiss l p = none) :
    (∀ c ∈ l.allCores, c < 384 → ((s.pairedDone l.id).core c).launch ≠ some l.id) ∧ (s.pairedDone l.id).Closed l.id ∧
    (s.pairedDone l.id).shadows = (s.shadows.filter fun p => p.launch != l.id) ∧
    (s.signature l.id false ≠ s.signature l.id true → (s.pfReg 0x24210).getLsbD 2 = true → (s.pairedDone l.id).frozen = true) := by
  obtain ⟨hrel, hfree⟩ := (s.consumed l).releaseCores_frees l
  have hu := (s.consumed_winds l).trans hrel
  rw [pairedDone_eq hl hst hf hok hd hm hc]
  generalize (s.consumed l).releaseCores l = u at hu hfree ⊢
  by_cases hs : s.signature l.id false = s.signature l.id true
  · rw [if_pos (by simpa using hs)]
    have hv : Winds u ((u.shadows.filter fun p => p.launch == l.id && !p.copy1).foldl (fun s p => s.commitShadow l p) u) :=
      .foldl (fun s p => s.commitShadow_winds l p) _ u
    generalize (u.shadows.filter fun p => p.launch == l.id && !p.copy1).foldl (fun s p => s.commitShadow l p) u = v at hv ⊢
    have huv := hu.trans hv
    obtain ⟨h1, h2, h3, -⟩ := finishLaunch_settles (s := s) (l := l)
      (u := (({ v with shadows := v.shadows.filter fun p => p.launch != l.id } : State).toPool l.fn false
        ((u.shadows.filter fun p : ShadowPage => p.launch == l.id && !p.copy1).map ShadowPage.old)).toPool l.fn true
          ((u.shadows.filter fun p : ShadowPage => p.launch == l.id && p.copy1).map ShadowPage.new))
      (Nat.lt_of_lt_of_le hid huv.newer) (congrArg (List.filter fun p : ShadowPage => p.launch != l.id) huv.shadows) huv.pf
      (fun c hc h384 => hv.still_freed (hfree c hc h384))
    exact ⟨h1, h2, h3, fun hne => absurd hs hne⟩
  · rw [if_neg (by simpa using hs)]
    obtain ⟨h1, h2, h3, h4⟩ := finishLaunch_settles (s := s) (l := l)
      (u := (u.returnShadows l).modLaunch l.id fun l => { l with status := .mismatch })
      (by rw [State.returnShadows_eq]; exact Nat.lt_of_lt_of_le hid hu.newer)
      (by rw [State.returnShadows_eq]; exact congrArg (List.filter fun p : ShadowPage => p.launch != l.id) hu.shadows)
      (by rw [State.returnShadows_eq]; exact hu.pf)
      (by rw [State.returnShadows_eq]; exact hfree)
    generalize ((u.returnShadows l).modLaunch l.id fun l => { l with status := .mismatch }).finishLaunch l.id = w at h1 h2 h3 h4 ⊢
    split
    · exact ⟨h1, h2, h3, fun _ _ => rfl⟩
    · next hno =>
      refine ⟨h1, h2, h3, fun _ hb => absurd ?_ hno⟩
      rw [State.pfReg, h4]
      exact hb

end

end Sys2Proof.Machine
end
section
/-! The bytes of a completion record: a store that meets no poison changes memory by its pieces alone (R46, R128, R134, R138). -/

namespace Sys2Proof.Machine

/-! ### Lines and blocks -/

theorem block_of_line {a n x : Nat} (h : x ∈ linesOf a n) : 64 * x / 256 ∈ blocksOf a n := by
  simp only [linesOf, blocksOf, List.mem_map, List.mem_range] at h ⊢
  obtain ⟨i, hi, rfl⟩ := h
  exact ⟨64 * (a / 64 + i) / 256 - a / 256, by omega, by omega⟩

theorem blocksOf_mono {a m n b : Nat} (hmn : m ≤ n) (h : b ∈ blocksOf a m) : b ∈ blocksOf a n := by
  simp only [blocksOf, List.mem_map, List.mem_range] at h ⊢
  obtain ⟨i, hi, rfl⟩ := h
  have hd : (a + max m 1 - 1) / 256 ≤ (a + max n 1 - 1) / 256 := Nat.div_le_div_right (by omega)
  exact ⟨i, by omega, rfl⟩

theorem State.memPois_of_sound {s : State} {a n b : Nat} (h : s.poisonAt a n = none) (hb : b ∈ blocksOf a n) : SMap.find? s.memPois b = none := by
  unfold State.poisonAt at h
  split at h
  · cases h
  · next hn =>
    rw [List.findSome?_eq_none_iff] at hn
    exact Option.map_eq_none_iff.1 (hn b hb)

/-! ### What leaves memory and its poison -/

/-- Where no line of an MSC holds a poisoned word, memory and its poison stay, and none holds one afterwards. -/
def Untouched (s t : State) : Prop := s.CleanMsc → t.mem = s.mem ∧ t.memPois = s.memPois ∧ t.CleanMsc

section
variable {s t u : State}

theorem Untouched.refl (s : State) : Untouched s s := fun h => ⟨rfl, rfl, h⟩

theorem Untouched.trans (a : Untouched s t) (b : Untouched t u) : Untouched s u := fun h => by
  obtain ⟨hm, hp, hc⟩ := a h
  obtain ⟨hm', hp', hc'⟩ := b hc
  exact ⟨hm'.trans hm, hp'.trans hp, hc'⟩

/-- A change of neither memory, its poison nor an MSC. -/
theorem Untouched.of_same (hm : t.mem = s.mem) (hp : t.memPois = s.memPois) (hc : t.msc = s.msc) : Untouched s t :=
  fun h => ⟨hm, hp, fun leaf l hl => h leaf l (by rwa [State.mscOf, hc] at hl)⟩

/-- Lines without poison take the place of an MSC's. -/
theorem Untouched.of_msc {leaf : Nat} {ls : List MscLine} (h : s.CleanMsc → ∀ l ∈ ls, l.pois = 0) :
    Untouched s { s with msc := vset s.msc leaf ls } := fun hc => ⟨rfl, rfl, fun j l hl => by
  by_cases hj : leaf = j
  · subst hj
    by_cases h2 : leaf < 2
    · rw [State.mscOf, vget_vset_same _ _ _ _ h2] at hl
      exact h hc l hl
    · rw [State.mscOf] at hl
      simp [vget, h2] at hl
  · rw [State.mscOf, vget_vset_ne _ _ _ _ _ hj] at hl
    exact hc j l hl⟩

theorem State.hbmRequest_untouched (s : State) (pa bytes fn cls : Nat) (stamp : BitVec 16) : Untouched s (s.hbmRequest pa bytes fn cls stamp) :=
  .of_same rfl rfl rfl

theorem State.launchRequest_untouched (s : State) (l : Launch) (fn pa n : Nat) : Untouched s (s.launchRequest l fn pa n) := by
  unfold State.launchRequest State.charge
  split
  · exact .of_same rfl rfl rfl
  · exact .of_same rfl rfl rfl

theorem State.dropMsc_untouched (s : State) (leaf : Nat) (out : MscLine → Bool) (fn : Nat) (st : Nat × BitVec 16) :
    Untouched s (s.dropMsc leaf out fn st) := by
  intro hc
  unfold State.dropMsc
  extract_lets ls blks clean u
  have hdirty : (ls.filter fun l => l.old.isSome && l.pois != 0 && blks.contains (l.addr / 256)) = [] := by
    rw [List.filter_eq_nil_iff]
    intro l hl
    simp [hc leaf l hl]
  have hu : u = { s with msc := vset s.msc leaf ((ls.filter fun l => !out l).map clean) } := by
    simp only [u, hdirty, List.foldl_nil]
  have hclean : ∀ l ∈ (ls.filter fun l => !out l).map clean, l.pois = 0 := by
    intro l hl
    obtain ⟨x, hx, rfl⟩ := List.mem_map.1 hl
    have hx0 := hc leaf x (List.mem_filter.1 hx).1
    simp only [clean]
    split
    · exact hx0
    · exact hx0
  have hfold (bs : List Nat) (t : State) : Untouched t (bs.foldl (fun s b => s.hbmRequest (256 * b) 256 fn st.1 st.2) t) := by
    induction bs generalizing t with
    | nil => exact .refl t
    | cons b bs ih => exact (t.hbmRequest_untouched _ _ _ _ _).trans (ih _)
  refine (Untouched.trans (t := u) ?_ (hfold blks u)) hc
  rw [hu]
  exact .of_msc fun _ => hclean

theorem State.makeRoom_untouched (s : State) (leaf set fn : Nat) (st : Nat × BitVec 16) : Untouched s (s.makeRoom leaf set fn st).1 := by
  unfold State.makeRoom
  dsimp only
  split
  · exact .refl s
  · split
    · exact .refl s
    · split
      · exact .refl s
      · exact s.dropMsc_untouched _ _ _ _

theorem State.fillBlock_untouched {v : Use} {fn : Nat} {st : Nat × BitVec 16} {pa : Nat} (h : s.fillBlock v fn st pa = some t) : Untouched s t := by
  unfold State.fillBlock at h
  extract_lets leaf r at h
  have hr : Untouched s r.1 := by
    simp only [r]
    split
    · exact .refl s
    · exact s.makeRoom_untouched _ _ _ _
  obtain ⟨w, -, rfl⟩ := Option.map_eq_some_iff.1 h
  refine hr.trans (.of_msc fun hc l hl => ?_)
  have hold : ∀ l ∈ r.1.mscOf leaf, l.pois = 0 := hc leaf
  split at hl
  · rcases List.mem_append.1 hl with hl | hl
    · obtain ⟨a, -, rfl⟩ := List.mem_map.1 hl
      rfl
    · exact hold l hl
  · rcases List.mem_append.1 hl with hl | hl
    · exact hold l hl
    · obtain ⟨a, -, rfl⟩ := List.mem_map.1 hl
      rfl

/-- A write passes through the MSC of a block that has no poison. -/
theorem State.useLine_untouched (s : State) (v : Use) (fn : Nat) (l : Launch) (c : Option Nat) {pa : Nat}
    (h : SMap.find? s.memPois (pa / 256) = none) : Untouched s (s.useLine v fn l c true pa) := by
  unfold State.useLine
  extract_lets line leaf ls st mine count reads one
  have hcount (t : State) (b : Bool) (ev n : Nat) : Untouched t (count t b ev n) := by
    simp only [count]
    cases c with
    | none => exact .refl t
    | some c =>
      dsimp only
      split
      · exact .of_same rfl rfl rfl
      · exact .refl t
  have hone (t : State) : Untouched t (one t) := t.launchRequest_untouched l fn pa 64
  split
  · exact .refl s
  · split
    · exact (s.dropMsc_untouched _ _ _ _).trans (hone _)
    · split
      · next x hx =>
        refine Untouched.trans (.of_msc fun hc => ?_) (hcount _ _ _ _)
        have hx' : x ∈ s.mscOf leaf := List.mem_of_find?_eq_some hx
        have hrest : ∀ y ∈ ls.filter (fun x => x.addr != line), y.pois = 0 := fun y hy => hc leaf y (List.mem_filter.1 hy).1
        split
        · exact List.forall_mem_cons.2 ⟨hc leaf x hx', hrest⟩
        · exact List.forall_mem_append.2 ⟨hrest, by simpa using hc leaf x hx'⟩
      · split
        · exact (hcount s mine 6 1).trans (hone _)
        · split
          · exact (hcount s mine 6 1).trans (hone _)
          · next w hfill =>
            intro hc
            have hall := (((hcount s mine 6 1).trans (State.fillBlock_untouched hfill)).trans (w.launchRequest_untouched l fn pa 256)).trans
              (hcount (w.launchRequest l fn pa 256) true 7 (reads 4))
            have hpois := (hall hc).2.1
            rw [State.readBlock, hpois, h]
            exact hall hc

/-- A write passes through the MSCs of blocks that have no poison. -/
theorem State.useLines_untouched (s : State) (v : Use) (fn : Nat) (l : Launch) (c : Option Nat) {a n : Nat}
    (h : ∀ b ∈ blocksOf a n, SMap.find? s.memPois b = none) : Untouched s (s.useLines v fn l c true a n) := by
  have key : ∀ (xs : List Nat) (t : State), (∀ x ∈ xs, SMap.find? t.memPois (64 * x / 256) = none) →
      Untouched t (xs.foldl (fun s x => s.useLine v fn l c true (64 * x)) t) := by
    intro xs
    induction xs with
    | nil => exact fun t _ => .refl t
    | cons x xs ih =>
      intro t ht hc
      have hx := t.useLine_untouched v fn l c (ht x (List.mem_cons_self ..))
      have hp := (hx hc).2.1
      exact (hx.trans (ih _ fun y hy => by rw [hp]; exact ht y (List.mem_cons_of_mem _ hy))) hc
  exact key _ s fun x hx => h _ (block_of_line hx)

/-! ### The pieces of a store -/

theorem MscLine.wrote_clean (l : MscLine) (a n : Nat) (h : l.pois = 0) : l.wrote a n = 0 := by
  have key : ∀ is : List Nat, is.foldl (fun p i => if a ≤ l.addr + 8 * i ∧ l.addr + 8 * i + 8 ≤ a + n then setBit p i false else p)
      (0 : BitVec 8) = 0 := by
    intro is
    induction is with
    | nil => rfl
    | cons i is ih =>
      rw [List.foldl_cons]
      have hbit : setBit (0 : BitVec 8) i false = 0 := by simp [setBit]
      rw [hbit, ite_self]
      exact ih
  rw [MscLine.wrote, h]
  exact key _

/-- Bytes written where no block is poisoned. -/
theorem State.writePhys_clean (s : State) (owner : BitVec 8) (a : Nat) (bs : List Byte) (sec : Bool)
    (h : ∀ b ∈ blocksOf a bs.length, SMap.find? s.memPois b = none) (hc : s.CleanMsc) :
    (s.writePhys owner a bs sec).mem = s.mem.write a bs ∧ (s.writePhys owner a bs sec).memPois = s.memPois ∧
    (s.writePhys owner a bs sec).CleanMsc := by
  have hp : ∀ (xs : List Nat) , (∀ b ∈ xs, SMap.find? s.memPois b = none) → xs.foldl (fun m b =>
      match SMap.find? m b with
      | some p => let p := p.wrote b a bs.length; if p.left = 0 then SMap.erase m b else SMap.insert m b p
      | none => m) s.memPois = s.memPois := by
    intro xs
    induction xs with
    | nil => exact fun _ => rfl
    | cons b xs ih =>
      intro hb
      rw [List.foldl_cons, hb b (List.mem_cons_self ..)]
      exact ih fun y hy => hb y (List.mem_cons_of_mem _ hy)
  refine ⟨rfl, hp _ h, fun leaf l hl => ?_⟩
  by_cases h2 : leaf < 2
  · have hmsc : (s.writePhys owner a bs sec).mscOf leaf = _ := vget_vmapi [] [] s.msc _ leaf h2
    rw [hmsc] at hl
    obtain ⟨x, hx, rfl⟩ := List.mem_map.1 hl
    have hx0 : x.pois = 0 := hc leaf x hx
    split
    · exact x.wrote_clean _ _ hx0
    · exact hx0
  · rw [State.mscOf] at hl
    simp [vget, h2] at hl

/-- A store that meets no poison writes its pieces. -/
theorem State.writePieces_clean {m : MCtx} (hd : m.launch.flagD = false) (va : Nat) (sec : Bool) (ps : List Piece) (bs : List Byte)
    (hps : ∀ p ∈ ps, p.page.ca ≠ 3 ∧ ∀ b ∈ blocksOf p.pa p.len, SMap.find? s.memPois b = none) (hc : s.CleanMsc) :
    ∃ t, s.writePieces m va sec ps bs = some t ∧ t.mem = s.mem.storePieces ps bs := by
  induction ps generalizing s va bs with
  | nil => exact ⟨s, rfl, rfl⟩
  | cons p ps ih =>
    obtain ⟨hca, hp⟩ := hps p (List.mem_cons_self ..)
    obtain ⟨hm1, hp1, hc1⟩ := s.useLines_untouched (m.use p.page.ca) m.x.fn m.launch m.x.core hp hc
    rw [State.writePieces, if_neg fun h => hca h.1]
    simp only [hd, Bool.false_eq_true, if_false]
    generalize s.useLines (m.use p.page.ca) m.x.fn m.launch m.x.core true p.pa p.len = u at hm1 hp1 hc1 ⊢
    obtain ⟨hm2, hp2, hc2⟩ := u.writePhys_clean (if p.page.sh = true then 0 else ownerTag m.x.fn) p.pa (bs.take p.len) sec
      (fun b hb => by rw [hp1]; exact hp b (blocksOf_mono (by simp) hb)) hc1
    obtain ⟨t, ht, hmem⟩ := ih (s := u.writePhys (if p.page.sh = true then 0 else ownerTag m.x.fn) p.pa (bs.take p.len) sec)
      (va + p.len) (bs.drop p.len) (fun q hq => by
        rw [hp2, hp1]
        exact hps q (List.mem_cons_of_mem _ hq)) hc2
    refine ⟨t, ht, ?_⟩
    rw [hmem, hm2, hm1]
    rfl

end

theorem writeRecord_stores {s v : State} {l : Launch} {ps : List Piece} (hid : l.id < s.nextId) (hc : l.cptrOk = true)
    (hs : s.checkStore (s.launchMem l) l.cptr 16 false = .ok v ps) (hm : v.CleanMsc)
    (hps : ∀ p ∈ ps, p.page.ca ≠ 3 ∧ v.poisonAt p.pa p.len = none) :
    (s.writeRecord l).mem = v.mem.storePieces ps (v.completion l) ∧ (s.writeRecord l).launch? l.id = none := by
  have hacc := s.checkStore_accesses (s.launchMem l) l.cptr 16 false
  rw [hs] at hacc
  have hno : ¬(ps.any fun p => (v.poisonAt p.pa p.len).isSome) = true := by
    simpa using fun p hp => (hps p hp).2
  obtain ⟨t, ht, hmem⟩ := State.writePieces_clean (m := s.launchMem l) l.flagD_device (bf l.cptr 56 0) false ps (v.completion l)
    (fun p hp => ⟨(hps p hp).1, fun b hb => State.memPois_of_sound (hps p hp).2 hb⟩) hm
  have heq : s.writeRecord l = t.dropLaunch l := by
    unfold State.writeRecord
    rw [if_neg (not_not_of_true hc), hs]
    dsimp only
    rw [if_neg hno, ht]
    rfl
  rw [heq]
  refine ⟨(State.dropLaunch_mem t l).trans hmem, ?_⟩
  have hw := (State.writeRecord_store (s := s) (t := v) (l := l) (ps := ps) (bs := v.completion l))
  rw [ht] at hw
  exact (State.dropLaunch_after hid (hacc.trans hw)).2

/-- Settles O45: a launch finishes through what dropping it leaves, its cores through what releasing them leaves, and its record
through the store of its pieces. -/
theorem launchFinishes : Obligations.launchFinishes := by
  intro s v l ps closed freed hl hid
  refine ⟨fun hst hd hp => ⟨_, rfl, drainDone_closes hl hid hst hd hp⟩, fun hst hd => ?_,
    fun hst hc hg ha => ⟨_, rfl, trackerDone_closes hl hid hst hc hg ha⟩, fun _ h => ?_,
    fun hst hf hok hd hm hc => ⟨_, rfl, pairedDone_closes hl hid hst hf hok hd hm hc⟩, fun h => ?_,
    fun hc hs hm hps => writeRecord_stores hid hc hs hm hps⟩
  · exact congrArg Host.Outcome.next (drainDone_waits hl hst hd)
  · exact congrArg Host.Outcome.next (trackerDone_waits hl h)
  · exact congrArg Host.Outcome.next (pairedDone_waits hl h)

end Sys2Proof.Machine
end

section
/-! What the vector instructions share: frames, lanes, flags and draws of `State.mapLanes`, `State.orFlags` and
`State.advanceGen`, each said once (R14, R30, R78, R82). -/

namespace Sys2Proof.Machine

/-! ### Changes of the vector unit -/

theorem Writes.trans {u : RegUse} {s t r : State} (a : Writes u s t) (b : Writes u t r) : Writes u s r := by
  have hother := b.regs.other
  rw [a.outside.curSeq] at hother
  exact ⟨a.outside.trans b.outside, b.core.trans a.core, b.seq.trans a.seq, b.unit.trans a.unit,
    ⟨hother.trans a.regs.other, fun r hr => (b.regs.sRegs r hr).trans (a.regs.sRegs r hr),
      fun r hr => (b.regs.flags r hr).trans (a.regs.flags r hr), fun r hr => (b.regs.vRegs r hr).trans (a.regs.vRegs r hr),
      fun r hr => (b.regs.preds r hr).trans (a.regs.preds r hr), fun r hr => (b.regs.mRegs r hr).trans (a.regs.mRegs r hr)⟩,
    b.results.trans a.results⟩

theorem State.modX_cc (s : State) (g : XUnit → XUnit) : (s.modCC fun k => k.modX g).cc = s.cc.modX g := State.cc_modCC s _

theorem State.modX_x (s : State) (g : XUnit → XUnit) : (s.modCC fun k => k.modX g).cc.x = g s.cc.x := by
  rw [State.modX_cc]; rfl

/-- A change of the vector unit that writes only some vector registers. -/
theorem Writes.of_modX (u : RegUse) (s : State) (g : XUnit → XUnit) (hr : (g s.cc.x).rest = s.cc.x.rest)
    (hv : ∀ r, r ∉ u.vW → (g s.cc.x).rv r = s.cc.x.rv r) (hp : (g s.cc.x).p = s.cc.x.p) :
    Writes u s (s.modCC fun k => k.modX g) := by
  have hx := s.modX_x g
  have hseq (i : SeqId) : (s.modCC fun k => k.modX g).cc.seq i = s.cc.seq i := by rw [State.modX_cc, Core.seq_modX]
  have hsq : (s.modCC fun k => k.modX g).sq = s.sq := hseq _
  refine ⟨outside_modCC s _, by rw [State.modX_cc, Core.rest_modX], by rw [hsq], by rw [hx, hr],
    ⟨hseq _, fun r _ => by rw [State.rs, hsq]; rfl, fun r _ => by rw [State.rf, hsq]; rfl, fun r h => ?_, fun r _ => ?_,
      fun r _ => by rw [State.modX_cc]; rfl⟩, by rw [hsq]⟩
  · rw [State.rv, hx, hv r h]; rfl
  · rw [State.rp, hx, XUnit.rp, hp]; rfl

/-! ### Flags (R82) -/

theorem Raises.trans {s t r : State} {a b : Flags} (h : Raises s t a) (k : Raises t r b) : Raises s r (a ||| b) := by
  rw [Raises, k, h, BitVec.or_assoc]

/-- No flag is raised where VSTAT is as before. -/
theorem Raises.none {s t : State} (h : t.cc.x.settleAll.vstat = s.cc.x.settleAll.vstat) : Raises s t 0 :=
  h.trans BitVec.or_zero.symm

theorem Raises.retires {s t r : State} {pc : Word} {fl : Flags} (h : Raises s t fl) (k : Retires pc t r) : Raises s r fl :=
  k.vstat.trans h

/-- Flags settled early and the flags still to come are together all of them. -/
theorem foldl_or_filter (p : FlagPend → Bool) (l : List FlagPend) (v : Flags) :
    (l.filter fun e => !p e).foldl (fun v e => v ||| e.fl) (l.foldl (fun v e => if p e then v ||| e.fl else v) v) =
      l.foldl (fun v e => v ||| e.fl) v := by
  have hswap : ∀ (l : List FlagPend) (v w : Flags), l.foldl (fun v e => v ||| e.fl) (v ||| w) = l.foldl (fun v e => v ||| e.fl) v ||| w := by
    intro l
    induction l with
    | nil => exact fun _ _ => rfl
    | cons e l ih => exact fun v w => by rw [List.foldl_cons, List.foldl_cons, BitVec.or_assoc, BitVec.or_comm w, ← BitVec.or_assoc, ih]
  induction l generalizing v with
  | nil => rfl
  | cons e l ih =>
    rw [List.foldl_cons, List.foldl_cons, ← ih]
    cases h : p e
    · rw [List.filter_cons_of_pos (by simp [h]), List.foldl_cons]
      simp only [Bool.false_eq_true, if_false]
      rw [hswap, ih, ih, hswap]
    · rw [List.filter_cons_of_neg (by simp [h])]
      rfl

/-- The vector unit with flags of a result that is still to be written. -/
def XUnit.addFlags (now lat : Nat) (fl : Flags) (x : XUnit) : XUnit :=
  { x.settle now 1 with vflags := (x.settle now 1).vflags ++ [⟨now + lat, lat + 1, fl⟩] }

theorem XUnit.settleAll_addFlags (now lat : Nat) (fl : Flags) (x : XUnit) :
    (x.addFlags now lat fl).settleAll.vstat = x.settleAll.vstat ||| fl := by
  simp only [XUnit.addFlags, XUnit.settle, XUnit.settleAll, List.foldl_append, List.foldl_cons, List.foldl_nil]
  rw [foldl_or_filter]

theorem State.orFlags_eq (s : State) (lat : Nat) (fl : Flags) :
    s.orFlags lat fl = if fl = 0 then s else s.modCC fun k => k.modX (XUnit.addFlags s.cycle lat fl) := rfl

theorem writes_orFlags (u : RegUse) (s : State) (lat : Nat) (fl : Flags) : Writes u s (s.orFlags lat fl) := by
  rw [State.orFlags_eq]
  split
  · exact .refl u s
  · exact .of_modX u s _ rfl (fun _ _ => rfl) rfl

theorem raises_orFlags (s : State) (lat : Nat) (fl : Flags) : Raises s (s.orFlags lat fl) fl := by
  rw [State.orFlags_eq]
  split
  · next h => exact h ▸ .none rfl
  · rw [Raises, State.modX_x, XUnit.settleAll_addFlags]

@[simp] theorem State.orFlags_rv (s : State) (lat : Nat) (fl : Flags) (r : Fin 32) : (s.orFlags lat fl).rv r = s.rv r :=
  (writes_orFlags {} s lat fl).regs.vRegs r (by simp)

@[simp] theorem State.orFlags_gen (s : State) (lat : Nat) (fl : Flags) : (s.orFlags lat fl).cc.x.gen = s.cc.x.gen := by
  rw [State.orFlags_eq]
  split
  · rfl
  · rw [State.modX_x]; rfl

/-! ### Lanes (R14) -/

theorem writes_writeLanes {u : RegUse} {d : Fin 32} (h : d ∈ u.vW) (s : State) (m : BitVec 1024) (v : VReg) :
    Writes u s (s.writeLanes d m v) :=
  .of_modX u s _ rfl (fun r hr => XUnit.rv_wv_ne _ d r _ fun e => hr (e ▸ h)) rfl

theorem raises_writeLanes (s : State) (d : Fin 32) (m : BitVec 1024) (v : VReg) : Raises s (s.writeLanes d m v) 0 :=
  .none (by rw [State.writeLanes, State.modX_x]; rfl)

@[simp] theorem State.writeLanes_gen (s : State) (d : Fin 32) (m : BitVec 1024) (v : VReg) :
    (s.writeLanes d m v).cc.x.gen = s.cc.x.gen := by
  rw [State.writeLanes, State.modX_x]; rfl

theorem State.writeLanes_lane (s : State) (d : Fin 32) (m : BitVec 1024) (v : VReg) {l : Nat} (hl : l < 1024) :
    lane ((s.writeLanes d m v).rv d) l = if bt m l then lane v l else lane (s.rv d) l := by
  have hv : (s.writeLanes d m v).rv d = tab 1024 fun l => if bt m l then lane v l else lane (s.rv d) l := by
    rw [State.rv, State.writeLanes, State.modX_x]
    exact XUnit.rv_wv_same _ d _
  rw [hv, lane, vget_tab _ _ _ _ hl]

/-- The result and the flags of each lane: none of a lane that the guard leaves out. -/
def State.onLanes (s : State) (c : Ctl) (f : Nat → Nat × Flags) (l : Nat) : Nat × Flags := if bt (s.lanes c) l then f l else (0, 0)

/-- The flags that the selected lanes raise together. -/
def State.laneFlags (s : State) (c : Ctl) (f : Nat → Nat × Flags) : Flags := orAll ((tab 1024 (s.onLanes c f)).toList.map Prod.snd)

theorem State.mapLanes_eq (s : State) (c : Ctl) (lat : Nat) (d : Fin 32) (f : Nat → Nat × Flags) : s.mapLanes c lat d f =
    (s.writeLanes d (s.lanes c) (vmapi (tab 1024 (s.onLanes c f)) fun _ r => BitVec.ofNat 32 r.1)).orFlags lat (s.laneFlags c f) := rfl

section
variable (s : State) (c : Ctl) (lat : Nat) (d : Fin 32) (f : Nat → Nat × Flags)

theorem State.getLsbD_laneFlags (j : Nat) : (s.laneFlags c f).getLsbD j = true ↔ ∃ l, l < 1024 ∧ s.isOn c l ∧ (f l).2.getLsbD j = true := by
  have hlane : ∀ l : Nat, l < 1024 → ((s.onLanes c f l).2.getLsbD j = true ↔ s.isOn c l ∧ (f l).2.getLsbD j = true) := fun l hl => by
    rw [← s.lanes_isOn c hl, State.onLanes]
    cases bt (s.lanes c) l <;> simp
  simp only [State.laneFlags, toList_tab, getLsbD_orAll, List.mem_map, List.mem_range, exists_exists_and_eq_and]
  exact exists_congr fun l => and_congr_right (hlane l)

theorem writes_mapLanes {u : RegUse} (h : d ∈ u.vW) : Writes u s (s.mapLanes c lat d f) :=
  (writes_writeLanes h s _ _).trans (writes_orFlags u _ lat _)

theorem raises_mapLanes : Raises s (s.mapLanes c lat d f) (s.laneFlags c f) :=
  have h := (raises_writeLanes s d (s.lanes c) (vmapi (tab 1024 (s.onLanes c f)) fun _ r => BitVec.ofNat 32 r.1)).trans
    (raises_orFlags _ lat (s.laneFlags c f))
  (BitVec.zero_or (x := s.laneFlags c f)) ▸ h

@[simp] theorem State.mapLanes_gen : (s.mapLanes c lat d f).cc.x.gen = s.cc.x.gen := by
  rw [State.mapLanes_eq, State.orFlags_gen, State.writeLanes_gen]

@[simp] theorem State.mapLanes_rp (p : Fin 16) : (s.mapLanes c lat d f).rp p = s.rp p :=
  (writes_mapLanes s c lat d f (u := { vW := [d] }) (by simp)).regs.preds p (by simp)

theorem State.mapLanes_rv_ne {r : Fin 32} (h : r ≠ d) : (s.mapLanes c lat d f).rv r = s.rv r :=
  (writes_mapLanes s c lat d f (u := { vW := [d] }) (by simp)).regs.vRegs r (by simpa using h)

theorem State.mapLanes_lane_on {l : Nat} (hl : l < 1024) (h : s.isOn c l) :
    lane ((s.mapLanes c lat d f).rv d) l = BitVec.ofNat 32 (f l).1 := by
  have hon : bt (s.lanes c) l = true := (s.lanes_isOn c hl).2 h
  rw [State.mapLanes_eq, State.orFlags_rv, State.writeLanes_lane _ _ _ _ hl, if_pos hon, lane,
    vget_vmapi 0 ((0, 0) : Nat × Flags) _ _ l hl, vget_tab _ _ _ l hl, State.onLanes, if_pos hon]

theorem State.mapLanes_lane_off {l : Nat} (hl : l < 1024) (h : ¬s.isOn c l) :
    lane ((s.mapLanes c lat d f).rv d) l = lane (s.rv d) l := by
  rw [State.mapLanes_eq, State.orFlags_rv, State.writeLanes_lane _ _ _ _ hl, if_neg (mt (s.lanes_isOn c hl).1 h)]

end

/-! ### Draws (R78) -/

/-- The generators of some lanes advanced `n` times, under SR alone. -/
def State.drawn (s : State) (mode : Rnd) (m : BitVec 1024) (n : Nat) : State := if mode = .sr then s.advanceGen m n else s

theorem writes_drawn (u : RegUse) (s : State) (mode : Rnd) (m : BitVec 1024) (n : Nat) : Writes u s (s.drawn mode m n) := by
  unfold State.drawn
  split
  · exact .of_modX u s _ rfl (fun _ _ => rfl) rfl
  · exact .refl u s

theorem raises_drawn (s : State) (mode : Rnd) (m : BitVec 1024) (n : Nat) : Raises s (s.drawn mode m n) 0 := by
  unfold State.drawn
  split
  · exact .none (by rw [State.advanceGen, State.modX_x]; rfl)
  · exact .none rfl

@[simp] theorem State.drawn_rv (s : State) (mode : Rnd) (m : BitVec 1024) (n : Nat) (r : Fin 32) : (s.drawn mode m n).rv r = s.rv r :=
  (writes_drawn {} s mode m n).regs.vRegs r (by simp)

theorem getLastD_draws (g : Word32) (n : Nat) : (draws g n).getLastD g = genAt g n := by
  induction n generalizing g with
  | zero => rfl
  | succ n ih => rw [draws, List.getLastD_cons, ih, genAt]

theorem getD_draws (g : Word32) {n k : Nat} (h : k < n) : ((draws g n).map genDraw).getD k 0 = genDraw (genAt g (k + 1)) := by
  induction n generalizing g k with
  | zero => omega
  | succ n ih =>
    cases k with
    | zero => rfl
    | succ k => exact ih (genNext g) (by omega)

theorem State.drawn_gen (s : State) (mode : Rnd) (m : BitVec 1024) (n : Nat) {l : Nat} (hl : l < 1024) :
    vget 0 (s.drawn mode m n).cc.x.gen l =
      if mode = .sr ∧ bt m l = true then genAt (vget 0 s.cc.x.gen l) n else vget 0 s.cc.x.gen l := by
  unfold State.drawn
  by_cases hm : mode = .sr
  · rw [if_pos hm, State.advanceGen, State.modX_x]
    dsimp only
    rw [vget_vmapi 0 (0 : Word32) _ _ l hl, getLastD_draws]
    simp only [hm, true_and]
  · rw [if_neg hm, if_neg fun h => hm h.1]

/-- What rounding event `k` of a lane reads (R78). -/
theorem State.drawAt_eq (u : State) (mode : Rnd) (l k : Nat) :
    u.drawAt mode l k = if mode = .sr then genDraw (genAt (vget 0 u.cc.x.gen l) (k + 1)) else 0 := rfl

/-- The draws in one lane of an instruction with `n` roundings in a lane. -/
def State.laneDraws (s : State) (mode : Rnd) (n l k : Nat) : Nat :=
  if mode = .sr then ((draws (vget 0 s.cc.x.gen l) n).map genDraw).getD k 0 else 0

theorem State.laneDraws_eq (s : State) (mode : Rnd) {n k : Nat} (l : Nat) (h : k < n) : s.laneDraws mode n l k = s.drawAt mode l k := by
  rw [State.laneDraws, State.drawAt_eq, getD_draws _ h]

theorem State.roundLanes_eq (s : State) (c : Ctl) (mode : Rnd) (d : Fin 32) (n : Nat) (f : Nat → (Nat → Nat) → Nat × Flags) :
    s.roundLanes c mode d n f = (s.mapLanes c 6 d fun l => f l (s.laneDraws mode n l)).drawn mode (s.lanes c) n := by
  unfold State.roundLanes State.drawn State.laneDraws
  by_cases h : mode = .sr
  · simp only [if_pos h]
  · simp only [if_neg h]

/-! ### Sub-elements of a lane (R30) -/

theorem getLsbD_subs1 (ty : Ty) (n : Nat) (f : Nat → Nat × Flags) (j : Nat) :
    (subs1 ty n f).2.getLsbD j = true ↔ ∃ k, k < n ∧ (f k).2.getLsbD j = true := by
  simp [subs1, getLsbD_orAll]

theorem packSubs_at (ty : Ty) (xs : List Nat) (k : Nat) : packSubs ty xs / 2 ^ (ty.width * k) % 2 ^ ty.width = xs.getD k 0 % 2 ^ ty.width := by
  induction xs generalizing k with
  | nil => simp [packSubs]
  | cons x xs ih =>
    cases k with
    | zero => simp [packSubs, Nat.add_mul_mod_self_left]
    | succ k =>
      have hlow : (x % 2 ^ ty.width + 2 ^ ty.width * packSubs ty xs) / 2 ^ ty.width = packSubs ty xs := by
        rw [Nat.add_mul_div_left _ _ (Nat.two_pow_pos _), Nat.div_eq_of_lt (Nat.mod_lt _ (Nat.two_pow_pos _)), Nat.zero_add]
      rw [packSubs, Nat.mul_succ, Nat.add_comm (ty.width * k), Nat.pow_add, ← Nat.div_div_eq_div_mul, hlow, ih]
      rfl

theorem packSubs_lt (ty : Ty) (xs : List Nat) : packSubs ty xs < 2 ^ (ty.width * xs.length) := by
  induction xs with
  | nil => simp [packSubs]
  | cons x xs ih =>
    have hx := Nat.mod_lt x (Nat.two_pow_pos ty.width)
    rw [packSubs, List.length_cons, Nat.mul_succ, Nat.pow_add, Nat.mul_comm (2 ^ _)]
    calc x % 2 ^ ty.width + packSubs ty xs * 2 ^ ty.width
        < 2 ^ ty.width + packSubs ty xs * 2 ^ ty.width := by omega
      _ = (packSubs ty xs + 1) * 2 ^ ty.width := by ring
      _ ≤ 2 ^ (ty.width * xs.length) * 2 ^ ty.width := Nat.mul_le_mul_right _ ih

theorem part_toNat (ty : Ty) (x : Word) (k : Nat) : (part ty x k).toNat = x.toNat / 2 ^ (ty.width * k) % 2 ^ ty.width := by
  rw [part, BitVec.extractLsb'_toNat, Nat.shiftRight_eq_div_pow]

theorem part_setWidth_toNat (ty : Ty) (x : Word32) (k : Nat) : (part ty (x.setWidth 64) k).toNat = sub ty x k := by
  rw [part_toNat, sub, BitVec.toNat_setWidth, Nat.mod_eq_of_lt (x.isLt.trans (by decide))]

/-- An element of a packed lane is the one that was packed. -/
theorem part_packSubs (ty : Ty) {xs : List Nat} (hn : ty.width * xs.length ≤ 32) (k : Nat) :
    part ty ((BitVec.ofNat 32 (packSubs ty xs)).setWidth 64) k = BitVec.ofNat ty.width (xs.getD k 0) := by
  apply BitVec.eq_of_toNat_eq
  have hlt : packSubs ty xs < 2 ^ 32 := (packSubs_lt ty xs).trans_le (Nat.pow_le_pow_right (by decide) hn)
  rw [part_setWidth_toNat, sub, BitVec.toNat_ofNat, Nat.mod_eq_of_lt hlt, packSubs_at, BitVec.toNat_ofNat]

theorem part_subs1 (ty : Ty) {n k : Nat} (f : Nat → Nat × Flags) (hn : ty.width * n ≤ 32) (hk : k < n) :
    part ty ((BitVec.ofNat 32 (subs1 ty n f).1).setWidth 64) k = BitVec.ofNat ty.width (f k).1 := by
  rw [subs1, part_packSubs ty (by simpa using hn)]
  simp [hk]

end Sys2Proof.Machine
end

section
/-! Vector float and packed instructions (R77 to R83, R379, R383): one rounding of every element. -/

namespace Sys2Proof.Machine

theorem subCount_fits (ty : Ty) : ty.width * subCount ty ≤ 32 := Nat.mul_div_le 32 ty.width

section
variable {ty : Ty} (h : ty.is64 = false)
include h

theorem tyCount_eq_subCount : tyCount ty = subCount ty := if_neg (by simp [h])

theorem State.regLane_narrow (u : State) (r : Fin 32) (l : Nat) : u.regLane ty r l = (lane (u.rv r) l).setWidth 64 := if_neg (by simp [h])

theorem State.opLane_narrow (u : State) (b : VOp) (l : Nat) : u.opLane ty b l = (u.vopLane b l).setWidth 64 := if_neg (by simp [h])

/-- The number that an element of a register stands for. -/
theorem value_regLane (u : State) (r : Fin 32) (l k : Nat) :
    ty.value (part ty (u.regLane ty r l) k).toNat = laneSub ty (lane (u.rv r) l) k := by
  rw [u.regLane_narrow h, part_setWidth_toNat]; rfl

theorem value_opLane (u : State) (b : VOp) (l k : Nat) :
    ty.value (part ty (u.opLane ty b l) k).toNat = laneSub ty (u.vopLane b l) k := by
  rw [u.opLane_narrow h, part_setWidth_toNat]; rfl

end

/-- The one rounding of element `k` of lane `l`. -/
def State.floatOut (u : State) (ty : Ty) (mode : Rnd) (sat : Bool) (f : Nat → Nat → Num × Bool) (l k : Nat) : Rounded :=
  roundFloat ty mode sat (u.drawAt mode l k) (f l k).1

/-- Every element of the selected lanes is rounded once, with its flags and its draw. -/
def RoundedOnce (u t : State) (c : Ctl) (ty : Ty) (mode : Rnd) (sat : Bool) (d : Fin 32) (f : Nat → Nat → Num × Bool) : Prop :=
  Elements u t c ty d (fun l k => BitVec.ofNat ty.width ((fmtOf ty).pattern (u.floatOut ty mode sat f l k).val)) ∧
  Draws u t c mode (tyCount ty) ∧
  ∃ fl, Raises u t fl ∧ ∀ j : Nat, fl.getLsbD j = true ↔ ∃ l k, l < 1024 ∧ k < tyCount ty ∧ u.isOn c l ∧
    ((u.floatOut ty mode sat f l k).fl.getLsbD j = true ∨ (f l k).2 = true ∧ flNV.getLsbD j = true)

/-- The lane of a float operation, from the draws of the lane. -/
def floatLane (ty : Ty) (mode : Rnd) (sat : Bool) (f : Nat → Nat → Num × Bool) (l : Nat) (g : Nat → Nat) : Nat × Flags :=
  subs1 ty (subCount ty) fun k => roundTo_ ty mode sat (g k) (f l k)

theorem getLsbD_roundTo_ (ty : Ty) (mode : Rnd) (sat : Bool) (g : Nat) (x : Num × Bool) (j : Nat) :
    (roundTo_ ty mode sat g x).2.getLsbD j = true ↔
      (roundFloat ty mode sat g x.1).fl.getLsbD j = true ∨ x.2 = true ∧ flNV.getLsbD j = true := by
  cases h : x.2 <;> simp [roundTo_, h]

section
variable (s : State) (c : Ctl) (ty : Ty) (mode : Rnd) (sat : Bool) (f : Nat → Nat → Num × Bool)

theorem part_floatLane {l k : Nat} (hk : k < subCount ty) :
    part ty ((BitVec.ofNat 32 (floatLane ty mode sat f l (s.laneDraws mode (subCount ty) l)).1).setWidth 64) k =
      BitVec.ofNat ty.width ((fmtOf ty).pattern (s.floatOut ty mode sat f l k).val) := by
  rw [floatLane, part_subs1 ty _ (subCount_fits ty) hk, s.laneDraws_eq mode l hk]
  rfl

theorem State.getLsbD_floatLane (l j : Nat) :
    (floatLane ty mode sat f l (s.laneDraws mode (subCount ty) l)).2.getLsbD j = true ↔ ∃ k, k < subCount ty ∧
      ((s.floatOut ty mode sat f l k).fl.getLsbD j = true ∨ (f l k).2 = true ∧ flNV.getLsbD j = true) := by
  simp only [floatLane, getLsbD_subs1, getLsbD_roundTo_]
  exact exists_congr fun k => and_congr_right fun hk => by rw [s.laneDraws_eq mode l hk]; rfl

end

/-- What a float operation leaves, its flags and draws included. -/
theorem State.roundLanes_roundedOnce {ty : Ty} (h : ty.is64 = false) (u : State) (c : Ctl) (mode : Rnd) (sat : Bool) (d : Fin 32)
    (f : Nat → Nat → Num × Bool) :
    RoundedOnce u (u.roundLanes c mode d (subCount ty) (floatLane ty mode sat f)) c ty mode sat d f := by
  rw [State.roundLanes_eq]
  refine ⟨fun l k hl hk => ⟨fun hon => ?_, fun hoff => ?_⟩, fun l hl => ?_,
    u.laneFlags c fun l => floatLane ty mode sat f l (u.laneDraws mode (subCount ty) l), ?_, fun j => ?_⟩
  · rw [State.regLane_narrow h, State.drawn_rv, State.mapLanes_lane_on _ _ _ _ _ hl hon, part_floatLane]
    rwa [← tyCount_eq_subCount h]
  · rw [State.regLane_narrow h, State.regLane_narrow h, State.drawn_rv, State.mapLanes_lane_off _ _ _ _ _ hl hoff]
  · rw [State.drawn_gen _ _ _ _ hl, State.mapLanes_gen, tyCount_eq_subCount h]
    simp only [u.lanes_isOn c hl, State.isOn]
  · have hr := (raises_mapLanes u c 6 d fun l => floatLane ty mode sat f l (u.laneDraws mode (subCount ty) l)).trans
      (raises_drawn _ mode (u.lanes c) (subCount ty))
    exact (BitVec.or_zero (x := u.laneFlags c _)) ▸ hr
  · rw [State.getLsbD_laneFlags, tyCount_eq_subCount h]
    simp only [State.getLsbD_floatLane]
    exact ⟨fun ⟨l, hl, hon, k, hk, hf⟩ => ⟨l, k, hl, hk, hon, hf⟩, fun ⟨l, k, hl, hk, hon, hf⟩ => ⟨l, hl, hon, k, hk, hf⟩⟩

/-- Retiring keeps a result. -/
theorem RoundedOnce.retires {u t r : State} {c : Ctl} {ty : Ty} {mode : Rnd} {sat : Bool} {d : Fin 32} {f : Nat → Nat → Num × Bool}
    {pc : Word} (hty : ty.is64 = false) (h : RoundedOnce u t c ty mode sat d f) (hr : Retires pc t r) : RoundedOnce u r c ty mode sat d f := by
  obtain ⟨hel, hdr, fl, hra, hfl⟩ := h
  have hreg (l : Nat) : r.regLane ty d l = t.regLane ty d l := by
    rw [State.regLane_narrow hty, State.regLane_narrow hty, hr.regs.vRegs d (by simp)]
  refine ⟨fun l k hl hk => ?_, fun l hl => ?_, fl, hra.retires hr, hfl⟩
  · rw [hreg]; exact hel l k hl hk
  · rw [hr.gen]; exact hdr l hl

/-- A float instruction completes, each element rounded once. -/
theorem gives_floatOp {i : Instr} {c : Ctl} {s : State} {ty : Ty} {rnd : Rnd} {sat : Bool} {d : Fin 32}
    (F : State → Rnd → Nat → Nat → Num × Bool) (hty : ty.is64 = false) (hd : d ∈ i.regs.vW)
    (he : exec i s = issue i (fun s => .done (s.floatOp c ty rnd sat d (F s)) false) s) (h : Issues i c s) :
    WritesRegs i c s fun t => RoundedOnce (s.startIssue c) t c ty ((s.startIssue c).rnd rnd) sat d
      (F (s.startIssue c) ((s.startIssue c).rnd rnd)) := by
  rw [WritesRegs, GoesTo, he]
  refine gives_writes h rfl ?_ fun r hr => (State.roundLanes_roundedOnce hty _ c _ sat d _).retires hty hr
  rw [State.floatOp, State.roundLanes_eq]
  exact (writes_mapLanes _ c 6 d _ hd).trans (writes_drawn _ _ _ _ _)

/-- Settles O6: the three f32 instructions and the three packed ones by `gives_floatOp`. -/
theorem vectorFloatResult : Obligations.vectorFloatResult := by
  intro c ty rnd sat d a e b s u mode rounded
  have key : ∀ (i : Instr) (t0 : Ty) (f : Rnd → (Fin 32 → Nat → Nat → Num) → (Nat → Nat → Num) → Nat → Nat → Num × Bool),
      (i.wf = true → t0.is64 = false) → d ∈ i.regs.vW →
      exec i s = issue i (fun s => .done (s.floatOp c t0 rnd sat d fun m =>
        f m (fun r l k => laneSub t0 (lane (s.rv r) l) k) fun l k => laneSub t0 (s.vopLane b l) k) false) s →
      rounded i t0 (f mode) := by
    intro i t0 f hty hd he hwf hi
    have hreg : (fun r l k => laneSub t0 (lane (u.rv r) l) k) = fun r l k => t0.value (part t0 (u.regLane t0 r l) k).toNat :=
      funext fun r => funext fun l => funext fun k => (value_regLane (hty hwf) u r l k).symm
    have hop : (fun l k => laneSub t0 (u.vopLane b l) k) = fun l k => t0.value (part t0 (u.opLane t0 b l) k).toNat :=
      funext fun l => funext fun k => (value_opLane (hty hwf) u b l k).symm
    have hg := gives_floatOp (fun s m => f m (fun r l k => laneSub t0 (lane (s.rv r) l) k) fun l k => laneSub t0 (s.vopLane b l) k)
      (hty hwf) hd he hi
    rw [hreg, hop] at hg
    exact hg
  have hpacked : ty.packed = true → ty.is64 = false := by cases ty <;> simp [Ty.packed, Ty.is64]
  exact ⟨key (.vfadd c rnd sat d a b) .f32 (fun m r o l k => sum2 m (r a l k) (o l k)) (fun _ => rfl) (by simp [Instr.regs]) rfl,
    key (.vfmul c rnd sat d a b) .f32 (fun _ r o l k => Num.mul (r a l k) (o l k)) (fun _ => rfl) (by simp [Instr.regs]) rfl,
    key (.vfma c rnd sat d a b e) .f32 (fun m r o l k => Num.fma (m == .rdn) (r a l k) (o l k) (r e l k)) (fun _ => rfl)
      (by simp [Instr.regs]) rfl,
    key (.vpadd c ty rnd sat d a b) ty (fun m r o l k => sum2 m (r a l k) (o l k)) hpacked (by simp [Instr.regs]) rfl,
    key (.vpmul c ty rnd sat d a b) ty (fun _ r o l k => Num.mul (r a l k) (o l k)) hpacked (by simp [Instr.regs]) rfl,
    key (.vpfma c ty rnd sat d a b e) ty (fun m r o l k => Num.fma (m == .rdn) (r a l k) (o l k) (r e l k)) hpacked
      (by simp [Instr.regs]) rfl⟩

end Sys2Proof.Machine
end

section
/-! The quantiser `VQNT` (R89, R384): elements packed by row, scales by row, and the draws of every lane. -/

namespace Sys2Proof.Machine

/-! ### One block -/

/-- A fold that keeps what it has or takes the next element ends with an element of the list. -/
theorem foldl_pick_mem {α : Type} {g : Option α → α → Option α} (hg : ∀ b c y, g b c = some y → b = some y ∨ c = y) {x : α} (l : List α)
    (b : Option α) (h : l.foldl g b = some x) : b = some x ∨ x ∈ l := by
  induction l generalizing b with
  | nil => exact .inl h
  | cons c l ih =>
    rcases ih _ h with hb | hm
    · exact (hg b c x hb).imp_right fun e => by rw [← e]; exact List.mem_cons_self
    · exact .inr (List.mem_cons_of_mem _ hm)

/-- A block has as many element patterns as it has elements. -/
theorem length_qntBlock (ty : Ty) (mode : Rnd) (xs : List (Num × Nat)) : (qntBlock ty mode xs).2.1.length = xs.length := by
  unfold qntBlock
  dsimp only
  split
  · exact List.length_replicate
  split
  · exact List.length_replicate
  split
  · next hbest =>
    refine (foldl_pick_mem (fun b c y hy => ?_) _ _ hbest).elim (fun h => by cases h) fun h => ?_
    · cases b with
      | none => exact .inr (Option.some.inj hy)
      | some b =>
        dsimp only at hy
        split at hy
        · exact .inr (Option.some.inj hy)
        · exact .inl hy
    · obtain ⟨c, -, heq⟩ := List.mem_map.1 h
      cases heq
      simp
  · exact List.length_replicate

/-! ### Blocks of a row -/

/-- Element `q` of a list of pieces of one length. -/
theorem getD_flatten {α : Type} (d : α) {n : Nat} (hn : 0 < n) (ls : List (List α)) (h : ∀ l ∈ ls, l.length = n) (q : Nat) :
    ls.flatten.getD q d = (ls.getD (q / n) []).getD (q % n) d := by
  induction ls generalizing q with
  | nil => simp
  | cons l ls ih =>
    obtain ⟨hl, hls⟩ := List.forall_mem_cons.1 h
    by_cases hq : q < n
    · rw [List.flatten_cons, List.getD_append _ _ _ _ (hl ▸ hq), Nat.div_eq_of_lt hq, Nat.mod_eq_of_lt hq]; rfl
    · have hle : n ≤ q := Nat.le_of_not_lt hq
      obtain ⟨p, rfl⟩ := Nat.exists_eq_add_of_le hle
      rw [List.flatten_cons, List.getD_append_right _ _ _ _ (by omega), hl, Nat.add_sub_cancel_left, ih hls, Nat.add_div_left _ hn,
        Nat.add_mod_left]
      rfl

/-- Elements of a block: 32 or 64. -/
def qntSize (b64 : Bool) : Nat := if b64 then 64 else 32

theorem qntBlocks_eq (b64 : Bool) : qntBlocks b64 = (List.range (64 / qntSize b64)).map (qntSize b64 * ·) := by
  cases b64 <;> rfl

theorem qntSize_pos (b64 : Bool) : 0 < qntSize b64 := by cases b64 <;> decide

theorem qntSize_mul (b64 : Bool) : 64 / qntSize b64 * qntSize b64 = 64 := by cases b64 <;> rfl

section
variable (u : State) (ty : Ty) (mode : Rnd) (b64 : Bool) (a : Fin 32)

/-- Block `b` of row `p`: scale, element patterns and flags. -/
def State.qntAt (p b : Nat) : Nat × List Nat × Flags := u.quantise ty mode b64 a p (qntSize b64 * b)

/-- The blocks of the sixteen rows. -/
def State.qntRows : Vector (List (Nat × List Nat × Flags)) 16 := tab 16 fun i => (qntBlocks b64).map (u.quantise ty mode b64 a i)

/-- The elements of row `p`, one for each column. -/
def State.qntElems (p : Nat) : List Nat := (vget [] (u.qntRows ty mode b64 a) p).flatMap fun r => r.2.1

/-- The scales of row `p`. -/
def State.qntScales (p : Nat) : List Nat := (vget [] (u.qntRows ty mode b64 a) p).map Prod.fst

/-- The flags of all blocks. -/
def State.qntFlags : Flags := orAll ((u.qntRows ty mode b64 a).toList.flatMap fun r => r.map fun x => x.2.2)

theorem State.qntRows_at {p : Nat} (hp : p < 16) : vget [] (u.qntRows ty mode b64 a) p =
    (List.range (64 / qntSize b64)).map (u.qntAt ty mode b64 a p) := by
  rw [State.qntRows, vget_tab _ _ _ _ hp, qntBlocks_eq, List.map_map]; rfl

theorem State.length_qntAt (p b : Nat) : (u.qntAt ty mode b64 a p b).2.1.length = qntSize b64 := by
  rw [State.qntAt, State.quantise, length_qntBlock, List.length_map, List.length_range]; rfl

theorem State.length_qntElems {p : Nat} (hp : p < 16) : (u.qntElems ty mode b64 a p).length = 64 := by
  simp [State.qntElems, u.qntRows_at ty mode b64 a hp, List.length_flatMap, Function.comp_def, u.length_qntAt, qntSize_mul]

theorem State.qntElems_at {p q : Nat} (hp : p < 16) (hq : q < 64) : (u.qntElems ty mode b64 a p).getD q 0 =
    (u.qntAt ty mode b64 a p (q / qntSize b64)).2.1.getD (q % qntSize b64) 0 := by
  have hb : q / qntSize b64 < 64 / qntSize b64 := (Nat.div_lt_iff_lt_mul (qntSize_pos b64)).2 (by rwa [qntSize_mul])
  rw [State.qntElems, u.qntRows_at ty mode b64 a hp, List.flatMap_def, getD_flatten 0 (qntSize_pos b64)]
  · simp [hb]
  · simp [u.length_qntAt]

theorem State.qntScales_at {p : Nat} (hp : p < 16) (b : Nat) : (u.qntScales ty mode b64 a p).getD b 0 =
    if b < 64 / qntSize b64 then (u.qntAt ty mode b64 a p b).1 else 0 := by
  rw [State.qntScales, u.qntRows_at ty mode b64 a hp]
  split <;> simp [*]

theorem State.getLsbD_qntFlags (j : Nat) : (u.qntFlags ty mode b64 a).getLsbD j = true ↔
    ∃ p b, p < 16 ∧ b < 64 / qntSize b64 ∧ (u.qntAt ty mode b64 a p b).2.2.getLsbD j = true := by
  have hrows : (u.qntRows ty mode b64 a).toList = (List.range 16).map fun p => (List.range (64 / qntSize b64)).map (u.qntAt ty mode b64 a p) := by
    rw [State.qntRows, toList_tab, qntBlocks_eq]
    simp only [List.map_map]
    rfl
  simp only [State.qntFlags, hrows, getLsbD_orAll, List.mem_flatMap, List.mem_map, List.mem_range, exists_exists_and_eq_and]
  simp [and_assoc]

end

/-! ### The instruction -/

/-- The registers that `VQNT` has written: packed elements in d, then scales in e. -/
def State.qntWritten (u : State) (c : Ctl) (ty : Ty) (mode : Rnd) (b64 : Bool) (d e a : Fin 32) : State :=
  (u.mapLanes c 6 d fun l => (packSubs ty (((u.qntElems ty mode b64 a (l / 64)).drop (subCount ty * (l % 64))).take (subCount ty)), 0)).mapLanes
    c 6 e fun l => ((u.qntScales ty mode b64 a (l / 64)).getD (l % 64) 0, 0)

/-- What `VQNT` leaves before it retires. -/
def State.qntDone (u : State) (c : Ctl) (ty : Ty) (mode : Rnd) (b64 : Bool) (d e a : Fin 32) : State :=
  ((u.qntWritten c ty mode b64 d e a).orFlags 6 (u.qntFlags ty mode b64 a)).drawn mode (BitVec.allOnes 1024) 1

theorem exec_vqnt_eq (c : Ctl) (ty : Ty) (rnd : Rnd) (b64 : Bool) (d e a : Fin 32) (s : State) : exec (.vqnt c ty rnd b64 d e a) s =
    issue (.vqnt c ty rnd b64 d e a) (fun s => .done (s.qntDone c ty (s.rnd rnd) b64 d e a) false) s := rfl

/-- Without a lane guard every lane is selected. -/
theorem State.isOn_noLanes (u : State) {c : Ctl} (h : c.noLanes = true) {l : Nat} (hl : l < 1024) : u.isOn c l := by
  simp only [Ctl.noLanes, Bool.and_eq_true, Bool.not_eq_eq_eq_not, Bool.not_true, beq_iff_eq] at h
  obtain ⟨hn, hp⟩ := h
  have hrp : u.rp c.lPred = BitVec.allOnes 1024 := if_pos hp
  rw [State.isOn, hrp, hn, BitVec.getLsbD_allOnes, decide_eq_true hl, Bool.not_false]

/-- No flag comes of lanes that raise none. -/
theorem State.laneFlags_zero (s : State) (c : Ctl) (f : Nat → Nat) : s.laneFlags c (fun l => (f l, 0)) = 0 := by
  refine BitVec.eq_of_getLsbD_eq fun j _ => ?_
  rw [Bool.eq_iff_iff, State.getLsbD_laneFlags]
  simp

section
variable (u : State) {c : Ctl} (ty : Ty) (mode : Rnd) (b64 : Bool) {d e : Fin 32} (a : Fin 32)

theorem State.qntDone_rv (r : Fin 32) : (u.qntDone c ty mode b64 d e a).rv r = (u.qntWritten c ty mode b64 d e a).rv r := by
  rw [State.qntDone, State.drawn_rv, State.orFlags_rv]

theorem raises_qntDone : Raises u (u.qntDone c ty mode b64 d e a) (u.qntFlags ty mode b64 a) := by
  have hw := (raises_mapLanes u c 6 d fun l =>
    (packSubs ty (((u.qntElems ty mode b64 a (l / 64)).drop (subCount ty * (l % 64))).take (subCount ty)), 0)).trans
      (raises_mapLanes _ c 6 e fun l => ((u.qntScales ty mode b64 a (l / 64)).getD (l % 64) 0, 0))
  rw [State.laneFlags_zero, State.laneFlags_zero] at hw
  have h := (hw.trans (raises_orFlags _ 6 (u.qntFlags ty mode b64 a))).trans (raises_drawn _ mode (BitVec.allOnes 1024) 1)
  have hz : (0 ||| 0 ||| u.qntFlags ty mode b64 a ||| 0 : Flags) = u.qntFlags ty mode b64 a := by simp
  exact hz ▸ h

theorem State.qntDone_gen {l : Nat} (hl : l < 1024) : vget 0 (u.qntDone c ty mode b64 d e a).cc.x.gen l =
    if mode = .sr then genAt (vget 0 u.cc.x.gen l) 1 else vget 0 u.cc.x.gen l := by
  have hbt : bt (BitVec.allOnes 1024) l = true := by rw [bt, BitVec.getLsbD_allOnes, decide_eq_true hl]
  rw [State.qntDone, State.drawn_gen _ _ _ _ hl, State.orFlags_gen, State.qntWritten, State.mapLanes_gen, State.mapLanes_gen]
  simp only [hbt, and_true]

end

section
variable (u : State) {c : Ctl} (h : c.noLanes = true) (ty : Ty) (mode : Rnd) (b64 : Bool) {d e : Fin 32} (a : Fin 32)
include h

theorem elem_qntDone_elements (hde : d ≠ e) {p r : Nat} (hp : p < 16) (hr : r < 64) : elem ((u.qntDone c ty mode b64 d e a).rv d) p r =
    BitVec.ofNat 32 (packSubs ty (((u.qntElems ty mode b64 a p).drop (subCount ty * r)).take (subCount ty))) := by
  have hl : 64 * p + r < 1024 := by omega
  rw [State.qntDone_rv, State.qntWritten, State.mapLanes_rv_ne _ _ _ _ _ hde, elem, State.mapLanes_lane_on _ _ _ _ _ hl (u.isOn_noLanes h hl),
    Nat.mul_add_div (by decide), Nat.div_eq_of_lt hr, Nat.mul_add_mod, Nat.mod_eq_of_lt hr, Nat.add_zero]

theorem elem_qntDone_scales {p r : Nat} (hp : p < 16) (hr : r < 64) : elem ((u.qntDone c ty mode b64 d e a).rv e) p r =
    BitVec.ofNat 32 ((u.qntScales ty mode b64 a p).getD r 0) := by
  have hl : 64 * p + r < 1024 := by omega
  rw [State.qntDone_rv, State.qntWritten, elem, State.mapLanes_lane_on _ _ _ _ _ hl (State.isOn_noLanes _ h hl),
    Nat.mul_add_div (by decide), Nat.div_eq_of_lt hr, Nat.mul_add_mod, Nat.mod_eq_of_lt hr, Nat.add_zero]

end

theorem writes_qntDone {i : RegUse} (u : State) (c : Ctl) (ty : Ty) (mode : Rnd) (b64 : Bool) {d e : Fin 32} (a : Fin 32)
    (hd : d ∈ i.vW) (he : e ∈ i.vW) : Writes i u (u.qntDone c ty mode b64 d e a) :=
  (((writes_mapLanes u c 6 d _ hd).trans (writes_mapLanes _ c 6 e _ he)).trans (writes_orFlags _ _ _ _)).trans (writes_drawn _ _ _ _ _)

/-- Element `q` of a row that is packed `n` to a lane. -/
theorem part_packed_row {ty : Ty} {n : Nat} (hn : 0 < n) (hw : ty.width * n ≤ 32) (xs : List Nat) (q : Nat) :
    part ty ((BitVec.ofNat 32 (packSubs ty ((xs.drop (n * (q / n))).take n))).setWidth 64) (q % n) = BitVec.ofNat ty.width (xs.getD q 0) := by
  have hlen : ((xs.drop (n * (q / n))).take n).length ≤ n := List.length_take_le _ _
  have hq : q % n < n := Nat.mod_lt _ hn
  rw [part_packSubs ty ((Nat.mul_le_mul_left _ hlen).trans hw)]
  simp [List.getD_eq_getElem?_getD, hq, Nat.div_add_mod]

/-- Settles O10: the lanes of both destinations, the generators and the flags of `State.qntDone`. -/
theorem quantiserResult : Obligations.quantiserResult := by
  intro c ty rnd b64 d e a s i u mode size block hwf hi
  simp only [i, Instr.wf, Bool.and_eq_true, Bool.or_eq_true, beq_iff_eq, bne_iff_ne] at hwf
  obtain ⟨⟨hc, hty⟩, hde⟩ := hwf
  have hnarrow : ty.is64 = false := by rcases hty with (rfl | rfl) | rfl <;> rfl
  have hfill : 0 < subCount ty ∧ subCount ty * (64 / subCount ty) = 64 := by rcases hty with (rfl | rfl) | rfl <;> decide
  have hcount : tyCount ty = subCount ty := tyCount_eq_subCount hnarrow
  have hblock (p b : Nat) : block p b = u.qntAt ty mode b64 a p b := rfl
  rw [WritesRegs, GoesTo, exec_vqnt_eq]
  refine gives_writes hi rfl (writes_qntDone _ c ty _ b64 a (by simp [Instr.regs]) (by simp [Instr.regs])) fun t ht => ?_
  have hrv (r : Fin 32) : t.rv r = (u.qntDone c ty mode b64 d e a).rv r := ht.regs.vRegs r (by simp)
  refine ⟨fun p q hp hq => ?_, fun p q hp hq hge => ?_, fun p q hp hq => ?_, fun l hl => ?_, _,
    (raises_qntDone u ty mode b64 a).retires ht, u.getLsbD_qntFlags ty mode b64 a⟩
  · rw [hcount, hrv, elem_qntDone_elements u hc ty mode b64 a hde hp ((Nat.div_le_self _ _).trans_lt hq),
      part_packed_row hfill.1 (subCount_fits ty), State.qntElems_at u ty mode b64 a hp hq]
    rfl
  · rw [hcount] at hge
    have hdrop : (u.qntElems ty mode b64 a p).length ≤ subCount ty * q := by
      rw [State.length_qntElems u ty mode b64 a hp, ← hfill.2]
      exact Nat.mul_le_mul_left _ hge
    rw [hrv, elem_qntDone_elements u hc ty mode b64 a hde hp hq, List.drop_eq_nil_of_le hdrop, List.take_nil]
    rfl
  · rw [hrv, elem_qntDone_scales u hc ty mode b64 a hp hq, State.qntScales_at u ty mode b64 a hp, hblock, apply_ite (BitVec.ofNat 32)]
    rfl
  · rw [ht.gen, State.qntDone_gen u ty mode b64 a hl]
    have hon : (u.rp c.lPred).getLsbD l = !c.lNeg := u.isOn_noLanes hc hl
    simp only [hon, and_true]

end Sys2Proof.Machine
end

section
/-! What register writes do as steps of their own (R81, R108, R111, R112, R225, R240, R243, R244, R256, R265 to R267). -/

namespace Sys2Proof.Machine

/-! ### FIN, SEED and the voltage point (R78, R112, R225) -/

theorem State.lc_of_launch {s : State} {l : Launch} (hc : s.cc.launch = some l.id) (hl : s.launch? l.id = some l) : s.lc = l := by
  have hco : (s.core s.cur.val).launch = some l.id := hc
  rw [State.lc, State.launchOn, hco, Option.bind_some, hl]; rfl

theorem State.seedWrite_seeds (s : State) (w : Word32) : OutsideSame s (s.seedWrite w) ∧ (s.seedWrite w).cc.x.seed = w ∧
    (∀ l, l < 1024 → vget 0 (s.seedWrite w).cc.x.gen l = genStart w l) ∧
    (∀ j, j < 128 → vget 0 (s.seedWrite w).cc.mgen j = genStart w (1024 + j)) ∧
    (s.seedWrite w).cc.cgen = genStart w 1152 ∧ (s.seedWrite w).cc.ggen = genStart w 1153 := by
  have hcc : (s.seedWrite w).cc = s.cc.reseed w := State.cc_modCC s _
  rw [hcc]
  exact ⟨outside_modCC s _, rfl, fun l hl => vget_tab 0 1024 (genStart w) l hl,
    fun j hj => vget_tab 0 128 (fun j => genStart w (1024 + j)) j hj, rfl, rfl⟩

/-- A request for a point changes the two fields of VPREQ alone. -/
theorem State.vpreq_device (s : State) (tvp : BitVec 3) : s.vpreq tvp = { s with vpStat := (s.vpreq tvp).vpStat, vpReq := (s.vpreq tvp).vpReq } := by
  unfold State.vpreq
  split
  · rfl
  split
  · rfl
  split
  · split
    · rfl
    · split <;> rfl
  · rfl

section
variable {s : State} {tvp : BitVec 3} (h : s.vpStat ≠ 2)
include h

theorem State.vpreq_same (he : s.vpCur = tvp) : (s.vpreq tvp).vpStat = 1 ∧ (s.vpreq tvp).vpReq = s.vpReq := by
  rw [State.vpreq, if_neg h, if_pos he.symm]
  exact ⟨rfl, rfl⟩

theorem State.vpreq_up (hlt : s.vpCur.toNat < tvp.toNat) : (s.vpreq tvp).vpStat = 2 ∧ (s.vpreq tvp).vpReq = tvp := by
  have hne : tvp ≠ s.vpCur := fun e => absurd hlt (e ▸ Nat.lt_irrefl _)
  rw [State.vpreq, if_neg h, if_neg hne, if_neg (Nat.lt_asymm hlt)]
  exact ⟨rfl, rfl⟩

/-- A step down by what stands in its way. -/
theorem State.vpreq_down (hlt : tvp.toNat < s.vpCur.toNat) : s.vpreq tvp =
    if (List.range 384).any fun c => (s.vault c).remain s.vpCur.toNat tvp.toNat != 0 then { s with vpStat := 3 }
    else if (List.range 384).any fun c => s.losesFoot c tvp.toNat then { s with vpStat := 4 }
    else { s with vpStat := 2, vpReq := tvp } := by
  have hne : tvp ≠ s.vpCur := fun e => absurd hlt (e ▸ Nat.lt_irrefl _)
  rw [State.vpreq, if_neg h, if_neg hne, if_pos hlt]

theorem State.vpreq_remain (hlt : tvp.toNat < s.vpCur.toNat) (hr : ∃ d < 384, (s.vault d).remain s.vpCur.toNat tvp.toNat ≠ 0) :
    (s.vpreq tvp).vpStat = 3 ∧ (s.vpreq tvp).vpReq = s.vpReq := by
  rw [State.vpreq_down h hlt, if_pos (by simpa using hr)]
  exact ⟨rfl, rfl⟩

theorem State.vpreq_loses (hlt : tvp.toNat < s.vpCur.toNat) (hr : ∀ d < 384, (s.vault d).remain s.vpCur.toNat tvp.toNat = 0)
    (hf : ∃ d < 384, s.losesFoot d tvp.toNat = true) : (s.vpreq tvp).vpStat = 4 ∧ (s.vpreq tvp).vpReq = s.vpReq := by
  rw [State.vpreq_down h hlt, if_neg (by simpa using hr), if_pos (by simpa using hf)]
  exact ⟨rfl, rfl⟩

theorem State.vpreq_granted (hlt : tvp.toNat < s.vpCur.toNat) (hr : ∀ d < 384, (s.vault d).remain s.vpCur.toNat tvp.toNat = 0)
    (hf : ∀ d < 384, s.losesFoot d tvp.toNat = false) : (s.vpreq tvp).vpStat = 2 ∧ (s.vpreq tvp).vpReq = tvp := by
  rw [State.vpreq_down h hlt, if_neg (by simpa using hr), if_neg (by simpa using hf)]
  exact ⟨rfl, rfl⟩

end

/-- The rows that an MSC loses leave the request standing. -/
theorem State.mscStepDown_vpReq (s : State) (j leaf : Nat) : (s.mscStepDown j leaf).vpReq = s.vpReq := by
  unfold State.mscStepDown
  extract_lets u v keep
  have ha : Accesses none u v := u.dropMsc_accesses _ _ _ _ _
  exact (congrArg State.vpReq ha.apart :)

theorem State.railReached_idle {s : State} (h : s.vpStat ≠ 2) : s.railReached = s := if_pos h

theorem State.railReached_commits {s : State} (h : s.vpStat = 2) : s.railReached.vpCur = s.vpReq ∧ s.railReached.vpStat = 1 := by
  rw [State.railReached, if_neg (not_not.2 h)]
  refine ⟨?_, rfl⟩
  dsimp only
  split
  · rw [State.mapCores_vpReq, State.mscStepDown_vpReq, State.mscStepDown_vpReq]
  · rfl

/-! ### ROWMV (R111, R266, R267) -/

/-- The word of a write to ROWMV with GO = 1. -/
def rowmvWord (w : Word32) : Word := w.setWidth 64 ||| 0x80000000

section
variable (w : Word32)

theorem rowmvWord_low : (rowmvWord w).toNat % 2 ^ 31 = w.toNat % 2 ^ 31 := by
  rw [rowmvWord, BitVec.toNat_or, Nat.or_mod_two_pow, BitVec.toNat_setWidth, Nat.mod_eq_of_lt (w.isLt.trans (by decide))]
  exact Nat.or_zero _

theorem rowmvWord_go : bt (rowmvWord w) 31 = true := by
  rw [bt, rowmvWord, BitVec.getLsbD_or]
  exact Bool.or_true _

/-- The point that a write with GO names. -/
def rowmvPoint : Nat := w.toNat / 2 ^ 16 % 8
/-- The bank that it names. -/
def rowmvBank : Nat := w.toNat / 2 ^ 9 % 16
/-- The row that it names. -/
def rowmvRow : Nat := w.toNat % 2 ^ 9

theorem rowmvWord_point : bf (rowmvWord w) 18 16 = rowmvPoint w := by
  have h := rowmvWord_low w
  simp only [bf, bitsOf, rowmvPoint]
  omega

theorem rowmvWord_bank : bf (rowmvWord w) 12 9 = rowmvBank w := by
  have h := rowmvWord_low w
  simp only [bf, bitsOf, rowmvBank]
  omega

theorem rowmvWord_row : bf (rowmvWord w) 8 0 = rowmvRow w := by
  have h := rowmvWord_low w
  simp only [bf, bitsOf, rowmvRow]
  omega

end

/-- A core that refuses a GO: RES says why. -/
def Core.rowRefused (k : Core) (res : BitVec 3) : Core := { k with rowRes := res, rowGo := none }

/-- A core that starts the evacuation of a row. -/
def Core.rowStarts (k : Core) (bank row dst : Nat) (lost : Option Nat) : Core :=
  { k with rowRes := 0, rowPtr := 0, rowGo := some bank, rowEvac := some bank
           vault := { k.vault with evac := k.vault.evac ++ [⟨bank, row, dst, lost, 0⟩] } }

/-- What a core does with a GO: it refuses or starts. -/
def State.rowAnswer (s : State) (c : CoreId) (w : Word32) (k : Core) : Core :=
  if (s.vault c.val).evac.any fun e => e.bank == rowmvBank w then k.rowRefused 2
  else match ((s.vault c.val).dests (rowmvBank w) (rowmvPoint w)).find? fun d => d.1 == rowmvRow w with
    | none => k.rowRefused 3
    | some d =>
      match d.2.2 with
      | some lost =>
        if 131072 * rowmvBank w + 256 * lost < s.footOn c.val then k.rowRefused 4
        else k.rowStarts (rowmvBank w) (rowmvRow w) d.2.1 (some lost)
      | none => k.rowStarts (rowmvBank w) (rowmvRow w) d.2.1 none

/-- A core with the written fields of ROWMV. -/
def Core.rowTaken (k : Core) (w : Word32) : Core := { k with rowmv := (rowmvWord w).setWidth 19 &&& 0x71FFF }

theorem State.rowTaken_vault (s : State) (c : CoreId) (w : Word32) : (s.modCore c.val fun k => k.rowTaken w).vault c.val = s.vault c.val :=
  State.core_modCore_keeps Core.vault s c.val rfl c.val

theorem State.rowTaken_footOn (s : State) (c : CoreId) (w : Word32) : (s.modCore c.val fun k => k.rowTaken w).footOn c.val = s.footOn c.val := by
  have h : ((s.modCore c.val fun k => k.rowTaken w).core c.val).launch = (s.core c.val).launch :=
    State.core_modCore_keeps Core.launch s c.val rfl c.val
  rw [State.footOn, h]
  rfl

theorem State.rowmvGo_eq (s : State) (c : CoreId) (w : Word32) :
    s.rowmvWrite c.val (rowmvWord w) = s.modCore c.val fun k => s.rowAnswer c w (k.rowTaken w) := by
  rw [← State.modCore_modCore s c.val (fun k => k.rowTaken w) (s.rowAnswer c w)]
  have hgo : ¬(!bt (rowmvWord w) 31) = true := by rw [rowmvWord_go]; decide
  unfold State.rowmvWrite
  rw [if_neg hgo, rowmvWord_point, rowmvWord_bank, rowmvWord_row]
  unfold State.rowAnswer
  extract_lets tvp bank row vt res start
  have hvt : vt = s.vault c.val := s.rowTaken_vault c w
  have hfoot : (s.modCore c.val fun k => { k with rowmv := (rowmvWord w).setWidth 19 &&& 0x71FFF }).footOn c.val = s.footOn c.val :=
    s.rowTaken_footOn c w
  rw [hvt, hfoot]
  split
  · rfl
  cases (s.vault c.val |>.dests (rowmvBank w) (rowmvPoint w)).find? fun d => d.1 == rowmvRow w with
  | none => rfl
  | some d =>
    obtain ⟨r, dst, lost⟩ := d
    cases lost with
    | none => rfl
    | some g =>
      dsimp only
      split <;> rfl

section
variable {s : State} {c : CoreId} {w : Word32}

theorem State.rowAnswer_busy (h : ∃ y ∈ (s.core c.val).vault.evac, y.bank = rowmvBank w) (k : Core) : s.rowAnswer c w k = k.rowRefused 2 :=
  if_pos (by simpa [State.vault] using h)

variable (h : ∀ y ∈ (s.core c.val).vault.evac, y.bank ≠ rowmvBank w)
include h

theorem State.rowAnswer_none (k : Core)
    (hf : ((s.core c.val).vault.dests (rowmvBank w) (rowmvPoint w)).find? (fun y => y.1 == rowmvRow w) = none) :
    s.rowAnswer c w k = k.rowRefused 3 := by
  rw [State.rowAnswer, if_neg (by simpa [State.vault] using h), State.vault, hf]

theorem State.rowAnswer_free (k : Core) {row dst : Nat}
    (hf : ((s.core c.val).vault.dests (rowmvBank w) (rowmvPoint w)).find? (fun y => y.1 == rowmvRow w) = some (row, dst, none)) :
    s.rowAnswer c w k = k.rowStarts (rowmvBank w) (rowmvRow w) dst none := by
  rw [State.rowAnswer, if_neg (by simpa [State.vault] using h), State.vault, hf]

theorem State.rowAnswer_lost (k : Core) {row dst gone : Nat}
    (hf : ((s.core c.val).vault.dests (rowmvBank w) (rowmvPoint w)).find? (fun y => y.1 == rowmvRow w) = some (row, dst, some gone)) :
    s.rowAnswer c w k = if 131072 * rowmvBank w + 256 * gone < s.footOn c.val then k.rowRefused 4
      else k.rowStarts (rowmvBank w) (rowmvRow w) dst (some gone) := by
  rw [State.rowAnswer, if_neg (by simpa [State.vault] using h), State.vault, hf]

end

/-! ### Chunks of an evacuation (R111, R267) -/

section
variable (v : Vault) (src dst p : Nat)

theorem Vault.copyChunk_bytes (h : v.bytes.wf = true) {j : Nat} (hj : j < 32) :
    (v.copyChunk src dst p).bytes.byte (256 * dst + 32 * p + j) = v.bytes.byte (256 * src + 32 * p + j) := by
  have hw : (v.copyChunk src dst p).bytes = v.bytes.write (256 * dst + 32 * p) (v.bytes.read (256 * src + 32 * p) 32) := rfl
  have hlen : (v.bytes.read (256 * src + 32 * p) 32).length = 32 := by simp [Memory.read]
  rw [hw, Memory.byte_write h, if_pos (by omega), Nat.add_sub_cancel_left]
  simp [Memory.read, hj]

end

/-- A row that is the first to move lives at its destination. -/
theorem Vault.commitRow_phys {v : Vault} (h : v.remap = []) (e : Evac) : (v.commitRow e).phys e.bank e.row = e.dst := by
  have hr : (v.commitRow e).remap = SMap.set (528 * e.bank + e.row) [] (512 * e.bank + e.row) e.dst := by rw [← h]; rfl
  have hp : (v.commitRow e).phys e.bank e.row = SMap.get (528 * e.bank + e.row) (v.commitRow e).remap (512 * e.bank + e.row) := rfl
  rw [hp, hr, SMap.get_set (SMap.wf_nil _), if_pos rfl]

/-- Of a vault that has lost no row, the row that gave its place is the only one of its bank. -/
theorem Vault.commitRow_isLost {v : Vault} (h : v.lost = []) (e : Evac) (r : Nat) : (v.commitRow e).isLost e.bank r = true ↔ e.lost = some r := by
  have hl : (v.commitRow e).isLost e.bank r = SMap.get false (v.commitRow e).lost (512 * e.bank + r) := rfl
  rw [hl, Vault.commitRow, h]
  cases e.lost with
  | none => simp [SMap.get, SMap.find?]
  | some g =>
    dsimp only
    rw [SMap.get_set (SMap.wf_nil _)]
    by_cases hg : r = g
    · simp [hg]
    · have hne : ¬512 * e.bank + r = 512 * e.bank + g := by omega
      rw [if_neg hne]
      simp [Ne.symm hg, SMap.get, SMap.find?]

/-- Whether a word of the next chunk is poisoned. -/
def Vault.chunkBad (v : Vault) (bank : Nat) (e : Evac) : Bool :=
  (List.range 4).any fun i => SMap.get false v.pois (32 * v.phys bank e.row + 4 * e.p + i)

/-- A core after a chunk that holds an error: the evacuation is given up. -/
def Core.chunkStops (k : Core) (bank : Nat) (e : Evac) : Core :=
  ({ k with vault := { k.vault with evac := k.vault.evac.filter fun (x : Evac) => x.bank != bank } } : Core).reportRow bank (some 4) e.p

/-- A vault after a chunk has been copied. -/
def Vault.chunked (v : Vault) (bank : Nat) (e : Evac) : Vault := v.copyChunk (v.phys bank e.row) e.dst e.p

/-- A core after a chunk that is not the last. -/
def Core.chunkCopied (k : Core) (bank : Nat) (e : Evac) : Core :=
  ({ k with vault := { k.vault.chunked bank e with
      evac := (k.vault.chunked bank e).evac.map fun (x : Evac) => if x.bank == bank then { e with p := e.p + 1 } else x } } : Core).reportRow
    bank none (e.p + 1)

/-- A core after the last chunk. -/
def Core.chunkCommitted (k : Core) (bank : Nat) (e : Evac) : Core :=
  ({ k with vault := (k.vault.chunked bank e).commitRow { e with p := e.p + 1 } } : Core).reportRow bank (some 1) 8

theorem Core.chunkCopied_bytes (k : Core) (bank : Nat) (e : Evac) : (k.chunkCopied bank e).vault.bytes = (k.vault.chunked bank e).bytes := rfl

theorem Vault.commitRow_bytes (v : Vault) (e : Evac) : (v.commitRow e).bytes = v.bytes := rfl

section
variable {s : State} {c : CoreId} {bank : Nat} {e : Evac}

theorem State.evacChunk_idle (h : (s.core c.val).vault.evac.find? (fun y => y.bank == bank) = none) : s.evacChunk c.val bank = s := by
  rw [State.evacChunk, State.vault, h]

variable (h : (s.core c.val).vault.evac.find? (fun y => y.bank == bank) = some e)
include h

theorem State.evacChunk_eq : s.evacChunk c.val bank = s.setCore c.val
    (if (s.core c.val).vault.chunkBad bank e = true then (s.core c.val).chunkStops bank e
      else if e.p + 1 = 8 then (s.core c.val).chunkCommitted bank e else (s.core c.val).chunkCopied bank e) := by
  rw [State.evacChunk, State.vault, h]
  rfl

theorem State.evacChunk_core : (s.evacChunk c.val bank).core c.val =
    if (s.core c.val).vault.chunkBad bank e = true then (s.core c.val).chunkStops bank e
      else if e.p + 1 = 8 then (s.core c.val).chunkCommitted bank e else (s.core c.val).chunkCopied bank e := by
  rw [State.evacChunk_eq h, State.core_setCore_same]

theorem State.evacChunk_only : s.evacChunk c.val bank = { s with cores := (s.evacChunk c.val bank).cores } ∧
    ∀ d : Nat, d ≠ c.val → (s.evacChunk c.val bank).core d = s.core d := by
  rw [State.evacChunk_eq h]
  exact ⟨rfl, fun d hd => State.core_setCore_ne s c d _ hd.symm⟩

end

/-! ### The host's registers (R240, R243, R244) -/

theorem State.fnRegs_modFn (s : State) (f : FnId) (g : FnRegs → FnRegs) (n : Nat) :
    (s.modFn f.val g).fnRegs n = if n = f.val then g (s.fnRegs f.val) else s.fnRegs n := by
  unfold State.fnRegs State.modFn
  split
  · next h => rw [h, vget_vset_same _ _ _ _ f.isLt]; rfl
  · next h => rw [vget_vset_ne _ _ _ _ _ (Ne.symm h)]

theorem State.pfReg_setPfReg {s : State} (h : SMap.wf 0 s.pf = true) (off : Nat) (x : Word) (o : Nat) :
    (s.setPfReg off x).pfReg o = if o = off then x else s.pfReg o := SMap.get_set h off o x

section
variable {s : State} {off : Nat} {v : Word} (h1 : off < 0x30000) (h2 : off ≠ 0x21010) (h3 : ¬(0x21D00 ≤ off ∧ off < 0x21F00))
include h1 h2 h3

theorem State.pfWrite_plain : s.pfWrite off v = match pfValue off v with
    | none => s
    | some w => if 0x24000 ≤ off ∧ off < 0x24200 then (s.setPfReg off w).poolReset ((off - 0x24000) / 8) else s.setPfReg off w := by
  rw [State.pfWrite]
  exact (if_neg (Nat.not_le.2 h1)).trans ((if_neg h2).trans (if_neg fun h => h3 ⟨h.1, h.2.1⟩))

theorem State.pfWrite_ignored (hv : pfValue off v = none) : s.pfWrite off v = s := by
  rw [State.pfWrite_plain h1 h2 h3, hv]

theorem State.pfWrite_takes {x : Word} (hv : pfValue off v = some x) (hw : SMap.wf 0 s.pf = true) :
    (s.pfWrite off v).mem = s.mem ∧ (s.pfWrite off v).cores = s.cores ∧
      ∀ o, (s.pfWrite off v).pfReg o = if o = off then x else s.pfReg o := by
  rw [State.pfWrite_plain h1 h2 h3, hv]
  dsimp only
  split <;> exact ⟨rfl, rfl, fun o => State.pfReg_setPfReg hw off x o⟩

end

/-! ### World bits (R256) -/

theorem getLsbD_setBit {n : Nat} (x : BitVec n) {i : Nat} (hi : i < n) (b : Bool) (j : Nat) :
    (setBit x i b).getLsbD j = if j = i then b else x.getLsbD j := by
  unfold setBit
  cases b
  · by_cases hj : j = i
    · simp [hj, hi]
    · by_cases hn : j < n
      · simp [hj, hn]
      · simp [hj, BitVec.getLsbD_of_ge x j (Nat.le_of_not_lt hn)]
  · by_cases hj : j = i
    · simp [hj, hi]
    · simp [hj, Ne.symm hj]

end Sys2Proof.Machine
end

section
/-! The clauses of O50, and the obligation. -/

namespace Sys2Proof.Machine

section
variable {s : State} {c : CoreId} {w : Word32}

/-- What a write to ROWMV with GO leaves, by what the core answers. -/
theorem exec_rowmvGo_of {g : Core → Core} (h : ∀ k, s.rowAnswer c w k = g k) : ∃ t, exec (.rowmvGo c w) s = .next t ∧
    (t = { s with cores := t.cores } ∧ ∀ d : Nat, d ≠ c.val → t.core d = s.core d) ∧ t.core c.val = g ((s.core c.val).rowTaken w) := by
  have hw : s.rowmvWrite c.val (rowmvWord w) = s.modCore c.val fun k => g (k.rowTaken w) := by
    rw [State.rowmvGo_eq]; simp only [h]
  exact ⟨s.rowmvWrite c.val (rowmvWord w), rfl, by rw [hw]; exact State.modCore_only _ _ _, by rw [hw, State.core_modCore_same]⟩

theorem rowmvGo_busy (h : ∃ y ∈ (s.core c.val).vault.evac, y.bank = rowmvBank w) : ∃ t, exec (.rowmvGo c w) s = .next t ∧
    (t = { s with cores := t.cores } ∧ ∀ d : Nat, d ≠ c.val → t.core d = s.core d) ∧
    (t.core c.val).rowRes = 2 ∧ (t.core c.val).vault = (s.core c.val).vault := by
  obtain ⟨t, he, ho, ht⟩ := exec_rowmvGo_of (State.rowAnswer_busy h)
  exact ⟨t, he, ho, by rw [ht]; rfl, by rw [ht]; rfl⟩

variable (h : ∀ y ∈ (s.core c.val).vault.evac, y.bank ≠ rowmvBank w)
include h

theorem rowmvGo_none (hf : ((s.core c.val).vault.dests (rowmvBank w) (rowmvPoint w)).find? (fun y => y.1 == rowmvRow w) = none) :
    ∃ t, exec (.rowmvGo c w) s = .next t ∧ (t = { s with cores := t.cores } ∧ ∀ d : Nat, d ≠ c.val → t.core d = s.core d) ∧
    (t.core c.val).rowRes = 3 ∧ (t.core c.val).vault = (s.core c.val).vault := by
  obtain ⟨t, he, ho, ht⟩ := exec_rowmvGo_of fun k => State.rowAnswer_none h k hf
  exact ⟨t, he, ho, by rw [ht]; rfl, by rw [ht]; rfl⟩

theorem rowmvGo_free {row dst : Nat}
    (hf : ((s.core c.val).vault.dests (rowmvBank w) (rowmvPoint w)).find? (fun y => y.1 == rowmvRow w) = some (row, dst, none)) :
    ∃ t, exec (.rowmvGo c w) s = .next t ∧ (t = { s with cores := t.cores } ∧ ∀ d : Nat, d ≠ c.val → t.core d = s.core d) ∧
    (t.core c.val).rowRes = 0 ∧
    (t.core c.val).vault.evac = (s.core c.val).vault.evac ++ [⟨rowmvBank w, rowmvRow w, dst, none, 0⟩] := by
  obtain ⟨t, he, ho, ht⟩ := exec_rowmvGo_of fun k => State.rowAnswer_free h k hf
  exact ⟨t, he, ho, by rw [ht]; rfl, by rw [ht]; rfl⟩

theorem rowmvGo_lost {row dst gone : Nat}
    (hf : ((s.core c.val).vault.dests (rowmvBank w) (rowmvPoint w)).find? (fun y => y.1 == rowmvRow w) = some (row, dst, some gone)) :
    ∃ t, exec (.rowmvGo c w) s = .next t ∧ (t = { s with cores := t.cores } ∧ ∀ d : Nat, d ≠ c.val → t.core d = s.core d) ∧
    (131072 * rowmvBank w + 256 * gone < s.footOn c.val → (t.core c.val).rowRes = 4 ∧ (t.core c.val).vault = (s.core c.val).vault) ∧
    (s.footOn c.val ≤ 131072 * rowmvBank w + 256 * gone → (t.core c.val).rowRes = 0 ∧
      (t.core c.val).vault.evac = (s.core c.val).vault.evac ++ [⟨rowmvBank w, rowmvRow w, dst, some gone, 0⟩]) := by
  obtain ⟨t, he, ho, ht⟩ := exec_rowmvGo_of fun k => State.rowAnswer_lost h k hf
  refine ⟨t, he, ho, fun hlt => ?_, fun hle => ?_⟩
  · rw [ht, if_pos hlt]; exact ⟨rfl, rfl⟩
  · rw [ht, if_neg (Nat.not_lt.2 hle)]; exact ⟨rfl, rfl⟩

end

section
variable {s : State} {c : CoreId} {bank : Nat} {e : Evac} (h : (s.core c.val).vault.evac.find? (fun y => y.bank == bank) = some e)
include h

/-- A sound chunk that is not the last: the next one follows, and its bytes are at the destination. -/
theorem evacChunk_copies (hp : e.p < 7) (hb : (s.core c.val).vault.chunkBad bank e = false) :
    ((s.core c.val).rowEvac = some bank → ((s.evacChunk c.val bank).core c.val).rowPtr = BitVec.ofNat 4 (e.p + 1)) ∧
    { e with p := e.p + 1 } ∈ ((s.evacChunk c.val bank).vault c.val).evac ∧
    ((s.core c.val).vault.bytes.wf = true → ∀ j, j < 32 → ((s.evacChunk c.val bank).vault c.val).bytes.byte (256 * e.dst + 32 * e.p + j) =
      (s.core c.val).vault.bytes.byte (256 * (s.core c.val).vault.phys bank e.row + 32 * e.p + j)) := by
  have hk := State.evacChunk_core h
  rw [if_neg (by simp [hb]), if_neg (by omega)] at hk
  rw [State.vault, hk]
  refine ⟨fun hr => if_pos hr, ?_, fun hw j hj => ?_⟩
  case refine_2 => rw [Core.chunkCopied_bytes]; exact Vault.copyChunk_bytes _ _ _ _ hw hj
  exact List.mem_map.2 ⟨e, List.mem_of_find?_eq_some h, if_pos (List.find?_some h)⟩

/-- The last chunk, when it is sound: the row lives at its destination from then on. -/
theorem evacChunk_commits (hp : e.p = 7) (hb : (s.core c.val).vault.chunkBad bank e = false) :
    (∀ y ∈ ((s.evacChunk c.val bank).vault c.val).evac, y.bank ≠ bank) ∧
    ((s.core c.val).rowGo = some bank → ((s.evacChunk c.val bank).core c.val).rowRes = 1) ∧
    ((s.core c.val).rowEvac = some bank → ((s.evacChunk c.val bank).core c.val).rowPtr = 8) ∧
    ((s.core c.val).vault.remap = [] → ((s.evacChunk c.val bank).vault c.val).phys bank e.row = e.dst) ∧
    ((s.core c.val).vault.lost = [] → ∀ r, ((s.evacChunk c.val bank).vault c.val).isLost bank r = true ↔ e.lost = some r) ∧
    ((s.core c.val).vault.bytes.wf = true → ∀ j, j < 32 → ((s.evacChunk c.val bank).vault c.val).bytes.byte (256 * e.dst + 224 + j) =
      (s.core c.val).vault.bytes.byte (256 * (s.core c.val).vault.phys bank e.row + 224 + j)) := by
  have hbank : e.bank = bank := by simpa using List.find?_some h
  have hk := State.evacChunk_core h
  rw [if_neg (by simp [hb]), if_pos (by omega)] at hk
  have hv : (s.evacChunk c.val bank).vault c.val = ((s.core c.val).vault.chunked bank e).commitRow { e with p := e.p + 1 } := by
    rw [State.vault, hk]; rfl
  rw [hv, hk]
  refine ⟨fun y hy => ?_, fun hr => if_pos hr, fun hr => if_pos hr, fun hr => ?_, fun hl r => ?_, fun hw j hj => ?_⟩
  · have := (List.mem_filter.1 hy).2
    simpa [hbank] using this
  · rw [← hbank]
    exact Vault.commitRow_phys (e := { e with p := e.p + 1 }) hr
  · rw [← hbank]
    exact Vault.commitRow_isLost (v := (s.core c.val).vault.chunked e.bank e) hl { e with p := e.p + 1 } r
  · have hc := Vault.copyChunk_bytes (s.core c.val).vault ((s.core c.val).vault.phys bank e.row) e.dst e.p hw hj
    rw [Vault.commitRow_bytes, Vault.chunked]
    rw [hp] at hc ⊢
    exact hc

/-- A chunk that holds an error stops the evacuation. -/
theorem evacChunk_stops (hb : (s.core c.val).vault.chunkBad bank e = true) :
    (∀ y ∈ ((s.evacChunk c.val bank).vault c.val).evac, y.bank ≠ bank) ∧
    ((s.core c.val).rowGo = some bank → ((s.evacChunk c.val bank).core c.val).rowRes = 4) ∧
    ((s.evacChunk c.val bank).vault c.val).bytes = (s.core c.val).vault.bytes ∧
    ((s.evacChunk c.val bank).vault c.val).remap = (s.core c.val).vault.remap := by
  have hk := State.evacChunk_core h
  rw [if_pos hb] at hk
  rw [State.vault, hk]
  exact ⟨fun y hy => by simpa using (List.mem_filter.1 hy).2, fun hr => if_pos hr, rfl, rfl⟩

end

theorem Vault.chunkBad_false {v : Vault} {bank : Nat} {e : Evac}
    (h : ∀ j, j < 4 → SMap.get false v.pois (32 * v.phys bank e.row + 4 * e.p + j) = false) : v.chunkBad bank e = false := by
  simpa [Vault.chunkBad] using h

theorem Vault.chunkBad_true {v : Vault} {bank : Nat} {e : Evac}
    (h : ∃ j < 4, SMap.get false v.pois (32 * v.phys bank e.row + 4 * e.p + j) = true) : v.chunkBad bank e = true := by
  simpa [Vault.chunkBad] using h

/-- A register of a function's block that takes a field of the value. -/
theorem registerWrite_fn {s : State} {f : FnId} {off : BitVec 24} {v : Word} {g : FnRegs → FnRegs} {r : FnRegs}
    (h : s.fnWrite f.val off.toNat v = s.modFn f.val g) (hr : g (s.fnRegs f.val) = r) : ∃ t, exec (.registerWrite (.fn f) off v) s = .next t ∧
    t = { s with fns := t.fns } ∧ ∀ n, t.fnRegs n = if n = f.val then r else s.fnRegs n := by
  refine ⟨s.fnWrite f.val off.toNat v, rfl, by rw [h]; rfl, fun n => ?_⟩
  rw [h, State.fnRegs_modFn, hr]

/-- Settles O50: one lemma for each register and each way in which an evacuation goes on. -/
theorem registerSteps : Obligations.registerSteps := by
  intro c bank w v tvp f off x e b eng ctx l s k ended others fnw bits
  have hfn {o : Nat} {g : FnRegs → FnRegs} {r : FnRegs} (h : s.fnWrite f.val o v = s.modFn f.val g) (hr : g (s.fnRegs f.val) = r) :
      fnw o r := fun ho => registerWrite_fn (ho ▸ h) hr
  refine ⟨fun hc hl hr => ?_, ?_, ?_, ?_, ?_, ?_, ?_, ?_, rowmvGo_busy, fun hn hf => rowmvGo_free hn hf, rowmvGo_none,
    fun _ hn hf => rowmvGo_lost hn hf, ?_, ?_, ?_, ?_,
    hfn (g := fun r => { r with evbase := v &&& ~~~0xFFF }) rfl rfl, hfn (g := fun r => { r with evtail := v.toNat }) rfl rfl,
    hfn (g := fun r => { r with astvec := v &&& ~~~0xF }) rfl rfl, hfn (g := fun r => { r with xstvec := v &&& ~~~0xF }) rfl rfl, ?_, ?_, ?_, ?_, ?_⟩
  · have hid := State.lc_of_launch hc hl
    refine ⟨⟨s.finFault, rfl, ?_⟩, s.finKill, rfl, ?_⟩
    · rw [State.finFault, hid]; exact State.launch?_endLaunch hl hr _ _ _
    · rw [State.finKill, hid]; exact State.launch?_endLaunch hl hr _ _ _
  · exact ⟨_, rfl, s.seedWrite_seeds w⟩
  · exact ⟨_, rfl, State.modCore_only _ _ _, State.core_modCore_same _ _ _⟩
  · exact ⟨_, rfl, State.modCore_only _ _ _, State.core_modCore_same _ _ _⟩
  · exact fun h => congrArg Host.Outcome.next (if_pos h)
  · exact fun h => ⟨s.vpreq tvp, rfl, s.vpreq_device tvp, State.vpreq_same h, State.vpreq_up h, fun hlt =>
      ⟨State.vpreq_remain h hlt, fun hr => ⟨State.vpreq_loses h hlt hr, State.vpreq_granted h hlt hr⟩⟩⟩
  · exact fun h => congrArg Host.Outcome.next (State.railReached_idle h)
  · exact fun h => ⟨s.railReached, rfl, (State.railReached_commits h).1, (State.railReached_commits h).2, s.railReached_mem⟩
  · exact fun h => congrArg Host.Outcome.next (State.evacChunk_idle h)
  · exact fun h hp hb => ⟨_, rfl, State.evacChunk_only h, evacChunk_copies h hp (Vault.chunkBad_false hb)⟩
  · exact fun h hp hb => ⟨_, rfl, State.evacChunk_only h,
      evacChunk_commits h hp (Vault.chunkBad_false fun j hj => by rw [hp]; exact hb j hj)⟩
  · exact fun h hb => ⟨_, rfl, State.evacChunk_only h, evacChunk_stops h (Vault.chunkBad_true hb)⟩
  · exact fun h1 h2 h3 => ⟨fun hv => congrArg Host.Outcome.next (State.pfWrite_ignored h1 h2 h3 hv),
      fun hv hw => ⟨_, rfl, State.pfWrite_takes h1 h2 h3 hv hw⟩⟩
  · exact ⟨_, rfl, rfl, getLsbD_setBit _ c.isLt b⟩
  · exact ⟨_, rfl, rfl, getLsbD_setBit _ eng.isLt b⟩
  · exact ⟨_, rfl, rfl, getLsbD_setBit _ f.isLt b⟩
  · exact ⟨_, rfl, rfl, getLsbD_setBit _ ctx.isLt b⟩

end Sys2Proof.Machine
end

section
/-! The matrix array at work: commands start, passes add up, planes and regions change (R90, R107, R138, R179 to R184). -/

namespace Sys2Proof.Machine

/-! ### Changes of one core -/

/-- Only one core changes. -/
def ChangesCore (c : CoreId) (s t : State) : Prop := t = { s with cores := t.cores } ∧ ∀ d : Nat, d ≠ c.val → t.core d = s.core d

namespace ChangesCore
variable {c : CoreId} {s t u : State}

theorem refl (c : CoreId) (s : State) : ChangesCore c s s := ⟨rfl, fun _ _ => rfl⟩

theorem trans (a : ChangesCore c s t) (b : ChangesCore c t u) : ChangesCore c s u :=
  ⟨by rw [b.1, a.1], fun d hd => (b.2 d hd).trans (a.2 d hd)⟩

theorem modCore (s : State) (c : CoreId) (f : Core → Core) : ChangesCore c s (s.modCore c.val f) := State.modCore_only s c.val f

end ChangesCore

/-- Changes of one core in turn are one change. -/
theorem State.foldl_modCore {α : Type} (c : CoreId) (f : α → Core → Core) (l : List α) (s : State) :
    l.foldl (fun s a => s.modCore c.val (f a)) s = s.modCore c.val fun k => l.foldl (fun k a => f a k) k := by
  induction l generalizing s with
  | nil => exact (State.setCore_core s c.val).symm
  | cons a l ih => rw [List.foldl_cons, ih, State.modCore_modCore]; rfl

/-! ### Queued commands -/

section
variable {k : Core} {n : Nat} {x : MatCmd}

theorem Core.matCmd?_ticket (h : k.matCmd? n = some x) : x.ticket = n := by simpa using List.find?_some h

theorem Core.matCmd?_modMat (k : Core) (n : Nat) {f : MatCmd → MatCmd} (hf : ∀ y, (f y).ticket = y.ticket) :
    (k.modMat n f).matCmd? n = (k.matCmd? n).map f := find?_modFirst (fun y => by rw [hf]) k.matQ

theorem filter_modFirst {α : Type} {p q : α → Bool} {f : α → α} (h : ∀ y, p y = true → q y = false ∧ q (f y) = false) (l : List α) :
    (modFirst p f l).filter q = l.filter q := by
  induction l with
  | nil => rfl
  | cons y l ih =>
    cases hy : p y
    · simp only [modFirst, hy, Bool.false_eq_true, if_false, List.filter_cons, ih]
    · obtain ⟨h1, h2⟩ := h y hy
      simp [modFirst, hy, h1, h2]

/-- The other commands stay as they are while one is changed. -/
theorem Core.modMat_others (k : Core) (n : Nat) {f : MatCmd → MatCmd} (hf : ∀ y, (f y).ticket = y.ticket) :
    (k.modMat n f).matQ.filter (fun y => y.ticket != n) = k.matQ.filter fun y => y.ticket != n := by
  refine filter_modFirst (fun y hy => ?_) k.matQ
  have ht : y.ticket = n := by simpa using hy
  simp [hf, ht]

end

section
variable {s : State} {c : CoreId} {n : Nat} {x : MatCmd}

theorem State.matExecute_none (h : (s.core c.val).matCmd? n = none) : s.matExecute c.val n = s := by
  rw [State.matExecute, h]

theorem State.matExecute_waits (h : (s.core c.val).matCmd? n = some x) (hr : (s.core c.val).matReady x = false) : s.matExecute c.val n = s := by
  rw [State.matExecute, h]
  exact if_pos (by simp [hr])

theorem State.matExecute_starts (h : (s.core c.val).matCmd? n = some x) (hr : (s.core c.val).matReady x = true) : s.matExecute c.val n =
    if x.isAdpt then s.modCore c.val fun k => k.dropMat n
    else s.modCore c.val fun k => k.modMat n fun x => { x with started := true, since := s.cycle } := by
  rw [State.matExecute, h]
  exact if_neg (by simp [hr])

end

/-! ### Elements of the accumulator (R29) -/

theorem Core.accAt_setAcc (k : Core) (a b : Nat) (v : BitVec 56) {i j : Nat} (hi : i < 128) (hj : j < 128) :
    (k.setAcc a b v).accAt i j = if i = a ∧ j = b then v else k.accAt i j := by
  unfold Core.accAt Core.setAcc
  by_cases ha : i = a
  · subst ha
    rw [vget_vset_same _ _ _ _ hi]
    by_cases hb : j = b
    · subst hb
      rw [vget_vset_same _ _ _ _ hj, if_pos ⟨rfl, rfl⟩]
    · rw [vget_vset_ne _ _ _ _ _ (Ne.symm hb), if_neg fun h => hb h.2]
  · rw [vget_vset_ne _ _ _ _ _ (Ne.symm ha), if_neg fun h => ha h.1]

/-- Some elements of a row replaced, from left to right. -/
def Core.updRow (k : Core) (r c0 n : Nat) (f : Nat → BitVec 56 → BitVec 56) : Core :=
  (List.range n).foldl (fun k m => k.setAcc r (c0 + m) (f m (k.accAt r (c0 + m)))) k

/-- The same elements of some rows replaced, from top to bottom. -/
def Core.updRows (k : Core) (r0 m c0 n : Nat) (f : Nat → Nat → BitVec 56 → BitVec 56) : Core :=
  (List.range m).foldl (fun k a => k.updRow (r0 + a) c0 n (f a)) k

section
variable (k : Core) (c0 n : Nat) {i j : Nat} (hi : i < 128) (hj : j < 128)
include hi hj

theorem Core.accAt_updRow (r : Nat) (f : Nat → BitVec 56 → BitVec 56) : (k.updRow r c0 n f).accAt i j =
    if i = r ∧ c0 ≤ j ∧ j < c0 + n then f (j - c0) (k.accAt i j) else k.accAt i j := by
  induction n with
  | zero => exact (if_neg (by omega)).symm
  | succ n ih =>
    have hstep : k.updRow r c0 (n + 1) f =
        (k.updRow r c0 n f).setAcc r (c0 + n) (f n ((k.updRow r c0 n f).accAt r (c0 + n))) := by
      simp [Core.updRow, List.range_succ]
    rw [hstep, Core.accAt_setAcc _ _ _ _ hi hj]
    by_cases h : i = r ∧ j = c0 + n
    · obtain ⟨rfl, rfl⟩ := h
      rw [if_pos ⟨rfl, rfl⟩, ih, if_neg (by omega), if_pos (by omega), Nat.add_sub_cancel_left]
    · rw [if_neg h, ih]
      by_cases hin : i = r ∧ c0 ≤ j ∧ j < c0 + n
      · rw [if_pos hin, if_pos (by omega)]
      · rw [if_neg hin, if_neg (by omega)]

theorem Core.accAt_updRows (r0 m : Nat) (f : Nat → Nat → BitVec 56 → BitVec 56) : (k.updRows r0 m c0 n f).accAt i j =
    if r0 ≤ i ∧ i < r0 + m ∧ c0 ≤ j ∧ j < c0 + n then f (i - r0) (j - c0) (k.accAt i j) else k.accAt i j := by
  induction m with
  | zero => exact (if_neg (by omega)).symm
  | succ m ih =>
    have hstep : k.updRows r0 (m + 1) c0 n f = (k.updRows r0 m c0 n f).updRow (r0 + m) c0 n (f m) := by
      simp [Core.updRows, List.range_succ]
    rw [hstep, Core.accAt_updRow _ _ _ hi hj, ih]
    by_cases h : i = r0 + m ∧ c0 ≤ j ∧ j < c0 + n
    · rw [if_pos h, if_neg (by omega), if_pos (by omega), h.1, Nat.add_sub_cancel_left]
    · rw [if_neg h]
      by_cases hin : r0 ≤ i ∧ i < r0 + m ∧ c0 ≤ j ∧ j < c0 + n
      · rw [if_pos hin, if_pos (by omega)]
      · rw [if_neg hin, if_neg (by omega)]

end

/-- A region that is zeroed, and no other element. -/
theorem Core.accAt_zeroRegion (k : Core) (z : Region) {i j : Nat} (hi : i < 128) (hj : j < 128) : (k.zeroRegion z).accAt i j =
    if z.r0 ≤ i ∧ i < z.r0 + z.r ∧ z.c0 ≤ j ∧ j < z.c0 + z.c then 0 else k.accAt i j := by
  unfold Core.accAt Core.zeroRegion
  dsimp only
  rw [vget_vmapi _ (Vector.replicate 128 0) _ _ _ hi]
  by_cases hr : z.r0 ≤ i ∧ i < z.r0 + z.r
  · rw [if_pos hr, vget_vmapi _ 0 _ _ _ hj]
    by_cases hc : z.c0 ≤ j ∧ j < z.c0 + z.c
    · rw [if_pos hc, if_pos ⟨hr.1, hr.2, hc⟩]
    · rw [if_neg hc, if_neg fun h => hc h.2.2]
  · rw [if_neg hr, if_neg fun h => hr ⟨h.1, h.2.1⟩]

/-! ### Reading the vault on path M (R138, R247) -/

/-- A core whose vault has corrected some bytes. -/
def Core.correct (r : Nat × Nat) (k : Core) : Core := { k with vault := k.vault.correct r.1 r.2 }

/-- A core whose vault has corrected what was read. -/
def Core.corrected (k : Core) (reads : List (Nat × Nat)) : Core := reads.foldl (fun k r => k.correct r) k

theorem Core.corrected_eq (k : Core) (reads : List (Nat × Nat)) :
    k.corrected reads = { k with vault := (k.corrected reads).vault } ∧ k.vault.Alike (k.corrected reads).vault := by
  unfold Core.corrected
  induction reads generalizing k with
  | nil => exact ⟨rfl, .refl _⟩
  | cons r reads ih =>
    obtain ⟨h1, h2⟩ := ih (k.correct r)
    exact ⟨h1, (k.vault.alike_correct r.1 r.2).trans h2⟩

theorem State.corrected_eq (s : State) (c : CoreId) (reads : List (Nat × Nat)) :
    reads.foldl (fun s r => s.modVault c.val fun v => v.correct r.1 r.2) s = s.modCore c.val fun k => k.corrected reads :=
  State.foldl_modCore c Core.correct reads s

/-- The launch of a core that keeps its number. -/
theorem State.launchOn_modCore (s : State) (c : Nat) {f : Core → Core} (h : (f (s.core c)).launch = (s.core c).launch) (d : Nat) :
    (s.modCore c f).launchOn d = s.launchOn d :=
  State.launchOn_congr rfl (State.core_modCore_keeps Core.launch s c h d)

/-- An element of a tile is read from the bytes of the vault. -/
theorem State.tileElem_congr {s t : State} {c : Nat} (hv : (s.vault c).Alike (t.vault c)) (hl : t.launchOn c = s.launchOn c)
    (fmt : Word) (off i : Nat) : t.tileElem c fmt off i = s.tileElem c fmt off i := by
  unfold State.tileElem
  simp only [hv.byte, hl]

theorem State.actRow_congr {s t : State} {c : Nat} (hv : (s.vault c).Alike (t.vault c)) (hl : t.launchOn c = s.launchOn c)
    (x : MatCmd) (g : Grant) (i : Nat) : t.actRow c x g i = s.actRow c x g i :=
  List.map_congr_left fun _ _ => State.tileElem_congr hv hl _ _ _

/-! ### Side work of no group (R190) -/

/-- A multiply without bound groups: nothing to do but to retire once its passes are done. -/
theorem State.sideRun_unbound {s : State} {c n : Nat} {x : MatCmd} (h : (s.core c).matCmd? n = some x) (hb : (s.core c).boundGroups x = []) :
    s.sideRun c n = if x.isMul && x.started && (s.core c).passesDone x then s.modCore c fun k => k.dropMat n else s := by
  rw [State.sideRun, h]
  dsimp only
  rw [hb, List.foldl_nil, List.foldl_nil, State.mulRetire, h]
  dsimp only
  rw [hb, List.all_nil, Bool.and_true]

/-- Side work of no group changes its core alone, and leaves the accumulator. -/
theorem State.sideRun_unbound_leaves {s : State} {c : CoreId} {n : Nat} {x : MatCmd} (h : (s.core c.val).matCmd? n = some x)
    (hb : (s.core c.val).boundGroups x = []) :
    ChangesCore c s (s.sideRun c.val n) ∧ ((s.sideRun c.val n).core c.val).acc = (s.core c.val).acc := by
  rw [State.sideRun_unbound h hb]
  split
  · exact ⟨.modCore s c _, by rw [State.core_modCore_same]; rfl⟩
  · exact ⟨.refl c s, rfl⟩

theorem Core.boundGroups_unbound {k : Core} {x : MatCmd} (h : k.bindOf x = none) : k.boundGroups x = [] := by
  rw [Core.boundGroups, h]

theorem Core.region_grant {k : Core} {g : Grant} (h : k.grant = some g) (x : MatCmd) : k.region x = g.region x.region := by
  rw [Core.region, h]

/-! ### Passes (R90, R183) -/

theorem zip_map_self {α β : Type} (l : List α) (f : α → β) : l.zip (l.map f) = l.map fun a => (a, f a) := by
  have h := List.zip_map' (f := id) (g := f) (l := l)
  rwa [List.map_id] at h

/-- The sums of a pass, element by element. -/
theorem State.passSums_eq (s : State) (c : CoreId) (x : MatCmd) (g : Grant) (z : Region) : s.passSums c.val x g z = s.modCore c.val fun k =>
    k.updRows (z.r0 + 8 * x.pass) 8 z.c0 z.c fun a b v => accumulate g.ty v (s.actRow c.val x g (8 * x.pass + a))
      ((List.range g.k).map fun kk => weightOf (s.core c.val).active g b kk) := by
  unfold State.passSums
  dsimp only
  refine congrArg (s.modCore c.val) (funext fun k => ?_)
  rw [zip_map_self, List.foldl_map]
  simp only [List.foldl_map, Core.updRows, Core.updRow, Nat.add_assoc]

/-- A core after a pass: rows marked secure, the pass counted, the command one pass on. -/
def Core.passed (k : Core) (rows : List Nat) (sec : Bool) (n : Nat) : Core :=
  ((k.markAcc rows sec).countEv 4 1).modMat n fun x => { x with pass := x.pass + 1 }

theorem Core.passed_keeps (k : Core) (rows : List Nat) (sec : Bool) (n : Nat) :
    (k.passed rows sec n).acc = k.acc ∧ (k.passed rows sec n).binds = k.binds ∧
      (k.passed rows sec n).matCmd? n = (k.matCmd? n).map fun x => { x with pass := x.pass + 1 } := by
  have hm : (k.markAcc rows sec).acc = k.acc ∧ (k.markAcc rows sec).binds = k.binds ∧ (k.markAcc rows sec).matQ = k.matQ := by
    unfold Core.markAcc
    split <;> exact ⟨rfl, rfl, rfl⟩
  obtain ⟨hacc, hbinds, hq⟩ := hm
  have hc (k : Core) : (k.countEv 4 1).acc = k.acc ∧ (k.countEv 4 1).binds = k.binds ∧ (k.countEv 4 1).matQ = k.matQ := by
    rw [Core.countEv_eq]
    exact ⟨rfl, rfl, rfl⟩
  obtain ⟨hacc', hbinds', hq'⟩ := hc (k.markAcc rows sec)
  refine ⟨hacc'.trans hacc, hbinds'.trans hbinds, ?_⟩
  rw [Core.passed, Core.matCmd?_modMat (f := fun x => { x with pass := x.pass + 1 }) _ _ fun _ => rfl, Core.matCmd?, hq', hq]
  rfl

theorem Core.updRow_eq (k : Core) (r c0 n : Nat) (f : Nat → BitVec 56 → BitVec 56) : k.updRow r c0 n f = { k with acc := (k.updRow r c0 n f).acc } := by
  unfold Core.updRow
  induction List.range n generalizing k with
  | nil => rfl
  | cons m l ih => exact ih (k.setAcc r (c0 + m) (f m (k.accAt r (c0 + m))))

theorem Core.updRows_eq (k : Core) (r0 m c0 n : Nat) (f : Nat → Nat → BitVec 56 → BitVec 56) :
    k.updRows r0 m c0 n f = { k with acc := (k.updRows r0 m c0 n f).acc } := by
  unfold Core.updRows
  induction List.range m generalizing k with
  | nil => rfl
  | cons a l ih =>
    rw [List.foldl_cons, ih, Core.updRow_eq]

section
variable {s : State} {c : CoreId} {n : Nat} {x : MatCmd} {g : Grant} (hx : (s.core c.val).matCmd? n = some x) (hg : (s.core c.val).grant = some g)
include hx hg

theorem State.matPass_waits (h : x.isMul = false ∨ x.started = false ∨ (g.region x.region).r ≤ 8 * x.pass ∨
    s.cycle < x.since + 8 + 8 * (x.pass + 1) * (((g.region x.region).c + 63) / 64)) : s.matPass c.val n = s := by
  rw [State.matPass, hx, hg]
  refine if_pos ?_
  simp only [Core.passesDone, Core.region_grant hg, Bool.or_eq_true, Bool.not_eq_eq_eq_not, Bool.not_true, decide_eq_true_eq]
  have hd : cdiv (g.region x.region).c 64 = ((g.region x.region).c + 63) / 64 := rfl
  rw [hd]
  tauto

/-- A sound pass: what is read is corrected, the sums are added, and the side work follows. -/
theorem State.matPass_runs (hm : x.isMul = true) (hs : x.started = true) (hp : 8 * x.pass < (g.region x.region).r)
    (ht : x.since + 8 + 8 * (x.pass + 1) * (((g.region x.region).c + 63) / 64) ≤ s.cycle)
    (hbad : ∀ r ∈ elemReads x.fmt x.off (8 * x.pass * g.k) (8 * g.k), (s.core c.val).vault.bad r.1 r.2 = false) :
    ∃ rows sec, s.matPass c.val n = (s.modCore c.val fun k =>
      (((k.corrected (elemReads x.fmt x.off (8 * x.pass * g.k) (8 * g.k))).updRows ((g.region x.region).r0 + 8 * x.pass) 8
        (g.region x.region).c0 (g.region x.region).c fun a b v => accumulate g.ty v (s.actRow c.val x g (8 * x.pass + a))
          ((List.range g.k).map fun kk => weightOf (s.core c.val).active g b kk)).passed rows sec n)).sideRun c.val n := by
  have hd : cdiv (g.region x.region).c 64 = ((g.region x.region).c + 63) / 64 := rfl
  have hgo : ¬(!x.isMul || !x.started || (s.core c.val).passesDone x ||
      decide (s.cycle < x.since + 8 + 8 * (x.pass + 1) * cdiv (g.region x.region).c 64)) = true := by
    simp [hm, hs, Core.passesDone, Core.region_grant hg, hd, Nat.not_le.2 hp, ht]
  have hsound : ¬((elemReads x.fmt x.off (8 * x.pass * g.k) (8 * g.k)).any fun r => (s.vault c.val).bad r.1 r.2) = true := by
    simpa [State.vault] using hbad
  rw [State.matPass, hx, hg]
  dsimp only
  rw [if_neg hgo, if_neg hsound, State.corrected_eq, State.passSums_eq, State.modCore_modCore, State.modCore_modCore]
  have hrow (i : Nat) : (s.modCore c.val fun k => k.corrected (elemReads x.fmt x.off (8 * x.pass * g.k) (8 * g.k))).actRow c.val x g i =
      s.actRow c.val x g i := by
    have hcor := Core.corrected_eq (s.core c.val) (elemReads x.fmt x.off (8 * x.pass * g.k) (8 * g.k))
    refine State.actRow_congr ?_ (State.launchOn_modCore s c.val (by rw [hcor.1]) c.val) x g i
    rw [State.vault, State.vault, State.core_modCore_same]
    exact hcor.2
  have hact : ((s.modCore c.val fun k => k.corrected (elemReads x.fmt x.off (8 * x.pass * g.k) (8 * g.k))).core c.val).active =
      (s.core c.val).active := by
    rw [State.core_modCore_same, (Core.corrected_eq _ _).1]
  simp only [hrow, hact]
  exact ⟨_, _, rfl⟩

theorem matPass_adds (hm : x.isMul = true) (hs : x.started = true) (hp : 8 * x.pass < (g.region x.region).r)
    (ht : x.since + 8 + 8 * (x.pass + 1) * (((g.region x.region).c + 63) / 64) ≤ s.cycle)
    (hbad : ∀ r ∈ elemReads x.fmt x.off (8 * x.pass * g.k) (8 * g.k), (s.core c.val).vault.bad r.1 r.2 = false)
    (hb : (s.core c.val).bindOf x = none) :
    ChangesCore c s (s.matPass c.val n) ∧ ∀ i j, i < 128 → j < 128 → ((s.matPass c.val n).core c.val).accAt i j =
      if (g.region x.region).r0 + 8 * x.pass ≤ i ∧ i < (g.region x.region).r0 + 8 * x.pass + 8 ∧
          (g.region x.region).c0 ≤ j ∧ j < (g.region x.region).c0 + (g.region x.region).c then
        accumulate g.ty ((s.core c.val).accAt i j) (s.actRow c.val x g (i - (g.region x.region).r0))
          ((List.range g.k).map fun m => weightOf (s.core c.val).active g (j - (g.region x.region).c0) m)
      else (s.core c.val).accAt i j := by
  obtain ⟨rows, sec, hrun⟩ := State.matPass_runs hx hg hm hs hp ht hbad
  rw [hrun]
  generalize elemReads x.fmt x.off (8 * x.pass * g.k) (8 * g.k) = reads
  generalize hf : (fun (a b : Nat) (v : BitVec 56) => accumulate g.ty v (s.actRow c.val x g (8 * x.pass + a))
          ((List.range g.k).map fun kk => weightOf (s.core c.val).active g b kk)) = f
  generalize hz : g.region x.region = z
  have hcor := (Core.corrected_eq (s.core c.val) reads).1
  have hupd := Core.updRows_eq ((s.core c.val).corrected reads) (z.r0 + 8 * x.pass) 8 z.c0 z.c f
  generalize hk1 : ((s.core c.val).corrected reads).updRows (z.r0 + 8 * x.pass) 8 z.c0 z.c f = k1 at hupd
  generalize hu : (s.modCore c.val fun k => ((k.corrected reads).updRows (z.r0 + 8 * x.pass) 8 z.c0 z.c f).passed rows sec n) = u
  have hcore : u.core c.val = k1.passed rows sec n := by rw [← hu, State.core_modCore_same, hk1]
  obtain ⟨hacc, hbinds, hcmd⟩ := k1.passed_keeps rows sec n
  have hcmd' : (u.core c.val).matCmd? n = some { x with pass := x.pass + 1 } := by
    rw [hcore, hcmd, hupd, hcor]
    exact congrArg _ hx
  have hnone : (u.core c.val).boundGroups { x with pass := x.pass + 1 } = [] := by
    refine Core.boundGroups_unbound ?_
    rw [Core.bindOf, hcore, hbinds, hupd, hcor]
    exact hb
  obtain ⟨hch, hacc'⟩ := State.sideRun_unbound_leaves hcmd' hnone
  refine ⟨(hu ▸ ChangesCore.modCore s c _).trans hch, fun i j hi hj => ?_⟩
  have hat : ((u.sideRun c.val n).core c.val).accAt i j = k1.accAt i j := by
    rw [Core.accAt, hacc', hcore, hacc, Core.accAt]
  have hold : ((s.core c.val).corrected reads).accAt i j = (s.core c.val).accAt i j := by rw [hcor]; rfl
  rw [hat, ← hk1, Core.accAt_updRows _ _ _ hi hj, hold, ← hf]
  dsimp only
  split
  · next h => rw [show 8 * x.pass + (i - (z.r0 + 8 * x.pass)) = i - z.r0 by omega]
  · rfl

end

end Sys2Proof.Machine
end

section
/-! The ends of matrix commands: planes exchanged and filled, regions cleared and drained (R99, R181 to R184). -/

namespace Sys2Proof.Machine

/-! ### Drains (R99, R184) -/

/-- A drain changes no more of a core than its generators. -/
theorem Core.drainAll_core (k : Core) (g : Grant) (z : Region) (ty : Ty) (rnd : Rnd) (sat : Bool) :
    (k.drainAll g z ty rnd sat).2.2 = { k with mgen := (k.drainAll g z ty rnd sat).2.2.mgen } := by
  unfold Core.drainAll
  suffices h : ∀ (l : List Nat) (f : List Nat × Flags × Core → Nat → List Nat × Flags × Core) (a : List Nat × Flags × Core),
      (∀ a n, (f a n).2.2 = { a.2.2 with mgen := (f a n).2.2.mgen }) → (l.foldl f a).2.2 = { a.2.2 with mgen := (l.foldl f a).2.2.mgen } from
    h _ _ ([], 0, k) fun _ _ => rfl
  intro l f a hf
  induction l generalizing a with
  | nil => rfl
  | cons n l ih =>
    rw [List.foldl_cons, ih, hf]

/-- A core whose drain has read its region. -/
def Core.drainedRead (k : Core) (x : MatCmd) (g : Grant) (ty : Ty) (rnd : Rnd) (sat : Bool) (cycle : Nat) : Core :=
  let r := k.drainAll g (g.region x.region) ty rnd sat
  { r.2.2.modMat x.ticket fun x => { x with out := some (x.off, packBytes ty.width r.1, false) } with
    x := { r.2.2.x with drained := r.2.2.x.drained ++ [⟨x.ticket, cycle, r.2.1⟩] } }

/-- A core of which a drain has written a bank row. -/
def Core.drainedRow (k : Core) (owner : BitVec 8) (n cycle : Nat) (w : Nat × List Byte × Bool) : Core :=
  let m := pieceOf (ownPtr w.1) 0 w.2.1.length
  let q := { k with vault := k.vault.write owner w.1 (w.2.1.take m) w.2.2 }
  if m < w.2.1.length then q.modMat n fun x => { x with out := some (w.1 + m, w.2.1.drop m, w.2.2) }
  else { q.dropMat n with x := { q.x with drained := q.x.drained.map fun d => if d.ticket = n then { d with due := cycle } else d } }

theorem State.drainRow_eq (s : State) (c : CoreId) (x : MatCmd) (w : Nat × List Byte × Bool) :
    s.drainRow c.val x w = s.modCore c.val fun k => k.drainedRow (s.launchOn c.val).owner x.ticket s.cycle w := by
  unfold State.drainRow Core.drainedRow State.writeVault State.modVault
  extract_lets m t
  split <;> exact State.modCore_modCore s c _ _

theorem State.drainRead_eq {s : State} {c : Nat} (hsec : (s.core c).accSec = 0) {ty : Ty} (hty : ty ≠ .bpi) (x : MatCmd) (g : Grant) (rnd : Rnd) (sat : Bool) :
    s.drainRead c x g ty rnd sat = s.modCore c fun k => k.drainedRead x g ty rnd sat s.cycle := by
  have hany : ((List.range (g.region x.region).r).any fun i => bt (s.core c).accSec ((g.region x.region).r0 + i)) = false := by
    rw [hsec]
    simp [bt]
  unfold State.drainRead
  dsimp only
  rw [hany, if_neg (by simp), if_neg hty]
  rfl

/-- The region read: the vault and the other commands stay, the flags are recorded, the bytes wait. -/
theorem Core.drainedRead_keeps {k : Core} {n : Nat} {x : MatCmd} (h : k.matCmd? n = some x) (hn : x.ticket = n) (g : Grant) (ty : Ty) (rnd : Rnd) (sat : Bool)
    (cycle : Nat) :
    let r := k.drainAll g (g.region x.region) ty rnd sat
    let q := k.drainedRead x g ty rnd sat cycle
    q.vault = k.vault ∧ q.launch = k.launch ∧ q.x = { k.x with drained := k.x.drained ++ [⟨n, cycle, r.2.1⟩] } ∧
      (q.matQ.filter fun y => y.ticket != n) = (k.matQ.filter fun y => y.ticket != n) ∧
      q.matCmd? n = some { x with out := some (x.off, packBytes ty.width r.1, false) } := by
  dsimp only
  have hcore := k.drainAll_core g (g.region x.region) ty rnd sat
  subst hn
  unfold Core.drainedRead
  dsimp only
  generalize k.drainAll g (g.region x.region) ty rnd sat = r at hcore
  generalize hf : (fun x : MatCmd => { x with out := some (x.off, packBytes ty.width r.1, false) }) = f
  have hft (y : MatCmd) : (f y).ticket = y.ticket := by rw [← hf]
  have hq : r.2.2.matQ = k.matQ := by rw [hcore]
  refine ⟨by rw [hcore]; rfl, by rw [hcore]; rfl, by rw [hcore], ?_, ?_⟩
  · exact (r.2.2.modMat_others x.ticket hft).trans (by rw [hq])
  · refine (r.2.2.matCmd?_modMat x.ticket hft).trans ?_
    rw [Core.matCmd?, hq]
    exact (congrArg _ h).trans (by rw [← hf]; rfl)

/-- The vault after a bank row of a drain. -/
def Core.rowWritten (k : Core) (owner : BitVec 8) (off : Nat) (bs : List Byte) (sec : Bool) : Core :=
  { k with vault := k.vault.write owner off (bs.take (pieceOf (ownPtr off) 0 bs.length)) sec }

section
variable (k : Core) (owner : BitVec 8) (n cycle off : Nat) (bs : List Byte) (sec : Bool)

theorem Core.drainedRow_more (h : pieceOf (ownPtr off) 0 bs.length < bs.length) : k.drainedRow owner n cycle (off, bs, sec) =
    (k.rowWritten owner off bs sec).modMat n fun x =>
      { x with out := some (off + pieceOf (ownPtr off) 0 bs.length, bs.drop (pieceOf (ownPtr off) 0 bs.length), sec) } :=
  if_pos h

theorem Core.drainedRow_last (h : bs.length ≤ pieceOf (ownPtr off) 0 bs.length) : k.drainedRow owner n cycle (off, bs, sec) =
    { (k.rowWritten owner off bs sec).dropMat n with
      x := { k.x with drained := k.x.drained.map fun d => if d.ticket = n then { d with due := cycle } else d } } :=
  if_neg (Nat.not_lt.2 h)

/-- A bank row written: more of the tile waits, or the command is gone and its flags are due. -/
theorem Core.drainedRow_writes {y : MatCmd} (h : k.matCmd? n = some y) :
    let m := pieceOf (ownPtr off) 0 bs.length
    let q := k.drainedRow owner n cycle (off, bs, sec)
    VaultWrites owner off (bs.take m) k.vault q.vault ∧
      (m < bs.length → q.x = k.x ∧ ∃ y, q.matCmd? n = some y ∧ y.out = some (off + m, bs.drop m, sec)) ∧
      (bs.length ≤ m → q.matQ = (k.matQ.filter fun y => y.ticket != n) ∧
        q.x = { k.x with drained := k.x.drained.map fun d => if d.ticket = n then { d with due := cycle } else d }) := by
  dsimp only
  obtain hlt | hle := Nat.lt_or_ge (pieceOf (ownPtr off) 0 bs.length) bs.length
  · rw [Core.drainedRow_more k owner n cycle off bs sec hlt]
    generalize hf : (fun x : MatCmd =>
      { x with out := some (off + pieceOf (ownPtr off) 0 bs.length, bs.drop (pieceOf (ownPtr off) 0 bs.length), sec) }) = f
    refine ⟨Vault.write_writes _ _ _ _ _, fun _ => ⟨rfl, f y, ?_, by rw [← hf]⟩, fun hle => absurd hlt (Nat.not_lt.2 hle)⟩
    exact ((k.rowWritten owner off bs sec).matCmd?_modMat n fun _ => by rw [← hf]).trans (congrArg _ h)
  · rw [Core.drainedRow_last k owner n cycle off bs sec hle]
    exact ⟨Vault.write_writes _ _ _ _ _, fun hlt => absurd hlt (Nat.not_lt.2 hle), fun _ => ⟨rfl, rfl⟩⟩

end

section
variable {s : State} {c : CoreId} {n : Nat} {x : MatCmd} {g : Grant}

/-- One step of a drain is one bank row written from a core that differs at most by what the read left. -/
theorem State.drainEnd_row (hx : (s.core c.val).matCmd? n = some x) (hn : x.ticket = n) {ty : Ty} {rnd : Rnd} {sat : Bool} {off : Nat} {bs : List Byte} {sec : Bool}
    (h : x.out = some (off, bs, sec) ∨ (x.out = none ∧ ty ≠ .bpi ∧ (s.core c.val).accSec = 0 ∧ off = x.off ∧
      bs = packBytes ty.width ((s.core c.val).drainAll g (g.region x.region) ty rnd sat).1 ∧ sec = false)) :
    ∃ (f : Core → Core) (y : MatCmd),
      s.drainEnd c.val x g ty rnd sat = (s.modCore c.val f).modCore c.val (fun k => k.drainedRow (s.launchOn c.val).owner n s.cycle (off, bs, sec)) ∧
      (f (s.core c.val)).vault = (s.core c.val).vault ∧ (f (s.core c.val)).matCmd? n = some y ∧
      (f (s.core c.val)).x = { (s.core c.val).x with drained := (s.core c.val).x.drained ++
        if x.out = none then [⟨n, s.cycle, ((s.core c.val).drainAll g (g.region x.region) ty rnd sat).2.1⟩] else [] } ∧
      ((f (s.core c.val)).matQ.filter fun y => y.ticket != n) = ((s.core c.val).matQ.filter fun y => y.ticket != n) := by
  obtain hout | ⟨hout, hty, hsec, rfl, rfl, rfl⟩ := h
  · refine ⟨id, x, ?_, rfl, hx, ?_, rfl⟩
    · rw [State.drainEnd, hout]
      dsimp only
      rw [State.drainRow_eq, hn]
      exact congrArg (fun t : State => t.modCore c.val _) (State.setCore_core s c.val).symm
    · simp [hout]
  · obtain ⟨hv, hl, hxs, hq, hcmd⟩ := Core.drainedRead_keeps hx hn g ty rnd sat s.cycle
    refine ⟨fun k => k.drainedRead x g ty rnd sat s.cycle, _, ?_, hv, hcmd, by rw [if_pos hout]; exact hxs, hq⟩
    rw [State.drainEnd, hout]
    dsimp only
    rw [State.drainRead_eq hsec hty, State.core_modCore_same, hn, hcmd, Option.bind_some]
    dsimp only
    rw [State.drainRow_eq, hn, State.launchOn_modCore s c.val hl]
    rfl

theorem State.matFinish_waits (hx : (s.core c.val).matCmd? n = some x) (hg : (s.core c.val).grant = some g)
    (h : x.started = false ∨ s.cycle < x.since + x.time g) : s.matFinish c.val n = s := by
  rw [State.matFinish, hx, hg]
  exact if_pos (by simpa using h)

theorem State.matFinish_ends (hx : (s.core c.val).matCmd? n = some x) (hg : (s.core c.val).grant = some g)
    (hs : x.started = true) (ht : x.since + x.time g ≤ s.cycle) : s.matFinish c.val n = match x.op with
      | .load sp => s.loadEnd c.val x g sp
      | .swap => s.modCore c.val fun k => ({ k with shadow := k.active, active := k.shadow } : Core).dropMat n
      | .zero => s.modCore c.val fun k => (k.zeroRegion (g.region x.region)).dropMat n
      | .drain ty rnd sat => s.drainEnd c.val x g ty rnd sat
      | .mul _ _ => s
      | .adpt _ => s := by
  rw [State.matFinish, hx, hg]
  exact if_neg (by simpa [hs] using ht)

/-- A sound load: what is read is corrected, and the shadow plane is what the tile held. -/
theorem State.loadEnd_sound {sp : Bool} (hbad : ∀ r ∈ planeReads x.fmt x.off g sp, (s.core c.val).vault.bad r.1 r.2 = false) :
    s.loadEnd c.val x g sp = s.modCore c.val fun k =>
      ({ k.corrected (planeReads x.fmt x.off g sp) with shadow := some (s.planeAt c.val x.fmt x.off g sp) } : Core).dropMat x.ticket := by
  have hsound : ¬((planeReads x.fmt x.off g sp).any fun r => (s.vault c.val).bad r.1 r.2) = true := by
    simpa [State.vault] using hbad
  rw [State.loadEnd, if_neg hsound]
  dsimp only
  rw [State.corrected_eq, State.modCore_modCore]

theorem State.swap_exchanges (s : State) (c : CoreId) (n : Nat) :
    let k := s.core c.val
    let t := s.modCore c.val fun k => ({ k with shadow := k.active, active := k.shadow } : Core).dropMat n
    ChangesCore c s t ∧ (t.core c.val).matQ = (k.matQ.filter fun y => y.ticket != n) ∧ (t.core c.val).shadow = k.active ∧ (t.core c.val).active = k.shadow := by
  dsimp only
  rw [State.core_modCore_same]
  exact ⟨.modCore s c _, rfl, rfl, rfl⟩

theorem State.zero_clears (s : State) (c : CoreId) (n : Nat) (z : Region) :
    let k := s.core c.val
    let t := s.modCore c.val fun k => (k.zeroRegion z).dropMat n
    ChangesCore c s t ∧ (t.core c.val).matQ = (k.matQ.filter fun y => y.ticket != n) ∧ ∀ i j, i < 128 → j < 128 → (t.core c.val).accAt i j =
      if z.r0 ≤ i ∧ i < z.r0 + z.r ∧ z.c0 ≤ j ∧ j < z.c0 + z.c then 0 else k.accAt i j := by
  dsimp only
  rw [State.core_modCore_same]
  exact ⟨.modCore s c _, rfl, fun i j hi hj => Core.accAt_zeroRegion _ z hi hj⟩

theorem State.load_fills (s : State) (c : CoreId) (reads : List (Nat × Nat)) (p : Plane) (n : Nat) :
    let k := s.core c.val
    let t := s.modCore c.val fun k => ({ k.corrected reads with shadow := some p } : Core).dropMat n
    ChangesCore c s t ∧ (t.core c.val).matQ = (k.matQ.filter fun y => y.ticket != n) ∧ (t.core c.val).shadow = some p ∧
      (t.core c.val).active = k.active := by
  dsimp only
  rw [State.core_modCore_same, ((s.core c.val).corrected_eq reads).1]
  exact ⟨.modCore s c _, rfl, rfl, rfl⟩

/-- A step of a drain writes a bank row of its tile; with the last one the command leaves and its flags are due. -/
theorem State.drainEnd_writes (hx : (s.core c.val).matCmd? n = some x) (hn : x.ticket = n) {ty : Ty} {rnd : Rnd} {sat : Bool} {off : Nat} {bs : List Byte} {sec : Bool}
    (h : x.out = some (off, bs, sec) ∨ (x.out = none ∧ ty ≠ .bpi ∧ (s.core c.val).accSec = 0 ∧ off = x.off ∧
      bs = packBytes ty.width ((s.core c.val).drainAll g (g.region x.region) ty rnd sat).1 ∧ sec = false)) :
    let k := s.core c.val
    let t := s.drainEnd c.val x g ty rnd sat
    let m := pieceOf (ownPtr off) 0 bs.length
    let flags := k.x.drained ++ if x.out = none then [⟨n, s.cycle, (k.drainAll g (g.region x.region) ty rnd sat).2.1⟩] else []
    ChangesCore c s t ∧ VaultWrites (s.launchOn c.val).owner off (bs.take m) k.vault (t.vault c.val) ∧
      (m < bs.length → (t.core c.val).x = { k.x with drained := flags } ∧
        ∃ y, (t.core c.val).matCmd? n = some y ∧ y.out = some (off + m, bs.drop m, sec)) ∧
      (bs.length ≤ m → (t.core c.val).matQ = (k.matQ.filter fun y => y.ticket != n) ∧
        (t.core c.val).x = { k.x with drained := flags.map fun d => if d.ticket = n then { d with due := s.cycle } else d }) := by
  obtain ⟨f, y, heq, hv, hcmd, hxs, hq⟩ := State.drainEnd_row hx hn h
  dsimp only
  obtain ⟨h1, h2, h3⟩ := Core.drainedRow_writes (f (s.core c.val)) (s.launchOn c.val).owner n s.cycle off bs sec hcmd
  rw [heq, State.vault, State.core_modCore_same, State.core_modCore_same]
  rw [hv] at h1
  rw [hxs] at h2 h3
  rw [hq] at h3
  exact ⟨(ChangesCore.modCore s c f).trans (.modCore _ c _), h1, h2, h3⟩

end

end Sys2Proof.Machine
end

section
/-! The side path: what its work keeps, how a group asks for its page and how its pass moves on (R190 to R193). -/

namespace Sys2Proof.Machine

/-! ### What side work keeps -/

/-- Pages asked for and pages kept stay, and so does every XS. -/
structure SideKeeps (s t : State) : Prop where
  asked : ∀ y ∈ s.afetch, y ∈ t.afetch
  kept : ∀ y ∈ s.acache, y ∈ t.acache
  xs : ∀ d : Nat, (t.core d).xs = (s.core d).xs

namespace SideKeeps
variable {s t u : State}

theorem refl (s : State) : SideKeeps s s := ⟨fun _ h => h, fun _ h => h, fun _ => rfl⟩

theorem trans (a : SideKeeps s t) (b : SideKeeps t u) : SideKeeps s u :=
  ⟨fun y h => b.asked y (a.asked y h), fun y h => b.kept y (a.kept y h), fun d => (b.xs d).trans (a.xs d)⟩

theorem foldl {α : Type} {f : State → α → State} (h : ∀ s a, SideKeeps s (f s a)) (l : List α) (s : State) : SideKeeps s (l.foldl f s) := by
  induction l generalizing s with
  | nil => exact .refl s
  | cons a l ih => exact (h s a).trans (ih _)

theorem modCore (s : State) (c : Nat) {f : Core → Core} (h : (f (s.core c)).xs = (s.core c).xs) : SideKeeps s (s.modCore c f) :=
  ⟨fun _ h => h, fun _ h => h, State.core_modCore_keeps Core.xs s c h⟩

theorem of_same (ha : t.afetch = s.afetch) (hc : t.acache = s.acache) (hk : t.cores = s.cores) : SideKeeps s t :=
  ⟨fun _ h => ha ▸ h, fun _ h => hc ▸ h, fun d => by rw [State.core, hk]; rfl⟩

end SideKeeps

theorem Core.foldl_xs {α : Type} {f : Core → α → Core} (h : ∀ k a, (f k a).xs = k.xs) (l : List α) (k : Core) : (l.foldl f k).xs = k.xs := by
  induction l generalizing k with
  | nil => rfl
  | cons a l ih => rw [List.foldl_cons, ih, h]

theorem Core.markAcc_xs (k : Core) (rows : List Nat) (sec : Bool) : (k.markAcc rows sec).xs = k.xs := by
  unfold Core.markAcc
  split <;> rfl

theorem Core.modMat_xs (k : Core) (n : Nat) (f : MatCmd → MatCmd) : (k.modMat n f).xs = k.xs := rfl

theorem Core.modBind_xs (k : Core) (id : Nat) (f : BindSet → BindSet) : (k.modBind id f).xs = k.xs := rfl

theorem Core.countEv_xs (k : Core) (ev n : Nat) : (k.countEv ev n).xs = k.xs := by rw [Core.countEv_eq]

section
variable (s : State)

theorem State.launchRequest_keepsSide (l : Launch) (fn pa n : Nat) : SideKeeps s (s.launchRequest l fn pa n) := by
  unfold State.launchRequest State.charge
  split <;> exact .of_same rfl rfl rfl

theorem State.requests_keepsSide (l : Launch) (ps : List (Nat × Nat)) : SideKeeps s (ps.foldl (fun s a => s.launchRequest l l.fn a.1 a.2) s) :=
  .foldl (fun t (a : Nat × Nat) => t.launchRequest_keepsSide l l.fn a.1 a.2) ps s

theorem State.askPage_keepsSide (l : Launch) (h : BitVec 20) (e : Line) (pageB : Bool) (hint : Option Nat) : SideKeeps s (s.askPage l h e pageB hint) := by
  unfold State.askPage
  extract_lets p u
  split
  · exact .refl s
  · have hu : SideKeeps s u := ⟨fun _ h => List.mem_append_left _ h, fun _ h => h, fun _ => rfl⟩
    exact hu.trans (u.requests_keepsSide l _)

theorem State.holdGroup_keepsSide (c n g : Nat) (h : BitVec 20) (e : Line) (pageB : Bool) : SideKeeps s (s.holdGroup c n g h e pageB) := by
  unfold State.holdGroup
  refine (s.askPage_keepsSide (s.launchOn c) h e pageB none).trans (.modCore _ c ?_)
  split
  · rfl
  · split
    · exact Core.countEv_xs _ 8 1
    · split
      · rfl
      · exact Core.countEv_xs _ 8 1

theorem State.touchPage_keepsSide (h : BitVec 20) (v : BitVec 16) (pageB : Bool) : SideKeeps s (s.touchPage h v pageB) := by
  refine ⟨fun _ h => h, fun y hy => ?_, fun _ => rfl⟩
  rw [State.touchPage, List.mem_append, List.mem_filter, List.mem_filter]
  cases y.is h v pageB <;> simp [hy]

theorem State.sidePass_keepsSide (c : Nat) (x : MatCmd) (g : Grant) (b : BindSet) (grp : Nat) : SideKeeps s (s.sidePass c x g b grp) :=
  .modCore s c (f := fun k => (k.modBind b.id _).modMat x.ticket _) rfl

theorem State.sideLast_keepsSide (c : Nat) (x : MatCmd) (g : Grant) (b : BindSet) (grp : Nat) : SideKeeps s (s.sideLast c x g b grp) := by
  unfold State.sideLast
  refine .modCore s c ?_
  dsimp only
  rw [Core.modMat_xs, Core.modBind_xs]
  refine Core.foldl_xs (fun k i => ?_) _ _
  refine (Core.foldl_xs (fun k n => ?_) _ _).trans (k.markAcc_xs _ _)
  rfl

theorem State.sideGroup_keepsSide (c n grp : Nat) : SideKeeps s (s.sideGroup c n grp) := by
  unfold State.sideGroup
  split
  · split
    · exact .refl s
    · extract_lets e h
      split
      · exact .refl s
      · split
        · split
          · exact (s.touchPage_keepsSide h _ false).trans (State.sidePass_keepsSide _ _ _ _ _ _)
          · exact s.holdGroup_keepsSide _ _ _ _ _ _
        · split
          · exact .refl s
          · split
            · exact (s.touchPage_keepsSide h _ true).trans (State.sideLast_keepsSide _ _ _ _ _ _)
            · exact s.holdGroup_keepsSide _ _ _ _ _ _
  · exact .refl s

theorem State.mulRetire_keepsSide (c n : Nat) : SideKeeps s (s.mulRetire c n) := by
  unfold State.mulRetire
  split
  · exact .refl s
  · dsimp only
    split
    · exact .modCore s c rfl
    · exact .refl s

theorem State.sideRun_keepsSide (c n : Nat) : SideKeeps s (s.sideRun c n) := by
  unfold State.sideRun
  split
  · exact .refl s
  · have hgroups (l : List Nat) (t : State) : SideKeeps t (l.foldl (fun t g => t.sideGroup c n g) t) :=
      .foldl (fun t g => t.sideGroup_keepsSide c n g) l t
    exact ((hgroups _ s).trans (hgroups _ _)).trans (State.mulRetire_keepsSide _ c n)

end

/-! ### A group's turn -/

/-- A page that is asked for is on its way. -/
theorem State.askPage_asks (s : State) (l : Launch) (h : BitVec 20) (e : Line) (pageB : Bool) (hint : Option Nat) :
    ∃ y ∈ (s.askPage l h e pageB hint).afetch, y.handle = h ∧ y.ver = entVer e ∧ y.pageB = pageB := by
  unfold State.askPage
  extract_lets p u
  split
  · next hany => simpa [and_assoc] using hany
  · exact ⟨_, (u.requests_keepsSide l _).asked _ (List.mem_append_right _ (List.mem_singleton_self _)), rfl, rfl, rfl⟩

theorem State.holdGroup_asks (s : State) (c n g : Nat) (h : BitVec 20) (e : Line) (pageB : Bool) :
    ∃ y ∈ (s.holdGroup c n g h e pageB).afetch, y.handle = h ∧ y.ver = entVer e ∧ y.pageB = pageB :=
  s.askPage_asks (s.launchOn c) h e pageB none

theorem ofNat_bindHandle (w : Word32) : (BitVec.ofNat 20 (bindHandle w) : BitVec 20) = BitVec.ofNat 20 (w.toNat % 2 ^ 20) := by
  rw [bindHandle, bf, bitsOf, Nat.pow_zero, Nat.div_one]

theorem State.sideRun_none {s : State} {c n : Nat} (h : (s.core c).matCmd? n = none) : s.sideRun c n = s := by
  rw [State.sideRun, h]

section
variable {s : State} {c : CoreId} {n q : Nat} {x : MatCmd} {g : Grant} {b : BindSet}

theorem State.sideRun_group (hx : (s.core c.val).matCmd? n = some x) (hq : (s.core c.val).boundGroups x = [q]) :
    s.sideRun c.val n = ((s.sideGroup c.val n q).sideGroup c.val n q).mulRetire c.val n := by
  rw [State.sideRun, hx]
  dsimp only
  rw [hq]
  rfl

/-- A group whose pass has its turn: the pass is made where its page is here, else the group is held. -/
theorem State.sideGroup_turn (hx : (s.core c.val).matCmd? n = some x) (hg : (s.core c.val).grant = some g) (hb : (s.core c.val).bindOf x = some b)
    (hd : x.groupDone q = false) (ht : (s.core c.val).sideTurn x q = true) (hp : q * g.g < 8 * x.pass) (hq : q ∉ x.sideDone) :
    s.sideGroup c.val n q =
      if s.pageHere (s.launchOn c.val) x q (BitVec.ofNat 20 (bindHandle (b.words.getD q 0))) (entVer (b.ents.getD q 0)) false then
        (s.touchPage (BitVec.ofNat 20 (bindHandle (b.words.getD q 0))) (entVer (b.ents.getD q 0)) false).sidePass c.val x g b q
      else s.holdGroup c.val n q (BitVec.ofNat 20 (bindHandle (b.words.getD q 0))) (b.ents.getD q 0) false := by
  rw [State.sideGroup, hx, hg]
  dsimp only
  rw [hb]
  dsimp only
  rw [if_neg (by simpa [hd, ht] using hp), if_pos (by simpa using hq)]

theorem State.sideGroup_done (hx : (s.core c.val).matCmd? n = some x) (hg : (s.core c.val).grant = some g) (hb : (s.core c.val).bindOf x = some b)
    (hd : x.groupDone q = true) : s.sideGroup c.val n q = s := by
  rw [State.sideGroup, hx, hg]
  dsimp only
  rw [hb]
  exact if_pos (by simp [hd])

theorem State.mulRetire_waits (hx : (s.core c.val).matCmd? n = some x) (h : (s.core c.val).passesDone x = false) : s.mulRetire c.val n = s := by
  rw [State.mulRetire, hx]
  exact if_neg (by simp [h])

theorem State.sidePass_eq (s : State) (c : Nat) (x : MatCmd) (g : Grant) (b : BindSet) (q : Nat) : ∃ xa sec, s.sidePass c x g b q = s.modCore c fun k =>
    (k.modBind b.id fun y => { y with xa := xa, sec := sec, cursors := if x.isLast then y.cursors else SMap.set 0 y.cursors q (SMap.get 0 b.cursors q + g.k) }).modMat
      x.ticket fun x' => { x' with sideDone := x'.sideDone ++ [q], held := if x'.isLast then x'.held else x'.held.filter fun r => r.g != q } := by
  unfold State.sidePass
  dsimp only
  exact ⟨_, _, rfl⟩

/-- A side pass that is not the last: the group is done and its cursor has moved on. -/
theorem State.sidePass_moves (hx : (s.core c.val).matCmd? n = some x) (hb : (s.core c.val).bindOf x = some b) (hl : x.isLast = false) :
    ∃ x' b', ((s.sidePass c.val x g b q).core c.val).matCmd? n = some x' ∧ q ∈ x'.sideDone ∧ x'.isLast = false ∧ x'.pass = x.pass ∧ x'.region = x.region ∧
      ((s.sidePass c.val x g b q).core c.val).bindOf x' = some b' ∧ b'.id = b.id ∧
      b'.cursors = SMap.set 0 b.cursors q (SMap.get 0 b.cursors q + g.k) ∧ ((s.sidePass c.val x g b q).core c.val).grant = (s.core c.val).grant := by
  have hid : b.id = x.bind := by simpa using List.find?_some hb
  obtain ⟨xa, sec, hs⟩ := s.sidePass_eq c.val x g b q
  rw [hs, State.core_modCore_same, Core.matCmd?_ticket hx]
  generalize hf : (fun y : BindSet => { y with xa := xa, sec := sec, cursors := if x.isLast then y.cursors else SMap.set 0 y.cursors q (SMap.get 0 b.cursors q + g.k) }) = f
  generalize hm : (fun y : MatCmd => { y with sideDone := y.sideDone ++ [q], held := if y.isLast then y.held else y.held.filter fun r => r.g != q }) = m
  refine ⟨m x, f b, ?_, by rw [← hm]; simp, by rw [← hm]; exact hl, by rw [← hm], by rw [← hm], ?_, by rw [← hf], by rw [← hf]; simp [hl], rfl⟩
  · exact (Core.matCmd?_modMat _ n fun _ => by rw [← hm]).trans (congrArg _ hx)
  · have hbind : (m x).bind = x.bind := by rw [← hm]
    rw [Core.bindOf, hbind, hid]
    exact (find?_modFirst (f := f) (fun _ => by rw [← hf]) _).trans (congrArg _ hb)

theorem sidePass_cursor (hx : (s.core c.val).matCmd? n = some x) (hg : (s.core c.val).grant = some g) (hgr : (s.core c.val).boundGroups x = [q])
    (hb : (s.core c.val).bindOf x = some b) (hd : x.groupDone q = false) (ht : (s.core c.val).sideTurn x q = true) (hp : q * g.g < 8 * x.pass)
    (hq : q ∉ x.sideDone) (hr : 8 * x.pass < (g.region x.region).r) (hl : x.isLast = false)
    (hpage : s.pageHere (s.launchOn c.val) x q (BitVec.ofNat 20 (bindHandle (b.words.getD q 0))) (entVer (b.ents.getD q 0)) false = true) :
    (∃ y, ((s.sideRun c.val n).core c.val).matCmd? n = some y ∧ q ∈ y.sideDone) ∧
      ∃ y ∈ ((s.sideRun c.val n).core c.val).binds, y.id = b.id ∧ y.cursors = SMap.set 0 b.cursors q (SMap.get 0 b.cursors q + g.k) := by
  rw [State.sideRun_group hx hgr, State.sideGroup_turn hx hg hb hd ht hp hq, if_pos hpage]
  generalize hu : s.touchPage (BitVec.ofNat 20 (bindHandle (b.words.getD q 0))) (entVer (b.ents.getD q 0)) false = u
  have hcore : u.core c.val = s.core c.val := by rw [← hu]; rfl
  obtain ⟨x', b', hx', hq', hl', hpass, hreg, hb', hid, hcur, hgrant⟩ :=
    State.sidePass_moves (s := u) (c := c) (n := n) (q := q) (x := x) (g := g) (b := b) (by rw [hcore, hx]) (by rw [hcore, hb]) hl
  have hg' : ((u.sidePass c.val x g b q).core c.val).grant = some g := by rw [hgrant, hcore, hg]
  have hdone : x'.groupDone q = true := by simp [MatCmd.groupDone, hq', hl']
  have hmore : ((u.sidePass c.val x g b q).core c.val).passesDone x' = false := by
    rw [Core.passesDone, Core.region_grant hg', hreg, hpass]
    simpa using hr
  rw [State.sideGroup_done hx' hg' hb' hdone, State.mulRetire_waits hx' hmore]
  exact ⟨⟨x', hx', hq'⟩, b', List.mem_of_find?_eq_some hb', hid, hcur⟩

theorem sideHold_asks (hx : (s.core c.val).matCmd? n = some x) (hg : (s.core c.val).grant = some g) (hgr : (s.core c.val).boundGroups x = [q])
    (hb : (s.core c.val).bindOf x = some b) (hd : x.groupDone q = false) (ht : (s.core c.val).sideTurn x q = true) (hp : q * g.g < 8 * x.pass)
    (hq : q ∉ x.sideDone)
    (hpage : s.pageHere (s.launchOn c.val) x q (BitVec.ofNat 20 (bindHandle (b.words.getD q 0))) (entVer (b.ents.getD q 0)) false = false) :
    ∃ y ∈ (s.sideRun c.val n).afetch, y.handle = BitVec.ofNat 20 (bindHandle (b.words.getD q 0)) ∧ y.ver = entVer (b.ents.getD q 0) ∧ y.pageB = false := by
  obtain ⟨y, hy, hprops⟩ := s.holdGroup_asks c.val n q (BitVec.ofNat 20 (bindHandle (b.words.getD q 0))) (b.ents.getD q 0) false
  refine ⟨y, ?_, hprops⟩
  rw [State.sideRun_group hx hgr, State.sideGroup_turn hx hg hb hd ht hp hq, if_neg (by rw [hpage]; exact Bool.false_ne_true)]
  exact ((State.sideGroup_keepsSide _ c.val n q).trans (State.mulRetire_keepsSide _ c.val n)).asked y hy

end

end Sys2Proof.Machine
end

section
/-! Factor pages that arrive, pages that come too late, and pins without uses (R128, R138, R190, R193, R242). -/

namespace Sys2Proof.Machine

/-! ### Keeping a page (R128) -/

/-- What a page in an adapter cache is, apart from the blocks that are there. -/
def APage.name (p : APage) : BitVec 20 × BitVec 16 × Bool × Nat × Nat := (p.handle, p.ver, p.pageB, p.pa, p.len)

def AFetch.name (f : AFetch) : BitVec 20 × BitVec 16 × Bool × Nat × Nat := (f.handle, f.ver, f.pageB, f.pa, f.len)

theorem APage.is_of_name {p q : APage} (h : p.name = q.name) (a : BitVec 20) (v : BitVec 16) (pageB : Bool) : p.is a v pageB = q.is a v pageB := by
  obtain ⟨h1, h2, h3, -⟩ : p.handle = q.handle ∧ p.ver = q.ver ∧ p.pageB = q.pageB ∧ p.pa = q.pa ∧ p.len = q.len := by
    simpa [APage.name] using h
  rw [APage.is, APage.is, h1, h2, h3]

/-- The pages that stay when one arrives, and the new page without blocks. -/
def State.keepNew (s : State) (f : AFetch) : State :=
  { s with acache := (s.acache.filter fun p => !p.is f.handle f.ver f.pageB && !p.blocks.isEmpty) ++
    [⟨f.handle, f.ver, f.pageB, f.pa, f.len, f.gath, []⟩] }

/-- One block of a page that has arrived. -/
def State.keepBlock (s : State) (f : AFetch) (b : Nat) : State :=
  match s.placeBlock b with
  | none => s
  | some r => { s with acache := modFirst (fun p => p.is f.handle f.ver f.pageB) (fun p => { p with blocks := p.blocks ++ [(b, r.2)] }) r.1 }

theorem State.keepPage_eq (s : State) (f : AFetch) : s.keepPage f = (blocksOf f.pa f.len).foldl (fun s b => s.keepBlock f b) (s.keepNew f) := rfl

theorem State.placeBlock_names {s : State} {b : Nat} {r : List APage × Nat} (h : s.placeBlock b = some r) :
    r.1.map APage.name = s.acache.map APage.name := by
  unfold State.placeBlock at h
  extract_lets leaf set ways here at h
  split at h
  · cases h
    rfl
  · split at h
    · cases h
      rw [List.map_map]
      rfl
    · cases h

/-- A block finds a place in a set that has adapter ways. -/
theorem State.placeBlock_isSome {s : State} {b : Nat} (h : s.adapterWays (homeLeaf (256 * b)) (mscSetOf (256 * b)) ≠ 0) :
    ∃ r, s.placeBlock b = some r := by
  unfold State.placeBlock
  extract_lets leaf set ways here
  have hway : mscWays - s.acWays ∈ ways := List.mem_map.2 ⟨0, List.mem_range.2 (Nat.pos_of_ne_zero h), rfl⟩
  split
  · exact ⟨_, rfl⟩
  · next hfull =>
    have hused : ∃ p ∈ s.acache, ∃ a w, (a, w) ∈ p.blocks ∧ here (a, w) = true ∧ w = mscWays - s.acWays := by
      simpa using List.find?_eq_none.1 hfull _ hway
    obtain ⟨p, hp, a, w, hx, hhere, rfl⟩ := hused
    have hfound : ((s.acache.flatMap APage.blocks).find? fun x => here x && ways.contains x.2).isSome := by
      rw [List.find?_isSome]
      exact ⟨(a, _), List.mem_flatMap.2 ⟨p, hp, hx⟩, by simpa [hhere] using hway⟩
    obtain ⟨x, hx⟩ := Option.isSome_iff_exists.1 hfound
    rw [hx]
    exact ⟨_, rfl⟩

theorem State.keepBlock_some {s : State} {b : Nat} {r : List APage × Nat} (h : s.placeBlock b = some r) (f : AFetch) : s.keepBlock f b =
    { s with acache := modFirst (fun p => p.is f.handle f.ver f.pageB) (fun p => { p with blocks := p.blocks ++ [(b, r.2)] }) r.1 } := by
  rw [State.keepBlock, h]

theorem State.keepBlock_names (s : State) (f : AFetch) (b : Nat) : (s.keepBlock f b).acache.map APage.name = s.acache.map APage.name := by
  cases h : s.placeBlock b with
  | none => rw [State.keepBlock, h]
  | some r =>
    rw [State.keepBlock_some h]
    refine (map_modFirst (fun p => ?_) r.1).trans (State.placeBlock_names h)
    rfl

/-- A page that is kept is among the pages of the adapter caches. -/
theorem State.keepPage_has (s : State) (f : AFetch) : f.name ∈ (s.keepPage f).acache.map APage.name := by
  rw [State.keepPage_eq, State.foldl_keeps (fun s => s.acache.map APage.name) (fun t b => t.keepBlock_names f b)]
  exact List.mem_map.2 ⟨_, List.mem_append_right _ (List.mem_singleton_self _), rfl⟩

/-- Only the new page has its name. -/
theorem State.keepNew_named {s : State} {f : AFetch} {p : APage} (h : p.name ∈ (s.keepNew f).acache.map APage.name)
    (hp : p.is f.handle f.ver f.pageB = true) : p.name = f.name := by
  obtain ⟨q, hq, hname⟩ := List.mem_map.1 h
  obtain hold | hnew := List.mem_append.1 hq
  · have hno : q.is f.handle f.ver f.pageB = false := by
      have := (List.mem_filter.1 hold).2
      simp only [Bool.and_eq_true, Bool.not_eq_true'] at this
      exact this.1
    rw [APage.is_of_name hname, hp] at hno
    cases hno
  · rw [← hname, List.mem_singleton.1 hnew]
    rfl

theorem exists_modFirst {α : Type} {q : α → Bool} {l : List α} (f : α → α) (h : ∃ p ∈ l, q p = true) :
    ∃ p ∈ l, q p = true ∧ f p ∈ modFirst q f l := by
  induction l with
  | nil => obtain ⟨p, hp, -⟩ := h; cases hp
  | cons a l ih =>
    cases ha : q a
    · obtain ⟨p, hp, hq⟩ := h
      have hl : p ∈ l := by
        obtain rfl | hl := List.mem_cons.1 hp
        · rw [ha] at hq
          cases hq
        · exact hl
      obtain ⟨p, hp, hq, hf⟩ := ih ⟨p, hl, hq⟩
      exact ⟨p, List.mem_cons_of_mem _ hp, hq, by simp [modFirst, ha, hf]⟩
    · exact ⟨a, List.mem_cons_self .., ha, by simp [modFirst, ha]⟩

/-- A page of one block is whole once it is kept in a set with adapter ways. -/
theorem State.keepPage_cached {s : State} {f : AFetch} {b : Nat} (hb : blocksOf f.pa f.len = [b])
    (hw : s.adapterWays (homeLeaf (256 * b)) (mscSetOf (256 * b)) ≠ 0) : (s.keepPage f).cachedPage f.handle f.ver f.pageB = true := by
  obtain ⟨r, hr⟩ := State.placeBlock_isSome (s := s.keepNew f) (b := b) hw
  have hnames := State.placeBlock_names hr
  have hsome : ∃ p ∈ r.1, p.is f.handle f.ver f.pageB = true := by
    have hnew : f.name ∈ r.1.map APage.name := by
      rw [hnames]
      exact List.mem_map.2 ⟨_, List.mem_append_right _ (List.mem_singleton_self _), rfl⟩
    obtain ⟨p, hp, hname⟩ := List.mem_map.1 hnew
    refine ⟨p, hp, (APage.is_of_name (q := ⟨f.handle, f.ver, f.pageB, f.pa, f.len, none, []⟩) hname _ _ _).trans ?_⟩
    simp [APage.is]
  obtain ⟨p, hp, his, hmem⟩ := exists_modFirst (fun p => { p with blocks := p.blocks ++ [(b, r.2)] }) hsome
  have hname : p.name = f.name := State.keepNew_named (hnames ▸ List.mem_map.2 ⟨p, hp, rfl⟩) his
  obtain ⟨-, -, -, hpa, hlen⟩ : p.handle = f.handle ∧ p.ver = f.ver ∧ p.pageB = f.pageB ∧ p.pa = f.pa ∧ p.len = f.len := by
    simpa [APage.name, AFetch.name] using hname
  rw [State.keepPage_eq, hb, List.foldl_cons, List.foldl_nil, State.keepBlock_some hr, State.cachedPage, List.any_eq_true]
  refine ⟨_, hmem, Bool.and_eq_true_iff.2 ⟨his, ?_⟩⟩
  rw [APage.whole]
  simp [hpa, hlen, hb]

/-! ### A page arrives (R193) -/

theorem State.pageTo_keepsSide (s : State) (c : Nat) (h : BitVec 20) (v : BitVec 16) (pageB : Bool) : SideKeeps s (s.pageTo c h v pageB) := by
  unfold State.pageTo
  exact (SideKeeps.modCore s c rfl).trans (.foldl (fun t n => t.sideRun_keepsSide c n) _ _)

theorem State.cachedPage_keepsSide {s t : State} (k : SideKeeps s t) {h : BitVec 20} {v : BitVec 16} {pageB : Bool} (hs : s.cachedPage h v pageB = true) :
    t.cachedPage h v pageB = true := by
  rw [State.cachedPage, List.any_eq_true] at hs ⊢
  obtain ⟨p, hp, his⟩ := hs
  exact ⟨p, k.kept p hp, his⟩

theorem State.pageArrive_none {s : State} {h : BitVec 20} {v : BitVec 16} {pageB : Bool} {o : PageOutcome}
    (hf : (s.afetch.find? fun f => f.handle == h && f.ver == v && f.pageB == pageB) = none) : s.pageArrive h v pageB o = s := by
  rw [State.pageArrive, hf]

section
variable {s : State} {h : BitVec 20} {v : BitVec 16} {pageB : Bool} {f : AFetch}
  (hf : (s.afetch.find? fun f => f.handle == h && f.ver == v && f.pageB == pageB) = some f)
include hf

/-- A sound page: it is kept, and reaches the groups that wait for it. -/
theorem State.pageArrive_good (hl : f.lost = false) (hp : s.poisonAt f.pa f.len = none) : s.pageArrive h v pageB .good =
    (List.range 384).foldl (fun s c => s.pageTo c h v pageB) (({ s with afetch := s.afetch.filter fun y => y != f } : State).keepPage f) := by
  have hfind : ((blocksOf f.pa f.len).find? fun b => (SMap.find? s.memPois b).isSome) = none := by
    rw [List.find?_eq_none]
    intro b hb
    simp [State.memPois_of_sound hp hb]
  have hput : ({ s with afetch := s.afetch.filter fun y => y != f } : State).poisonPage f .good = { s with afetch := s.afetch.filter fun y => y != f } := by
    unfold State.poisonPage
    dsimp only
    rw [hfind]
  have hp' : ({ s with afetch := s.afetch.filter fun y => y != f } : State).poisonAt f.pa f.len = none := hp
  rw [State.pageArrive, hf]
  dsimp only
  rw [hput, hp', hl]
  rfl

theorem pageArrive_keeps (hl : f.lost = false) (hp : s.poisonAt f.pa f.len = none) :
    (∃ y ∈ (s.pageArrive h v pageB .good).acache, y.handle = h ∧ y.ver = v ∧ y.pageB = pageB ∧ y.pa = f.pa ∧ y.len = f.len) ∧
      ∀ y, blocksOf f.pa f.len = [y] → s.adapterWays (homeLeaf (256 * y)) (mscSetOf (256 * y)) ≠ 0 →
        (s.pageArrive h v pageB .good).cachedPage h v pageB = true := by
  obtain ⟨rfl, rfl, rfl⟩ : f.handle = h ∧ f.ver = v ∧ f.pageB = pageB := by simpa [and_assoc] using List.find?_some hf
  rw [State.pageArrive_good hf hl hp]
  generalize hu : ({ s with afetch := s.afetch.filter fun y => y != f } : State) = u
  have hkeep : SideKeeps (u.keepPage f) ((List.range 384).foldl (fun s c => s.pageTo c f.handle f.ver f.pageB) (u.keepPage f)) :=
    .foldl (fun t c => t.pageTo_keepsSide c _ _ _) _ _
  refine ⟨?_, fun y hy hw => State.cachedPage_keepsSide hkeep (State.keepPage_cached hy (by rw [← hu]; exact hw))⟩
  obtain ⟨y, hy, hname⟩ := List.mem_map.1 (u.keepPage_has f)
  exact ⟨y, hkeep.kept y hy, by simpa [APage.name, AFetch.name] using hname⟩

end

/-! ### A page comes bad (R138, R242) -/

/-- Blocks that are all poisoned. -/
def poisonAll (integ : Bool) (bs : List Nat) (m : SMap MemPois) : SMap MemPois :=
  bs.foldl (fun m b => if (SMap.find? m b).isSome then m else SMap.insert m b ⟨integ, BitVec.allOnes 256⟩) m

theorem isSome_poisonAll (integ : Bool) {bs : List Nat} {b : Nat} (m : SMap MemPois) (h : b ∈ bs ∨ (SMap.find? m b).isSome = true) :
    (SMap.find? (poisonAll integ bs m) b).isSome = true := by
  unfold poisonAll
  induction bs generalizing m with
  | nil => exact h.resolve_left (by simp)
  | cons a bs ih =>
    rw [List.foldl_cons]
    refine ih _ ?_
    by_cases hm : (SMap.find? m b).isSome = true
    · refine .inr ?_
      split
      · exact hm
      · rw [SMap.find?_insert]
        split
        · rfl
        · exact hm
    · obtain hb | hb := List.mem_cons.1 (h.resolve_right hm)
      · subst hb
        rw [if_neg hm, SMap.find?_insert, if_pos rfl]
        exact .inr rfl
      · exact .inl hb

/-- The report of a poisoned block is an event, with a free value where no extent maps the block. -/
theorem State.reportPoison_posts (s : State) (fn : Nat) (l : Launch) (b : Nat) : ∃ (u : State) (o : Nat) (gpa cptr : Word) (rank : Nat),
    u = { s with fresh := u.fresh } ∧ s.reportPoison fn l none b = u.postEvent o gpa cptr rank 0 (eventVf o) 2 := by
  unfold State.reportPoison
  extract_lets o g own rank
  have hg : g.2 = { s with fresh := g.2.fresh } := by
    dsimp only [g]
    cases s.toGuest o (256 * b) with
    | none => rfl
    | some a => rfl
  exact ⟨g.2, o, g.1, _, _, hg, rfl⟩

/-- A page whose read fails: all its blocks are poisoned, and the first of them is reported. -/
theorem State.poisonPage_posts (s : State) (f : AFetch) {o : PageOutcome} (ho : o ≠ .good) (hne : blocksOf f.pa f.len ≠ []) :
    ∃ (u : State) (fn : Nat) (gpa cptr : Word) (rank : Nat), u = { s with memPois := u.memPois, fresh := u.fresh } ∧
      (∀ y ∈ blocksOf f.pa f.len, (SMap.find? u.memPois y).isSome = true) ∧ s.poisonPage f o = u.postEvent fn gpa cptr rank 0 (eventVf fn) 2 := by
  have hput : ∃ integ, s.poisonPage f o = match (blocksOf f.pa f.len).find? fun b => (SMap.find? (poisonAll integ (blocksOf f.pa f.len) s.memPois) b).isSome with
      | some b => ({ s with memPois := poisonAll integ (blocksOf f.pa f.len) s.memPois } : State).reportPoison
          ((s.launch? f.launch).getD Launch.blank).fn ((s.launch? f.launch).getD Launch.blank) none b
      | none => { s with memPois := poisonAll integ (blocksOf f.pa f.len) s.memPois } := by
    cases o with
    | good => exact absurd rfl ho
    | macFail => exact ⟨true, rfl⟩
    | poisoned => exact ⟨false, rfl⟩
  obtain ⟨integ, hput⟩ := hput
  obtain ⟨b, hb⟩ : ∃ b, ((blocksOf f.pa f.len).find? fun b => (SMap.find? (poisonAll integ (blocksOf f.pa f.len) s.memPois) b).isSome) = some b := by
    obtain ⟨b, hb⟩ := List.exists_mem_of_ne_nil _ hne
    exact Option.isSome_iff_exists.1 (List.find?_isSome.2 ⟨b, hb, isSome_poisonAll integ _ (.inl hb)⟩)
  rw [hb] at hput
  obtain ⟨u, fn, gpa, cptr, rank, hu, hpost⟩ := State.reportPoison_posts { s with memPois := poisonAll integ (blocksOf f.pa f.len) s.memPois }
    ((s.launch? f.launch).getD Launch.blank).fn ((s.launch? f.launch).getD Launch.blank) b
  refine ⟨u, fn, gpa, cptr, rank, by rw [hu], fun y hy => ?_, hput.trans hpost⟩
  rw [hu]
  exact isSome_poisonAll integ _ (.inl hy)

theorem State.pageFails_unwaited {s : State} {c : Nat} {h : BitVec 20} {v : BitVec 16} {pageB : Bool} (hw : (s.core c).waitingFor h v pageB = [])
    (cause : BitVec 8) : s.pageFails c h v pageB cause = s := by
  rw [State.pageFails, hw]
  rfl

theorem pageArrive_bad {s : State} {h : BitVec 20} {v : BitVec 16} {pageB : Bool} {f : AFetch} {o : PageOutcome}
    (hf : (s.afetch.find? fun f => f.handle == h && f.ver == v && f.pageB == pageB) = some f) (ho : o ≠ .good)
    (hw : ∀ d, (s.core d).waitingFor h v pageB = []) (hne : blocksOf f.pa f.len ≠ []) (hh : f.hint = none) :
    ∃ (u : State) (fn : Nat) (gpa cptr : Word) (rank : Nat),
      u = { s with afetch := s.afetch.filter fun y => y != f, memPois := u.memPois, fresh := u.fresh } ∧
      (∀ y ∈ blocksOf f.pa f.len, (SMap.find? u.memPois y).isSome = true) ∧
      s.pageArrive h v pageB o = u.postEvent fn gpa cptr rank 0 (eventVf fn) 2 := by
  obtain ⟨u, fn, gpa, cptr, rank, hu, hpois, hpost⟩ :=
    State.poisonPage_posts { s with afetch := s.afetch.filter fun y => y != f } f ho hne
  refine ⟨u, fn, gpa, cptr, rank, hu, hpois, ?_⟩
  generalize ht : u.postEvent fn gpa cptr rank 0 (eventVf fn) 2 = t at hpost ⊢
  have hcores (d : Nat) : t.core d = s.core d := by
    have hmem := State.postEvent_memoryOnly u fn gpa cptr rank 0 (eventVf fn) 2
    rw [← ht, hmem, hu]
    rfl
  have hstay (cause : BitVec 8) : (List.range 384).foldl (fun s c => s.pageFails c h v pageB cause) t = t :=
    List.foldl_fixed' (fun c => State.pageFails_unwaited (by rw [hcores, hw]) cause) _
  rw [State.pageArrive, hf]
  dsimp only
  rw [hpost, hh]
  cases o with
  | good => exact absurd rfl ho
  | macFail => exact hstay cINTEG
  | poisoned =>
    by_cases hp : t.poisonAt f.pa f.len = some true
    · simp only [hp]
      exact hstay cINTEG
    · rw [if_neg (by simpa using hp)]
      exact hstay cPOISON

/-! ### A page comes too late (R193) -/

section
variable {s : State} {c : CoreId} {n : Nat} {x : MatCmd} {g : Grant} {b : BindSet} {w : HeldGroup}

theorem State.pageTimeout_none (hx : (s.core c.val).matCmd? n = none) : s.pageTimeout c.val n = s := by
  rw [State.pageTimeout, hx]

theorem State.pageTimeout_early (hx : (s.core c.val).matCmd? n = some x) (h : ∀ y ∈ x.held, s.cycle < y.since + pageLimit) :
    s.pageTimeout c.val n = s := by
  have hlate : (x.held.filter fun q => decide (q.since + pageLimit ≤ s.cycle)) = [] := by
    rw [List.filter_eq_nil_iff]
    intro y hy
    simpa using h y hy
  rw [State.pageTimeout, hx]
  dsimp only
  rw [hlate]
  rfl

/-- A group that is dropped is reported to an XS that has no report yet. -/
theorem State.dropGroup_reports (hx : (s.core c.val).matCmd? n = some x) (hg : (s.core c.val).grant = some g) (hb : (s.core c.val).bindOf x = some b)
    (grp sub : Nat) (hp : (s.core c.val).xs.pend = none) :
    ((s.dropGroup c.val n grp sub).core c.val).xs.pend = some ⟨cADAPT, (b.words.getD grp 0).setWidth 64, wd (sub + 16)⟩ := by
  rw [State.dropGroup, hx, hg]
  dsimp only
  rw [hb]
  dsimp only
  rw [State.reportTo, State.core_modCore_same, State.core_modCore_same]
  exact congrArg Seq.pend (if_pos (congrArg Option.isNone hp))

theorem pageTimeout_reports (hx : (s.core c.val).matCmd? n = some x) (hg : (s.core c.val).grant = some g) (hb : (s.core c.val).bindOf x = some b)
    (hw : x.held = [w]) (hl : w.since + pageLimit ≤ s.cycle) (hp : (s.core c.val).xs.pend = none) :
    ((s.pageTimeout c.val n).core c.val).xs.pend = some ⟨cADAPT, (b.words.getD w.g 0).setWidth 64, 20⟩ := by
  have hlate : (x.held.filter fun q => decide (q.since + pageLimit ≤ s.cycle)) = [w] := by simp [hw, hl]
  rw [State.pageTimeout, hx]
  dsimp only
  rw [hlate]
  exact (congrArg Seq.pend ((State.sideRun_keepsSide _ c.val n).xs c.val)).trans (State.dropGroup_reports hx hg hb w.g 4 hp)

end

/-! ### Pins (R190) -/

theorem Core.pinFree_none {k : Core} {i : Nat} (h : vget none k.pins i = none) : k.pinFree i = k := by
  rw [Core.pinFree, h]

theorem Core.pinFree_some {k : Core} {i : Nat} {p : Pin} (h : vget none k.pins i = some p) : k.pinFree i =
    if p.count = 0 ∧ k.pinInUse i = false then { k with pins := vset k.pins i none } else k := by
  rw [Core.pinFree, h]
  by_cases hc : p.count = 0 ∧ k.pinInUse i = false
  · rw [if_pos hc]
    exact if_pos (by simp [hc.1, hc.2])
  · rw [if_neg hc]
    exact if_neg (by simpa using hc)

end Sys2Proof.Machine
end

section
/-! The matrix array, the side path, factor pages and pins at work. -/

namespace Sys2Proof.Machine

theorem State.matExecute_effect (s : State) (c : CoreId) (n : Nat) {x : MatCmd} (hx : (s.core c.val).matCmd? n = some x) (hr : (s.core c.val).matReady x = true) :
    ChangesCore c s (s.matExecute c.val n) ∧
      (x.isAdpt = true → ((s.matExecute c.val n).core c.val).matQ = ((s.core c.val).matQ.filter fun y => y.ticket != n)) ∧
      (x.isAdpt = false → (s.matExecute c.val n).core c.val =
        { s.core c.val with matQ := modFirst (fun y => y.ticket == n) (fun y => { y with started := true, since := s.cycle }) (s.core c.val).matQ }) := by
  rw [State.matExecute_starts hx hr]
  split
  · next ha => exact ⟨.modCore s c _, fun _ => by rw [State.core_modCore_same]; rfl, fun hn => by rw [ha] at hn; cases hn⟩
  · next ha => exact ⟨.modCore s c _, fun h => absurd h ha, fun _ => by rw [State.core_modCore_same]; rfl⟩

/-- A multiply without bound groups retires once its passes are done, and waits before. -/
theorem sideRun_unbound_retires {s : State} {c : CoreId} {n : Nat} {x : MatCmd} {g : Grant} (hx : (s.core c.val).matCmd? n = some x)
    (hg : (s.core c.val).grant = some g) (hb : (s.core c.val).boundGroups x = []) :
    (x.isMul = true ∧ x.started = true ∧ (g.region x.region).r ≤ 8 * x.pass →
      ChangesCore c s (s.sideRun c.val n) ∧ ((s.sideRun c.val n).core c.val).matQ = ((s.core c.val).matQ.filter fun y => y.ticket != n)) ∧
    (¬(x.isMul = true ∧ x.started = true ∧ (g.region x.region).r ≤ 8 * x.pass) → s.sideRun c.val n = s) := by
  have hcond : (x.isMul && x.started && (s.core c.val).passesDone x) = true ↔ x.isMul = true ∧ x.started = true ∧ (g.region x.region).r ≤ 8 * x.pass := by
    simp [Core.passesDone, Core.region_grant hg, and_assoc]
  rw [State.sideRun_unbound hx hb]
  refine ⟨fun h => ?_, fun h => if_neg (mt hcond.1 h)⟩
  rw [if_pos (hcond.2 h), State.core_modCore_same]
  exact ⟨.modCore s c _, rfl⟩

/-- Settles O53: each event of path M and path A is taken apart by what the command waits for. Reads correct only what they read, so the sums,
planes and bytes are those of the state before; side work touches no page that is asked for or kept and no XS. -/
theorem matrixSteps : Obligations.matrixSteps := by
  intro c n x g b q w pin p h ver pageB sp ty rnd sat off bs sec f o s k z here only gone passAt entry handle
  refine ⟨⟨_, exec_matrixCommandExecute c n s, State.matExecute_none, State.matExecute_waits, State.matExecute_effect s c n⟩,
    ⟨_, exec_matrixPass c n s, ?_, ?_⟩, ⟨_, exec_matrixCommandFinish c n s, ?_, ?_⟩, ⟨_, exec_sidePathLast c n s, State.sideRun_none, ?_, ?_, ?_⟩,
    ⟨_, exec_adapterPageArrive h ver pageB o s, State.pageArrive_none, ?_, ?_⟩,
    ⟨_, exec_adapterPageTimeout c n s, State.pageTimeout_none, State.pageTimeout_early, ?_⟩, ⟨_, exec_pinFree c pin s, ?_, ?_⟩⟩
  · rintro ⟨hx, hg⟩
    exact State.matPass_waits hx hg
  · rintro ⟨hx, hg⟩
    exact matPass_adds hx hg
  · rintro ⟨hx, hg⟩
    exact State.matFinish_waits hx hg
  · rintro ⟨hx, hg⟩ hs ht
    have hend := State.matFinish_ends hx hg hs ht
    refine ⟨fun hop => ?_, fun hop => ?_, fun hop hn hbad => ?_, fun hop hn hout => ?_⟩
    · rw [hop] at hend
      rw [hend]
      exact State.swap_exchanges s c n
    · rw [hop] at hend
      rw [hend]
      exact State.zero_clears s c n z
    · rw [hop] at hend
      rw [hend]
      dsimp only
      rw [State.loadEnd_sound hbad, hn]
      exact State.load_fills s c _ _ n
    · rw [hop] at hend
      rw [hend]
      exact State.drainEnd_writes hx hn hout
  · rintro ⟨hx, hg⟩ hb
    exact (sideRun_unbound_retires hx hg hb).1
  · rintro ⟨hx, hg⟩ hb
    exact (sideRun_unbound_retires hx hg hb).2
  · rintro ⟨hx, hg⟩ hgr hb hd ht hp hq hr
    have hhandle : (BitVec.ofNat 20 (bindHandle (b.words.getD q 0)) : BitVec 20) = handle := ofNat_bindHandle _
    rw [← hhandle]
    exact ⟨sideHold_asks hx hg hgr hb hd ht hp hq, fun hpage hl => sidePass_cursor hx hg hgr hb hd ht hp hq hr hl hpage⟩
  · rintro hf rfl hl hp
    exact pageArrive_keeps hf hl hp
  · exact pageArrive_bad
  · rintro ⟨hx, hg⟩ hb hw hl hp
    exact pageTimeout_reports hx hg hb hw hl hp
  · intro hp
    rw [State.core_modCore_same]
    exact Core.pinFree_none hp
  · intro hp
    rw [State.core_modCore_same]
    exact ⟨ChangesCore.modCore s c _, Core.pinFree_some hp⟩

end Sys2Proof.Machine
end

section
/-! What accesses to global memory leave of the cores: beside registers and performance counters, all but their translations
(R99, R119, R239). -/

namespace Sys2Proof.Machine

/-- A core beside its registers and its performance counters, without its translations. -/
def State.still (s : State) (d : Nat) : Core := { (s.core d).rest with tlb := [] }

/-- Cores that are still differ in translations, registers and counters only. -/
theorem State.rest_of_still {s t : State} {d : Nat} (h : t.still d = s.still d) :
    (t.core d).rest = { (s.core d).rest with tlb := (t.core d).tlb } := by
  have hk : ({ t.still d with tlb := (t.core d).tlb } : Core) = { s.still d with tlb := (t.core d).tlb } := by rw [h]
  exact hk

/-- A change of a core's registers, counters or translations. -/
theorem State.modCore_still (s : State) (c : Nat) {f : Core → Core}
    (h : ∀ k, ({ (f k).rest with tlb := [] } : Core) = { k.rest with tlb := [] }) : (s.modCore c f).still = s.still :=
  funext fun d => State.core_modCore_keeps (fun k => ({ k.rest with tlb := [] } : Core)) s c (h _) d

theorem MemoryOnly.still {s t : State} (h : MemoryOnly s t) : t.still = s.still := by
  unfold MemoryOnly at h
  rw [h]; rfl

/-- A loop whose step leaves the cores still leaves them so. -/
theorem foldl_still {α : Type} {f : State → α → State} (h : ∀ s x, (f s x).still = s.still) (l : List α) (s : State) :
    (l.foldl f s).still = s.still := by
  induction l generalizing s with
  | nil => rfl
  | cons x l ih => rw [List.foldl_cons, ih, h]

@[simp] theorem State.dirtied_still (s : State) (a n : Nat) : (s.dirtied a n).still = s.still := (s.dirtied_memoryOnly a n).still

@[simp] theorem State.hbmRequest_still (s : State) (pa bytes fn cls : Nat) (stamp : BitVec 16) :
    (s.hbmRequest pa bytes fn cls stamp).still = s.still := rfl

@[simp] theorem State.rawWrite_still (s : State) (pa : Nat) (bs : List Byte) : (s.rawWrite pa bs).still = s.still := rfl

@[simp] theorem State.writePhys_still (s : State) (owner : BitVec 8) (a : Nat) (bs : List Byte) (sec : Bool) :
    (s.writePhys owner a bs sec).still = s.still := rfl

@[simp] theorem State.setScope_still (s : State) (scp : BitVec 3) (ag : Agent) (grp : List Nat) (pa : Nat) :
    (s.setScope scp ag grp pa).still = s.still := rfl

@[simp] theorem State.freeBytes_still (s : State) (n : Nat) : (s.freeBytes n).2.still = s.still := rfl

@[simp] theorem State.charge_still (s : State) (id pa n : Nat) : (s.charge id pa n).still = s.still := by
  unfold State.charge
  split <;> rfl

@[simp] theorem State.launchRequest_still (s : State) (l : Launch) (fn pa n : Nat) : (s.launchRequest l fn pa n).still = s.still := by
  simp [State.launchRequest]

@[simp] theorem State.tableRequest_still (s : State) (x : XCtx) (pa : Nat) : (s.tableRequest x pa).still = s.still := by
  unfold State.tableRequest
  (repeat' split) <;> simp

@[simp] theorem State.walkRequests_still (s : State) (x : XCtx) (va : Nat) : (s.walkRequests x va).still = s.still :=
  foldl_still (fun s _ => s.tableRequest_still x _) _ s

@[simp] theorem State.orLeaf_still (s : State) (x : XCtx) (ea : Nat) (bits : Byte) : (s.orLeaf x ea bits).still = s.still := by
  unfold State.orLeaf
  split <;> simp

/-- A change of the translations that a context uses. -/
theorem State.modTlb_still (s : State) (x : XCtx) (f : List TlbEnt → List TlbEnt) :
    (match x.core with
      | some c => s.modCore c fun k => { k with tlb := f k.tlb }
      | none => s).still = s.still := by
  split
  · exact s.modCore_still _ fun _ => rfl
  · rfl

@[simp] theorem State.install_still (s : State) (x : XCtx) (t : TlbEnt) (both : Bool) : (s.install x t both).still = s.still := by
  unfold State.install
  dsimp only
  split
  · exact s.modTlb_still x fun l => fifo 512 l t
  · exact s.modTlb_still x fun l => fifo 512 l t

@[simp] theorem State.updateTlb_still (s : State) (x : XCtx) (ea : Nat) (e : Word) : (s.updateTlb x ea e).still = s.still :=
  s.modTlb_still x _

@[simp] theorem State.dropTlb_still (s : State) (x : XCtx) (ea : Nat) : (s.dropTlb x ea).still = s.still := s.modTlb_still x _

@[simp] theorem State.cachePage_still (s : State) (x : XCtx) (va : Nat) (t : PageTry) : (s.cachePage x va t).still = s.still := by
  unfold State.cachePage
  extract_lets u ent v w
  have hu : u.still = s.still := by
    simp only [u]
    split <;> simp
  have hw : w.still = v.still := by
    simp only [w]
    split <;> simp
  have hv : v.still = u.still := rfl
  split
  · rw [State.install_still, hw, hv, hu]
  · split
    · rw [State.install_still, hu]
    · exact hu

@[simp] theorem State.setD_still (s : State) (x : XCtx) (t : PageTry) : (s.setD x t).1.still = s.still := by
  unfold State.setD
  dsimp only
  (repeat' split) <;> simp

@[simp] theorem State.commitPage_still (s : State) (x : XCtx) (wr dirty : Bool) (va : Nat) (t : PageTry) :
    (s.commitPage x wr dirty va t).1.still = s.still := by
  unfold State.commitPage
  dsimp only
  (repeat' split) <;> simp

@[simp] theorem State.commitPages_still (s : State) (x : XCtx) (wr dirty : Bool) (ps : List (Nat × Nat)) (ts : List PageTry) :
    (s.commitPages x wr dirty ps ts).1.still = s.still := by
  induction ps generalizing s ts with
  | nil => rfl
  | cons p ps ih =>
    cases ts with
    | nil => rfl
    | cons t ts =>
      simp only [State.commitPages]
      split
      · rw [ih, State.commitPage_still]
      · exact s.commitPage_still _ _ _ _ _

@[simp] theorem State.triedPages_still (s : State) (x : XCtx) (ps : List (Nat × Nat)) : (s.triedPages x ps).still = s.still := by
  induction ps generalizing s with
  | nil => rfl
  | cons p ps ih =>
    simp only [State.triedPages]
    (repeat' split) <;> simp [ih]

@[simp] theorem State.translateOnce_still (s : State) (x : XCtx) (wr fetch : Bool) (ptr : Word) (n : Nat) :
    (s.translateOnce x wr fetch ptr n).state.still = s.still := by
  unfold State.translateOnce
  dsimp only
  (repeat' split) <;> simp [Acc.state]

theorem State.translateN_still (s : State) (x : XCtx) (wr fetch : Bool) (ptr : Word) (n k : Nat) :
    (State.translateN x wr fetch ptr n k s).state.still = s.still := by
  induction k generalizing s with
  | zero => exact s.translateOnce_still x wr fetch ptr n
  | succ k ih =>
    have hone := s.translateOnce_still x wr fetch ptr n
    rw [State.translateN]
    split
    · next h =>
      rw [h] at hone
      exact (ih _).trans hone
    · exact hone

@[simp] theorem State.translate_still (s : State) (x : XCtx) (wr fetch : Bool) (ptr : Word) (n : Nat) :
    (s.translate x wr fetch ptr n).state.still = s.still := s.translateN_still x wr fetch ptr n 8

@[simp] theorem State.dropMsc_still (s : State) (leaf : Nat) (out : MscLine → Bool) (fn : Nat) (st : Nat × BitVec 16) :
    (s.dropMsc leaf out fn st).still = s.still := by
  unfold State.dropMsc
  exact foldl_still (fun s _ => s.hbmRequest_still _ _ _ _ _) _ _

@[simp] theorem State.makeRoom_still (s : State) (leaf set fn : Nat) (st : Nat × BitVec 16) : (s.makeRoom leaf set fn st).1.still = s.still := by
  unfold State.makeRoom
  dsimp only
  (repeat' split) <;> simp

theorem State.fillBlock_still {s t : State} {u : Use} {fn : Nat} {st : Nat × BitVec 16} {pa : Nat} (h : s.fillBlock u fn st pa = some t) :
    t.still = s.still := by
  simp only [State.fillBlock, Option.map_eq_some_iff] at h
  obtain ⟨w, -, rfl⟩ := h
  change State.still (Prod.fst _) = _
  split <;> simp

@[simp] theorem State.reportPoison_still (s : State) (fn : Nat) (l : Launch) (k : Option Nat) (b : Nat) :
    (s.reportPoison fn l k b).still = s.still := by
  unfold State.reportPoison
  dsimp only
  refine (State.postEvent_memoryOnly _ _ _ _ _ _ _ _).still.trans ?_
  split <;> rfl

@[simp] theorem State.readBlock_still (s : State) (fn : Nat) (l : Launch) (k : Option Nat) (b : Nat) : (s.readBlock fn l k b).still = s.still := by
  unfold State.readBlock
  split <;> simp

theorem State.countEv_still (s : State) (c ev n : Nat) : (s.modCore c fun k => k.countEv ev n).still = s.still :=
  s.modCore_still c fun k => by rw [Core.rest_countEv]

@[simp] theorem State.useLine_still (s : State) (u : Use) (fn : Nat) (l : Launch) (c : Option Nat) (wr : Bool) (pa : Nat) :
    (s.useLine u fn l c wr pa).still = s.still := by
  unfold State.useLine
  extract_lets line leaf ls st mine count reads one
  have hcount (t : State) (b : Bool) (ev n : Nat) : (count t b ev n).still = t.still := by
    cases c with
    | none => rfl
    | some c =>
      simp only [count]
      split
      · exact t.countEv_still c ev n
      · rfl
  have hone (t : State) : (one t).still = t.still := by
    simp only [one]
    split <;> simp [hcount]
  split
  · rfl
  · split
    · simp [hone]
    · split
      · exact hcount _ _ _ _
      · refine Eq.trans ?_ (hcount s mine 6 1)
        split
        · exact hone _
        · split
          · exact hone _
          · next w hfill =>
            have hw : (w.launchRequest l fn pa 256).still = w.still := w.launchRequest_still l fn pa 256
            rw [State.readBlock_still, hcount, hw, State.fillBlock_still hfill]

@[simp] theorem State.useLines_still (s : State) (u : Use) (fn : Nat) (l : Launch) (c : Option Nat) (wr : Bool) (a n : Nat) :
    (s.useLines u fn l c wr a n).still = s.still := foldl_still (fun s _ => s.useLine_still u fn l c wr _) _ s

@[simp] theorem State.readPieces_still (s : State) (m : MCtx) (va : Nat) (ptr : Word) (ps : List Piece) :
    (s.readPieces m va ptr ps).1.still = s.still := by
  induction ps generalizing s va ptr with
  | nil => rfl
  | cons p ps ih =>
    simp only [State.readPieces]
    rw [ih]
    split <;> simp

@[simp] theorem State.readGlobal_still (s : State) (m : MCtx) (ptr : Word) (n : Nat) : (s.readGlobal m ptr n).state.still = s.still := by
  have ht := s.translate_still m.x false false ptr n
  unfold State.readGlobal
  split <;> rename_i h <;> rw [h] at ht
  · exact ht
  · exact ht
  · exact (State.readPieces_still _ m _ _ _).trans ht

@[simp] theorem State.checkStore_still (s : State) (m : MCtx) (ptr : Word) (n : Nat) (sec : Bool) :
    (s.checkStore m ptr n sec).state.still = s.still := by
  have ht := s.translate_still m.x true false ptr n
  unfold State.checkStore
  split <;> rename_i h <;> rw [h] at ht
  · exact ht
  · exact ht
  · split
    · rfl
    · split
      · rfl
      · exact ht

/-- Writes of a launch that is not a paired one. -/
theorem State.writePieces_still {s t : State} {m : MCtx} (hd : m.launch.flagD = false) {va : Nat} {sec : Bool} {ps : List Piece}
    {bs : List Byte} (h : s.writePieces m va sec ps bs = some t) : t.still = s.still := by
  induction ps generalizing s va bs with
  | nil => cases h; rfl
  | cons p ps ih =>
    simp only [State.writePieces] at h
    split at h
    · exact ih h
    · simp only [hd, Bool.false_eq_true, if_false] at h
      simpa using ih h

end Sys2Proof.Machine
end

section
/-! Reads of global memory that meet no poison: what they bring, and that they leave memory as it is (R125, R138, R330). -/

namespace Sys2Proof.Machine

/-! ### What a read leaves -/

section
variable {s t u : State}

/-- As `Untouched`, and no line gets another owner. -/
def Unread (s t : State) : Prop := Untouched s t ∧ (s.CleanMsc → t.lineOwner = s.lineOwner)

theorem Unread.refl (s : State) : Unread s s := ⟨.refl s, fun _ => rfl⟩

theorem Unread.trans (a : Unread s t) (b : Unread t u) : Unread s u :=
  ⟨a.1.trans b.1, fun h => (b.2 (a.1 h).2.2).trans (a.2 h)⟩

theorem Unread.clean (a : Unread s t) (h : s.CleanMsc) : t.CleanMsc := (a.1 h).2.2

/-- What is true of the poison before is true after. -/
theorem Unread.memPois (a : Unread s t) (h : s.CleanMsc) : t.memPois = s.memPois := (a.1 h).2.1

theorem Unread.mem (a : Unread s t) (h : s.CleanMsc) : t.mem = s.mem := (a.1 h).1

/-- What no read changes is what other reads bring. -/
theorem Unread.readPhys (a : Unread s t) (h : s.CleanMsc) (o : BitVec 8) (sh : Bool) (pa n : Nat) :
    t.readPhys o sh pa n = s.readPhys o sh pa n := by
  unfold State.readPhys State.readByte
  rw [a.mem h, a.2 h]

/-- No MSC of a clean state holds a poisoned word. -/
theorem State.CleanMsc.mscWordBad (h : s.CleanMsc) (a : Nat) : s.mscWordBad a = false := by
  unfold State.mscWordBad
  rw [List.any_eq_false]
  intro l hl
  rw [h (homeLeaf a) l hl]
  simp [bt]

/-- Bytes without poison have none after a read. -/
theorem Unread.poisonAt (a : Unread s t) (h : s.CleanMsc) {pa n : Nat} (hp : s.poisonAt pa n = none) : t.poisonAt pa n = none := by
  have hb : (blocksOf pa n).findSome? (fun b => (SMap.find? t.memPois b).map fun p => p.integ) = none :=
    List.findSome?_eq_none_iff.2 fun b hb => by rw [a.memPois h, State.memPois_of_sound hp hb]; rfl
  have hm : ((List.range n).any fun i => t.mscWordBad (pa + i)) = false :=
    List.any_eq_false.2 fun i _ => by rw [(a.clean h).mscWordBad]; simp
  unfold State.poisonAt
  rw [hb, hm]
  rfl

/-- A block without poison is not reported when it is read. -/
theorem State.readBlock_sound {fn : Nat} {l : Launch} {c : Option Nat} {b : Nat} (h : SMap.find? s.memPois b = none) :
    s.readBlock fn l c b = s := by
  rw [State.readBlock, h]; rfl

theorem State.launchRequest_unread (s : State) (l : Launch) (fn pa n : Nat) : Unread s (s.launchRequest l fn pa n) := by
  refine ⟨s.launchRequest_untouched l fn pa n, fun _ => ?_⟩
  unfold State.launchRequest State.charge
  split <;> rfl

theorem State.dropMsc_unread (s : State) (leaf : Nat) (out : MscLine → Bool) (fn : Nat) (st : Nat × BitVec 16) :
    Unread s (s.dropMsc leaf out fn st) := by
  refine ⟨s.dropMsc_untouched leaf out fn st, fun _ => ?_⟩
  have hfold (bs : List Nat) (t : State) : (bs.foldl (fun s b => s.hbmRequest (256 * b) 256 fn st.1 st.2) t).lineOwner = t.lineOwner := by
    induction bs generalizing t with
    | nil => rfl
    | cons b bs ih => rw [List.foldl_cons, ih]; rfl
  exact hfold _ _

theorem State.makeRoom_unread (s : State) (leaf set fn : Nat) (st : Nat × BitVec 16) : Unread s (s.makeRoom leaf set fn st).1 := by
  unfold State.makeRoom
  dsimp only
  split
  · exact .refl s
  · split
    · exact .refl s
    · split
      · exact .refl s
      · exact s.dropMsc_unread _ _ _ _

theorem State.fillBlock_unread {v : Use} {fn : Nat} {st : Nat × BitVec 16} {pa : Nat} (h : s.fillBlock v fn st pa = some t) : Unread s t := by
  refine ⟨State.fillBlock_untouched h, fun hc => ?_⟩
  simp only [State.fillBlock, Option.map_eq_some_iff] at h
  obtain ⟨w, -, rfl⟩ := h
  change State.lineOwner (Prod.fst _) = _
  split
  · rfl
  · exact (s.makeRoom_unread _ _ _ _).2 hc

/-- A read that reaches a block without poison reports nothing. -/
theorem Unread.readBlock (a : Unread s t) {fn : Nat} {l : Launch} {c : Option Nat} {b : Nat} (h : SMap.find? s.memPois b = none) :
    Unread s (t.readBlock fn l c b) := by
  have hread (hc : s.CleanMsc) : t.readBlock fn l c b = t := State.readBlock_sound (by rw [a.memPois hc]; exact h)
  exact ⟨fun hc => by rw [hread hc]; exact a.1 hc, fun hc => by rw [hread hc]; exact a.2 hc⟩

/-- A read passes through the MSC of a block that has no poison. -/
theorem State.useLine_unread (s : State) (v : Use) (fn : Nat) (l : Launch) (c : Option Nat) {pa : Nat}
    (h : SMap.find? s.memPois (pa / 256) = none) : Unread s (s.useLine v fn l c false pa) := by
  unfold State.useLine
  extract_lets line leaf ls st mine count reads one
  have hcount (t : State) (b : Bool) (ev n : Nat) : Unread t (count t b ev n) := by
    simp only [count]
    cases c with
    | none => exact .refl t
    | some c =>
      dsimp only
      split
      · exact ⟨.of_same rfl rfl rfl, fun _ => rfl⟩
      · exact .refl t
  have hone {t : State} (a : Unread s t) : Unread s (one t) :=
    ((a.trans (t.launchRequest_unread l fn pa 64)).trans (hcount _ _ _ _)).readBlock h
  split
  · exact .refl s
  · split
    · exact hone (s.dropMsc_unread _ _ _ _)
    · split
      · next x hx =>
        have hx' : x ∈ s.mscOf leaf := List.mem_of_find?_eq_some hx
        refine Unread.trans ⟨.of_msc fun hc => ?_, fun _ => rfl⟩ (hcount _ _ _ _)
        have hrest : ∀ y ∈ ls.filter (fun x => x.addr != line), y.pois = 0 := fun y hy => hc leaf y (List.mem_filter.1 hy).1
        split
        · exact List.forall_mem_cons.2 ⟨hc leaf x hx', hrest⟩
        · exact List.forall_mem_append.2 ⟨hrest, by simpa using hc leaf x hx'⟩
      · split
        · exact hone (hcount s mine 6 1)
        · split
          · exact hone (hcount s mine 6 1)
          · next hfill =>
            exact ((((hcount s mine 6 1).trans (State.fillBlock_unread hfill)).trans (State.launchRequest_unread _ _ _ _ _)).trans
              (hcount _ _ _ _)).readBlock h

/-- A read passes through the MSCs of blocks that have no poison. -/
theorem State.useLines_unread (s : State) (v : Use) (fn : Nat) (l : Launch) (c : Option Nat) {a n : Nat} (h : s.poisonAt a n = none) :
    Unread s (s.useLines v fn l c false a n) := by
  have key (xs : List Nat) (hxs : ∀ x ∈ xs, SMap.find? s.memPois (64 * x / 256) = none) (t : State) (ht : Unread s t) :
      Unread s (xs.foldl (fun s x => s.useLine v fn l c false (64 * x)) t) := by
    induction xs generalizing t with
    | nil => exact ht
    | cons x xs ih =>
      refine ih (fun y hy => hxs y (List.mem_cons_of_mem _ hy)) _ ?_
      have hline (hc : s.CleanMsc) : Unread t (t.useLine v fn l c false (64 * x)) :=
        t.useLine_unread v fn l c (by rw [ht.memPois hc]; exact hxs x (List.mem_cons_self ..))
      exact ⟨fun hc => (ht.trans (hline hc)).1 hc, fun hc => (ht.trans (hline hc)).2 hc⟩
  exact key _ (fun x hx => State.memPois_of_sound h (block_of_line hx)) s (.refl s)

/-! ### The pieces of a read -/

/-- A read that meets no poison brings the bytes of its pieces, and leaves memory as it is. -/
theorem State.readPieces_clean {m : MCtx} (hd : m.launch.flagD = false) (va : Nat) (ptr : Word) {ps : List Piece}
    (hps : ∀ p ∈ ps, p.page.ca ≠ 3 ∧ s.poisonAt p.pa p.len = none) (hc : s.CleanMsc) :
    (s.readPieces m va ptr ps).1.mem = s.mem ∧ (s.readPieces m va ptr ps).2.bad = none ∧
    (s.readPieces m va ptr ps).2.bytes = ps.flatMap fun p => s.readPhys (ownerTag m.x.fn) p.page.sh p.pa p.len := by
  induction ps generalizing s va ptr with
  | nil => exact ⟨rfl, rfl, rfl⟩
  | cons p ps ih =>
    obtain ⟨hca, hp⟩ := hps p (List.mem_cons_self ..)
    have a := s.useLines_unread (m.use p.page.ca) m.x.fn m.launch m.x.core hp
    obtain ⟨hmem, hbad, hbytes⟩ := ih (va + p.len) (ptr + wd p.len)
      (fun q hq => ⟨(hps q (List.mem_cons_of_mem _ hq)).1, a.poisonAt hc (hps q (List.mem_cons_of_mem _ hq)).2⟩) (a.clean hc)
    simp only [State.readPieces, if_neg fun h : p.page.ca = 3 ∧ _ => hca h.1, hd, Bool.false_eq_true, if_false, hp, Option.map_none,
      Option.isSome_none, List.flatMap_cons]
    refine ⟨hmem.trans (a.mem hc), hbad, ?_⟩
    rw [hbytes]
    simp only [a.readPhys hc]

end

end Sys2Proof.Machine
end

section
/-! What an instruction that accesses memory leaves when it retires, or waits between two rows: said once for accesses of the acting
core alone and for those that reach beyond it (R99, R331). -/

namespace Sys2Proof.Machine

/-! ### What the STALL slots leave -/

/-- An access of several rows outlasts the STALL slots. -/
@[simp] theorem State.startIssue_rowsDone (s : State) (c : Ctl) : (s.startIssue c).rowsDone = s.rowsDone := by
  rw [State.rowsDone, State.rowsDone, State.sq_startIssue, Seq.started]
  cases s.sq.wait with
  | none => rfl
  | some w => cases w <;> rfl

theorem State.startIssue_vault (s : State) (c : Ctl) : (s.startIssue c).vault s.cur.val = s.cc.vault := by
  rw [State.vault, State.startIssue_core]
  exact (congrArg Core.vault (State.rest_startIssue s c) :)

theorem State.startIssue_launchOn (s : State) (c : Ctl) : (s.startIssue c).launchOn s.cur.val = s.lc := by
  have h := State.startIssue_lc s c
  rwa [State.lc, State.startIssue_cur] at h

theorem State.modVault_outside (s : State) (f : Vault → Vault) : OutsideSame s (s.modVault s.cur.val f) := outside_modCC s _

theorem State.addResult_outside (s : State) (r : Result) : OutsideSame s (s.addResult r) := outside_modSq s _

@[simp] theorem State.rest_addResult (s : State) (r : Result) : (s.addResult r).cc.rest = s.cc.rest := by
  have hcc : (s.addResult r).cc = s.cc.modSeq s.curSeq fun q => { q with results := q.results ++ [r] } := State.cc_modCC s _
  rw [hcc, Core.rest_modSeq]

/-- What retires from an access of memory has changed nothing of the core but translations, registers and counters. -/
theorem rest_of_access {s u t r : State} (hu : u.cc.rest = s.cc.rest) (hc : t.cur = u.cur) (h : t.still = u.still)
    (hr : r.cc.rest = t.cc.rest) : r.cc.rest = { s.cc.rest with tlb := r.cc.tlb } := by
  have ht : t.cc.rest = { u.cc.rest with tlb := t.cc.tlb } := by
    have := State.rest_of_still (congrFun h u.cur.val)
    have hcc : t.core u.cur.val = t.cc := by rw [State.cc, hc]
    rw [hcc] at this
    exact this
  have htlb : r.cc.tlb = t.cc.tlb := (congrArg Core.tlb hr :)
  rw [hr, ht, hu, htlb]

/-! ### Changes beside the registers -/

/-- `t` differs from `u` in no other core, and of the acting one in no register and nothing of its sequencers but the results
`rs`, which are still to be written. -/
structure Aside (u : State) (rs : List Result) (t : State) : Prop where
  cur : t.cur = u.cur
  curSeq : t.curSeq = u.curSeq
  others : ∀ d : Nat, d ≠ u.cur.val → t.core d = u.core d
  kept : RegsKept u.curSeq u.cc t.cc
  seq : t.sq.rest = u.sq.rest
  pc : t.sq.pc = u.sq.pc
  results : t.sq.results = u.sq.results ++ rs
  unit : t.cc.x = u.cc.x

namespace Aside
variable {u v t : State} {rs rs' : List Result}

theorem refl (u : State) : Aside u [] u :=
  ⟨rfl, rfl, fun _ _ => rfl, ⟨rfl, rfl, rfl, rfl, rfl, rfl⟩, rfl, rfl, (List.append_nil _).symm, rfl⟩

theorem trans (a : Aside u rs v) (b : Aside v rs' t) : Aside u (rs ++ rs') t := by
  have hk := b.kept
  rw [a.curSeq] at hk
  refine ⟨b.cur.trans a.cur, b.curSeq.trans a.curSeq, fun d hd => ?_,
    ⟨hk.other.trans a.kept.other, hk.s.trans a.kept.s, hk.f.trans a.kept.f, hk.v.trans a.kept.v, hk.p.trans a.kept.p,
      hk.m.trans a.kept.m⟩, b.seq.trans a.seq, b.pc.trans a.pc, ?_, b.unit.trans a.unit⟩
  · rw [b.others d (by rw [a.cur]; exact hd), a.others d hd]
  · rw [b.results, a.results, List.append_assoc]

theorem of_accesses (a : Accesses (some u.cur.val) u t) : Aside u [] t :=
  ⟨a.cur, a.curSeq, fun d hd => a.others d fun e => hd (Option.some.inj e).symm,
    ⟨a.seq _, by rw [a.seq], by rw [a.seq], by rw [a.x], by rw [a.x], a.part Core.m fun _ => rfl⟩, by rw [a.sq], by rw [a.sq],
    by rw [a.sq, List.append_nil], a.x⟩

/-- A change of no core. -/
theorem of_cores (hc : t.cores = u.cores) (hcur : t.cur = u.cur) (hq : t.curSeq = u.curSeq) : Aside u [] t := by
  have hcore (d : Nat) : t.core d = u.core d := by rw [State.core, hc]; rfl
  have hcc : t.cc = u.cc := by rw [State.cc, hcore, hcur]; rfl
  have hsq : t.sq = u.sq := by rw [State.sq, hcc, hq]; rfl
  exact ⟨hcur, hq, fun d _ => hcore d, by rw [hcc]; exact ⟨rfl, rfl, rfl, rfl, rfl, rfl⟩, by rw [hsq], by rw [hsq],
    by rw [hsq, List.append_nil], by rw [hcc]⟩

/-- A change of the acting core beside its sequencers, its vector unit and its m registers. -/
theorem of_modCC {g : Core → Core} (hs : ∀ i, (g u.cc).seq i = u.cc.seq i) (hx : (g u.cc).x = u.cc.x) (hm : (g u.cc).m = u.cc.m) :
    Aside u [] (u.modCC g) := by
  have hcc : (u.modCC g).cc = g u.cc := State.cc_modCC u g
  have hsq : (u.modCC g).sq = u.sq := by rw [State.sq, hcc, State.modCC_curSeq, hs]; rfl
  exact ⟨rfl, rfl, fun d hd => State.core_modCC_ne u g d hd,
    by rw [hcc]; exact ⟨hs _, by rw [hs], by rw [hs], by rw [hx], by rw [hx], hm⟩, by rw [hsq], by rw [hsq], by rw [hsq, List.append_nil],
    by rw [hcc, hx]⟩

theorem of_modVault (u : State) (f : Vault → Vault) : Aside u [] (u.modVault u.cur.val f) :=
  of_modCC (g := fun k => { k with vault := f k.vault }) (fun i => by cases i <;> rfl) rfl rfl

theorem addResult (u : State) (r : Result) : Aside u [r] (u.addResult r) := by
  have hcc : (u.addResult r).cc = u.cc.modSeq u.curSeq fun q => { q with results := q.results ++ [r] } := State.cc_modCC u _
  have hsq : (u.addResult r).sq = { u.sq with results := u.sq.results ++ [r] } := State.sq_modSq u _
  refine ⟨rfl, rfl, fun d hd => State.core_modCC_ne u _ d hd, ?_, by rw [hsq]; rfl, by rw [hsq], by rw [hsq], by rw [hcc, Core.modSeq_x]⟩
  rw [hcc]
  exact ⟨Core.seq_modSeq_other _ _ _, by rw [Core.seq_modSeq], by rw [Core.seq_modSeq], by rw [Core.modSeq_x],
    by rw [Core.modSeq_x], Core.modSeq_m _ _ _⟩

/-- A request to another core. -/
theorem sendVReq (u : State) (k : Nat) (acc : Bool) (kind : VKind) (o n : Nat) (ty : Ty) (x : Word) (ocl : BitVec 4) (sec : Bool) :
    Aside u [] (u.sendVReq k acc kind o n ty x ocl sec).2 :=
  (Aside.of_cores (u := u) (t := u.takeId.2) rfl rfl rfl).trans
    ((Aside.of_modCC (u := u.takeId.2) (g := fun k => k.takeTicket.2) (fun i => by cases i <;> rfl) rfl rfl).trans (.of_cores rfl rfl rfl))

theorem regs (a : Aside u rs t) : RegsSame {} u t := by
  have hs : t.sq.s = u.sq.s := by rw [State.sq, a.curSeq]; exact a.kept.s
  have hf : t.sq.f = u.sq.f := by rw [State.sq, a.curSeq]; exact a.kept.f
  refine ⟨a.kept.other, fun r _ => ?_, fun r _ => ?_, fun r _ => ?_, fun r _ => ?_, fun r _ => by rw [a.kept.m]⟩
  · rw [State.rs, Seq.rs, hs]; rfl
  · rw [State.rf, Seq.rf, hf]; rfl
  · rw [State.rv, a.unit]; rfl
  · rw [State.rp, a.unit]; rfl

end Aside

/-! ### Retiring -/

/-- Registers that stay in two steps stay. -/
theorem RegsSame.comp {l : RegUse} {s t r : State} (a : RegsSame l s t) (hs : t.curSeq = s.curSeq) (b : RegsSame l t r) : RegsSame l s r := by
  refine ⟨?_, fun i h => (b.sRegs i h).trans (a.sRegs i h), fun i h => (b.flags i h).trans (a.flags i h),
    fun i h => (b.vRegs i h).trans (a.vRegs i h), fun i h => (b.preds i h).trans (a.preds i h),
    fun i h => (b.mRegs i h).trans (a.mRegs i h)⟩
  have h := b.other
  rw [hs] at h
  exact h.trans a.other

/-- What retiring from `t` leaves, where `t` has changed nothing but what lies beside the registers of `u`: no register, no flag,
and the rest of the core as `t` has it. -/
structure RetiredAside (s u : State) (rs : List Result) (t r : State) : Prop where
  outside : OutsideSame t r
  core : r.cc.rest = t.cc.rest
  regs : ∀ k, r.rs k = s.rs k
  results : r.sq.results = s.sq.results ++ rs
  silent : Silent u r

section
variable {i : Instr} {c : Ctl} {s t : State} {sec : Bool} {body : State → Eff} {rs : List Result} {P : State → Prop}

/-- An instruction that acts beside its registers, beyond its core too, retires. -/
theorem actsWide_of_aside (h : Issues i c s) (he : exec i s = issue i body s) (hb : body (s.startIssue c) = .done t sec)
    (a : Aside (s.startIssue c) rs t) (hp : ∀ r, RetiredAside s (s.startIssue c) rs t r → P r) :
    ActsWide (s.startIssue c) i s (s.sq.pc + 16) P := by
  rw [ActsWide, he]
  refine (gives_done h hb).imp fun r hr => ?_
  have hregs : RegsSame {} (s.startIssue c) r := a.regs.trans a.curSeq hr.regs
  refine ⟨hr.outside.cur.trans a.cur, hr.outside.curSeq.trans a.curSeq, fun d hd => ?_, hr.seq.trans a.seq,
    hr.unit.trans (congrArg XUnit.rest a.unit), hregs.weaken _, by rw [hr.pc, State.startIssue_pc], hp r ⟨hr.outside, hr.core, ?_, ?_, ?_⟩⟩
  · rw [hr.outside.cores d (by rw [a.cur]; exact hd), a.others d hd]
  · exact fun k => (hregs.sRegs k (by simp)).trans (State.startIssue_rs s c k)
  · rw [hr.results, a.results, State.startIssue_results]
  · exact ⟨.none (hr.vstat.trans (congrArg (fun x => x.settleAll.vstat) a.unit)), hr.gen.trans (congrArg XUnit.gen a.unit)⟩

/-- An instruction that acts beside its registers on its core alone retires. -/
theorem acts_of_aside (h : Issues i c s) (he : exec i s = issue i body s) (hb : body (s.startIssue c) = .done t sec)
    (o : OutsideSame (s.startIssue c) t) (a : Aside (s.startIssue c) rs t)
    (hp : ∀ r, RetiredAside s (s.startIssue c) rs t r → P r) : Acts i c s (s.sq.pc + 16) P := by
  refine (actsWide_of_aside (P := fun r => OutsideSame (s.startIssue c) r ∧ P r) h he hb a fun r hr =>
    ⟨o.trans hr.outside, hp r hr⟩).imp fun r ⟨_, _, _, hseq, hunit, hregs, hpc, ho, hP⟩ => ⟨ho, hseq, hunit, hregs, hpc, hP⟩

/-- As `acts_of_aside` for an instruction that then writes its destinations. -/
theorem acts_of_writes {v : State} (h : Issues i c s) (he : exec i s = issue i body s) (hb : body (s.startIssue c) = .done t sec)
    (o : OutsideSame (s.startIssue c) v) (a : Aside (s.startIssue c) [] v) (w : Writes i.regs v t)
    (hp : ∀ r, Retires (s.sq.pc + 16) t r → r.sq.results = s.sq.results → P r) : Acts i c s (s.sq.pc + 16) P := by
  rw [Acts, ActsFrom, he]
  refine (gives_done h hb).imp fun r hr => ?_
  have hres : r.sq.results = s.sq.results := by
    rw [hr.results, w.results, a.results, List.append_nil, State.startIssue_results]
  rw [State.startIssue_pc] at hr
  refine ⟨(o.trans w.outside).trans hr.outside, hr.seq.trans (w.seq.trans a.seq), hr.unit.trans (w.unit.trans (congrArg XUnit.rest a.unit)),
    ?_, hr.pc, hp r hr hres⟩
  have hu : RegsSame i.regs (s.startIssue c) t := (a.regs.weaken i.regs).comp a.curSeq w.regs
  exact hu.comp (w.outside.curSeq.trans a.curSeq) (hr.regs.weaken i.regs)

/-- An access of several rows waits for its next turn. -/
theorem pauses_of_aside {w : RowsDone} (h : Issues i c s) (he : exec i s = issue i body s)
    (hb : body (s.startIssue c) = .wait (t.pauseRows w)) (o : OutsideSame (s.startIssue c) t) (a : Aside (s.startIssue c) [] t)
    (hp : ∀ r, OutsideSame t r → r.cc.rest = t.cc.rest → P r) : Pauses i c s w P := by
  have hcc : (t.pauseRows w).cc = t.cc.modSeq t.curSeq fun q => { q with wait := some (.rows w) } := State.cc_modCC t _
  have hsq : (t.pauseRows w).sq = { t.sq with wait := some (.rows w) } := State.sq_modSq t _
  have hregs : RegsSame {} t (t.pauseRows w) :=
    RegsKept.same (g := fun k => k.modSeq t.curSeq fun q => { q with wait := some (.rows w) }) ⟨by simp, by simp, by simp, by simp, by simp, by simp⟩
  rw [Pauses, he]
  refine ⟨_, issue_wait h hb, o.trans (outside_modSq t _), ?_, ?_, a.regs.trans a.curSeq hregs, ?_, ?_, by rw [hsq],
    hp _ (outside_modSq t _) (by rw [hcc, Core.rest_modSeq])⟩
  · rw [hsq]; exact a.seq.trans (State.startIssue_sqRest s c)
  · rw [hcc, Core.modSeq_x, a.unit]
  · rw [hsq]; exact a.pc.trans (State.startIssue_pc s c)
  · rw [hsq]; exact a.results.trans ((List.append_nil _).trans (State.startIssue_results s c))

end

end Sys2Proof.Machine
end

section
/-! `LD` (R99, R330, R331). -/

namespace Sys2Proof.Machine

/-! ### The value that a load brings -/

theorem extend_mem {ty : Ty} (h : ty.mem = true) (n : Nat) : extend ty n = tyExtend ty (BitVec.ofNat ty.width n) := by
  have hint : ty.intValue n = if ty.signed then (BitVec.ofNat ty.width n).toInt else (BitVec.ofNat ty.width n).toNat := by
    cases ty <;> simp [Ty.mem, Ty.setI] at h <;> simp [Ty.intValue, Ty.signed, Ty.width, BitVec.toInt] <;> split <;> split <;> omega
  rw [extend, hint, tyExtend, wi]
  cases ty.signed
  · rw [if_neg (by simp), if_neg (by simp), BitVec.ofInt_natCast, BitVec.ofNat_toNat]
  · simp [BitVec.signExtend]

theorem wf_ld_mem {c : Ctl} {ty : Ty} {acq : Bool} {ocl : BitVec 4} {scp : BitVec 3} {d a : Fin 32} {off : Word32}
    (h : (Instr.ld c ty acq ocl scp d a off).wf = true) : ty.mem = true := by
  simp only [Instr.wf, Bool.and_eq_true] at h
  exact h.1.2

/-- A load's value is still to be written. -/
def Loading (s u : State) (d : Fin 32) (ty : Ty) (bs : List Byte) (bad : Option (BitVec 8 × Word)) (t : State) : Prop :=
  (∀ r, t.rs r = s.rs r) ∧ Silent u t ∧ ∃ r : Result, t.sq.results = s.sq.results ++ [r] ∧ r.dst = d ∧
    r.val = tyExtend ty (BitVec.ofNat ty.width (leNat bs)) ∧ r.src = .load ∧ r.bad = bad

theorem Loading.of_retired {s u t r : State} {d : Fin 32} {ty : Ty} {bs : List Byte} {sec : Bool} {bad : Option (BitVec 8 × Word)}
    (hty : ty.mem = true) (h : RetiredAside s u [⟨d, extend ty (leNat bs), .load, bad, sec⟩] t r) : Loading s u d ty bs bad r :=
  ⟨h.regs, h.silent, _, h.results, rfl, extend_mem hty _, rfl, rfl⟩

section
variable {c : Ctl} {ty : Ty} {acq : Bool} {ocl : BitVec 4} {scp : BitVec 3} {d a : Fin 32} {off : Word32} {s u : State} {p : Word}
  {use : RegUse} {o : Nat}

/-! ### Where a load goes -/

/-- An access that need not be aligned, or is. -/
theorem not_misaligned {sync : Bool} {n : Nat} (h : sync = true → p.toNat % n = 0) : (sync && p.toNat % n != 0) = false := by
  cases sync <;> simp_all

/-- A load from the own vault performs its next row. -/
theorem State.load_vault (ha : acq = true → p.toNat % (ty.width / 8) = 0)
    (hp : u.decodePtr u.cur.val p (ty.width / 8) false = .at_ (.vault u.cur.val o))
    (hf : u.rowsDone = none → u.classHeld ocl hereTarget = false) :
    let w := u.rowsSoFar
    let m := rowPart (o + w.got.length) (ty.width / 8 - w.got.length)
    let x := u.readRow w (o + w.got.length) m
    let t := u.modVault u.cur.val fun v => v.correct (o + w.got.length) m
    u.load c use ty acq ocl scp d p = if m < ty.width / 8 - w.got.length then .wait (t.pauseRows x)
      else .done (t.addResult ⟨d, extend ty (leNat x.got), .load, if x.bad then some (cPOISON, p) else none, u.srcSec use c || x.sec⟩) false := by
  have hw : (u.rowsDone.isNone && u.classHeld ocl hereTarget) = false := by
    cases h : u.rowsDone <;> simp_all
  dsimp only
  unfold State.load
  simp only [not_misaligned ha, hp, hw, Bool.false_eq_true, if_false]
  rw [if_pos trivial]
  rfl

/-- A load from the own accumulator image while the array is idle. -/
theorem State.load_acc (ha : acq = true → p.toNat % (ty.width / 8) = 0)
    (hp : u.decodePtr u.cur.val p (ty.width / 8) false = .at_ (.acc u.cur.val o)) (hf : u.classHeld ocl hereTarget = false)
    (hi : u.cc.matQ = []) :
    u.load c use ty acq ocl scp d p = .done (u.addResult ⟨d, extend ty (leNat (u.cc.readAcc o (ty.width / 8))), .load, none,
      u.srcSec use c || u.cc.accSecure o (ty.width / 8)⟩) false := by
  unfold State.load
  simp [not_misaligned ha, hp, hf, Core.arrayIdle, hi]

/-- A load from global memory that translates. -/
theorem State.load_glob {v : State} {ps : List Piece} (ha : acq = true → p.toNat % (ty.width / 8) = 0)
    (hp : u.decodePtr u.cur.val p (ty.width / 8) false = .at_ .glob) (hf : u.classHeld ocl hereTarget = false)
    (hr : u.ownRemote p (ty.width / 8) = false) (ht : u.translate (u.mcur c).x false false p (ty.width / 8) = .ok v ps)
    (hs : u.scopeFor acq acq false scp p ps = none) :
    let r := v.readPieces (u.mcur c) (bf p 56 0) p ps
    u.load c use ty acq ocl scp d p =
      .done (r.1.addResult ⟨d, extend ty (leNat r.2.bytes), .load, r.2.bad, u.srcSec use c || r.2.sec⟩) false := by
  dsimp only
  unfold State.load
  simp [not_misaligned ha, hp, hf, hr, ht, hs, Acc.eff]

/-- A load from another core is asked for over the lateral network. -/
theorem State.load_remote {acc : Bool} {k : Nat} (ha : acq = true → p.toNat % (ty.width / 8) = 0)
    (hp : u.decodePtr u.cur.val p (ty.width / 8) false = .at_ (if acc then .acc k o else .vault k o)) (hk : k ≠ u.cur.val)
    (hf : u.classHeld ocl k = false) :
    let r := u.sendVReq k acc .load o (ty.width / 8) ty 0 ocl false
    let t := r.2.addResult ⟨d, 0, .vault r.1, none, u.srcSec use c⟩
    u.load c use ty acq ocl scp d p = .done (if acq then t.acquireFence ocl else t) false := by
  dsimp only
  unfold State.load
  cases acc <;> simp [not_misaligned ha, hp, hf, hk]

end

/-! ### What each load leaves -/

/-- The part of an access in the row of its first byte is all that is left where it does not cross. -/
theorem rowPart_last {o n : Nat} (h : o % 256 + n ≤ 256) : rowPart o n = n := by
  rw [rowPart]; omega

theorem rowPart_crosses {o n : Nat} (h : 256 < o % 256 + n) : rowPart o n = 256 - o % 256 ∧ rowPart o n < n := by
  rw [rowPart]; omega

@[simp] theorem State.startIssue_rowsSoFar (s : State) (c : Ctl) : (s.startIssue c).rowsSoFar = s.rowsSoFar := by
  rw [State.rowsSoFar, State.startIssue_rowsDone]; rfl

theorem State.startIssue_readRow (s : State) (c : Ctl) (w : RowsDone) (o n : Nat) :
    (s.startIssue c).readRow w o n = ⟨w.n + 1, w.got ++ (s.startIssue c).readVault s.cur.val o n, w.sec || s.cc.vault.secure o n,
      w.bad || s.cc.vault.bad o n, none⟩ := by
  simp only [State.readRow, State.startIssue_cur, State.startIssue_vault]

/-- A read that corrects words of the own vault changes nothing of the core but the list of correctable errors. -/
theorem rest_of_correct {s u r : State} {o n : Nat} (hu : u.cc.rest = s.cc.rest)
    (h : r.cc.rest = (u.modVault u.cur.val fun v => v.correct o n).cc.rest) :
    r.cc.rest = { s.cc.rest with vault := { s.cc.vault with soft := r.cc.vault.soft } } := by
  have hcc : (u.modVault u.cur.val fun v => v.correct o n).cc.rest = { u.cc.rest with vault := u.cc.vault.correct o n } :=
    congrArg Core.rest (State.cc_modCC u fun k => { k with vault := k.vault.correct o n })
  have hv : u.cc.vault = s.cc.vault := (congrArg Core.vault hu :)
  rw [hcc, hu, hv] at h
  have hr : r.cc.vault = s.cc.vault.correct o n := (congrArg Core.vault h :)
  rw [h, hr]
  rfl

section
variable {c : Ctl} {ty : Ty} {acq : Bool} {ocl : BitVec 4} {scp : BitVec 3} {d a : Fin 32} {off : Word32} {s : State} {o : Nat}

/-- The instruction whose effects follow. -/
theorem execLd_eq : exec (.ld c ty acq ocl scp d a off) s = issue (.ld c ty acq ocl scp d a off)
    (fun u => u.load c (Instr.ld c ty acq ocl scp d a off).regs ty acq ocl scp d (u.addr a off)) s := rfl

/-- It loads from the address that its operands give. -/
theorem ld_addr {u : RegUse} : (fun v : State => v.load c u ty acq ocl scp d (v.addr a off)) (s.startIssue c) =
    (s.startIssue c).load c u ty acq ocl scp d (s.addr a off) := by
  dsimp only
  rw [State.startIssue_addr]

theorem ld_done {t : State} {sec : Bool} (h : Issues (.ld c ty acq ocl scp d a off) c s)
    (hb : (s.startIssue c).load c (Instr.ld c ty acq ocl scp d a off).regs ty acq ocl scp d (s.addr a off) = .done t sec) :
    Gives (exec (.ld c ty acq ocl scp d a off) s) (Retires (s.sq.pc + 16) t) := by
  have hg := gives_done (body := fun u : State => u.load c (Instr.ld c ty acq ocl scp d a off).regs ty acq ocl scp d (u.addr a off)) h
    (ld_addr.trans hb)
  rwa [State.startIssue_pc] at hg

/-- The last row of a load from the own vault. -/
theorem ld_vault_last (h : Issues (.ld c ty acq ocl scp d a off) c s) (hty : ty.mem = true)
    (ha : acq = true → (s.addr a off).toNat % (ty.width / 8) = 0) (hf : s.rowsDone = none → (s.startIssue c).classHeld ocl hereTarget = false)
    (hp : (s.startIssue c).decodePtr s.cur.val (s.addr a off) (ty.width / 8) false = .at_ (.vault s.cur.val o))
    (hlast : (o + s.rowsSoFar.got.length) % 256 + (ty.width / 8 - s.rowsSoFar.got.length) ≤ 256) :
    Acts (.ld c ty acq ocl scp d a off) c s (s.sq.pc + 16) fun t =>
      Loading s (s.startIssue c) d ty
        (s.rowsSoFar.got ++ (s.startIssue c).readVault s.cur.val (o + s.rowsSoFar.got.length) (ty.width / 8 - s.rowsSoFar.got.length))
        (if s.rowsSoFar.bad || s.cc.vault.bad (o + s.rowsSoFar.got.length) (ty.width / 8 - s.rowsSoFar.got.length)
          then some (cPOISON, s.addr a off) else none) t ∧
      t.cc.rest = { s.cc.rest with vault := { s.cc.vault with soft := t.cc.vault.soft } } := by
  have hb := State.load_vault (c := c) (use := (Instr.ld c ty acq ocl scp d a off).regs) (scp := scp) (d := d) (u := s.startIssue c)
    (o := o) (p := s.addr a off) ha (by simpa using hp) (by simpa using hf)
  simp only [State.startIssue_rowsSoFar, rowPart_last hlast, Nat.lt_irrefl, if_false] at hb
  refine acts_of_aside h execLd_eq (ld_addr.trans hb) ((State.modVault_outside _ _).trans (State.addResult_outside _ _))
    ((Aside.of_modVault _ _).trans (.addResult _ _)) fun r hr => ?_
  have hread := Loading.of_retired hty hr
  rw [State.startIssue_readRow] at hread
  exact ⟨hread, rest_of_correct (s.rest_startIssue c) (hr.core.trans (State.rest_addResult _ _))⟩

/-- A row of a load from the own vault, others still to come. -/
theorem ld_vault_pauses (h : Issues (.ld c ty acq ocl scp d a off) c s)
    (ha : acq = true → (s.addr a off).toNat % (ty.width / 8) = 0) (hf : s.rowsDone = none → (s.startIssue c).classHeld ocl hereTarget = false)
    (hp : (s.startIssue c).decodePtr s.cur.val (s.addr a off) (ty.width / 8) false = .at_ (.vault s.cur.val o))
    (hcross : 256 < (o + s.rowsSoFar.got.length) % 256 + (ty.width / 8 - s.rowsSoFar.got.length)) :
    let w := s.rowsSoFar
    let first := 256 - (o + w.got.length) % 256
    Pauses (.ld c ty acq ocl scp d a off) c s ⟨w.n + 1, w.got ++ (s.startIssue c).readVault s.cur.val (o + w.got.length) first,
      w.sec || s.cc.vault.secure (o + w.got.length) first, w.bad || s.cc.vault.bad (o + w.got.length) first, none⟩ fun t =>
      t.cc.rest = { s.cc.rest with vault := { s.cc.vault with soft := t.cc.vault.soft } } := by
  have hb := State.load_vault (c := c) (use := (Instr.ld c ty acq ocl scp d a off).regs) (scp := scp) (d := d) (u := s.startIssue c)
    (o := o) (p := s.addr a off) ha (by simpa using hp) (by simpa using hf)
  simp only [State.startIssue_rowsSoFar, if_pos (rowPart_crosses hcross).2] at hb
  rw [(rowPart_crosses hcross).1, State.startIssue_readRow] at hb
  exact pauses_of_aside h execLd_eq (ld_addr.trans hb) (State.modVault_outside _ _) (.of_modVault _ _)
    fun r _ hr => rest_of_correct (s.rest_startIssue c) hr

/-- A load from the own accumulator image. -/
theorem ld_acc (h : Issues (.ld c ty acq ocl scp d a off) c s) (hty : ty.mem = true)
    (ha : acq = true → (s.addr a off).toNat % (ty.width / 8) = 0) (hf : (s.startIssue c).classHeld ocl hereTarget = false)
    (hi : s.cc.matQ = []) (hp : (s.startIssue c).decodePtr s.cur.val (s.addr a off) (ty.width / 8) false = .at_ (.acc s.cur.val o)) :
    Acts (.ld c ty acq ocl scp d a off) c s (s.sq.pc + 16) fun t =>
      Loading s (s.startIssue c) d ty (s.cc.readAcc o (ty.width / 8)) none t ∧ t.cc.rest = s.cc.rest := by
  have hmat : (s.startIssue c).cc.matQ = [] := (State.startIssue_part Core.matQ (fun _ => rfl) s c).trans hi
  have hb := State.load_acc (c := c) (use := (Instr.ld c ty acq ocl scp d a off).regs) (scp := scp) (d := d) (u := s.startIssue c)
    (o := o) (p := s.addr a off) ha (by simpa using hp) hf hmat
  have hread : (s.startIssue c).cc.readAcc o (ty.width / 8) = s.cc.readAcc o (ty.width / 8) :=
    State.startIssue_part (fun k => k.readAcc o (ty.width / 8)) (fun _ => rfl) s c
  rw [hread] at hb
  exact acts_of_aside h execLd_eq (ld_addr.trans hb) (State.addResult_outside _ _) (.addResult _ _) fun r hr =>
    ⟨.of_retired hty hr, hr.core.trans ((State.rest_addResult _ _).trans (s.rest_startIssue c))⟩

/-- A load from global memory. -/
theorem ld_glob (h : Issues (.ld c ty acq ocl scp d a off) c s) (hty : ty.mem = true)
    (ha : acq = true → (s.addr a off).toNat % (ty.width / 8) = 0) (hf : (s.startIssue c).classHeld ocl hereTarget = false)
    (hown : (s.startIssue c).ownRemote (s.addr a off) (ty.width / 8) = false)
    (hp : (s.startIssue c).decodePtr s.cur.val (s.addr a off) (ty.width / 8) false = .at_ .glob) {v : State} {ps : List Piece}
    (ht : (s.startIssue c).translate ((s.startIssue c).mcur c).x false false (s.addr a off) (ty.width / 8) = .ok v ps)
    (hs : (s.startIssue c).scopeFor acq acq false scp (s.addr a off) ps = none) :
    ActsWide (s.startIssue c) (.ld c ty acq ocl scp d a off) s (s.sq.pc + 16) fun t =>
      (∃ bs bad, Loading s (s.startIssue c) d ty bs bad t ∧
        (Ordinary s ps → v.CleanMsc → (∀ x ∈ ps, v.poisonAt x.pa x.len = none) → t.mem = v.mem ∧ bad = none ∧
          bs = ps.flatMap fun x => v.readPhys (ownerTag s.lc.fn) x.page.sh x.pa x.len)) ∧
      t.cc.rest = { s.cc.rest with tlb := t.cc.tlb } := by
  have hb := State.load_glob (c := c) (use := (Instr.ld c ty acq ocl scp d a off).regs) (scp := scp) (d := d) (u := s.startIssue c)
    (p := s.addr a off) ha (by simpa using hp) hf hown ht hs
  have htr := State.translate_accesses (s.startIssue c) ((s.startIssue c).mcur c).x false false (s.addr a off) (ty.width / 8)
  have hst := State.translate_still (s.startIssue c) ((s.startIssue c).mcur c).x false false (s.addr a off) (ty.width / 8)
  rw [ht] at htr hst
  have hacc := htr.trans (v.readPieces_accesses ((s.startIssue c).mcur c) (bf (s.addr a off) 56 0) (s.addr a off) ps)
  have hstill := (v.readPieces_still ((s.startIssue c).mcur c) (bf (s.addr a off) 56 0) (s.addr a off) ps).trans hst
  have haside := Aside.of_accesses hacc
  refine actsWide_of_aside h execLd_eq (ld_addr.trans hb) (haside.trans (.addResult _ _)) fun r hr =>
    ⟨⟨_, _, .of_retired hty hr, fun hord hc hps => ?_⟩, ?_⟩
  · have hl : ((s.startIssue c).mcur c).launch = s.lc := State.startIssue_lc s c
    have hfn : ((s.startIssue c).mcur c).x.fn = s.lc.fn := congrArg Launch.fn (State.startIssue_lc s c)
    obtain ⟨hmem, hbad, hbytes⟩ := State.readPieces_clean (m := (s.startIssue c).mcur c) (by rw [hl]; exact hord.1)
      (bf (s.addr a off) 56 0) (s.addr a off) (fun x hx => ⟨hord.2 x hx, hps x hx⟩) hc
    rw [hfn] at hbytes
    exact ⟨hr.outside.mem.trans hmem, hbad, hbytes⟩
  · exact rest_of_access (s.rest_startIssue c) haside.cur hstill (hr.core.trans (State.rest_addResult _ _))

theorem State.sq_addFence (u : State) (b e : BitVec 16) :
    (u.addFence b e).sq = { u.sq with fences := u.liveFences ++ [(⟨b, e, u.cc.ticket + 1⟩ : Fence)] } := by
  rw [State.addFence_eq, State.sq, State.cc_modCC, State.modCC_curSeq, State.fenced, Core.seq_modSeq]
  rfl

/-- A request names its target, its place and its sequencer, and has not acted. -/
theorem State.sendVReq_asks (u : State) (k : Nat) (acc : Bool) (kind : VKind) (o n : Nat) (ty : Ty) (x : Word) (ocl : BitVec 4)
    (sec : Bool) : (u.sendVReq k acc kind o n ty x ocl sec).2.mem = u.mem ∧
      ∃ q : VReq, (u.sendVReq k acc kind o n ty x ocl sec).2.vreqs = u.vreqs ++ [q] ∧ q.target = k ∧ q.acc = acc ∧ q.off = o ∧ q.n = n ∧
        q.ty = ty ∧ q.kind = kind ∧ q.acted = false ∧ q.core = u.cur.val ∧ q.seq = u.curSeq ∧ q.val = x ∧
        q.id = (u.sendVReq k acc kind o n ty x ocl sec).1 :=
  ⟨rfl, _, rfl, rfl, rfl, rfl, rfl, rfl, rfl, rfl, rfl, rfl, rfl, rfl⟩

/-- A load that acquires changes no register and no result by its fence. -/
theorem State.acquired_sq (u : State) (acq : Bool) (ocl : BitVec 4) :
    (if acq then u.acquireFence ocl else u).sq.s = u.sq.s ∧ (if acq then u.acquireFence ocl else u).sq.results = u.sq.results := by
  cases acq
  · exact ⟨rfl, rfl⟩
  · rw [if_pos rfl, State.acquireFence, State.sq_addFence]
    exact ⟨rfl, rfl⟩

/-- Nor does it change more than the core. -/
theorem State.acquired_outside (u : State) (acq : Bool) (ocl : BitVec 4) :
    OutsideSame u (if acq then u.acquireFence ocl else u) := by
  cases acq
  · exact .refl u
  · rw [if_pos rfl, State.acquireFence, State.addFence_eq]
    exact outside_modCC u _

/-- A load from another core. -/
theorem ld_remote (h : Issues (.ld c ty acq ocl scp d a off) c s) (ha : acq = true → (s.addr a off).toNat % (ty.width / 8) = 0)
    {acc : Bool} {k : Nat} (hk : k ≠ s.cur.val) (hf : (s.startIssue c).classHeld ocl k = false)
    (hp : (s.startIssue c).decodePtr s.cur.val (s.addr a off) (ty.width / 8) false = .at_ (if acc then .acc k o else .vault k o)) :
    Gives (exec (.ld c ty acq ocl scp d a off) s) fun t => t.sq.pc = s.sq.pc + 16 ∧ t.mem = s.mem ∧ (∀ r, t.rs r = s.rs r) ∧
      ∃ (q : VReq) (r : Result), t.vreqs = s.vreqs ++ [q] ∧ q.target = k ∧ q.acc = acc ∧ q.off = o ∧ q.n = ty.width / 8 ∧
        q.ty = ty ∧ q.kind = .load ∧ q.acted = false ∧ q.core = s.cur.val ∧ q.seq = s.curSeq ∧
        t.sq.results = s.sq.results ++ [r] ∧ r.dst = d ∧ r.src = .vault q.id := by
  have hb := State.load_remote (c := c) (use := (Instr.ld c ty acq ocl scp d a off).regs) (scp := scp) (d := d) (u := s.startIssue c)
    (o := o) (p := s.addr a off) ha (by simpa using hp) (by simpa using hk) hf
  dsimp only at hb
  obtain ⟨hmem, q, hq, hq1, hq2, hq3, hq4, hq5, hq6, hq7, hq8, hq9, -, hid⟩ :=
    (s.startIssue c).sendVReq_asks k acc .load o (ty.width / 8) ty 0 ocl false
  have hside := Aside.sendVReq (s.startIssue c) k acc .load o (ty.width / 8) ty 0 ocl false
  generalize (s.startIssue c).sendVReq k acc .load o (ty.width / 8) ty 0 ocl false = v at hb hmem hq hid hside
  have hside' := hside.trans (.addResult v.2 ⟨d, 0, .vault v.1, none, (s.startIssue c).srcSec (Instr.ld c ty acq ocl scp d a off).regs c⟩)
  generalize hw : v.2.addResult _ = w at hb hside'
  refine (ld_done h hb).imp fun r hr => ?_
  have hout := (State.acquired_outside w acq ocl).trans hr.outside
  obtain ⟨hs, hres⟩ := w.acquired_sq acq ocl
  refine ⟨hr.pc, hout.mem.trans (hw ▸ hmem.trans (s.startIssue_mem c)), fun x => ?_,
    q, ⟨d, 0, .vault v.1, none, (s.startIssue c).srcSec (Instr.ld c ty acq ocl scp d a off).regs c⟩, ?_, hq1, hq2, hq3, hq4, hq5, hq6, hq7, ?_, ?_, ?_, rfl, by rw [hid]⟩
  · rw [hr.regs.sRegs x (by simp), State.rs, Seq.rs, hs]
    exact (hside'.regs.sRegs x (by simp)).trans (s.startIssue_rs c x)
  · have hreqs : r.vreqs = w.vreqs := (congrArg State.vreqs hout.device :)
    rw [hreqs, ← hw]
    refine hq.trans ?_
    rw [congrArg State.vreqs (outside_startIssue s c).device]
  · rw [hq8, State.startIssue_cur]
  · rw [hq9, State.startIssue_curSeq]
  · rw [hr.results, hres, hside'.results, State.startIssue_results]; rfl

end

/-- Settles O17: a load by the place that its pointer decodes to. -/
theorem loadResultPending : Obligations.loadResultPending := by
  intro c ty acq ocl scp d a off s i u p n m here pending h hwf ha
  have hty := wf_ld_mem hwf
  exact ⟨fun o hf hp => ⟨ld_vault_last h hty ha hf hp, ld_vault_pauses h ha hf hp⟩, fun o hf hi hp => ld_acc h hty ha hf hi hp,
    fun v ps hf hown hp ht hs => ld_glob h hty ha hf hown hp ht hs, fun acc k o hk hf hp => ld_remote h ha hk hf hp⟩

end Sys2Proof.Machine
end

section
/-! The image of the accumulator, byte by byte (R33, R40). -/

namespace Sys2Proof.Machine

/-! ### A byte of a number -/

/-- A number with its byte `r` replaced. -/
def putByteAt (x r b : Nat) : Nat := x / (256 * 2 ^ (8 * r)) * (256 * 2 ^ (8 * r)) + b * 2 ^ (8 * r) + x % 2 ^ (8 * r)

theorem putByteAt_low {x r b : Nat} : putByteAt x r b % 2 ^ (8 * r) = x % 2 ^ (8 * r) := by
  rw [putByteAt, show x / (256 * 2 ^ (8 * r)) * (256 * 2 ^ (8 * r)) + b * 2 ^ (8 * r) + x % 2 ^ (8 * r) =
    x % 2 ^ (8 * r) + 2 ^ (8 * r) * (x / (256 * 2 ^ (8 * r)) * 256 + b) by ring, Nat.add_mul_mod_self_left, Nat.mod_mod]

theorem putByteAt_div {x r b : Nat} : putByteAt x r b / 2 ^ (8 * r) = x / (256 * 2 ^ (8 * r)) * 256 + b := by
  have hw : 0 < 2 ^ (8 * r) := by positivity
  rw [putByteAt, show x / (256 * 2 ^ (8 * r)) * (256 * 2 ^ (8 * r)) + b * 2 ^ (8 * r) + x % 2 ^ (8 * r) =
    x % 2 ^ (8 * r) + 2 ^ (8 * r) * (x / (256 * 2 ^ (8 * r)) * 256 + b) by ring, Nat.add_mul_div_left _ _ hw,
    Nat.div_eq_of_lt (Nat.mod_lt _ hw), Nat.zero_add]

theorem putByteAt_high {x r b : Nat} (hb : b < 256) : putByteAt x r b / 2 ^ (8 * (r + 1)) = x / 2 ^ (8 * (r + 1)) := by
  have hp : 2 ^ (8 * (r + 1)) = 2 ^ (8 * r) * 256 := by rw [Nat.mul_add, Nat.pow_add]
  rw [hp, ← Nat.div_div_eq_div_mul, putByteAt_div, Nat.mul_comm (2 ^ (8 * r)) 256]
  omega

/-- The byte that was put is read back, and the others stay. -/
theorem putByteAt_byte {x r b : Nat} (hb : b < 256) (k : Nat) :
    putByteAt x r b / 2 ^ (8 * k) % 256 = if k = r then b else x / 2 ^ (8 * k) % 256 := by
  obtain hk | rfl | hk := Nat.lt_trichotomy k r
  · have hlow (y : Nat) : y / 2 ^ (8 * k) % 256 = y % 2 ^ (8 * r) / 2 ^ (8 * k) % 256 := by
      obtain ⟨d, rfl⟩ := Nat.exists_eq_add_of_lt hk
      rw [show 8 * (k + d + 1) = 8 * k + (8 + 8 * d) by ring, Nat.pow_add, Nat.mod_mul_right_div_self, Nat.pow_add]
      exact (Nat.mod_mul_right_mod _ 256 _).symm
    rw [if_neg (by omega), hlow, putByteAt_low, ← hlow]
  · rw [if_pos rfl, putByteAt_div]
    omega
  · obtain ⟨d, rfl⟩ := Nat.exists_eq_add_of_lt hk
    rw [if_neg (by omega), show 8 * (r + d + 1) = 8 * (r + 1) + 8 * d by ring, Nat.pow_add, ← Nat.div_div_eq_div_mul,
      putByteAt_high hb, Nat.div_div_eq_div_mul]

theorem putByteAt_lt {x r b : Nat} (hx : x < 2 ^ 56) (hr : r < 7) (hb : b < 256) : putByteAt x r b < 2 ^ 56 := by
  have hd : putByteAt x r b / 2 ^ (8 * 7) = 0 := by
    obtain ⟨d, hd⟩ := Nat.exists_eq_add_of_lt hr
    rw [show 8 * 7 = 8 * (r + 1) + 8 * d by omega, Nat.pow_add, ← Nat.div_div_eq_div_mul, putByteAt_high hb, Nat.div_div_eq_div_mul,
      ← Nat.pow_add, show 8 * (r + 1) + 8 * d = 56 by omega, Nat.div_eq_of_lt hx]
  exact (Nat.div_eq_zero_iff_lt (by positivity)).1 hd

/-! ### Elements and bytes of the image -/

theorem Core.accByte_setAccByte (k : Core) (o : Nat) (x : Byte) {b : Nat} (hb : b < accBytes) :
    (k.setAccByte o x).accByte b = if b = o then x else k.accByte b := by
  have hA : accBytes = 114688 := rfl
  have hr : o % 7 < 7 := by omega
  have hnew : k.setAccByte o x = k.setAcc (o / 7 / 128) (o / 7 % 128)
      (BitVec.ofNat 56 (putByteAt (k.accAt (o / 7 / 128) (o / 7 % 128)).toNat (o % 7) x.toNat)) := rfl
  have hlt := putByteAt_lt (k.accAt (o / 7 / 128) (o / 7 % 128)).isLt hr x.isLt
  apply BitVec.eq_of_toNat_eq
  rw [hnew, Core.accByte, Core.accAt_setAcc k _ _ _ (by omega) (by omega)]
  simp only [BitVec.toNat_ofNat]
  by_cases he : b / 7 / 128 = o / 7 / 128 ∧ b / 7 % 128 = o / 7 % 128
  · have hdiv : b / 7 = o / 7 := by omega
    rw [if_pos he, BitVec.toNat_ofNat, Nat.mod_eq_of_lt hlt]
    refine (putByteAt_byte x.isLt (b % 7)).trans ?_
    by_cases hbo : b = o
    · rw [if_pos (by rw [hbo]), if_pos hbo]
    · rw [if_neg (by omega), if_neg hbo, Core.accByte, BitVec.toNat_ofNat, ← hdiv]
  · rw [if_neg he, if_neg (by rintro rfl; exact he ⟨rfl, rfl⟩), Core.accByte, BitVec.toNat_ofNat]

theorem Core.accByte_writeAcc (k : Core) (o : Nat) (bs : List Byte) {b : Nat} (hb : b < accBytes) :
    (k.writeAcc o bs).accByte b = if o ≤ b ∧ b < o + bs.length then bs.getD (b - o) 0 else k.accByte b := by
  induction bs generalizing k o with
  | nil => exact (if_neg (by simp)).symm
  | cons x bs ih =>
    rw [Core.writeAcc, ih, k.accByte_setAccByte o x hb]
    by_cases hbo : b = o
    · subst hbo
      simp
    · simp only [hbo, if_false, List.length_cons]
      by_cases hin : o + 1 ≤ b ∧ b < o + 1 + bs.length
      · rw [if_pos hin, if_pos (by omega), show b - o = b - (o + 1) + 1 by omega, List.getD_cons_succ]
      · rw [if_neg hin, if_neg (by omega)]

/-- A write of the image changes the accumulator alone. -/
theorem Core.writeAcc_eq (k : Core) (o : Nat) (bs : List Byte) : k.writeAcc o bs = { k with acc := (k.writeAcc o bs).acc } := by
  induction bs generalizing k o with
  | nil => rfl
  | cons x bs ih => rw [Core.writeAcc, ih]; rfl

theorem Core.accByte_markAcc (k : Core) (rows : List Nat) (sec : Bool) (b : Nat) : (k.markAcc rows sec).accByte b = k.accByte b := by
  rw [Core.markAcc]; split <;> rfl

theorem Core.markAcc_eq (k : Core) (rows : List Nat) (sec : Bool) :
    k.markAcc rows sec = { k with accSec := (k.markAcc rows sec).accSec } := by
  rw [Core.markAcc]; split <;> rfl

/-- A store to the image changes the accumulator and its tags alone. -/
theorem Core.storeAcc_eq (k : Core) (o : Nat) (bs : List Byte) (rows : List Nat) (sec : Bool) :
    (k.writeAcc o bs).markAcc rows sec = { k with acc := (k.writeAcc o bs).acc, accSec := ((k.writeAcc o bs).markAcc rows sec).accSec } := by
  obtain ⟨x, hx⟩ : ∃ x, k.writeAcc o bs = { k with acc := x } := ⟨_, k.writeAcc_eq o bs⟩
  obtain ⟨y, hy⟩ : ∃ y, (k.writeAcc o bs).markAcc rows sec = { k.writeAcc o bs with accSec := y } := ⟨_, Core.markAcc_eq _ _ _⟩
  rw [hy, hx]

end Sys2Proof.Machine
end

section
/-! `ST` (R99, R361). -/

namespace Sys2Proof.Machine

/-! ### Where a store goes -/

section
variable {c : Ctl} {ty : Ty} {rel : Bool} {ocl : BitVec 4} {scp : BitVec 3} {v : Fin 32} {s u : State} {p : Word} {o : Nat}

/-- A releasing store that finds every earlier access performed is not early. -/
theorem not_early (h : rel = true → u.allPerformed = true) : (rel && !u.allPerformed) = false := by
  cases rel <;> simp_all

/-- A store to the own vault performs its next row. -/
theorem State.store_vault (ha : rel = true → p.toNat % (ty.width / 8) = 0)
    (hp : u.decodePtr u.cur.val p (ty.width / 8) true = .at_ (.vault u.cur.val o))
    (hf : u.rowsDone = none → (rel = true → u.allPerformed = true) ∧ u.classHeld ocl hereTarget = false)
    (hs : bt u.sq.sSec v.val = true → u.lc.flagS = true) :
    let w := u.rowsSoFar
    let m := rowPart (o + w.got.length) (ty.width / 8 - w.got.length)
    let part := ((leBytes (ty.width / 8) (u.rs v).toNat).drop w.got.length).take m
    let t := u.writeVault u.cur.val (o + w.got.length) part (bt u.sq.sSec v.val)
    u.store c ty rel ocl scp p v = if m < ty.width / 8 - w.got.length then .wait (t.pauseRows ⟨w.n + 1, part, bt u.sq.sSec v.val, false, none⟩)
      else .done t false := by
  have hsec : (bt u.sq.sSec v.val && !u.lc.flagS) = false := by
    cases h : bt u.sq.sSec v.val <;> simp_all
  have hw : (u.rowsDone.isNone && ((rel && !u.allPerformed) || u.classHeld ocl hereTarget)) = false := by
    cases h : u.rowsDone with
    | none => simp [not_early (hf h).1, (hf h).2]
    | some w => rfl
  dsimp only
  unfold State.store
  simp only [not_misaligned ha, hp, hsec, hw, Bool.false_eq_true, if_false]
  rw [if_pos trivial]
  rfl

/-- A store to the own accumulator image while the array is idle. -/
theorem State.store_acc (ha : rel = true → p.toNat % (ty.width / 8) = 0)
    (hp : u.decodePtr u.cur.val p (ty.width / 8) true = .at_ (.acc u.cur.val o)) (he : rel = true → u.allPerformed = true)
    (hf : u.classHeld ocl hereTarget = false) (hi : u.cc.matQ = []) :
    u.store c ty rel ocl scp p v = .done (u.modCC fun k => (k.writeAcc o (leBytes (ty.width / 8) (u.rs v).toNat)).markAcc
      (accRows o (ty.width / 8)) (bt u.sq.sSec v.val)) false := by
  unfold State.store
  simp [not_misaligned ha, hp, not_early he, hf, Core.arrayIdle, hi]

/-- A store to global memory that translates. -/
theorem State.store_glob {w : State} {ps : List Piece} (ha : rel = true → p.toNat % (ty.width / 8) = 0)
    (hp : u.decodePtr u.cur.val p (ty.width / 8) true = .at_ .glob) (he : rel = true → u.allPerformed = true)
    (hf : u.classHeld ocl hereTarget = false) (hr : u.ownRemote p (ty.width / 8) = false)
    (ht : u.checkStore (u.mcur c) p (ty.width / 8) (bt u.sq.sSec v.val) = .ok w ps) (hs : u.scopeFor rel false true scp p ps = none) :
    u.store c ty rel ocl scp p v = .done ((w.putPieces (u.mcur c) p (bt u.sq.sSec v.val) ps
      (leBytes (ty.width / 8) (u.rs v).toNat)).recordFor rel scp p ps) false := by
  unfold State.store
  simp [not_misaligned ha, hp, not_early he, hf, hr, ht, hs, Acc.eff]

/-- A store to another core is a request over the lateral network. -/
theorem State.store_remote {acc : Bool} {k : Nat} (ha : rel = true → p.toNat % (ty.width / 8) = 0)
    (hp : u.decodePtr u.cur.val p (ty.width / 8) true = .at_ (if acc then .acc k o else .vault k o)) (hk : k ≠ u.cur.val)
    (he : rel = true → u.allPerformed = true) (hf : u.classHeld ocl k = false)
    (hs : acc = false → bt u.sq.sSec v.val = true → u.lc.flagS = true) :
    u.store c ty rel ocl scp p v = .done (u.sendVReq k acc .store o (ty.width / 8) ty (u.rs v) ocl (bt u.sq.sSec v.val)).2 false := by
  unfold State.store
  cases acc with
  | true => simp [not_misaligned ha, hp, not_early he, hf, hk]
  | false =>
    have hsec : (bt u.sq.sSec v.val && !u.lc.flagS) = false := by
      cases h : bt u.sq.sSec v.val <;> simp_all
    simp only [not_misaligned ha, hp, not_early he, hf, hk, hsec, Bool.false_eq_true, if_false, Bool.or_false]

end

/-! ### What each store leaves -/

theorem leBytes_len (n x : Nat) : (leBytes n x).length = n := by
  induction n generalizing x with
  | zero => rfl
  | succ n ih => rw [leBytes, List.length_cons, ih]

theorem State.startIssue_sSec (s : State) (c : Ctl) : (s.startIssue c).sq.sSec = s.sq.sSec := by
  rw [State.sq_startIssue]; rfl

/-- A write of the own vault changes nothing of the core but the vault, and of its bytes those written. -/
theorem writes_of_vault {s u r : State} {o : Nat} {bs : List Byte} {sec : Bool} (hu : u.cc.rest = s.cc.rest) (hl : u.lc = s.lc)
    (h : r.cc.rest = (u.writeVault u.cur.val o bs sec).cc.rest) :
    r.cc.rest = { s.cc.rest with vault := r.cc.vault } ∧ VaultWrites s.lc.owner o bs s.cc.vault r.cc.vault := by
  have hcc : (u.writeVault u.cur.val o bs sec).cc.rest = { u.cc.rest with vault := u.cc.vault.write u.lc.owner o bs sec } :=
    congrArg Core.rest (State.cc_modCC u fun k => { k with vault := k.vault.write u.lc.owner o bs sec })
  have hv : u.cc.vault = s.cc.vault := (congrArg Core.vault hu :)
  rw [hcc, hu, hv, hl] at h
  have hr : r.cc.vault = s.cc.vault.write s.lc.owner o bs sec := (congrArg Core.vault h :)
  exact ⟨by rw [h, hr], by rw [hr]; exact Vault.write_writes _ _ _ _ _⟩

/-- A store to global memory goes on where its launch is not a paired one. -/
theorem State.writePieces_some {m : MCtx} (hd : m.launch.flagD = false) (s : State) (va : Nat) (sec : Bool) (ps : List Piece) (bs : List Byte) :
    ∃ t, s.writePieces m va sec ps bs = some t := by
  induction ps generalizing s va bs with
  | nil => exact ⟨s, rfl⟩
  | cons p ps ih =>
    simp only [State.writePieces, hd, Bool.false_eq_true, if_false]
    split
    · exact ih _ _ _
    · exact ih _ _ _

theorem State.recordFor_outside (s : State) (sync : Bool) (scp : BitVec 3) (p : Word) (ps : List Piece) :
    s.recordFor sync scp p ps = { s with msc := (s.recordFor sync scp p ps).msc } := by
  unfold State.recordFor
  split
  · split <;> rfl
  · rfl

/-- A write of the image changes nothing of the core but the accumulator and its tags. -/
theorem rest_of_acc {s u r : State} {x : Vector (Vector (BitVec 56) 128) 128} {y : BitVec 128} (hu : u.cc.rest = s.cc.rest)
    (h : r.cc.rest = ({ u.cc with acc := x, accSec := y } : Core).rest) :
    r.cc.rest = { s.cc.rest with acc := r.cc.acc, accSec := r.cc.accSec } := by
  have hr : r.cc.rest = { u.cc.rest with acc := x, accSec := y } := h
  have hacc : r.cc.acc = x := (congrArg Core.acc hr :)
  have hsec : r.cc.accSec = y := (congrArg Core.accSec hr :)
  rw [hr, hacc, hsec, hu]

/-- A request takes a number. -/
theorem State.rest_sendVReq (u : State) (k : Nat) (acc : Bool) (kind : VKind) (o n : Nat) (ty : Ty) (x : Word) (ocl : BitVec 4) (sec : Bool) :
    (u.sendVReq k acc kind o n ty x ocl sec).2.cc.rest = { u.cc.rest with ticket := u.cc.ticket + 1 } :=
  congrArg Core.rest (State.cc_modCC u.takeId.2 fun k => k.takeTicket.2)

section
variable {c : Ctl} {ty : Ty} {rel : Bool} {ocl : BitVec 4} {scp : BitVec 3} {a v : Fin 32} {off : Word32} {s : State} {o : Nat}

/-- The instruction whose effects follow. -/
theorem execSt_eq : exec (.st c ty rel ocl scp a off v) s = issue (.st c ty rel ocl scp a off v)
    (fun u => u.store c ty rel ocl scp (u.addr a off) v) s := rfl

/-- It stores at the address that its operands give. -/
theorem st_addr : (fun u : State => u.store c ty rel ocl scp (u.addr a off) v) (s.startIssue c) =
    (s.startIssue c).store c ty rel ocl scp (s.addr a off) v := by
  dsimp only
  rw [State.startIssue_addr]

/-- The last row of a store to the own vault. -/
theorem st_vault_last (h : Issues (.st c ty rel ocl scp a off v) c s) (ha : rel = true → (s.addr a off).toNat % (ty.width / 8) = 0)
    (hf : s.rowsDone = none → (rel = true → (s.startIssue c).allPerformed = true) ∧ (s.startIssue c).classHeld ocl hereTarget = false)
    (hs : bt s.sq.sSec v.val = true → s.lc.flagS = true)
    (hp : (s.startIssue c).decodePtr s.cur.val (s.addr a off) (ty.width / 8) true = .at_ (.vault s.cur.val o))
    (hlast : (o + s.rowsSoFar.got.length) % 256 + (ty.width / 8 - s.rowsSoFar.got.length) ≤ 256) :
    Acts (.st c ty rel ocl scp a off v) c s (s.sq.pc + 16) fun t =>
      (t.sq.results = s.sq.results ∧ Silent (s.startIssue c) t) ∧ t.cc.rest = { s.cc.rest with vault := t.cc.vault } ∧
      VaultWrites s.lc.owner (o + s.rowsSoFar.got.length) ((leBytes (ty.width / 8) (s.rs v).toNat).drop s.rowsSoFar.got.length)
        s.cc.vault t.cc.vault := by
  have hb := State.store_vault (c := c) (scp := scp) (v := v) (u := s.startIssue c) (o := o) (p := s.addr a off) ha (by simpa using hp)
    (by simpa using hf) (by rw [State.startIssue_sSec, State.startIssue_lc]; exact hs)
  simp only [State.startIssue_rowsSoFar, rowPart_last hlast, Nat.lt_irrefl, if_false] at hb
  rw [List.take_of_length_le (by rw [List.length_drop, leBytes_len]), State.startIssue_rs] at hb
  exact acts_of_aside h execSt_eq (st_addr.trans hb) (State.modVault_outside _ _) (.of_modVault _ _) fun r hr =>
    ⟨⟨hr.results.trans (List.append_nil _), hr.silent⟩, writes_of_vault (s.rest_startIssue c) (s.startIssue_lc c) hr.core⟩

/-- A row of a store to the own vault, others still to come. -/
theorem st_vault_pauses (h : Issues (.st c ty rel ocl scp a off v) c s) (ha : rel = true → (s.addr a off).toNat % (ty.width / 8) = 0)
    (hf : s.rowsDone = none → (rel = true → (s.startIssue c).allPerformed = true) ∧ (s.startIssue c).classHeld ocl hereTarget = false)
    (hs : bt s.sq.sSec v.val = true → s.lc.flagS = true)
    (hp : (s.startIssue c).decodePtr s.cur.val (s.addr a off) (ty.width / 8) true = .at_ (.vault s.cur.val o))
    (hcross : 256 < (o + s.rowsSoFar.got.length) % 256 + (ty.width / 8 - s.rowsSoFar.got.length)) :
    let first := ((leBytes (ty.width / 8) (s.rs v).toNat).drop s.rowsSoFar.got.length).take (256 - (o + s.rowsSoFar.got.length) % 256)
    Pauses (.st c ty rel ocl scp a off v) c s ⟨s.rowsSoFar.n + 1, first, bt s.sq.sSec v.val, false, none⟩ fun t =>
      t.cc.rest = { s.cc.rest with vault := t.cc.vault } ∧
      VaultWrites s.lc.owner (o + s.rowsSoFar.got.length) first s.cc.vault t.cc.vault := by
  have hb := State.store_vault (c := c) (scp := scp) (v := v) (u := s.startIssue c) (o := o) (p := s.addr a off) ha (by simpa using hp)
    (by simpa using hf) (by rw [State.startIssue_sSec, State.startIssue_lc]; exact hs)
  simp only [State.startIssue_rowsSoFar, if_pos (rowPart_crosses hcross).2] at hb
  rw [(rowPart_crosses hcross).1, State.startIssue_rs, State.startIssue_sSec] at hb
  exact pauses_of_aside h execSt_eq (st_addr.trans hb) (State.modVault_outside _ _) (.of_modVault _ _)
    fun r _ hr => writes_of_vault (s.rest_startIssue c) (s.startIssue_lc c) hr

/-- A store to the own accumulator image. -/
theorem st_acc (h : Issues (.st c ty rel ocl scp a off v) c s) (ha : rel = true → (s.addr a off).toNat % (ty.width / 8) = 0)
    (he : rel = true → (s.startIssue c).allPerformed = true) (hf : (s.startIssue c).classHeld ocl hereTarget = false) (hi : s.cc.matQ = [])
    (hp : (s.startIssue c).decodePtr s.cur.val (s.addr a off) (ty.width / 8) true = .at_ (.acc s.cur.val o)) :
    Acts (.st c ty rel ocl scp a off v) c s (s.sq.pc + 16) fun t =>
      (t.sq.results = s.sq.results ∧ Silent (s.startIssue c) t) ∧ t.cc.rest = { s.cc.rest with acc := t.cc.acc, accSec := t.cc.accSec } ∧
      ∀ b, b < accBytes → t.cc.accByte b =
        if o ≤ b ∧ b < o + ty.width / 8 then (leBytes (ty.width / 8) (s.rs v).toNat).getD (b - o) 0 else s.cc.accByte b := by
  have hmat : (s.startIssue c).cc.matQ = [] := (State.startIssue_part Core.matQ (fun _ => rfl) s c).trans hi
  have hb := State.store_acc (c := c) (scp := scp) (v := v) (u := s.startIssue c) (o := o) (p := s.addr a off) ha (by simpa using hp) he hf hmat
  have heq (k : Core) := k.storeAcc_eq o (leBytes (ty.width / 8) ((s.startIssue c).rs v).toNat) (accRows o (ty.width / 8))
    (bt (s.startIssue c).sq.sSec v.val)
  refine acts_of_aside h execSt_eq (st_addr.trans hb) (outside_modCC _ _)
    (.of_modCC (fun i => by rw [heq]; cases i <;> rfl) (by rw [heq]) (by rw [heq])) fun r hr =>
    ⟨⟨hr.results.trans (List.append_nil _), hr.silent⟩, ?_, fun b hbb => ?_⟩
  · have hcore := hr.core
    rw [State.cc_modCC, heq] at hcore
    exact rest_of_acc (s.rest_startIssue c) hcore
  · have hbyte := congrArg (fun k : Core => k.accByte b) hr.core
    change r.cc.accByte b = (State.modCC _ _).cc.accByte b at hbyte
    rw [hbyte, State.cc_modCC, Core.accByte_markAcc, Core.accByte_writeAcc _ _ _ hbb, leBytes_len, State.startIssue_rs,
      State.startIssue_part (fun k => k.accByte b) (fun _ => rfl)]

/-- A store to global memory. -/
theorem st_glob (h : Issues (.st c ty rel ocl scp a off v) c s) (ha : rel = true → (s.addr a off).toNat % (ty.width / 8) = 0)
    (he : rel = true → (s.startIssue c).allPerformed = true) (hf : (s.startIssue c).classHeld ocl hereTarget = false)
    (hown : (s.startIssue c).ownRemote (s.addr a off) (ty.width / 8) = false)
    (hp : (s.startIssue c).decodePtr s.cur.val (s.addr a off) (ty.width / 8) true = .at_ .glob) {w : State} {ps : List Piece}
    (ht : (s.startIssue c).checkStore ((s.startIssue c).mcur c) (s.addr a off) (ty.width / 8) (bt s.sq.sSec v.val) = .ok w ps)
    (hs : (s.startIssue c).scopeFor rel false true scp (s.addr a off) ps = none) (hord : Ordinary s ps) :
    ActsWide (s.startIssue c) (.st c ty rel ocl scp a off v) s (s.sq.pc + 16) fun t =>
      (t.sq.results = s.sq.results ∧ Silent (s.startIssue c) t) ∧
      (w.CleanMsc → (∀ x ∈ ps, w.poisonAt x.pa x.len = none) → t.mem = w.mem.storePieces ps (leBytes (ty.width / 8) (s.rs v).toNat)) ∧
      t.cc.rest = { s.cc.rest with tlb := t.cc.tlb } := by
  have hb := State.store_glob (c := c) (scp := scp) (v := v) (u := s.startIssue c) (p := s.addr a off) ha (by simpa using hp) he hf hown
    (by rw [State.startIssue_sSec]; exact ht) hs
  have hchk := State.checkStore_accesses (s.startIssue c) ((s.startIssue c).mcur c) (s.addr a off) (ty.width / 8) (bt s.sq.sSec v.val)
  have hst := State.checkStore_still (s.startIssue c) ((s.startIssue c).mcur c) (s.addr a off) (ty.width / 8) (bt s.sq.sSec v.val)
  rw [ht] at hchk hst
  have hd : ((s.startIssue c).mcur c).launch.flagD = false := (congrArg Launch.flagD (s.startIssue_lc c)).trans hord.1
  rw [State.startIssue_sSec, State.startIssue_rs] at hb
  obtain ⟨t, hw⟩ := State.writePieces_some hd w (bf (s.addr a off) 56 0) (bt s.sq.sSec v.val) ps (leBytes (ty.width / 8) (s.rs v).toNat)
  rw [State.putPieces, hw, Option.getD_some, State.recordFor_outside] at hb
  have hside := Aside.of_accesses (hchk.trans (State.writePieces_accesses hd hw))
  have hstill := (State.writePieces_still hd hw).trans hst
  refine actsWide_of_aside h execSt_eq (st_addr.trans hb) (hside.trans (.of_cores rfl rfl rfl)) fun r hr =>
    ⟨⟨hr.results.trans (List.append_nil _), hr.silent⟩, fun hc hps => ?_, rest_of_access (s.rest_startIssue c) hside.cur hstill hr.core⟩
  obtain ⟨x, hx, hmem⟩ := State.writePieces_clean hd (bf (s.addr a off) 56 0) (bt s.sq.sSec v.val) ps (leBytes (ty.width / 8) (s.rs v).toNat)
    (fun x hx => ⟨hord.2 x hx, fun b hb => State.memPois_of_sound (hps x hx) hb⟩) hc
  obtain rfl : t = x := Option.some.inj (hw.symm.trans hx)
  exact hr.outside.mem.trans hmem

/-- A store to another core. -/
theorem st_remote (h : Issues (.st c ty rel ocl scp a off v) c s) (ha : rel = true → (s.addr a off).toNat % (ty.width / 8) = 0)
    (he : rel = true → (s.startIssue c).allPerformed = true) {acc : Bool} {k : Nat} (hk : k ≠ s.cur.val)
    (hf : (s.startIssue c).classHeld ocl k = false) (hs : acc = false → bt s.sq.sSec v.val = true → s.lc.flagS = true)
    (hp : (s.startIssue c).decodePtr s.cur.val (s.addr a off) (ty.width / 8) true = .at_ (if acc then .acc k o else .vault k o)) :
    ActsWide (s.startIssue c) (.st c ty rel ocl scp a off v) s (s.sq.pc + 16) fun t =>
      (t.sq.results = s.sq.results ∧ Silent (s.startIssue c) t) ∧ t.mem = s.mem ∧
      t.cc.rest = { s.cc.rest with ticket := s.cc.ticket + 1 } ∧
      ∃ q : VReq, t.vreqs = s.vreqs ++ [q] ∧ q.target = k ∧ q.acc = acc ∧ q.off = o ∧ q.n = ty.width / 8 ∧ q.kind = .store ∧
        q.val = s.rs v ∧ q.acted = false ∧ q.core = s.cur.val ∧ q.seq = s.curSeq := by
  have hb := State.store_remote (c := c) (scp := scp) (v := v) (u := s.startIssue c) (o := o) (p := s.addr a off) ha (by simpa using hp)
    (by simpa using hk) he hf (by rw [State.startIssue_sSec, State.startIssue_lc]; exact hs)
  rw [State.startIssue_sSec, State.startIssue_rs] at hb
  obtain ⟨hmem, q, hq, hq1, hq2, hq3, hq4, -, hq6, hq7, hq8, hq9, hq10, -⟩ :=
    (s.startIssue c).sendVReq_asks k acc .store o (ty.width / 8) ty (s.rs v) ocl (bt s.sq.sSec v.val)
  refine actsWide_of_aside h execSt_eq (st_addr.trans hb) (.sendVReq _ _ _ _ _ _ _ _ _ _) fun r hr =>
    ⟨⟨hr.results.trans (List.append_nil _), hr.silent⟩, hr.outside.mem.trans (hmem.trans (s.startIssue_mem c)), ?_,
      q, ?_, hq1, hq2, hq3, hq4, hq6, hq10, hq7, ?_, ?_⟩
  · rw [hr.core, State.rest_sendVReq, State.rest_startIssue, State.startIssue_ticket]
  · have hreqs : r.vreqs = ((s.startIssue c).sendVReq k acc .store o (ty.width / 8) ty (s.rs v) ocl (bt s.sq.sSec v.val)).2.vreqs :=
      (congrArg State.vreqs hr.outside.device :)
    rw [hreqs, hq, congrArg State.vreqs (outside_startIssue s c).device]
  · rw [hq8, State.startIssue_cur]
  · rw [hq9, State.startIssue_curSeq]

end

/-- Settles O18: a store by the place that its pointer decodes to. -/
theorem storeResult : Obligations.storeResult := by
  intro c ty rel ocl scp a off v s i u p n m bs sec here quiet h _ ha
  refine ⟨fun o hf hs hp => ?_, fun o hh hi hp => st_acc h ha hh.1 hh.2 hi hp,
    fun w ps hh hown hp ht hs hord => st_glob h ha hh.1 hh.2 hown hp ht hs hord,
    fun acc k o hk he hf hs hp => st_remote h ha he hk hf hs hp⟩
  have hlen : (bs.drop s.rowsSoFar.got.length).length = n - s.rowsSoFar.got.length := by rw [List.length_drop, leBytes_len]
  dsimp only
  rw [hlen]
  exact ⟨st_vault_last h ha hf hs hp, st_vault_pauses h ha hf hs hp⟩

end Sys2Proof.Machine
end

section
/-! `LDV` and `STV` (R99, R332, R362). -/

namespace Sys2Proof.Machine

/-! ### Bytes of lanes -/

theorem leNat_drop (bs : List Byte) (k : Nat) : leNat (bs.drop k) = leNat bs / 256 ^ k := by
  induction k generalizing bs with
  | zero => simp
  | succ k ih =>
    cases bs with
    | nil => simp [leNat]
    | cons b bs =>
      have hb : b.toNat < 256 := b.isLt
      rw [List.drop_succ_cons, ih, leNat, Nat.pow_succ', ← Nat.div_div_eq_div_mul]
      congr 1
      omega

theorem leNat_take (bs : List Byte) (k : Nat) : leNat (bs.take k) = leNat bs % 256 ^ k := by
  induction k generalizing bs with
  | zero => simp [leNat, Nat.mod_one]
  | succ k ih =>
    cases bs with
    | nil => simp [leNat]
    | cons b bs =>
      have hb : b.toNat < 256 := b.isLt
      rw [List.take_succ_cons, leNat, leNat, ih, Nat.pow_succ', Nat.mod_mul, show (b.toNat + 256 * leNat bs) / 256 = leNat bs by omega,
        show (b.toNat + 256 * leNat bs) % 256 = b.toNat by omega]

/-- A lane of bytes read holds four of them. -/
theorem lane_laneBytes (bs : List Byte) {l : Nat} (hl : l < 1024) :
    (lane (laneBytes bs) l).toNat = leNat ((bs.drop (4 * l)).take 4) := by
  rw [laneBytes, lane, vget_tab _ _ _ _ hl, BitVec.toNat_ofNat, leNat_take, leNat_drop, show 32 * l = 8 * (4 * l) by ring, Nat.pow_mul]
  rfl

theorem leBytes_getD (n x : Nat) {i : Nat} (h : i < n) : (leBytes n x).getD i 0 = BitVec.ofNat 8 (x / 256 ^ i) := by
  induction n generalizing x i with
  | zero => omega
  | succ n ih =>
    cases i with
    | zero => simp [leBytes]
    | succ i => rw [leBytes, List.getD_cons_succ, ih _ (by omega), Nat.pow_succ', Nat.div_div_eq_div_mul]

/-- The lanes of the first rows. -/
theorem bt_rowMask {n l : Nat} (hl : l < 1024) : bt (rowMask n) l = decide (l < 64 * n) := by
  rw [bt, rowMask, BitVec.getLsbD_ofNat, Nat.testBit_two_pow_sub_one]
  simp [hl]

/-- The rows of the instruction. -/
theorem rowCount_le (n : BitVec 4) : rowCount n ≤ 16 := by
  unfold rowCount
  split
  · exact Nat.le_refl _
  · omega

/-- The lanes of a row that are selected. -/
theorem State.mem_rowLanes (u : State) (c : Ctl) {k l : Nat} (hk : k < 16) : l ∈ u.rowLanes c k ↔ l / 64 = k ∧ u.isOn c l := by
  simp only [State.rowLanes, List.mem_filter, List.mem_map, List.mem_range]
  constructor
  · rintro ⟨⟨j, hj, rfl⟩, hb⟩
    exact ⟨by omega, (u.lanes_isOn c (by omega)).1 hb⟩
  · rintro ⟨rfl, ho⟩
    exact ⟨⟨l % 64, Nat.mod_lt _ (by decide), by omega⟩, (u.lanes_isOn c (by omega)).2 ho⟩

/-! ### Writing lanes -/

theorem Vault.Plain.writeBytes {v : Vault} (h : v.Plain) (o : BitVec 8) (off : Nat) (bs : List Byte) : (v.writeBytes o off bs).Plain := by
  induction bs generalizing v off with
  | nil => exact h
  | cons b bs ih => exact ih (h.writeByte o off b) _

/-- Beside bytes and owners a write changes tags, poison and correctable errors. -/
theorem Vault.alike_write (v : Vault) (o : BitVec 8) (off : Nat) (bs : List Byte) (sec : Bool) :
    (v.writeBytes o off bs).Alike (v.write o off bs sec) := by
  unfold Vault.write
  extract_lets n u w
  have hw : u.Alike w := ⟨rfl, rfl, rfl, rfl, rfl⟩
  refine (hw.trans ?_).trans (Vault.alike_correct _ _ _)
  split
  · exact w.alike_setSec _ _
  · exact .refl w

theorem Vault.Plain.write {v : Vault} (h : v.Plain) (o : BitVec 8) (off : Nat) (bs : List Byte) (sec : Bool) : (v.write o off bs sec).Plain :=
  (v.alike_write o off bs sec).plain (h.writeBytes o off bs)

/-- A byte of a lane. -/
def laneByte (x : VReg) (l i : Nat) : Byte := BitVec.ofNat 8 ((lane x l).toNat / 256 ^ i)

/-- A lane written takes its four bytes. -/
theorem Vault.byte_writeLane {v : Vault} (h : v.Plain) (o : BitVec 8) (off : Nat) (x : VReg) (sec : Bool) (l b : Nat) :
    (v.write o (off + 4 * l) (leBytes 4 (lane x l).toNat) sec).byte o b =
      if off ≤ b ∧ (b - off) / 4 = l then laneByte x ((b - off) / 4) ((b - off) % 4) else v.byte o b := by
  rw [Vault.write_writes _ _ _ _ _ h, leBytes_len]
  by_cases hin : off ≤ b ∧ (b - off) / 4 = l
  · rw [if_pos hin, if_pos (by omega), leBytes_getD _ _ (by omega), laneByte, hin.2,
      show b - (off + 4 * l) = (b - off) % 4 by omega]
  · rw [if_neg hin, if_neg (by omega)]

/-- Two lanes written at once take what they take one after the other. -/
theorem Vault.byte_writeLanes2 {v : Vault} (h : v.Plain) (o : BitVec 8) (off : Nat) (x : VReg) (sec : Bool) (l b : Nat) :
    (v.write o (off + 4 * l) (leBytes 4 (lane x l).toNat ++ leBytes 4 (lane x (l + 1)).toNat) sec).byte o b =
      if off ≤ b ∧ ((b - off) / 4 = l ∨ (b - off) / 4 = l + 1) then laneByte x ((b - off) / 4) ((b - off) % 4) else v.byte o b := by
  rw [Vault.write_writes _ _ _ _ _ h, List.length_append, leBytes_len, leBytes_len]
  by_cases hin : off ≤ b ∧ ((b - off) / 4 = l ∨ (b - off) / 4 = l + 1)
  · rw [if_pos hin, if_pos (by omega), laneByte]
    obtain ⟨hb, hl | hl⟩ := hin
    · rw [List.getD_append _ _ _ _ (by rw [leBytes_len]; omega), leBytes_getD _ _ (by omega), hl,
        show b - (off + 4 * l) = (b - off) % 4 by omega]
    · rw [List.getD_append_right _ _ _ _ (by rw [leBytes_len]; omega), leBytes_len, leBytes_getD _ _ (by omega), hl,
        show b - (off + 4 * l) - 4 = (b - off) % 4 by omega]
  · rw [if_neg hin, if_neg (by omega)]

/-- Of a plain vault only the bytes of the lanes listed change, and take theirs. -/
theorem Vault.byte_writeLaneList (o : BitVec 8) (off : Nat) (x : VReg) (sec : Bool) (ls : List Nat) (v : Vault) (h : v.Plain) (b : Nat) :
    (v.writeLaneList o off x sec ls).byte o b =
      if off ≤ b ∧ (b - off) / 4 ∈ ls then laneByte x ((b - off) / 4) ((b - off) % 4) else v.byte o b := by
  fun_induction Vault.writeLaneList v o off x sec ls with
  | case1 v => simp
  | case2 v l =>
    rw [Vault.byte_writeLane h]
    simp only [List.mem_singleton]
  | case3 v l l' ls he ih =>
    obtain ⟨-, rfl⟩ := he
    rw [ih (h.write _ _ _ _), Vault.byte_writeLanes2 h, ← ite_or]
    simp only [List.mem_cons, ← and_or_left]
    refine if_congr (and_congr_right fun _ => ?_) rfl rfl
    tauto
  | case4 v l l' ls he ih =>
    rw [ih (h.write _ _ _ _), Vault.byte_writeLane h, ← ite_or]
    simp only [List.mem_cons, ← and_or_left]
    exact if_congr (and_congr_right fun _ => or_comm) rfl rfl

/-! ### `LDV` -/

section
variable {c : Ctl} {ty : Ty} {ocl : BitVec 4} {d a v : Fin 32} {off : Word32} {n : BitVec 4} {o k : Nat} {s : State}

/-- What `LDV` does at issue: `execLdv`'s body. -/
def ldvBody (c : Ctl) (ocl : BitVec 4) (d a : Fin 32) (off : Word32) (n : BitVec 4) (u : State) : Eff :=
  let p := u.addr a off
  match u.rowPtr p (rowCount n) false with
  | .inl t => .trap u t
  | .inr o =>
    let x := u.readRow u.rowsSoFar (o + 256 * u.rowsSoFar.n) 256
    let t := u.modVault u.cur.val fun v => v.correct (o + 256 * u.rowsSoFar.n) 256
    if u.rowsDone.isNone && u.classHeld ocl hereTarget then .wait u
    else match (u.rowLanes c u.rowsSoFar.n).find? fun l => (u.vault u.cur.val).bad (o + 4 * l) 4 with
      | some l => .trap u ⟨cPOISON, p + wd (4 * l / 8 * 8), 0⟩
      | none =>
        if x.n < rowCount n then .wait (t.pauseRows { x with bad := false })
        else .done (t.writeLanes d (u.lanes c &&& rowMask (rowCount n)) (laneBytes x.got)) x.sec

theorem execLdv_eq : exec (.ldv c ty ocl d a off n) s = issue (.ldv c ty ocl d a off n) (ldvBody c ocl d a off n) s := rfl

/-- A row of `LDV` in which no selected lane is poisoned. -/
theorem ldvBody_row (hk : s.rowsSoFar.n = k) (h16 : k < 16)
    (hp : (s.startIssue c).rowPtr (s.addr a off) (rowCount n) false = .inr o)
    (hf : s.rowsDone = none → (s.startIssue c).classHeld ocl hereTarget = false)
    (hb : ∀ l, l / 64 = k → (s.startIssue c).isOn c l → s.cc.vault.bad (o + 4 * l) 4 = false) :
    let x := (s.startIssue c).readRow s.rowsSoFar (o + 256 * k) 256
    let t := (s.startIssue c).modVault (s.startIssue c).cur.val fun v => v.correct (o + 256 * k) 256
    ldvBody c ocl d a off n (s.startIssue c) = if k + 1 < rowCount n then .wait (t.pauseRows { x with bad := false })
      else .done (t.writeLanes d ((s.startIssue c).lanes c &&& rowMask (rowCount n)) (laneBytes x.got)) x.sec := by
  have hw : ((s.startIssue c).rowsDone.isNone && (s.startIssue c).classHeld ocl hereTarget) = false := by
    rw [State.startIssue_rowsDone]
    cases h : s.rowsDone with
    | none => simp [hf h]
    | some w => rfl
  have hfind : ((s.startIssue c).rowLanes c k).find? (fun l => ((s.startIssue c).vault (s.startIssue c).cur.val).bad (o + 4 * l) 4) = none := by
    rw [List.find?_eq_none]
    intro l hl
    obtain ⟨hlk, hon⟩ := ((s.startIssue c).mem_rowLanes c h16).1 hl
    rw [State.startIssue_cur, State.startIssue_vault, hb l hlk hon]
    simp
  dsimp only
  unfold ldvBody
  simp only [State.startIssue_addr, hp, State.startIssue_rowsSoFar, hk, hw, hfind, Bool.false_eq_true, if_false]
  rw [show ((s.startIssue c).readRow s.rowsSoFar (o + 256 * k) 256).n = k + 1 from congrArg (· + 1) hk]

/-- A row of `LDV`, others still to come. -/
theorem ldv_pauses (h : Issues (.ldv c ty ocl d a off n) c s) (hk : s.rowsSoFar.n = k) (hmore : k + 1 < rowCount n)
    (hp : (s.startIssue c).rowPtr (s.addr a off) (rowCount n) false = .inr o)
    (hf : s.rowsDone = none → (s.startIssue c).classHeld ocl hereTarget = false)
    (hb : ∀ l, l / 64 = k → (s.startIssue c).isOn c l → s.cc.vault.bad (o + 4 * l) 4 = false) :
    Pauses (.ldv c ty ocl d a off n) c s ⟨k + 1, s.rowsSoFar.got ++ (s.startIssue c).readVault s.cur.val (o + 256 * k) 256,
      s.rowsSoFar.sec || s.cc.vault.secure (o + 256 * k) 256, false, none⟩ fun t =>
      t.cc.rest = { s.cc.rest with vault := { s.cc.vault with soft := t.cc.vault.soft } } := by
  have h16 := rowCount_le n
  have hbody := ldvBody_row (d := d) hk (by omega) hp hf hb
  dsimp only at hbody
  rw [if_pos hmore, State.startIssue_readRow, hk] at hbody
  exact pauses_of_aside h execLdv_eq hbody (State.modVault_outside _ _) (.of_modVault _ _) fun r _ hr =>
    rest_of_correct (s.rest_startIssue c) hr

/-- The last row of `LDV`: the selected lanes of its rows take the bytes read. -/
theorem ldv_last (h : Issues (.ldv c ty ocl d a off n) c s) (hk : s.rowsSoFar.n = k) (hlast : k + 1 = rowCount n)
    (hp : (s.startIssue c).rowPtr (s.addr a off) (rowCount n) false = .inr o)
    (hf : s.rowsDone = none → (s.startIssue c).classHeld ocl hereTarget = false)
    (hb : ∀ l, l / 64 = k → (s.startIssue c).isOn c l → s.cc.vault.bad (o + 4 * l) 4 = false) :
    Acts (.ldv c ty ocl d a off n) c s (s.sq.pc + 16) fun t =>
      t.sq.results = s.sq.results ∧ Silent (s.startIssue c) t ∧
      t.cc.rest = { s.cc.rest with vault := { s.cc.vault with soft := t.cc.vault.soft } } ∧ ∀ l, l < 1024 →
        (l < 64 * rowCount n ∧ (s.startIssue c).isOn c l → (lane (t.rv d) l).toNat =
          leNat (((s.rowsSoFar.got ++ (s.startIssue c).readVault s.cur.val (o + 256 * k) 256).drop (4 * l)).take 4)) ∧
        (¬(l < 64 * rowCount n ∧ (s.startIssue c).isOn c l) → lane (t.rv d) l = lane ((s.startIssue c).rv d) l) := by
  have h16 := rowCount_le n
  have hbody := ldvBody_row (d := d) hk (by omega) hp hf hb
  dsimp only at hbody
  rw [if_neg (by omega), State.startIssue_readRow] at hbody
  have hd : d ∈ (Instr.ldv c ty ocl d a off n).regs.vW := by simp [Instr.regs]
  have hside := Aside.of_modVault (s.startIssue c) fun v => v.correct (o + 256 * k) 256
  have hout := State.modVault_outside (s.startIssue c) fun v => v.correct (o + 256 * k) 256
  have hw := writes_writeLanes hd ((s.startIssue c).modVault (s.startIssue c).cur.val fun v => v.correct (o + 256 * k) 256)
    ((s.startIssue c).lanes c &&& rowMask (rowCount n))
    (laneBytes (s.rowsSoFar.got ++ (s.startIssue c).readVault s.cur.val (o + 256 * k) 256))
  refine acts_of_writes h execLdv_eq hbody hout hside hw fun r hr hres => ⟨hres, ⟨?_, ?_⟩, ?_, fun l hl => ?_⟩
  · have hraise := (raises_writeLanes ((s.startIssue c).modVault (s.startIssue c).cur.val fun v => v.correct (o + 256 * k) 256) d _ _).retires hr
    rwa [Raises, hside.unit] at hraise
  · rw [hr.gen, State.writeLanes_gen, hside.unit]
  · exact rest_of_correct (s.rest_startIssue c) (hr.core.trans hw.core)
  · have hrv : ((s.startIssue c).modVault (s.startIssue c).cur.val fun v => v.correct (o + 256 * k) 256).rv d = (s.startIssue c).rv d := by
      rw [State.rv, hside.unit]; rfl
    have hbit : bt ((s.startIssue c).lanes c &&& rowMask (rowCount n)) l = true ↔ l < 64 * rowCount n ∧ (s.startIssue c).isOn c l := by
      rw [bt, BitVec.getLsbD_and, Bool.and_eq_true, and_comm]
      exact and_congr (by rw [← bt, bt_rowMask hl, decide_eq_true_iff]) ((s.startIssue c).lanes_isOn c hl)
    rw [hr.regs.vRegs d (by simp), State.writeLanes_lane _ _ _ _ hl, hrv]
    refine ⟨fun hon => ?_, fun hoff => if_neg (mt hbit.1 hoff)⟩
    rw [if_pos (hbit.2 hon), lane_laneBytes _ hl]

end

/-! ### `STV` -/

/-- The rows of an `STV` still being written outlast the STALL slots. -/
theorem State.startIssue_storing (s : State) (c : Ctl) : (s.startIssue c).cc.storing = s.cc.storing := by
  have hown : (s.startIssue c).cc.seq s.curSeq = (s.cc.seq s.curSeq).started := by
    have h := State.sq_startIssue s c
    rwa [State.sq, State.startIssue_curSeq] at h
  have hother := State.startIssue_otherSeq s c
  rw [State.startIssue_curSeq] at hother
  unfold Core.storing
  cases hq : s.curSeq with
  | xs =>
    rw [hq] at hown
    have hxs : (s.startIssue c).cc.xs = s.cc.xs.started := hown
    rw [hxs, Seq.started]
    cases s.cc.xs.wait with
    | none => rfl
    | some w => cases w <;> rfl
  | as =>
    rw [hq] at hother
    have hxs : (s.startIssue c).cc.xs = s.cc.xs := hother
    rw [hxs]

theorem State.startIssue_rangeHeld (s : State) (c : Ctl) (ticket : Nat) (rs : List Range) :
    (s.startIssue c).cc.rangeHeld ticket rs = s.cc.rangeHeld ticket rs := by
  unfold Core.rangeHeld Core.rangesBefore
  rw [State.startIssue_storing, State.startIssue_part Core.copyQ (fun _ => rfl), State.startIssue_part Core.gathQ (fun _ => rfl),
    State.startIssue_part Core.matQ (fun _ => rfl)]

section
variable {c : Ctl} {ty : Ty} {ocl : BitVec 4} {a v : Fin 32} {off : Word32} {n : BitVec 4} {o k : Nat} {s : State}

/-- What `STV` has written after its next row. -/
def State.storedRow (u : State) (c : Ctl) (v : Fin 32) (o k : Nat) : State :=
  u.modVault u.cur.val fun x => x.writeLaneList u.lc.owner o (u.rv v) (bt u.cc.x.vSec v.val) (u.rowLanes c k)

/-- What `STV` does at issue: `execStv`'s body. -/
def stvBody (c : Ctl) (ocl : BitVec 4) (a : Fin 32) (off : Word32) (v : Fin 32) (n : BitVec 4) (u : State) : Eff :=
  match u.rowPtr (u.addr a off) (rowCount n) true with
  | .inl t => .trap u t
  | .inr o =>
    let range : Range := ⟨o, o + 256 * rowCount n, true⟩
    let w := u.rowsDone.getD { RowsDone.start with held := some (u.cc.ticket, range) }
    let t := u.storedRow c v o w.n
    if bt u.cc.x.vSec v.val && !u.lc.flagS then .trap u (trapWorld (u.addr a off))
    else if u.rowsDone.isNone && (u.classHeld ocl hereTarget || u.cc.rangeHeld u.cc.ticket [range]) then .wait u
    else if w.n + 1 < rowCount n then
      .wait ((if u.rowsDone.isNone then t.modCC fun k => k.takeTicket.2 else t).pauseRows { w with n := w.n + 1 })
    else .done t false

theorem execStv_eq : exec (.stv c ty ocl a off v n) s = issue (.stv c ty ocl a off v n) (stvBody c ocl a off v n) s := rfl

/-- A row of `STV` that nothing holds back. -/
theorem stvBody_row (hk : s.rowsSoFar.n = k) (hp : (s.startIssue c).rowPtr (s.addr a off) (rowCount n) true = .inr o)
    (hf : s.rowsDone = none → (s.startIssue c).classHeld ocl hereTarget = false)
    (hs : bt (s.startIssue c).cc.x.vSec v.val = true → s.lc.flagS = true)
    (hr : s.rowsDone = none → s.cc.rangeHeld s.cc.ticket [⟨o, o + 256 * rowCount n, true⟩] = false) :
    let t := (s.startIssue c).storedRow c v o k
    stvBody c ocl a off v n (s.startIssue c) = if k + 1 < rowCount n then
        .wait ((if s.rowsDone = none then t.modCC fun k => k.takeTicket.2 else t).pauseRows { s.rowsSoFar with
          n := k + 1, held := if s.rowsDone = none then some (s.cc.ticket, ⟨o, o + 256 * rowCount n, true⟩) else s.rowsSoFar.held })
      else .done t false := by
  have hsec : (bt (s.startIssue c).cc.x.vSec v.val && !(s.startIssue c).lc.flagS) = false := by
    rw [State.startIssue_lc]
    cases h : bt (s.startIssue c).cc.x.vSec v.val with
    | false => rfl
    | true => rw [hs h]; rfl
  dsimp only
  unfold stvBody
  simp only [State.startIssue_addr, hp, hsec, State.startIssue_rowsDone, State.startIssue_ticket, State.startIssue_rangeHeld,
    Bool.false_eq_true, if_false]
  cases hd : s.rowsDone with
  | none =>
    obtain rfl : k = 0 := by rw [← hk, State.rowsSoFar, hd]; rfl
    simp [hf hd, hr hd, State.rowsSoFar, hd, RowsDone.start]
  | some w =>
    obtain rfl : k = w.n := by rw [← hk, State.rowsSoFar, hd]; rfl
    simp [State.rowsSoFar, hd]

/-- The bytes that a row of `STV` writes: those of the selected lanes of row `k`. -/
def RowStored (s u : State) (c : Ctl) (v : Fin 32) (o k rows : Nat) (t : State) : Prop :=
  s.cc.vault.Plain → ∀ b,
    (o ≤ b → (b - o) / 4 / 64 = k ∧ (b - o) / 4 < 64 * rows ∧ u.isOn c ((b - o) / 4) → t.cc.vault.byte s.lc.owner b =
      BitVec.ofNat 8 ((lane (u.rv v) ((b - o) / 4)).toNat / 256 ^ ((b - o) % 4))) ∧
    (¬(o ≤ b ∧ (b - o) / 4 / 64 = k ∧ (b - o) / 4 < 64 * rows ∧ u.isOn c ((b - o) / 4)) →
      t.cc.vault.byte s.lc.owner b = s.cc.vault.byte s.lc.owner b)

theorem rowStored {r : State} {rows : Nat} (hk : k < rows) (h16 : rows ≤ 16)
    (hv : r.cc.vault = ((s.startIssue c).storedRow c v o k).cc.vault) : RowStored s (s.startIssue c) c v o k rows r := by
  intro hplain b
  have hu : (s.startIssue c).cc.vault = s.cc.vault := State.startIssue_part Core.vault (fun _ => rfl) s c
  have hst : ((s.startIssue c).storedRow c v o k).cc.vault = s.cc.vault.writeLaneList s.lc.owner o ((s.startIssue c).rv v)
      (bt (s.startIssue c).cc.x.vSec v.val) ((s.startIssue c).rowLanes c k) := by
    rw [← hu, ← s.startIssue_lc c]
    exact congrArg Core.vault (State.cc_modCC (s.startIssue c) _)
  have hmem (l : Nat) : l ∈ (s.startIssue c).rowLanes c k ↔ l / 64 = k ∧ l < 64 * rows ∧ (s.startIssue c).isOn c l := by
    rw [State.mem_rowLanes _ _ (by omega)]
    exact ⟨fun ⟨hl, ho⟩ => ⟨hl, by omega, ho⟩, fun ⟨hl, _, ho⟩ => ⟨hl, ho⟩⟩
  rw [hv, hst, Vault.byte_writeLaneList _ _ _ _ _ _ hplain]
  exact ⟨fun hb hon => if_pos ⟨hb, (hmem _).2 hon⟩, fun hoff => if_neg fun hin => hoff ⟨hin.1, (hmem _).1 hin.2⟩⟩

/-- A row written changes nothing of the core but the vault. -/
theorem storedRow_rest : ((s.startIssue c).storedRow c v o k).cc.rest =
    { s.cc.rest with vault := ((s.startIssue c).storedRow c v o k).cc.vault } := by
  have hcc : ((s.startIssue c).storedRow c v o k).cc = { (s.startIssue c).cc with
      vault := (s.startIssue c).cc.vault.writeLaneList (s.startIssue c).lc.owner o ((s.startIssue c).rv v)
        (bt (s.startIssue c).cc.x.vSec v.val) ((s.startIssue c).rowLanes c k) } := State.cc_modCC (s.startIssue c) _
  rw [hcc, ← State.rest_startIssue s c]
  rfl

/-- A core that differs in its vault and its next number is told by them. -/
theorem rest_of_vault {r : State} {x : Vault} {t : Nat} (h : r.cc.rest = { s.cc.rest with vault := x, ticket := t }) :
    r.cc.rest = { s.cc.rest with vault := r.cc.vault, ticket := t } := by
  have hv : r.cc.vault = x := (congrArg Core.vault h :)
  rw [h, hv]

/-- A row of `STV`, others still to come. -/
theorem stv_pauses (h : Issues (.stv c ty ocl a off v n) c s) (hk : s.rowsSoFar.n = k) (hmore : k + 1 < rowCount n)
    (hp : (s.startIssue c).rowPtr (s.addr a off) (rowCount n) true = .inr o)
    (hf : s.rowsDone = none → (s.startIssue c).classHeld ocl hereTarget = false)
    (hs : bt (s.startIssue c).cc.x.vSec v.val = true → s.lc.flagS = true)
    (hr : s.rowsDone = none → s.cc.rangeHeld s.cc.ticket [⟨o, o + 256 * rowCount n, true⟩] = false) :
    Pauses (.stv c ty ocl a off v n) c s { s.rowsSoFar with
        n := k + 1, held := if s.rowsDone = none then some (s.cc.ticket, ⟨o, o + 256 * rowCount n, true⟩) else s.rowsSoFar.held }
      fun t => RowStored s (s.startIssue c) c v o k (rowCount n) t ∧ t.cc.rest = { s.cc.rest with
        vault := t.cc.vault, ticket := s.cc.ticket + if s.rowsDone = none then 1 else 0 } := by
  have hbody := stvBody_row hk hp hf hs hr
  dsimp only at hbody
  rw [if_pos hmore] at hbody
  have hout : OutsideSame (s.startIssue c) ((s.startIssue c).storedRow c v o k) := State.modVault_outside _ _
  have hside : Aside (s.startIssue c) [] ((s.startIssue c).storedRow c v o k) := .of_modVault _ _
  have h16 := rowCount_le n
  by_cases hd : s.rowsDone = none
  · simp only [if_pos hd] at hbody ⊢
    refine pauses_of_aside h execStv_eq hbody (hout.trans (outside_modCC _ _))
      (hside.trans (.of_modCC (fun i => by cases i <;> rfl) rfl rfl)) fun r _ hr => ?_
    have htick : r.cc.rest = { ((s.startIssue c).storedRow c v o k).cc.rest with ticket := s.cc.ticket + 1 } := by
      have ht : ((s.startIssue c).storedRow c v o k).cc.ticket = s.cc.ticket := (congrArg Core.ticket storedRow_rest :)
      rw [hr, ← ht]
      exact congrArg Core.rest (State.cc_modCC ((s.startIssue c).storedRow c v o k) fun k => k.takeTicket.2)
    have hv : r.cc.vault = ((s.startIssue c).storedRow c v o k).cc.vault := (congrArg Core.vault htick :)
    rw [storedRow_rest] at htick
    exact ⟨rowStored (by omega) h16 hv, rest_of_vault htick⟩
  · simp only [if_neg hd] at hbody ⊢
    exact pauses_of_aside h execStv_eq hbody hout hside fun r _ hr =>
      ⟨rowStored (by omega) h16 (congrArg Core.vault hr :), rest_of_vault (hr.trans storedRow_rest)⟩

/-- The last row of `STV`. -/
theorem stv_last (h : Issues (.stv c ty ocl a off v n) c s) (hk : s.rowsSoFar.n = k) (hlast : k + 1 = rowCount n)
    (hp : (s.startIssue c).rowPtr (s.addr a off) (rowCount n) true = .inr o)
    (hf : s.rowsDone = none → (s.startIssue c).classHeld ocl hereTarget = false)
    (hs : bt (s.startIssue c).cc.x.vSec v.val = true → s.lc.flagS = true)
    (hr : s.rowsDone = none → s.cc.rangeHeld s.cc.ticket [⟨o, o + 256 * rowCount n, true⟩] = false) :
    Acts (.stv c ty ocl a off v n) c s (s.sq.pc + 16) fun t => t.sq.results = s.sq.results ∧ Silent (s.startIssue c) t ∧
      RowStored s (s.startIssue c) c v o k (rowCount n) t ∧ t.cc.rest = { s.cc.rest with vault := t.cc.vault } := by
  have hbody := stvBody_row hk hp hf hs hr
  dsimp only at hbody
  rw [if_neg (by omega)] at hbody
  have h16 := rowCount_le n
  exact acts_of_aside h execStv_eq hbody (State.modVault_outside _ _) (.of_modVault _ _) fun r hr =>
    ⟨hr.results.trans (List.append_nil _), hr.silent, rowStored (by omega) h16 (congrArg Core.vault hr.core :),
      rest_of_vault (hr.core.trans storedRow_rest)⟩

end

/-- Settles O20: a row of `LDV` or `STV`, others still to come, and the last. -/
theorem vectorRows : Obligations.vectorRows := by
  intro c ty ocl d a v off n o k s u p rows on here free w row soft hk
  refine ⟨fun h hp hf hb => ?_, fun h hp hf hs hr => ⟨fun hmore => stv_pauses h hk hmore hp hf hs hr,
    fun hlast => stv_last h hk hlast hp hf hs hr⟩⟩
  have hbad (hk : k < rows) (l : Nat) (hl : l / 64 = k) (ho : u.isOn c l) : s.cc.vault.bad (o + 4 * l) 4 = false :=
    hb l ⟨hl, by omega, ho⟩
  exact ⟨fun hmore => ldv_pauses h hk hmore hp hf (hbad (by omega)), fun hlast _ => ldv_last h hk hlast hp hf (hbad (by omega))⟩

end Sys2Proof.Machine
end

section
/-! Copies, gathers and scatters at issue (R104, R163, R169, R316, R317, R328, R357). -/

namespace Sys2Proof.Machine

/-! ### Tiles turned and commands queued -/

theorem Core.tile_setTileState_eq (k : Core) (t r : Fin 32) (st : TileState) :
    (k.setTileState t st).tile r = { k.tile r with state := if t = r then st else (k.tile r).state } := by
  by_cases h : t = r
  · subst h
    simp [Core.setTileState, Core.setTile, Core.tile]
  · have hne : t.val ≠ r.val := fun e => h (Fin.ext e)
    simp [Core.setTileState, Core.setTile, Core.tile, h, hne]

theorem Core.tile_turnTile (k : Core) (t : Option (Fin 32)) (r : Fin 32) (st : TileState) :
    (k.turnTile t st).tile r = { k.tile r with state := if t = some r then st else (k.tile r).state } := by
  cases t with
  | none => simp [Core.turnTile]
  | some t => simp [Core.turnTile, k.tile_setTileState_eq]

theorem Core.turnTile_tiles (k : Core) (t : Option (Fin 32)) (st : TileState) : ∃ tiles, k.turnTile t st = { k with tiles := tiles } :=
  ⟨_, k.turnTile_eq t st⟩

/-- A copy that enters the queue takes a number, and its tiles turn. -/
theorem Core.enqueueCopy_eq (k : Core) (x : CopyCmd) : k.enqueueCopy x = { k with
    copyQ := k.copyQ ++ [{ x with ticket := k.ticket }], ticket := k.ticket + 1, tiles := (k.enqueueCopy x).tiles
    filledC := (k.enqueueCopy x).filledC } := by
  obtain ⟨t1, h1⟩ := k.takeTicket.2.turnTile_tiles x.dstTile .filling
  obtain ⟨t2, h2⟩ := Core.turnTile_tiles { k.takeTicket.2 with tiles := t1 } x.srcTile .draining
  unfold Core.enqueueCopy
  dsimp only
  rw [h1, h2]
  split <;> rfl

theorem Core.enqueueCopy_tile (k : Core) {x : CopyCmd} (h : ∀ r, x.dstTile = some r → x.srcTile ≠ some r) (r : Fin 32) :
    (k.enqueueCopy x).tile r = { k.tile r with
      state := if x.dstTile = some r then .filling else if x.srcTile = some r then .draining else (k.tile r).state } := by
  have htiles : (k.enqueueCopy x).tiles = ((k.takeTicket.2.turnTile x.dstTile .filling).turnTile x.srcTile .draining).tiles := by
    unfold Core.enqueueCopy
    dsimp only
    split <;> rfl
  have htile : (k.enqueueCopy x).tile r = ((k.takeTicket.2.turnTile x.dstTile .filling).turnTile x.srcTile .draining).tile r := by
    rw [Core.tile, htiles]; rfl
  have hk : k.takeTicket.2.tile r = k.tile r := rfl
  rw [htile, Core.tile_turnTile, Core.tile_turnTile, hk]
  dsimp only
  by_cases hd : x.dstTile = some r
  · simp [hd, h r hd]
  · simp [hd]

/-- A gather or scatter that enters the queue takes a number, and its data tile turns. -/
theorem Core.enqueueGather_eq (k : Core) (x : GathCmd) : k.enqueueGather x = { k with
    gathQ := k.gathQ ++ [{ x with ticket := k.ticket }], ticket := k.ticket + 1, tiles := (k.enqueueGather x).tiles
    filledG := (k.enqueueGather x).filledG } := by
  unfold Core.enqueueGather
  cases x.scatter <;> rfl

theorem Core.enqueueGather_tile (k : Core) (x : GathCmd) (r : Fin 32) : (k.enqueueGather x).tile r =
    { k.tile r with state := if x.tile = r then (if x.scatter then .draining else .filling) else (k.tile r).state } := by
  have htile : (k.enqueueGather x).tile r = (k.takeTicket.2.setTileState x.tile (if x.scatter then .draining else .filling)).tile r := by
    unfold Core.enqueueGather
    cases x.scatter <;> rfl
  rw [htile, Core.tile_setTileState_eq]
  rfl

/-! ### Checks that pass -/

section
variable {c : Ctl} {dst src : TS} {b : SOp} {bar sh : Option (Fin 32)} {f : Option Follow} {u v : State} {shape : Option Line}

theorem State.barAlign_none (h : ∀ r, bar = some r → (u.rs r).toNat % 16 = 0) : u.barAlign bar = none := by
  cases bar with
  | none => rfl
  | some r =>
    have hb : bf (u.rs r) 3 0 = 0 := by simpa [bf, bitsOf] using h r rfl
    simp [State.barAlign, hb]

theorem State.barOff_eq (u : State) (bar : Option (Fin 32)) : u.barOff bar = bar.map fun r => (u.rs r).toNat % 2 ^ 21 := by
  simp [State.barOff, bf, bitsOf]

theorem tileIs_of {k : Core} {x : TS} {st : TileState} (h : ∀ r, x = .t r → (k.tile r).state = st) : tileIs k (tsTile x) st = true := by
  cases x with
  | t r => simp [tileIs, tsTile, h r rfl]
  | s r => rfl

/-- A copy that passes its checks is queued. -/
theorem State.copyIssue_done (h : CopyReady u dst src (u.sop b) bar sh)
    (hp : sh.isSome = true → u.pathHeld ((sh.map u.rs).getD 0) 64 = false) (hr : u.readShape c sh = .ok v shape)
    (hc : u.copyChecks { u.copyOf c dst src (u.sop b) bar shape f with ticket := 0 } ((sh.map u.rs).getD 0) = none) :
    u.copyIssue c dst src b bar sh f =
      .done (v.modCC fun k => k.enqueueCopy { u.copyOf c dst src (u.sop b) bar shape f with ticket := 0 }) false := by
  have hd : tileIs u.cc (tsTile dst) .empty = true := tileIs_of fun r hr => (h.dstTile r hr).1
  have hs : tileIs u.cc (tsTile src) .ready = true := tileIs_of h.srcTile
  have hpath : (sh.isSome && u.pathHeld ((sh.map u.rs).getD 0) 64) = false := by
    cases hsh : sh.isSome with
    | false => rfl
    | true => exact hp hsh
  have hsh : (sh.bind fun r => if bf (u.rs r) 5 0 ≠ 0 then some (trapAlign (u.rs r) false) else none) = none := by
    cases sh with
    | none => rfl
    | some r => simp [bf_low_six (h.shAligned r rfl)]
  have hn : ¬(u.sop b = 0 ∨ 4096 < (u.sop b).toNat) := by
    obtain ⟨hlo, hhi⟩ := h.size
    rintro (e | e)
    · simp [e] at hlo
    · omega
  have hx : ({ u.copyOf c dst src (u.sop b) bar shape f with ticket := 0 } : CopyCmd) =
      ⟨0, u.tsPtr src, u.tsPtr dst, tsTile src, tsTile dst, (u.sop b).toNat, u.cc.nest, u.barOff bar, shape, u.cc.bfmt, f, false, 0, none,
        none, false, u.sq.mode == 0, c.hint.toNat⟩ := by
    rw [State.barOff_eq]
    rfl
  have hfirst : firstCause [none, none] = none := rfl
  have hfirst3 : firstCause [none, none, none] = none := rfl
  rw [hx] at hc ⊢
  unfold State.copyIssue
  extract_lets k same n
  have hsame : same = false := by
    simp only [same]
    cases dst with
    | s r => rfl
    | t r =>
      cases src with
      | s q => rfl
      | t q => simpa [tsTile] using fun e : r = q => (h.dstTile r rfl).2.2 (by rw [e])
  simp only [hsame, k, n, hd, hs, h.room, hpath, State.barAlign_none h.barAligned, hsh, hfirst, hfirst3, hr, h.dstPtr, h.srcPtr, h.barPtr,
    hn, hc, Acc.eff, Bool.not_false, Bool.and_true, Bool.not_true, Bool.and_false, Bool.false_eq_true, if_false]
  cases dst with
  | s r => rfl
  | t r =>
    simp only [tsTile, (h.dstTile r rfl).2.1, Bool.or_false, Bool.false_eq_true, if_false]

/-! ### The shape record -/

/-- What the record's reading leaves: no register changes, and of the core only translations, counters and the list of correctable
errors. -/
structure ShapeRead (u v : State) : Prop where
  aside : Aside u [] v
  rest : v.cc.rest = { u.cc.rest with vault := { u.cc.vault with soft := v.cc.vault.soft }, tlb := v.cc.tlb }

theorem ShapeRead.of_global {p : Word} {got : Got} (h : u.readGlobal (u.mcur c) p 64 = .ok v got) : ShapeRead u v := by
  have hacc := u.readGlobal_accesses (u.mcur c) p 64
  have hst := u.readGlobal_still (u.mcur c) p 64
  rw [h] at hacc hst
  have hside := Aside.of_accesses hacc
  have hrest := rest_of_access rfl hside.cur hst rfl
  have hv : v.cc.vault = u.cc.vault := (congrArg Core.vault hrest :)
  exact ⟨hside, by rw [hv]; exact hrest⟩

theorem ShapeRead.of_vault (o : Nat) : ShapeRead u (u.modVault u.cur.val fun v => v.correct o 64) := by
  have hrest := rest_of_correct (o := o) (n := 64) (u := u) rfl rfl
  have ht : (u.modVault u.cur.val fun v => v.correct o 64).cc.tlb = u.cc.tlb := (congrArg Core.tlb hrest :)
  exact ⟨.of_modVault _ _, by rw [ht]; exact hrest⟩

theorem State.readShape_leaves (h : u.readShape c sh = .ok v shape) : ShapeRead u v := by
  unfold State.readShape at h
  split at h
  · cases h
    exact ⟨.refl _, rfl⟩
  · dsimp only at h
    split at h
    · split at h
      · cases h
      · split at h
        · cases h
        · cases h
        · next hg =>
          split at h
          · cases h
          · cases h
            exact .of_global hg
    · split at h
      · cases h
      · split at h
        · cases h
        · cases h
          exact .of_vault _

end

/-! ### What queueing leaves -/

theorem RetiredAside.quiet {s u t r : State} (h : RetiredAside s u [] t r) : r.sq.results = s.sq.results ∧ Silent u r :=
  ⟨h.results.trans (List.append_nil _), h.silent⟩

section
variable {i : Instr} {c : Ctl} {dst src : TS} {b : SOp} {bar sh : Option (Fin 32)} {f : Option Follow} {s v : State} {shape : Option Line}

/-- A core that differs in what a copy changes is told by it. -/
theorem rest_of_queued {r : State} {soft : SMap Bool} {tlb : List TlbEnt} {q : List CopyCmd} {t : Nat} {tiles : Vector Tile 32}
    {filled : SMap (List CopyCmd)} (h : r.cc.rest = { s.cc.rest with
      vault := { s.cc.vault with soft := soft }, tlb := tlb, copyQ := q, ticket := t, tiles := tiles, filledC := filled }) :
    r.cc.rest = { s.cc.rest with
      vault := { s.cc.vault with soft := r.cc.vault.soft }, tlb := r.cc.tlb, copyQ := q, ticket := t
      tiles := r.cc.tiles, filledC := r.cc.filledC, filledG := r.cc.filledG } := by
  have h1 : r.cc.vault.soft = soft := (congrArg (fun k : Core => k.vault.soft) h :)
  have h2 : r.cc.tlb = tlb := (congrArg Core.tlb h :)
  have h3 : r.cc.tiles = tiles := (congrArg Core.tiles h :)
  have h4 : r.cc.filledC = filled := (congrArg Core.filledC h :)
  have h5 : r.cc.filledG = s.cc.filledG := (congrArg Core.filledG h :)
  rw [h, h1, h2, h3, h4, h5]
  rfl

theorem tsTile_eq {x : TS} {r : Fin 32} : tsTile x = some r ↔ x = .t r := by
  cases x <;> simp [tsTile]

/-- SFU results that land reach no m register. -/
theorem Core.m_landDue (n : Nat) (k : Core) : (k.landDue n).m = k.m := by
  have key (l : List SfuPend) (k : Core) : (l.foldl (Core.landSfu n) k).m = k.m := by
    induction l generalizing k with
    | nil => rfl
    | cons r l ih => rw [List.foldl_cons, ih]; rfl
  exact key _ _

theorem State.startIssue_m (s : State) (c : Ctl) : (s.startIssue c).cc.m = s.cc.m := by
  unfold State.startIssue
  cases s.curSeq
  · simp only [State.modSq, State.cc_modCC, Core.modSeq_m]
  · simp only [State.modSq, State.cc_modCC, Core.modSeq_m, Core.m_landDue]
    rfl

/-- A copy that passes its checks retires once it is queued, its tiles turned. -/
theorem copy_queued {body : State → Eff} (he : exec i s = issue i body s)
    (hbody : body (s.startIssue c) = (s.startIssue c).copyIssue c dst src b bar sh f) (h : Issues i c s)
    (hready : CopyReady (s.startIssue c) dst src (s.sop b) bar sh)
    (hp : sh.isSome = true → (s.startIssue c).pathHeld ((sh.map s.rs).getD 0) 64 = false)
    (hr : (s.startIssue c).readShape c sh = .ok v shape)
    (hc : (s.startIssue c).copyChecks { (s.startIssue c).copyOf c dst src (s.sop b) bar shape f with ticket := 0 } ((sh.map s.rs).getD 0) = none) :
    ActsWide (s.startIssue c) i s (s.sq.pc + 16) fun t => t.mem = v.mem ∧ t.sq.results = s.sq.results ∧ Silent (s.startIssue c) t ∧
      t.cc.rest = { s.cc.rest with
        vault := { s.cc.vault with soft := t.cc.vault.soft }, tlb := t.cc.tlb
        copyQ := s.cc.copyQ ++ [(s.startIssue c).copyOf c dst src (s.sop b) bar shape f], ticket := s.cc.ticket + 1
        tiles := t.cc.tiles, filledC := t.cc.filledC, filledG := t.cc.filledG } ∧
      ∀ r, t.cc.tile r = { s.cc.tile r with
        state := if dst = .t r then .filling else if src = .t r then .draining else (s.cc.tile r).state } := by
  have hrs : (s.startIssue c).rs = s.rs := funext (s.startIssue_rs c)
  have hsop := s.startIssue_sop c b
  have hb := State.copyIssue_done (c := c) (f := f) (by rw [hsop]; exact hready) (by rw [hrs]; exact hp) hr (by rw [hsop, hrs]; exact hc)
  rw [hsop, ← hbody] at hb
  obtain ⟨hside, hrest⟩ := State.readShape_leaves hr
  generalize hx : ({ (s.startIssue c).copyOf c dst src (s.sop b) bar shape f with ticket := 0 } : CopyCmd) = x at hb
  have htiles : ∀ r, x.dstTile = some r → x.srcTile ≠ some r := by
    subst hx
    exact fun r hd hs => (hready.dstTile r (tsTile_eq.1 hd)).2.2 (tsTile_eq.1 hs)
  refine actsWide_of_aside h he hb (hside.trans (.of_modCC (fun i => by rw [Core.enqueueCopy_eq]; cases i <;> rfl)
    (by rw [Core.enqueueCopy_eq]) (by rw [Core.enqueueCopy_eq]))) fun r hr => ⟨hr.outside.mem, hr.quiet.1, hr.quiet.2, ?_, fun q => ?_⟩
  · have hcore := hr.core
    rw [State.cc_modCC, Core.enqueueCopy_eq] at hcore
    have hv : r.cc.rest = { v.cc.rest with
        copyQ := v.cc.copyQ ++ [{ x with ticket := v.cc.ticket }], ticket := v.cc.ticket + 1
        tiles := (v.cc.enqueueCopy x).tiles, filledC := (v.cc.enqueueCopy x).filledC } := hcore
    have hq : v.cc.copyQ = s.cc.copyQ := (congrArg Core.copyQ hrest :).trans (State.startIssue_part Core.copyQ (fun _ => rfl) s c)
    have ht : v.cc.ticket = s.cc.ticket := (congrArg Core.ticket hrest :).trans (s.startIssue_ticket c)
    have hvault : (s.startIssue c).cc.vault = s.cc.vault := State.startIssue_part Core.vault (fun _ => rfl) s c
    have hx' : ({ x with ticket := s.cc.ticket } : CopyCmd) = (s.startIssue c).copyOf c dst src (s.sop b) bar shape f := by
      rw [← hx, ← s.startIssue_ticket c]
      rfl
    rw [hrest, hq, ht, hx', hvault, State.rest_startIssue] at hv
    exact rest_of_queued hv
  · have htile := congrArg (fun k : Core => k.tile q) hr.core
    have hv : v.cc.tile q = s.cc.tile q :=
      (congrArg (fun k : Core => k.tile q) hrest :).trans (State.startIssue_part (fun k => k.tile q) (fun _ => rfl) s c)
    have hd : x.dstTile = tsTile dst := by rw [← hx]; rfl
    have hs : x.srcTile = tsTile src := by rw [← hx]; rfl
    rw [State.cc_modCC] at htile
    refine (htile :).trans ((Core.enqueueCopy_tile _ htiles q).trans ?_)
    rw [hv, hd, hs]
    simp only [tsTile_eq]

end

/-! ### Gathers and scatters -/

/-- The command that `GATHER` or `SCATTER` queues, but for its number. -/
def State.gathCmd (u : State) (c : Ctl) (sc : Bool) (a t0 ix p : Fin 32) (bar : Option (Fin 32)) (b : Word32) : GathCmd :=
  ⟨0, sc, u.rs a, t0, (u.cc.tile t0).off, (u.cc.tile t0).size, ix, (u.cc.tile ix).off, (u.cc.tile ix).size / 4, u.rs p, b.toNat, u.cc.nest,
    bar.map fun r => (u.rs r).toNat % 2 ^ 21, u.cc.bfmt, 0, none, none, u.sq.mode == 0, c.hint.toNat⟩

/-- A gather or scatter may be queued (R169, R170, R328). -/
structure GatherReady (u : State) (x : GathCmd) (sc : Bool) (a t0 ix : Fin 32) (bar : Option (Fin 32)) (b : Word32) : Prop where
  differ : t0 ≠ ix
  data : (u.cc.tile t0).state = if sc then .ready else .empty
  index : (u.cc.tile ix).state = .ready
  room : u.cc.gathQ.length < 9
  barAligned : ∀ r, bar = some r → (u.rs r).toNat % 16 = 0
  base : u.copyPtr sc (.s a) = none
  barPtr : u.barPtr bar = none
  size : 1 ≤ b.toNat ∧ b.toNat ≤ 4096
  words : (u.cc.tile ix).size % 4 = 0
  fits : x.rows * (if sc then x.b else x.bd) ≤ (u.cc.tile t0).size
  whole : x.whole = true
  pair : sc = false → u.pairBarrier t0 bar = false

/-- A core that differs in what a gather or scatter changes is told by it. -/
theorem rest_of_gathered {s r : State} {q : List GathCmd} {t : Nat} {tiles : Vector Tile 32} {filled : SMap (List GathCmd)}
    (h : r.cc.rest = { s.cc.rest with gathQ := q, ticket := t, tiles := tiles, filledG := filled }) :
    r.cc.rest = { s.cc.rest with
      gathQ := q, ticket := t, tiles := r.cc.tiles, filledC := r.cc.filledC, filledG := r.cc.filledG } := by
  have h1 : r.cc.tiles = tiles := (congrArg Core.tiles h :)
  have h2 : r.cc.filledG = filled := (congrArg Core.filledG h :)
  have h3 : r.cc.filledC = s.cc.filledC := (congrArg Core.filledC h :)
  rw [h, h1, h2, h3]
  rfl

section
variable {i : Instr} {c : Ctl} {sc : Bool} {a t0 ix p : Fin 32} {bar : Option (Fin 32)} {b : Word32} {s u : State}

theorem State.gatherIssue_done (h : GatherReady u (u.gathCmd c sc a t0 ix p bar b) sc a t0 ix bar b) :
    u.gatherIssue c sc a t0 ix p bar b = .done (u.modCC fun k => k.enqueueGather (u.gathCmd c sc a t0 ix p bar b)) false := by
  have hx : u.gathCmd c sc a t0 ix p bar b = ⟨0, sc, u.rs a, t0, (u.cc.tile t0).off, (u.cc.tile t0).size, ix, (u.cc.tile ix).off,
      (u.cc.tile ix).size / 4, u.rs p, b.toNat, u.cc.nest, u.barOff bar, u.cc.bfmt, 0, none, none, u.sq.mode == 0, c.hint.toNat⟩ := by
    rw [State.barOff_eq]
    rfl
  have hfirst1 : firstCause [none] = none := rfl
  have hfirst2 : firstCause [none, none] = none := rfl
  have hb : ¬(b.toNat = 0 ∨ 4096 < b.toNat) := by have := h.size; omega
  have hfits := Nat.not_lt.2 h.fits
  have hwhole := h.whole
  have hpair : (!sc && u.pairBarrier t0 bar) = false := by
    cases hsc : sc with
    | true => rfl
    | false => exact h.pair hsc
  rw [hx] at hfits hwhole ⊢
  unfold State.gatherIssue
  simp only [h.data, h.index, h.room, State.barAlign_none h.barAligned, hfirst1, hfirst2, h.base, h.barPtr, hb, h.words, hfits, hwhole, hpair,
    h.differ, beq_self_eq_true, decide_true, decide_false, Bool.and_self, Bool.not_true, Bool.and_false, Bool.false_eq_true, if_false,
    Bool.or_self, ne_eq, not_true]

theorem State.startIssue_tile (s : State) (c : Ctl) (r : Fin 32) : (s.startIssue c).cc.tile r = s.cc.tile r :=
  State.startIssue_part (fun k => k.tile r) (fun _ => rfl) s c

/-- The STALL slots change nothing that a gather or scatter takes with it. -/
theorem State.startIssue_gathCmd : (s.startIssue c).gathCmd c sc a t0 ix p bar b = s.gathCmd c sc a t0 ix p bar b := by
  have hmode : (s.startIssue c).sq.mode = s.sq.mode := (congrArg Seq.mode (s.startIssue_sqRest c) :)
  have hnest : (s.startIssue c).cc.nest = s.cc.nest := State.startIssue_part Core.nest (fun _ => rfl) s c
  have hfmt : (s.startIssue c).cc.bfmt = s.cc.bfmt := State.startIssue_part Core.bfmt (fun _ => rfl) s c
  simp only [State.gathCmd, State.startIssue_rs, State.startIssue_tile, hmode, hnest, hfmt]

/-- What the checks ask of the state before the STALL slots. -/
theorem gatherReady (hne : t0 ≠ ix) (hd : (s.cc.tile t0).state = if sc then .ready else .empty) (hi : (s.cc.tile ix).state = .ready)
    (hroom : s.cc.gathQ.length < 9) (hal : ∀ r, bar = some r → (s.rs r).toNat % 16 = 0)
    (hbase : (s.startIssue c).copyPtr sc (.s a) = none) (hbar : (s.startIssue c).barPtr bar = none) (hb : 1 ≤ b.toNat ∧ b.toNat ≤ 4096)
    (hw : (s.cc.tile ix).size % 4 = 0)
    (hfit : (s.gathCmd c sc a t0 ix p bar b).rows * (if sc then (s.gathCmd c sc a t0 ix p bar b).b else (s.gathCmd c sc a t0 ix p bar b).bd) ≤
      (s.cc.tile t0).size) (hwhole : (s.gathCmd c sc a t0 ix p bar b).whole = true)
    (hpair : sc = false → (s.startIssue c).pairBarrier t0 bar = false) :
    GatherReady (s.startIssue c) (s.gathCmd c sc a t0 ix p bar b) sc a t0 ix bar b := by
  have hq : (s.startIssue c).cc.gathQ = s.cc.gathQ := State.startIssue_part Core.gathQ (fun _ => rfl) s c
  exact ⟨hne, by rw [State.startIssue_tile, hd], by rw [State.startIssue_tile, hi], by rw [hq]; exact hroom,
    fun r hr => by rw [State.startIssue_rs]; exact hal r hr, hbase, hbar, hb, by rw [State.startIssue_tile, hw],
    by rw [State.startIssue_tile]; exact hfit, hwhole, hpair⟩

/-- A gather or scatter that passes its checks retires once it is queued, its data tile turned. -/
theorem gather_queued {body : State → Eff} (he : exec i s = issue i body s)
    (hbody : body (s.startIssue c) = (s.startIssue c).gatherIssue c sc a t0 ix p bar b) (h : Issues i c s)
    (hr : GatherReady (s.startIssue c) (s.gathCmd c sc a t0 ix p bar b) sc a t0 ix bar b) :
    Acts i c s (s.sq.pc + 16) fun t => t.sq.results = s.sq.results ∧ Silent (s.startIssue c) t ∧
      t.cc.rest = { s.cc.rest with
        gathQ := s.cc.gathQ ++ [{ s.gathCmd c sc a t0 ix p bar b with ticket := s.cc.ticket }], ticket := s.cc.ticket + 1
        tiles := t.cc.tiles, filledC := t.cc.filledC, filledG := t.cc.filledG } ∧
      ∀ r, t.cc.tile r = if r = t0 then { s.cc.tile t0 with state := if sc then .draining else .filling } else s.cc.tile r := by
  have hb := State.gatherIssue_done (c := c) (p := p) (by rw [State.startIssue_gathCmd]; exact hr)
  rw [State.startIssue_gathCmd, ← hbody] at hb
  refine acts_of_aside h he hb (outside_modCC _ _) (.of_modCC (fun i => by rw [Core.enqueueGather_eq]; cases i <;> rfl)
    (by rw [Core.enqueueGather_eq]) (by rw [Core.enqueueGather_eq])) fun r hret => ⟨hret.quiet.1, hret.quiet.2, ?_, fun q => ?_⟩
  · have hcore := hret.core
    rw [State.cc_modCC, Core.enqueueGather_eq] at hcore
    have hu : r.cc.rest = { (s.startIssue c).cc.rest with
        gathQ := (s.startIssue c).cc.gathQ ++ [{ s.gathCmd c sc a t0 ix p bar b with ticket := (s.startIssue c).cc.ticket }]
        ticket := (s.startIssue c).cc.ticket + 1
        tiles := ((s.startIssue c).cc.enqueueGather (s.gathCmd c sc a t0 ix p bar b)).tiles
        filledG := ((s.startIssue c).cc.enqueueGather (s.gathCmd c sc a t0 ix p bar b)).filledG } := hcore
    rw [State.startIssue_ticket, State.startIssue_part Core.gathQ (fun _ => rfl), State.rest_startIssue] at hu
    exact rest_of_gathered hu
  · have htile := congrArg (fun k : Core => k.tile q) hret.core
    rw [State.cc_modCC] at htile
    refine (htile :).trans ((Core.enqueueGather_tile _ _ q).trans ?_)
    rw [State.startIssue_tile]
    have hsc : (s.gathCmd c sc a t0 ix p bar b).scatter = sc := rfl
    have ht : (s.gathCmd c sc a t0 ix p bar b).tile = t0 := rfl
    rw [hsc, ht]
    by_cases hq : q = t0
    · rw [if_pos hq, if_pos hq.symm, hq]
    · rw [if_neg hq, if_neg (Ne.symm hq)]

end

/-- Settles O24: a copy through `copy_queued`, a gather or scatter through `gather_queued`. -/
theorem copyQueued : Obligations.copyQueued := by
  refine ⟨fun c dst src b bar sh str last d m s => ⟨fun h hready hp v shape hr hc =>
      copy_queued (body := fun u => u.copyIssue c dst src b bar sh none) rfl rfl h hready hp hr hc,
    fun h hready hp v shape hr hc =>
      copy_queued (body := fun u => u.copyIssue c (.t d) src b bar none (some ⟨vget 0 u.cc.m m.val, str, last⟩)) rfl ?_ h hready hp hr hc⟩,
    fun c a t0 p ix bar b s => ⟨fun h hne hd hi hroom hal hbase hbar hlo hhi hw hfit hwh hpair => ?_,
      fun h hne hd hi hroom hal hbase hbar hlo hhi hw hfit hwh hpair => ?_⟩⟩
  · rw [State.startIssue_m]
  · exact gather_queued (body := fun u => u.gatherIssue c false a t0 ix p bar b) rfl rfl h
      (gatherReady hne hd hi hroom hal hbase hbar ⟨hlo, hhi⟩ hw hfit hwh hpair)
  · exact gather_queued (body := fun u => u.gatherIssue c true a t0 ix p bar b) rfl rfl h
      (gatherReady hne hd hi hroom hal hbase hbar ⟨hlo, hhi⟩ hw hfit hwh hpair)

end Sys2Proof.Machine
end

section
/-! Remote operations at the router and at their target, and their acknowledgements (R155, R204 to R210). -/

namespace Sys2Proof.Machine

/-! ### An operation at the router -/

/-- What no note of a leaving packet changes, those of all its contributions leave. -/
theorem State.noteLeave_outside (s : State) (src n : BitVec 12) (seq : BitVec 32) (l : Nat) :
    s.noteLeave src n seq l = { s with inflight := (s.noteLeave src n seq l).inflight, transit := (s.noteLeave src n seq l).transit } := by
  unfold State.noteLeave
  split <;> rfl

section
variable {s : State} {p : RemoteOp} {lk : Nat}

theorem State.opArrive_behind (hd : p.dst = s.nodeId) (hb : s.opBehind p = true) : s.opArrive p = s := by
  simp [State.opArrive, hd, hb]

/-- An operation here is new, or discarded. -/
theorem State.opArrive_here (hd : p.dst = s.nodeId) (hb : s.opBehind p = false) :
    s.opArrive p = if (opParts p).all fun m => s.freshSeq m.1 m.2.1 then
      ((opParts p).foldl (fun (t : State) e => t.markSeq e.1 e.2.1) { s with net := dropFirst (fun e => e == p) s.net }).performOp p false
    else { s with net := dropFirst (fun e => e == p) s.net } := by
  rw [State.opArrive, if_pos hd, hb]
  rfl

/-- A packet of which a contribution has been seen is discarded whole. -/
theorem State.opArrive_seen (hd : p.dst = s.nodeId) (hb : s.opBehind p = false) (hf : ∃ e ∈ opParts p, s.freshSeq e.1 e.2.1 = false) :
    s.opArrive p = { s with net := dropFirst (fun e => e == p) s.net } := by
  obtain ⟨e, he, hseen⟩ := hf
  have hall : ((opParts p).all fun m => s.freshSeq m.1 m.2.1) = false := List.all_eq_false.2 ⟨e, he, by simp [hseen]⟩
  rw [State.opArrive_here hd hb, hall]
  rfl

/-- An operation none of whose contributions has been seen marks them and performs. -/
theorem State.opArrive_performs (hd : p.dst = s.nodeId) (hb : s.opBehind p = false) (hf : ∀ e ∈ opParts p, s.freshSeq e.1 e.2.1 = true) :
    s.opArrive p = ((opParts p).foldl (fun (t : State) e => t.markSeq e.1 e.2.1)
      { s with net := dropFirst (fun e => e == p) s.net }).performOp p false := by
  rw [State.opArrive_here hd hb, if_pos (List.all_eq_true.2 hf)]

theorem State.performOp_done {v : State} {data : Line} {tc : BitVec 8} {sec missed : Bool} (h : s.serve p = .done v data tc sec) :
    s.performOp p missed = v.ackOp p true tc false missed data sec := by
  simp [State.performOp, h]

theorem State.performOp_refused {v : State} {tc : BitVec 8} {missed : Bool} (h : s.serve p = .refused v tc) :
    s.performOp p missed = v.ackOp p false tc false missed 0 false := by
  simp [State.performOp, h]

/-- An operation for another package leaves by its route. -/
theorem State.opArrive_leaves (hd : p.dst ≠ s.nodeId) (hn : s.net.contains p = true) (hb : s.opBehind p = false)
    (hr : s.route p.src p.dst (s.leftBy p.src p.dst p.seq) = some lk) (hl : ∀ e ∈ opParts p, s.mayLeave e.1 p.dst e.2.1 lk = true) :
    (s.opArrive p).outOps = s.outOps ++ [(s.hop p.src lk, p)] ∧ (s.opArrive p).net = dropFirst (fun e => e == p) s.net ∧
      (s.opArrive p).mem = s.mem ∧ (s.opArrive p).cores = s.cores := by
  have hall : ((opParts p).all fun m => s.mayLeave m.1 p.dst m.2.1 lk) = true := List.all_eq_true.2 hl
  have heq : s.opArrive p = (opParts p).foldl (fun s m => s.noteLeave m.1 p.dst m.2.1 lk)
      (State.countPacket { s with net := dropFirst (fun x => x == p) s.net, outOps := s.outOps ++ [(s.hop p.src lk, p)] } lk 1) := by
    simp only [State.opArrive, if_neg hd, hn, hr, hb, hall, if_true, Bool.not_true, Bool.or_self, Bool.false_eq_true, if_false]
  have key {β : Type} (P : State → β) (hP : ∀ t x y, P { t with inflight := x, transit := y } = P t) : P (s.opArrive p) =
      P (State.countPacket { s with net := dropFirst (fun x => x == p) s.net, outOps := s.outOps ++ [(s.hop p.src lk, p)] } lk 1) := by
    rw [heq]
    exact State.foldl_keeps P (fun t a => by rw [t.noteLeave_outside]; exact hP ..) _ _
  exact ⟨key State.outOps fun _ _ _ => rfl, key State.net fun _ _ _ => rfl, key State.mem fun _ _ _ => rfl, key State.cores fun _ _ _ => rfl⟩

theorem State.opArrive_stays (hd : p.dst ≠ s.nodeId) (hn : s.net.contains p = true)
    (hr : s.route p.src p.dst (s.leftBy p.src p.dst p.seq) = none) : s.opArrive p = s := by
  simp only [State.opArrive, if_neg hd, hn, hr, if_true]

end

/-! ### An operation at its target -/

section
variable {s v : State} {p : RemoteOp} {ps : List Piece}

/-- No paired launch stands behind a remote operation. -/
theorem remCtx_flagD (s : State) (p : RemoteOp) : (s.remCtx p).launch.flagD = false := by
  have hbit (n : Nat) (h : n < 257) : (2 * 2 ^ 256).testBit n = false := by
    rw [← pow_succ', Nat.testBit_two_pow_of_ne (by omega)]
  simp only [State.remCtx, remoteLaunch, Launch.flagD, bt, lineWord, BitVec.getLsbD_extractLsb', BitVec.getLsbD_ofNat]
  rw [hbit _ (by decide)]
  simp

/-- A remote load brings the bytes of its pieces. -/
theorem State.serve_rld (hk : p.kind = .rld) (ho : p.ord = .none)
    (ht : s.translate (s.remCtx p).x false false p.addr (p.ty.width / 8) = .ok v ps) (hc : v.CleanMsc)
    (hps : ∀ e ∈ ps, e.page.ca ≠ 3 ∧ v.poisonAt e.pa e.len = none) :
    ∃ u sec, s.serve p = .done u (lineOf (ps.flatMap fun e => v.readPhys (ownerTag p.fn.val) e.page.sh e.pa e.len)) 0 sec ∧
      u.mem = v.mem := by
  obtain ⟨hmem, hbad, hbytes⟩ := State.readPieces_clean (s := v) (m := s.remCtx p) (remCtx_flagD s p) (bf p.addr 56 0) p.addr hps hc
  refine ⟨_, (v.readPieces (s.remCtx p) (bf p.addr 56 0) p.addr ps).2.sec, ?_, hmem⟩
  simp only [State.serve, hk, State.serveRld, State.serveOn, ht, ho, Bool.false_eq_true, if_false]
  rw [hbad, hbytes]
  rfl

/-- A remote store writes its pieces. -/
theorem State.serve_rst (hk : p.kind = .rst) (ha : p.add = false) (ho : p.ord = .none)
    (ht : s.checkStore (s.remCtx p) p.addr (p.ty.width / 8) p.sec = .ok v ps) (hc : v.CleanMsc)
    (hps : ∀ e ∈ ps, e.page.ca ≠ 3 ∧ v.poisonAt e.pa e.len = none) :
    ∃ u, s.serve p = .done u 0 0 false ∧ u.mem = v.mem.storePieces ps (leBytes (p.ty.width / 8) p.data.toNat) := by
  obtain ⟨t, hw, hmem⟩ := State.writePieces_clean (s := v) (m := v.remCtx p) (remCtx_flagD v p) (bf p.addr 56 0) p.sec ps
    (leBytes (p.ty.width / 8) p.data.toNat) (fun e he => ⟨(hps e he).1, fun b hb => State.memPois_of_sound (hps e he).2 hb⟩) hc
  refine ⟨t, ?_, hmem⟩
  simp only [State.serve, hk, State.serveRst, State.serveOn, ht, ho, ha, Bool.false_eq_true, if_true, if_false, State.putRemote, hw,
    Option.getD_some, State.recordRemote]

end

end Sys2Proof.Machine
end

section
/-! Acknowledgements, timeouts and memory-side results at the issuer (R205 to R209). -/

namespace Sys2Proof.Machine

/-! ### What settling an operation changes -/

/-- An operation without a barrier counts no sectors. -/
theorem State.settleBar_none {x : Inflight} (h : x.bar = none) (s : State) (failed : Option (BitVec 8)) (n : Nat) :
    s.settleBar x failed n = s := by
  simp [State.settleBar, h]

section
variable {s : State} {x : Inflight}

/-- FERR of a core that holds the launch, while V = 0. -/
theorem State.recordFerr_held (h : s.holds x = true) (w : Word) :
    s.recordFerr x w = s.modCore x.core fun k => if bt k.ferr 63 then k else { k with ferr := w } := by
  rw [State.recordFerr, if_pos h]

/-- Where the core has no image, a failure changes nothing but FERR. -/
theorem State.recordFerr_core (h : s.imageOf (s.opLaunch x) x.core = none) (w : Word) :
    (s.recordFerr x w).mem = s.mem ∧ (s.recordFerr x w).vault = s.vault := by
  unfold State.recordFerr
  split
  · exact ⟨rfl, funext fun d => State.core_modCore_keeps Core.vault s x.core (by split <;> rfl) d⟩
  · rw [h]
    exact ⟨rfl, rfl⟩

end

/-! ### An acknowledgement -/

theorem Seq.landResult_rs (q : Seq) (r : Result) : (q.landResult r).rs r.dst = if r.dst = 0 then 0 else r.val := by
  unfold Seq.landResult
  split
  · next h => simp [h, Seq.rs]
  · next h => exact (Seq.rs_ws q r.dst r.dst r.val).trans (by simp [h])

section
variable {s : State} {x : Inflight}

/-- A value that its sequencer waits for is written, and the sequencer goes on. -/
theorem State.giveValue_awaited (hc : x.core < 384) (hh : s.holds x = true) (ha : x.awaited ((s.core x.core).seq x.from_) = true)
    (v : Word) (sec : Bool) :
    let q := ((s.giveValue x v sec).core x.core).seq x.from_
    q.pc = ((s.core x.core).seq x.from_).pc + 16 ∧ q.wait = none ∧ q.rs x.dst = if x.dst = 0 then 0 else v := by
  have heq : ((s.giveValue x v sec).core x.core).seq x.from_ =
      (((s.core x.core).seq x.from_).landResult ⟨x.dst, v, .load, none, sec || x.resSec⟩).retired := by
    rw [State.giveValue, if_pos hh, if_pos ha, State.retireHeld_eq, State.core_modCore _ _ _ _ hc, if_pos rfl,
      State.core_modCore _ _ _ _ hc, if_pos rfl, Core.seq_retireHeld, Core.seq_modSeq]
  dsimp only
  rw [heq]
  refine ⟨?_, rfl, Seq.landResult_rs ((s.core x.core).seq x.from_) ⟨x.dst, v, .load, none, sec || x.resSec⟩⟩
  exact congrArg (· + 16) (Seq.landResult_keeps _ _).1

variable {k : RemoteAck} {lk : Nat}

theorem State.ackArrive_queued (hs : k.src ≠ s.nodeId) (hn : s.acks.contains k = false) : s.ackArrive k = { s with acks := s.acks ++ [k] } := by
  simp only [State.ackArrive, if_neg hs, hn, Bool.false_eq_true, if_false]

theorem State.ackArrive_lost (hs : k.src ≠ s.nodeId) (hn : s.acks.contains k = true) (hr : s.route k.target k.src none = none) :
    s.ackArrive k = s := by
  simp only [State.ackArrive, if_neg hs, hn, hr, if_true]

/-- An acknowledgement for another package leaves by its route, once the link has retrained. -/
theorem State.ackArrive_leaves (hs : k.src ≠ s.nodeId) (hn : s.acks.contains k = true) (hr : s.route k.target k.src none = some lk) :
    if (s.linkOf lk).paused then s.ackArrive k = s
    else (s.ackArrive k).outAcks = s.outAcks ++ [(s.hop k.target lk, k)] ∧ (s.ackArrive k).acks = dropFirst (fun e => e == k) s.acks ∧
      (s.ackArrive k).mem = s.mem ∧ (s.ackArrive k).cores = s.cores := by
  split
  · next hp => simp only [State.ackArrive, if_neg hs, hn, hr, hp, if_true]
  · next hp =>
    simp only [State.ackArrive, if_neg hs, hn, hr, if_true, if_neg hp]
    exact ⟨rfl, rfl, rfl, rfl⟩

/-- An acknowledgement that names nothing in flight is ignored. -/
theorem State.ackArrive_unknown (hs : k.src = s.nodeId) (hn : ∀ e ∈ s.inflight, ¬(e.node = k.target ∧ e.seq = k.seq)) :
    s.ackArrive k = { s with acks := dropFirst (fun e => e == k) s.acks } := by
  have hfind : s.inflight.find? (fun e => e.node == k.target && e.seq == k.seq && e.result.isNone) = none :=
    List.find?_eq_none.2 fun e he => by
      have := hn e he
      simp_all
  simp only [State.ackArrive, if_pos hs, hfind]

/-- An acknowledgement of an operation that is in flight reaches it. -/
theorem State.ackArrive_found (hs : k.src = s.nodeId)
    (hf : s.inflight.find? (fun e => e.node == k.target && e.seq == k.seq && e.result.isNone) = some x) (hk : x.kind ≠ 4) :
    s.ackArrive k = State.ackTo { s with acks := dropFirst (fun e => e == k) s.acks } x k := by
  simp only [State.ackArrive, if_pos hs, hf, if_neg hk]

variable (hok : k.ok = true) (hmiss : k.missed = false)
include hok hmiss

/-- A store that names no barrier is no longer in flight. -/
theorem State.ackTo_store (hk : x.kind = 1) (hb : x.bar = none) : s.ackTo x k = s.dropInflight x := by
  simp [State.ackTo, hok, hmiss, hk, State.settleBar_none hb]

theorem State.ackTo_value (hk : x.kind = 0 ∨ x.kind = 2) :
    s.ackTo x k = (s.dropInflight x).giveValue x (extend x.ty (k.data.toNat % 2 ^ x.ty.width)) k.sec := by
  simp [State.ackTo, hok, hmiss, hk]

theorem State.ackTo_msop (hk : x.kind = 3) : s.ackTo x k = s.takeResult x k := by
  simp [State.ackTo, hok, hmiss, hk]

end

/-- The result of a memory-side operation is kept with it until it is written. -/
theorem State.takeResult_keeps {s : State} {x : Inflight} (hx : x ∈ s.inflight) (k : RemoteAck) :
    (s.takeResult x k).mem = s.mem ∧ (s.takeResult x k).cores = s.cores ∧ ∃ e ∈ (s.takeResult x k).inflight, e.result = some k.data := by
  obtain ⟨y, -, -, hy⟩ := exists_modFirst (q := fun y : Inflight => y.node == x.node && y.seq == x.seq)
    (fun y => { y with result := some k.data, resSec := k.sec, retryAt := none, sent := none, via := none, tc := k.tcause })
    ⟨x, hx, by simp⟩
  exact ⟨rfl, rfl, _, hy, rfl⟩

/-! ### No acknowledgement in time -/

section
variable {s : State} {x : Inflight} {n t0 : Nat}

theorem State.opTimeout_idle (h : s.inflight[n]? = some x) (hx : x.sent = none ∨ x.result ≠ none) : s.opTimeout n = s := by
  rw [State.opTimeout, h]
  dsimp only
  split
  · rfl
  · next t ht =>
    have hr : x.result ≠ none := hx.resolve_left (by simp [ht])
    rw [if_pos (by simp [Option.isSome_iff_ne_none.2 hr])]

/-- An operation times out once its limit has passed. -/
theorem State.opTimeout_sent (h : s.inflight[n]? = some x) (hs : x.sent = some t0) (hr : x.result = none) :
    s.opTimeout n = if s.cycle < t0 + s.ackLimit x.node then s else s.failOp x true 0 cFABRIC := by
  simp [State.opTimeout, h, hs, hr]

/-- A store without a barrier that fails is no longer in flight, and FERR says so. -/
theorem State.failOp_store (hk : x.kind = 1) (hb : x.bar = none) (hc : x.core < 384) (hh : s.holds x = true) (out : Bool) (tc cause : BitVec 8) :
    ((s.failOp x out tc cause).core x.core).ferr = (if bt (s.core x.core).ferr 63 then (s.core x.core).ferr else ferrWord out 1 tc x.node x.seq) ∧
      (s.failOp x out tc cause).inflight = dropFirst (fun e => e.node == x.node && e.seq == x.seq) s.inflight := by
  have heq : s.failOp x out tc cause = (s.dropInflight x).modCore x.core fun k =>
      if bt k.ferr 63 then k else { k with ferr := ferrWord out 1 tc x.node x.seq } := by
    have hh' : (s.dropInflight x).holds x = true := hh
    simp only [State.failOp, hk, State.settleBar_none hb, State.recordFerr_held hh']
    exact if_neg (by decide)
  rw [heq, State.core_modCore _ _ _ _ hc, if_pos rfl]
  refine ⟨?_, rfl⟩
  change Core.ferr (if bt (s.core x.core).ferr 63 then _ else _) = _
  split <;> rfl

end

/-! ### The result of a memory-side operation -/

/-- What a lateral write leaves of its core, and of the device. -/
theorem State.land_leaves {s t : State} {owner : BitVec 8} {c off : Nat} {p : Parcel} (hc : c < 384) (h : s.land owner c off p = some t) :
    (t.mem = s.mem ∧ t.launches = s.launches) ∧ VaultWrites owner off p.bytes (s.vault c) (t.vault c) ∧
      (t.core c).ferr = (s.core c).ferr ∧ (t.core c).launch = (s.core c).launch := by
  rw [State.land_eq] at h
  split at h
  · have hcore : (t.core c) = (s.core c).landed owner off p ((s.vault c).newRows off p.bytes.length) := by
      rw [← Option.some.inj h, State.core_modCore _ _ _ _ hc, if_pos rfl]
    refine ⟨?_, ?_, ?_, ?_⟩
    · rw [← Option.some.inj h]
      exact ⟨rfl, rfl⟩
    · rw [State.vault, State.vault, hcore]
      exact Core.landed_writes _ _ _ _ _
    · rw [hcore]; rfl
    · rw [hcore]; rfl
  · cases h

theorem State.land_isSome_iff {s : State} {owner : BitVec 8} {c off : Nat} {p : Parcel} :
    (s.land owner c off p).isSome = true ↔ (s.vault c).landing.length + ((s.vault c).newRows off p.bytes.length).length ≤ 256 := by
  rw [State.land_eq]
  split
  · next h => exact iff_of_true rfl h
  · next h => exact iff_of_false Bool.false_ne_true h

theorem lineBytes_length (l : Line) : (lineBytes l).length = 64 := leBytes_len _ _

section
variable {s : State} {x : Inflight} {n : Nat} {block : Line}

theorem State.msopDone_none (h : s.inflight[n]? = none) : s.msopDone n = s := by
  rw [State.msopDone, h]

theorem State.msopDone_early (h : s.inflight[n]? = some x) (hr : x.result = none) : s.msopDone n = s := by
  rw [State.msopDone, h]
  dsimp only
  rw [hr]

variable (h : s.inflight[n]? = some x) (hr : x.result = some block) (hi : s.imageOf (s.opLaunch x) x.core = none) (hs : x.resSec = false)
  (hb : x.bar = none)
include h hr hi hs hb

/-- The result block enters the landing buffer where it finds room; a status sets FERR. -/
theorem State.msopDone_lands : s.msopDone n =
    match (s.dropInflight x).land (s.opLaunch x).owner x.core x.block ⟨lineBytes block, false, []⟩ with
    | none => s
    | some t => if bf block 511 504 = 0 then t else t.recordFerr x (ferrWord false 3 x.tc x.node x.seq) := by
  have hi' : (s.dropInflight x).imageOf (s.opLaunch x) x.core = none := hi
  rw [State.msopDone, h]
  dsimp only
  rw [hr]
  dsimp only
  rw [hi', hs]
  simp only [Bool.false_and, Bool.false_eq_true, if_false, State.settleBar_none hb] <;> rfl

theorem State.msopDone_full (hroom : ¬(s.vault x.core).landing.length + ((s.vault x.core).newRows x.block 64).length ≤ 256) :
    s.msopDone n = s := by
  have hl : (s.dropInflight x).land (s.opLaunch x).owner x.core x.block ⟨lineBytes block, false, []⟩ = none := by
    rw [← Option.not_isSome_iff_eq_none, State.land_isSome_iff, lineBytes_length]
    exact hroom
  rw [State.msopDone_lands h hr hi hs hb, hl]

theorem State.msopDone_room (hc : x.core < 384)
    (hroom : (s.vault x.core).landing.length + ((s.vault x.core).newRows x.block 64).length ≤ 256) :
    (s.msopDone n).mem = s.mem ∧
      VaultWrites (s.opLaunch x).owner x.block (lineBytes block) (s.vault x.core) ((s.msopDone n).vault x.core) ∧
      (bf block 511 504 = 0 → ((s.msopDone n).core x.core).ferr = (s.core x.core).ferr) := by
  obtain ⟨t, ht⟩ : ∃ t, (s.dropInflight x).land (s.opLaunch x).owner x.core x.block ⟨lineBytes block, false, []⟩ = some t := by
    rw [← Option.isSome_iff_exists, State.land_isSome_iff, lineBytes_length]
    exact hroom
  obtain ⟨⟨hmem, hls⟩, hw, hferr, hlaunch⟩ := State.land_leaves hc ht
  rw [State.msopDone_lands h hr hi hs hb, ht]
  dsimp only
  split
  · exact ⟨hmem, hw, fun _ => hferr⟩
  · next hst =>
    have hi' : t.imageOf (t.opLaunch x) x.core = none := by
      rw [State.imageOf, hlaunch, State.opLaunch, State.launch?_congr hls]
      exact hi
    obtain ⟨hm, hv⟩ := State.recordFerr_core hi' (ferrWord false 3 x.tc x.node x.seq)
    exact ⟨hm.trans hmem, hv ▸ hw, fun hz => absurd hz hst⟩

end

end Sys2Proof.Machine
end

section
/-! Additions combined in the router and the links of the torus (R202 to R204, R210). -/

namespace Sys2Proof.Machine

/-! ### Answers to every contribution -/

/-- The answers to an operation, one for each contribution. -/
def answersOf (p : RemoteOp) (node : BitVec 12) (ok : Bool) (tc : BitVec 8) (key missed : Bool) (data : Line) (sec : Bool) : List RemoteAck :=
  (opParts p).map fun m => ⟨m.1, node, m.2.1, ok, tc, key, missed, false, data, sec⟩

theorem State.ackOp_eq (s : State) (p : RemoteOp) (ok : Bool) (tc : BitVec 8) (key missed : Bool) (data : Line) (sec : Bool) :
    s.ackOp p ok tc key missed data sec = { s with acks := s.acks ++ answersOf p s.nodeId ok tc key missed data sec } := by
  unfold State.ackOp answersOf
  generalize opParts p = l
  induction l generalizing s with
  | nil => simp
  | cons m l ih =>
    rw [List.foldl_cons, ih, List.map_cons, List.append_cons]
    rfl

theorem exists_answersOf {p : RemoteOp} {e : BitVec 12 × BitVec 32 × Agent} (h : e ∈ opParts p) (node : BitVec 12) (ok : Bool) (tc : BitVec 8)
    (key missed : Bool) (data : Line) (sec : Bool) :
    ∃ y ∈ answersOf p node ok tc key missed data sec, y.src = e.1 ∧ y.seq = e.2.1 ∧ y.ok = ok ∧ y.key = key :=
  ⟨_, List.mem_map_of_mem h, rfl, rfl, rfl, rfl⟩

/-! ### Combined additions -/

/-- The entries of a numbered list but one are those of the list without it. -/
theorem filter_zipIdx_ne {α : Type} (l : List α) (k i : Nat) : ((l.zipIdx k).filter fun x => x.2 != k + i) = (l.zipIdx k).eraseIdx i := by
  induction l generalizing k i with
  | nil => rfl
  | cons a l ih =>
    rw [List.zipIdx_cons]
    cases i with
    | zero =>
      rw [List.filter_cons_of_neg (by simp), List.eraseIdx_cons_zero, List.filter_eq_self.2]
      intro x hx
      have := List.le_snd_of_mem_zipIdx hx
      simp only [bne_iff_ne]
      omega
    | succ i =>
      rw [List.filter_cons_of_pos (by simp), List.eraseIdx_cons_succ, ← ih, Nat.add_assoc, Nat.add_comm 1 i]

/-- A list in which one entry is replaced and a later one is left out. -/
theorem getElem?_merged {α : Type} {l : List α} {lo hi : Nat} {a : α} (ha : l[lo]? = some a) (h : lo < hi) (y : α) (n : Nat) :
    ((l.zipIdx.filter fun x => x.2 != hi).map fun x => if x.2 = lo then y else x.1)[n]? =
      if n = lo then some y else l[if n < hi then n else n + 1]? := by
  have hf := filter_zipIdx_ne l 0 hi
  rw [Nat.zero_add] at hf
  rw [hf, List.getElem?_map, List.getElem?_eraseIdx]
  by_cases hlo : n = lo
  · subst hlo
    simp [h, ha]
  · by_cases hhi : n < hi
    · simp [hhi, hlo, Function.comp_def]
    · have hne : ¬n + 1 = lo := by omega
      simp [hhi, hlo, hne, Function.comp_def]

section
variable {s : State} {a b : RemoteOp} {i j : Nat}

/-- The operation that two combined additions make, in the place of the first. -/
def sumOf (a b : RemoteOp) (cur : BitVec 8) : RemoteOp :=
  { a with data := BitVec.ofNat 512 (rstSum a.ty a.data.toNat b.data.toNat), sec := a.sec || b.sec, gen := cur, more := a.more ++ opParts b }

/-- Only additions are combined. -/
theorem kind_of_combinable (h : combinable a b = true) : a.kind = .rst ∧ a.add = true := by
  simp only [combinable, Bool.and_eq_true, beq_iff_eq] at h
  obtain ⟨⟨⟨⟨⟨⟨⟨⟨⟨⟨⟨-, hk⟩, -⟩, ha⟩, -⟩, -⟩, -⟩, -⟩, -⟩, -⟩, -⟩, -⟩ := h
  exact ⟨hk, ha⟩

variable (ha : s.net[min i j]? = some a) (hb : s.net[max i j]? = some b)
include ha hb

theorem State.combine_apart (h : i = j ∨ combinable a b = false ∨ s.opBehind a = true ∨ s.opBehind b = true) : s.combine i j = s := by
  rw [State.combine, ha, hb]
  exact if_pos (by rcases h with h | h | h | h <;> simp [h])

variable (hij : i ≠ j) (hc : combinable a b = true) (hba : s.opBehind a = false) (hbb : s.opBehind b = false)
include hij hc hba hbb

/-- Two additions under accepted generations are combined. -/
theorem State.combine_sum (hga : genOk (s.fnRegs a.fn.val).fabricGen a.gen = true) (hgb : genOk (s.fnRegs a.fn.val).fabricGen b.gen = true) :
    s.combine i j = { s with
      net := (s.net.zipIdx.filter fun x => x.2 != max i j).map fun x =>
        if x.2 = min i j then sumOf a b (s.fnRegs a.fn.val).fabricGen else x.1 } := by
  rw [State.combine, ha, hb]
  simp only [hij, hc, hba, hbb, hga, hgb, decide_false, Bool.not_true, Bool.or_self, Bool.and_self, Bool.false_eq_true, if_true, if_false]
  rfl

/-- The sum stands in the place of the first addition with the contributions of both, and the second leaves the router. -/
theorem State.combine_merges (hga : genOk (s.fnRegs a.fn.val).fabricGen a.gen = true) (hgb : genOk (s.fnRegs a.fn.val).fabricGen b.gen = true) :
    s.combine i j = { s with net := (s.combine i j).net } ∧ ∃ e : RemoteOp,
      (∀ n, (s.combine i j).net[n]? = if n = min i j then some e else s.net[if n < max i j then n else n + 1]?) ∧ e.kind = .rst ∧
      e.add = true ∧ e.addr = a.addr ∧ e.src = a.src ∧ e.seq = a.seq ∧ opParts e = opParts a ++ opParts b ∧
      e.gen = (s.fnRegs a.fn.val).fabricGen ∧ e.data = BitVec.ofNat 512 (rstSum a.ty a.data.toNat b.data.toNat) := by
  obtain ⟨hkind, hadd⟩ := kind_of_combinable hc
  have hlt : min i j < max i j := by omega
  rw [State.combine_sum ha hb hij hc hba hbb hga hgb]
  exact ⟨rfl, sumOf a b _, getElem?_merged ha hlt _, hkind, hadd, rfl, rfl, rfl, rfl, rfl, rfl⟩

/-- Two additions of which one is under an older generation are aborted. -/
theorem State.combine_aborts (hg : genOk (s.fnRegs a.fn.val).fabricGen a.gen = false ∨ genOk (s.fnRegs a.fn.val).fabricGen b.gen = false) :
    (s.combine i j).net = (s.net.zipIdx.filter fun e => e.2 != i && e.2 != j).map Prod.fst ∧ (s.combine i j).mem = s.mem ∧
      ∀ e ∈ opParts a ++ opParts b, ∃ y ∈ (s.combine i j).acks, y.src = e.1 ∧ y.seq = e.2.1 ∧ y.ok = false ∧ y.key = true := by
  have hno : (genOk (s.fnRegs a.fn.val).fabricGen a.gen && genOk (s.fnRegs a.fn.val).fabricGen b.gen) = false := by
    rcases hg with hg | hg <;> simp [hg]
  have hnet : ((s.net.zipIdx.filter fun x => x.2 != max i j).filter fun x => x.2 != min i j) =
      s.net.zipIdx.filter fun e => e.2 != i && e.2 != j := by
    rw [List.filter_filter]
    refine List.filter_congr fun x _ => ?_
    rcases Nat.le_total i j with h | h
    · rw [Nat.min_eq_left h, Nat.max_eq_right h]
    · rw [Nat.min_eq_right h, Nat.max_eq_left h, Bool.and_comm]
  have heq : s.combine i j = { s with
      net := (s.net.zipIdx.filter fun e => e.2 != i && e.2 != j).map Prod.fst
      acks := s.acks ++ answersOf a s.nodeId false cKEY true false 0 false ++ answersOf b s.nodeId false cKEY true false 0 false } := by
    rw [State.combine, ha, hb]
    simp only [hij, hc, hba, hbb, hno, decide_false, Bool.not_true, Bool.or_self, Bool.false_eq_true, if_false, hnet, State.ackOp_eq]
    rfl
  rw [heq]
  refine ⟨rfl, rfl, fun e he => ?_⟩
  rcases List.mem_append.1 he with he | he
  · obtain ⟨y, hy, h⟩ := exists_answersOf he s.nodeId false cKEY true false 0 false
    exact ⟨y, List.mem_append_left _ (List.mem_append_right _ hy), h⟩
  · obtain ⟨y, hy, h⟩ := exists_answersOf he s.nodeId false cKEY true false 0 false
    exact ⟨y, List.mem_append_right _ hy, h⟩

end

/-! ### Links -/

/-- A change of a link changes no other link. -/
theorem State.linkOf_modLink (s : State) (l : Fin 6) (f : Link → Link) (d : Nat) :
    (s.modLink l.val f).linkOf d = if d = l.val then f (s.linkOf l.val) else s.linkOf d := by
  split
  · next h => rw [h]; exact vget_vset_same _ _ _ _ l.isLt
  · next h => exact vget_vset_ne _ _ _ _ _ (Ne.symm h)

theorem gives_modLink {i : Instr} {s : State} {l : Fin 6} {f : Link → Link} (h : exec i s = .next (s.modLink l.val f)) :
    Gives (exec i s) fun t => t = { s with links := t.links } ∧ ∀ d, t.linkOf d = if d = l.val then f (s.linkOf l.val) else s.linkOf d :=
  ⟨_, h, rfl, s.linkOf_modLink l f⟩

end Sys2Proof.Machine
end

section
/-! Messages as they arrive at the Retriever, and as they are sent (R211 to R214). -/

namespace Sys2Proof.Machine

/-! ### A message at its target -/

theorem State.writeDirect_memoryOnly (s : State) (owner : BitVec 8) (a : Nat) (bs : List Byte) : MemoryOnly s (s.writeDirect owner a bs) :=
  (s.dirtied_memoryOnly a bs.length).trans rfl

theorem State.hbmRequest_memoryOnly (s : State) (pa bytes fn cls : Nat) (stamp : BitVec 16) :
    MemoryOnly s (s.hbmRequest pa bytes fn cls stamp) := rfl

/-- The payload of a queued message changes memory alone. -/
theorem State.putPayload_memoryOnly (s : State) (fn : Nat) (ps : List (Nat × Nat)) (bs : List Byte) : MemoryOnly s (s.putPayload fn ps bs) := by
  induction ps generalizing s bs with
  | nil => exact .refl s
  | cons p ps ih =>
    have huse : MemoryOnly s (s.overflowUse fn p.1 p.2) := MemoryOnly.foldl (fun t _ => t.hbmRequest_memoryOnly _ _ _ _ _) _ s
    exact (huse.trans (State.writeDirect_memoryOnly _ _ _ _)).trans (ih _ _)

/-- A message that the Retriever queues comes last. -/
theorem State.queueMessage_queues (s : State) (m : Message) (fn : Nat) : (s.queueMessage m fn).posted = s.posted ∧
    (s.queueMessage m fn).unexpected = s.unexpected ++ [⟨{ m with bytes := [] }, fn, m.bytes.length, s.overflowPlaces fn m.bytes.length⟩] := by
  have hput := s.putPayload_memoryOnly fn (s.overflowPlaces fn m.bytes.length) m.bytes
  have hp := congrArg State.posted hput
  have hu := congrArg State.unexpected hput
  exact ⟨hp, congrArg (· ++ _) hu⟩

/-- A landing that begins is its core's last. -/
theorem State.beginLanding_lands (s : State) {p : Posted} (hc : p.core < 384) (m : Message) (owed : Bool) :
    ∃ e : Landing, ((s.beginLanding p m owed).core p.core).lands = (s.core p.core).lands ++ [e] ∧ e.msg = m ∧ e.body = p.body ∧ e.owed = owed := by
  refine ⟨⟨p.launch, p.fn, m, p.desc, p.body, 0, none, false, owed, p.user, (s.core p.core).takeTicket.1⟩, ?_, rfl, rfl, rfl⟩
  rw [State.beginLanding, State.core_modCore _ _ _ _ hc, if_pos rfl]
  rfl

section
variable {s : State} {m : Message} {y : Posted}

theorem State.ackMessage_handled (s : State) (m : Message) (ok full : Bool) (tc : BitVec 8) :
    ((s.handled m).ackMessage m ok tc full).posted = s.posted ∧ ((s.handled m).ackMessage m ok tc full).unexpected = s.unexpected := ⟨rfl, rfl⟩

theorem State.msgArrive_behind (h : s.msgBehind m = true) : s.msgArrive m = s := by
  rw [State.msgArrive, if_pos h]

theorem State.msgArrive_here (h : s.msgBehind m = false) (hd : m.dst = s.nodeId) :
    s.msgArrive m = State.retrArrive { s with netMsgs := dropFirst (fun e => e == m) s.netMsgs } m := by
  rw [State.msgArrive, h, if_neg Bool.false_ne_true, if_pos hd]

theorem State.retrArrive_seen (h : s.freshSeq m.src m.seq = false) : s.retrArrive m = s := by
  rw [State.retrArrive, h]
  rfl

section
variable (hf : s.freshSeq m.src m.seq = true)
include hf

/-- A message whose context is not bound to its function is refused. -/
theorem State.retrArrive_unbound (hb : s.ctxBound m = false) : s.retrArrive m = (s.handled m).ackMessage m false cMSG false := by
  rw [State.retrArrive, hf, hb]
  rfl

variable (hb : s.ctxBound m = true)
include hb

theorem State.retrArrive_stopped (h : (s.fnRegs m.fn.val).retrStopped = true ∨ s.afterTurned m = true) : s.retrArrive m = s.turnAway m := by
  have hor : ((s.fnRegs m.fn.val).retrStopped || s.afterTurned m) = true := by simpa using h
  rw [State.retrArrive, hf, hb, hor]
  rfl

variable (hr : (s.fnRegs m.fn.val).retrStopped = false) (ht : s.afterTurned m = false)
include hr ht

/-- A message that its function takes is matched, queued, or turned away. -/
theorem State.retrArrive_taken : s.retrArrive m =
    match s.posted.find? fun e => e.fn == m.fn.val && descMatches e.body m with
    | some y => (State.handled { s with posted := dropFirst (fun e => e.entry == y.entry) s.posted } m).beginLanding y m true
    | none => if s.queueRoom m then ((s.queueMessage m m.fn.val).handled m).ackMessage m true 0 false else s.turnAway m := by
  rw [State.retrArrive, hf, hb, hr, ht]
  rfl

/-- A message that a posted receive matches begins to land on its core. -/
theorem State.retrArrive_matched (hm : s.posted.find? (fun e => e.fn == m.fn.val && descMatches e.body m) = some y) (hc : y.core < 384) :
    (s.retrArrive m).posted = dropFirst (fun e => e.entry == y.entry) s.posted ∧ (s.retrArrive m).unexpected = s.unexpected ∧
      ∃ e : Landing, ((s.retrArrive m).core y.core).lands = (s.core y.core).lands ++ [e] ∧ e.msg = m ∧ e.body = y.body ∧ e.owed = true := by
  rw [State.retrArrive_taken hf hb hr ht, hm]
  exact ⟨rfl, rfl, State.beginLanding_lands _ hc m true⟩

variable (hm : s.posted.find? (fun e => e.fn == m.fn.val && descMatches e.body m) = none)
include hm

theorem State.retrArrive_queued (hq : s.queueRoom m = true) :
    (s.retrArrive m).posted = s.posted ∧ (s.retrArrive m).unexpected =
      s.unexpected ++ [⟨{ m with bytes := [] }, m.fn.val, m.bytes.length, s.overflowPlaces m.fn.val m.bytes.length⟩] := by
  obtain ⟨hp, hu⟩ := (s.queueMessage m m.fn.val).ackMessage_handled m true false 0
  obtain ⟨hp', hu'⟩ := s.queueMessage_queues m m.fn.val
  rw [State.retrArrive_taken hf hb hr ht, hm]
  dsimp only
  rw [if_pos hq]
  exact ⟨hp.trans hp', hu.trans hu'⟩

theorem State.retrArrive_full (hq : s.queueRoom m = false) : s.retrArrive m = s.turnAway m := by
  rw [State.retrArrive_taken hf hb hr ht, hm]
  exact if_neg (by simp [hq])

end

end

/-! ### A message that is sent again, or no longer -/

section
variable {s : State} {x : Inflight} {m : Message} {n t0 : Nat}

/-- A message that was turned away is sent again when its time comes. -/
theorem State.trySend_again (hm : x.msg = some m) (hs : x.sent = none) (ht : x.retryAt = some t0) :
    s.trySend x = if t0 ≤ s.cycle then s.sendMsg x m else s := by
  simp [State.trySend, hm, hs, ht]

theorem State.sendMsg_netMsgs (s : State) (x : Inflight) (m : Message) : (s.sendMsg x m).netMsgs = s.netMsgs ++ [m] := by
  unfold State.sendMsg State.countFabric
  extract_lets u
  split <;> rfl

theorem State.recordFerr_inflight (s : State) (x : Inflight) (w : Word) : (s.recordFerr x w).inflight = s.inflight := by
  unfold State.recordFerr
  split
  · rfl
  · split
    · split
      · rfl
      · exact (congrArg State.inflight (s.writeDirect_memoryOnly _ _ _) :)
    · rfl

/-- A message without a barrier that fails is no longer in flight. -/
theorem State.failOp_message (hk : x.kind = 4) (hb : x.bar = none) (out : Bool) (tc cause : BitVec 8) :
    (s.failOp x out tc cause).inflight = dropFirst (fun e => e.node == x.node && e.seq == x.seq) s.inflight := by
  have heq : s.failOp x out tc cause = (s.dropInflight x).recordFerr x (ferrWord out 4 tc x.node x.seq) := by
    simp only [State.failOp, hk, State.settleBar_none hb]
    exact if_neg (by decide)
  rw [heq, State.recordFerr_inflight]
  rfl

theorem State.msgTimeout_none (h : s.inflight[n]? = none) : s.msgTimeout n = s := by
  rw [State.msgTimeout, h]

/-- A message fails 1 ms after it was issued. -/
theorem State.msgTimeout_some (h : s.inflight[n]? = some x) : s.msgTimeout n =
    if x.kind = 4 ∧ x.retryAt ≠ none ∧ x.issued + 3300000 ≤ s.cycle then s.failOp x false cMSG cMSG else s := by
  rw [State.msgTimeout, h]
  simp only [Option.isSome_iff_ne_none, sendLimit, slotsPerUs]

end

end Sys2Proof.Machine
end

section
/-! Landings: their core's list is shortened as the oldest completes, and by nothing on the way (R215, R218). -/

namespace Sys2Proof.Machine

/-! ### What keeps the landings of every core -/

/-- The same landings on every core. -/
def KeepsLands (s t : State) : Prop := ∀ d, (t.core d).lands = (s.core d).lands

namespace KeepsLands
variable {s t u : State}

theorem refl (s : State) : KeepsLands s s := fun _ => rfl

theorem trans (a : KeepsLands s t) (b : KeepsLands t u) : KeepsLands s u := fun d => (b d).trans (a d)

theorem of_cores (h : t.cores = s.cores) : KeepsLands s t := fun d => by rw [State.core, h]; rfl

theorem of_accesses {c : Option Nat} (h : Accesses c s t) : KeepsLands s t := fun d => (congrArg Core.lands (h.core d) :)

theorem of_memoryOnly (h : MemoryOnly s t) : KeepsLands s t := .of_accesses (c := none) (.of_memoryOnly h)

theorem modCore (s : State) (n : Nat) {f : Core → Core} (hf : ∀ k, (f k).lands = k.lands) : KeepsLands s (s.modCore n f) :=
  State.core_modCore_keeps Core.lands s n (hf _)

theorem foldl {α : Type} {f : State → α → State} (h : ∀ s x, KeepsLands s (f s x)) (l : List α) (s : State) : KeepsLands s (l.foldl f s) := by
  induction l generalizing s with
  | nil => exact .refl s
  | cons x l ih => exact (h s x).trans (ih _)

end KeepsLands

section
variable (s : State)

/-! ### Bytes written for an engine -/

theorem State.takeShadow_cores {t : State} {l : Launch} {copy1 : Bool} {va pa n : Nat} (h : s.takeShadow l copy1 va pa n = some t) :
    t.cores = s.cores := by
  have hreq (u : State) (a k : Nat) : (u.launchRequest l l.fn a k).cores = u.cores := by
    unfold State.launchRequest State.charge
    split <;> rfl
  have hdirt (u : State) (a k : Nat) : (u.dirtied a k).cores = u.cores := (congrArg State.cores (u.dirtied_memoryOnly a k) :)
  unfold State.takeShadow at h
  extract_lets page lines note at h
  split at h
  · cases h; rfl
  · split at h
    · cases h
    · cases h
      have hnote (u : State) (z : List ShadowPage) (hu : u.cores = s.cores) : (note { u with shadows := z }).cores = s.cores := hu
      exact hnote _ _ (by rw [State.copyPage_cores, hdirt, hreq, hreq])

theorem State.writePieces_keepsLands {s t : State} {m : MCtx} {va : Nat} {sec : Bool} {ps : List Piece} {bs : List Byte}
    (h : s.writePieces m va sec ps bs = some t) : KeepsLands s t := by
  induction ps generalizing s va bs with
  | nil => cases h; exact .refl _
  | cons p ps ih =>
    simp only [State.writePieces] at h
    split at h
    · exact ih h
    · split at h
      · cases h
      · next u hu =>
        have hs : KeepsLands s u := by
          split at hu
          · exact .of_cores (s.takeShadow_cores hu)
          · cases hu; exact .refl _
        have hd (b : Bool) (pa n : Nat) : KeepsLands u (if b then u.dirtied pa n else u) := by
          split
          · exact .of_memoryOnly (u.dirtied_memoryOnly _ _)
          · exact .refl u
        have hl (v : State) (pa : Nat) := KeepsLands.of_accesses (v.useLines_accesses m.x.core (m.use p.page.ca) m.x.fn m.launch true pa p.len)
        exact ((hs.trans (hd _ _ _)).trans (hl _ _)).trans (KeepsLands.trans (.of_accesses (State.writePhys_accesses none _ _ _ _ _)) (ih h))

theorem State.endLaunch_keepsLands (id : Nat) (st : Status) (detail : BitVec 8) (frank : Nat) : KeepsLands s (s.endLaunch id st detail frank) := by
  unfold State.endLaunch
  split
  · exact .refl s
  · split
    · exact State.core_modCores_keeps Core.lands (f := Core.drain) (fun _ => rfl) _ _
    · exact .refl s

theorem State.writeGlobal_keepsLands (m : MCtx) (ptr : Word) (bs : List Byte) (sec : Bool) : KeepsLands s (s.writeGlobal m ptr bs sec).state := by
  have hc := KeepsLands.of_accesses (s.checkStore_accesses m ptr bs.length sec)
  unfold State.writeGlobal
  split <;> rename_i h <;> rw [h] at hc
  · exact hc
  · exact hc
  · split
    · next hw => exact hc.trans (State.writePieces_keepsLands hw)
    · exact hc.trans (State.endLaunch_keepsLands _ _ _ _ _)

theorem State.markEng_keepsLands (m : MCtx) (w : EngineWrite) (dst : Word) (n : Nat) : KeepsLands s (s.markEng m w dst n) := by
  unfold State.markEng
  refine KeepsLands.foldl (fun t a => ?_) _ s
  split
  · exact .of_cores rfl
  · exact .refl t

theorem State.writeDirect_keepsLands (owner : BitVec 8) (a : Nat) (bs : List Byte) : KeepsLands s (s.writeDirect owner a bs) :=
  .of_memoryOnly (s.writeDirect_memoryOnly owner a bs)

theorem State.land_keepsLands {s t : State} {owner : BitVec 8} {c off : Nat} {p : Parcel} (h : s.land owner c off p = some t) :
    KeepsLands s t := by
  rw [State.land_eq] at h
  split at h
  · rw [← Option.some.inj h]
    exact .modCore s c fun _ => rfl
  · cases h

theorem State.putIn_keepsLands (l : Launch) (c off : Nat) (bs : List Byte) (sec : Bool) : KeepsLands s (s.putIn l c off bs sec) := by
  unfold State.putIn
  split
  · exact .modCore s c fun _ => rfl
  · have hw := s.writeDirect_keepsLands
    dsimp only
    split
    · exact (hw _ _ _).trans (.foldl (fun t _ => t.writeDirect_keepsLands _ _ _) _ _)
    · exact hw _ _ _

theorem State.writeStatus_keepsLands {t : State} {l : Launch} {c : Nat} {user : Bool} {w : EngineWrite} {desc v : Word}
    (h : s.writeStatus l c user w desc v = .ok t ()) : KeepsLands s t := by
  unfold State.writeStatus at h
  extract_lets off at h
  split at h
  · have hg := s.writeGlobal_keepsLands (s.recvCtx l c user) (desc + 32) (wordBytes v) false
    split at h
    · next hw =>
      cases h
      rw [hw] at hg
      exact hg.trans (State.markEng_keepsLands _ _ _ _ _)
    · next hno => exact absurd h (hno _ _)
  · split at h
    · cases h; exact s.putIn_keepsLands _ _ _ _ _
    · cases h
      cases hl : s.land l.owner c off ⟨wordBytes v, false, []⟩ with
      | none => exact .refl s
      | some u => exact State.land_keepsLands hl

/-! ### Barriers and errors of an engine -/

theorem State.freezeOn_keepsLands (cause : BitVec 8) : KeepsLands s (s.freezeOn cause) := by
  unfold State.freezeOn
  split
  · exact .of_cores rfl
  · exact .refl s

theorem State.recordError_keepsLands (c path : Nat) (cause : BitVec 8) (boff : Nat) (addr : Word) :
    KeepsLands s (s.modCore c fun k => k.recordError path cause boff addr) := by
  refine .modCore s c fun k => ?_
  unfold Core.recordError
  split <;> rfl

theorem State.updBarBy_keepsLands (owner : BitVec 8) (c path off : Nat) (f : Bar → Bar × Bool) : KeepsLands s (s.updBarBy owner c path off f) := by
  unfold State.updBarBy State.updBarAs
  split
  · exact (s.recordError_keepsLands _ _ _ _ _).trans (State.freezeOn_keepsLands _ _)
  · dsimp only
    have hw (g : Vault → Vault) : KeepsLands s (s.modVault c g) := .modCore s c (f := fun k => { k with vault := g k.vault }) fun _ => rfl
    split
    · exact (hw _).trans (.modCore _ c fun _ => rfl)
    · exact hw _

theorem State.imageError_keepsLands (a path : Nat) (cause : BitVec 8) (boff : Nat) (addr : Word) :
    KeepsLands s (s.imageError a path cause boff addr) := by
  unfold State.imageError
  split
  · exact .refl s
  · exact s.writeDirect_keepsLands _ _ _

theorem State.updBarOf_keepsLands (l : Launch) (c path off : Nat) (f : Bar → Bar × Bool) : KeepsLands s (s.updBarOf l c path off f) := by
  unfold State.updBarOf
  split
  · exact s.updBarBy_keepsLands _ _ _ _ _
  · split
    · exact (s.imageError_keepsLands _ _ _ _ _).trans (State.freezeOn_keepsLands _ _)
    · exact s.writeDirect_keepsLands _ _ _

theorem State.errorOf_keepsLands (l : Launch) (c path : Nat) (cause : BitVec 8) (bar : Option Nat) (addr : Word) :
    KeepsLands s (s.errorOf l c path cause bar addr) := by
  have hbar (t : State) (f : Nat → State) (hf : ∀ off, KeepsLands t (f off)) : KeepsLands t (match bar with | some off => f off | none => t) := by
    cases bar with
    | none => exact .refl t
    | some off => exact hf off
  unfold State.errorOf
  split
  · unfold State.engineError
    exact ((s.recordError_keepsLands _ _ _ _ _).trans (State.freezeOn_keepsLands _ _)).trans (hbar _ _ fun _ => State.updBarBy_keepsLands _ _ _ _ _ _)
  · exact (s.imageError_keepsLands _ _ _ _ _).trans (hbar _ _ fun _ => State.updBarOf_keepsLands _ _ _ _ _ _)

theorem State.tileOn_keepsLands (l : Launch) (c : Nat) (t : Fin 32) (st : TileState) : KeepsLands s (s.tileOn l c t st) := by
  unfold State.tileOn
  split
  · split
    · exact .modCore s c fun _ => rfl
    · exact .refl s
  · exact s.writeDirect_keepsLands _ _ _

theorem State.recvDone_keepsLands (l : Launch) (c : Nat) (body : Line) : KeepsLands s (s.recvDone l c body) := by
  have hcount : KeepsLands s (s.countOf l c 5 (some (descBoff body)) (descSectors body)) := s.updBarOf_keepsLands _ _ _ _ _
  unfold State.recvDone
  dsimp only
  split
  · exact hcount.trans (State.tileOn_keepsLands _ _ _ _ _)
  · exact hcount

/-! ### The end of a landing -/

/-- The ticket of a landing changes no landing of its core, and of the landing the ticket alone. -/
theorem State.landTicket_keeps (c : Nat) (x : Landing) :
    KeepsLands s (s.landTicket c x).1 ∧ ((s.landTicket c x).2.desc = x.desc ∧ (s.landTicket c x).2.user = x.user ∧
      (s.landTicket c x).2.msg = x.msg) ∧ (s.landTicket c x).2.need = x.need ∧ (s.landTicket c x).2.done = x.done := by
  unfold State.landTicket
  split
  · exact ⟨State.core_modCore_keeps Core.lands s c rfl, ⟨rfl, rfl, rfl⟩, rfl, rfl⟩
  · exact ⟨.refl s, ⟨rfl, rfl, rfl⟩, rfl, rfl⟩

end

section
variable {s v : State} {l : Launch} {c : Nat} {x : Landing}

/-- A landing whose STATUS is written completes. -/
theorem State.landEnd_done (hs : s.statusHeld l c x.desc = false)
    (hw : s.writeStatus l c x.user (x.write l c) x.desc (msgStatus x.msg) = .ok v ()) :
    KeepsLands s (s.landEnd l c x).1 ∧ (s.landEnd l c x).2 = none := by
  have hlong (b : Bool) : KeepsLands s (if b then v.errorOf l c 5 cMSG (some (descBoff x.body)) 0 else v) := by
    have hv := s.writeStatus_keepsLands hw
    split
    · exact hv.trans (v.errorOf_keepsLands _ _ _ _ _ _)
    · exact hv
  unfold State.landEnd
  rw [hs, hw]
  have hdone := (hlong (decide (descLen x.body < x.msg.bytes.length))).trans (State.recvDone_keepsLands _ l c x.body)
  have hack (u : State) (b : Bool) (a : RemoteAck) : KeepsLands u (if b then u.sendAck a else u) := by
    split
    · exact .of_cores rfl
    · exact .refl u
  exact ⟨hdone.trans (hack _ _ _), rfl⟩

end

end Sys2Proof.Machine
end

section
/-! A core's oldest landing, and the statement on the fabric's steps (R100, R155, R202 to R215). -/

namespace Sys2Proof.Machine

/-! ### A core's oldest landing -/

section
variable {s v : State} {c : CoreId} {z : Landing}

theorem State.landRun_none (h : (s.core c.val).lands = []) : s.landRun c.val = s := by
  rw [State.landRun, h]

theorem State.landRun_missed {zs : List Landing} (h : (s.core c.val).lands = z :: zs) (hm : s.stillMissed z.missed = true) :
    s.landRun c.val = s := by
  rw [State.landRun, h]
  exact if_pos hm

/-- A landing all of whose bytes are in has no part to come. -/
theorem State.landParts_in (h : z.need ≤ z.done) (l : Launch) (n : Nat) : s.landParts l c.val n z = (s, z) := by
  cases n with
  | zero => rfl
  | succ n => rw [State.landParts, if_pos (by simp [h])]

/-- A landing whose bytes are in ends. -/
theorem State.landRun_in {zs : List Landing} (h : (s.core c.val).lands = z :: zs) (hm : s.stillMissed z.missed = false) (hn : z.need ≤ z.done) :
    let b := s.landTicket c.val { z with missed := none }
    let e := b.1.landEnd (s.recvLaunch z.launch z.fn) c.val b.2
    s.landRun c.val = e.1.modCore c.val fun k => { k with lands := match e.2 with
      | some y => y :: k.lands.drop 1
      | none => k.lands.drop 1 } := by
  intro b
  have hb : b.2.need ≤ b.2.done := by
    obtain ⟨-, -, hneed, hdone⟩ := s.landTicket_keeps c.val { z with missed := none }
    exact hdone ▸ hneed ▸ hn
  rw [State.landRun, h]
  dsimp only
  rw [hm, if_neg Bool.false_ne_true, State.landParts_in hb]
  dsimp only
  rw [if_pos (by simp [hb])] <;> rfl

/-- A landing whose bytes are in leaves its core's list once STATUS is written. -/
theorem State.landRun_done {zs : List Landing} (h : (s.core c.val).lands = z :: zs) (hm : s.stillMissed z.missed = false) (hn : z.need ≤ z.done) :
    let f := s.recvLaunch z.launch z.fn
    let r := s.landTicket c.val { z with missed := none }
    r.1.statusHeld f c.val z.desc = false → r.1.writeStatus f c.val z.user (r.2.write f c.val) z.desc (msgStatus z.msg) = .ok v () →
      ((s.landRun c.val).core c.val).lands = zs := by
  intro f r hs hw
  obtain ⟨hk, ⟨hdesc, huser, hmsg⟩, -⟩ := s.landTicket_keeps c.val { z with missed := none }
  obtain ⟨hend, hnone⟩ := State.landEnd_done (s := r.1) (x := r.2) (l := f) (c := c.val) (v := v)
    (by rw [hdesc]; exact hs) (by rw [hdesc, huser, hmsg]; exact hw)
  rw [State.landRun_in h hm hn, State.core_modCore_same, hnone]
  exact (congrArg (List.drop 1) (((hk.trans hend) c.val).trans h)).trans rfl

end

/-! ### The statement -/

/-- Settles O54: each step of the fabric by what it does to the packet, the operation or the message that it concerns. -/
theorem fabricSteps : Obligations.fabricSteps := by
  unfold Obligations.fabricSteps
  intro p a b k m n i j l c x y z ps data block tc sec t0 lk s v w acks here q cur link lk0
  refine ⟨⟨_, rfl, State.opArrive_behind, State.opArrive_seen, ?performs, State.opArrive_leaves, fun hd hn hr => State.opArrive_stays hd hn hr⟩,
    State.serve_rld, State.serve_rst, ⟨_, rfl, State.ackArrive_queued, ?onward, State.ackArrive_unknown, ?acked⟩,
    ⟨_, rfl, ?timeoutNone, State.opTimeout_idle, ?timeout⟩, ⟨_, rfl, State.msopDone_none, State.msopDone_early, ?msop⟩,
    ⟨_, rfl, fun ha hb => ⟨State.combine_apart ha hb, State.combine_merges ha hb, State.combine_aborts ha hb⟩⟩,
    gives_modLink (f := Link.laneFail) rfl, gives_modLink (f := fun y => { y with paused := false }) rfl,
    gives_modLink (f := fun y => { y with gen := y.gen + 1, count := 0 }) rfl, rfl, ⟨_, rfl, State.msgArrive_behind, ?message⟩,
    ⟨_, rfl, ?retryNone, ?retry⟩, ⟨_, rfl, State.msgTimeout_none, ?given, ?expired⟩,
    ⟨_, rfl, State.landRun_none, fun zs => State.landRun_missed, fun zs h hm hn _ => State.landRun_done h hm hn⟩⟩
  case performs =>
    intro hd hb hf
    rw [State.opArrive_performs hd hb hf]
    exact ⟨State.performOp_done, State.performOp_refused⟩
  case onward =>
    exact fun hs hn => ⟨State.ackArrive_lost hs hn, State.ackArrive_leaves hs hn⟩
  case acked =>
    intro hs hf hok hmiss
    refine ⟨fun hk hb => ?_, fun hk hc hh ha => ?_, fun hk => ?_⟩
    · rw [State.ackArrive_found hs hf (by omega), State.ackTo_store hok hmiss hk hb]
      rfl
    · rw [State.ackArrive_found hs hf (by omega), State.ackTo_value hok hmiss hk]
      exact State.giveValue_awaited (s := State.dropInflight acks x) hc hh ha _ _
    · rw [State.ackArrive_found hs hf (by omega), State.ackTo_msop hok hmiss hk]
      exact State.takeResult_keeps (s := acks) (List.mem_of_find?_eq_some hf) k
  case timeoutNone =>
    intro h
    rw [State.opTimeout, h]
  case timeout =>
    intro h hs hr
    rw [State.opTimeout_sent h hs hr]
    refine ⟨fun ht => if_pos ht, fun ht hk hb hc hh => ?_⟩
    rw [if_neg (Nat.not_lt.2 ht)]
    exact State.failOp_store hk hb hc hh true 0 cFABRIC
  case msop =>
    intro h hr hi hs hb hc room
    refine ⟨State.msopDone_full h hr hi hs hb, fun hroom => ?_⟩
    obtain ⟨hmem, hw, hferr⟩ := State.msopDone_room h hr hi hs hb hc hroom
    refine ⟨hmem, hw, fun hz => hferr ?_⟩
    rw [bf, bitsOf, hz, Nat.zero_mod]
  case message =>
    intro hb hd
    rw [State.msgArrive_here hb hd]
    exact ⟨State.retrArrive_seen, State.retrArrive_unbound, State.retrArrive_stopped, fun hf hx hr ht =>
      ⟨State.retrArrive_matched hf hx hr ht, State.retrArrive_queued hf hx hr ht, State.retrArrive_full hf hx hr ht⟩⟩
  case retryNone =>
    intro h
    rw [h]
  case retry =>
    intro h hm hs ht
    rw [h]
    dsimp only
    rw [State.trySend_again hm hs ht]
    refine ⟨fun hlt => if_neg (Nat.not_le.2 hlt), fun hle => ?_⟩
    rw [if_pos hle]
    exact ⟨s.sendMsg_netMsgs x m, s.sendMsg_mem x m⟩
  case given =>
    intro h hx
    rw [State.msgTimeout_some h, if_neg hx]
  case expired =>
    intro h hk hr ht hb
    rw [State.msgTimeout_some h, if_pos ⟨hk, hr, ht⟩]
    exact State.failOp_message hk hb false cMSG cMSG

end Sys2Proof.Machine
end
